-- ==== Sys2Proof/Word.lean ====
section
/-!
DEFINITION. The word types of the FVK-1024 and their plainest arithmetic.
A word is 64 bits (01 R16), a line is 128 bytes = 1,024 bits (05 R116), a lane is 16 bits (01 R15),
an accumulator word is 40 bits (08 R193).
-/

namespace Sys2Proof

/-- A byte of memory. -/
abbrev Byte := BitVec 8
/-- A lane: 16 bits (R15). -/
abbrev Lane := BitVec 16
/-- A scalar-wide value: 64 bits. -/
abbrev Word := BitVec 64
/-- A VRF line: 128 bytes. -/
abbrev Line := BitVec 1024
/-- An accumulator word: 40 bits (R53). -/
abbrev Acc40 := BitVec 40

/-- Bits `lo .. lo+len-1` of a bit vector, as a number. -/
def bits {n : Nat} (w : BitVec n) (lo len : Nat) : Nat := (w.toNat >>> lo) % 2 ^ len

end Sys2Proof
end

