-- ==== Sys2Proof/Syntax.lean ====
section
/-!
DEFINITION. The syntax of the machine: one constructor for each row of spec/opcode_table.json, the rows with an
encoding before the steps and events, each part in the table's order.
A constructor of an encoded row carries the row's fields; a constructor of a step or event without an encoding
carries what picks the step out (a core, a die, a channel, a context) and what an agent outside the package brings.
Core numbers run 0..1023: stage die * 128 + cluster * 16 + core (00 R5).
-/

namespace Sys2Proof

/-- The fields of a move slot that triggers an operation: `g` is the guard G[3:0] (invert, predicate), `s` the source
id and `m` the trigger modifier (R11). The destination id is the operation's. -/
structure Slot where
  g : BitVec 4
  s : BitVec 12
  m : BitVec 4
  deriving DecidableEq, Repr

/-- The fields of a trigger slot whose modifier is fixed by the operation (a sub-form of WIDF, PHASE, ACCTS, CPGO or
LSTAT). -/
structure Slot0 where
  g : BitVec 4
  s : BitVec 12
  deriving DecidableEq, Repr

/-- What the checks of a line report beside a clean read (03 R77, R78, R80, R81): an error that ECC corrected or could
not, with its syndrome, or a CRC mismatch at the landing, with the received and computed CRC. -/
inductive ReadEvent where
  | corrected (syn : BitVec 64)
  | uncorrectable (syn : BitVec 64)
  | crc (sums : BitVec 64)
  deriving DecidableEq, Repr

/-- A step of a queue or a tier command, number `n`, and what the checks of the line that it reads report beside a clean read. -/
structure LineRead where
  n : Nat
  ev : Option ReadEvent := none
  deriving DecidableEq, Repr

/-- A spilled entry of context `ctx` comes back, its lines `bad` poisoned in CXL memory (03 R82). -/
structure EntryReturn where
  ctx : Nat
  bad : List Nat := []
  deriving DecidableEq, Repr

/-- The lease slot that an answer is for, and the package that answers (03 R88). -/
structure LeaseAnswer where
  slot : Nat
  lender : Nat
  deriving DecidableEq, Repr

/-- An error of a landing: its syndrome, the element among those in hand in whose line it is, and whether it is the results of
the duplicated converter that differ (03 R80, R81). -/
structure LandingError where
  syn : BitVec 64
  n : Nat := 0
  conv : Bool := false
  deriving DecidableEq, Repr

/-- The replay of a flit: the UCIe link 0..11 or Iluari link + 12, and whether the replayed flit passed its CRC (14 R317). -/
structure FlitReplay where
  link : Nat
  good : Bool
  deriving DecidableEq, Repr

/-- What reaches the stage manager as a lender (03 R88, R89): a request for units; the return of a range; its own decision to
revoke a range. -/
inductive LenderAct where
  | ask (units : Nat)
  | back
  | revoke
  deriving DecidableEq, Repr

/-- What a fabric access asks of this package (R320, R322). -/
inductive FabricOp where
  /-- A read of `n` bytes. -/
  | read (n : Nat)
  /-- A write of the bytes. -/
  | write (bytes : List (BitVec 8))
  /-- An at operation: the operation's destination id and its two operands. -/
  | atomic (op : Nat) (x y : BitVec 64)
  /-- A reduce copy of core `core` with slot tag `tag`, accepted at timestamp `since`, enters SLOT for the home of the address
  (R101, R198). -/
  | slotAsk (core tag since : Nat)
  /-- It is aborted: it waits no longer, and an admission of it ends (R106, R199). -/
  | slotAbort (core tag : Nat)
  /-- One of its adds, to the word at the address; whether it is its last. -/
  | slotAdd (core tag : Nat) (v : BitVec 40) (last : Bool)
  deriving DecidableEq, Repr

/-- A fabric access arriving from another package (R322): the wing die it enters, the DCID it carries, its source
rank, the target atlas address or (for `hbm`) the local HBM byte address, and the operation. -/
structure FabricAccess where
  wing : Nat
  dcid : BitVec 16
  rank : Nat
  hbm : Bool
  addr : Nat
  op : FabricOp
  /-- The agent of that package that makes the access: its accesses to one line keep their order (R319). -/
  agent : Nat := 0
  /-- A write is a copy's, not an STA (12 R287). -/
  copy : Bool := false
  deriving DecidableEq, Repr

/-- The stage dies that a debug command acts on: the die of the block, or with `pkg` every one (17 R353). -/
structure DebugDies where
  die : Nat
  pkg : Bool := false
  deriving DecidableEq, Repr

/-- What the silicon reports to the stage manager at bring-up (R359..R361): links and stacks that trained, the fuse
serials, CXL devices, the RANK and DSIZE learnt, the calibration values of the pairs, and the pairs left bad. -/
structure BringUpReport where
  ringUp : BitVec 12
  hbmOk : Bool
  fuseOk : Bool
  calOk : Bool
  cxlOk : Bool
  /-- A CXL device is attached. -/
  cxl : Bool
  linkUp : BitVec 16
  fabricOk : Bool
  rank : BitVec 10
  dsize : BitVec 11
  ts : BitVec 64
  calver : BitVec 16
  /-- Pairs left unowned: (core * 8 + pair). -/
  bad : List Nat
  /-- Calibrated symmetry registers: (core * 8 + pair, s_row bytes, s_col bytes). -/
  sym : List (Nat × List (BitVec 8) × List (BitVec 8))
  /-- Units of 128 MiB that the stage manager puts into its lendable pool (03 R88). -/
  pool : List Nat
  deriving DecidableEq, Repr

/-- The instructions: one constructor per row of spec/opcode_table.json, the slot operations first, then the steps and
events without an encoding. -/
inductive Instr where
  /-- BUNDLE_ISSUE (R19). -/
  | bundleIssue (b : BitVec 256)
  /-- MOVE (R15). -/
  | move (g : BitVec 4) (d s : BitVec 12) (m : BitVec 4)
  /-- HINT (R26). -/
  | hint (g : BitVec 4) (h : BitVec 8) (s : BitVec 12) (m : BitVec 4)
  /-- CNOP (R35). -/
  | cnop (e : BitVec 4)
  /-- BR (R35). -/
  | br (e : BitVec 4) (d : BitVec 22)
  /-- BRP (R35). -/
  | brp (e : BitVec 4) (v : BitVec 1) (p : BitVec 3) (d : BitVec 18)
  /-- CALL (R35). -/
  | call (e : BitVec 4) (d : BitVec 22)
  /-- RET (R35). -/
  | ret (e : BitVec 4)
  /-- JR (R35). -/
  | jr (e : BitVec 4) (n : BitVec 6)
  /-- LOOPM (R154). -/
  | loopm (e : BitVec 4) (l : BitVec 6) (t : BitVec 6) (n : BitVec 6)
  /-- LOOPX (R157). -/
  | loopx (e : BitVec 4)
  /-- LIT (R28). -/
  | lit (e : BitVec 4) (v : BitVec 22)
  /-- LITH (R28). -/
  | lith (e : BitVec 4) (v : BitVec 22)
  /-- SETFMT (R65). -/
  | setfmt (e : BitVec 4) (f : BitVec 12)
  /-- SETWIN (R150). -/
  | setwin (e : BitVec 4) (r : BitVec 7) (b : BitVec 15)
  /-- START (R151). -/
  | start (e : BitVec 4) (x : BitVec 6) (y : BitVec 6) (z : BitVec 6)
  /-- WAITE (R153). -/
  | waite (e : BitVec 4) (m : BitVec 8)
  /-- FENCE (R262). -/
  | fence (e : BitVec 4) (s : BitVec 3) (k : BitVec 3)
  /-- SUSPEND (R274). -/
  | suspend (e : BitVec 4) (k : BitVec 4) (n : BitVec 6) (d : BitVec 12)
  /-- YIELD (R275). -/
  | yield (e : BitVec 4)
  /-- TRAP (R35). -/
  | trap (e : BitVec 4) (c : BitVec 16)
  /-- RTRAP (R301). -/
  | rtrap (e : BitVec 4)
  /-- BKPT (R357). -/
  | bkpt (e : BitVec 4)
  /-- CHINT (R35). -/
  | chint (e : BitVec 4) (h : BitVec 4) (v : BitVec 22)
  /-- ADD (R159). -/
  | add (u : BitVec 1) (f : Slot)
  /-- SUB (R159). -/
  | sub (u : BitVec 1) (f : Slot)
  /-- MUL (R159). -/
  | mul (u : BitVec 1) (f : Slot)
  /-- MULH (R160). -/
  | mulh (u : BitVec 1) (f : Slot)
  /-- MULHU (R159). -/
  | mulhu (u : BitVec 1) (f : Slot)
  /-- DIV (R160). -/
  | div (u : BitVec 1) (f : Slot)
  /-- DIVU (R160). -/
  | divu (u : BitVec 1) (f : Slot)
  /-- REM (R160). -/
  | rem (u : BitVec 1) (f : Slot)
  /-- REMU (R160). -/
  | remu (u : BitVec 1) (f : Slot)
  /-- AND (R159). -/
  | and (u : BitVec 1) (f : Slot)
  /-- OR (R159). -/
  | or (u : BitVec 1) (f : Slot)
  /-- XOR (R159). -/
  | xor (u : BitVec 1) (f : Slot)
  /-- ANDN (R159). -/
  | andn (u : BitVec 1) (f : Slot)
  /-- ORN (R159). -/
  | orn (u : BitVec 1) (f : Slot)
  /-- SHL (R159). -/
  | shl (u : BitVec 1) (f : Slot)
  /-- SHR (R159). -/
  | shr (u : BitVec 1) (f : Slot)
  /-- SAR (R159). -/
  | sar (u : BitVec 1) (f : Slot)
  /-- ROL (R159). -/
  | rol (u : BitVec 1) (f : Slot)
  /-- MIN (R159). -/
  | min (u : BitVec 1) (f : Slot)
  /-- MAX (R159). -/
  | max (u : BitVec 1) (f : Slot)
  /-- MINU (R159). -/
  | minu (u : BitVec 1) (f : Slot)
  /-- MAXU (R159). -/
  | maxu (u : BitVec 1) (f : Slot)
  /-- CLZ (R159). -/
  | clz (u : BitVec 1) (f : Slot)
  /-- CTZ (R159). -/
  | ctz (u : BitVec 1) (f : Slot)
  /-- POPC (R159). -/
  | popc (u : BitVec 1) (f : Slot)
  /-- BSWAP (R159). -/
  | bswap (u : BitVec 1) (f : Slot)
  /-- SEXT (R160). -/
  | sext (u : BitVec 1) (f : Slot)
  /-- ZEXT (R160). -/
  | zext (u : BitVec 1) (f : Slot)
  /-- BEXT (R160). -/
  | bext (u : BitVec 1) (f : Slot)
  /-- CEQ (R159). -/
  | ceq (u : BitVec 1) (f : Slot)
  /-- CNE (R159). -/
  | cne (u : BitVec 1) (f : Slot)
  /-- CLT (R159). -/
  | clt (u : BitVec 1) (f : Slot)
  /-- CLTU (R159). -/
  | cltu (u : BitVec 1) (f : Slot)
  /-- CLE (R159). -/
  | cle (u : BitVec 1) (f : Slot)
  /-- CLEU (R159). -/
  | cleu (u : BitVec 1) (f : Slot)
  /-- CLMULL (R160). -/
  | clmull (u : BitVec 1) (f : Slot)
  /-- CLMULH (R160). -/
  | clmulh (u : BitVec 1) (f : Slot)
  /-- PASS (R159). -/
  | pass (u : BitVec 1) (f : Slot)
  /-- LEA (R159). -/
  | lea (u : BitVec 1) (f : Slot)
  /-- LDL (R139). -/
  | ldl (f : Slot)
  /-- LDS_B (R139). -/
  | ldsB (f : Slot)
  /-- LDS_H (R139). -/
  | ldsH (f : Slot)
  /-- LDS_W (R139). -/
  | ldsW (f : Slot)
  /-- LDS_D (R139). -/
  | ldsD (f : Slot)
  /-- LDSX_B (R139). -/
  | ldsxB (f : Slot)
  /-- LDSX_H (R139). -/
  | ldsxH (f : Slot)
  /-- LDSX_W (R139). -/
  | ldsxW (f : Slot)
  /-- STL (R140). -/
  | stl (f : Slot)
  /-- STLN (R140). -/
  | stln (f : Slot)
  /-- STLM (R140). -/
  | stlm (f : Slot)
  /-- STS_B (R140). -/
  | stsB (f : Slot)
  /-- STS_H (R140). -/
  | stsH (f : Slot)
  /-- STS_W (R140). -/
  | stsW (f : Slot)
  /-- STS_D (R140). -/
  | stsD (f : Slot)
  /-- LDA (R139). -/
  | lda (f : Slot)
  /-- STA (R140). -/
  | sta (f : Slot)
  /-- HMAKE (R141). -/
  | hmake (f : Slot)
  /-- HGIVE (R141). -/
  | hgive (f : Slot)
  /-- HTAKE (R141). -/
  | htake (f : Slot)
  /-- HREL (R141). -/
  | hrel (f : Slot)
  /-- VADD (R168). -/
  | vadd (f : Slot)
  /-- VSUB (R168). -/
  | vsub (f : Slot)
  /-- VMUL (R168). -/
  | vmul (f : Slot)
  /-- VFMA (R168). -/
  | vfma (f : Slot)
  /-- VFMS (R168). -/
  | vfms (f : Slot)
  /-- VNFMA (R168). -/
  | vnfma (f : Slot)
  /-- VMIN (R168). -/
  | vmin (f : Slot)
  /-- VMAX (R168). -/
  | vmax (f : Slot)
  /-- VABS (R168). -/
  | vabs (f : Slot)
  /-- VNEG (R168). -/
  | vneg (f : Slot)
  /-- VCLAMP (R168). -/
  | vclamp (f : Slot)
  /-- VSCALE (R169). -/
  | vscale (f : Slot)
  /-- VCMPLT (R170). -/
  | vcmplt (f : Slot)
  /-- VCMPLE (R170). -/
  | vcmple (f : Slot)
  /-- VCMPEQ (R170). -/
  | vcmpeq (f : Slot)
  /-- VSEL (R170). -/
  | vsel (f : Slot)
  /-- VSUM (R171). -/
  | vsum (f : Slot)
  /-- VMAXR (R171). -/
  | vmaxr (f : Slot)
  /-- VDOT (R171). -/
  | vdot (f : Slot)
  /-- VSTAT (R172). -/
  | vstat (f : Slot)
  /-- VBCAST (R173). -/
  | vbcast (f : Slot)
  /-- VSHUF (R173). -/
  | vshuf (f : Slot)
  /-- VWIDENL (R174). -/
  | vwidenl (f : Slot)
  /-- VWIDENH (R174). -/
  | vwidenh (f : Slot)
  /-- VNARROW (R174). -/
  | vnarrow (f : Slot)
  /-- VCVTIF (R175). -/
  | vcvtif (f : Slot)
  /-- VCVTFI (R175). -/
  | vcvtfi (f : Slot)
  /-- PPROB (R176). -/
  | pprob (f : Slot)
  /-- QNT (R177). -/
  | qnt (f : Slot)
  /-- DQNT (R179). -/
  | dqnt (f : Slot)
  /-- QSCALE (R177). -/
  | qscale (f : Slot)
  /-- EXP (R183). -/
  | exp (f : Slot)
  /-- EXP2 (R183). -/
  | exp2 (f : Slot)
  /-- LN (R183). -/
  | ln (f : Slot)
  /-- LOG2 (R183). -/
  | log2 (f : Slot)
  /-- RCP (R183). -/
  | rcp (f : Slot)
  /-- RSQRT (R183). -/
  | rsqrt (f : Slot)
  /-- SQRT (R183). -/
  | sqrt (f : Slot)
  /-- TANH (R183). -/
  | tanh (f : Slot)
  /-- SIGM (R183). -/
  | sigm (f : Slot)
  /-- GELU (R183). -/
  | gelu (f : Slot)
  /-- SILU (R183). -/
  | silu (f : Slot)
  /-- ERF (R183). -/
  | erf (f : Slot)
  /-- SVRST (R241). -/
  | svrst (f : Slot)
  /-- SVRD (R242). -/
  | svrd (f : Slot)
  /-- SVNOTE (R243). -/
  | svnote (f : Slot)
  /-- SVMERGE (R244). -/
  | svmerge (f : Slot)
  /-- SVTRAP (R245). -/
  | svtrap (f : Slot)
  /-- ALD (R253). -/
  | ald (f : Slot)
  /-- AST (R253). -/
  | ast (f : Slot)
  /-- AADD (R253). -/
  | aadd (f : Slot)
  /-- AMAX (R253). -/
  | amax (f : Slot)
  /-- AMIN (R253). -/
  | amin (f : Slot)
  /-- ASWAP (R253). -/
  | aswap (f : Slot)
  /-- ACAS (R253). -/
  | acas (f : Slot)
  /-- ABIND (R255). -/
  | abind (f : Slot)
  /-- AUNBIND (R255). -/
  | aunbind (f : Slot)
  /-- AWAITGE (R254). -/
  | awaitge (f : Slot)
  /-- SPAWN (R282). -/
  | spawn (f : Slot)
  /-- TOKSEND (R284). -/
  | toksend (f : Slot)
  /-- WIDF_EXTRACT_WID (R270). -/
  | widfExtractWid (f : Slot0)
  /-- WIDF_EXTRACT_OPERAND (R270). -/
  | widfExtractOperand (f : Slot0)
  /-- WIDF_INSERT (R270). -/
  | widfInsert (f : Slot0)
  /-- PHASE_UNIT (R286). -/
  | phaseUnit (f : Slot0)
  /-- PHASE_BOUND (R286). -/
  | phaseBound (f : Slot0)
  /-- BARC (R289). -/
  | barc (f : Slot)
  /-- BARQ (R289). -/
  | barq (f : Slot)
  /-- CTLR (R164). -/
  | ctlr (f : Slot)
  /-- CTLW (R164). -/
  | ctlw (f : Slot)
  /-- TLBINV (R314). -/
  | tlbinv (f : Slot)
  /-- SLEWREQ (R340). -/
  | slewreq (f : Slot)
  /-- FILLER (R164). -/
  | filler (f : Slot)
  /-- STCFG (R142). -/
  | stcfg (f : Slot)
  /-- STGO (R142). -/
  | stgo (f : Slot)
  /-- STSTOP (R142). -/
  | ststop (f : Slot)
  /-- STSTAT (R142). -/
  | ststat (f : Slot)
  /-- MMA (R185). -/
  | mma (f : Slot)
  /-- MMAZ (R185). -/
  | mmaz (f : Slot)
  /-- MMAT (R185). -/
  | mmat (f : Slot)
  /-- MMATZ (R185). -/
  | mmatz (f : Slot)
  /-- ACCRD (R195). -/
  | accrd (f : Slot)
  /-- ACCWR (R195). -/
  | accwr (f : Slot)
  /-- ACCADD (R195). -/
  | accadd (f : Slot)
  /-- ACCZ (R196). -/
  | accz (f : Slot)
  /-- ACCSPILL (R196). -/
  | accspill (f : Slot)
  /-- ACCFILL (R196). -/
  | accfill (f : Slot)
  /-- ACCTS_STATUS (R200). -/
  | acctsStatus (f : Slot0)
  /-- ACCTS_LOAD (R200). -/
  | acctsLoad (f : Slot0)
  /-- ACCTS_REWIND (R200). -/
  | acctsRewind (f : Slot0)
  /-- XMODE (R211). -/
  | xmode (f : Slot)
  /-- XFWD (R215). -/
  | xfwd (f : Slot)
  /-- XBWD (R215). -/
  | xbwd (f : Slot)
  /-- XUPD (R219). -/
  | xupd (f : Slot)
  /-- XFER (R220). -/
  | xfer (f : Slot)
  /-- XGAMMA (R221). -/
  | xgamma (f : Slot)
  /-- XSPW (R221). -/
  | xspw (f : Slot)
  /-- XSPR (R221). -/
  | xspr (f : Slot)
  /-- XSEED (R221). -/
  | xseed (f : Slot)
  /-- XRDAVG (R222). -/
  | xrdavg (f : Slot)
  /-- XPRG (R223). -/
  | xprg (f : Slot)
  /-- XRST (R224). -/
  | xrst (f : Slot)
  /-- XSTAT (R221). -/
  | xstat (f : Slot)
  /-- TPLW (R111). -/
  | tplw (f : Slot)
  /-- CPGO (R112). -/
  | cpgo (f : Slot0) (c : BitVec 3)
  /-- CPGO_RESUME (R104). -/
  | cpgoResume (f : Slot0) (c : BitVec 3)
  /-- GQPUSH (R113). -/
  | gqpush (f : Slot)
  /-- CPWAIT (R114). -/
  | cpwait (f : Slot)
  /-- CPSTAT (R114). -/
  | cpstat (f : Slot)
  /-- CPABORT (R114). -/
  | cpabort (f : Slot)
  /-- PUSHT (R84). -/
  | pusht (f : Slot)
  /-- POPT (R84). -/
  | popt (f : Slot)
  /-- LEASE (R88). -/
  | lease (f : Slot)
  /-- UNLEASE (R88). -/
  | unlease (f : Slot)
  /-- LSTAT_SLOT (R88). -/
  | lstatSlot (f : Slot0)
  /-- LSTAT_DEADLINE (R88). -/
  | lstatDeadline (f : Slot0)
  /-- LSTAT_STACK (R88). -/
  | lstatStack (f : Slot0)
  /-- HOLD_RELEASE (R129). -/
  | holdRelease (c : Nat)
  /-- MERGED_ISSUE (R156). -/
  | mergedIssue (c : Nat)
  /-- WATCHDOG_TIMEOUT (R163). -/
  | watchdogTimeout (c : Nat)
  /-- RESULT_COMPLETION (R145). -/
  | resultCompletion (c : Nat)
  /-- LOAD_LANDING (R128). -/
  | loadLanding (c : Nat)
  /-- ENGINE_START_CYCLE (R151). -/
  | engineStartCycle (c e : Nat)
  /-- STREAM_RUN (R137). -/
  | streamRun (c k : Nat)
  /-- STREAM_WRITE_DRAIN (R137). -/
  | streamWriteDrain (c k : Nat)
  /-- REGISTER_WRITE (R7). -/
  | registerWrite (a : Nat) (v : BitVec 64)
  /-- AT_PERFORM (R250). -/
  | atPerform (c n : Nat)
  /-- AWAITGE_SATISFIED (R254). -/
  | awaitgeSatisfied (c n : Nat)
  /-- RELEASE_PERFORM (R256). -/
  | releasePerform (c n : Nat)
  /-- MX_STEP_READ (R188). -/
  | mxStepRead (c : Nat)
  /-- MX_COMPLETE (R188). -/
  | mxComplete (c : Nat)
  /-- ACCZ_DONE (R196). -/
  | acczDone (c : Nat)
  /-- ACCSPILL_LINE (R196). -/
  | accspillLine (c : Nat)
  /-- ACCFILL_LINE_READ (R196). -/
  | accfillLineRead (c : Nat)
  /-- ACCFILL_DONE (R196). -/
  | accfillDone (c : Nat)
  /-- XB_SETTLE_END (R211). -/
  | xbSettleEnd (c k : Nat)
  /-- XB_OUTPUT_WRITE (R209). -/
  | xbOutputWrite (c k : Nat)
  /-- XB_STATUS (R217). -/
  | xbStatus (c k : Nat)
  /-- XUPD_SLOT (R219). -/
  | xupdSlot (c k : Nat)
  /-- XFER_SLOT (R220). -/
  | xferSlot (c k : Nat)
  /-- XRDAVG_COLUMN (R222). -/
  | xrdavgColumn (c k : Nat)
  /-- XPRG_COLUMN (R223). -/
  | xprgColumn (c k : Nat)
  /-- XRST_APPLY (R224). -/
  | xrstApply (c k : Nat)
  /-- XSPW_APPLY (R221). -/
  | xspwApply (c k : Nat)
  /-- APERTURE_START (R91). -/
  | apertureStart (c ch : Nat) (w : BitVec 64)
  /-- APERTURE_RESUME (R104). -/
  | apertureResume (c ch : Nat) (w : BitVec 64)
  /-- COPY_ACCEPT (R90). -/
  | copyAccept (c ch : Nat)
  /-- COPY_ACTIVATE (R102). -/
  | copyActivate (c ch : Nat)
  /-- COPY_ACQUIRE_DONE (R99). -/
  | copyAcquireDone (c ch : Nat)
  /-- COPY_REQUEST_ISSUE (R93). -/
  | copyRequestIssue (c : Nat)
  /-- GATHER_INDEX_TAKE (R100). -/
  | gatherIndexTake (c ch : Nat)
  /-- COPY_LINE_DONE (R99). -/
  | copyLineDone (c ch : Nat)
  /-- REDUCE_ADMIT (R199). -/
  | reduceAdmit (home : Nat)
  /-- COPY_FINISH (R90). -/
  | copyFinish (c ch : Nat)
  /-- FOLLOW_ON_HANDOVER (R299). -/
  | followOnHandover (c ch : Nat)
  /-- FOLLOW_ON_ISSUE (R98). -/
  | followOnIssue (c : Nat)
  /-- COPY_FAULT (R102). -/
  | copyFault (c ch : Nat)
  /-- COPY_ABORT_DRAIN (R106). -/
  | copyAbortDrain (c ch : Nat)
  /-- LANDING_CRC_RETRY (R80, R81). -/
  | landingCrcRetry (c ch : Nat) (e : LandingError)
  /-- TABLE_WALK (R311). -/
  | tableWalk (d ctx va : Nat)
  /-- HBM_ADMIT (R74): the pseudo-channel, and what a read's checks report. -/
  | hbmAdmit (d : Nat) (q : LineRead)
  /-- HBM_COMPLETE (R74). -/
  | hbmComplete (d pc : Nat)
  /-- BANK_IDLE_PRECHARGE (R73). -/
  | bankIdlePrecharge (d bk : Nat)
  /-- HBM_REFRESH (R73). -/
  | hbmRefresh (d bk : Nat)
  /-- SCRUB_ROW (R77). -/
  | scrubRow (d : Nat) (ev : List (Nat × Bool × BitVec 64))
  /-- EHRING_WRITE (R79). -/
  | ehringWrite (d : Nat) (count : Bool) (v : BitVec 64)
  /-- TIER_ACCEPT (R83). -/
  | tierAccept (c : Nat)
  /-- TIER_PUSH_DATA (R84): the command's place among those accepted, and what its line's checks report. -/
  | tierPushData (d ctx : Nat) (q : LineRead)
  /-- TIER_POP_DATA (R84). -/
  | tierPopData (d ctx : Nat) (q : LineRead)
  /-- SPILL_ENTRY (R86). -/
  | spillEntry (d ctx : Nat)
  /-- RETURN_ENTRY (R86). -/
  | returnEntry (d : Nat) (q : EntryReturn)
  /-- LEASE_GRANT (R88). -/
  | leaseGrant (d ctx : Nat) (q : LeaseAnswer) (units base : Nat)
  /-- LEASE_REFUSE (R88). -/
  | leaseRefuse (d ctx : Nat) (q : LeaseAnswer)
  /-- LEASE_REVOKE (R88). -/
  | leaseRevoke (d ctx slot notice : Nat)
  /-- LEASE_DEADLINE (R88). -/
  | leaseDeadline (d ctx slot : Nat)
  /-- LEASE_DRAINED (R88). -/
  | leaseDrained (d ctx slot : Nat)
  /-- SURVEY_DELTA_SEND (R234). -/
  | surveyDeltaSend (d sv : Nat)
  /-- SURVEY_DELTA_MERGE (R234). -/
  | surveyDeltaMerge (d : Nat)
  /-- SURVEY_MIRROR_REFRESH (R235). -/
  | surveyMirrorRefresh (d sv : Nat)
  /-- SURVEY_STA_WRITE (R239). -/
  | surveyStaWrite (d sv : Nat) (img : BitVec 512)
  /-- LAUNCH_REQUEST (R272). -/
  | launchRequest (d ctx : Nat) (req : BitVec 256) (grant : BitVec 2)
  /-- RECORD_CREATE (R273). -/
  | recordCreate (d slot : Nat)
  /-- RECORD_READY (R274). -/
  | recordReady (d idx : Nat)
  /-- TOKEN_ARRIVE (R284). -/
  | tokenArrive (d ctx tok : Nat)
  /-- TIMER_WAIT_EXPIRE (R274). -/
  | timerWaitExpire (d idx : Nat)
  /-- DISPATCH (R279). -/
  | dispatch (c : Nat)
  /-- PROMPT (R280): of the record at index `idx`, or, from 2^33 on, by the stage manager (R306). -/
  | prompt (d idx : Nat)
  /-- PREEMPT_FORCED (R306). -/
  | preemptForced (c : Nat)
  /-- FORCED_SAVE_RETRY (R306). -/
  | forcedSaveRetry (c : Nat)
  /-- BARRIER_ARRIVAL (R288). -/
  | barrierArrival (d ctx b : Nat)
  /-- BARRIER_NOTICE_ARRIVE (R324). -/
  | barrierNoticeArrive (ctx b gen trel : Nat)
  /-- PACKAGE_RELEASE (R288). -/
  | packageRelease (ctx b : Nat)
  /-- CLUSTER_RELEASE (R288). -/
  | clusterRelease (d ctx b q : Nat)
  /-- BARRIER_DESCRIPTOR_WRITE (R287). -/
  | barrierDescriptorWrite (d idx : Nat) (img : BitVec 512)
  /-- TRAP_ENTRY (R294). -/
  | trapEntry (c : Nat)
  /-- NOTASK_ENTRY (R304). -/
  | notaskEntry (c : Nat)
  /-- REPLAY_ENTRY_EFFECT (R300). -/
  | replayEntryEffect (c : Nat)
  /-- TIMING_ERROR_REPLAY (R303). -/
  | timingErrorReplay (c cycles : Nat)
  /-- COMMIT_BUFFER_DRAIN (R303). -/
  | commitBufferDrain (c : Nat)
  /-- CONTEXT_CONTROL_WRITE (R308). -/
  | contextControlWrite (d ctx off : Nat) (v : BitVec 64)
  /-- TILE_OWNER_WRITE (R205). -/
  | tileOwnerWrite (d idx : Nat) (v : BitVec 64)
  /-- FABRIC_CONTEXT_WRITE (R321). -/
  | fabricContextWrite (w ctx off : Nat) (v : BitVec 64)
  /-- FLIT_REPLAY (R317). -/
  | flitReplay (r : FlitReplay)
  /-- LINK_DOWN (R317). -/
  | linkDown (link : Nat)
  /-- FABRIC_ACCESS_ARRIVE (R322). -/
  | fabricAccessArrive (acc : FabricAccess)
  /-- TIMESTAMP_ALIGN (R323). -/
  | timestampAlign (ppm : Int)
  /-- POWER_UP (R329). -/
  | powerUp
  /-- FUNCTION_LEVEL_RESET (R329). -/
  | functionLevelReset
  /-- IMAGE_GO (R330). -/
  | imageGo
  /-- IMAGE_VERIFY_DONE (R330). -/
  | imageVerifyDone
  /-- BRING_UP (R359). -/
  | bringUp (r : BringUpReport)
  /-- CMD_DOORBELL (R327). -/
  | cmdDoorbell (tail : BitVec 12) (cmds : List (BitVec 512))
  /-- HOST_LAUNCH (R327). -/
  | hostLaunch (cmd : BitVec 512)
  /-- SIGNAL (R327). -/
  | signal (cmd : BitVec 512)
  /-- READSYNC (R327). -/
  | readsync (cmd : BitVec 512)
  /-- ATTEST (R332). -/
  | attest (cmd : BitVec 512)
  /-- OPEN (R328). -/
  | openCtx (cmd : BitVec 512)
  /-- CLOSE (R328). -/
  | closeCtx (cmd : BitVec 512)
  /-- UNKNOWN_HOST_COMMAND (R327). -/
  | unknownHostCommand (cmd : BitVec 512)
  /-- BAR2_ACCESS (R327). -/
  | bar2Access (write : Bool) (off : Nat) (data : List (BitVec 8))
  /-- FTGT_WRITE (R333). -/
  | ftgtWrite (d : Nat) (v : BitVec 64)
  /-- FREQUENCY_CHANGE_DONE (R333). -/
  | frequencyChangeDone (d : Nat)
  /-- RAMP_TABLE_WRITE (R333). -/
  | rampTableWrite (d q off : Nat) (v : BitVec 64)
  /-- SLEW_STEP_BOUNDARY (R338). -/
  | slewStepBoundary (d q : Nat)
  /-- SLEW_GRANT (R338). -/
  | slewGrant (d q : Nat)
  /-- TELEMETRY_PERIOD (R342). -/
  | telemetryPeriod (ctx : Nat) (sample : BitVec 512)
  /-- TELEMETRY_ENABLE_WRITE (R342). -/
  | telemetryEnableWrite (ctx : Nat) (v : BitVec 64)
  /-- DEBUG_HALT (R354). -/
  | debugHalt (d ctx : Nat) (pkg : Bool)
  /-- HALT_DRAIN_DONE (R355). -/
  | haltDrainDone (d ctx : Nat)
  /-- DEBUG_RESUME (R354). -/
  | debugResume (d ctx : Nat) (pkg : Bool)
  /-- DEBUG_STEP (R356). -/
  | debugStep (d ctx core : Nat) (all : Bool)
  /-- DEBUG_PASS (R357). -/
  | debugPass (d : DebugDies) (ctx : Nat)
  /-- DEBUG_RELEASE (R358). -/
  | debugRelease (d ctx core : Nat) (all : Bool)
  /-- STEP_EVENT (R356). -/
  | stepEvent (c : Nat) (ev : BitVec 128)
  /-- EVCOUNT_WRITE (R353). -/
  | evcountWrite (c : Nat)
  /-- XB_LINE_READ (R209). -/
  | xbLineRead (c k : Nat)
  /-- XSPR_OUTPUT_WRITE (R221). -/
  | xsprOutputWrite (c k : Nat)
  /-- XB_MODE_TAKE (R211). -/
  | xbModeTake (c k : Nat)
  /-- FILLER_RAMP_BLOCK (R339). -/
  | fillerRampBlock (c : Nat)
  /-- LEASE_REQUEST_ARRIVE (R89); a request is accepted in part where `part` is set. -/
  | leaseRequestArrive (rank ctx slot : Nat) (act : LenderAct) (part : Bool)
  deriving DecidableEq, Repr

end Sys2Proof
end

