-- ==== Sys2Proof/Decode.lean ====
section
/-!
DEFINITION. The decoder and, after it, the encoder, both written from the encoding tables of spec 01 (R10..R13, R24..R36).
A 32-bit word means one thing in the control slot and another in a move slot (R11, R12), so the slot decoders are two.
A bundle that holds one slot operation and nothing else decodes to that operation's constructor; every other bundle
decodes to `bundleIssue` with its 256 bits (log 6). Decoding is total: a bundle that no table admits is still a bundle,
and issuing it raises the trap that R22..R38 name; the slot decoders reject by name.
-/

namespace Sys2Proof

/-- Why a slot word or a byte string is not an instruction. -/
inductive DecodeError where
  /-- Fewer than 32 bytes. -/
  | short
  /-- A control opcode 0x14..0x2F (R35). -/
  | reservedOpcode (opc : Nat)
  /-- A reserved bit of the operand field of a control slot is 1 (R37). -/
  | reservedOperand (opc : Nat)
  /-- A modifier that the trigger does not define as a form of its own (WIDF, PHASE, ACCTS, LSTAT). -/
  | noSuchForm (d m : Nat)
  deriving DecidableEq, Repr

/-! ### Slot fields (R11, R12) -/

/-- G[3:0] of a move slot. -/
def slotG (w : BitVec 32) : BitVec 4 := w.extractLsb' 28 4
/-- D of a move slot. -/
def slotD (w : BitVec 32) : BitVec 12 := w.extractLsb' 16 12
/-- S of a move slot. -/
def slotS (w : BitVec 32) : BitVec 12 := w.extractLsb' 4 12
/-- M of a move slot. -/
def slotM (w : BitVec 32) : BitVec 4 := w.extractLsb' 0 4
/-- E of a control slot. -/
def ctlE (w : BitVec 32) : BitVec 4 := w.extractLsb' 28 4
/-- OPC of a control slot. -/
def ctlOpc (w : BitVec 32) : BitVec 6 := w.extractLsb' 22 6
/-- OPD of a control slot. -/
def ctlOpd (w : BitVec 32) : BitVec 22 := w.extractLsb' 0 22

/-! ### Move slots (R24, R30..R33) -/

/-- The operations of an integer block by their offset (R30). -/
def intTable : List (Nat × (BitVec 1 → Slot → Instr)) :=
  [ (0x01, .add), (0x02, .sub), (0x03, .mul), (0x04, .mulh), (0x05, .mulhu),
    (0x06, .div), (0x07, .divu), (0x08, .rem), (0x09, .remu), (0x0a, .and),
    (0x0b, .or), (0x0c, .xor), (0x0d, .andn), (0x0e, .orn), (0x0f, .shl),
    (0x10, .shr), (0x11, .sar), (0x12, .rol), (0x13, .min), (0x14, .max),
    (0x15, .minu), (0x16, .maxu), (0x17, .clz), (0x18, .ctz), (0x19, .popc),
    (0x1a, .bswap), (0x1b, .sext), (0x1c, .zext), (0x1d, .bext), (0x1e, .ceq),
    (0x1f, .cne), (0x20, .clt), (0x21, .cltu), (0x22, .cle), (0x23, .cleu),
    (0x24, .clmull), (0x25, .clmulh), (0x26, .pass), (0x27, .lea) ]

/-- Trigger destinations of the ls and stream configuration whose modifier is a field (R31, R32). -/
def lsTable : List (Nat × (Slot → Instr)) :=
  [ (0x182, .ldl), (0x183, .ldsB), (0x184, .ldsH), (0x185, .ldsW),
    (0x186, .ldsD), (0x187, .ldsxB), (0x188, .ldsxH), (0x189, .ldsxW),
    (0x18a, .stl), (0x18b, .stln), (0x18c, .stlm), (0x18d, .stsB),
    (0x18e, .stsH), (0x18f, .stsW), (0x190, .stsD), (0x191, .lda),
    (0x192, .sta), (0x193, .hmake), (0x194, .hgive), (0x195, .htake),
    (0x196, .hrel), (0x341, .stcfg), (0x342, .stgo), (0x343, .ststop),
    (0x344, .ststat) ]

/-- Trigger destinations of the vec whose modifier is a field (R31). -/
def vecTable : List (Nat × (Slot → Instr)) :=
  [ (0x1c2, .vadd), (0x1c3, .vsub), (0x1c4, .vmul), (0x1c5, .vfma),
    (0x1c6, .vfms), (0x1c7, .vnfma), (0x1c8, .vmin), (0x1c9, .vmax),
    (0x1ca, .vabs), (0x1cb, .vneg), (0x1cc, .vclamp), (0x1cd, .vscale),
    (0x1ce, .vcmplt), (0x1cf, .vcmple), (0x1d0, .vcmpeq), (0x1d1, .vsel),
    (0x1d2, .vsum), (0x1d3, .vmaxr), (0x1d4, .vdot), (0x1d5, .vstat),
    (0x1d6, .vbcast), (0x1d7, .vshuf), (0x1d8, .vwidenl), (0x1d9, .vwidenh),
    (0x1da, .vnarrow), (0x1db, .vcvtif), (0x1dc, .vcvtfi), (0x1dd, .pprob),
    (0x1de, .qnt), (0x1df, .dqnt), (0x1e0, .qscale) ]

/-- Trigger destinations of the sfn, sv, at, task and ctl whose modifier is a field (R32). -/
def midTable : List (Nat × (Slot → Instr)) :=
  [ (0x201, .exp), (0x202, .exp2), (0x203, .ln), (0x204, .log2),
    (0x205, .rcp), (0x206, .rsqrt), (0x207, .sqrt), (0x208, .tanh),
    (0x209, .sigm), (0x20a, .gelu), (0x20b, .silu), (0x20c, .erf),
    (0x241, .svrst), (0x242, .svrd), (0x243, .svnote), (0x244, .svmerge),
    (0x245, .svtrap), (0x282, .ald), (0x283, .ast), (0x284, .aadd),
    (0x285, .amax), (0x286, .amin), (0x287, .aswap), (0x288, .acas),
    (0x289, .abind), (0x28a, .aunbind), (0x28b, .awaitge), (0x2c1, .spawn),
    (0x2c2, .toksend), (0x2c5, .barc), (0x2c6, .barq), (0x301, .ctlr),
    (0x302, .ctlw), (0x303, .tlbinv), (0x304, .slewreq), (0x305, .filler) ]

/-- Trigger destinations of the engine blocks whose modifier is a field (R33). -/
def engineTable : List (Nat × (Slot → Instr)) :=
  [ (0x810, .mma), (0x811, .mmaz), (0x812, .mmat), (0x813, .mmatz),
    (0x841, .accrd), (0x842, .accwr), (0x843, .accadd), (0x844, .accz),
    (0x845, .accspill), (0x846, .accfill), (0x890, .xmode), (0x891, .xfwd),
    (0x892, .xbwd), (0x893, .xupd), (0x894, .xfer), (0x895, .xgamma),
    (0x896, .xspw), (0x897, .xspr), (0x898, .xseed), (0x899, .xrdavg),
    (0x89a, .xprg), (0x89b, .xrst), (0x89c, .xstat), (0x8c1, .tplw),
    (0x8c3, .gqpush), (0x8c4, .cpwait), (0x8c5, .cpstat), (0x8c6, .cpabort),
    (0x901, .pusht), (0x902, .popt), (0x903, .lease), (0x904, .unlease) ]

/-- The forms of a trigger that its modifier selects: WIDF, PHASE, ACCTS, CPGO, LSTAT (R270, R286, R200, R112, R88). -/
def formInstr (d : Nat) (f : Slot) : Option (Except DecodeError Instr) :=
  let f0 : Slot0 := ⟨f.g, f.s⟩
  let m := f.m.toNat
  let pick (l : List (Nat × Instr)) : Option (Except DecodeError Instr) :=
    match l.lookup m with
    | some i => some (.ok i)
    | none => some (.error (.noSuchForm d m))
  if d = 0x2c3 then pick [(0, .widfExtractWid f0), (1, .widfExtractOperand f0), (2, .widfInsert f0)]
  else if d = 0x2c4 then pick [(0, .phaseUnit f0), (1, .phaseBound f0)]
  else if d = 0x847 then pick [(0, .acctsStatus f0), (1, .acctsLoad f0), (2, .acctsRewind f0)]
  else if d = 0x905 then pick [(0, .lstatSlot f0), (2, .lstatDeadline f0), (1, .lstatStack f0)]
  else if d = 0x8c2 then some (.ok (if m < 8 then .cpgo f0 (f.m.extractLsb' 0 3) else .cpgoResume f0 (f.m.extractLsb' 0 3)))
  else none

/-- The trigger operation that destination id `d` starts, if `d` is a trigger port of encoding version 3. -/
def triggerInstr (d : Nat) (f : Slot) : Option (Except DecodeError Instr) :=
  if d / 64 = 4 then (intTable.lookup (d - 0x100)).map fun i => .ok (i 0 f)
  else if d / 64 = 5 then (intTable.lookup (d - 0x140)).map fun i => .ok (i 1 f)
  else if d < 0x1c0 then (lsTable.lookup d).map fun i => .ok (i f)
  else if d < 0x200 then (vecTable.lookup d).map fun i => .ok (i f)
  else match formInstr d f with
    | some r => some r
    | none =>
      if d < 0x340 then (midTable.lookup d).map fun i => .ok (i f)
      else if d < 0x380 then (lsTable.lookup d).map fun i => .ok (i f)
      else (engineTable.lookup d).map fun i => .ok (i f)

/-- The operation of a move slot: a hint, a trigger, or a plain move (also to a reserved destination, whose issue
traps: R25). -/
def decodeMove (w : BitVec 32) : Except DecodeError Instr :=
  let g := slotG w
  let d := slotD w
  let s := slotS w
  let m := slotM w
  if 0xF00 ≤ d.toNat then .ok (.hint g (d.extractLsb' 0 8) s m)
  else match triggerInstr d.toNat ⟨g, s, m⟩ with
    | some r => r
    | none => .ok (.move g d s m)

/-! ### The control slot (R35) -/

/-- The operation of a control slot, reserved operand bits refused (R37). -/
def decodeControl (w : BitVec 32) : Except DecodeError Instr :=
  let e := ctlE w
  let opd := ctlOpd w
  let opc := (ctlOpc w).toNat
  let ok (reserved : Nat) (i : Instr) : Except DecodeError Instr :=
    if opd.toNat &&& reserved = 0 then .ok i else .error (.reservedOperand opc)
  if 0x30 ≤ opc then .ok (.chint e ((ctlOpc w).extractLsb' 0 4) opd)
  else match opc with
    | 0x00 => ok 0x3fffff (.cnop e)
    | 0x01 => ok 0x000000 (.br e opd)
    | 0x02 => ok 0x000000 (.brp e (opd.extractLsb' 21 1) (opd.extractLsb' 18 3) (opd.extractLsb' 0 18))
    | 0x03 => ok 0x000000 (.call e opd)
    | 0x04 => ok 0x3fffff (.ret e)
    | 0x05 => ok 0x3fffc0 (.jr e (opd.extractLsb' 0 6))
    | 0x06 => ok 0x00000f (.loopm e (opd.extractLsb' 16 6) (opd.extractLsb' 10 6) (opd.extractLsb' 4 6))
    | 0x07 => ok 0x3fffff (.loopx e)
    | 0x08 => ok 0x000000 (.lit e opd)
    | 0x09 => ok 0x000000 (.lith e opd)
    | 0x0a => ok 0x3ff000 (.setfmt e (opd.extractLsb' 0 12))
    | 0x0b => ok 0x000000 (.setwin e (opd.extractLsb' 15 7) (opd.extractLsb' 0 15))
    | 0x0c => ok 0x00000f (.start e (opd.extractLsb' 16 6) (opd.extractLsb' 10 6) (opd.extractLsb' 4 6))
    | 0x0d => ok 0x3fff00 (.waite e (opd.extractLsb' 0 8))
    | 0x0e => ok 0x00ffff (.fence e (opd.extractLsb' 19 3) (opd.extractLsb' 16 3))
    | 0x0f => ok 0x000000 (.suspend e (opd.extractLsb' 18 4) (opd.extractLsb' 12 6) (opd.extractLsb' 0 12))
    | 0x10 => ok 0x3fffff (.yield e)
    | 0x11 => ok 0x3f0000 (.trap e (opd.extractLsb' 0 16))
    | 0x12 => ok 0x3fffff (.rtrap e)
    | 0x13 => ok 0x3fffff (.bkpt e)
    | _ => .error (.reservedOpcode opc)

/-! ### Bundles (R10) -/

/-- Slot `k` of a bundle (R10). -/
def bundleSlot (b : BitVec 256) (k : Nat) : BitVec 32 := b.extractLsb' (32 * k) 32

/-- The instruction a bundle stands for under encoding version 3. -/
def decodeBundle (b : BitVec 256) : Instr :=
  let whole : Except DecodeError Instr → Instr
    | .ok i => i
    | .error _ => .bundleIssue b
  if b.extractLsb' 32 224 = 0 then whole (decodeControl (bundleSlot b 0))
  else if bundleSlot b 0 = 0 ∧ b.extractLsb' 64 192 = 0 then whole (decodeMove (bundleSlot b 1))
  else .bundleIssue b

/-- Little-endian value of a byte list. -/
def leNat : List (BitVec 8) → Nat
  | [] => 0
  | x :: l => x.toNat + 256 * leNat l

/-- The instruction at the head of a byte string and the bytes after it; a bundle is 32 bytes (R10). -/
def decode (bytes : List (BitVec 8)) : Except DecodeError (Instr × List (BitVec 8)) :=
  if bytes.length < 32 then .error .short
  else .ok (decodeBundle (BitVec.ofNat 256 (leNat (bytes.take 32))), bytes.drop 32)

/-- Where a 32-bit table word goes: a trigger or a hint is a move slot; else a legal control word is the control slot;
else the word is a plain move (log 6). `true` is move slot 1. -/
def tableWordIsMove (w : BitVec 32) : Bool :=
  if 0xF00 ≤ (slotD w).toNat then true
  else match triggerInstr (slotD w).toNat ⟨slotG w, slotS w, slotM w⟩ with
    | some (.ok _) => true
    | some (.error _) => false
    | none =>
      match decodeControl w with
      | .ok _ => false
      | .error _ => true

/-- The bundle that holds table word `w` in its slot and nothing else. -/
def tableWordBundle (w : BitVec 32) : BitVec 256 :=
  if tableWordIsMove w then w.zeroExtend 256 <<< 32 else w.zeroExtend 256

/-- The instruction the decoder reads from the bundle that holds table word `w` alone. -/
def decodeTableWord (nbits w : Nat) : Option Instr :=
  if nbits = 32 then
    match decodeBundle (tableWordBundle (BitVec.ofNat 32 w)) with
    | .bundleIssue _ => none
    | i => some i
  else none

/-! ### The encoder -/

/-- A move slot word (R11). -/
def moveWord (g : BitVec 4) (d s : BitVec 12) (m : BitVec 4) : BitVec 32 := g ++ d ++ s ++ m
/-- A control slot word (R12). -/
def controlWord (e : BitVec 4) (opc : BitVec 6) (opd : BitVec 22) : BitVec 32 := e ++ opc ++ opd

/-- A slot operation in its slot. -/
inductive Encoded where
  | control (w : BitVec 32)
  | moveSlot (w : BitVec 32)
  deriving DecidableEq, Repr

/-- The word of a trigger with a modifier field. -/
def trigEnc (d : BitVec 12) (f : Slot) : Option Encoded := some (.moveSlot (moveWord f.g d f.s f.m))
/-- The word of a trigger form with a fixed modifier. -/
def formEnc (d : BitVec 12) (f : Slot0) (m : BitVec 4) : Option Encoded := some (.moveSlot (moveWord f.g d f.s m))
/-- The word of an integer trigger: `u` selects int0 or int1 (R30). -/
def intEnc (u : BitVec 1) (k : BitVec 6) (f : Slot) : Option Encoded :=
  trigEnc ((0b00010 : BitVec 5) ++ u ++ k) f
/-- A control word. -/
def ctlEnc (e : BitVec 4) (opc : BitVec 6) (opd : BitVec 22) : Option Encoded := some (.control (controlWord e opc opd))

/-- The slot word of an instruction, from the same tables; `none` for the steps and events that have no encoding. -/
def encodeSlot : Instr → Option Encoded
  | .bundleIssue _ => none
  | .holdRelease _ => none
  | .mergedIssue _ => none
  | .watchdogTimeout _ => none
  | .resultCompletion _ => none
  | .loadLanding _ => none
  | .engineStartCycle _ _ => none
  | .streamRun _ _ => none
  | .streamWriteDrain _ _ => none
  | .registerWrite _ _ => none
  | .move g d s m => some (.moveSlot (moveWord g d s m))
  | .hint g h s m => some (.moveSlot (moveWord g ((0xF : BitVec 4) ++ h) s m))
  | .cnop e => ctlEnc e 0x00 0
  | .br e d => ctlEnc e 0x01 d
  | .brp e v p d => ctlEnc e 0x02 (v ++ p ++ d)
  | .call e d => ctlEnc e 0x03 d
  | .ret e => ctlEnc e 0x04 0
  | .jr e n => ctlEnc e 0x05 ((0 : BitVec 16) ++ n)
  | .loopm e l t n => ctlEnc e 0x06 (l ++ t ++ n ++ (0 : BitVec 4))
  | .loopx e => ctlEnc e 0x07 0
  | .lit e v => ctlEnc e 0x08 v
  | .lith e v => ctlEnc e 0x09 v
  | .setfmt e f => ctlEnc e 0x0a ((0 : BitVec 10) ++ f)
  | .setwin e r b => ctlEnc e 0x0b (r ++ b)
  | .start e x y z => ctlEnc e 0x0c (x ++ y ++ z ++ (0 : BitVec 4))
  | .waite e m => ctlEnc e 0x0d ((0 : BitVec 14) ++ m)
  | .fence e s k => ctlEnc e 0x0e (s ++ k ++ (0 : BitVec 16))
  | .suspend e k n d => ctlEnc e 0x0f (k ++ n ++ d)
  | .yield e => ctlEnc e 0x10 0
  | .trap e c => ctlEnc e 0x11 ((0 : BitVec 6) ++ c)
  | .rtrap e => ctlEnc e 0x12 0
  | .bkpt e => ctlEnc e 0x13 0
  | .chint e h v => ctlEnc e ((0b11 : BitVec 2) ++ h) v
  | .add u f => intEnc u 0x01 f
  | .sub u f => intEnc u 0x02 f
  | .mul u f => intEnc u 0x03 f
  | .mulh u f => intEnc u 0x04 f
  | .mulhu u f => intEnc u 0x05 f
  | .div u f => intEnc u 0x06 f
  | .divu u f => intEnc u 0x07 f
  | .rem u f => intEnc u 0x08 f
  | .remu u f => intEnc u 0x09 f
  | .and u f => intEnc u 0x0a f
  | .or u f => intEnc u 0x0b f
  | .xor u f => intEnc u 0x0c f
  | .andn u f => intEnc u 0x0d f
  | .orn u f => intEnc u 0x0e f
  | .shl u f => intEnc u 0x0f f
  | .shr u f => intEnc u 0x10 f
  | .sar u f => intEnc u 0x11 f
  | .rol u f => intEnc u 0x12 f
  | .min u f => intEnc u 0x13 f
  | .max u f => intEnc u 0x14 f
  | .minu u f => intEnc u 0x15 f
  | .maxu u f => intEnc u 0x16 f
  | .clz u f => intEnc u 0x17 f
  | .ctz u f => intEnc u 0x18 f
  | .popc u f => intEnc u 0x19 f
  | .bswap u f => intEnc u 0x1a f
  | .sext u f => intEnc u 0x1b f
  | .zext u f => intEnc u 0x1c f
  | .bext u f => intEnc u 0x1d f
  | .ceq u f => intEnc u 0x1e f
  | .cne u f => intEnc u 0x1f f
  | .clt u f => intEnc u 0x20 f
  | .cltu u f => intEnc u 0x21 f
  | .cle u f => intEnc u 0x22 f
  | .cleu u f => intEnc u 0x23 f
  | .clmull u f => intEnc u 0x24 f
  | .clmulh u f => intEnc u 0x25 f
  | .pass u f => intEnc u 0x26 f
  | .lea u f => intEnc u 0x27 f
  | .ldl f => trigEnc 0x182 f
  | .ldsB f => trigEnc 0x183 f
  | .ldsH f => trigEnc 0x184 f
  | .ldsW f => trigEnc 0x185 f
  | .ldsD f => trigEnc 0x186 f
  | .ldsxB f => trigEnc 0x187 f
  | .ldsxH f => trigEnc 0x188 f
  | .ldsxW f => trigEnc 0x189 f
  | .stl f => trigEnc 0x18a f
  | .stln f => trigEnc 0x18b f
  | .stlm f => trigEnc 0x18c f
  | .stsB f => trigEnc 0x18d f
  | .stsH f => trigEnc 0x18e f
  | .stsW f => trigEnc 0x18f f
  | .stsD f => trigEnc 0x190 f
  | .lda f => trigEnc 0x191 f
  | .sta f => trigEnc 0x192 f
  | .hmake f => trigEnc 0x193 f
  | .hgive f => trigEnc 0x194 f
  | .htake f => trigEnc 0x195 f
  | .hrel f => trigEnc 0x196 f
  | .vadd f => trigEnc 0x1c2 f
  | .vsub f => trigEnc 0x1c3 f
  | .vmul f => trigEnc 0x1c4 f
  | .vfma f => trigEnc 0x1c5 f
  | .vfms f => trigEnc 0x1c6 f
  | .vnfma f => trigEnc 0x1c7 f
  | .vmin f => trigEnc 0x1c8 f
  | .vmax f => trigEnc 0x1c9 f
  | .vabs f => trigEnc 0x1ca f
  | .vneg f => trigEnc 0x1cb f
  | .vclamp f => trigEnc 0x1cc f
  | .vscale f => trigEnc 0x1cd f
  | .vcmplt f => trigEnc 0x1ce f
  | .vcmple f => trigEnc 0x1cf f
  | .vcmpeq f => trigEnc 0x1d0 f
  | .vsel f => trigEnc 0x1d1 f
  | .vsum f => trigEnc 0x1d2 f
  | .vmaxr f => trigEnc 0x1d3 f
  | .vdot f => trigEnc 0x1d4 f
  | .vstat f => trigEnc 0x1d5 f
  | .vbcast f => trigEnc 0x1d6 f
  | .vshuf f => trigEnc 0x1d7 f
  | .vwidenl f => trigEnc 0x1d8 f
  | .vwidenh f => trigEnc 0x1d9 f
  | .vnarrow f => trigEnc 0x1da f
  | .vcvtif f => trigEnc 0x1db f
  | .vcvtfi f => trigEnc 0x1dc f
  | .pprob f => trigEnc 0x1dd f
  | .qnt f => trigEnc 0x1de f
  | .dqnt f => trigEnc 0x1df f
  | .qscale f => trigEnc 0x1e0 f
  | .exp f => trigEnc 0x201 f
  | .exp2 f => trigEnc 0x202 f
  | .ln f => trigEnc 0x203 f
  | .log2 f => trigEnc 0x204 f
  | .rcp f => trigEnc 0x205 f
  | .rsqrt f => trigEnc 0x206 f
  | .sqrt f => trigEnc 0x207 f
  | .tanh f => trigEnc 0x208 f
  | .sigm f => trigEnc 0x209 f
  | .gelu f => trigEnc 0x20a f
  | .silu f => trigEnc 0x20b f
  | .erf f => trigEnc 0x20c f
  | .svrst f => trigEnc 0x241 f
  | .svrd f => trigEnc 0x242 f
  | .svnote f => trigEnc 0x243 f
  | .svmerge f => trigEnc 0x244 f
  | .svtrap f => trigEnc 0x245 f
  | .ald f => trigEnc 0x282 f
  | .ast f => trigEnc 0x283 f
  | .aadd f => trigEnc 0x284 f
  | .amax f => trigEnc 0x285 f
  | .amin f => trigEnc 0x286 f
  | .aswap f => trigEnc 0x287 f
  | .acas f => trigEnc 0x288 f
  | .abind f => trigEnc 0x289 f
  | .aunbind f => trigEnc 0x28a f
  | .awaitge f => trigEnc 0x28b f
  | .atPerform _ _ => none
  | .awaitgeSatisfied _ _ => none
  | .releasePerform _ _ => none
  | .spawn f => trigEnc 0x2c1 f
  | .toksend f => trigEnc 0x2c2 f
  | .widfExtractWid f => formEnc 0x2c3 f 0
  | .widfExtractOperand f => formEnc 0x2c3 f 1
  | .widfInsert f => formEnc 0x2c3 f 2
  | .phaseUnit f => formEnc 0x2c4 f 0
  | .phaseBound f => formEnc 0x2c4 f 1
  | .barc f => trigEnc 0x2c5 f
  | .barq f => trigEnc 0x2c6 f
  | .ctlr f => trigEnc 0x301 f
  | .ctlw f => trigEnc 0x302 f
  | .tlbinv f => trigEnc 0x303 f
  | .slewreq f => trigEnc 0x304 f
  | .filler f => trigEnc 0x305 f
  | .stcfg f => trigEnc 0x341 f
  | .stgo f => trigEnc 0x342 f
  | .ststop f => trigEnc 0x343 f
  | .ststat f => trigEnc 0x344 f
  | .mma f => trigEnc 0x810 f
  | .mmaz f => trigEnc 0x811 f
  | .mmat f => trigEnc 0x812 f
  | .mmatz f => trigEnc 0x813 f
  | .mxStepRead _ => none
  | .mxComplete _ => none
  | .accrd f => trigEnc 0x841 f
  | .accwr f => trigEnc 0x842 f
  | .accadd f => trigEnc 0x843 f
  | .accz f => trigEnc 0x844 f
  | .accspill f => trigEnc 0x845 f
  | .accfill f => trigEnc 0x846 f
  | .acczDone _ => none
  | .accspillLine _ => none
  | .accfillLineRead _ => none
  | .accfillDone _ => none
  | .acctsStatus f => formEnc 0x847 f 0
  | .acctsLoad f => formEnc 0x847 f 1
  | .acctsRewind f => formEnc 0x847 f 2
  | .xmode f => trigEnc 0x890 f
  | .xbSettleEnd _ _ => none
  | .xfwd f => trigEnc 0x891 f
  | .xbwd f => trigEnc 0x892 f
  | .xupd f => trigEnc 0x893 f
  | .xfer f => trigEnc 0x894 f
  | .xgamma f => trigEnc 0x895 f
  | .xspw f => trigEnc 0x896 f
  | .xspr f => trigEnc 0x897 f
  | .xseed f => trigEnc 0x898 f
  | .xrdavg f => trigEnc 0x899 f
  | .xprg f => trigEnc 0x89a f
  | .xrst f => trigEnc 0x89b f
  | .xstat f => trigEnc 0x89c f
  | .xbOutputWrite _ _ => none
  | .xbStatus _ _ => none
  | .xupdSlot _ _ => none
  | .xferSlot _ _ => none
  | .xrdavgColumn _ _ => none
  | .xprgColumn _ _ => none
  | .xrstApply _ _ => none
  | .xspwApply _ _ => none
  | .tplw f => trigEnc 0x8c1 f
  | .cpgo f c => formEnc 0x8c2 f ((0 : BitVec 1) ++ c)
  | .cpgoResume f c => formEnc 0x8c2 f ((1 : BitVec 1) ++ c)
  | .gqpush f => trigEnc 0x8c3 f
  | .cpwait f => trigEnc 0x8c4 f
  | .cpstat f => trigEnc 0x8c5 f
  | .cpabort f => trigEnc 0x8c6 f
  | .apertureStart _ _ _ => none
  | .apertureResume _ _ _ => none
  | .copyAccept _ _ => none
  | .copyActivate _ _ => none
  | .copyAcquireDone _ _ => none
  | .copyRequestIssue _ => none
  | .gatherIndexTake _ _ => none
  | .copyLineDone _ _ => none
  | .reduceAdmit _ => none
  | .copyFinish _ _ => none
  | .followOnHandover _ _ => none
  | .followOnIssue _ => none
  | .copyFault _ _ => none
  | .copyAbortDrain _ _ => none
  | .landingCrcRetry _ _ _ => none
  | .tableWalk _ _ _ => none
  | .hbmAdmit _ _ => none
  | .hbmComplete _ _ => none
  | .bankIdlePrecharge _ _ => none
  | .hbmRefresh _ _ => none
  | .scrubRow _ _ => none
  | .ehringWrite _ _ _ => none
  | .pusht f => trigEnc 0x901 f
  | .popt f => trigEnc 0x902 f
  | .lease f => trigEnc 0x903 f
  | .unlease f => trigEnc 0x904 f
  | .lstatSlot f => formEnc 0x905 f 0
  | .lstatDeadline f => formEnc 0x905 f 2
  | .lstatStack f => formEnc 0x905 f 1
  | .tierAccept _ => none
  | .tierPushData _ _ _ => none
  | .tierPopData _ _ _ => none
  | .spillEntry _ _ => none
  | .returnEntry _ _ => none
  | .leaseGrant _ _ _ _ _ => none
  | .leaseRefuse _ _ _ => none
  | .leaseRevoke _ _ _ _ => none
  | .leaseDeadline _ _ _ => none
  | .leaseDrained _ _ _ => none
  | .surveyDeltaSend _ _ => none
  | .surveyDeltaMerge _ => none
  | .surveyMirrorRefresh _ _ => none
  | .surveyStaWrite _ _ _ => none
  | .launchRequest _ _ _ _ => none
  | .recordCreate _ _ => none
  | .recordReady _ _ => none
  | .tokenArrive _ _ _ => none
  | .timerWaitExpire _ _ => none
  | .dispatch _ => none
  | .prompt _ _ => none
  | .preemptForced _ => none
  | .forcedSaveRetry _ => none
  | .barrierArrival _ _ _ => none
  | .barrierNoticeArrive _ _ _ _ => none
  | .packageRelease _ _ => none
  | .clusterRelease _ _ _ _ => none
  | .barrierDescriptorWrite _ _ _ => none
  | .trapEntry _ => none
  | .notaskEntry _ => none
  | .replayEntryEffect _ => none
  | .timingErrorReplay _ _ => none
  | .commitBufferDrain _ => none
  | .contextControlWrite _ _ _ _ => none
  | .tileOwnerWrite _ _ _ => none
  | .fabricContextWrite _ _ _ _ => none
  | .flitReplay _ => none
  | .linkDown _ => none
  | .fabricAccessArrive _ => none
  | .timestampAlign _ => none
  | .powerUp => none
  | .functionLevelReset => none
  | .imageGo => none
  | .imageVerifyDone => none
  | .bringUp _ => none
  | .cmdDoorbell _ _ => none
  | .hostLaunch _ => none
  | .signal _ => none
  | .readsync _ => none
  | .attest _ => none
  | .openCtx _ => none
  | .closeCtx _ => none
  | .unknownHostCommand _ => none
  | .bar2Access _ _ _ => none
  | .ftgtWrite _ _ => none
  | .frequencyChangeDone _ => none
  | .rampTableWrite _ _ _ _ => none
  | .slewStepBoundary _ _ => none
  | .slewGrant _ _ => none
  | .telemetryPeriod _ _ => none
  | .telemetryEnableWrite _ _ => none
  | .debugHalt _ _ _ => none
  | .haltDrainDone _ _ => none
  | .debugResume _ _ _ => none
  | .debugStep _ _ _ _ => none
  | .debugPass _ _ => none
  | .debugRelease _ _ _ _ => none
  | .stepEvent _ _ => none
  | .evcountWrite _ => none
  | .xbLineRead _ _ => none
  | .xsprOutputWrite _ _ => none
  | .xbModeTake _ _ => none
  | .fillerRampBlock _ => none
  | .leaseRequestArrive _ _ _ _ _ => none

/-- The bundle of an encoded slot: the slot alone. -/
def Encoded.bundle : Encoded → BitVec 256
  | .control w => w.zeroExtend 256
  | .moveSlot w => w.zeroExtend 256 <<< 32

/-- The 256-bit bundle that stands for an instruction: a bundle of its own, or its slot alone. -/
def encode : Instr → Option (BitVec 256)
  | .bundleIssue b => some b
  | i => (encodeSlot i).map Encoded.bundle

/-- The 32 bytes of a bundle, least significant first (R10). -/
def bundleBytes (b : BitVec 256) : List (BitVec 8) := (List.range 32).map fun k => b.extractLsb' (8 * k) 8

end Sys2Proof
end

