-- ==== Sys2Proof/Config.lean ====
section
/-!
DEFINITION. What one package fixes once and for all, and the free values: constants without a body, so that nothing
proved in this model can rest on what they are (notes/assumptions 4, 9, 10).
-/

namespace Sys2Proof.Config

/-- A value the spec leaves open: a fresh line for each value of State.free (log 4). -/
opaque freeLine : Nat → BitVec 1024
/-- What a word of the presence map reads as at lines outside the reader's allotment (05 R124): core * 4096 + byte
(log 98). -/
opaque hiddenPresence : Nat → BitVec 64
/-- SHA3-256 of a byte string (14 R330, R332): its values are not in the spec (log 9). -/
opaque sha3 : List (BitVec 8) → BitVec 256
/-- ML-DSA-44 verification: public key, message, signature (14 R330) (log 9). -/
opaque mldsaVerify : List (BitVec 8) → List (BitVec 8) → List (BitVec 8) → Bool
/-- ML-DSA-44 signature of a message made with the key that a seed gives (14 R331, R332) (log 9). -/
opaque mldsaSign : BitVec 256 → List (BitVec 8) → List (BitVec 8)
/-- The public key of the key pair that a seed gives (14 R331) (log 9). -/
opaque mldsaPublic : BitVec 256 → List (BitVec 8)
/-- The result of a function-unit operation on an operand for which the enclosure that the model computes does not
decide the rounding: operation number and operand bits (07 R183) (log 10). -/
opaque fnFree : Nat → BitVec 32 → BitVec 32
/-- The direction of a tie of a narrow format without mantissa bits on the grid 2^g (02 R57) (log 17). -/
opaque narrowTieUp : Int → Bool
/-- The X.509 certificate of the identity public key, kept in one-time memory (14 R331) (log 9). -/
opaque identityCert : List (BitVec 8) → List (BitVec 8)
/-- The body of the certificate of an alias public key: what the identity key signs (14 R331) (log 9). -/
opaque aliasBody : List (BitVec 8) → List (BitVec 8)
/-- Fuses: the four key hashes (14 R330). -/
opaque fuseKeyHash : Nat → BitVec 256
/-- Fuses: the key-revoke bits (14 R330). -/
opaque fuseRevoke : BitVec 4
/-- Fuses: the minimum security version number (14 R330). -/
opaque fuseMinSvn : BitVec 32
/-- Fuses: the device secret (14 R331). -/
opaque fuseSecret : BitVec 256
/-- Fuses: the serial number of each stage die (17 R360). -/
opaque fuseSerial : Nat → BitVec 64

/-- Stage dies, clusters per die, cores per cluster (00 R1, R5). -/
def dies : Nat := 8
def clustersPerDie : Nat := 8
def coresPerCluster : Nat := 16
/-- Cores of one stage die. -/
def coresPerDie : Nat := 128
/-- Cores of the package, those of disabled clusters among them (00 R3). -/
def cores : Nat := 1024
/-- Bytes of HBM of the package: 384 GiB (03 R71). -/
def hbmBytes : Nat := 0x6000000000
/-- What a byte of HBM that no one has written reads as: bring-up zeroes HBM (17 R359 step 2; log 2). -/
def hbmUnlisted : BitVec 8 := 0

end Sys2Proof.Config
end

