-- ==== Sys2Proof/Machine/State.lean ====
section
/-!
DEFINITION. The state of one FVK-1024 package, as plain data: cores, stage dies, package registers, HBM, and the model's
own scheduling fields. INVENTORY.md lists every field with the rule that names it and its reset value.
-/

namespace Sys2Proof.Machine

/-! ### Small parts -/

/-- What a core is doing (13 R294, R295, R301; 17 R358). -/
inductive Mode where
  /-- No task, no handler: the board may dispatch (12 R279). -/
  | idle
  /-- A task runs. -/
  | task
  /-- Handler mode (13 R295). -/
  | handler
  /-- Stopped by a double trap until the stage manager releases it (13 R295). -/
  | stopped
  deriving DecidableEq, Repr

/-- A trap cause with what the frame says of it (13 R296, R305). -/
structure Cause where
  code : Nat
  slot : Nat := 8
  sub : Nat := 0
  i0 : Word := 0
  i1 : Word := 0
  i2 : Word := 0
  /-- The RESCALE of a QNT or QSCALE (07 R178). -/
  quant : Bool := false
  /-- Of a completion cause, its operation's place in the order of triggers (13 R293). -/
  ord : Nat := 0
  deriving DecidableEq, Repr

/-- What an unfinished operation's result still waits for. -/
inductive Await where
  /-- Nothing: the result is formed (in the wings). -/
  | ready
  /-- Line `ln` of core `core` is absent (05 R126). -/
  | line (core ln : Nat)
  /-- Accumulator tile `t` of core `core` is held by its matrix unit (08 R190). -/
  | tile (core t : Nat)
  /-- The home or engine has not answered (13 R300 ATR). -/
  | agent
  /-- A load that reads again when the restart bundle issues (13 R300 LREQ). -/
  | again
  deriving DecidableEq, Repr

/-- The replay kinds of digital items (13 R298). -/
inductive ItemKind where
  | dig | res | lreq | atr
  deriving DecidableEq, Repr

/-- What happens beside the port writes when an operation completes. -/
inductive Fx where
  | none
  /-- A clamp count for a survey of a die (07 R177): RESCALE of completion class when its flag is set (10 R238). -/
  | clamp (die sv n : Nat)
  /-- The result lanes are noted in a survey of a die, `n` of them, BF16 or FP32 (08 R195). -/
  | note (die sv ty n : Nat)
  /-- The giver's or taker's gap in its right to a buffer ends (05 R134): the owner core, the context, the table slot. -/
  | right (owner ctx slot : Nat)
  deriving DecidableEq, Repr

/-- A digital operation that has issued and not completed (06 R145, 13 R300). -/
structure Item where
  kind : ItemKind
  id : Nat
  m : BitVec 4
  seq : Nat
  /-- The run cycle at which it completes or lands. -/
  due : Nat
  /-- Captured values and data lines as the replay entry holds them (13 R300). -/
  a : Word := 0
  b : Word := 0
  lines : List Line := []
  await : Await := .ready
  /-- The clock cycle from which the data of a load is in the wings (05 R131). -/
  rdy : Nat := 0
  /-- Result ports written at completion: source id and value. -/
  wr : List (Nat × Line) := []
  /-- A later-triggered operation has completed on its port in the run cycle in which this one is due: its result is lost (06
  R146). -/
  lost : Bool := false
  fx : Fx := .none
  /-- Address of the triggering bundle. -/
  bpc : Word := 0
  deriving DecidableEq, Repr

/-- An operation of a lock-step engine: mx, acc or xb (06 R151, 08, 09). -/
structure EngineOp where
  id : Nat
  m : BitVec 4 := 0
  trig : Word := 0
  /-- Configuration ports captured at the trigger. -/
  ports : List Word := []
  /-- Legends captured at the trigger (08 R189). -/
  legs : List (BitVec 128) := []
  seq : Nat
  /-- Start cycle. -/
  u : Nat
  /-- Controller time and tile time (06 R151, 09 R207). -/
  dc : Nat
  dt : Nat
  started : Bool := false
  /-- The run cycle at whose start it needs what may be missing: its grant, or operand lines (06 R152). -/
  due : Option Nat := none
  /-- Steps, lines, slots or columns done. -/
  step : Nat := 0
  /-- Output lines, slots or columns done by an xb operation (09 R209, R219, R220, R222, R223). -/
  outs : Nat := 0
  /-- Slots or columns that had begun when the operation was stopped, the run cycles it had run then, and the clock cycle: they
  end in real time (09 R225). -/
  begun : Nat := 0
  stopRan : Nat := 0
  stopClk : Nat := 0
  /-- Restarted after a trap: its grant stands (15 R341). -/
  again : Bool := false
  /-- Lines read and buffered: input lines, code lines (09 R209). -/
  buf : Tab Line := []
  /-- Words being formed or captured: the understudy and sums of mx, the tile image of acc (08 R190, R196). -/
  sums : Tab Acc40 := []
  /-- Input exponent and whether the input survey was empty (09 R214). -/
  ex : Int := 0
  empty : Bool := false
  /-- Counts of coincidences, clamps (09 R217). -/
  count1 : Nat := 0
  count2 : Nat := 0
  bpc : Word := 0
  /-- Triggered by a stepped bundle (17 R356). -/
  stepped : Bool := false
  /-- A follow-on's channel with INFO1 and INFO2 of its causes (04 R98, 13 R304). -/
  agent : Option (Nat × Word × Word) := none
  deriving DecidableEq, Repr

/-- A request that waits for the slew limiter, or a grant not yet used (15 R338): engine 0 mx, 1 xb, 2 STGO,
3 SLEWREQ, 4 a follow-on for mx, 5 one for xb, 16 + k the end of stream k's START. -/
structure SlewReq where
  core : Nat
  eng : Nat
  seq : Nat
  w : Nat
  /-- What the requester draws already and its weight replaces. -/
  own : Nat := 0
  /-- The clock cycle of the request, and that of the grant. -/
  since : Nat := 0
  got : Nat := 0
  deriving DecidableEq, Repr

/-- A stream (05 R135..R137). -/
structure Stream where
  desc : BitVec 256 := 0
  /-- 0 IDLE, 1 CONF, 2 START, 3 RUN, 4 DONE. -/
  st : Nat := 0
  n : Nat := 0
  /-- Run cycle at which START ends. -/
  runAt : Nat := 0
  /-- Lines of a write stream not yet in the VRF banks (at most 8). -/
  wbuf : List Nat := []
  deriving DecidableEq, Repr

/-- A buffer-table entry (05 R132). -/
structure Buf where
  first : Nat := 0
  cntm1 : Nat := 0
  holder : Nat := 0
  target : Nat := 0
  /-- 0 FREE, 1 HELD, 2 OFFERED. -/
  st : Nat := 0
  gen : Nat := 1
  /-- Core in the cluster whose right is suspended until the result of its handle operation `seq` (05 R134). -/
  gap : Option (Nat × Nat) := none
  deriving DecidableEq, Repr

/-- A tile pair (09 R203, R211, R212, R221). -/
structure Pair where
  nF : Tab Int := []
  nC : Tab Int := []
  sRow : Tab Int := []
  sCol : Tab Int := []
  gamma : BitVec 16 := 0x3F80
  wstep : BitVec 16 := 0x3A80
  seedR : BitVec 16 := 0
  seedC : BitVec 16 := 0
  tp : Nat := 0
  mode : Nat := 4
  /-- Clock cycle at which the settle in progress ends; 0 when settled. -/
  settle : Nat := 0
  /-- MODE before the last change (09 R212). -/
  prev : Nat := 4
  /-- A settle recorded as unfinished when the state left the core (09 R212). -/
  unsettled : Bool := false
  /-- Cleared since its last owner (09 R205). -/
  cleared : Bool := true
  /-- Counted in PBAD (17 R361). -/
  bad : Bool := false
  /-- The symmetry registers of the calibration (17 R361). -/
  calRow : Tab Int := []
  calCol : Tab Int := []
  deriving DecidableEq, Repr

/-- A reduce copy of another package that waits in SLOT for a home here: its context, its package's rank, its core and tag, and
the timestamp at which it was accepted (08 R198, R199). -/
structure SlotAsk where
  ctx : Nat
  rank : Nat
  core : Nat
  tag : Nat
  since : Nat
  deriving DecidableEq, Repr

/-- The time-slot table of a core (08 R198..R200). -/
structure SlotTab where
  entries : List (BitVec 32) := []
  ptr : Nat := 0
  rep : Bool := false
  done : Bool := true
  /-- The admitted copy: source core and channel, or 1,024 * (1 + rank) + core and the slot tag of another package's. -/
  adm : Option (Nat × Nat) := none
  deriving DecidableEq, Repr

/-! ### The parts of a core -/

/-- Registers and ports (06 R144, R148; 01 R29). -/
structure Regs where
  s : Tab Word := []
  p : BitVec 8 := 0
  lit : Word := 0
  /-- Operand and configuration ports by destination id. -/
  op : Tab Line := []
  /-- Result ports by source id. -/
  res : Tab Line := []
  deriving DecidableEq, Repr

/-- Control registers (06 R163, 02 R67, 13 R307, 15 R336, 17 R353). -/
structure CtlRegs where
  win : Word := 0
  fmt : Word := 0
  lpc : Word := 0
  lsq : Word := 0
  ltc : Word := 0
  lix : Word := 0
  wdg : Word := 16777216
  hcy : Word := 0
  scy : Word := 0
  pdl : Word := 65536
  tcause : BitVec 8 := 0
  terr : Word := 0
  egr : Word := 4194240
  ewt : BitVec 256 := 0
  /-- Slew reservation RES. -/
  res : Nat := 0
  /-- Clock cycle at which the prompt was raised, and NOSLOT. -/
  prompt : Option Nat := none
  noslot : Bool := false
  /-- HALTS of `ctl.dbg` (17 R353). -/
  halts : BitVec 32 := 0
  deriving DecidableEq, Repr

/-- What a core has counted for a launch since it first ran a task of it (06 R163; 13 R307; 17 R353). -/
structure Tally where
  hcy : Word := 0
  scy : Word := 0
  terr : Word := 0
  halts : BitVec 32 := 0
  deriving DecidableEq, Repr

/-- The modulo sequencer while it runs: the body as decoded at LOOPM (06 R154..R158). -/
structure Seq where
  on : Bool := false
  body : List (BitVec 256) := []
  deriving DecidableEq, Repr

/-- The pipeline: run cycles, unfinished operations, holds, pending causes, charges. -/
structure Pipe where
  /-- The number of the run cycle that is next. -/
  run : Nat := 0
  /-- Triggers so far: the order of triggers. -/
  seq : Nat := 0
  items : List Item := []
  /-- Consecutive held clock cycles of the bundle that is due, and the hold reason of R305. -/
  held : Nat := 0
  holdR : Nat := 0
  /-- Wait cycles still to pass before the restart bundle issues (13 R301 PRE). -/
  pre : Nat := 0
  /-- Clock cycles that a timing-error replay still takes (13 R303). -/
  replay : Nat := 0
  /-- Pending causes of completion class, later triggered first. -/
  causes : List Cause := []
  /-- Pending attributed causes with the raising agent: channel 0..7 or 8 for the memory tier. -/
  attr : List (Nat × Cause) := []
  /-- The energy window: (clock cycle, charge) of the last 63 clock cycles (15 R334, R335). -/
  charges : List (Nat × Nat) := []
  deriving DecidableEq, Repr

/-- The lock-step engines (06 R151, R152). -/
structure Engines where
  mx : Option EngineOp := none
  mxWait : Option EngineOp := none
  acc : Option EngineOp := none
  /-- Operations that hold the controller or a pair, or wait for their start cycle. -/
  xb : List EngineOp := []
  streams : Tab Stream := []
  /-- Clock cycle after the last one of the latest mx operation, and its draw there (15 R339). -/
  mxEnd : Nat × Nat := (0, 0)
  deriving DecidableEq, Repr

/-- The running task (12 R271, R276). -/
structure Running where
  /-- The record's image (12 R271). -/
  img : BitVec 512
  /-- Effective priority at dispatch. -/
  e : Nat
  /-- Clock cycle of the dispatch (12 R285 BUSY). -/
  since : Nat
  /-- Copy starts and tier commands this task issued: core, channel or 8, ticket or sequence (12 R274 ENGINE). -/
  cmds : List (Nat × Nat × Nat) := []
  /-- The board entry of its record, which it keeps while it runs (12 R277). -/
  idx : Nat := 0
  /-- The task's own number (11 R248). -/
  tid : Nat := 0
  deriving DecidableEq, Repr

/-- A translation a launch or a handler range holds (13 R377), or a gazetteer entry: page base, page size, leaf. -/
structure HeldPage where
  va : Nat
  size : Nat
  leaf : BitVec 64
  deriving DecidableEq, Repr

/-- Elements of a copy that a TLBINV waits for (13 R314): below `reads`, those whose reads are not complete; below `writes`,
those not written. -/
structure TlbOpen where
  core : Nat
  ch : Nat
  ticket : Nat
  reads : Nat
  writes : Nat
  deriving DecidableEq, Repr

/-- A copy start: its word, its offsets, whether it came through the aperture and whether it resumes (04 R91, R112), with
what the task that made it may do (10 R230) and the address of its bundle. -/
structure Start where
  v : Word
  offs : Word
  ap : Bool := false
  resume : Bool := false
  priv : Bool := false
  svFirst : Nat := 0
  svCount : Nat := 0
  bpc : Word := 0
  /-- A store to OFFS that stays behind a start which waits at the aperture (04 R91). -/
  set : Bool := false
  /-- The trigger that made it, in its core's order. -/
  seq : Nat := 0
  stepped : Bool := false
  /-- The task that made it (11 R249). -/
  tid : Nat := 0
  deriving DecidableEq, Repr

/-- Where an element of a copy goes: HBM bytes, an atlas address of this package, or an address of another package
(its HBM or its atlas). -/
inductive Place where
  | hbm (l : List Nat)
  | here (a : Nat)
  | far (rank a : Nat) (virt : Bool)
  deriving DecidableEq, Repr

/-- An at operation that has left its core and is not yet performed at its home, or is registered there (11 R251); a queued
STA (op 0x192: `x` its bytes, `y` its rights, `line` its data), and a handle operation that waits for earlier stores
(05 R134: `x` its trigger value, `y` its handle). -/
structure AtOp where
  /-- The item of the issuing core whose result it forms (AST and engine operations have none: seq with no item). -/
  seq : Nat
  /-- Destination id 0x282..0x28B (11 R252). -/
  op : Nat
  addr : Word
  x : Word
  y : Word := 0
  m : BitVec 4
  /-- The scope at which it releases (11 R256, R262), and whether a release fence makes it cover every earlier write (R259). -/
  rel : Option Nat := none
  cover : Bool := false
  /-- The task that issued it, which keeps one agent order on whichever core it runs, and its place in that order (11 R248). -/
  tid : Nat := 0
  num : Nat := 0
  /-- Issued by the present task: counts for R256 and the fences. -/
  live : Bool := true
  /-- Issued by what the core runs now (0), by the task beneath the handler that runs (1), by a handler that has returned
  (2): only the first holds bundles and fences. -/
  lvl : Nat := 0
  /-- Issued by an engine, a board or another package: no core waits for its result. `src` tells such agents apart. -/
  mute : Bool := false
  src : Nat := 0
  /-- An AWAITGE registered in another package (14 R320). -/
  far : Bool := false
  /-- The context of the issuer, and the data of an STA that waits (08 R190). -/
  ctx : Nat := 0
  line : Line := 0
  deriving DecidableEq, Repr

/-- A command that has left the core's latches into the commit buffer (13 R303): the clock cycle of its bundle and
what it asks of its agent. -/
inductive Out where
  /-- An at operation of item `seq`: operation id, address, two operands, modifier, the scope at which it releases, and whether
  it covers every earlier write. -/
  | at (seq : Nat) (op : Nat) (addr x y : Word) (m : BitVec 4) (rel : Option Nat) (cover : Bool)
  /-- A copy start on a channel (04 R112). -/
  | cpgo (ch : Nat) (x : Start)
  /-- An index-queue push (04 R113). -/
  | gqpush (ch : Nat) (v : Word)
  /-- An abort of a channel (04 R114). -/
  | cpabort (ch : Nat)
  /-- A token of item `seq` (12 R284): destination, token, scope. -/
  | token (seq : Nat) (dest : Word) (tok : Nat) (scope : Nat)
  /-- A barrier arrival of item `seq` (12 R289). -/
  | barc (seq : Nat) (b : Nat) (wait : Bool)
  /-- A SPAWN of item `seq` with the record image (12 R282). -/
  | spawn (seq : Nat) (img : BitVec 512)
  /-- Units of work reported for a group of a launch (12 R286). -/
  | unit (slot group n : Nat)
  /-- A phase boundary of item `seq` (12 R286). -/
  | bound (seq : Nat) (slot : Nat)
  /-- An STA that must come after a pending operation or goes to another package, or a handle operation that waits. -/
  | queue (a : AtOp)
  /-- A TLBINV of item `seq` (13 R314). -/
  | tlbinv (seq : Nat) (form : Nat) (pkg : Bool) (va : Nat)
  deriving DecidableEq, Repr

/-- Who waits for a request: a channel or another agent of the package, another package whose access it is a part of
(14 R320), or the host, for `n` bytes from `a` (14 R327). -/
inductive Asker where
  | agent
  | far (x : FabricAccess)
  | host (a n : Nat)
  deriving DecidableEq, Repr

/-- A request for a pseudo-channel (03 R74): its source core * 8 + channel, its line, the bytes of a write, and the
timestamp of its admission. -/
structure HbmReq where
  src : Nat
  line : Nat
  write : Bool
  data : List (Nat × BitVec 8) := []
  age : Nat := 0
  /-- The write fills the line: with zeros where `data` says nothing. -/
  whole : Bool := false
  /-- The data of the write is uncorrectable (03 R82). -/
  bad : Bool := false
  who : Asker := .agent
  deriving DecidableEq, Repr

/-- An element of a copy on its way: the HBM bytes it has still to read, each with its place in the element, its value so
far, and where it goes. -/
structure Elem where
  src : List (Nat × Nat) := []
  val : Nat := 0
  dst : Place
  deriving DecidableEq, Repr

/-- One accepted copy start with its snapshot (04 R92, R99). -/
structure Copy where
  tpl : Nat
  /-- The template's 3,072 bits as snapshot. -/
  img : BitVec 3072
  soff : Int
  doff : Int
  leg : BitVec 128 := 0
  scale : Int := 0
  /-- The task that started it: its survey range (10 R230) and context. -/
  ctx : Nat := 0
  svFirst : Nat := 0
  svCount : Nat := 0
  ticket : Nat := 0
  /-- The start word's reserved bits are zero (04 R91). -/
  wordOk : Bool := true
  /-- Order of acceptance: the time at which its core's clock cycle began * 8 + channel, and the timestamp then (08 R199). -/
  order : Nat := 0
  since : Nat := 0
  checked : Bool := false
  acqDone : Bool := false
  /-- Elements written so far, in element order (04 R99). -/
  done : Nat := 0
  /-- Elements requested and not yet written, from element `done` on; read requests and write requests of theirs that the
  controllers have not completed (03 R74). -/
  reading : List Elem := []
  reads : Nat := 0
  writes : Nat := 0
  /-- Requests of the elements in hand that have not left the core: one leaves in a cycle (04 R93). -/
  ask : List HbmReq := []
  /-- The clock cycle before which the copy makes no request, and that before which it lands no line (04 R93). -/
  wake : Nat := 0
  land : Nat := 0
  /-- An HBM line read that is uncorrectable (03 R81). -/
  bad : Option Nat := none
  /-- Lines claimed and not yet given back (04 R105), core * 32768 + line, each with the last element that touches it. -/
  claims : Tab Nat := []
  /-- Indices taken by a gather copy (04 R100). -/
  idx : List Int := []
  relDone : Bool := false
  /-- The follow-on has been formed (04 R98). -/
  folDone : Bool := false
  /-- Accumulator words that a stopped reduce copy had added to above RPROG: core, word, contents (04 R104). -/
  words : List (Nat × Nat × Acc40) := []
  /-- Source lines of the elements in hand that have been read again after a CRC mismatch (03 R81). -/
  crc : List Int := []
  /-- Admitted by the time-slot table of its home core (04 R101). -/
  admitted : Bool := false
  /-- The task that started it was privileged; the address of its bundle; started by a stepped bundle. -/
  priv : Bool := false
  bpc : Word := 0
  seq : Nat := 0
  stepped : Bool := false
  tid : Nat := 0
  deriving DecidableEq, Repr

/-- A copy channel (04 R90..R106). -/
structure Channel where
  /-- 0 IDLE, 1 ACQ, 2 RUN, 3 SLOT, 4 FAULT, 5 ABORT (04 R103). -/
  st : Nat := 0
  cause : Nat := 0
  ticket : Nat := 0
  rprog : Nat := 0
  act : Option Copy := none
  queue : List Copy := []
  offs : Word := 0
  /-- Starts that wait for a place: word and OFFS, from bundles (accepted at once) or through the aperture. -/
  pend : List Start := []
  /-- Starts that an abort discarded: their claims are withdrawn when it has drained (04 R106). -/
  dropped : List Copy := []
  /-- Clock cycles for which a LOWPRI copy's request has been ready and not served (04 R93). -/
  starve : Nat := 0
  indices : List Int := []
  /-- Translations held, most recently used first, at most 8 (04 R109). -/
  tlb : List HeldPage := []
  /-- A follow-on formed and not yet handed over (04 R98, 13 R299). -/
  follow : Option (Nat × Word × BitVec 4) := none
  deriving DecidableEq, Repr

/-- A follow-on at the core: FID, FVAL, FMOD, channel, and INFO1 and INFO2 of its causes (04 R98, 13 R304). -/
structure FollowOn where
  id : Nat
  val : Word
  m : BitVec 4
  ch : Nat
  seq : Nat
  info : Word := 0
  tpl : Word := 0
  /-- A stepped bundle started its copy, and that bundle's address (17 R356). -/
  stepped : Bool := false
  bpc : Word := 0
  deriving DecidableEq, Repr

/-- The copy engine of a core (04). -/
structure CopyEngine where
  tpl : Tab (BitVec 3072) := []
  ch : Tab Channel := []
  /-- Round-robin position of the request server (04 R93). -/
  rr : Nat := 0
  follows : List FollowOn := []
  deriving DecidableEq, Repr

/-- A tier command of a core: issued, accepted, or complete (03 R83). -/
structure TierCmd where
  seq : Nat
  op : Nat
  o : Word
  t : Word
  m : BitVec 4
  accepted : Bool := false
  live : Bool := true
  bpc : Word := 0
  stepped : Bool := false
  deriving DecidableEq, Repr

/-- What stands behind an entry of a frame. -/
inductive Behind where
  | item (x : Item)
  | op (x : EngineOp)
  | follow (x : FollowOn)
  | tier (x : TierCmd)
  deriving DecidableEq, Repr

/-- What the replay queue held at trap entry beside the frame: the entries and data lines as written, and what stands
behind each entry, so that an altered entry is recognised (13 R302; log 15). -/
structure Shadow where
  entries : List (BitVec 256 × List Line) := []
  behind : List Behind := []
  /-- The pending release fence of the task (11 R262). -/
  fence : Option Nat := none
  /-- The BKPT bundle that PASS had let go when the trap struck, by its address (17 R357). -/
  pass : Option Nat := none
  deriving DecidableEq, Repr

/-- A core (00 R5). Every core of the package has the same parts; an unlisted core reads as `Core.reset`. -/
structure Core where
  mode : Mode := .idle
  /-- Halted by the debug mechanism; stopped at a BKPT (with `halted` false: the bundle passes, its control slot a CNOP);
  a single step is armed (17 R354, R356, R357). -/
  halted : Bool := false
  bkpt : Bool := false
  stepArm : Bool := false
  /-- The copy channels and tier commands of the core issue no requests (17 R355). -/
  chanHalt : Bool := false
  /-- Handler entered with NOTASK (13 R296, R304). -/
  notask : Bool := false
  /-- Resident context (13 R309). -/
  ctx : Option Nat := none
  running : Option Running := none
  /-- Bits [50:5] of the program counter; bits [4:0] are always zero (01 R10). -/
  pc : BitVec 46 := 0
  regs : Regs := {}
  ctl : CtlRegs := {}
  seq : Seq := {}
  pipe : Pipe := {}
  eng : Engines := {}
  /-- VRF lines (05 R116). -/
  vrf : Tab Line := []
  /-- Lines whose presence bit is 0 (05 R125). -/
  absent : Tab Bool := []
  /-- Claims on a line (05 R125). -/
  claims : Tab Nat := []
  /-- Lines and accumulator words (tile * 4096 + word) that their check bits find uncorrectable (03 R80; 13 R292, log 109). -/
  soft : List Nat := []
  softAcc : List Nat := []
  /-- Accumulator words: tile * 4096 + word (08 R193). -/
  accw : Tab Acc40 := []
  slots : SlotTab := {}
  /-- Copies of other packages that wait for the core's table, of every context. -/
  slotAsks : List SlotAsk := []
  bufs : Tab Buf := []
  pairs : Tab Pair := []
  /-- The commit buffer: clock cycle of issue and effect (13 R303). -/
  cbuf : List (Nat × Out) := []
  /-- The pending release fence's scope (11 R262). -/
  relFence : Option Nat := none
  /-- At operations sent and not performed, oldest first (11 R251). -/
  ats : List AtOp := []
  shadow : Shadow := {}
  /-- Stopped crossbar operations, which their pairs hold, with the run cycles each had run (09 R225). -/
  stopped : List (EngineOp × Nat) := []
  /-- The launch slot whose templates and energy table were loaded last (12 R273). -/
  lastLaunch : Option Nat := none
  /-- The counts of the other launches whose tasks it has run; the last one's stand in the control registers. -/
  tally : Tab Tally := []
  cp : CopyEngine := {}
  tier : List TierCmd := []
  /-- TLBINVs performed whose requests under a removed translation are not complete: sequence, and of each copy its core,
  channel, ticket and the first element that it had not in hand (13 R314). -/
  tlbWaits : List (Nat × List TlbOpen) := []
  /-- Lines that `:va` pops of the core have written and no WAITE 5 or release has ordered yet: HBM address and data
  (03 R85). -/
  late : List (Nat × Line) := []
  /-- Step events in the queue, at most 16, oldest first, and those that wait for room (17 R356). -/
  stepq : List (BitVec 128) := []
  stepPend : List (BitVec 128) := []
  deriving DecidableEq, Repr

/-- A core after reset. -/
def Core.reset : Core := {}

/-! ### The parts of a stage die -/

/-- What a waiting record waits for (12 R274). -/
inductive Wait where
  /-- Ready as soon as its release is performed. -/
  | always
  | token (id : Nat) (h : BitVec 32)
  | sync (addr : Word) (v : BitVec 32)
  /-- Commands of the task, of the kinds that the mask selects, must be over. -/
  | engine (mask : Word)
  | timer (ts : Nat)
  | barrier (b : Nat) (t : BitVec 32)
  /-- Refused by another package: never met (12 R274). -/
  | never
  deriving DecidableEq, Repr

/-- A continuation record on the board (12 R271, R277). -/
structure Record where
  ctx : Nat
  img : BitVec 512
  wait : Wait := .always
  /-- At operations (core, sequence) that are performed before the wait is registered or the record made ready. -/
  after : List (Nat × Nat) := []
  /-- Copy starts and tier commands its task has issued: core, channel or 8, ticket or sequence (12 R274 ENGINE). -/
  cmds : List (Nat × Nat × Nat) := []
  /-- Its task runs on a core. -/
  run : Bool := false
  ready : Bool := false
  readyAt : Nat := 0
  /-- Created by a launch and never dispatched: its ports are zeroed, its slot table loaded (12 R276, 08 R198). -/
  fresh : Bool := false
  /-- The save slot of a forced save (13 R306) with the shadow of its frame. -/
  frame : Option (Nat × Shadow) := none
  /-- The core prompted for it (12 R280). -/
  prompting : Option Nat := none
  /-- The task's own number (11 R248). -/
  tid : Nat := 0
  /-- The core whose SYNC wait for a word of another package is not registered there yet (12 R274). -/
  reg : Option Nat := none
  deriving DecidableEq, Repr

/-- A slot of the launch table (12 R272, R273, R285). -/
structure Launch where
  ctx : Nat
  hdr : BitVec 1024
  prio : Nat := 0
  group : Nat := 0
  aff : Nat := 0
  /-- Records still to create, and the index of the next. -/
  todo : Nat := 0
  next : Nat := 0
  acceptedAt : Nat := 0
  /-- Records created and not freed. -/
  live : Nat := 0
  code : List HeldPage := []
  tpl : List (BitVec 3072) := []
  slotimg : List Line := []
  units : List (List Nat) := []
  cur : Nat := 0
  busy : Tab Nat := []
  done : Tab Nat := []
  cpu : Tab Nat := []
  deriving DecidableEq, Repr

/-- A launch request in a port (12 R272). -/
structure LaunchReq where
  ctx : Nat
  req : BitVec 256
  priv : Bool
  tier : Bool
  deriving DecidableEq, Repr

/-- One entry of a tensor stack, newest first in its list (03 R84..R86). -/
structure StackEntry where
  key : Nat
  tag : BitVec 16
  len : Nat
  resident : Bool := true
  /-- The lines of the stack segment that it takes, header first: runs of a first line and a count; none while it waits for
  room (log 24). -/
  runs : List (Nat × Nat) := []
  /-- Lines the push has written so far. -/
  wrote : Nat := 0
  /-- Detached by a POPT, with the lines the pop has written. -/
  popped : Option Nat := none
  deriving DecidableEq, Repr

/-- A push or pop in progress (03 R84): the core and command that issued it. -/
structure TierJob where
  core : Nat
  seq : Nat
  op : Nat
  o : Word
  m : BitVec 4
  len : Nat
  key : Nat
  n : Nat := 0
  /-- Line `n` is read again after a CRC mismatch (03 R81). -/
  crc : Bool := false
  deriving DecidableEq, Repr

/-- A lease slot (03 R88). -/
structure LeaseSlot where
  /-- 0 FREE, 1 PENDING, 2 ACTIVE, 3 REFUSED, 4 NOTICE, 5 REVOKED, 6 RELEASING. -/
  st : Nat := 0
  lender : Nat := 0
  asked : Nat := 0
  part : Bool := false
  units : Nat := 0
  base : Nat := 0
  deadline : Nat := 0
  deriving DecidableEq, Repr

/-- The tensor stack of a context on a die. -/
structure Stack where
  entries : List StackEntry := []
  /-- Popped entries whose pop has not ended. -/
  leaving : List StackEntry := []
  jobs : List TierJob := []
  nextKey : Nat := 0
  /-- The lines of spilled entries in the deep tier, header first, and those that are poisoned there: key * 2^25 + line
  (03 R82, R86). -/
  data : Tab Line := []
  poison : List Nat := []
  /-- The spill engine is between its marks (03 R86). -/
  spilling : Bool := false
  /-- The entry that the spill engine moves: its key, the lines moved, and whether it comes back (03 R86). -/
  moving : Option (Nat × Nat × Bool) := none
  leases : Tab LeaseSlot := []
  /-- Lease requests that an UNLEASE withdrew before their answer: slot and lender (03 R88). -/
  stale : List (Nat × Nat) := []
  /-- Ranges whose slot has been freed: lender, base, units (03 R89). -/
  gone : List (Nat × Nat × Nat) := []
  deriving DecidableEq, Repr

/-- A survey delta: survey, its 512-bit image as a delta, target die (10 R234). -/
structure Delta where
  sv : Nat
  home : Nat
  img : BitVec 512
  age : Nat := 0
  deriving DecidableEq, Repr

/-- The memory controller of a die (03 R73..R79). -/
structure MemCtl where
  idle : Tab (BitVec 16) := []
  period : BitVec 8 := 24
  scrub : Bool := true
  ehbase : BitVec 39 := 0
  ehcount : BitVec 20 := 1024
  ehhead : BitVec 20 := 0
  lost : BitVec 32 := 0
  /-- Records written since EHBASE, EHCOUNT or EHHEAD was last written (03 R78). -/
  ehfill : Nat := 0
  /-- Open row of a bank and the controller cycle of its last access. -/
  openRow : Tab (Option Nat) := []
  lastUse : Tab Nat := []
  /-- The source admitted last, by pseudo-channel. -/
  port : Tab Nat := []
  queues : Tab (List HbmReq) := []
  /-- Requests not yet admitted, by pseudo-channel. -/
  waiting : Tab (List HbmReq) := []
  /-- Admitted reads of agents beside the channels whose steps have not used them: source port, line, timestamp of the
  admission, and whether the data was good (03 R74). -/
  turns : List (Nat × Nat × Nat × Bool) := []
  scrubRow : Nat := 0
  /-- The requests of the row's lines have been made; the timestamp, in 1 / (98304 * 512) ns, at which the next row is due. -/
  scrubAsked : Bool := false
  scrubDue : Nat := 0
  /-- Lines written with the poison pattern (03 R77). -/
  poison : List Nat := []
  deriving DecidableEq, Repr

/-- The slew limiter of a cluster (15 R338). -/
structure Slew where
  step : Nat := 0
  waiting : List SlewReq := []
  granted : List SlewReq := []
  /-- Clock cycle of the last boundary acted on. -/
  last : Nat := 0
  deriving DecidableEq, Repr

/-- A barrier notice received and not released everywhere (12 R288): the generation and its release timestamp; the clock
cycle X of each die is fixed when the timestamp is reached. -/
structure Notice where
  ctx : Nat
  b : Nat
  gen : BitVec 32
  at_ : Nat
  /-- The clock cycle X of the die, once its timestamp is reached. -/
  x : Option Nat := none
  /-- Clusters released. -/
  done : List Nat := []
  deriving DecidableEq, Repr

/-- A binding of a sync word to a region (11 R255). -/
structure Binding where
  ctx : Nat
  word : Word
  base : Word
  len : Word
  scope : Nat
  /-- The core and the task that made it (11 R249, R255). -/
  core : Nat
  tid : Nat := 0
  deriving DecidableEq, Repr

/-- A barrier wait of a core (12 R289): core, item, barrier, target count. -/
structure BarWait where
  core : Nat
  seq : Nat
  ctx : Nat
  b : Nat
  t : BitVec 32
  deriving DecidableEq, Repr

/-- A BARC on its way to the home (12 R289), or an arrival that another package makes (no core), after the at operations
(core, sequence) that its release covers. -/
structure Arrival where
  core : Option Nat
  seq : Nat
  ctx : Nat
  b : Nat
  wait : Bool
  after : List (Nat × Nat) := []
  deriving DecidableEq, Repr

/-- A token on its way (12 R284): its destination die, the sending core (none for another package's), the at operations
that its release covers, and its scope. -/
structure Token where
  die : Nat
  ctx : Nat
  tok : Nat
  src : Option Nat := none
  /-- Destination rank of a token to another package. -/
  far : Option Nat := none
  after : List (Nat × Nat) := []
  scope : Nat := 7
  /-- The sending task (12 R284). -/
  tid : Nat := 0
  deriving DecidableEq, Repr

/-- The call board of a die (12 R277..R280). -/
structure Board where
  recs : Tab Record := []
  launches : Tab Launch := []
  ports : List LaunchReq := []
  tokens : Tab (BitVec 32) := []
  intok : List Token := []
  cap : BitVec 3 := 6
  ovbase : BitVec 39 := 0
  ovcount : BitVec 32 := 0
  tkbase : Tab (BitVec 39) := []
  /-- Barrier descriptors: ctx * 64 + b (12 R287). -/
  bars : Tab (BitVec 512) := []
  /-- The home's count of generations closed: ctx * 64 + b (12 R288; log 25). -/
  gens : Tab (BitVec 32) := []
  /-- released(b) of a cluster: (ctx * 64 + b) * 8 + q. -/
  released : Tab (BitVec 32) := []
  notices : List Notice := []
  arrivals : List Arrival := []
  waits : List BarWait := []
  deriving DecidableEq, Repr

/-- The reset image of a barrier descriptor: LEAD 4,000 (12 R287). -/
def barReset : BitVec 512 := BitVec.ofNat 512 (4000 * 2 ^ 80)
/-- The reset image of a ramp table (15 R333). -/
def rampReset : BitVec 512 :=
  let l : List Nat := [32, 48, 64, 96, 128, 160, 192, 224, 256, 320, 384, 448, 512, 640, 768, 1024, 64, 48, 8]
  BitVec.ofNat 512 (l.foldr (fun x a => x + 65536 * a) 0)

/-- The debug block of a die (17 R353, R355, R360). -/
structure Debug where
  halted : BitVec 64 := 0
  /-- Contexts under a HALT on the die: no record of theirs is dispatched (R354). -/
  stop : BitVec 64 := 0
  bken : BitVec 64 := 0
  cmd : Word := 0
  idrec : BitVec 512 := 0
  /-- Contexts that a RESUME let go whose held accesses have not drained (17 R355). -/
  drain : BitVec 64 := 0
  deriving DecidableEq, Repr

/-- A stage die. -/
structure Die where
  legends : Tab (BitVec 128) := []
  surveys : Tab (BitVec 512) := []
  deltas : List Delta := []
  /-- Deltas that reached this die as a home and wait to merge (10 R234). -/
  inDeltas : List Delta := []
  mirrors : Tab (BitVec 512) := []
  /-- Window entries: ctx * 64 + entry (05 R120). -/
  windows : Tab (BitVec 128) := []
  /-- Allotments: ctx * 128 + core of the die. -/
  allot : Tab (BitVec 32) := []
  ranges : Tab Word := []
  /-- Context control blocks (13 R308) and the handler pages they hold (13 R377). -/
  cctl : Tab (BitVec 512) := []
  handler : Tab (List HeldPage) := []
  /-- Save slots in use: ctx * 65536 + slot. -/
  saves : Tab Bool := []
  owner : Tab Word := []
  /-- Core layers of contexts that are not resident: ctx * 128 + core of the die (13 R309, R310). -/
  away : Tab (Option Core) := []
  bind : List Binding := []
  board : Board := {}
  tier : Tab Stack := []
  tierBlk : Tab (BitVec 256) := []
  mc : MemCtl := {}
  gaz : List (Nat × HeldPage) := []
  ftgt : BitVec 7 := 64
  fcur : BitVec 7 := 64
  ramp : Tab (BitVec 512) := []
  slew : Tab Slew := []
  dbg : Debug := {}
  deriving DecidableEq, Repr

/-- A stage die after reset. -/
def Die.reset : Die := {}

/-! ### The package -/

/-- The phases of the host register PHASE (14 R327, R329). -/
structure HostBlk where
  phase : Nat := 0
  err : Nat := 0
  go : Bool := false
  isize : BitVec 32 := 0
  wbase : Word := 0
  cmdbase : Word := 0
  cplbase : Word := 0
  tail : BitVec 12 := 0
  head : BitVec 12 := 0
  /-- The boot image buffer's bytes (14 R327). -/
  image : Tab (BitVec 8) := []
  /-- Command entries fetched and not executed, and the index of the next completion (14 R327). -/
  ring : List (BitVec 512) := []
  /-- Completions written to the host, newest first: slot and 16-byte record. -/
  cpl : List (Nat × BitVec 128) := []
  /-- MSI-X vectors signalled, newest first. -/
  msix : List Nat := []
  /-- Completions of the host's reads, and of accesses that complete as Unsupported Request (`none`), newest first
  (14 R327). -/
  reads : List (Option (List (BitVec 8))) := []
  /-- Requests of BAR2 accesses in the order received, not yet with their controllers (14 R327). -/
  posted : List HbmReq := []
  /-- The command at the head is a CLOSE that has begun (14 R328). -/
  begun : Bool := false
  /-- Bytes written to host memory (attestation evidence): address and bytes, newest first. -/
  dma : List (Nat × List (BitVec 8)) := []
  /-- Digest and SVN of the running image (14 R331). -/
  digest : BitVec 256 := 0
  svn : BitVec 32 := 0
  deriving DecidableEq, Repr

/-- A message to another package (14 R319..R322). -/
structure FabricMsg where
  rank : Nat
  /-- 0 access, 1 at operation, 2 token, 3 arrival, 4 notice, 5 lease, 6 reduce admission, 7 reduce add, 8 answer,
  9 refusal. -/
  kind : Nat
  body : List Word
  bytes : List (BitVec 8) := []
  deriving DecidableEq, Repr

/-- The wing dies and package-wide state (14). -/
structure Pkg where
  host : HostBlk := {}
  rank : BitVec 10 := 0
  dsize : BitVec 11 := 1
  linkUp : BitVec 16 := 0
  ringUp : BitVec 12 := 0xFFF
  late : BitVec 32 := 0
  retry : BitVec 64 := 0
  /-- Failed replays of the flit that is being replayed, by link (14 R317). -/
  fails : Tab Nat := []
  /-- The correction of the timestamp's rate in parts per million (14 R323). -/
  ppm : Int := 0
  /-- Fabric context blocks: wing * 64 + ctx (14 R321). -/
  fab : Tab (BitVec 2048) := []
  leaseN : BitVec 16 := 2000
  /-- Lendable units of 128 MiB by base, and those lent: (rank, ctx, slot, base, units, deadline). -/
  pool : List Nat := []
  lent : List (Nat × Nat × Nat × Nat × Nat × Option Nat) := []
  /-- Contexts that are open on a die: die * 64 + context (14 R328). -/
  opens : List Nat := []
  /-- Contexts that CLOSE or a Function Level Reset has begun to close on a die: die * 64 + context (14 R328). -/
  closing : List Nat := []
  outbox : List FabricMsg := []
  /-- Barrier notices on their way inside the package: context, barrier, generation, release timestamp (12 R288). -/
  sent : List (Nat × Nat × BitVec 32 × Nat) := []
  /-- The disabled cluster of a die: none of an FVK-1024, one of each die of an FVK-0896-PK (00 R1, R3; log 12). -/
  off : Tab (Option Nat) := []
  /-- CXL memory is attached and trained (03 R82). -/
  cxl : Bool := false
  /-- Double-trap and pair notifications to the stage manager, newest first (13 R295). -/
  notes : List (Nat × Nat) := []
  /-- Telemetry blocks (15 R342) and sequence numbers. -/
  tele : Tab (BitVec 512) := []
  teleSeq : Tab (BitVec 32) := []
  /-- Of the period of a block: bit n, die n had governor stalls; bit 8 + n, it had slew holds (15 R343). -/
  teleHeld : Tab (BitVec 16) := []
  /-- The timestamp at which the period of a block ends. -/
  teleDue : Tab Nat := []
  deriving DecidableEq, Repr

/-! ### What is laid out to happen (the model's own, log 3)

One name per step of the table that a core, an engine or a detached agent takes on its own. -/

inductive CoreStep where
  | accspillLine | acczDone | accfillDone | mxComplete | fillerBlock | result | landing | drain | replay | mxRead | accRead
  | trap | preempt | saveRetry | notask | dispatch | copyRequest | reduceAdmit | tierAccept | stepEvent
  deriving DecidableEq, Repr
inductive PairStep where
  | settleEnd | output | xspr | xupd | xfer | xrdavg | xprg | xrst | xspw | modeTake | status | lineRead
  deriving DecidableEq, Repr
inductive ChanStep where
  | accept | activate | acquire | index | lineDone | fault | finish | abortDrain | handover
  deriving DecidableEq, Repr
inductive DieStep where
  | launch | recordCreate | prompt | timer | recordReady | hbmAdmit | hbmComplete | scrub | bankIdle | deltaSend | deltaMerge
  | mirror | slewStep | slewGrant | frequency | haltDrain | spill | return_
  deriving DecidableEq, Repr
inductive CtxStep where
  | token | arrival | push | pop | leaseDeadline | leaseDrained | packageRelease
  deriving DecidableEq, Repr
/-- A step laid out: its kind with the core, die, context, channel or number it is for. -/
inductive Due where
  | core (k : CoreStep) (c : Nat)
  | start (c e : Nat)
  | stream (drain : Bool) (c n : Nat)
  | pair (k : PairStep) (c p : Nat)
  | chan (k : ChanStep) (c ch : Nat)
  | atOp (k : Fin 3) (c n : Nat)
  | die (k : DieStep) (d n : Nat)
  | ctx (k : CtxStep) (d x n : Nat)
  | cluster (d x b q : Nat)
  | notice (x b gen trel : Nat)
  | host
  deriving DecidableEq, Repr

/-- The state of the machine. -/
structure State where
  /-- Clock cycles since reset of the stage die whose step is next, that of the core in focus: its `cyc` (00 R4, 06 R148;
  log 11). -/
  clk : Nat := 0
  /-- The clock cycles of the other stage dies, and the time in 10^-9 ns at which the cycle of each is over. -/
  clocks : Tab Nat := []
  edges : Tab Nat := []
  /-- The package timestamp in nanoseconds (14 R318, R323) and the fraction of one not yet counted. -/
  ts : Nat := 0
  tsFrac : Nat := 0
  /-- HBM: bytes that do not read as `Config.hbmUnlisted`, by address (03 R71). -/
  mem : List Host.Cell := []
  cores : Tab Core := []
  dies : Tab Die := []
  pkg : Pkg := {}
  /-- The model's own: steps of detached agents and of the outside chosen to come first (log 3). -/
  agenda : List Instr := []
  /-- The model's own: the core whose clock cycle is next (log 3). -/
  focus : Nat := 0
  /-- The model's own: what is due before the focused core's clock cycle, first to last (log 3). -/
  todo : List Due := []
  /-- The model's own: the detached agents' part of the clock cycle, and the focused core's, are laid out (log 3). -/
  agents : Bool := true
  laid : Bool := false
  /-- The model's own: free values drawn so far (log 4). -/
  free : Nat := 0
  /-- The model's own: numbers given to tasks and to their pending operations so far (11 R248). -/
  count : Nat := 0
  deriving DecidableEq, Repr

/-- The machine right after reset: power-up, waiting for a boot image, nothing open (14 R329). -/
def State.reset : State := {}

/-- Where the machine stops with a fault. -/
inductive Fault where
  /-- Raised by the fetch when a core runs at an address that no translation held for its launch or its handler covers.
  13 R377 leaves only a handler range rewritten under its own handler (log 95); safe: the model stops. -/
  | fetchUnheld
  deriving DecidableEq, Repr

/-- Why the model gives an instruction no meaning. -/
inductive Refusal where
  /-- Raised by an arm of `exec` whose instruction has no meaning yet; safe: nothing can be proved of it. -/
  | notModelled (mnemonic : String)
  deriving DecidableEq, Repr

end Sys2Proof.Machine
end

