-- ==== Sys2Proof/Machine/Ops.lean ====
section
/-!
DEFINITION. The named operations over the state: the working machine of one step, fields of registers, HBM bytes, core
and die access, VRF lines with presence and claims, accumulator words, result items, free values.
A step works on `W`: the state with the HBM bytes written so far; `W.commit` writes them whole at the end.
-/

namespace Sys2Proof.Machine

/-! ### Bit fields -/

/-- Field `lo .. lo+len-1` replaced by `v` modulo 2^len. -/
def setBits {n : Nat} (w : BitVec n) (lo len v : Nat) : BitVec n :=
  BitVec.ofNat n (w.toNat - bits w lo len * 2 ^ lo + (v % 2 ^ len) * 2 ^ lo)

/-- A field read as two's complement. -/
def sbits {n : Nat} (w : BitVec n) (lo len : Nat) : Int :=
  let x := bits w lo len
  if 2 * x < 2 ^ len then (x : Int) else (x : Int) - 2 ^ len

/-- A natural number read as two's complement of `len` bits. -/
def sext (len x : Nat) : Int :=
  let y := x % 2 ^ len
  if 2 * y < 2 ^ len then (y : Int) else (y : Int) - 2 ^ len

/-- One bit. -/
def bitAt {n : Nat} (w : BitVec n) (i : Nat) : Bool := w.toNat.testBit i

/-- A truth value as a bit. -/
def b2n (b : Bool) : Nat := if b then 1 else 0

/-- A word from a number. -/
def word (x : Nat) : Word := BitVec.ofNat 64 x
/-- A line from a word: bytes 0..7 hold it, the rest is zero (01 R16). -/
def lineOf (x : Word) : Line := x.zeroExtend 1024
/-- The scalar of a line: bits [63:0] (01 R16). -/
def scalarOf (l : Line) : Word := l.truncate 64
/-- Lane `q` of a line. -/
def lane (l : Line) (q : Nat) : Lane := l.extractLsb' (16 * q) 16
/-- FP32 lane `q` of a line. -/
def lane32 (l : Line) (q : Nat) : BitVec 32 := l.extractLsb' (32 * q) 32
/-- A line from its lanes, lane 0 first. -/
def ofLanes (f : Nat → Lane) : Line :=
  BitVec.ofNat 1024 ((List.range 64).foldr (fun q a => (f q).toNat + 65536 * a) 0)
/-- A line from its FP32 lanes. -/
def ofLanes32 (f : Nat → BitVec 32) : Line :=
  BitVec.ofNat 1024 ((List.range 32).foldr (fun q a => (f q).toNat + 4294967296 * a) 0)
/-- `n` bytes of a line from byte `off`, as a number, least significant first. -/
def lineBytes (l : Line) (off n : Nat) : Nat := bits l (8 * off) (8 * n)
/-- Bytes `off .. off+n-1` of a line replaced. -/
def setLineBytes (l : Line) (off n v : Nat) : Line := setBits l (8 * off) (8 * n) v
/-- The bytes of a line. -/
def lineToBytes (l : Line) : List Byte := (List.range 128).map fun k => l.extractLsb' (8 * k) 8
/-- A bit vector from bytes, least significant first. -/
def ofBytes (n : Nat) (l : List Byte) : BitVec n := BitVec.ofNat n (leNat l)
/-- `n` bytes of a number, least significant first. -/
def toBytes (n x : Nat) : List Byte := (List.range n).map fun k => BitVec.ofNat 8 (x >>> (8 * k))

/-- The smaller and the larger bound of an integer. -/
def clampInt (lo hi x : Int) : Int := if x < lo then lo else if hi < x then hi else x

/-! ### Core numbers (00 R5, 05 R116) -/

/-- The stage die of a core. -/
def dieOf (c : Nat) : Nat := c / 128
/-- The cluster of a core within its die. -/
def clusterOf (c : Nat) : Nat := c / 16 % 8
/-- The core within its die: cluster * 16 + core. -/
def onDie (c : Nat) : Nat := c % 128
/-- Whether a core exists and its cluster is enabled (00 R3). -/
def State.clusterEnabled (s : State) (d q : Nat) : Bool := decide (q < 8) && decide (Tab.get none s.pkg.off d ≠ some q)
/-- A core that exists for software (00 R3). -/
def State.coreEnabled (s : State) (c : Nat) : Bool := decide (c < 1024) && s.clusterEnabled (dieOf c) (clusterOf c)

/-! ### The working machine -/

/-- A step's working copy: the state, the HBM bytes written so far, the ranges zeroed before them, newest first, the
grants of the slew limiter that starts of this step were given at once, and the lines whose reads, which the step uses, were
uncorrectable. -/
structure W extends State where
  out : List Host.Cell := []
  zeroed : List (Nat × Nat) := []
  took : List SlewReq := []
  bad : List Nat := []

/-- The working copy of a state. -/
def W.of (s : State) : W := { s with out := [], zeroed := [] }

/-- One byte of HBM. -/
def Mem.get (m : List Host.Cell) (a : Nat) : Byte := Tab.get Config.hbmUnlisted m a
/-- One byte written; an address outside the space is not written. -/
def Mem.put (m : List Host.Cell) (a : Nat) (v : Byte) : List Host.Cell :=
  if a < Config.hbmBytes then Tab.put Config.hbmUnlisted m a v else m
/-- The bytes of a write log, oldest first. -/
def Mem.writes (m : List Host.Cell) (l : List Host.Cell) : List Host.Cell :=
  l.foldl (fun m e => Mem.put m e.1 e.2) m
/-- The canonical form of memory: addresses strictly rising and inside the space, nothing that reads as unlisted. -/
def Mem.wf (m : List Host.Cell) : Bool :=
  Tab.wf Config.hbmUnlisted m && m.all fun e => decide (e.1 < Config.hbmBytes)

/-- The bytes `a .. a+n-1` of memory zeroed. -/
def Mem.clear (m : List Host.Cell) (a n : Nat) : List Host.Cell :=
  m.filter fun e => !(decide (a ≤ e.1) && decide (e.1 < a + n))

/-- The state after the step: the zeroed ranges and the written bytes of HBM land whole on what was there. -/
def W.commit (w : W) (s : State) : State :=
  { w.toState with mem := Mem.writes (w.zeroed.foldr (fun r m => Mem.clear m r.1 r.2) s.mem) w.out.reverse }

/-- The outcome of a step from `s` that goes on with the working copy `w`. -/
def go (s : State) (w : W) : Host.Outcome State Fault Refusal := .next (w.commit s)

/-- An HBM byte as the step sees it. -/
def W.byte (w : W) (a : Nat) : Byte :=
  match w.out.lookup a with
  | some v => v
  | none => Mem.get w.mem a
/-- `n` HBM bytes from `a`. -/
def W.bytes (w : W) (a n : Nat) : List Byte := (List.range n).map fun k => w.byte (a + k)
/-- `n` HBM bytes from `a` as a number. -/
def W.hbmNat (w : W) (a n : Nat) : Nat := leNat (w.bytes a n)
/-! ### Cores and dies -/

/-- A core. -/
def State.core (s : State) (c : Nat) : Core := Tab.get Core.reset s.cores c
/-- A stage die. -/
def State.die (s : State) (d : Nat) : Die := Tab.get Die.reset s.dies d
/-- A core changed. -/
def W.modCore (w : W) (c : Nat) (f : Core → Core) : W := { w with cores := Tab.set w.cores c (f (w.core c)) }
/-- A die changed. -/
def W.modDie (w : W) (d : Nat) (f : Die → Die) : W := { w with dies := Tab.set w.dies d (f (w.die d)) }
/-- The call board of a die changed. -/
def W.modBoard (w : W) (d : Nat) (f : Board → Board) : W := w.modDie d fun x => { x with board := f x.board }
/-- The package registers changed. -/
def W.modPkg (w : W) (f : Pkg → Pkg) : W := { w with pkg := f w.pkg }

/-! ### HBM lines (03 R71, R77) -/

/-- The stage die whose stack holds an HBM address (03 R71). -/
def stackOf (a : Nat) : Nat := a / 1024 % 8
/-- The pseudo-channel of an HBM address (03 R71). -/
def pcOf (a : Nat) : Nat := a / 2 ^ 13 % 32
/-- The line of an HBM address is marked uncorrectable (03 R77). -/
def State.poisoned (s : State) (a : Nat) : Bool := (s.die (stackOf a)).mc.poison.contains (a / 128)
/-- It is, or the read of it that the step uses was. -/
def W.badLine (w : W) (a : Nat) : Bool := w.poisoned a || w.bad.contains (a / 128)
/-- A line marked uncorrectable, or written whole again. -/
def W.setPoison (w : W) (ln : Nat) (on : Bool) : W :=
  w.modDie (stackOf (128 * ln)) fun x =>
    let l := x.mc.poison.filter fun y => decide (y ≠ ln)
    { x with mc := { x.mc with poison := if on then l ++ [ln] else l } }
/-- Bytes written to HBM by one request; a line written whole is no longer poisoned. -/
def W.hbmWrite (w : W) (l : List (Nat × Byte)) : W :=
  let w := { w with out := l.reverse ++ w.out }
  match l with
  | [] => w
  | e :: _ =>
    let ln := e.1 / 128
    if w.poisoned (128 * ln) && (List.range 128).all fun i => l.any fun x => decide (x.1 = 128 * ln + i) then
      w.setPoison ln false
    else w
/-- A range of HBM zeroed; its lines are written whole (03 R77). -/
def W.zeroHbm (w : W) (a n : Nat) : W :=
  let keep (e : Host.Cell) : Bool := !(decide (a ≤ e.1) && decide (e.1 < a + n))
  let w : W := { w with mem := Mem.clear w.mem a n, out := w.out.filter keep, zeroed := (a, n) :: w.zeroed }
  let clean (ln : Nat) : Bool := decide (a ≤ 128 * ln) && decide (128 * ln + 128 ≤ a + n)
  { w with dies := w.dies.map fun e => (e.1, { e.2 with mc := { e.2.mc with poison := e.2.mc.poison.filter fun ln => !clean ln } }) }
/-- A write request performed. -/
def W.hbmPut (w : W) (q : HbmReq) : W :=
  let w := (if q.whole then w.zeroHbm (128 * q.line) 128 else w).hbmWrite q.data
  if q.bad then w.setPoison q.line true else w

/-- A core's pipeline changed. -/
def Core.modPipe (k : Core) (f : Pipe → Pipe) : Core := { k with pipe := f k.pipe }
/-- A core's registers changed. -/
def Core.modRegs (k : Core) (f : Regs → Regs) : Core := { k with regs := f k.regs }
/-- A core's control registers changed. -/
def Core.modCtl (k : Core) (f : CtlRegs → CtlRegs) : Core := { k with ctl := f k.ctl }
/-- A core's engines changed. -/
def Core.modEng (k : Core) (f : Engines → Engines) : Core := { k with eng := f k.eng }
/-- A core's copy engine changed. -/
def Core.modCp (k : Core) (f : CopyEngine → CopyEngine) : Core := { k with cp := f k.cp }

/-- A governor stall (bit 0) or a slew hold (bit 8) of a core marks its die in the periods of telemetry that run (15 R343). -/
def W.markTele (w : W) (c bit : Nat) : W :=
  if w.pkg.tele.isEmpty then w
  else w.modPkg fun p =>
    { p with teleHeld := p.tele.foldl (fun t e => Tab.put 0 t e.1 (setBits (Tab.get 0 t e.1) (bit + dieOf c) 1 1)) p.teleHeld }
/-- The byte address of the bundle at the program counter (01 R10). -/
def Core.pcAddr (k : Core) : Nat := k.pc.toNat * 32
/-- The program counter set to a byte address. -/
def Core.setPc (k : Core) (a : Nat) : Core := { k with pc := BitVec.ofNat 46 (a / 32) }

/-- CLOSE of a context has begun on a die (14 R328). -/
def State.isClosing (s : State) (d ctx : Nat) : Bool := s.pkg.closing.contains (d * 64 + ctx)
/-- No core of the die takes a task or a cause of the context: a HALT has stopped it there (17 R354), or it closes. -/
def State.barred (s : State) (d ctx : Nat) : Bool := bitAt (s.die d).dbg.stop ctx || s.isClosing d ctx

/-- The lines that `:va` pops of core `c` wrote are ordered: they hold their data (03 R85). -/
def W.settlePops (w : W) (c : Nat) : W :=
  if (w.core c).late.isEmpty then w
  else ((w.core c).late.foldl (fun w e => w.hbmWrite (((List.range 128).map (e.1 + ·)).zip (lineToBytes e.2))) w).modCore c
    fun k => { k with late := [] }

/-! ### Free values (log 4) -/

/-- A fresh free line. -/
def W.freeLine (w : W) : Line × W := (Config.freeLine w.free, { w with free := w.free + 1 })
/-- A fresh free word. -/
def W.freeWord (w : W) : Word × W := ((Config.freeLine w.free).truncate 64, { w with free := w.free + 1 })

/-! ### Registers (06 R148, 01 R17) -/

/-- Scalar register n: s0 reads as zero. -/
def Regs.sreg (r : Regs) (n : Nat) : Word := if n = 0 then 0 else Tab.get 0 r.s n
/-- Scalar register n written; a write to s0 is discarded. -/
def Regs.setS (r : Regs) (n : Nat) (v : Word) : Regs := if n = 0 then r else { r with s := Tab.put 0 r.s n v }
/-- Predicate n: p0 reads 1. -/
def Regs.pred (r : Regs) (n : Nat) : Bool := if n = 0 then true else bitAt r.p n
/-- Predicate n written; a write to p0 is discarded. -/
def Regs.setP (r : Regs) (n : Nat) (v : Bool) : Regs :=
  if n = 0 then r else { r with p := setBits r.p n 1 (if v then 1 else 0) }
/-- An operand or configuration port. -/
def Regs.port (r : Regs) (id : Nat) : Line := Tab.get 0 r.op id
/-- An operand or configuration port as a word. -/
def Regs.portW (r : Regs) (id : Nat) : Word := scalarOf (r.port id)
/-- An operand or configuration port written. -/
def Regs.setPort (r : Regs) (id : Nat) (v : Line) : Regs := { r with op := Tab.put 0 r.op id v }
/-- A result port. -/
def Regs.result (r : Regs) (id : Nat) : Line := Tab.get 0 r.res id
/-- A result port written. -/
def Regs.setResult (r : Regs) (id : Nat) (v : Line) : Regs := { r with res := Tab.put 0 r.res id v }

/-! ### Records, launches and the environment of a core (12 R271, 01 R47, 13 R295, R308) -/

/-- A record field. -/
def recField (img : BitVec 512) (lo len : Nat) : Nat := bits img lo len
/-- The launch slot of a record. -/
def recLaunch (img : BitVec 512) : Nat := bits img 480 12
/-- A field of a launch header at a byte offset. -/
def hdrField (h : BitVec 1024) (off size : Nat) : Nat := bits h (8 * off) (8 * size)

/-- What decides a core's decoding and rights: the context, the encoding version, the code range, the rights, the task's
survey range (no survey without a task, 10 R230) and the pages its fetches use. -/
structure Env where
  ctx : Nat
  ver : Nat
  lo : Nat
  hi : Nat
  priv : Bool
  tier : Bool
  bound : Bool
  svFirst : Nat
  svCount : Nat
  pages : List HeldPage
  deriving DecidableEq, Repr

/-- A launch-table slot. -/
def Board.launch (b : Board) (i : Nat) : Launch := Tab.get { ctx := 0, hdr := 0 } b.launches i

/-- The handler range of a context: TVEC and TSIZE; empty while a page of it has no held translation (13 R377). -/
def State.handlerRange (s : State) (d ctx : Nat) : Nat × Nat :=
  let blk := Tab.get 0 (s.die d).cctl ctx
  let pages := Tab.get [] (s.die d).handler ctx
  if pages.isEmpty then (bits blk 0 64, bits blk 0 64) else (bits blk 0 64, bits blk 0 64 + bits blk 64 32)

/-- The environment of core `c`. -/
def State.env (s : State) (c : Nat) : Env :=
  let k := s.core c
  let d := s.die (dieOf c)
  let img := match k.running with | some r => r.img | none => 0
  let l := d.board.launch (recLaunch img)
  let ctx := k.ctx.getD 0
  let code := hdrField l.hdr 0x08 8
  let isH := decide (k.mode = .handler)
  let h := s.handlerRange (dieOf c) ctx
  { ctx := ctx
    ver := if isH then 3 else bits img 472 2
    lo := if isH then h.1 else code
    hi := if isH then h.2 else code + hdrField l.hdr 0x10 4
    priv := isH || bitAt img 477
    tier := bitAt img 478
    bound := bitAt img 464
    svFirst := hdrField l.hdr 0x34 2
    svCount := if k.running.isSome then hdrField l.hdr 0x36 2 else 0
    pages := if isH then Tab.get [] d.handler ctx else l.code }

/-- The work id of the running task (12 R276). -/
def Core.wid (k : Core) : Word := match k.running with | some r => word (bits r.img 0 64) | none => 0

/-! ### Allotments, buffers and line rights (05 R123, R133) -/

/-- First line and count of the allotment of context `ctx` on core `c`. -/
def State.allotment (s : State) (c ctx : Nat) : Nat × Nat :=
  let e := Tab.get 0 (s.die (dieOf c)).allot (ctx * 128 + onDie c)
  (bits e 0 15, bits e 15 15)
/-- A line in the allotment. -/
def State.allotted (s : State) (c ctx ln : Nat) : Bool :=
  let a := s.allotment c ctx
  decide (a.1 ≤ ln) && decide (ln < a.1 + a.2) && decide (ln < 32704)
/-- The frame lines (05 R123, 13 R294). -/
def isFrameLine (ln : Nat) : Bool := decide (32704 ≤ ln) && decide (ln < 32768)
/-- The core layer of context `ctx` on core `o`: on the core while resident, else in its core-state slot, else in its
opening state (13 R309, R310). -/
def State.layer (s : State) (o ctx : Nat) : Core :=
  if (s.core o).ctx = some ctx then s.core o
  else match Tab.get none (s.die (dieOf o)).away (ctx * 128 + onDie o) with
    | some k => k
    | none => {}
/-- The core layer of context `ctx` on core `o` changed where it is kept. -/
def W.modLayer (w : W) (o ctx : Nat) (f : Core → Core) : W :=
  if (w.core o).ctx = some ctx then w.modCore o f
  else match Tab.get none (w.die (dieOf o)).away (ctx * 128 + onDie o) with
    | some k => w.modDie (dieOf o) fun d => { d with away := Tab.set d.away (ctx * 128 + onDie o) (some (f k)) }
    | none => w
/-- The pops of a context on core `o` are ordered, wherever its core layer is (03 R85; 12 R274). -/
def W.settleLayer (w : W) (o ctx : Nat) : W :=
  let l := (w.layer o ctx).late
  if l.isEmpty then w
  else (l.foldl (fun w e => w.hbmWrite (((List.range 128).map (e.1 + ·)).zip (lineToBytes e.2))) w).modLayer o ctx
    fun k => { k with late := [] }
/-- The buffer of a buffer table that covers a line, with its slot. -/
def Core.bufferAt (k : Core) (ln : Nat) : Option (Nat × Buf) :=
  k.bufs.find? fun e => decide (e.2.st ≠ 0) && decide (e.2.first ≤ ln) && decide (ln ≤ e.2.first + e.2.cntm1)
/-- The handle of slot `slot` of core `o`. -/
def Buf.handle (b : Buf) (o slot : Nat) : Nat := o % 16 * 4096 + b.gen % 64 * 64 + slot % 64
/-- Core `c` holds buffer `b` of core `o`'s table now. -/
def Buf.heldBy (b : Buf) (c o : Nat) : Bool :=
  decide (b.st = 1) && decide (c / 16 = o / 16) && decide (b.holder = c % 16) &&
    decide (b.gap.map (·.1) ≠ some (c % 16))
/-- How an access reaches a line: by the core's own operations or channels in space 2, by a channel through the atlas, or
with the handle of `ls.m`. -/
inductive Via where
  | own
  | engine
  | handle (h : Nat)
  deriving DecidableEq, Repr
/-- Whether core `c` of context `ctx` may access line `ln` of core `o` under R133. -/
def State.lineRight (s : State) (c o ctx ln : Nat) (via : Via) : Bool :=
  match (s.layer o ctx).bufferAt ln with
  | none => decide (c = o)
  | some (slot, b) => b.heldBy c o &&
      match via with
      | .handle h => decide (h % 65536 = b.handle o slot)
      | .own => decide (c = o)
      | .engine => true

/-! ### VRF lines, presence and claims (05 R116, R125) -/

/-- A line of a core. -/
def Core.line (k : Core) (ln : Nat) : Line := Tab.get 0 k.vrf ln
/-- A line written: its check bits are computed anew. -/
def Core.setLine (k : Core) (ln : Nat) (v : Line) : Core :=
  { k with vrf := Tab.put 0 k.vrf ln v, soft := k.soft.filter (· ≠ ln) }
/-- The presence bit of a line. -/
def Core.present (k : Core) (ln : Nat) : Bool := !(Tab.get false k.absent ln)

/-- Bytes loaded by a load of `ls`: the number of bytes and whether they are sign-extended (05 R138). -/
def loadSize (id : Nat) : Nat × Bool :=
  match id with
  | 0x183 => (1, false) | 0x184 => (2, false) | 0x185 => (4, false) | 0x186 => (8, false)
  | 0x187 => (1, true) | 0x188 => (2, true) | 0x189 => (4, true)
  | _ => (128, false)

/-- The port writes of a load whose line is `l` (05 R139): `ls.v` or `ls.s`, and the presence bit for a probe. -/
def loadWrites (id : Nat) (m : BitVec 4) (ea : Nat) (l : Line) (pres : Bool) : List (Nat × Line) :=
  let sz := loadSize id
  let data : List (Nat × Line) :=
    if sz.1 = 128 then [(0x180, l)]
    else
      let x := lineBytes l (ea % 128) sz.1
      [(0x181, lineOf (if sz.2 then BitVec.ofInt 64 (sext (8 * sz.1) x) else word x))]
  if bitAt m 3 then data ++ [(0x181, lineOf (if pres then 1 else 0))] else data

/-- Items of a core that wait for line `ln` of core `o` take it as it stands now (05 R126, R139). -/
def Core.wakeLine (k : Core) (o ln : Nat) (l : Line) : Core :=
  let f (it : Item) : Item :=
    if it.await = .line o ln then
      { it with await := .ready, kind := .res, wr := loadWrites it.id it.m it.a.toNat l true }
    else it
  k.modPipe fun p => { p with items := p.items.map f }

/-- A line made present: every load that waits for it takes it. -/
def W.setPresent (w : W) (c ln : Nat) : W :=
  let w := w.modCore c fun k => { k with absent := Tab.put false k.absent ln false }
  let l := (w.core c).line ln
  { w with cores := w.cores.map fun e => (e.1, e.2.wakeLine c ln l) }
/-- A line made absent. -/
def W.setAbsent (w : W) (c ln : Nat) : W := w.modCore c fun k => { k with absent := Tab.put false k.absent ln true }

/-- A claim placed: the count rises and the presence bit clears (05 R125). -/
def W.claim (w : W) (c ln : Nat) : W :=
  (w.modCore c fun k => { k with claims := Tab.put 0 k.claims ln (Tab.get 0 k.claims ln + 1) }).setAbsent c ln
/-- A claim withdrawn: the bit is set when none remains. -/
def W.unclaim (w : W) (c ln : Nat) : W :=
  let n := Tab.get 0 (w.core c).claims ln
  let w := w.modCore c fun k => { k with claims := Tab.put 0 k.claims ln (n - 1) }
  if n ≤ 1 then w.setPresent c ln else w

/-- A line written on a core. -/
def W.setLine (w : W) (c ln : Nat) (v : Line) : W := w.modCore c fun k => k.setLine ln v

/-! ### The accumulator store (08 R193) -/

/-- A word of tile `t`. -/
def Core.acc (k : Core) (t i : Nat) : Acc40 := Tab.get 0 k.accw (t * 4096 + i)
/-- A word of tile `t` written. -/
def Core.setAcc (k : Core) (t i : Nat) (v : Acc40) : Core :=
  { k with accw := Tab.put 0 k.accw (t * 4096 + i) v, softAcc := k.softAcc.filter (· ≠ t * 4096 + i) }
/-- Words of tile `t` written: (word, value). -/
def Core.setAccs (k : Core) (t : Nat) (l : List (Nat × Acc40)) : Core :=
  { k with accw := Tab.puts 0 k.accw (l.map fun e => (t * 4096 + e.1, e.2))
           softAcc := k.softAcc.filter fun i => !(l.any fun e => decide (i = t * 4096 + e.1)) }
/-- A matrix-unit trigger id (01 R33). -/
def isMma (id : Nat) : Bool := decide (0x810 ≤ id) && decide (id ≤ 0x813)
/-- The tile of a matrix operation: mx.acc TILE. -/
def EngineOp.mxTile (o : EngineOp) : Nat := bits (o.ports.getD 5 0) 0 4
/-- Whether the matrix unit holds tile `t` now (08 R190). -/
def Core.tileHeld (k : Core) (t : Nat) : Bool :=
  match k.eng.mx with
  | some o => isMma o.id && decide (o.mxTile = t) && o.started
  | none => false
/-- The bytes `off .. off+n-1` of tile `t`'s image (08 R196): word w at bytes 5w..5w+4. -/
def Core.accByte (k : Core) (t off : Nat) : Byte := BitVec.ofNat 8 ((k.acc t (off / 5)).toNat >>> (8 * (off % 5)))
/-- A byte of tile `t`'s image written. -/
def Core.setAccByte (k : Core) (t off : Nat) (v : Byte) : Core :=
  k.setAcc t (off / 5) (setBits (k.acc t (off / 5)) (8 * (off % 5)) 8 v.toNat)

/-! ### Pending causes -/

/-- A completion cause becomes pending (13 R293): SOFT_ERROR first, then the later triggered first. -/
def Core.addCause (k : Core) (x : Cause) : Core :=
  let soft (y : Cause) : Bool := decide (y.code = 10)
  let before (y : Cause) : Bool := (soft y && !soft x) || (soft y == soft x && decide (x.ord < y.ord))
  k.modPipe fun p => { p with causes := p.causes.takeWhile before ++ x :: p.causes.dropWhile before }
/-- The place of an attributed cause in R293's order: channels 0..7, then the memory tier. -/
def Core.addAttr (k : Core) (agent : Nat) (x : Cause) : Core :=
  let before (y : Nat × Cause) : Bool := decide (y.1 ≤ agent)
  k.modPipe fun p => { p with attr := p.attr.takeWhile before ++ (agent, x) :: p.attr.dropWhile before }

/-! ### Items (06 R145, R146) -/

/-- The result of item `seq` arrives: its port writes are formed. The status of a tier command is then a result (13 R300). -/
def Item.answered (seq : Nat) (wr : List (Nat × Line)) (it : Item) : Item :=
  if it.seq = seq ∧ it.await ≠ .ready then
    { it with await := .ready, wr := wr, kind := if 0x901 ≤ it.id ∧ it.id ≤ 0x905 then .res else it.kind }
  else it
/-- The same for the items behind the entries of a frame (13 R300 ATR). -/
def Shadow.answered (seq : Nat) (wr : List (Nat × Line)) (x : Shadow) : Shadow :=
  let f (b : Behind) : Behind := match b with | .item it => .item (it.answered seq wr) | b => b
  { x with behind := x.behind.map f }
/-- The result of item `seq` of core `c` arrives, wherever the item is: on the core, behind a frame on it, or behind the
frame of a record bound to it. -/
def W.answer (w : W) (c seq : Nat) (wr : List (Nat × Line)) : W :=
  let w := w.modCore c fun k =>
    { (k.modPipe fun p => { p with items := p.items.map (Item.answered seq wr) }) with
      shadow := k.shadow.answered seq wr }
  let rec_ (r : Record) : Record :=
    if bits r.img 465 7 = onDie c then { r with frame := r.frame.map fun f => (f.1, f.2.answered seq wr) } else r
  w.modBoard (dieOf c) fun b => { b with recs := b.recs.map fun e => (e.1, rec_ e.2) }

/-- Port writes of an item placed on the ports. -/
def Regs.place (r : Regs) (wr : List (Nat × Line)) : Regs := wr.foldl (fun r e => r.setResult e.1 e.2) r

/-- The package timestamp as a word. -/
def State.tsWord (s : State) : Word := word s.ts
/-- `cyc`: clock cycles modulo 2^64 (06 R148). -/
def State.cyc (s : State) : Word := word s.clk
/-- The clock cycles of die `d` since reset. -/
def State.clkOf (s : State) (d : Nat) : Nat := if dieOf s.focus = d then s.clk else Tab.get 0 s.clocks d

end Sys2Proof.Machine
end

