-- ==== Sys2Proof/Machine/Num.lean ====
section
/-!
DEFINITION. Numbers: the wide formats BF16, FP32 and A40, their one rounding, special values, exact sums and products
(02 R49..R52), the matrix step (R69) and the reduction tree (R70).
-/

namespace Sys2Proof.Machine

/-- A value of a wide format, or an exact dyadic real on its way to one: `fin neg m e` is (−1)^neg · m · 2^e. -/
inductive FNum where
  | nan
  | inf (neg : Bool)
  | fin (neg : Bool) (m : Nat) (e : Int)
  deriving DecidableEq, Repr

/-- Fraction bits of BF16, FP32 and A40 (R49). -/
def fBF16 : Nat := 7
def fFP32 : Nat := 23
def fA40 : Nat := 31

/-- The value of a bit pattern with `f` fraction bits; exponent field 0 reads as a signed zero (R49, R50). -/
def FNum.decode (f x : Nat) : FNum :=
  let neg := x.testBit (f + 8)
  let ex := x / 2 ^ f % 256
  let fr := x % 2 ^ f
  if ex = 255 then (if fr = 0 then .inf neg else .nan)
  else if ex = 0 then .fin neg 0 0
  else .fin neg (2 ^ f + fr) ((ex : Int) - 127 - f)

/-- The integer nearest to m · 2^e, ties to even. -/
def roundInt (m : Nat) (e : Int) : Nat :=
  match e with
  | .ofNat n => m * 2 ^ n
  | .negSucc n =>
    let s := n + 1
    let q := m >>> s
    let r := m - q * 2 ^ s
    let half := 2 ^ (s - 1)
    if half < r ∨ (r = half ∧ q % 2 = 1) then q + 1 else q

/-- The bit pattern of a result with `f` fraction bits: rounded to nearest even with an unbounded exponent, an infinity
from 2^128 up, a signed zero below 2^−126 (R50); the canonical NaN (R51). -/
def FNum.round (f : Nat) (x : FNum) : Nat :=
  let sgn (neg : Bool) : Nat := b2n neg * 2 ^ (f + 8)
  match x with
  | .nan => 255 * 2 ^ f + 2 ^ (f - 1)
  | .inf neg => sgn neg + 255 * 2 ^ f
  | .fin neg m e =>
    if m = 0 then sgn neg
    else
      let len := Nat.log2 m + 1
      -- significand of f + 1 bits, or one more bit after a carry
      let q := if len ≤ f + 1 then m * 2 ^ (f + 1 - len) else roundInt m (-((len - (f + 1) : Nat) : Int))
      let ex : Int := e + len - (f + 1)
      let (q, ex) := if q = 2 ^ (f + 1) then (2 ^ f, ex + 1) else (q, ex)
      let top : Int := ex + f
      if 128 ≤ top then sgn neg + 255 * 2 ^ f
      else if top < -126 then sgn neg
      else sgn neg + (top + 127).toNat * 2 ^ f + (q - 2 ^ f)

/-! ### Exact arithmetic with the special values of R51 -/

/-- The sign of a value. -/
def FNum.neg : FNum → Bool
  | .nan => false
  | .inf n => n
  | .fin n _ _ => n
/-- A NaN. -/
def FNum.isNan : FNum → Bool
  | .nan => true
  | _ => false
/-- An infinity. -/
def FNum.isInf : FNum → Bool
  | .inf _ => true
  | _ => false
/-- A zero of either sign. -/
def FNum.isZero : FNum → Bool
  | .fin _ m _ => decide (m = 0)
  | _ => false
/-- The value with its sign changed. -/
def FNum.negate : FNum → FNum
  | .nan => .nan
  | .inf n => .inf !n
  | .fin n m e => .fin (!n) m e
/-- The magnitude. -/
def FNum.abs : FNum → FNum
  | .nan => .nan
  | .inf _ => .inf false
  | .fin _ m e => .fin false m e

/-- The signed integer m of a finite value on the grid 2^g, where g does not exceed its exponent. -/
def gridInt (neg : Bool) (m : Nat) (e g : Int) : Int :=
  let x : Int := (m * 2 ^ (e - g).toNat : Nat)
  if neg then -x else x

/-- An integer on the grid 2^g as a value; zero is +0. -/
def FNum.ofGrid (x g : Int) : FNum := .fin (decide (x < 0)) x.natAbs g

/-- The exact sum; an exact zero is +0, but −0 + −0 is −0 (R51). -/
def FNum.add (a b : FNum) : FNum :=
  match a, b with
  | .nan, _ | _, .nan => .nan
  | .inf s, .inf t => if s = t then .inf s else .nan
  | .inf s, _ => .inf s
  | _, .inf t => .inf t
  | .fin s m e, .fin t n d =>
    if m = 0 ∧ n = 0 then .fin (s && t) 0 0
    else if m = 0 then b
    else if n = 0 then a
    else
      let g := min e d
      .ofGrid (gridInt s m e g + gridInt t n d g) g

/-- The exact product (R51). -/
def FNum.mul (a b : FNum) : FNum :=
  match a, b with
  | .nan, _ | _, .nan => .nan
  | .inf s, .inf t => .inf (s != t)
  | .inf s, .fin t n _ => if n = 0 then .nan else .inf (s != t)
  | .fin s m _, .inf t => if m = 0 then .nan else .inf (s != t)
  | .fin s m e, .fin t n d => .fin (s != t) (m * n) (e + d)

/-- The value times 2^n. -/
def FNum.scale (a : FNum) (n : Int) : FNum :=
  match a with
  | .fin s m e => .fin s m (e + n)
  | x => x

/-- The order of two values that are not NaN: −1, 0 or 1; zeros are equal. -/
def FNum.cmp (a b : FNum) : Int :=
  match a, b with
  | .nan, _ | _, .nan => 0
  | .inf s, .inf t => if s = t then 0 else if s then -1 else 1
  | .inf s, _ => if s then -1 else 1
  | _, .inf t => if t then 1 else -1
  | .fin s m e, .fin t n d =>
    let g := min e d
    let x := gridInt s m e g - gridInt t n d g
    if x < 0 then -1 else if 0 < x then 1 else 0

/-- a < b, false with a NaN. -/
def FNum.lt (a b : FNum) : Bool := !a.isNan && !b.isNan && decide (a.cmp b < 0)
/-- a ≤ b, false with a NaN. -/
def FNum.le (a b : FNum) : Bool := !a.isNan && !b.isNan && decide (a.cmp b ≤ 0)
/-- a = b as values, false with a NaN. -/
def FNum.eqv (a b : FNum) : Bool := !a.isNan && !b.isNan && decide (a.cmp b = 0)

/-- floor(log2 m · 2^e) of a non-zero finite value. -/
def FNum.exp2 : FNum → Int
  | .fin _ m e => (Nat.log2 m : Int) + e
  | _ => 128

/-- An integer as a value. -/
def FNum.ofInt (x : Int) : FNum := .fin (decide (x < 0)) x.natAbs 0

/-- The nearest integer, ties to even (0 for a NaN or an infinity). -/
def FNum.toIntRne : FNum → Int
  | .fin s m e => if s then -(roundInt m e : Int) else (roundInt m e : Int)
  | _ => 0

/-! ### Patterns -/

/-- BF16, FP32 and A40 values of patterns. -/
def bf16 (x : BitVec 16) : FNum := FNum.decode fBF16 x.toNat
def fp32 (x : BitVec 32) : FNum := FNum.decode fFP32 x.toNat
def a40 (x : BitVec 40) : FNum := FNum.decode fA40 x.toNat
/-- RNE_BF16, RNE_FP32, RNE_A40. -/
def FNum.toBF16 (x : FNum) : BitVec 16 := BitVec.ofNat 16 (x.round fBF16)
def FNum.toFP32 (x : FNum) : BitVec 32 := BitVec.ofNat 32 (x.round fFP32)
def FNum.toA40 (x : FNum) : BitVec 40 := BitVec.ofNat 40 (x.round fA40)
/-- A value rounded to FP32 and read again. -/
def FNum.rnd32 (x : FNum) : FNum := FNum.decode fFP32 (x.round fFP32)

/-! ### The matrix step (R69) -/

/-- A term truncated toward zero to multiples of 2^u. -/
def truncTerm (u : Int) : FNum → Int
  | .fin s m e =>
    let x : Int := if u ≤ e then (m * 2 ^ (e - u).toNat : Nat) else (m >>> (u - e).toNat : Nat)
    if s then -x else x
  | _ => 0

/-- The step: new accumulator value from the products and the incoming word. -/
def matrixStep (ps : List FNum) (c : BitVec 40) : BitVec 40 :=
  let terms := ps ++ [a40 c]
  let pos := terms.any fun t => t.isInf && !t.neg
  let neg := terms.any fun t => t.isInf && t.neg
  if terms.any FNum.isNan ∨ (pos ∧ neg) then FNum.nan.toA40
  else if pos then (FNum.inf false).toA40
  else if neg then (FNum.inf true).toA40
  else
    let nz := terms.filter fun t => !t.isZero
    match nz with
    | [] => (FNum.fin (terms.all FNum.neg) 0 0).toA40
    | t :: l =>
      let emax := l.foldl (fun a x => max a x.exp2) t.exp2
      let u := emax - 55
      let s := nz.foldl (fun a x => a + truncTerm u x) 0
      (FNum.ofGrid s u).toA40

/-! ### The reduction tree (R70) -/

/-- One level: neighbours are added and rounded to FP32. -/
def treeLevel : List FNum → List FNum
  | a :: b :: l => (a.add b).rnd32 :: treeLevel l
  | l => l

/-- The tree over 2^n lanes. -/
def treeSum : Nat → List FNum → BitVec 32
  | 0, l => (l.headD (.fin false 0 0)).toFP32
  | n + 1, l => treeSum n (treeLevel l)

end Sys2Proof.Machine
end

