-- ==== Sys2Proof/Machine/Elem.lean ====
section
/-!
DEFINITION. The twelve functions of the function unit, correctly rounded (07 R182, R183). The exact value is enclosed
between two dyadic numbers; where both round alike, that is the correctly rounded result, and where they do not the result
is the free value `Config.fnFree` (log 10). Enclosures are integers on the grid 2^-448, rounded outward.
-/

namespace Sys2Proof.Machine

/-- The working grid: 2^-448. -/
def gridBits : Nat := 448
/-- 1 on the grid. -/
def one448 : Nat := 2 ^ gridBits

/-- An enclosure of a real that is not negative: lo ≤ x · 2^448 ≤ hi. -/
structure Iv where
  lo : Nat
  hi : Nat
  deriving DecidableEq, Repr

/-- A real known exactly: m · 2^e. -/
def Iv.dyadic (m : Nat) (e : Int) : Iv :=
  let k := e + gridBits
  if 0 ≤ k then ⟨m * 2 ^ k.toNat, m * 2 ^ k.toNat⟩
  else ⟨m >>> (-k).toNat, (m >>> (-k).toNat) + 1⟩
/-- A natural number. -/
def Iv.nat (n : Nat) : Iv := ⟨n * one448, n * one448⟩
/-- Sum, product, quotient, and difference where the first is the larger. -/
def Iv.add (a b : Iv) : Iv := ⟨a.lo + b.lo, a.hi + b.hi⟩
def Iv.sub (a b : Iv) : Iv := ⟨a.lo - b.hi, a.hi - b.lo⟩
def Iv.mul (a b : Iv) : Iv := ⟨(a.lo * b.lo) >>> gridBits, ((a.hi * b.hi) >>> gridBits) + 1⟩
def Iv.div (a b : Iv) : Iv := ⟨a.lo * one448 / b.hi, a.hi * one448 / b.lo + 1⟩
def Iv.mulNat (a : Iv) (n : Nat) : Iv := ⟨a.lo * n, a.hi * n⟩
def Iv.divNat (a : Iv) (n : Nat) : Iv := ⟨a.lo / n, a.hi / n + 1⟩
def Iv.mulPow (a : Iv) (k : Int) : Iv :=
  if 0 ≤ k then ⟨a.lo * 2 ^ k.toNat, a.hi * 2 ^ k.toNat⟩ else ⟨a.lo >>> (-k).toNat, (a.hi >>> (-k).toNat) + 1⟩

/-- The integer square root, bit by bit from bit `n` down. -/
def isqrtFrom (x : Nat) : Nat → Nat → Nat
  | 0, r => r
  | n + 1, r =>
    let r' := r + 2 ^ n
    isqrtFrom x n (if r' * r' ≤ x then r' else r)
/-- floor(√x). -/
def isqrt (x : Nat) : Nat := isqrtFrom x (Nat.log2 x / 2 + 1) 0
/-- The square root. -/
def Iv.sqrt (a : Iv) : Iv := ⟨isqrt (a.lo * one448), isqrt (a.hi * one448) + 1⟩

/-- Σ over n ≥ k of t · x^(n−k) · k!/n!, the tail bounded by twice the last term: for 0 ≤ x ≤ 1. -/
def expTail (x : Iv) : Nat → Nat → Iv → Iv → Iv
  | 0, _, t, acc => ⟨acc.lo, acc.hi + 2 * t.hi + 1⟩
  | fuel + 1, k, t, acc => expTail x fuel (k + 1) ((t.mul x).divNat k) (acc.add t)
/-- e^x for 0 ≤ x ≤ 1. -/
def expUnit (x : Iv) : Iv := expTail x 100 1 (.nat 1) ⟨0, 0⟩

/-- Σ z^(2n+1)/(2n+1) from the term `p` = z^(2k+1), the tail bounded: for 0 ≤ z ≤ 1/3. -/
def atanhTail (z2 : Iv) : Nat → Nat → Iv → Iv → Iv
  | 0, _, p, acc => ⟨acc.lo, acc.hi + 2 * p.hi + 1⟩
  | fuel + 1, k, p, acc => atanhTail z2 fuel (k + 2) (p.mul z2) (acc.add (p.divNat k))
/-- atanh z for 0 ≤ z ≤ 1/3. -/
def atanhIv (z : Iv) : Iv := atanhTail (z.mul z) 150 1 z ⟨0, 0⟩
/-- ln 2 = 2 atanh(1/3). -/
def ln2 : Iv := (atanhIv ((Iv.nat 1).divNat 3)).mulNat 2

/-- The alternating series of arctan(1/n): pairs of terms, the tail bounded by the next term. -/
def atanInvTail (n : Nat) : Nat → Nat → Iv → Iv → Iv → Iv
  | 0, _, p, pos, neg => (pos.sub neg).add ⟨0, p.hi + 1⟩
  | fuel + 1, k, p, pos, neg =>
    let q := p.divNat (n * n)
    atanInvTail n fuel (k + 4) (q.divNat (n * n)) (pos.add (p.divNat k)) (neg.add (q.divNat (k + 2)))
/-- arctan(1/n). -/
def atanInv (n : Nat) : Iv := atanInvTail n 60 1 ((Iv.nat 1).divNat n) ⟨0, 0⟩ ⟨0, 0⟩
/-- π = 16 arctan(1/5) − 4 arctan(1/239). -/
def piIv : Iv := ((atanInv 5).mulNat 16).sub ((atanInv 239).mulNat 4)

/-- e^x for x ≥ 0, as an enclosure and a power of two. -/
def expPos (x : Iv) : Iv × Nat :=
  let k := x.lo / ln2.hi
  (expUnit (x.sub (ln2.mulNat k)), k)
/-- e^x, x ≥ 0. -/
def expIv (x : Iv) : Iv := let r := expPos x; r.1.mulPow r.2
/-- e^−x, x ≥ 0. -/
def expNegIv (x : Iv) : Iv := let r := expPos x; ((Iv.nat 1).div r.1).mulPow (-(r.2 : Int))

/-- Q(v) = Σ v^n / (2n+1)!!, all terms positive. -/
def oddSeries (v : Iv) : Nat → Nat → Iv → Iv → Iv
  | 0, _, t, acc => ⟨acc.lo, acc.hi + 2 * t.hi + 1⟩
  | fuel + 1, k, t, acc =>
    if t.hi ≤ 1 ∧ 2 * v.hi ≤ k * one448 then ⟨acc.lo, acc.hi + 2 * t.hi + 1⟩
    else oddSeries v fuel (k + 2) ((t.mul v).divNat (k + 2)) (acc.add t)
/-- Q(v) for 0 ≤ v ≤ 256. -/
def oddQ (v : Iv) : Iv := oddSeries v 800 1 (.nat 1) ⟨0, 0⟩

/-! ### Rounding an enclosure -/

/-- An enclosed magnitude with its sign and a further power of two, rounded; `free` where the ends round apart. -/
def Iv.round (f : Nat) (neg : Bool) (a : Iv) (k : Int) (free : Nat) : Nat :=
  let lo := (FNum.fin neg a.lo (k - gridBits)).round f
  let hi := (FNum.fin neg a.hi (k - gridBits)).round f
  if lo = hi then lo else free

/-- m · 2^e times a factor enclosed on the grid, rounded. -/
def scaledRound (f : Nat) (neg : Bool) (m : Nat) (e : Int) (a : Iv) (free : Nat) : Nat :=
  (Iv.mk (a.lo * m) (a.hi * m)).round f neg e free

/-- 1 with a relative error of at most 2^-38. -/
def nearOne : Iv := ⟨one448 - 2 ^ 410, one448 + 2 ^ 410⟩
/-- Just below 1, by at most 2^-38. -/
def belowOne : Iv := ⟨one448 - 2 ^ 410, one448⟩

/-! ### The functions at finite non-zero arguments (−1)^neg · m · 2^e; `l` is floor(log2 m · 2^e) -/

/-- e^x. -/
def fnExp (f : Nat) (neg : Bool) (m : Nat) (e l : Int) (free : Nat) : Nat :=
  if 8 ≤ l then (if neg then 0 else 255 * 2 ^ f)
  else if l < -40 then nearOne.round f false 0 free
  else
    let r := expPos (.dyadic m e)
    if neg then ((Iv.nat 1).div r.1).round f false (-(r.2 : Int)) free else r.1.round f false r.2 free

/-- 2^x. -/
def fnExp2 (f : Nat) (neg : Bool) (m : Nat) (e l : Int) (free : Nat) : Nat :=
  if 9 ≤ l then (if neg then 0 else 255 * 2 ^ f)
  else if l < -40 then nearOne.round f false 0 free
  else
    let x := (Iv.dyadic m e).lo
    let k := x >>> gridBits
    let fr := x - k * one448
    if fr = 0 then (FNum.fin false 1 (if neg then -(k : Int) else k)).round f
    else
      let r := expUnit (ln2.mul ⟨fr, fr⟩)
      if neg then ((Iv.nat 1).div r).round f false (-(k : Int)) free else r.round f false k free

/-- |ln x| and its sign, for m · 2^e ≠ 1. -/
def lnMag (m : Nat) (l : Int) : Iv × Bool :=
  let fr := Iv.dyadic m (-(Nat.log2 m : Int))
  let lf := (atanhIv ((fr.sub (.nat 1)).div (fr.add (.nat 1)))).mulNat 2
  if 0 ≤ l then ((ln2.mulNat l.toNat).add lf, false) else ((ln2.mulNat (-l).toNat).sub lf, true)

/-- ln x and log2 x, x > 0. -/
def fnLog (two : Bool) (f : Nat) (m : Nat) (l : Int) (free : Nat) : Nat :=
  if m = 2 ^ Nat.log2 m then
    if l = 0 then 0
    else if two then (FNum.ofInt l).round f
    else (ln2.mulNat l.natAbs).round f (decide (l < 0)) 0 free
  else
    let r := lnMag m l
    let v := if two then r.1.div ln2 else r.1
    v.round f r.2 0 free

/-- An exact quotient a / b · 2^e rounded: 64 bits of quotient and a sticky bit decide every rounding. -/
def roundQuot (f : Nat) (neg : Bool) (a b : Nat) (e : Int) : Nat :=
  let s := Nat.log2 b + 66
  let q := a * 2 ^ s / b
  let q' := 2 * q + (if a * 2 ^ s % b = 0 then 0 else 1)
  (FNum.fin neg q' (e - s - 1)).round f

/-- √(a · 2^(2k)) rounded, with a sticky bit. -/
def roundSqrt (f : Nat) (a : Nat) (k : Int) : Nat :=
  let r := isqrt (a * 2 ^ 160)
  let r' := 2 * r + (if r * r = a * 2 ^ 160 then 0 else 1)
  (FNum.fin false r' (k - 80 - 1)).round f

/-- √x. -/
def fnSqrt (f : Nat) (m : Nat) (e : Int) : Nat :=
  if e % 2 = 0 then roundSqrt f m (e / 2) else roundSqrt f (2 * m) ((e - 1) / 2)

/-- 1/√x: the largest r with r² · x ≤ 1 on a fine grid, with a sticky bit. -/
def fnRsqrt (f : Nat) (m : Nat) (e : Int) : Nat :=
  let (a, k) : Nat × Int := if e % 2 = 0 then (m, e / 2) else (2 * m, (e - 1) / 2)
  let n := 2 ^ 320 / a
  let r := isqrt n
  let r' := 2 * r + (if r * r * a = 2 ^ 320 then 0 else 1)
  (FNum.fin false r' (-k - 160 - 1)).round f

/-- tanh x. -/
def fnTanh (f : Nat) (neg : Bool) (m : Nat) (e l : Int) (free : Nat) : Nat :=
  if l < -20 then scaledRound f neg m e belowOne free
  else if 5 ≤ l then belowOne.round f neg 0 free
  else
    let t := expIv ((Iv.dyadic m e).mulNat 2)
    ((t.sub (.nat 1)).div (t.add (.nat 1))).round f neg 0 free

/-- 1/(1 + e^−x) as an enclosure, for |x| < 256. -/
def sigmIv (neg : Bool) (m : Nat) (e : Int) : Iv :=
  let t := expNegIv (.dyadic m e)
  if neg then t.div ((Iv.nat 1).add t) else (Iv.nat 1).div ((Iv.nat 1).add t)

/-- 1/(1 + e^−x). -/
def fnSigm (f : Nat) (neg : Bool) (m : Nat) (e l : Int) (free : Nat) : Nat :=
  if l < -40 then nearOne.round f false (-1) free
  else if 8 ≤ l then (if neg then 0 else belowOne.round f false 0 free)
  else (sigmIv neg m e).round f false 0 free

/-- x/(1 + e^−x). -/
def fnSilu (f : Nat) (neg : Bool) (m : Nat) (e l : Int) (free : Nat) : Nat :=
  if l < -40 then scaledRound f neg m (e - 1) nearOne free
  else if 8 ≤ l then (if neg then 2 ^ (f + 8) else scaledRound f neg m e belowOne free)
  else scaledRound f neg m e (sigmIv neg m e) free

/-- The normal distribution function at x for |x| < 16: 1/2 ± x · e^(−x²/2)/√(2π) · Q(x²). -/
def phiIv (neg : Bool) (m : Nat) (e : Int) : Iv :=
  let x := Iv.dyadic m e
  let x2 := x.mul x
  let d := (expNegIv (x2.mulPow (-1))).div (piIv.mulNat 2).sqrt
  let t := (d.mul x).mul (oddQ x2)
  let half := (Iv.nat 1).divNat 2
  if neg then half.sub t else half.add t

/-- x (1 + erf(x/√2))/2. -/
def fnGelu (f : Nat) (neg : Bool) (m : Nat) (e l : Int) (free : Nat) : Nat :=
  if l < -40 then scaledRound f neg m (e - 1) nearOne free
  else if 4 ≤ l then (if neg then 2 ^ (f + 8) else scaledRound f neg m e belowOne free)
  else scaledRound f neg m e (phiIv neg m e) free

/-- erf x = x · 2/√π · e^(−x²) · Q(2x²). -/
def fnErf (f : Nat) (neg : Bool) (m : Nat) (e l : Int) (free : Nat) : Nat :=
  if 3 ≤ l then belowOne.round f neg 0 free
  else
    let x := Iv.dyadic m e
    let x2 := if l < -240 then ⟨0, 1⟩ else x.mul x
    let c := ((Iv.nat 2).div piIv.sqrt).mul ((expNegIv x2).mul (oddQ (x2.mulNat 2)))
    scaledRound f neg m e c free

/-- The function-unit result on one lane: bits in, bits out (R183). `op` is the offset of the operation's id in the
block. -/
def fnLane (f op : Nat) (bitsIn : Nat) : Nat :=
  let free := (Config.fnFree op (BitVec.ofNat 32 bitsIn)).toNat % 2 ^ (f + 9)
  let nan := FNum.nan.round f
  let inf (neg : Bool) : Nat := (FNum.inf neg).round f
  let one (neg : Bool) : Nat := (FNum.fin neg 1 0).round f
  let zero (neg : Bool) : Nat := b2n neg * 2 ^ (f + 8)
  match FNum.decode f bitsIn with
  | .nan => nan
  | .inf neg =>
    match op with
    | 1 | 2 => if neg then 0 else inf false
    | 3 | 4 => if neg then nan else inf false
    | 5 => zero neg
    | 6 => if neg then nan else 0
    | 7 => if neg then nan else inf false
    | 8 | 12 => one neg
    | 9 => if neg then 0 else one false
    | _ => if neg then zero true else inf false
  | .fin neg m e =>
    if m = 0 then
      match op with
      | 1 | 2 => one false
      | 3 | 4 => inf true
      | 5 | 6 => inf neg
      | 9 => (FNum.fin false 1 (-1)).round f
      | _ => zero neg
    else
      let l : Int := (Nat.log2 m : Int) + e
      match op with
      | 1 => fnExp f neg m e l free
      | 2 => fnExp2 f neg m e l free
      | 3 => if neg then nan else fnLog false f m l free
      | 4 => if neg then nan else fnLog true f m l free
      | 5 => roundQuot f neg 1 m (-e)
      | 6 => if neg then nan else fnRsqrt f m e
      | 7 => if neg then nan else fnSqrt f m e
      | 8 => fnTanh f neg m e l free
      | 9 => fnSigm f neg m e l free
      | 10 => fnGelu f neg m e l free
      | 11 => fnSilu f neg m e l free
      | _ => fnErf f neg m e l free

end Sys2Proof.Machine
end

