-- ==== Sys2Proof/Machine/Flags.lean ====
section
/-!
DEFINITION. Conditions. The machine has no flags register: its one-bit results are the predicates p0..p7 (06 R148), which
moves write and guards and BRP read (01 R14, R35). The status words of the engines stand with their operations.
-/

namespace Sys2Proof.Machine

/-- The guard of a move under the predicates from before the bundle (R14). -/
def guardOn (r : Regs) (g : BitVec 4) : Bool := r.pred (bits g 0 3) != bitAt g 3

end Sys2Proof.Machine
end

