-- ==== Sys2Proof/Machine/Operands.lean ====
section
/-!
DEFINITION. The operand forms of a move: sources, destinations, views, the window and the streams (01 R14..R17, R24..R27,
R38; 05 R123, R133, R135..R137), and the window-table check of an atlas access (05 R122).
-/

namespace Sys2Proof.Machine

/-! ### Port ids (01 R24, R27, R29..R33, R38) -/

/-- The encoding-version-3 id of block id `d` under version `ver`; `none` where the version lacks it (R38). -/
def canonId (ver d : Nat) : Option Nat :=
  if ver = 3 then some d
  else if 0x900 ≤ d ∧ d < 0x940 then none
  else if d = 0x28b then none
  else if 0x240 ≤ d ∧ d < 0x280 then some (d + 0x100)
  else if 0x340 ≤ d ∧ d < 0x380 then (if ver = 2 then some (d - 0x100) else none)
  else if ver = 1 ∧ (d = 0x812 ∨ d = 0x813 ∨ d = 0x304 ∨ d = 0x305) then none
  else some d

/-- Operand and configuration ports of 64 bits. -/
def wordPort (d : Nat) : Bool :=
  [0x100, 0x140, 0x181, 0x240, 0x280, 0x281, 0x2c0, 0x300, 0x340, 0x8c0, 0x900].contains d ||
    (decide (0x800 ≤ d) && decide (d ≤ 0x807)) || (decide (0x880 ≤ d) && decide (d ≤ 0x88d))
/-- Line-wide operand ports: ls.o, vec.o, vec.o2, acc.o. -/
def linePort (d : Nat) : Bool := [0x180, 0x1c0, 0x1c1, 0x840].contains d
/-- Result ports of 64 bits. -/
def wordResult (s : Nat) : Bool :=
  [0x100, 0x140, 0x181, 0x182, 0x1c1, 0x280, 0x2c0, 0x300, 0x340, 0x800, 0x880, 0x881, 0x8c0, 0x900].contains s
/-- Line-wide result ports. -/
def lineResult (s : Nat) : Bool := [0x180, 0x1c0, 0x1c2, 0x200, 0x240, 0x840].contains s

/-- Ranges of trigger ports, first and last id (R30..R33). -/
def trigRanges : List (Nat × Nat) :=
  [(0x101, 0x127), (0x141, 0x167), (0x182, 0x196), (0x1c2, 0x1e0), (0x201, 0x20c), (0x241, 0x245), (0x282, 0x28b),
   (0x2c1, 0x2c6), (0x301, 0x305), (0x341, 0x344), (0x810, 0x813), (0x841, 0x847), (0x890, 0x89c), (0x8c1, 0x8c6),
   (0x901, 0x905)]
/-- A trigger port. -/
def trigPort (d : Nat) : Bool := trigRanges.any fun r => decide (r.1 ≤ d) && decide (d ≤ r.2)
/-- A trigger port that takes a line: vec and sfn (R29). -/
def lineTrig (d : Nat) : Bool := decide (0x1c0 ≤ d) && decide (d < 0x240)
/-- The unit block of a trigger for R22: FILLER counts as mx. -/
def trigBlock (d : Nat) : Nat := if d = 0x305 then 0x20 else d / 64

/-- What a destination id names. -/
inductive Dest where
  | sreg (n : Nat)
  | window (k : Nat)
  | pred (n : Nat)
  | stream (k : Nat)
  | port (id : Nat) (wide : Bool)
  | trigger (id : Nat)
  | hint
  deriving DecidableEq, Repr

/-- The destination map (R24, R25); `none` raises ILLEGAL_PORT. DESIGN CHOICE (log 118): from here on an sv or stc trigger of a
version-1 or version-2 task has its version-3 id, in reports too. -/
def destOf (ver d : Nat) : Option Dest :=
  if d < 0x40 then some (.sreg d)
  else if d < 0x80 then some (.window (d - 0x40))
  else if d < 0x88 then some (.pred (d - 0x80))
  else if d < 0x90 then some (.stream (d - 0x88))
  else if 0xF00 ≤ d then some .hint
  else match canonId ver d with
    | none => none
    | some i =>
      if trigPort i then some (.trigger i)
      else if wordPort i then some (.port i false)
      else if linePort i then some (.port i true)
      else none

/-- What a source id names. -/
inductive Src where
  | sreg (n : Nat)
  | window (k : Nat)
  | pred (n : Nat)
  | stream (k : Nat)
  | seqi | lit | wid | cyc
  | result (id : Nat) (wide : Bool)
  | imm (v : Word)
  deriving DecidableEq, Repr

/-- The source map (R27); `none` raises ILLEGAL_PORT. -/
def srcOf (ver s : Nat) : Option Src :=
  if s < 0x40 then some (.sreg s)
  else if s < 0x80 then some (.window (s - 0x40))
  else if s < 0x88 then some (.pred (s - 0x80))
  else if s < 0x90 then some (.stream (s - 0x88))
  else if s = 0xc0 then some .seqi
  else if s = 0xc1 then some .lit
  else if s = 0xc2 then some .wid
  else if s = 0xc3 then some .cyc
  else if 0xc00 ≤ s then some (.imm (BitVec.ofInt 64 (sext 10 s)))
  else match canonId ver s with
    | none => none
    | some i =>
      if wordResult i then some (.result i false)
      else if lineResult i then some (.result i true)
      else none

/-! ### Views (R15, R16) -/

/-- A line under a view: the lanes written take the value, the others keep `old` (R15). -/
def viewLine (m : BitVec 4) (old v : Line) : Line :=
  match bits m 0 2 with
  | 0 => v
  | 1 => (old.extractLsb' 512 512 ++ v.extractLsb' 0 512)
  | 2 => (v.extractLsb' 512 512 ++ old.extractLsb' 0 512)
  | _ => BitVec.replicate 64 (v.extractLsb' 0 16)

/-- A scalar under a view (R15). -/
def viewWord (m : BitVec 4) (old v : Word) : Word :=
  match bits m 0 2 with
  | 0 => v
  | 1 => (old.extractLsb' 32 32 ++ v.extractLsb' 0 32)
  | 2 => (v.extractLsb' 32 32 ++ old.extractLsb' 0 32)
  | _ => BitVec.replicate 4 (v.extractLsb' 0 16)

/-! ### Line checks of a core's own operations (05 R123, R133; 13 R295) -/

/-- WINDOW_FAULT with SUB 0: the line or address and the trigger id (13 R305). -/
def windowFault (slot : Nat) (a : Nat) (id : Nat) : Cause := { code := 6, slot := slot, i0 := word a, i1 := word id }
/-- HANDLE_FAULT with SUB 0. -/
def handleFault (slot : Nat) (a : Nat) (id : Nat) : Cause := { code := 5, slot := slot, i0 := word a, i1 := word id }
/-- ENGINE_FAULT with SUB 0: the trigger id (13 R305). -/
def engineFault (slot : Nat) (id : Nat) : Cause := { code := 9, slot := slot, i0 := word id }
/-- ILLEGAL_PORT: SUB 0 destination, 1 source, 2 privilege, with the id (13 R305). -/
def illegalPort (slot sub id : Nat) : Cause := { code := 1, slot := slot, sub := sub, i0 := word (id % 4096) }

/-- The check of line `ln` for an access by core `c` itself; `frame` where the access may name frame lines in handler
mode (13 R295). -/
def lineCheck (s : State) (c : Nat) (e : Env) (frame : Bool) (slot id ln : Nat) : Option Cause :=
  if frame && decide ((s.core c).mode = .handler) && isFrameLine ln then none
  else if s.allotted c e.ctx ln then
    if s.lineRight c c e.ctx ln .own then none else some (handleFault slot ln id)
  else some (windowFault slot ln id)

/-- SOFT_ERROR at a line. -/
def softError (slot ln id : Nat) : Cause := { code := 10, slot := slot, sub := 0, i0 := word ln, i1 := word id }
/-- SOFT_ERROR of a move or load that reads an uncorrectable line (13 R292, R305). -/
def softCheck (k : Core) (slot id ln : Nat) : Option Cause :=
  if k.soft.contains ln then some (softError slot ln id) else none

/-- The checks of a line that a move, a load or a unit reads at its bundle. -/
def readCheck (s : State) (c : Nat) (e : Env) (frame : Bool) (slot id ln : Nat) : Option Cause :=
  (lineCheck s c e frame slot id ln).or (softCheck (s.core c) slot id ln)

/-- The VRF line that v(k) names for a slot of iteration `it` (06 R150, R156). -/
def windowLine (k : Core) (inBody : Bool) (it n : Nat) : Nat :=
  let base := bits k.ctl.win 0 15 + n
  if inBody then base + it * bits k.ctl.win 15 7 else base

/-! ### Streams (05 R135..R137) -/

/-- Extent of dimension k of a stream. -/
def Stream.ext (t : Stream) (k : Nat) : Nat := bits t.desc (64 + 48 * k) 16 + 1
/-- Line stride of dimension k. -/
def Stream.stride (t : Stream) (k : Nat) : Int := sbits t.desc (64 + 48 * k + 16) 16
/-- A write stream. -/
def Stream.isWrite (t : Stream) : Bool := bitAt t.desc 15
/-- The number of elements. -/
def Stream.total (t : Stream) : Nat := t.ext 0 * t.ext 1 * t.ext 2 * t.ext 3
/-- The line P(n) of element n (R135), exact. -/
def Stream.elem (t : Stream) (n : Nat) : Int :=
  (bits t.desc 0 15 : Int) + (n % t.ext 0 : Nat) * t.stride 0 + (n / t.ext 0 % t.ext 1 : Nat) * t.stride 1 +
    (n / (t.ext 0 * t.ext 1) % t.ext 2 : Nat) * t.stride 2 +
    (n / (t.ext 0 * t.ext 1 * t.ext 2) % t.ext 3 : Nat) * t.stride 3
/-- The stream after one element is taken (R135, R137). DESIGN CHOICE (log 119): with REPEAT the count restarts at 0. -/
def Stream.advance (t : Stream) : Stream :=
  if t.n + 1 < t.total then { t with n := t.n + 1 }
  else if bitAt t.desc 16 then { t with n := 0 }
  else { t with n := t.n + 1, st := 4 }
/-- A stream of a core. -/
def Core.stream (k : Core) (n : Nat) : Stream := Tab.get {} k.eng.streams n
/-- A stream of a core changed. -/
def Core.setStream (k : Core) (n : Nat) (t : Stream) : Core :=
  k.modEng fun e => { e with streams := Tab.put {} e.streams n t }

/-! ### The window table and the legend range (05 R121, R122) -/

/-- Legend id inside the context's range on the die (05 R121). -/
def State.legendInRange (s : State) (d ctx id : Nat) : Bool :=
  let r := Tab.get 0 (s.die d).ranges ctx
  decide (bits r 0 12 ≤ id) && decide (id < bits r 0 12 + bits r 12 13)

/-- The rights an access needs: read, write, atomic, engine. -/
structure Need where
  rd : Bool := false
  wr : Bool := false
  at_ : Bool := false
  en : Bool := false
  deriving DecidableEq, Repr

/-- One window entry covers the access and grants every right. -/
def windowGrants (e : BitVec 128) (a n : Nat) (need : Need) : Bool :=
  bitAt e 95 && decide (bits e 0 48 ≤ a) && decide (a + n ≤ bits e 0 48 + (bits e 64 24 + 1) * 128) &&
    (!need.rd || bitAt e 88) && (!need.wr || bitAt e 89) && (!need.at_ || bitAt e 90) && (!need.en || bitAt e 91)

/-- The access lies wholly inside one valid window entry of context `ctx` on die `d` that grants every right. -/
def State.windowOk (s : State) (d ctx a n : Nat) (need : Need) : Bool :=
  (List.range 64).any fun i => windowGrants (Tab.get 0 (s.die d).windows (ctx * 64 + i)) a n need

end Sys2Proof.Machine
end

