-- ==== Sys2Proof/Machine/Narrow.lean ====
section
/-!
DEFINITION. Narrow formats, legends, scales from surveys, and the conversions between narrow codes and wide values
(02 R55..R64).
-/

namespace Sys2Proof.Machine

/-! ### The legend record (R59) -/

/-- A legend record. -/
abbrev Legend := BitVec 128

/-- m, e, s, w, b and NANC of a legend. -/
def Legend.mw (l : Legend) : Nat := bits l 0 4
def Legend.ew (l : Legend) : Nat := bits l 4 3
def Legend.sg (l : Legend) : Bool := bitAt l 7
def Legend.width (l : Legend) : Nat := b2n l.sg + l.ew + l.mw
def Legend.bias (l : Legend) : Int := sbits l 8 8
def Legend.nanc (l : Legend) : Bool := bitAt l 49
/-- Clamp bound code, headroom, survey id, SCALE0. -/
def Legend.bound (l : Legend) : Nat := bits l 16 8
def Legend.head (l : Legend) : Int := sbits l 24 8
def Legend.svid (l : Legend) : Nat := bits l 32 12
def Legend.scale0 (l : Legend) : Int := sbits l 64 8

/-- A legend that an operation may use (R60). -/
def Legend.usable (l : Legend) : Bool :=
  bitAt l 48 && decide (bits l 44 4 = 0) && decide (bits l 50 14 = 0) && decide (bits l 72 56 = 0) &&
    decide (l.mw ≤ 8) && decide (l.width ≤ 8) && decide (2 ≤ l.width) && (decide (l.ew ≠ 0) || decide (1 ≤ l.mw)) &&
    decide (l.bound ≠ 0) && decide (l.bound + b2n l.nanc < 2 ^ (l.ew + l.mw))

/-- The value of a code byte (R56, R58). -/
def Legend.decode (l : Legend) (byte : Nat) : FNum :=
  let w := l.width
  let c := byte % 2 ^ w
  let neg := l.sg && c.testBit (w - 1)
  let ex := c / 2 ^ l.mw % 2 ^ l.ew
  let fr := c % 2 ^ l.mw
  if l.nanc ∧ c = 2 ^ w - 1 then .nan
  else if l.ew = 0 then .fin neg fr (-l.bias)
  else if ex = 0 then .fin neg fr (1 - l.bias - l.mw)
  else .fin neg (2 ^ l.mw + fr) (ex - l.bias - l.mw)

/-- The clamp bound B. -/
def Legend.boundNum (l : Legend) : FNum := l.decode l.bound
/-- floor(log2 B). -/
def Legend.boundExp (l : Legend) : Int := l.boundNum.exp2

/-! ### Scale exponents (R62) -/

/-- ScaleExp of a legend with a survey's element count and FP32 maximum; the flag says that the survey was empty. -/
def scaleExp (l : Legend) (count : Nat) (mx : BitVec 32) : Int × Bool :=
  let v := fp32 mx
  if count = 0 ∨ v.isZero then (l.scale0, true)
  else (clampInt (-128) 127 (v.exp2 - l.boundExp + l.head), false)

/-! ### Rounding to a narrow format and encoding (R57, R63) -/

/-- The exponent of the grid on which a magnitude m · 2^e is rounded (R57). -/
def Legend.grid (l : Legend) (m : Nat) (e : Int) : Int :=
  if l.ew = 0 then -l.bias
  else max 1 ((Nat.log2 m : Int) + e + l.bias) - l.bias - l.mw

/-- NarrowRound of a non-zero finite magnitude: a multiple n of 2^g. With no mantissa bits every code has F = 0, so the
spec's tie rule decides nothing: a tie there is a free choice (log 17). -/
def Legend.roundMag (l : Legend) (m : Nat) (e : Int) : Nat × Int :=
  let g := l.grid m e
  let d := e - g
  let n := roundInt m d
  let tie := decide (d < 0) && decide (2 * (m % 2 ^ (-d).toNat) = 2 ^ (-d).toNat)
  if l.mw = 0 ∧ tie then (m / 2 ^ (-d).toNat + (if Config.narrowTieUp g then 1 else 0), g) else (n, g)

/-- The code whose value is (−1)^neg · n · 2^g, a value of the format (R63). -/
def Legend.codeOf (l : Legend) (neg : Bool) (n : Nat) (g : Int) : Nat :=
  let sgn := b2n (neg && l.sg) * 2 ^ (l.width - 1)
  if n = 0 then 0
  else if l.ew = 0 then sgn + n
  else
    let top : Int := (Nat.log2 n : Int) + g
    let ex := top + l.bias
    if ex < 1 then sgn + n * 2 ^ (g - (1 - l.bias - l.mw)).toNat
    else
      let lo := top - l.mw
      let sig := if lo ≤ g then n * 2 ^ (g - lo).toNat else n >>> (lo - g).toNat
      sgn + ex.toNat * 2 ^ l.mw + (sig - 2 ^ l.mw)

/-- NarrowEncode: the code and whether the element was clamped (R63). -/
def Legend.encode (l : Legend) (x : FNum) (es : Int) : Nat × Bool :=
  let bcode (neg : Bool) : Nat := b2n (neg && l.sg) * 2 ^ (l.width - 1) + l.bound
  match x with
  | .nan => if l.nanc then (2 ^ l.width - 1, false) else (0, true)
  | .inf neg => if neg && !l.sg then (0, true) else (bcode neg, true)
  | .fin neg m e =>
    if m = 0 then (0, false)
    else
      let q := l.roundMag m (e - es)
      if q.1 = 0 then (0, false)
      else if neg && !l.sg then (0, true)
      else if l.boundNum.lt (.fin false q.1 q.2) then (bcode neg, true)
      else (l.codeOf neg q.1 q.2, false)

/-- The wide value of a code under scale e_s, exact (R64). -/
def Legend.wide (l : Legend) (byte : Nat) (es : Int) : FNum := (l.decode byte).scale es

end Sys2Proof.Machine
end

