-- ==== Sys2Proof/Machine/Survey.lean ====
section
/-!
DEFINITION. Survey records: noting, clamp counts, merging, home records, forwarding deltas and mirrors (10 R230..R239).
-/

namespace Sys2Proof.Machine

/-- A survey record's image (R231). -/
abbrev SvRec := BitVec 512

/-- Saturation at n bits. -/
def satAdd (n a b : Nat) : Nat := Nat.min (a + b) (2 ^ n - 1)

def SvRec.base (r : SvRec) : Int := sbits r 32 8
def SvRec.trap (r : SvRec) : Bool := bitAt r 40
def SvRec.home (r : SvRec) : Nat := bits r 41 3
def SvRec.fwd (r : SvRec) : Bool := bitAt r 46
def SvRec.legid (r : SvRec) : Nat := bits r 48 12
/-- The record with its statistics cleared. -/
def SvRec.clear (r : SvRec) : SvRec :=
  setBits (setBits (setBits (setBits (r : BitVec 512) 0 32 0) 44 2 0) 64 64 0) 128 384 0
/-- The configuration of a record: statistics of `s`, configuration of `r`. -/
def SvRec.withStats (r s : SvRec) : SvRec :=
  setBits (setBits (setBits (setBits (r : BitVec 512) 0 32 (bits s 0 32)) 44 2 (bits s 44 2)) 64 64 (bits s 64 64))
    128 384 (bits s 128 384)

/-- OVF raised by n, HIT set when n > 0 (R232). -/
def SvRec.clamp (r : SvRec) (n : Nat) : SvRec :=
  let r1 : BitVec 512 := setBits r 64 32 (satAdd 32 (bits r 64 32) n)
  if n = 0 then r1 else setBits r1 45 1 1

/-- The histogram bin of a magnitude under base exponent b (R231). -/
def svBin (b : Int) (m : FNum) : Nat :=
  match m with
  | .inf _ => 23
  | .fin _ 0 _ | .nan => 0
  | x => if x.exp2 < b then 0 else if b + 22 ≤ x.exp2 then 23 else (1 + x.exp2 - b).toNat

/-- A magnitude above the noting limit B · 2^SCALE0 of a usable legend (R232). -/
def overLimit (l : Legend) (m : FNum) : Bool := l.usable && (l.boundNum.scale l.scale0).lt m

/-- NoteElem (R232). -/
def SvRec.note (r : SvRec) (l : Legend) (x : FNum) : SvRec :=
  let r1 : BitVec 512 := setBits r 96 32 (satAdd 32 (bits r 96 32) 1)
  match x with
  | .nan => setBits r1 44 1 1
  | x =>
    let m := x.abs
    let r2 : BitVec 512 := setBits r1 0 32 (Nat.max (bits r1 0 32) (m.round fFP32))
    let p := 128 + 16 * svBin (SvRec.base r) m
    let r3 : BitVec 512 := setBits r2 p 16 (satAdd 16 (bits r2 p 16) 1)
    if overLimit l m then SvRec.clamp r3 1 else r3

/-- A whole update (R232). -/
def SvRec.notes (r : SvRec) (l : Legend) (xs : List FNum) : SvRec := xs.foldl (fun r x => r.note l x) r
/-- The number of elements of an update above the noting limit. -/
def overCount (l : Legend) (xs : List FNum) : Nat := (xs.filter fun x => overLimit l x.abs).length

/-- Fields of image `s` merged into a record (R234, R244): MAX, counts, flags, and the bins where `bins` says so. -/
def SvRec.merge (r s : SvRec) (bins : Bool) : SvRec :=
  let v := fp32 (BitVec.ofNat 32 (bits s 0 32))
  let mx := if v.isNan ∨ bits s 31 1 = 1 then 0 else v.round fFP32
  let r1 : BitVec 512 := setBits r 0 32 (Nat.max (bits r 0 32) mx)
  let r2 : BitVec 512 := setBits r1 44 2 (bits r 44 2 ||| bits s 44 2)
  let r3 : BitVec 512 := setBits r2 64 32 (satAdd 32 (bits r 64 32) (bits s 64 32))
  let r4 : BitVec 512 := setBits r3 96 32 (satAdd 32 (bits r 96 32) (bits s 96 32))
  if bins then
    (List.range 24).foldl (fun (a : BitVec 512) k =>
      setBits a (128 + 16 * k) 16 (satAdd 16 (bits r (128 + 16 * k) 16) (bits s (128 + 16 * k) 16))) r4
  else r4

/-! ### Records of a die -/

/-- A record as it reads: a home record's HOME is its own die, a forwarding entry's statistics are zero (R231). -/
def State.survey (s : State) (d n : Nat) : SvRec :=
  let r : BitVec 512 := Tab.get 0 (s.die d).surveys n
  if SvRec.fwd r then SvRec.clear r else setBits r 41 3 d
/-- The record's governing legend. -/
def State.legend (s : State) (d id : Nat) : Legend := Tab.get 0 (s.die d).legends id
/-- A survey record written. -/
def W.setSurvey (w : W) (d n : Nat) (r : SvRec) : W :=
  w.modDie d fun x => { x with surveys := Tab.put 0 x.surveys n r }

/-- The oldest delta of a full buffer leaves for its home (R234). -/
def Delta.makeRoom (l : List Delta) (n : Nat) : List Delta × List Delta :=
  if l.any (fun x => decide (x.sv = n)) ∨ l.length < 64 then (l, []) else (l.drop 1, l.take 1)

/-- Deltas handed to their homes. -/
def W.deliver (w : W) (l : List Delta) : W :=
  l.foldl (fun w x => w.modDie x.home fun h => { h with inDeltas := h.inDeltas ++ [x] }) w

/-- An update of record `n` made on die `d`: on the home record, or on the forwarding entry's delta (R234). -/
def W.svUpdate (w : W) (d n : Nat) (f : SvRec → SvRec) : W :=
  let r := w.survey d n
  if SvRec.fwd r then
    let rm := Delta.makeRoom (w.die d).deltas n
    let w := (w.modDie d fun x => { x with deltas := rm.1 }).deliver rm.2
    let upd (x : Delta) : Delta := if x.sv = n then { x with img := f x.img } else x
    w.modDie d fun x =>
      { x with deltas :=
          if x.deltas.any fun y => decide (y.sv = n) then x.deltas.map upd
          else x.deltas ++ [{ sv := n, home := SvRec.home r, img := f r, age := w.clk }] }
  else w.setSurvey d n (f r)

/-- A delta merged at its home (R234). -/
def W.mergeDelta (w : W) (x : Delta) : W := w.svUpdate x.home x.sv fun r => SvRec.merge r x.img true

/-- The delta of entry `n` on die `d` is sent and merged, those of the record that had reached its home before it (R234,
before an SVRD or a release). -/
def W.flushDelta (w : W) (d n : Nat) : W :=
  let mine (x : Delta) : Bool := decide (x.sv = n)
  let h := SvRec.home (w.survey d n)
  let l := (w.die h).inDeltas.filter mine ++ (w.die d).deltas.filter mine
  let w := w.modDie h fun x => { x with inDeltas := x.inDeltas.filter fun y => !mine y }
  let w := w.modDie d fun x => { x with deltas := x.deltas.filter fun y => !mine y }
  l.foldl (fun w x => w.mergeDelta x) w

/-- Every delta of a die is sent and merged, those on their way to it first (R236). -/
def W.flushDie (w : W) (d : Nat) : W :=
  let l := (w.die d).deltas
  let w := w.modDie d fun x => { x with deltas := [] }
  let w := l.foldl (fun w x => w.mergeDelta x) w
  (List.range 8).foldl (fun w h =>
    let l := (w.die h).inDeltas
    let w := w.modDie h fun x => { x with inDeltas := [] }
    l.foldl (fun w x => w.mergeDelta x) w) w

/-- The mirror of a forwarding entry taken from its home record (R235). -/
def W.refreshMirror (w : W) (d n : Nat) : W :=
  let r := w.survey d n
  if SvRec.fwd r then w.modDie d fun x => { x with mirrors := Tab.put 0 x.mirrors n (w.survey (SvRec.home r) n) } else w
/-- The mirrors of a die's forwarding entries are taken anew (R235). -/
def W.refreshMirrors (w : W) (d : Nat) : W :=
  ((w.die d).surveys.filter fun e => SvRec.fwd e.2).foldl (fun w e => w.refreshMirror d e.1) w

/-- What ScaleExp, the crossbar's input exponent and an LDA read: the home record, or the entry with its mirror (R235,
R239). -/
def State.surveyRead (s : State) (d n : Nat) : SvRec :=
  let r := s.survey d n
  if SvRec.fwd r then SvRec.withStats r (Tab.get 0 (s.die d).mirrors n) else r

/-- ScaleExp of a legend from its survey on die `d` (R62). -/
def State.scaleOf (s : State) (d : Nat) (l : Legend) : Int × Bool :=
  let r := s.surveyRead d l.svid
  scaleExp l (bits r 96 32) (BitVec.ofNat 32 (bits r 0 32))

/-- The RESCALE flag of the record that receives the note (R238). -/
def State.svTrap (s : State) (d n : Nat) : Bool := SvRec.trap (s.survey d n)

/-- Values noted in record `n` of die `d` under the record's own legend; whether RESCALE is raised (R232, R238). -/
def W.noteRec (w : W) (d n : Nat) (xs : List FNum) : W × Bool :=
  let l := w.legend d (SvRec.legid (w.survey d n))
  (w.svUpdate d n fun r => SvRec.notes r l xs, decide (0 < overCount l xs) && w.svTrap d n)

/-- A clamp count added to record `n`; whether RESCALE is raised. -/
def W.clampRec (w : W) (d n k : Nat) : W × Bool :=
  (if k = 0 then w else w.svUpdate d n fun r => SvRec.clamp r k, decide (0 < k) && w.svTrap d n)

/-- INFO0 of a RESCALE: survey and die of the record (13 R305). -/
def rescaleInfo (d n : Nat) : Word := word (n % 4096 + d % 8 * 4096)

/-- The elements of a line: BF16 lanes, FP32 lanes or A40 words (R243). -/
def lineNums (l : Line) (ty n : Nat) : List FNum :=
  (List.range n).map fun k =>
    if ty = 0 then bf16 (lane l k) else if ty = 1 then fp32 (lane32 l k) else a40 (l.extractLsb' (40 * k) 40)

/-- A survey record as the atlas stores it (R239): MAX without sign or NaN, reserved bits zero, FWD to the own die not
kept. -/
def svStored (d : Nat) (x : BitVec 512) : SvRec :=
  let v := fp32 (BitVec.ofNat 32 (bits x 0 32))
  let mx := if v.isNan then 0 else v.abs.round fFP32
  let a : BitVec 512 := setBits (setBits (setBits x 0 32 mx) 47 1 0) 60 4 0
  if bits x 41 3 = d then setBits a 46 1 0 else a

end Sys2Proof.Machine
end

