-- ==== Sys2Proof/Machine/Trap.lean ====
section
/-!
DEFINITION. Taking a trap, as one shared operation, and returning from one (13 R292..R302): the replay queue, the frame,
handler mode, the double trap, and what RTRAP restores.
-/

namespace Sys2Proof.Machine

/-! ### Completion of items (06 R145, R146; 05 R128) -/

/-- RESCALE of completion class, of the operation with trigger order `seq`, becomes pending at a core (10 R238, 13 R305). -/
def W.rescaleAt (w : W) (c : Nat) (d sv seq : Nat) (bpc : Word) : W :=
  w.modCore c fun k => k.addCause { code := 8, sub := 1, i0 := rescaleInfo d sv, i1 := bpc, ord := seq }

/-- SUB of an attributed cause of a channel's follow-on (13 R305). -/
def followSub (x : Cause) : Nat := if x.code = 8 then 2 else if x.code = 10 then x.sub else 1
/-- A cause of an engine's operation: of the core's own, or of a follow-on attributed to its channel (13 R304, R305). An access
raises its cause once, however often the engine's steps come to it before the trap is taken. -/
def W.engineCause (w : W) (c : Nat) (o : EngineOp) (x : Cause) : W :=
  match o.agent with
  | none =>
    let x := { x with ord := o.seq }
    if (w.core c).pipe.causes.contains x then w else w.modCore c fun k => k.addCause x
  | some (ch, i1, i2) =>
    let x := { x with slot := 8, sub := followSub x, i1 := i1, i2 := i2, ord := o.seq }
    if (w.core c).pipe.attr.contains (ch, x) then w else w.modCore c fun k => k.addAttr ch x
/-- RESCALE of an engine's operation. -/
def W.engineRescale (w : W) (c d sv : Nat) (o : EngineOp) : W :=
  w.engineCause c o { code := 8, sub := 1, i0 := rescaleInfo d sv, i1 := o.bpc }

/-- RESCALE of a QNT or QSCALE: of two that complete with clamps in one run cycle the later-triggered one's is raised (07
R178). -/
def W.rescaleQnt (w : W) (c : Nat) (d sv seq : Nat) (bpc : Word) : W :=
  w.modCore c fun k => (k.modPipe fun p => { p with causes := p.causes.filter fun y => !y.quant }).addCause
    { code := 8, sub := 1, i0 := rescaleInfo d sv, i1 := bpc, quant := true, ord := seq }

/-- What completes beside the ports: clamp counts, notes with their RESCALE, a right to a buffer. -/
def W.itemFx (w : W) (c : Nat) (it : Item) : W :=
  match it.fx with
  | .none => w
  | .clamp d sv n =>
    let r := w.clampRec d sv n
    if r.2 then r.1.rescaleQnt c d sv it.seq it.bpc else r.1
  | .note d sv ty n =>
    let r := w.noteRec d sv (lineNums ((it.wr.head?.map (·.2)).getD 0) ty n)
    if r.2 then r.1.rescaleAt c d sv it.seq it.bpc else r.1
  | .right o ctx slot => w.modLayer o ctx fun k =>
      let b := Tab.get {} k.bufs slot
      if b.gap = some (c % 16, it.seq) then { k with bufs := Tab.put {} k.bufs slot { b with gap := none } } else k

/-- One item completes: its values are on its ports. -/
def W.completeItem (w : W) (c : Nat) (it : Item) : W :=
  (if it.lost then w else w.modCore c fun k => k.modRegs fun r => r.place it.wr).itemFx c it
/-- `x`, triggered later, completes on the port that the awaited result `it` is due on in the same run cycle. The port of a
result that is awaited is that of its block. -/
def Item.outdone (it x : Item) : Bool :=
  decide (it.seq < x.seq) && decide (it.due = x.due) && x.wr.any fun e => decide (e.1 = it.id / 16 * 16)

/-- Items due now whose result is formed, in trigger order. -/
def Core.dueItems (k : Core) (clk : Nat) : List Item :=
  k.pipe.items.filter fun it => decide (it.due ≤ k.pipe.run) && decide (it.await = .ready) && decide (it.rdy ≤ clk)

/-- The items `sel` of core `c` complete, in trigger order; the later trigger keeps a shared port. -/
def W.completeItems (w : W) (c : Nat) (sel : Item → Bool) : W :=
  let l := ((w.core c).dueItems w.clk).filter sel
  let w := l.foldl (fun w it => w.completeItem c it) w
  let left (it : Item) : Item := if !it.lost && l.any it.outdone then { it with lost := true } else it
  w.modCore c fun k => k.modPipe fun p => { p with items := (p.items.filter fun it => !(l.contains it)).map left }

/-- A load of the `ls` unit by its trigger id (05 R138). -/
def isLoad (id : Nat) : Bool := (decide (0x182 ≤ id) && decide (id ≤ 0x189)) || decide (id = 0x191)

/-! ### The replay queue (13 R298..R300) -/

/-- An unfinished item as the queue takes it: order, entry fields, data lines, and what stands behind it. -/
structure Replay where
  seq : Nat
  kind : Nat
  id : Nat
  m : BitVec 4
  rem : Nat
  el : Nat := 0
  a : Word := 0
  b : Word := 0
  lines : List Line := []
  behind : Behind

/-- Ports 0..7 of mx in bytes 0..63 of a line (13 R300 ENG). -/
def portsLine (ports : List Word) : Line :=
  BitVec.ofNat 1024 ((ports.take 8).foldr (fun x a => x.toNat + 2 ^ 64 * a) 0)

/-- The replay form of a digital item at run cycle `run`. Behind the entry stands its distance from the restart bundle,
which a landing that the restart bundle awaits keeps though REM is at least 1 (05 R130, 11 R267, R298; log 63). -/
def Item.replay (it : Item) (run : Nat) : Replay :=
  let rem := Nat.max 1 (it.due - run)
  let base : Replay :=
    { seq := it.seq, kind := 1, id := it.id, m := it.m, rem := rem, behind := .item { it with due := it.due - run } }
  match it.kind with
  | .dig => { base with a := it.a, b := it.b, lines := it.lines }
  | .lreq => { base with kind := 3, a := it.a }
  | .atr => { base with kind := 4, a := it.a }
  | .res =>
    let wide := it.wr.filter fun e => lineResult e.1
    let slim := it.wr.filter fun e => !(lineResult e.1)
    if wide.isEmpty then { base with kind := 2, b := (slim.getLast?.map fun e => scalarOf e.2).getD 0 }
    else { base with kind := 2, lines := wide.map (·.2), a := (slim.getLast?.map fun e => scalarOf e.2).getD 0 }

/-- The operation had started before run cycle `run`, or starts in it: it restarts at its distance (R300, 09 R225). One that had
not started, for it waits for its grant, requests again (15 R341). -/
def EngineOp.ran (o : EngineOp) (run : Nat) : Bool := decide (o.u ≤ run)

/-- The replay form of an mx or acc operation (13 R300 ENG). -/
def EngineOp.replayEng (o : EngineOp) (run : Nat) : Replay :=
  { seq := o.seq, kind := 5, id := o.id, m := o.m,
    rem := if o.ran run then Nat.max 1 (o.u + o.dc - run) else o.u - run,
    el := run - o.u,
    a := 0, b := o.trig, lines := if isMma o.id then [portsLine o.ports] else [],
    behind := .op { o with started := o.ran run, again := o.started } }

/-- Whether an xb operation restarts from its start on resume (09 R225): all but XUPD, XRDAVG, XPRG, and XFER after its
read phase. -/
def EngineOp.xbRestarts (o : EngineOp) (run : Nat) : Bool :=
  if o.id = 0x893 ∨ o.id = 0x899 ∨ o.id = 0x89a then false
  else if o.id = 0x894 then decide (run < o.u + 96)
  else true

/-- The pair of an xb operation: xb.tile TILE. -/
def EngineOp.pair (o : EngineOp) : Nat := bits (o.ports.getD 0 0) 0 3

/-- The replay form of an xb operation (13 R300 XBO). -/
def EngineOp.replayXb (o : EngineOp) (run : Nat) : Replay :=
  { seq := o.seq, kind := 6, id := o.id, m := o.m,
    rem := if o.ran run then Nat.max 1 (o.u + o.dt - run) else o.u - run,
    el := if o.xbRestarts run || !o.started then run - o.u else 0,
    a := o.trig, b := word o.pair, behind := .op { o with started := o.ran run, again := o.started } }

/-- Slots or columns of an xb operation, begun before run cycle `run`, that the pair completes while it is stopped (09 R219,
R220, R223, R225). A column of XRDAVG changes nothing on the pair: its elements leave the pair, as those of the columns not
begun, when the operation goes on (16 R352; log 112). -/
def EngineOp.begunBy (o : EngineOp) (run : Nat) : Nat :=
  let first := if o.id = 0x894 then 104 else if o.id = 0x893 then 8 else 16
  let per := if o.id = 0x89a then 256 else 16
  if o.id = 0x899 ∨ run ≤ o.u + first then 0 else (run - (o.u + first) + per - 1) / per

/-- Insertion by trigger order. -/
def insertReplay (x : Replay) : List Replay → List Replay
  | [] => [x]
  | y :: l => if x.seq < y.seq then x :: y :: l else y :: insertReplay x l

/-- The acc operation that occupies the engine in the run cycle that is next. -/
def Core.accNow (k : Core) : Option EngineOp := k.eng.acc.filter fun o => decide (k.pipe.run < o.u + o.dc)

/-- The run cycle in which the restart bundle would issue: wait cycles of an earlier resume count (13 R301). -/
def Core.restartRun (k : Core) : Nat := k.pipe.run + k.pipe.pre

/-- Every unfinished item of a core, in issue order (13 R300). -/
def Core.replayItems (k : Core) : List Replay :=
  let run := k.restartRun
  let opt (o : Option EngineOp) : List EngineOp := match o with | some x => [x] | none => []
  let tier := k.tier.filter fun t => !t.accepted
  let ofFollow (f : FollowOn) : Replay :=
    { seq := f.seq, kind := 7, id := f.id, m := f.m, rem := 1, a := f.val
      b := word (f.id + f.m.toNat * 4096 + f.ch * 65536), behind := .follow f }
  let remOf (seq : Nat) : Nat :=
    match k.pipe.items.find? fun it => decide (it.seq = seq) with | some it => Nat.max 1 (it.due - run) | none => 1
  let ofTier (t : TierCmd) : Replay :=
    { seq := t.seq, kind := 7, id := t.op, m := t.m, rem := remOf t.seq, a := t.o, b := t.t, behind := .tier t }
  -- a tier command's status and an XSTAT's view belong to the entry of their operation
  let xb := k.eng.xb.filter fun o => !o.started || decide (k.pipe.run < o.u + o.dt)
  let own (it : Item) : Bool := !(tier.any fun t => decide (t.seq = it.seq)) &&
    !(decide (it.id = 0x89c) && xb.any fun o => decide (o.seq = it.seq))
  let all := (k.pipe.items.filter own).map (·.replay run) ++
    (opt k.eng.mx ++ opt k.eng.mxWait ++ opt k.accNow).map (·.replayEng run) ++
    xb.map (·.replayXb run) ++
    k.cp.follows.map ofFollow ++ tier.map ofTier
  all.foldl (fun l x => insertReplay x l) []

/-- Places and data lines in use; a follow-on takes the line that its operation will need (13 R299). -/
def Core.replayUse (k : Core) : Nat × Nat :=
  let l := k.replayItems
  (l.length, (l.map fun x => x.lines.length).foldl (· + ·) 0 + (k.cp.follows.filter fun f => isMma f.id).length)

/-- An entry's 256 bits, its first data line given (13 R298). -/
def Replay.entry (x : Replay) (data : Nat) : BitVec 256 :=
  BitVec.ofNat 256 (x.kind + x.id % 4096 * 2 ^ 4 + x.m.toNat * 2 ^ 16 + data % 32 * 2 ^ 24 +
    x.lines.length % 8 * 2 ^ 29 + x.rem % 2 ^ 32 * 2 ^ 32 + x.el % 2 ^ 32 * 2 ^ 64 + x.a.toNat * 2 ^ 128 +
    x.b.toNat * 2 ^ 192)

/-- The entries with their data lines, data lines numbered from `data`. -/
def replayEntries : List Replay → Nat → List (BitVec 256 × List Line)
  | [], _ => []
  | x :: l, data => (x.entry data, x.lines) :: replayEntries l (data + x.lines.length)

/-! ### The frame (13 R296, R297) -/

/-- 64-bit operand ports in frame order, then 64-bit result ports. -/
def framePorts : List Nat :=
  [0x100, 0x140, 0x181, 0x240, 0x280, 0x281, 0x2c0, 0x300, 0x340] ++ (List.range 8).map (0x800 + ·) ++
    (List.range 14).map (0x880 + ·) ++ [0x8c0, 0x900]
def frameResults : List Nat :=
  [0x100, 0x140, 0x181, 0x182, 0x1c1, 0x280, 0x2c0, 0x300, 0x340, 0x800, 0x880, 0x881, 0x8c0, 0x900]
def frameWide : List Nat := [0x180, 0x1c0, 0x1c1, 0x840]
def frameWideResults : List Nat := [0x180, 0x1c0, 0x1c2, 0x200, 0x240, 0x840]

/-- Lines packed from words, 16 to a line. -/
def packWords (l : List Word) : Nat := l.foldr (fun x a => x.toNat + 2 ^ 64 * a) 0
/-- `n` lines of a number. -/
def splitLines (n x : Nat) : List Line := (List.range n).map fun i => BitVec.ofNat 1024 (x >>> (1024 * i))

/-- The frame image of a stream: descriptor, state, n, remaining START delay (13 R297). -/
def Stream.frame (t : Stream) (run : Nat) : Nat :=
  t.desc.toNat + (t.st + t.n % 2 ^ 33 * 8 + (if t.st = 2 then (t.runAt - run) % 64 else 0) * 2 ^ 36) * 2 ^ 256
/-- The stream of a frame image. -/
def Stream.ofFrame (x run : Nat) : Stream :=
  let w := x >>> 256
  { desc := BitVec.ofNat 256 x, st := w % 8, n := w / 8 % 2 ^ 33, runAt := run + w / 2 ^ 36 % 64 }

/-- The header's facts. -/
structure FrameHead where
  bpc : Nat
  cause : Cause
  loop : Bool
  tpriv : Bool
  notask : Bool
  forced : Bool
  also : Nat
  rqn : Nat
  ndl : Nat
  ts : Nat
  pre : Nat
  img : BitVec 256


/-- Frame line 0 (13 R296). -/
def FrameHead.line (h : FrameHead) : Line :=
  BitVec.ofNat 1024 (h.bpc % 2 ^ 64 + h.cause.code % 256 * 2 ^ 64 + h.cause.slot % 16 * 2 ^ 72 +
    h.cause.sub % 256 * 2 ^ 80 + b2n h.loop * 2 ^ 88 + b2n h.tpriv * 2 ^ 89 + b2n h.notask * 2 ^ 90 +
    b2n h.forced * 2 ^ 91 + h.also % 65536 * 2 ^ 96 + h.rqn % 256 * 2 ^ 112 + h.ndl % 32 * 2 ^ 120 +
    h.cause.i0.toNat * 2 ^ 128 + h.cause.i1.toNat * 2 ^ 192 + h.cause.i2.toNat * 2 ^ 256 + h.ts % 2 ^ 64 * 2 ^ 320 +
    h.pre % 2 ^ 32 * 2 ^ 384 + h.img.toNat * 2 ^ 512)

/-- Frame lines 1..21: registers, sequencer, ports, streams (13 R297). -/
def Core.frameState (k : Core) (acqp : Bool) : List Line :=
  let r := k.regs
  let run := k.restartRun
  let sregs := packWords ((List.range 64).map r.sreg)
  let l5 := packWords [word (r.p.toNat / 2 * 2 + 1), r.lit, k.ctl.win, k.ctl.fmt, k.ctl.lpc, k.ctl.lsq, k.ctl.ltc,
    k.ctl.lix, k.wid, word (b2n acqp)]
  let p64 := packWords (framePorts.map r.portW ++ frameResults.map fun i => scalarOf (r.result i))
  let st := (List.range 8).foldr (fun i a => (k.stream i).frame run + 2 ^ 320 * a) 0
  splitLines 4 sregs ++ splitLines 1 l5 ++ splitLines 3 p64 ++ frameWide.map r.port ++ frameWideResults.map r.result ++
    splitLines 3 st

/-- The 64 frame lines. -/
def frameLines (h : FrameHead) (mid : List Line) (es : List (BitVec 256 × List Line)) : List Line :=
  let entries := es.foldr (fun e a => e.1.toNat + 2 ^ 256 * a) 0
  let data := (es.map (·.2)).flatten
  [h.line] ++ mid ++ splitLines 12 entries ++ data ++ List.replicate (30 - data.length) 0

/-- The frame lines written and present (13 R294 step 6). -/
def W.writeFrame (w : W) (c : Nat) (l : List Line) : W :=
  ((List.range 64).zip l).foldl (fun w e => (w.setLine c (32704 + e.1) e.2).setPresent c (32704 + e.1)) w

/-! ### Taking a trap -/

/-- An at operation with M[3] = 1 that acquires: ALD, AWAITGE and the read-modify-writes (11 R251). -/
def acquires (op : Nat) (m : BitVec 4) : Bool :=
  bitAt m 3 && (decide (op = 0x282) || (decide (0x284 ≤ op) && decide (op ≤ 0x288)) || decide (op = 0x28b))
/-- The item of a BARC `:wait` whose release has not come: an acquire at SCOPE that is not performed (12 R289). -/
def Item.barWait (it : Item) : Bool := decide (it.id = 0x2c5) && bitAt it.m 0 && decide (it.await ≠ .ready)
/-- An acquire of the task is pending (11 R256; 12 R289). -/
def Core.acqPending (k : Core) : Bool :=
  (k.ats.any fun a => a.live && decide (a.lvl = 0) && acquires a.op a.m) || k.pipe.items.any Item.barWait ||
    k.cbuf.any fun e => match e.2 with | .at _ op _ _ _ m _ _ => acquires op m | _ => false

/-- A handler begins, or returns: whose operation it is now. -/
def AtOp.beneath (a : AtOp) : AtOp := if a.lvl = 0 then { a with lvl := 1 } else a
def AtOp.above (a : AtOp) : AtOp := { a with lvl := if a.lvl = 1 then 0 else 2 }

/-- The requests of a core at its cluster's limiter are withdrawn (15 R341). -/
def W.slewWithdraw (w : W) (c : Nat) : W :=
  w.modDie (dieOf c) fun d =>
    let q := clusterOf c
    let s := Tab.get {} d.slew q
    let others (l : List SlewReq) : List SlewReq := l.filter fun r => decide (r.core ≠ c)
    let s' : Slew := { s with waiting := others s.waiting, granted := others s.granted }
    { d with slew := Tab.put {} d.slew q s' }

/-- Everything unfinished leaves the core for the replay queue: units, engines, follow-ons and tier commands not
accepted; stopped crossbar operations stay with their pairs (09 R225); a start waiting for its grant is withdrawn and
the reservation dropped (15 R340, R341). -/
def W.stopCore (w : W) (c : Nat) : W :=
  let k := w.core c
  let run := k.pipe.run
  let st := (k.eng.xb.filter fun o => !o.started || decide (run < o.u + o.dt)).map fun o =>
    ({ o with started := o.ran k.restartRun
              again := o.started
              stopRan := run - o.u
              stopClk := w.clk
              begun := if o.started && !(o.xbRestarts k.restartRun) then o.begunBy run else o.begun }, k.restartRun - o.u)
  let w := w.modCore c fun k =>
    { k with
      pipe := { k.pipe with items := [], held := 0, pre := 0 }
      eng := { k.eng with mx := none, mxWait := none, acc := none, xb := [],
                          streams := k.eng.streams.map fun e => (e.1, { e.2 with wbuf := [] }) }
      cp := { k.cp with follows := [] }
      tier := k.tier.filter fun t => t.accepted
      stopped := k.stopped ++ st
      cbuf := k.cbuf.map fun e => (0, e.2)
      relFence := none, ats := k.ats.map AtOp.beneath
      ctl := { k.ctl with res := 0 } }
  w.slewWithdraw c

/-- A double trap: the core serves no task until the stage manager releases it (13 R295). As at every trap, a start that waits
for its grant is withdrawn and the reservation dropped (15 R340, R341). -/
def W.doubleTrap (w : W) (c code : Nat) : W :=
  let ctx := ((w.core c).ctx).getD 0
  let w := (w.modCore c fun k => { k with mode := .stopped, ctl := { k.ctl with res := 0 } }).slewWithdraw c
  let w := w.modDie (dieOf c) fun d =>
    let b := Tab.get 0 d.cctl ctx
    { d with cctl := Tab.put 0 d.cctl ctx (setBits (setBits (setBits b 320 8 code) 328 7 (onDie c)) 335 1 1) }
  w.modPkg fun p => { p with notes := (c, code) :: p.notes }

/-- A load whose data has not arrived reads again on resume (13 R300 LREQ). -/
def Item.unread (it : Item) (clk : Nat) : Item :=
  if isLoad it.id ∧ it.await = .ready ∧ clk < it.rdy then { it with kind := .lreq, await := .again, wr := [] } else it
def W.unread (w : W) (c : Nat) : W :=
  w.modCore c fun k => k.modPipe fun p => { p with items := p.items.map fun it => it.unread w.clk }

/-- The frame of core `c` for a trap with cause `x`: lines, and the shadow of its replay entries. -/
def W.frameOf (w : W) (c : Nat) (x : Cause) (also : Nat) (img : BitVec 256) (loop forced : Bool) :
    List Line × Shadow :=
  let k := w.core c
  let e := w.env c
  let rs := k.replayItems
  let es := replayEntries rs 0
  let h : FrameHead :=
    { bpc := k.pcAddr, cause := x, loop := loop, tpriv := e.priv, notask := k.notask, forced := forced, also := also,
      rqn := es.length, ndl := (es.map fun q => q.2.length).foldl (· + ·) 0, ts := w.ts,
      pre := rs.foldl (fun a q => Nat.max a q.el) 0, img := img }
  (frameLines h (k.frameState k.acqPending) es, { entries := es, behind := rs.map (·.behind), fence := k.relFence
                                                  pass := if k.bkpt then some k.pcAddr else none })

/-! ### Causes that meet at a boundary (R293) -/

/-- A free save slot of a context on a die. -/
def State.saveSlot (s : State) (d ctx : Nat) : Option Nat :=
  let n := bits (Tab.get 0 (s.die d).cctl ctx) 224 16
  (List.range n).find? fun i => !(Tab.get false (s.die d).saves (ctx * 65536 + i))

/-- The prompt has stood for DEADLINE clock cycles, and the core may be taken from its task. -/
def State.preemptDue (s : State) (c : Nat) : Bool :=
  let k := s.core c
  match k.ctl.prompt with
  | some t => decide (t + bits k.ctl.pdl 0 32 ≤ s.clk) && decide (k.mode = .task)
  | none => false
/-- The bundle that is due has been held for LIMIT clock cycles (06 R163). -/
def Core.timeoutDue (k : Core) : Bool := decide (0 < k.pipe.held) && decide (bits k.ctl.wdg 0 32 ≤ k.pipe.held)
/-- Its TIMEOUT. -/
def Core.timeout (k : Core) : Cause := { code := 12, i0 := word k.pipe.holdR, i1 := word k.pipe.held }
/-- ALSO when a cause of code `x` is taken on core `c`: the pending causes, and a forced save that is due and has a slot. -/
def State.also (s : State) (c x : Nat) : Nat :=
  let k := s.core c
  let forced := decide (x ≠ 11) && s.preemptDue c && (s.saveSlot (dieOf c) (k.ctx.getD 0)).isSome
  let l := k.pipe.causes.map (·.code) ++ k.pipe.attr.map (·.2.code) ++ (if forced then [11] else [])
  (List.range 16).foldl (fun a i => a + b2n (l.contains i) * 2 ^ i) 0

/-! ### Debug halts (17 R354, R356, R357) -/

/-- The dies a debug command acts on. -/
def cmdDies (d : Nat) (pkg : Bool) : List Nat := if pkg then List.range 8 else [d]
/-- The cores of context `ctx` on a die: those on which it is resident. -/
def State.ctxCores (s : State) (d ctx : Nat) : List Nat :=
  ((List.range 128).map (d * 128 + ·)).filter fun c => decide ((s.core c).ctx = some ctx)
/-- Every core of a context on some dies changed. -/
def W.modCtx (w : W) (ds : List Nat) (ctx : Nat) (f : Core → Core) : W :=
  ds.foldl (fun w d => (w.ctxCores d ctx).foldl (fun w c => w.modCore c f) w) w
/-- A copy stops issuing requests: elements whose reads have not all left are taken in hand again later (R355). -/
def Copy.halt (x : Copy) : Copy :=
  let gone := (x.ask.filter fun q => !q.write).map (·.line)
  if gone.isEmpty then x
  else { x with reading := x.reading.takeWhile fun e => !(e.src.any fun p => gone.contains (p.2 / 128))
                ask := x.ask.filter (·.write), reads := x.reads - gone.length }
/-- HALT: every core of the context stops at its bundle boundary, and its channels stop issuing requests. -/
def W.haltCtx (w : W) (d ctx : Nat) (pkg : Bool) : W :=
  let w := (cmdDies d pkg).foldl (fun w e => w.modDie e fun x =>
    { x with dbg := { x.dbg with stop := setBits x.dbg.stop ctx 1 1, drain := setBits x.dbg.drain ctx 1 0 } }) w
  w.modCtx (cmdDies d pkg) ctx fun k0 =>
    let k := { k0 with cp := { k0.cp with ch := k0.cp.ch.map fun (e : Nat × Channel) => (e.1, { e.2 with act := e.2.act.map Copy.halt }) } }
    if k.halted then { k with stepArm := false, chanHalt := true }
    else { k with halted := true, stepArm := false, chanHalt := true, ctl := { k.ctl with halts := k.ctl.halts + 1 } }
/-- A step event of core `c` (R356). -/
def W.stepEvent (w : W) (c : Nat) (bpc kind cause agent ticket : Nat) : W :=
  let ev : BitVec 128 := BitVec.ofNat 128 (bpc % 2 ^ 64 + kind * 2 ^ 64 + cause * 2 ^ 72 + agent * 2 ^ 80 +
    ticket % 65536 * 2 ^ 88)
  w.modCore c fun k => { k with stepPend := k.stepPend ++ [ev] }
/-- A trap taken by a step adds its event. -/
def W.stepTrap (w : W) (c : Nat) (cause : Nat) : W :=
  let k := w.core c
  if k.stepArm then
    (w.stepEvent c k.pcAddr 2 cause 0 0).modCore c fun k => { k with stepArm := false }
  else w

/-- TRAP ENTRY (13 R294): the restart bundle does not issue, completions due take place, buffers drain, unfinished items
go to the replay queue, the frame is written and the handler starts. `also` are the other causes that struck. In handler
mode, or with no usable handler range, it is a double trap (R295). -/
def W.enterTrap (w : W) (c : Nat) (x : Cause) (also : Nat) (img : BitVec 256) (loop : Bool) : W :=
  let k := w.core c
  let ctx := k.ctx.getD 0
  let h := w.handlerRange (dieOf c) ctx
  let w := w.stepTrap c x.code
  if k.mode = .handler ∨ h.1 = h.2 then w.doubleTrap c x.code
  else
    let w := (w.completeItems c fun _ => true).unread c
    let fr := w.frameOf c x also img loop false
    let w := (w.stopCore c).writeFrame c fr.1
    w.modCore c fun k =>
      { (k.setPc h.1) with
        mode := .handler, bkpt := false
        shadow := fr.2
        seq := { on := false, body := [] }
        ctl := { k.ctl with win := word 32704, tcause := BitVec.ofNat 8 x.code } }

/-! ### Returning (13 R301, R302) -/

/-- A frame line of a core. -/
def Core.frameLine (k : Core) (i : Nat) : Line := k.line (32704 + i)
/-- `n` frame lines from line `i`, as a number. -/
def Core.frameNat (k : Core) (i n : Nat) : Nat :=
  (List.range n).foldr (fun q a => (k.frameLine (i + q)).toNat + 2 ^ 1024 * a) 0
/-- Replay entry `q` of the frame and its data lines. -/
def Core.frameEntry (k : Core) (q : Nat) : BitVec 256 × List Line :=
  let e : BitVec 256 := BitVec.ofNat 256 (k.frameNat 22 12 >>> (256 * q))
  (e, (List.range (bits e 29 3)).map fun i => k.frameLine (34 + bits e 24 5 + i))

/-- A digital operation's trigger: int, vec, sfn. -/
def digId (id : Nat) : Bool :=
  trigPort id && ((decide (0x101 ≤ id) && decide (id < 0x180)) || (decide (0x1c0 ≤ id) && decide (id < 0x240)))
/-- A trigger whose result is awaited from its home or engine: at, handle, SPAWN, PHASE, BARC, TLBINV, tier operations. -/
def atrId (id : Nat) : Bool :=
  (decide (0x282 ≤ id) && decide (id ≤ 0x28b) && decide (id ≠ 0x283)) || (decide (0x193 ≤ id) && decide (id ≤ 0x196)) ||
    [0x2c1, 0x2c4, 0x2c5, 0x304].contains id || (decide (0x901 ≤ id) && decide (id ≤ 0x905))
/-- A valid kind with an id of that kind (13 R298, R300, R301). -/
def entryIdOk (kind id : Nat) : Bool :=
  match kind with
  | 0 => true
  | 1 => digId id
  | 2 => trigPort id && !(digId id) && !(isMma id) && decide (id ≠ 0x305) && !(decide (0x844 ≤ id) && decide (id ≤ 0x846)) &&
      !(decide (0x890 ≤ id) && decide (id ≤ 0x89b))
  | 3 => isLoad id
  | 4 => atrId id
  | 5 => isMma id || decide (id = 0x305) || (decide (0x844 ≤ id) && decide (id ≤ 0x846))
  | 6 => decide (0x890 ≤ id) && decide (id ≤ 0x89c)
  | 7 => isMma id || (decide (0x891 ≤ id) && decide (id ≤ 0x893)) || (decide (0x901 ≤ id) && decide (id ≤ 0x905))
  | _ => false

/-- The checks of RTRAP on the frame (13 R301). -/
def rtrapOk (k : Core) (lo hi : Nat) : Bool :=
  let h := k.frameLine 0
  let rqn := bits h 112 8
  let es := (List.range rqn).map fun q => k.frameEntry q
  let loop := bitAt h 88
  let st := k.frameNat 19 3
  decide (bits (k.frameLine 5) 577 447 = 0) && decide (bits (k.frameLine 8) 960 64 = 0) &&
    ((List.range 8).all fun i => decide (st >>> (320 * i + 298) % 2 ^ 22 = 0)) &&
    decide (rqn ≤ 48) && decide (bits h 120 5 ≤ 30) &&
    decide (bits h 76 4 = 0) && decide (bits h 92 4 = 0) && decide (bits h 125 3 = 0) && decide (bits h 416 96 = 0) &&
    decide (bits h 768 256 = 0) &&
    es.all (fun e => entryIdOk (bits e.1 0 4) (bits e.1 4 12) &&
      decide (bits e.1 24 5 + bits e.1 29 3 ≤ 30) && decide (1 ≤ bits e.1 32 32) &&
      decide (bits e.1 20 4 = 0) && decide (bits e.1 96 32 = 0)) &&
    (if loop then decide ((k.frameNat 5 1 >>> 320) % 2 = 1)
     else decide (lo ≤ bits h 0 64) && decide (bits h 0 64 < hi) && decide (bits h 0 5 = 0))

/-- Lines 1..21 of the frame restored, the restart point at run cycle `run` (13 R301); the reserved bits of the control
registers stay zero (02 R67, 06 R163). -/
def Core.restoreFrame (k : Core) (run : Nat) : Core :=
  let sr := k.frameNat 1 4
  let l5 := k.frameNat 5 1
  let f (i : Nat) : Word := word (l5 >>> (64 * i))
  let p64 := k.frameNat 6 3
  let st := k.frameNat 19 3
  let op0 := ((List.range 4).zip frameWide).foldl (fun t e => Tab.put 0 t e.2 (k.frameLine (9 + e.1))) []
  let res0 := ((List.range 6).zip frameWideResults).foldl (fun t e => Tab.put 0 t e.2 (k.frameLine (13 + e.1))) []
  let regs : Regs :=
    { s := (List.range 64).foldl (fun t i => if i = 0 then t else Tab.put 0 t i (word (sr >>> (64 * i)))) []
      p := BitVec.ofNat 8 l5
      lit := f 1
      op := ((List.range 33).zip framePorts).foldl
              (fun t e => Tab.put 0 t e.2 (lineOf (word (p64 >>> (64 * e.1))))) op0
      res := ((List.range 14).zip frameResults).foldl
              (fun t e => Tab.put 0 t e.2 (lineOf (word (p64 >>> (64 * (33 + e.1)))))) res0 }
  let streams := (List.range 8).foldl (fun t i => Tab.put {} t i (Stream.ofFrame (st >>> (320 * i)) run)) []
  { k with
    regs := regs
    ctl := { k.ctl with
      win := word (bits (f 2) 0 22), fmt := word (bits (f 3) 0 15 + bits (f 3) 16 36 * 2 ^ 16)
      lpc := word (bits (f 4) 5 46 * 32), lsq := word (bits (f 5) 0 19), ltc := f 6, lix := word (bits (f 7) 0 40) }
    running := k.running.map fun r => { r with img := setBits r.img 0 64 (f 8).toNat }
    eng := { k.eng with streams := streams } }

end Sys2Proof.Machine
end

