-- ==== Sys2Proof/Machine/Issue.lean ====
section
/-!
DEFINITION. How a bundle issues (01 R19..R23; 05 R129; 06 R147; 13 R293, R299; 15 R334, R335): the shared machinery of
BUNDLE_ISSUE, of a merged issue, and of every slot operation alone (log 6). Every read sees the state before the bundle,
every trigger the ports after its writes, the control slot comes last; a trap, a hold, a wait or a stall discards the
working copy, so that nothing of the bundle takes effect.
-/

namespace Sys2Proof.Machine

/-- What a slot does when it is reached. -/
inductive Res where
  /-- It takes effect. -/
  | ok (w : W)
  /-- It raises a precise trap. -/
  | trap (x : Cause)
  /-- It raises the hold line, with the hold reason of 13 R305 and a request to the slew limiter, if any. -/
  | hold (r : Nat) (q : Option SlewReq)
  /-- It passes a wait cycle (06 R147). -/
  | wait

/-- What a trigger knows: its core, id, slot, modifier and value, the core and machine before the bundle, the trigger's
order, the bundle's address and its START delays. -/
structure TCtx where
  c : Nat
  id : Nat
  slot : Nat
  m : BitVec 4
  val : Line
  pre : State
  env : Env
  seq : Nat
  bpc : Nat
  dmx : Nat
  dxb : Nat
  dst : Nat
  /-- The channel, INFO1 and INFO2 of a follow-on (04 R98). -/
  agent : Option (Nat × Word × Word) := none

/-- The core before the bundle. -/
def TCtx.k (t : TCtx) : Core := t.pre.core t.c
/-- The trigger value as a word. -/
def TCtx.v (t : TCtx) : Word := scalarOf t.val
/-- The run cycle of the bundle. -/
def TCtx.run (t : TCtx) : Nat := t.k.pipe.run
/-- ENGINE_FAULT of this trigger. -/
def TCtx.engine (t : TCtx) : Res := .trap (engineFault t.slot t.id)
/-- WINDOW_FAULT of this trigger at a line or address. -/
def TCtx.window (t : TCtx) (a : Nat) : Res := .trap (windowFault t.slot a t.id)

/-- A trigger's meaning over the working copy, in which the bundle's writes have landed. -/
abbrev TrigFn := TCtx → W → Res

/-- What a control slot knows. -/
structure CCtx where
  c : Nat
  word : BitVec 32
  pre : State
  env : Env
  /-- Address of the bundle; for a merged issue, of the contributing body bundle. -/
  bpc : Nat
  inBody : Bool
  it : Nat
  /-- The control register that a CTLW of the same bundle writes (06 R164). -/
  ctlw : Option Nat
  seq : Nat

/-- The core before the bundle. -/
def CCtx.k (t : CCtx) : Core := t.pre.core t.c

/-- A control operation's meaning. The working copy's program counter already names the fall-through successor. -/
abbrev CtlFn := CCtx → W → Res

/-- A slot of a bundle with the loop iteration it belongs to. -/
structure SlotWork where
  slot : Nat
  w : BitVec 32
  it : Nat
  /-- The address of the contributing body bundle of a merged issue (06 R156; 07 R178). -/
  pc : Option Nat := none
  deriving DecidableEq, Repr

/-- A bundle about to issue. -/
structure Bundle where
  bpc : Nat
  moves : List SlotWork
  ctl : BitVec 32
  ctlIt : Nat
  ctlPc : Nat
  cls : Nat
  inBody : Bool
  img : BitVec 256
  deriving DecidableEq, Repr

/-- The bundle of 256 bits at address `pc`, outside a loop body (01 R10). -/
def Bundle.ofBits (pc : Nat) (b : BitVec 256) : Bundle :=
  { bpc := pc
    moves := ((List.range 7).map fun i => ({ slot := i + 1, w := bundleSlot b (i + 1), it := 0 } : SlotWork)).filter
      fun s => decide (s.w ≠ 0)
    ctl := bundleSlot b 0, ctlIt := 0, ctlPc := pc, cls := (ctlE (bundleSlot b 0)).toNat, inBody := false, img := b }

/-! ### Decode-time causes of move slots (01 R22, R23, R25, R27) -/

/-- Triggers of a privileged context, and of a context with a memory-tier grant (01 R34). -/
def needsPriv (id : Nat) : Bool := decide (id = 0x302) || decide (id = 0x303)
def needsTier (id : Nat) : Bool := decide (0x901 ≤ id) && decide (id ≤ 0x905)

/-- A trigger of the ctl block with a modifier, all of whose bits are reserved (R18, 06 R162). -/
def ctlModifier (id : Nat) (m : BitVec 4) : Bool := decide (id / 64 = 0xc) && decide (m ≠ 0)

/-- ILLEGAL_PORT of one move slot: destination, with the reserved modifier of the ctl block, then source, then privilege
(R18, R34); a hint's source is not decoded (R26). A false guard changes nothing here: DEDUCED (log 19) for the privilege and for
the reserved modifier. -/
def moveIllegal (e : Env) (s : SlotWork) : Option Cause :=
  match destOf e.ver (slotD s.w).toNat with
  | none => some (illegalPort s.slot 0 (slotD s.w).toNat)
  | some .hint => none
  | some d =>
    match srcOf e.ver (slotS s.w).toNat with
    | none => some (illegalPort s.slot 1 (slotS s.w).toNat)
    | some _ =>
      match d with
      | .trigger id =>
        if ctlModifier id (slotM s.w) then some (illegalPort s.slot 0 (slotD s.w).toNat)
        else if (needsPriv id ∧ !e.priv) ∨ (needsTier id ∧ !e.tier) then some (illegalPort s.slot 2 (slotD s.w).toNat) else none
      | _ => none

/-- What a slot uses that R22 counts: a trigger block, a write stream (256 + k), a read stream (512 + k). -/
def moveUses (ver : Nat) (s : SlotWork) : List Nat :=
  match destOf ver (slotD s.w).toNat with
  | some .hint | none => []
  | some d =>
    let dst := match d with
      | .trigger id => [trigBlock id]
      | .stream k => [256 + k]
      | _ => []
    match srcOf ver (slotS s.w).toNat with
    | some (.stream k) => (512 + k) :: dst
    | _ => dst

/-- Whether two slots use one thing. -/
def usesMeet (a b : List Nat) : Bool := a.any fun x => b.contains x

/-- SLOT_CONFLICT of a slot with an earlier one: INFO0 is the mask of the slots that meet (13 R305). DESIGN CHOICE
(log 96): in R23's order it counts at the higher of the slots that meet. -/
def slotConflict (ver : Nat) (ms : List SlotWork) (s : SlotWork) : Option Cause :=
  let u := moveUses ver s
  let meets := ms.filter fun t => decide (t.slot ≠ s.slot) && usesMeet (moveUses ver t) u
  if meets.any (fun t => decide (t.slot < s.slot)) then
    some { code := 3, slot := s.slot, i0 := word ((s :: meets).foldl (fun a t => a + 2 ^ t.slot) 0) }
  else none

/-- The decode-time causes of the move slots, lower slots first (R23). DESIGN CHOICE (log 96): of one slot, ILLEGAL_PORT comes before
SLOT_CONFLICT. -/
def decodeCauses (e : Env) (ms : List SlotWork) : List Cause :=
  (ms.map fun s => (moveIllegal e s).toList ++ (slotConflict e.ver ms s).toList).flatten

/-! ### Requests at the slew limiter (15 R337, R338) -/

/-- A request that arrives in a boundary cycle is considered by that boundary's Grants in core order: grants that the
boundary gave to later cores, not used yet, wait again behind it (15 R338, 20 R372). -/
def Slew.recall (s : Slew) (c clk : Nat) : Slew :=
  let late (r : SlewReq) : Bool := decide (c < r.core) && decide (r.got = clk)
  if clk % 4 = 0 then { s with waiting := s.granted.filter late ++ s.waiting, granted := s.granted.filter (!late ·) } else s

/-- A request joins the cluster's waiting requests, in core order, unless it waits already or is granted (15 R338). -/
def Slew.ask (s0 : Slew) (q : SlewReq) : Slew :=
  let s := s0.recall q.core q.since
  if (s.waiting ++ s.granted).any fun r => decide (r.core = q.core) && decide (r.eng = q.eng) then s0
  else
    let before (r : SlewReq) : Bool := decide (r.core ≤ q.core)
    { s with waiting := s.waiting.takeWhile before ++ q :: s.waiting.dropWhile before }

/-- The limiter of a core's cluster changed. -/
def W.modSlew (w : W) (c : Nat) (f : Slew → Slew) : W :=
  w.modDie (dieOf c) fun d => { d with slew := Tab.put {} d.slew (clusterOf c) (f (Tab.get {} d.slew (clusterOf c))) }

/-! ### Reading and writing -/

/-- A working bundle: the copy, the causes found, a hold reason, the starts that ask the slew limiter, a wait. -/
structure Work where
  w : W
  causes : List Cause := []
  hold : Option Nat := none
  reqs : List SlewReq := []
  wait : Bool := false

/-- A cause found. -/
def Work.fault (a : Work) (x : Cause) : Work := { a with causes := a.causes ++ [x] }
/-- A hold found; the first one counts. -/
def Work.held (a : Work) (r : Nat) : Work := { a with hold := a.hold.or (some r) }

/-- The value of a source, read before the bundle, with a cause or a hold reason. -/
def readSrc (c : Nat) (pre : State) (e : Env) (b : Bundle) (s : SlotWork) (src : Src) : Except (Cause ⊕ Nat) Line :=
  let k := pre.core c
  match src with
  | .sreg n => .ok (lineOf (k.regs.sreg n))
  | .pred n => .ok (lineOf (word (b2n (k.regs.pred n))))
  | .seqi => .ok (lineOf (word (if b.inBody then s.it else 0)))
  | .lit => .ok (lineOf k.regs.lit)
  | .wid => .ok (lineOf k.wid)
  | .cyc => .ok (lineOf pre.cyc)
  | .imm v => .ok (lineOf v)
  | .result id _ => .ok (k.regs.result id)
  | .window n =>
    let ln := windowLine k b.inBody s.it n
    match readCheck pre c e true s.slot (slotS s.w).toNat ln with
    | some x => .error (.inl x)
    | none => if k.present ln then .ok (k.line ln) else .error (.inr 3)
  | .stream n =>
    let t := k.stream n
    if t.isWrite ∨ (t.st ≠ 2 ∧ t.st ≠ 3) then .error (.inl (engineFault s.slot (slotS s.w).toNat))
    else if t.st = 2 then .error (.inr 2)
    else
      let p := t.elem t.n
      if p < 0 then .error (.inl (windowFault s.slot (p.toNat) (slotS s.w).toNat))
      else match readCheck pre c e false s.slot (slotS s.w).toNat p.toNat with
        | some x => .error (.inl x)
        | none => if k.present p.toNat then .ok (k.line p.toNat) else .error (.inr 2)

/-- A stream read advances its stream (05 R136). -/
def advanceSrc (c : Nat) (src : Src) (w : W) : W :=
  match src with
  | .stream n => w.modCore c fun k => k.setStream n (k.stream n).advance
  | _ => w

/-- A value written to a destination that is no trigger, at the end of the bundle (R15..R17, R21). -/
def writeDest (c : Nat) (pre : State) (e : Env) (b : Bundle) (s : SlotWork) (d : Dest) (v : Line) (a : Work) : Work :=
  let m := slotM s.w
  let core (f : Core → Core) : Work := { a with w := a.w.modCore c f }
  let regs (f : Regs → Regs) : Work := core fun k => k.modRegs f
  match d with
  | .sreg n => regs fun r => r.setS n (viewWord m (r.sreg n) (scalarOf v))
  | .pred n => regs fun r => r.setP n (bitAt v 0)
  | .port id true => regs fun r => r.setPort id (viewLine m (r.port id) v)
  | .port id false => regs fun r => r.setPort id (lineOf (viewWord m (r.portW id) (scalarOf v)))
  | .window n =>
    let ln := windowLine (pre.core c) b.inBody s.it n
    match lineCheck pre c e true s.slot (slotD s.w).toNat ln with
    | some x => a.fault x
    | none => core fun k => k.setLine ln (viewLine m (k.line ln) v)
  | .stream n =>
    let t := (pre.core c).stream n
    if !t.isWrite ∨ (t.st ≠ 2 ∧ t.st ≠ 3) then a.fault (engineFault s.slot (slotD s.w).toNat)
    else if t.st = 2 ∨ 8 ≤ t.wbuf.length then a.held 2
    else
      let p := t.elem t.n
      if p < 0 then a.fault (windowFault s.slot p.toNat (slotD s.w).toNat)
      else match lineCheck pre c e false s.slot (slotD s.w).toNat p.toNat with
        | some x => a.fault x
        | none => core fun k =>
            (k.setLine p.toNat (viewLine m 0 v)).setStream n { t.advance with wbuf := t.wbuf ++ [p.toNat] }
  | .trigger _ | .hint => a

/-- The moves of a bundle: plain writes land; the triggers that fire are returned with their values, in slot order. DESIGN
CHOICE (log 97): of a move whose source faults or holds, the destination is not examined. -/
def runMoves (c : Nat) (pre : State) (e : Env) (b : Bundle) :
    List SlotWork → Work → Work × List (SlotWork × Nat × Line)
  | [], a => (a, [])
  | s :: l, a =>
    if !(guardOn (pre.core c).regs (slotG s.w)) then runMoves c pre e b l a
    else match destOf e.ver (slotD s.w).toNat, srcOf e.ver (slotS s.w).toNat with
      | some .hint, _ | none, _ | _, none => runMoves c pre e b l a
      | some d, some src =>
        match readSrc c pre e b s src with
        | .error (.inl x) => runMoves c pre e b l (a.fault x)
        | .error (.inr r) => runMoves c pre e b l (a.held r)
        | .ok v =>
          let a := { a with w := advanceSrc c src a.w }
          match d with
          | .trigger id =>
            let r := runMoves c pre e b l a
            (r.1, (s, id, if lineTrig id then v else lineOf (scalarOf v)) :: r.2)
          | _ => runMoves c pre e b l (writeDest c pre e b s d v a)

/-- A slot's outcome joined to the bundle's: an effect lands, the first hold counts, every start that waits for a grant
asks for it, causes are collected. -/
def Work.join (a : Work) (r : Res) : Work :=
  match r with
  | .ok w => { a with w := w }
  | .trap x => a.fault x
  | .hold r q =>
    -- a later start of the bundle finds this request waiting (15 R338); the working copy itself is dropped
    let ask (w : W) (q : SlewReq) : W := w.modSlew q.core fun l => l.ask { q with since := w.clk }
    { a with w := q.toList.foldl ask a.w, hold := a.hold.or (some r), reqs := a.reqs ++ q.toList }
  | .wait => { a with wait := true }

/-- The triggers that fire, in slot order. -/
def runTrigs (tbl : Nat → TrigFn) (base : TCtx) : List (SlotWork × Nat × Line) → Work → Work
  | [], a => a
  | (s, id, v) :: l, a =>
    let t : TCtx := { base with id := id, slot := s.slot, m := slotM s.w, val := v,
                                seq := (a.w.core base.c).pipe.seq, bpc := s.pc.getD base.bpc }
    let w := a.w.modCore base.c fun k => k.modPipe fun p => { p with seq := p.seq + 1 }
    runTrigs tbl base l ({ a with w := w }.join (tbl id t w))

/-! ### Holds before the bundle (05 R129, 11 R256, 13 R299) -/

/-- A landing or a result that is due has not arrived. -/
def Core.lateItem (k : Core) (clk : Nat) : Option Nat :=
  match k.pipe.items.find? fun it => decide (it.due ≤ k.pipe.run) && (decide (it.await ≠ .ready) || decide (clk < it.rdy)) with
  | none => none
  | some it => some (if isLoad it.id then 1 else 7)

/-- An engine operation that has not got what it needed at the start of a run cycle that is due. -/
def EngineOp.behind (o : EngineOp) (run : Nat) : Bool := match o.due with | some r => decide (r ≤ run) | none => false
/-- A stream whose START has ended and that waits for its grant (15 R337). -/
def Core.streamDue (k : Core) (n : Nat) : Bool :=
  let st := k.stream n
  decide (st.st = 2) && decide (st.runAt ≤ k.pipe.run)
/-- A lock-step engine must stall (06 R152). -/
def Core.engineBehind (k : Core) : Bool :=
  let run := k.pipe.run
  (k.eng.mx.any fun o => o.behind run) || (k.eng.mxWait.any fun o => o.behind run) ||
    (k.eng.acc.any fun o => o.behind run) ||
    (k.eng.xb.any fun o => o.behind run) || (List.range 8).any k.streamDue
/-- What holds the bundle that is due before it is looked at: the hold reason of 13 R305. -/
def Core.gate (k : Core) (clk : Nat) : Option Nat :=
  match k.lateItem clk with
  | some r => some r
  | none => if k.engineBehind then some 4 else none

/-- A trigger of the units that wait for a pending acquire (11 R256): ls, at, acc, sv, cp, tier, mx, xb. -/
def acqUnit (id : Nat) : Bool :=
  [0x6, 0xa, 0x21, 0x9, 0x23, 0x24, 0x20, 0x22].contains (id / 64)

/-- Whether a bundle touches what a pending acquire holds: a trigger of those units, or a read of a window line. -/
def acqTouches (e : Env) (r : Regs) (ms : List SlotWork) : Bool :=
  ms.any fun s => guardOn r (slotG s.w) &&
    ((match destOf e.ver (slotD s.w).toNat with | some (.trigger id) => acqUnit id | _ => false) ||
     (match destOf e.ver (slotD s.w).toNat, srcOf e.ver (slotS s.w).toNat with
      | some .hint, _ => false
      | some _, some (.window _) => true
      | _, _ => false))

/-! ### The energy governor (15 R334, R335) -/

/-- The weight of energy class `n`. -/
def Core.weight (k : Core) (n : Nat) : Nat := bits k.ctl.ewt (16 * n) 16
/-- The charges of the 63 clock cycles before clock cycle `clk`. -/
def Core.windowSum (k : Core) (clk : Nat) : Nat :=
  (k.pipe.charges.filter fun e => decide (clk < e.1 + 64)).foldl (fun a e => a + e.2) 0
/-- A charge of clock cycle `clk`. -/
def Core.charge (k : Core) (clk n : Nat) : Core :=
  k.modPipe fun p => { p with charges := (clk, n) :: p.charges.filter fun e => decide (clk < e.1 + 63) }
/-- The governor admits a bundle of class `n`. -/
def Core.admits (k : Core) (clk n : Nat) : Bool :=
  let p := k.windowSum clk
  decide (p = 0) || decide (p + k.weight n ≤ bits k.ctl.egr 0 23)

/-! ### Cycle kinds (06 R147) -/

/-- The format pipeline advances by one committing bundle (02 R66, R67). -/
def fmtShift (f : Word) : Word :=
  let cur := if bitAt f 12 then bits f 16 12 else bits f 0 12
  word (cur + b2n (bitAt f 13) * 2 ^ 12 + b2n (bitAt f 14) * 2 ^ 13 + bits f 28 12 * 2 ^ 16 + bits f 40 12 * 2 ^ 28)

/-- A wait cycle: a run cycle without a bundle; it is what a STEP of a halted core lets pass (17 R356; log 113). -/
def W.waitCycle (w : W) (c : Nat) : W :=
  w.modCore c fun k =>
    { (k.charge w.clk (k.weight 0)).modPipe (fun p => { p with run := p.run + 1, held := 0, pre := p.pre - 1 }) with
      stepArm := false }

/-- What a bundle that does not issue leaves at the limiter: the grants `took` that its starts were given stand, and the
starts that were given none wait (15 R337, R338). -/
def W.slewLeft (w : W) (c : Nat) (took reqs : List SlewReq) : W :=
  if took.isEmpty && reqs.isEmpty then w
  else (if reqs.isEmpty then w else w.markTele c 8).modSlew c fun l =>
    reqs.foldl (fun l q => l.ask { q with since := w.clk }) { l with granted := l.granted ++ took }

/-- A held cycle: the watchdog and HCY count. -/
def W.heldCycle (w : W) (c r : Nat) : W :=
  w.modCore c fun k =>
    { k with ctl := { k.ctl with hcy := k.ctl.hcy + 1 }, pipe := { k.pipe with held := k.pipe.held + 1, holdR := r } }

/-- A stall cycle of the governor. -/
def W.stallCycle (w : W) (c : Nat) : W :=
  (w.markTele c 0).modCore c fun k => { k with ctl := { k.ctl with scy := k.ctl.scy + 1 }, pipe := { k.pipe with held := 0 } }

/-- The trap of this bundle; ALSO holds the causes that are pending (13 R293, R296; log 61). A merged issue saves its loop
registers as they stand (06 R158). -/
def W.trapAt (w : W) (c : Nat) (b : Bundle) (x : Cause) : W :=
  let k := w.core c
  let ctx := k.ctx.getD 0
  if x.code = 13 ∧ k.mode ≠ .handler ∧ bitAt (w.die (dieOf c)).dbg.bken ctx then
    -- BKPT with its BKEN bit: a package halt, this bundle next (17 R357)
    ((w.stepTrap c 13).haltCtx (dieOf c) ctx true).modCore c fun k => { k with bkpt := true }
  else w.enterTrap c x (w.also c x.code) b.img b.inBody

/-- The trap of a bundle: decode-time causes first, the control slot before the move slots, then the rest (R23, R293). -/
def firstCause (l : List Cause) : Option Cause :=
  match l.filter (fun x => decide (x.code ≤ 3)) with
  | x :: r => some (r.foldl (fun a y => if y.slot < a.slot then y else a) x)
  | [] => match l with
    | x :: r => some (r.foldl (fun a y => if y.slot < a.slot then y else a) x)
    | [] => none

/-- A bundle that must hold: TIMEOUT when the watchdog's limit is reached (06 R163), else a held cycle. -/
def W.holdOr (w : W) (c : Nat) (b : Bundle) (r : Nat) (took reqs : List SlewReq := []) : W :=
  let k := w.core c
  if bits k.ctl.wdg 0 32 ≤ k.pipe.held then
    w.trapAt c b { code := 12, i0 := word r, i1 := word k.pipe.held }
  else (w.heldCycle c r).slewLeft c took reqs

/-- Whether a move slot triggers `id` with a true guard, and its value. -/
def ctlwIndex (c : Nat) (pre : State) (e : Env) (b : Bundle) : Option Nat :=
  (b.moves.find? fun s => guardOn (pre.core c).regs (slotG s.w) &&
      decide (destOf e.ver (slotD s.w).toNat = some (.trigger 0x302))).bind fun s =>
    (srcOf e.ver (slotS s.w).toNat).bind fun src =>
      match readSrc c pre e b s src with
      | .ok v => some (bits v 0 12)
      | .error _ => none

/-- The START delays of a bundle's control slot (06 R151); version 1 has no stream delay (01 R38). -/
def startDelays (ver : Nat) (ctl : BitVec 32) : Nat × Nat × Nat :=
  if ctlOpc ctl = 0x0c then
    let o := ctlOpd ctl
    (bits o 16 6, bits o 10 6, if ver = 1 then 0 else bits o 4 6)
  else (0, 0, 0)

/-- A pending acquire holds the bundle (11 R256). -/
def Bundle.acqHeld (b : Bundle) (e : Env) (k : Core) : Bool := k.acqPending && acqTouches e k.regs b.moves
/-- A release or an arrival of the task on core `c` waits for an operation that a lock-step engine of the core holds: an acquire
behind it would hold the core for an engine that it freezes, which R256 excludes, so wait cycles pass (log 114). -/
def State.releaseWaits (s : State) (c : Nat) : Bool :=
  let k := s.core c
  let l := k.eng.mx.toList ++ k.eng.mxWait.toList ++ k.eng.acc.toList ++ k.eng.xb
  !l.isEmpty && ((k.ats.any fun a => a.live && !a.mute && decide (a.lvl = 0) && a.rel.isSome && l.any fun o => decide (o.seq < a.seq)) ||
    s.dies.any fun d => d.2.board.arrivals.any fun a => decide (a.core = some c) && l.any fun o => a.after.contains (c, o.seq))
/-- A bundle begins: its decode-time causes, and a hold while an acquire is pending. -/
def Work.start (c : Nat) (b : Bundle) (w : W) : Work :=
  let e := w.env c
  let k := w.core c
  let a : Work := { w := w, causes := decodeCauses e b.moves }
  if b.acqHeld e k then (if w.releaseWaits c then { a with wait := true } else a.held 6) else a
/-- The release fence after a control slot: a FENCE of kind full or rel, which does not narrow one that is pending (R262). -/
def fenceAfter (ctl : BitVec 32) (old : Option Nat) : Option Nat :=
  let o := ctlOpd ctl
  if ctlOpc ctl = 0x0e ∧ (bits o 16 3 = 0 ∨ bits o 16 3 = 2) then some (Nat.max (bits o 19 3) (old.getD 0)) else old
/-- Successor, format pipeline and release fence of a committing bundle. -/
def Core.succeed (b : Bundle) (k : Core) : Core :=
  { ((if b.inBody then k else k.setPc (b.bpc + 32)).modCtl fun r => { r with fmt := fmtShift r.fmt }) with
    relFence := fenceAfter b.ctl k.relFence }
/-- What every trigger of a bundle knows. -/
def trigBase (c : Nat) (b : Bundle) (pre : State) : TCtx :=
  let d := startDelays (pre.env c).ver b.ctl
  { c := c, id := 0, slot := 0, m := 0, val := 0, pre := pre, env := pre.env c, seq := 0, bpc := b.bpc
    dmx := d.1, dxb := d.2.1, dst := d.2.2 }
/-- What the control slot of a bundle knows. -/
def ctlBase (c : Nat) (b : Bundle) (pre : State) (seq : Nat) : CCtx :=
  { c := c, word := b.ctl, pre := pre, env := pre.env c, bpc := b.ctlPc, inBody := b.inBody, it := b.ctlIt
    ctlw := ctlwIndex c pre (pre.env c) b, seq := seq }
/-- The replay queue must have room for a bundle that triggers (13 R299). -/
def Work.room (a : Work) (c : Nat) (fires : Bool) : Work :=
  let use := (a.w.core c).replayUse
  if decide (a.hold = none) && fires && (decide (48 < use.1) || decide (30 < use.2)) then a.held 5 else a

/-- The moves and triggers of a bundle that no pending acquire holds, then its control slot. -/
def runBundle (c : Nat) (b : Bundle) (tbl : Nat → TrigFn) (cf : CtlFn) (pre : State) (a0 : Work) : Work :=
  let mv := runMoves c pre (pre.env c) b b.moves a0
  let a := runTrigs tbl (trigBase c b pre) mv.2 { mv.1 with w := mv.1.w.modCore c (Core.succeed b) }
  (a.join (cf (ctlBase c b pre (a.w.core c).pipe.seq) a.w)).room c !mv.2.isEmpty
/-- The bundle tried: everything it would do, the causes and holds it meets. What a pending acquire holds does nothing: only
what is found as it is decoded counts, and a wait of its control slot. -/
def tryBundle (c : Nat) (b : Bundle) (tbl : Nat → TrigFn) (cf : CtlFn) (w : W) : Work :=
  let pre := w.toState
  let a := Work.start c b w
  if a.hold.isSome || a.wait then a.join (cf (ctlBase c b pre (w.core c).pipe.seq) w) else runBundle c b tbl cf pre a

/-- A bundle that PASS lets go has its control slot treated as CNOP (17 R357). -/
def Bundle.passed (b : Bundle) (k : Core) : Bundle :=
  if k.bkpt then { b with ctl := BitVec.ofNat 32 (bits b.ctl 28 4 * 2 ^ 28) } else b

/-- The check of a branch target or of the fall-through, which is made when the bundle commits (06 R149) and not when it is
decoded, as LOOPM's are (R155). -/
def lateTarget (b : Bundle) (x : Cause) : Bool := decide (x.code = 2) && decide (x.sub = 2) && decide (ctlOpc b.ctl ≠ 0x06)

/-- The cause of a bundle that is found when it is decoded: the first in R23's order, the control slot's bad target among them
where there is another; a bad target alone waits for the commit. -/
def Bundle.decodeFirst (b : Bundle) (l : List Cause) : Option Cause :=
  let early := l.filter fun x => decide (x.code ≤ 3)
  if early.any fun x => !lateTarget b x then firstCause early else none

/-- A bundle issues, holds, waits, stalls or traps: decode-time causes first; a control slot that waits lets its wait
cycles pass whatever else would hold (06 R153); then the holds, the governor, and the causes of execution. While a pending
acquire holds the bundle none of its starts asks the limiter (20 R373). -/
def issue (c : Nat) (b0 : Bundle) (tbl : Nat → TrigFn) (cf : CtlFn) (w : W) : W :=
  let k := w.core c
  let b := b0.passed k
  match k.gate w.clk with
  | some r => w.holdOr c b r
  | none =>
    if 0 < k.pipe.pre then w.waitCycle c
    else
      let a := tryBundle c b tbl cf w
      match b.decodeFirst a.causes with
      | some x => w.trapAt c b x
      | none =>
        if a.wait then w.waitCycle c
        else match a.hold with
        | some r => if r = 6 then w.holdOr c b r else w.holdOr c b r a.w.took a.reqs
        | none =>
          if !(k.admits w.clk b.cls) then (w.stallCycle c).slewLeft c a.w.took []
          else match firstCause a.causes with
            | some x => w.trapAt c b x
            | none =>
              a.w.modCore c fun k' =>
                { ((k'.charge w.clk (k.weight b.cls)).modPipe fun p => { p with run := p.run + 1, held := 0 }) with
                  bkpt := false, stepArm := false }

/-- Whether a core issues bundles: a task or a handler runs, and it is not halted (17 R354, R357). -/
def Core.runs (k : Core) : Bool := decide (k.mode = .task ∨ k.mode = .handler) && (!k.halted || k.stepArm)

/-- A slot operation alone on the core whose clock cycle it is (log 6). -/
def issueOne (b : BitVec 256) (tbl : Nat → TrigFn) (cf : CtlFn) (s : State) : W :=
  let w := W.of s
  let k := w.core s.focus
  if k.runs then issue s.focus (Bundle.ofBits k.pcAddr b) tbl cf w else w

end Sys2Proof.Machine
end

