-- ==== Sys2Proof/Machine/Control.lean ====
section
/-!
DEFINITION. The control slot (01 R28, R35..R37; 06 R149..R158; 02 R65; 11 R262): CNOP, branches, the literal latch, SETFMT,
SETWIN, START, WAITE, FENCE, LOOPM, LOOPX, TRAP, hints, and the merged issues of the modulo sequencer.
-/

namespace Sys2Proof.Machine

/-! ### ILLEGAL_CONTROL and the successor (06 R149) -/

/-- ILLEGAL_CONTROL: SUB 0 opcode, 1 field, 2 target, 3 privilege; the whole control slot; the target (13 R305). -/
def illegalControl (w : BitVec 32) (sub : Nat) (target : Nat) : Cause :=
  { code := 2, slot := 0, sub := sub, i0 := word w.toNat, i1 := word target }

/-- The target as a number of 64 bits. -/
def target64 (x : Int) : Nat := (x % (2 ^ 64 : Int)).toNat

/-- A taken branch to `x`: inside the code range and a multiple of 32 (R149). -/
def CCtx.jump (t : CCtx) (x : Int) (w : W) : Res :=
  if (t.env.lo : Int) ≤ x ∧ x < (t.env.hi : Int) ∧ x % 32 = 0 then
    .ok (w.modCore t.c fun k => k.setPc x.toNat)
  else .trap (illegalControl t.word 2 (target64 x))

/-- The fall-through successor must lie in the code range, outside a loop body (R149, R155). -/
def CCtx.fall (t : CCtx) (w : W) : Res :=
  if t.inBody ∨ (t.env.lo ≤ t.bpc + 32 ∧ t.bpc + 32 < t.env.hi) then .ok w
  else .trap (illegalControl t.word 2 (t.bpc + 32))

/-- The address `d` bundles from the bundle. -/
def CCtx.rel (t : CCtx) (len d : Nat) : Int := (t.bpc : Int) + 32 * sext len d

/-- Field values and places of an operation that R36, R37 and R155 refuse. -/
def fieldCause (ver : Nat) (handler inBody : Bool) (w : BitVec 32) (i : Instr) : Option Cause :=
  match i with
  | .loopm _ _ t _ => if t = 0 then some (illegalControl w 1 0) else none
  | .loopx _ => if inBody then none else some (illegalControl w 0 0)
  | .start _ _ _ z => if ver = 1 ∧ z ≠ 0 then some (illegalControl w 1 0) else none
  | .waite _ m => if m.toNat < 64 then none else some (illegalControl w 1 0)
  | .fence _ _ k => if k.toNat < 4 then none else some (illegalControl w 1 0)
  | .suspend _ k n _ =>
    if handler ∨ 6 ≤ k.toNat ∨ (k = 2 ∧ n = 63) then some (illegalControl w 1 0) else none
  | .yield _ => if handler then some (illegalControl w 0 0) else none
  | .rtrap _ => if handler then none else some (illegalControl w 3 0)
  | _ => none

/-- The decode-time cause of a control word: reserved opcodes and operand bits, then its fields (R35, R37, R38). -/
def ctlCause (ver : Nat) (handler inBody : Bool) (w : BitVec 32) : Option Cause :=
  match decodeControl w with
  | .error (.reservedOpcode _) => some (illegalControl w 0 0)
  | .error _ => some (illegalControl w 1 0)
  | .ok i => fieldCause ver handler inBody w i

/-- The handler-mode flag of a control slot. -/
def CCtx.handler (t : CCtx) : Bool := decide (t.k.mode = .handler)

/-- A control operation after the checks of its word. -/
def checked (f : CtlFn) : CtlFn := fun t w =>
  match ctlCause t.env.ver t.handler t.inBody t.word with
  | some x => .trap x
  | none => f t w

/-! ### Branches (R35, R149) -/

/-- CNOP, START and the control hints: nothing but the fall-through. START's delays reach the triggers (R151). -/
def ctlNop : CtlFn := checked fun t w => t.fall w

/-- BR: the next bundle is PC + 32 d. -/
def ctlBr : CtlFn := checked fun t w => t.jump (t.rel 22 (ctlOpd t.word).toNat) w

/-- BRP: taken when the predicate from before the bundle, inverted or not, is 1. -/
def ctlBrp : CtlFn := checked fun t w =>
  let o := ctlOpd t.word
  if t.k.regs.pred (bits o 18 3) != bitAt o 21 then t.jump (t.rel 18 (bits o 0 18)) w else t.fall w

/-- CALL: s63 takes the link, over a move of the bundle; the next bundle is PC + 32 d. -/
def ctlCall : CtlFn := checked fun t w =>
  t.jump (t.rel 22 (ctlOpd t.word).toNat) (w.modCore t.c fun k => k.modRegs fun r => r.setS 63 (word (t.bpc + 32)))

/-- RET: the next bundle is s63 from before the bundle. -/
def ctlRet : CtlFn := checked fun t w => t.jump (t.k.regs.sreg 63).toNat w

/-- JR: the next bundle is s(n) from before the bundle. -/
def ctlJr : CtlFn := checked fun t w => t.jump (t.k.regs.sreg (bits (ctlOpd t.word) 0 6)).toNat w

/-! ### The literal latch (R28) -/

/-- LIT: the sign extension of the operand. -/
def ctlLit : CtlFn := checked fun t w =>
  t.fall (w.modCore t.c fun k => k.modRegs fun r => { r with lit := (ctlOpd t.word).signExtend 64 })

/-- LITH: the latch shifted left by 22 with the operand below. -/
def ctlLith : CtlFn := checked fun t w =>
  t.fall (w.modCore t.c fun k => k.modRegs fun r =>
    { r with lit := t.k.regs.lit <<< 22 ||| (ctlOpd t.word).zeroExtend 64 })

/-! ### SETFMT and SETWIN (02 R65..R67; 06 R150) -/

/-- SETFMT: the id enters stage 3 of the format pipeline after the bundle's own advance; a CTLW of ctl.fmt in the bundle
discards it (R67). -/
def ctlSetfmt : CtlFn := checked fun t w =>
  let id := bits (ctlOpd t.word) 0 12
  if !(t.pre.legendInRange (dieOf t.c) t.env.ctx id) then .trap (windowFault 0 id 0)
  else if t.ctlw = some 2 then t.fall w
  else t.fall (w.modCore t.c fun k => k.modCtl fun r => { r with fmt := setBits (setBits r.fmt 40 12 id) 14 1 1 })

/-- SETWIN: base and rotation from the next bundle on; a CTLW of ctl.win in the bundle wins. -/
def ctlSetwin : CtlFn := checked fun t w =>
  if t.ctlw = some 1 then t.fall w
  else t.fall (w.modCore t.c fun k => k.modCtl fun r => { r with win := word (ctlOpd t.word).toNat })

/-! ### WAITE and FENCE (06 R153; 11 R262) -/

/-- The crossbar block holds an operation that runs or waits. -/
def Core.xbBusy (k : Core) : Bool := k.eng.xb.any fun o => !o.started || decide (k.pipe.run < o.u + o.dt)
/-- The lock-step engine of a WAITE mask bit 0..3 holds an operation. -/
def Core.engineBusy (k : Core) (i : Nat) : Bool :=
  match i with
  | 0 => k.eng.mx.isSome || k.eng.mxWait.isSome
  | 1 => k.accNow.isSome
  | 2 => k.xbBusy || k.stopped.any fun x => x.1.started || x.1.again
  | 3 => k.eng.streams.any fun e => decide (e.2.st = 2) || !e.2.wbuf.isEmpty
  | _ => false

/-- A channel of a core. -/
def Core.chan (k : Core) (ch : Nat) : Channel := Tab.get {} k.cp.ch ch
/-- A channel of a core changed. -/
def Core.setChan (k : Core) (ch : Nat) (x : Channel) : Core :=
  k.modCp fun e => { e with ch := Tab.put {} e.ch ch x }
/-- A start for channel `ch` is still in the commit buffer. -/
def Core.startInBuf (k : Core) (ch : Nat) : Bool :=
  k.cbuf.any fun e => match e.2 with | .cpgo j _ => decide (j = ch) | _ => false
/-- A channel that is not IDLE or FAULT, a start on its way to it counted (log 16). -/
def Core.chanBusy (k : Core) (ch : Nat) : Bool :=
  let x := k.chan ch
  !(decide (x.st = 0) || decide (x.st = 4)) || k.startInBuf ch || !x.pend.isEmpty
/-- The detached engine of a WAITE mask bit 4 or 5 is busy. -/
def Core.detachedBusy (k : Core) (i : Nat) : Bool :=
  if i = 4 then (List.range 8).any k.chanBusy else k.tier.any fun t => t.accepted
/-- The BUSY bits of ctl.eng (06 R163). -/
def Core.engBusyBits (k : Core) : Nat :=
  (List.range 4).foldl (fun a i => a + b2n (k.engineBusy i) * 2 ^ i) 0 + b2n (k.detachedBusy 4) * 16 +
    b2n (k.detachedBusy 5) * 32

/-- WAITE: wait cycles while a lock-step engine of the mask holds an operation, then held cycles for the detached. -/
def ctlWaite : CtlFn := checked fun t w =>
  let m := ctlOpd t.word
  if (List.range 4).any fun i => bitAt m i && t.k.engineBusy i then .wait
  else if (List.range 2).any fun i => bitAt m (4 + i) && t.k.detachedBusy (4 + i) then .hold 8 none
  else t.fall (if bitAt m 5 then w.settlePops t.c else w)

/-- At operations and STAs of the task that are not performed, in the commit buffer or at their homes; with `all` false
only those that read. -/
def Core.atsOpen (k : Core) (all : Bool) : Bool :=
  let counts (op : Nat) : Bool := all || (decide (op ≠ 0x283) && decide (op ≠ 0x192))
  (k.ats.any fun a => a.live && !a.mute && decide (a.lvl = 0) && counts a.op) ||
    k.cbuf.any fun e => match e.2 with | .at _ op _ _ _ _ _ _ => counts op | .queue a => counts a.op | _ => false
/-- The same of those that the task issued before it last left a core (R248). -/
def State.atsLeft (s : State) (c : Nat) (all : Bool) : Bool :=
  match (s.core c).running with
  | none => false
  | some r => decide (r.tid ≠ 0) && s.cores.any fun e => e.2.ats.any fun a =>
      decide (a.tid = r.tid) && !a.mute && (decide (e.1 ≠ c) || !a.live) && (all || (decide (a.op ≠ 0x283) && decide (a.op ≠ 0x192)))
/-- Loads whose data has not been read. -/
def Core.loadsOpen (k : Core) : Bool := k.pipe.items.any fun it => isLoad it.id && decide (it.await ≠ .ready)
/-- A lock-step engine holds an operation; with `all` false one that reads: ACCZ reads nothing. -/
def Core.enginesOpen (k : Core) (all : Bool) : Bool :=
  (List.range 4).any fun i => k.engineBusy i && (all || decide (i ≠ 1) || k.eng.acc.any fun o => decide (o.id ≠ 0x844))
/-- Engine commands not accepted. -/
def Core.cmdsOpen (k : Core) : Bool :=
  (k.tier.any fun t => !t.accepted) || ((List.range 8).any fun ch => !(k.chan ch).pend.isEmpty) ||
    k.cbuf.any fun e => match e.2 with | .cpgo .. | .gqpush .. | .cpabort .. => true | _ => false

/-- FENCE: wait cycles while an engine of the core holds an operation that the condition covers, then held cycles until the
condition holds; kinds 0 and 1 acquire at the fence's scope (R258), and kinds 0 and 2 make the next write to a sync word a
release, as the bundle's own writes are later than it (`Core.succeed`; R262). -/
def ctlFence : CtlFn := checked fun t w =>
  let o := ctlOpd t.word
  let kind := bits o 16 3
  let all := decide (kind ≠ 1)
  let open_ := if kind = 3 then t.k.cmdsOpen else t.k.atsOpen all || t.k.loadsOpen || t.pre.atsLeft t.c all
  if decide (kind ≠ 3) && t.k.enginesOpen all then .wait
  else if open_ then .hold 9 none
  else t.fall (if kind ≤ 1 ∧ 3 ≤ bits o 19 3 then w.refreshMirrors (dieOf t.c) else w)

/-! ### TRAP (R35) -/

/-- TRAP: SW_TRAP with the code. -/
def ctlTrap : CtlFn := checked fun t _ => .trap { code := 14, slot := 0, i0 := word (bits (ctlOpd t.word) 0 16) }

/-! ### The modulo sequencer (06 R154..R158) -/

/-- The physical address a held page gives for a byte address, and whether it is this package's HBM (13 R311, R377). -/
def heldAddr (pages : List HeldPage) (a : Nat) : Option (Nat × Bool) :=
  match pages.find? fun p => decide (p.va ≤ a) && decide (a < p.va + p.size) with
  | none => none
  | some p => some (bits p.leaf 15 24 * 2 ^ 15 + (a - p.va), !(bitAt p.leaf 4))

/-- The 32 bytes of the bundle at `a` under the pages held (13 R377); code in another package's HBM is a free value. -/
def W.fetch (w : W) (pages : List HeldPage) (a : Nat) : Option (BitVec 256) :=
  match heldAddr pages a with
  | none => none
  | some (pa, true) => some (ofBytes 256 (w.bytes pa 32))
  | some (_, false) => some ((Config.freeLine a).extractLsb' 0 256)

/-- The control opcodes a loop body may hold (R155). -/
def bodyOpc (o : Nat) : Bool := [0x00, 0x07, 0x08, 0x09, 0x0a, 0x0c, 0x0e].contains o || decide (0x30 ≤ o)

/-- The nonzero move slots of a body bundle. -/
def bodyMoves (b : BitVec 256) : List SlotWork := (Bundle.ofBits 0 b).moves

/-- The checks of a LOOPM body, in the order of R155's table. -/
def bodyCause (w : BitVec 32) (e : Env) (pc lb ii : Nat) (body : List (Option (BitVec 256))) : Option Cause :=
  let bs := body.map fun o => o.getD 0
  let decodeC := (bs.map fun b =>
    ((ctlCause e.ver false true (bundleSlot b 0)).toList ++ decodeCauses e (bodyMoves b))).flatten
  let idx := (List.range lb).zip bs
  let slotsOf (p : Nat × BitVec 256) : List Nat :=
    (bodyMoves p.2).map (·.slot) ++ (if (ctlOpc (bundleSlot p.2 0)) ≠ 0 then [0] else [])
  let pairs := (idx.map fun p => idx.map fun q => (p, q)).flatten.filter fun x =>
    decide (x.1.1 < x.2.1) && decide (x.1.1 % ii = x.2.1 % ii)
  let sameSlot := pairs.find? fun x => (slotsOf x.1).any fun s => (slotsOf x.2).contains s
  let sameUnit := pairs.find? fun x =>
    (bodyMoves x.1.2).any fun s => (bodyMoves x.2.2).any fun t => usesMeet (moveUses e.ver s) (moveUses e.ver t)
  let conflict (x : (Nat × BitVec 256) × (Nat × BitVec 256)) : Cause :=
    { code := 3, slot := 0, sub := 1, i1 := word (x.1.1 % ii)
      i0 := word ((List.range 8).foldl
        (fun a i => a + b2n ((slotsOf x.1).contains i || (slotsOf x.2).contains i) * 2 ^ i) 0) }
  if e.hi < pc + 32 * (lb + 1) ∧ decodeC.isEmpty then some (illegalControl w 2 (pc + 32 * lb))
  else match decodeC with
    | x :: _ => some { x with slot := 0 }
    | [] =>
      if pc + 32 * (lb + 1) < e.lo ∨ e.hi ≤ pc + 32 * (lb + 1) then some (illegalControl w 2 (pc + 32 * (lb + 1)))
      else if bs.any fun b => !(bodyOpc (ctlOpc (bundleSlot b 0)).toNat) then some (illegalControl w 0 0)
      else match sameSlot with
        | some x => some (conflict x)
        | none => sameUnit.map conflict

/-- LOOPM: the body is fetched and checked; with T = 0 it is skipped, else the sequencer starts (R154, R155). -/
def ctlLoopm : CtlFn := checked fun t w =>
  let o := ctlOpd t.word
  let lb := bits o 16 6 + 1
  let ii := bits o 10 6
  let n := bits o 4 6
  let T := (t.k.regs.sreg n).toNat
  let body := (List.range lb).map fun i => w.fetch t.env.pages (t.bpc + 32 * (i + 1))
  match bodyCause t.word t.env t.bpc lb ii body with
  | some x => .trap x
  | none =>
    if 2 ^ 32 ≤ T then .trap (illegalControl t.word 1 0)
    else
      let act := decide (0 < T)
      let keep (i : Nat) (old new : Word) : Word := if t.ctlw = some i then old else new
      .ok (w.modCore t.c fun k =>
        ({ k with seq := if act then { on := true, body := body.map fun b => Option.getD b 0 } else {} }.setPc
          (t.bpc + 32 * (lb + 1))).modCtl fun r =>
            { r with
              lpc := keep 4 r.lpc (word t.bpc)
              lsq := keep 5 r.lsq (word (b2n act + (lb - 1) * 2 + ii * 2 ^ 7 + n * 2 ^ 13))
              ltc := keep 6 r.ltc (word (T + T * 2 ^ 32))
              lix := keep 7 r.lix 0 })

/-- LOOPX: with p7 = 1 before the issue, TEFF falls to i + 1 (R157). -/
def ctlLoopx : CtlFn := checked fun t w =>
  if t.k.regs.pred 7 then
    t.fall (w.modCore t.c fun k => k.modCtl fun r =>
      { r with ltc := setBits r.ltc 32 32 (Nat.min (bits r.ltc 32 32) (t.it + 1)) })
  else t.fall w

/-- Issue indices still to come: C < (TEFF - 1) II + Lb (R154). -/
def loopGoesOn (ctl : CtlRegs) (cc : Nat) : Bool :=
  let teff := bits ctl.ltc 32 32
  decide (cc + bits ctl.lsq 7 6 < teff * bits ctl.lsq 7 6 + (bits ctl.lsq 1 6 + 1)) && decide (0 < teff)

/-- The sequencer after merged issue C: the next index, or its end. -/
def W.advanceLoop (w : W) (c : Nat) : W :=
  w.modCore c fun k =>
    let cc := bits k.ctl.lix 0 40 + 1
    let k := k.modCtl fun r => { r with lix := word cc }
    if loopGoesOn k.ctl cc then k
    else
      let exit := bits k.ctl.lpc 0 51 + 32 * (bits k.ctl.lsq 1 6 + 2)
      ({ k with seq := {} }.setPc exit).modCtl fun r => { r with lsq := setBits r.lsq 0 1 0 }

/-- The body bundles that contribute to merged issue C: (body index, iteration, bundle), squashed ones left out. -/
def contributors (k : Core) : List (Nat × Nat × BitVec 256) :=
  let cc := bits k.ctl.lix 0 40
  let ii := bits k.ctl.lsq 7 6
  let teff := bits k.ctl.ltc 32 32
  (((List.range k.seq.body.length).zip k.seq.body).filter fun p =>
      decide (p.1 ≤ cc) && decide ((cc - p.1) % ii = 0) && decide ((cc - p.1) / ii < teff)).map fun p =>
    (p.1, (cc - p.1) / ii, p.2)

/-- Merged issue C as one bundle (R156). -/
def mergedBundle (k : Core) : Option Bundle :=
  match contributors k with
  | [] => none
  | l =>
    let lpc := bits k.ctl.lpc 0 51
    let ms := (l.map fun x => (bodyMoves x.2.2).map fun s =>
      { s with it := x.2.1, pc := some (lpc + 32 * (x.1 + 1)) }).flatten
    let ctl := l.find? fun x => decide (ctlOpc (bundleSlot x.2.2 0) ≠ 0)
    let cw := match ctl with | some x => bundleSlot x.2.2 0 | none => 0
    some
      { bpc := lpc
        moves := ((List.range 8).map fun i => ms.filter fun s => decide (s.slot = i)).flatten
        ctl := cw
        ctlIt := match ctl with | some x => x.2.1 | none => 0
        ctlPc := match ctl with | some x => lpc + 32 * (x.1 + 1) | none => lpc
        cls := l.foldl (fun a x => Nat.max a (ctlE (bundleSlot x.2.2 0)).toNat) 0
        inBody := true
        img := BitVec.ofNat 256 (ms.foldl (fun a s => a + s.w.toNat * 2 ^ (32 * s.slot)) cw.toNat) }

/-- A control operation of a merged issue, after which the sequencer goes on. -/
def inLoop (c : Nat) (f : CtlFn) : CtlFn := fun t w => match f t w with | .ok w => .ok (w.advanceLoop c) | r => r
/-- One merged issue of core `c`; a merged issue without contributors is a wait cycle (R156). -/
def mergedIssue (c : Nat) (tbl : Nat → TrigFn) (cf : BitVec 32 → CtlFn) (w : W) : W :=
  let k := w.core c
  match mergedBundle k with
  | none =>
    match k.gate w.clk with
    | some r => w.holdOr c { bpc := k.pcAddr, moves := [], ctl := 0, ctlIt := 0, ctlPc := 0, cls := 0, inBody := true, img := 0 } r
    | none => if 0 < k.pipe.pre then w.waitCycle c else (w.waitCycle c).advanceLoop c
  | some b =>
    issue c b tbl (inLoop c fun t => cf t.word t) w

/-! ### The meanings of control operations alone (log 6) -/

/-- No trigger. -/
def noTrig : Nat → TrigFn := fun _ _ w => .ok w

/-- A control operation alone. -/
def execControl (i : Instr) (f : CtlFn) (s : State) : Host.Outcome State Fault Refusal :=
  go s (issueOne ((encode i).getD 0) noTrig f s)

def execCnop (e : BitVec 4) (s : State) := execControl (.cnop e) ctlNop s
def execBr (e : BitVec 4) (d : BitVec 22) (s : State) := execControl (.br e d) ctlBr s
def execBrp (e : BitVec 4) (v : BitVec 1) (p : BitVec 3) (d : BitVec 18) (s : State) :=
  execControl (.brp e v p d) ctlBrp s
def execCall (e : BitVec 4) (d : BitVec 22) (s : State) := execControl (.call e d) ctlCall s
def execRet (e : BitVec 4) (s : State) := execControl (.ret e) ctlRet s
def execJr (e : BitVec 4) (n : BitVec 6) (s : State) := execControl (.jr e n) ctlJr s
def execLoopm (e : BitVec 4) (l t n : BitVec 6) (s : State) := execControl (.loopm e l t n) ctlLoopm s
/-- LOOPX alone as the control slot of the merged issue that is due, in the iteration of the contributing bundle that
holds a LOOPX, else of body bundle 0 (R156, R157). -/
def loopxBundle (k : Core) (b : BitVec 256) : Bundle :=
  let w := bundleSlot b 0
  { bpc := bits k.ctl.lpc 0 51, moves := [], ctl := w, ctlPc := bits k.ctl.lpc 0 51 + 32
    ctlIt := match (contributors k).find? fun x => decide (ctlOpc (bundleSlot x.2.2 0) = 7) with
      | some x => x.2.1
      | none => bits k.ctl.lix 0 40 / bits k.ctl.lsq 7 6
    cls := (ctlE w).toNat, inBody := true, img := b }
/-- LOOPX alone: while the sequencer runs it is part of a merged issue; elsewhere it is illegal (R157). -/
def execLoopx (e : BitVec 4) (s : State) : Host.Outcome State Fault Refusal :=
  let k := s.core s.focus
  if k.runs ∧ k.seq.on then
    go s (issue s.focus (loopxBundle k ((encode (.loopx e)).getD 0)) noTrig (inLoop s.focus ctlLoopx) (W.of s))
  else execControl (.loopx e) ctlLoopx s
def execLit (e : BitVec 4) (v : BitVec 22) (s : State) := execControl (.lit e v) ctlLit s
def execLith (e : BitVec 4) (v : BitVec 22) (s : State) := execControl (.lith e v) ctlLith s
def execSetfmt (e : BitVec 4) (f : BitVec 12) (s : State) := execControl (.setfmt e f) ctlSetfmt s
def execSetwin (e : BitVec 4) (r : BitVec 7) (b : BitVec 15) (s : State) := execControl (.setwin e r b) ctlSetwin s
def execStart (e : BitVec 4) (x y z : BitVec 6) (s : State) := execControl (.start e x y z) ctlNop s
def execWaite (e : BitVec 4) (m : BitVec 8) (s : State) := execControl (.waite e m) ctlWaite s
def execFence (e : BitVec 4) (v k : BitVec 3) (s : State) := execControl (.fence e v k) ctlFence s
def execTrap (e : BitVec 4) (c : BitVec 16) (s : State) := execControl (.trap e c) ctlTrap s
def execChint (e : BitVec 4) (h : BitVec 4) (v : BitVec 22) (s : State) := execControl (.chint e h v) ctlNop s

/-- A move alone. -/
def execMove (g : BitVec 4) (d s : BitVec 12) (m : BitVec 4) (st : State) : Host.Outcome State Fault Refusal :=
  go st (issueOne ((encode (.move g d s m)).getD 0) noTrig ctlNop st)
/-- A hint alone: no operation (R26). -/
def execHint (g : BitVec 4) (h : BitVec 8) (s : BitVec 12) (m : BitVec 4) (st : State) :
    Host.Outcome State Fault Refusal :=
  go st (issueOne ((encode (.hint g h s m)).getD 0) noTrig ctlNop st)

end Sys2Proof.Machine
end

