-- ==== Sys2Proof/Machine/Int.lean ====
section
/-!
DEFINITION. The integer units int0 and int1 (06 R159, R160).
-/

namespace Sys2Proof.Machine

/-- Unit number `u`'s operand port and result port: 0x100 or 0x140 (01 R29). -/
def intPort (u : BitVec 1) : Nat := 0x100 + 0x40 * u.toNat

/-- Two's-complement quotient toward zero, as a word. -/
def divTrunc (a b : Word) : Word := BitVec.ofInt 64 (a.toInt.tdiv b.toInt)

/-- Sign extension from width `w` (R160 SEXT). -/
def sextFrom (a : Word) (w : Nat) : Word := if w = 0 ∨ 64 ≤ w then a else BitVec.ofInt 64 (Machine.sext w a.toNat)
/-- Zero extension from width `w` (R160 ZEXT). -/
def zextFrom (a : Word) (w : Nat) : Word := if w = 0 ∨ 64 ≤ w then a else word (a.toNat % 2 ^ w)

/-- The bit field of `a` that `b` names, sign-extended when `m` bit 0 is set (R160 BEXT). -/
def bitField (a b : Word) (m : BitVec 4) : Word :=
  let pos := bits b 0 6
  let len := Nat.min (bits b 8 7) 64
  let f := (a.toNat >>> pos) % 2 ^ len
  if bitAt m 0 ∧ 1 ≤ len ∧ 2 ^ (len - 1) ≤ f then BitVec.ofInt 64 ((f : Int) - 2 ^ len) else word f

/-- The 128-bit carry-less product (R160). -/
def clmul (a b : Word) : Nat :=
  (List.range 64).foldl (fun p k => if bitAt b k then p ^^^ (a.toNat <<< k) else p) 0

/-- Leading zero bits, 64 for zero. -/
def clz64 (b : Word) : Nat := if b = 0 then 64 else 63 - Nat.log2 b.toNat
/-- Trailing zero bits, 64 for zero. -/
def ctz64 (b : Word) : Nat := ((List.range 64).find? fun k => bitAt b k).getD 64
/-- Number of 1 bits. -/
def popc64 (b : Word) : Nat := (List.range 64).foldl (fun n k => n + b2n (bitAt b k)) 0
/-- The eight bytes in reverse order. -/
def bswap64 (b : Word) : Word := word (leNat ((toBytes 8 b.toNat).reverse))

/-- The integer operations by their offset in the block: latency and result (R159). -/
def intResult (op : Nat) (a b : Word) (m : BitVec 4) : Word :=
  let n := bits b 0 6
  match op with
  | 0x01 => a + b
  | 0x02 => a - b
  | 0x03 => a * b
  | 0x04 => BitVec.ofInt 64 ((a.toInt * b.toInt) / 2 ^ 64)
  | 0x05 => word (a.toNat * b.toNat / 2 ^ 64)
  | 0x06 => if b = 0 then BitVec.allOnes 64 else divTrunc a b
  | 0x07 => if b = 0 then BitVec.allOnes 64 else word (a.toNat / b.toNat)
  | 0x08 => if b = 0 then a else BitVec.ofInt 64 (a.toInt - b.toInt * a.toInt.tdiv b.toInt)
  | 0x09 => if b = 0 then a else word (a.toNat % b.toNat)
  | 0x0a => a &&& b
  | 0x0b => a ||| b
  | 0x0c => a ^^^ b
  | 0x0d => a &&& ~~~b
  | 0x0e => a ||| ~~~b
  | 0x0f => a <<< n
  | 0x10 => a >>> n
  | 0x11 => a.sshiftRight n
  | 0x12 => a.rotateLeft n
  | 0x13 => if a.toInt ≤ b.toInt then a else b
  | 0x14 => if a.toInt ≤ b.toInt then b else a
  | 0x15 => if a.toNat ≤ b.toNat then a else b
  | 0x16 => if a.toNat ≤ b.toNat then b else a
  | 0x17 => word (clz64 b)
  | 0x18 => word (ctz64 b)
  | 0x19 => word (popc64 b)
  | 0x1a => bswap64 b
  | 0x1b => sextFrom a (bits b 0 7)
  | 0x1c => zextFrom a (bits b 0 7)
  | 0x1d => bitField a b m
  | 0x1e => word (b2n (decide (a = b)))
  | 0x1f => word (b2n (decide (a ≠ b)))
  | 0x20 => word (b2n (decide (a.toInt < b.toInt)))
  | 0x21 => word (b2n (decide (a.toNat < b.toNat)))
  | 0x22 => word (b2n (decide (a.toInt ≤ b.toInt)))
  | 0x23 => word (b2n (decide (a.toNat ≤ b.toNat)))
  | 0x24 => word (clmul a b)
  | 0x25 => word (clmul a b / 2 ^ 64)
  | 0x26 => b
  | 0x27 => a + b <<< bits m 0 2
  | _ => 0

/-- Latencies in run cycles (R159). -/
def intLatency (op : Nat) : Nat :=
  if [0x03, 0x04, 0x05, 0x24, 0x25].contains op then 3 else if 0x06 ≤ op ∧ op ≤ 0x09 then 18 else 1

/-- An item joins the core's unfinished operations. -/
def W.addItem (w : W) (c : Nat) (it : Item) : W :=
  w.modCore c fun k => k.modPipe fun p => { p with items := p.items ++ [it] }

/-- An integer trigger: a is the unit's operand port after the bundle's writes, b the trigger value. -/
def trigInt : TrigFn := fun t w =>
  let port := t.id / 64 * 64
  let a := (w.core t.c).regs.portW port
  let op := t.id % 64
  .ok (w.addItem t.c
    { kind := .dig, id := t.id, m := t.m, seq := t.seq, due := t.run + intLatency op, a := a, b := t.v
      wr := [(port, lineOf (intResult op a t.v t.m))], bpc := word t.bpc })

/-- A trigger operation alone. -/
def execTrigger (i : Instr) (f : TrigFn) (s : State) : Host.Outcome State Fault Refusal :=
  go s (issueOne ((encode i).getD 0) (fun _ => f) ctlNop s)

def execAdd (u : BitVec 1) (f : Slot) (s : State) := execTrigger (.add u f) trigInt s
def execSub (u : BitVec 1) (f : Slot) (s : State) := execTrigger (.sub u f) trigInt s
def execMul (u : BitVec 1) (f : Slot) (s : State) := execTrigger (.mul u f) trigInt s
def execMulh (u : BitVec 1) (f : Slot) (s : State) := execTrigger (.mulh u f) trigInt s
def execMulhu (u : BitVec 1) (f : Slot) (s : State) := execTrigger (.mulhu u f) trigInt s
def execDiv (u : BitVec 1) (f : Slot) (s : State) := execTrigger (.div u f) trigInt s
def execDivu (u : BitVec 1) (f : Slot) (s : State) := execTrigger (.divu u f) trigInt s
def execRem (u : BitVec 1) (f : Slot) (s : State) := execTrigger (.rem u f) trigInt s
def execRemu (u : BitVec 1) (f : Slot) (s : State) := execTrigger (.remu u f) trigInt s
def execAnd (u : BitVec 1) (f : Slot) (s : State) := execTrigger (.and u f) trigInt s
def execOr (u : BitVec 1) (f : Slot) (s : State) := execTrigger (.or u f) trigInt s
def execXor (u : BitVec 1) (f : Slot) (s : State) := execTrigger (.xor u f) trigInt s
def execAndn (u : BitVec 1) (f : Slot) (s : State) := execTrigger (.andn u f) trigInt s
def execOrn (u : BitVec 1) (f : Slot) (s : State) := execTrigger (.orn u f) trigInt s
def execShl (u : BitVec 1) (f : Slot) (s : State) := execTrigger (.shl u f) trigInt s
def execShr (u : BitVec 1) (f : Slot) (s : State) := execTrigger (.shr u f) trigInt s
def execSar (u : BitVec 1) (f : Slot) (s : State) := execTrigger (.sar u f) trigInt s
def execRol (u : BitVec 1) (f : Slot) (s : State) := execTrigger (.rol u f) trigInt s
def execMin (u : BitVec 1) (f : Slot) (s : State) := execTrigger (.min u f) trigInt s
def execMax (u : BitVec 1) (f : Slot) (s : State) := execTrigger (.max u f) trigInt s
def execMinu (u : BitVec 1) (f : Slot) (s : State) := execTrigger (.minu u f) trigInt s
def execMaxu (u : BitVec 1) (f : Slot) (s : State) := execTrigger (.maxu u f) trigInt s
def execClz (u : BitVec 1) (f : Slot) (s : State) := execTrigger (.clz u f) trigInt s
def execCtz (u : BitVec 1) (f : Slot) (s : State) := execTrigger (.ctz u f) trigInt s
def execPopc (u : BitVec 1) (f : Slot) (s : State) := execTrigger (.popc u f) trigInt s
def execBswap (u : BitVec 1) (f : Slot) (s : State) := execTrigger (.bswap u f) trigInt s
def execSext (u : BitVec 1) (f : Slot) (s : State) := execTrigger (.sext u f) trigInt s
def execZext (u : BitVec 1) (f : Slot) (s : State) := execTrigger (.zext u f) trigInt s
def execBext (u : BitVec 1) (f : Slot) (s : State) := execTrigger (.bext u f) trigInt s
def execCeq (u : BitVec 1) (f : Slot) (s : State) := execTrigger (.ceq u f) trigInt s
def execCne (u : BitVec 1) (f : Slot) (s : State) := execTrigger (.cne u f) trigInt s
def execClt (u : BitVec 1) (f : Slot) (s : State) := execTrigger (.clt u f) trigInt s
def execCltu (u : BitVec 1) (f : Slot) (s : State) := execTrigger (.cltu u f) trigInt s
def execCle (u : BitVec 1) (f : Slot) (s : State) := execTrigger (.cle u f) trigInt s
def execCleu (u : BitVec 1) (f : Slot) (s : State) := execTrigger (.cleu u f) trigInt s
def execClmull (u : BitVec 1) (f : Slot) (s : State) := execTrigger (.clmull u f) trigInt s
def execClmulh (u : BitVec 1) (f : Slot) (s : State) := execTrigger (.clmulh u f) trigInt s
def execPass (u : BitVec 1) (f : Slot) (s : State) := execTrigger (.pass u f) trigInt s
def execLea (u : BitVec 1) (f : Slot) (s : State) := execTrigger (.lea u f) trigInt s

end Sys2Proof.Machine
end

