-- ==== Sys2Proof/Machine/Vec.lean ====
section
/-!
DEFINITION. The vector unit and the function unit (07 R166..R183).
-/

namespace Sys2Proof.Machine

/-! ### Lanes (R166) -/

/-- Number of lanes of a type. -/
def lanesOf (fp : Bool) : Nat := if fp then 32 else 64
/-- The raw lanes of a line. -/
def rawLanes (fp : Bool) (l : Line) : List Nat :=
  (List.range (lanesOf fp)).map fun k => if fp then (lane32 l k).toNat else (lane l k).toNat
/-- The lanes of a line as values. -/
def numLanes (fp : Bool) (l : Line) : List FNum := lineNums l (b2n fp) (lanesOf fp)
/-- A line from raw lanes, lane 0 first. -/
def packRaw (fp : Bool) (l : List Nat) : Line :=
  let w := if fp then 32 else 16
  BitVec.ofNat 1024 (l.foldr (fun x a => x % 2 ^ w + 2 ^ w * a) 0)
/-- RND: a value as a raw lane. -/
def rndLane (fp : Bool) (x : FNum) : Nat := if fp then x.round fFP32 else x.round fBF16
/-- A line of rounded values. -/
def packNums (fp : Bool) (l : List FNum) : Line := packRaw fp (l.map (rndLane fp))
/-- A line of bytes, byte 0 first. -/
def packBytes (l : List Nat) : Line := BitVec.ofNat 1024 (l.foldr (fun x a => x % 256 + 256 * a) 0)
/-- Byte k of a line. -/
def lineByte (l : Line) (k : Nat) : Nat := bits l (8 * k) 8

/-! ### Lane arithmetic (R168, R169) -/

/-- Lane minimum: −0 is below +0. -/
def numMin (a b : FNum) : FNum :=
  if a.isNan ∨ b.isNan then .nan
  else match a.cmp b with
    | 0 => if b.neg then b else a
    | x => if x < 0 then a else b
/-- Lane maximum: +0 is above −0. -/
def numMax (a b : FNum) : FNum :=
  if a.isNan ∨ b.isNan then .nan
  else match a.cmp b with
    | 0 => if b.neg then a else b
    | x => if x < 0 then b else a

/-- One lane of an arithmetic operation, exact (R168). -/
def laneArith (op : Nat) (a b c : FNum) : FNum :=
  match op with
  | 0x1c2 => a.add b
  | 0x1c3 => a.add b.negate
  | 0x1c4 => a.mul b
  | 0x1c5 => (a.mul b).add c
  | 0x1c6 => (a.mul b).add c.negate
  | 0x1c7 => c.add (a.mul b).negate
  | 0x1c8 => numMin a b
  | 0x1c9 => numMax a b
  | 0x1ca => b.abs
  | 0x1cb => b.negate
  | _ => numMin (numMax b a) c

/-! ### Compares, reductions (R170..R172) -/

/-- A lane mask from a relation. -/
def laneMask (f : FNum → FNum → Bool) (a b : List FNum) : Nat :=
  (a.zip b).foldr (fun x m => b2n (f x.1 x.2) + 2 * m) 0

/-- VMAXR: the largest lane, its lowest index; the lowest NaN lane when there is one. -/
def maxReduce (l : List FNum) : Nat :=
  let idx := (List.range l.length).zip l
  match idx.find? fun x => x.2.isNan with
  | some x => FNum.nan.round fFP32 + x.1 * 2 ^ 32
  | none =>
    match idx with
    | [] => 0
    | x :: r =>
      let above (p q : FNum) : Bool := q.lt p || (p.isZero && q.isZero && !p.neg && q.neg)
      let best := r.foldl (fun m y => if above y.2 m.2 then y else m) x
      best.2.round fFP32 + best.1 * 2 ^ 32

/-- log2 of the number of lanes: the depth of the tree. -/
def treeDepth (fp : Bool) : Nat := if fp then 5 else 6

/-- VSTAT (R172). -/
def vstat (fp : Bool) (b : List FNum) (mu : Option FNum) : Nat :=
  let s := match mu with | some m => b.map fun x => (x.add m.negate).rnd32 | none => b
  let q := s.map fun d => (d.mul d).rnd32
  (treeSum (treeDepth fp) s).toNat + (treeSum (treeDepth fp) q).toNat * 2 ^ 32

/-! ### Conversions and pulse codes (R174..R176) -/

/-- VCVTFI of one lane: nearest integer, saturated. -/
def cvtInt (lo hi : Int) (x : FNum) : Int :=
  match x with
  | .nan => 0
  | .inf neg => if neg then lo else hi
  | x => if 200 < x.exp2 then (if x.neg then lo else hi) else clampInt lo hi x.toIntRne

/-- PPROB of one lane. -/
def pprobLane (v c : FNum) : Nat :=
  let x := (v.abs.mul c.abs).scale 8
  match x with
  | .nan => 0
  | .inf _ => b2n v.neg * 2 ^ 15 + 256
  | x =>
    let n := if (FNum.fin false 1 8).le x then 256 else x.toIntRne.toNat
    b2n v.neg * 2 ^ 15 + n

/-! ### The operations that touch no legend -/

/-- The result ports and values of a vector operation other than QNT, DQNT and QSCALE (R167). -/
def vecResult (op : Nat) (m : BitVec 4) (a b c : Line) : List (Nat × Line) :=
  let fp := bitAt m 0
  let na := numLanes fp a
  let nb := numLanes fp b
  let nc := numLanes fp c
  let r (l : Line) : List (Nat × Line) := [(0x1c0, l)]
  let mm (x : Nat) : List (Nat × Line) := [(0x1c1, lineOf (word x))]
  match op with
  | 0x1cd => r (packNums fp (nb.map fun x => x.scale (sbits a 0 64)))
  | 0x1ce => mm (laneMask FNum.lt na nb)
  | 0x1cf => mm (laneMask FNum.le na nb)
  | 0x1d0 => mm (laneMask FNum.eqv na nb)
  | 0x1d1 =>
    r (packRaw fp ((List.range (lanesOf fp)).map fun k =>
      if bitAt c k then (rawLanes fp a).getD k 0 else (rawLanes fp b).getD k 0))
  | 0x1d2 => mm (treeSum (treeDepth fp) nb).toNat
  | 0x1d3 => mm (maxReduce (if bitAt m 1 then nb.map FNum.abs else nb))
  | 0x1d4 => mm (treeSum (treeDepth fp) ((na.zip nb).map fun x => (x.1.mul x.2).rnd32)).toNat
  | 0x1d5 => mm (vstat fp nb (if bitAt m 1 then some (fp32 (lane32 a 0)) else none))
  | 0x1d6 =>
    let j := if fp then bits a 0 5 else bits a 0 6
    r (packRaw fp (List.replicate (lanesOf fp) ((rawLanes fp b).getD j 0)))
  | 0x1d7 =>
    let pool := rawLanes fp b ++ rawLanes fp c
    r (packRaw fp ((List.range (lanesOf fp)).map fun k =>
      let i := lineByte a k
      if 128 ≤ i then 0 else pool.getD (if fp then i % 64 else i) 0))
  | 0x1d8 => r (packNums true ((lineNums b 0 64).take 32))
  | 0x1d9 => [(0x1c2, packNums true ((lineNums b 0 64).drop 32))]
  | 0x1da => r (packNums false (lineNums a 1 32 ++ lineNums b 1 32))
  | 0x1db =>
    let w := if fp then 32 else 16
    r (packNums fp ((rawLanes fp b).map fun (x : Nat) => FNum.ofInt (if bitAt m 1 then (x : Int) else sext w x)))
  | 0x1dc =>
    let w := if fp then 32 else 16
    let lo : Int := if bitAt m 1 then 0 else -(2 ^ (w - 1))
    let hi : Int := if bitAt m 1 then 2 ^ w - 1 else 2 ^ (w - 1) - 1
    r (packRaw fp (nb.map fun x => (cvtInt lo hi x % 2 ^ w).toNat))
  | 0x1dd =>
    let codes := nb.map fun v => pprobLane v (bf16 (lane a 0))
    let keep := rawLanes false c
    r (packRaw false (if !fp then codes else if bitAt m 1 then keep.take 32 ++ codes else codes ++ keep.drop 32))
  | _ =>
    r (packNums fp ((na.zip (nb.zip nc)).map fun x => laneArith op x.1 x.2.1 x.2.2))

/-- Latencies (R167). -/
def vecLatency (op : Nat) : Nat :=
  if 0x1c5 ≤ op ∧ op ≤ 0x1c7 then 5 else if 0x1d2 ≤ op ∧ op ≤ 0x1d5 then 8 else if 0x1de ≤ op then 6 else 4

/-- Whether an operation reads a, and c: the inputs that a replay entry holds (13 R300; log 18). -/
def vecUsesA (op : Nat) : Bool :=
  !([0x1ca, 0x1cb, 0x1d2, 0x1d3, 0x1d8, 0x1d9, 0x1db, 0x1dc, 0x1de].contains op)
def vecUsesC (op : Nat) : Bool := [0x1c5, 0x1c6, 0x1c7, 0x1cc, 0x1d1, 0x1d7, 0x1dd, 0x1de, 0x1e0].contains op

/-- The captured line-wide inputs of a vector operation. -/
def vecLines (op : Nat) (a b c : Line) : List Line :=
  (if vecUsesA op then [a] else []) ++ [b] ++ (if vecUsesC op then [c] else [])

/-- A survey id inside the task's range (10 R230). -/
def Env.svOk (e : Env) (n : Nat) : Bool := decide (e.svFirst ≤ n) && decide (n < e.svFirst + e.svCount)

/-- A vector trigger without a legend. -/
def trigVec : TrigFn := fun t w =>
  let g := (w.core t.c).regs
  let a := g.port 0x1c0
  let c := g.port 0x1c1
  .ok (w.addItem t.c
    { kind := .dig, id := t.id, m := t.m, seq := t.seq, due := t.run + vecLatency t.id
      lines := vecLines t.id a t.val c, wr := vecResult t.id t.m a t.val c, bpc := word t.bpc })

/-- The current legend of a core (02 R66). -/
def TCtx.legend (t : TCtx) : Legend := t.pre.legend (dieOf t.c) (bits t.k.ctl.fmt 0 12)

/-- The current legend's id, where it lies outside the context's legend range: a use of it is a WINDOW_FAULT (05 R121). SETFMT
lets no such id in; a launch header or a CTLW may. -/
def TCtx.badLegend (t : TCtx) : Option Nat :=
  let id := bits t.k.ctl.fmt 0 12
  if t.pre.legendInRange (dieOf t.c) t.env.ctx id then none else some id

/-- The line with the legend record in bytes 0..15 and e_s in byte 16 (13 R300). -/
def legendLine (l : Legend) (es : Int) : Line := BitVec.ofNat 1024 (l.toNat + (es % 256).toNat * 2 ^ 128)

/-- First byte and number of the code bytes that a modifier names (R177, R179). -/
def codeRange (m : BitVec 4) : Nat × Nat :=
  if bitAt m 0 then (32 * bits m 1 2, 32) else (if bitAt m 1 then 64 else 0, 64)

/-- QNT and QSCALE: narrow codes into `vec.r`, the status into `vec.m`, and the clamp count at completion (R177). -/
def trigQnt : TrigFn := fun t w =>
  let l := t.legend
  let d := dieOf t.c
  if let some id := t.badLegend then t.window id
  else if !l.usable then t.engine
  else if !(t.env.svOk l.svid) then t.window l.svid
  else
    let g := (w.core t.c).regs
    let a := g.port 0x1c0
    let c := g.port 0x1c1
    let es : Int × Bool := if t.id = 0x1de then t.pre.scaleOf d l else (sbits a 0 8, false)
    let enc := (numLanes (bitAt t.m 0) t.val).map fun x => l.encode x es.1
    let ncl := (enc.filter fun x => x.2).length
    let rg := codeRange t.m
    let codes := enc.map (·.1)
    let out := packBytes ((List.range 128).map fun k =>
      if rg.1 ≤ k ∧ k < rg.1 + rg.2 then codes.getD (k - rg.1) 0 else lineByte c k)
    let status := (es.1 % 256).toNat + ncl * 256 + b2n es.2 * 65536
    .ok (w.addItem t.c
      { kind := .dig, id := t.id, m := t.m, seq := t.seq, due := t.run + 6
        lines := vecLines t.id a t.val c ++ [legendLine l es.1]
        wr := [(0x1c0, out), (0x1c1, lineOf (word status))], fx := .clamp d l.svid ncl, bpc := word t.bpc })

/-- DQNT (R179). -/
def trigDqnt : TrigFn := fun t w =>
  let l := t.legend
  if let some id := t.badLegend then t.window id
  else if !l.usable then t.engine
  else
    let g := (w.core t.c).regs
    let a := g.port 0x1c0
    let es := sbits a 0 8
    let rg := codeRange t.m
    let vals := (List.range rg.2).map fun k => l.wide (lineByte t.val (rg.1 + k)) es
    .ok (w.addItem t.c
      { kind := .dig, id := t.id, m := t.m, seq := t.seq, due := t.run + 6
        lines := vecLines t.id a t.val 0 ++ [legendLine l es]
        wr := [(0x1c0, packNums (bitAt t.m 0) vals)], bpc := word t.bpc })

/-- A function-unit trigger (R182). -/
def trigSfn : TrigFn := fun t w =>
  let fp := bitAt t.m 0
  let f := if fp then fFP32 else fBF16
  let out := packRaw fp ((rawLanes fp t.val).map fun x => fnLane f (t.id - 0x200) x)
  .ok (w.addItem t.c
    { kind := .dig, id := t.id, m := t.m, seq := t.seq, due := t.run + 12
      lines := [t.val], wr := [(0x200, out)], bpc := word t.bpc })

def execVadd (f : Slot) (s : State) := execTrigger (.vadd f) trigVec s
def execVsub (f : Slot) (s : State) := execTrigger (.vsub f) trigVec s
def execVmul (f : Slot) (s : State) := execTrigger (.vmul f) trigVec s
def execVfma (f : Slot) (s : State) := execTrigger (.vfma f) trigVec s
def execVfms (f : Slot) (s : State) := execTrigger (.vfms f) trigVec s
def execVnfma (f : Slot) (s : State) := execTrigger (.vnfma f) trigVec s
def execVmin (f : Slot) (s : State) := execTrigger (.vmin f) trigVec s
def execVmax (f : Slot) (s : State) := execTrigger (.vmax f) trigVec s
def execVabs (f : Slot) (s : State) := execTrigger (.vabs f) trigVec s
def execVneg (f : Slot) (s : State) := execTrigger (.vneg f) trigVec s
def execVclamp (f : Slot) (s : State) := execTrigger (.vclamp f) trigVec s
def execVscale (f : Slot) (s : State) := execTrigger (.vscale f) trigVec s
def execVcmplt (f : Slot) (s : State) := execTrigger (.vcmplt f) trigVec s
def execVcmple (f : Slot) (s : State) := execTrigger (.vcmple f) trigVec s
def execVcmpeq (f : Slot) (s : State) := execTrigger (.vcmpeq f) trigVec s
def execVsel (f : Slot) (s : State) := execTrigger (.vsel f) trigVec s
def execVsum (f : Slot) (s : State) := execTrigger (.vsum f) trigVec s
def execVmaxr (f : Slot) (s : State) := execTrigger (.vmaxr f) trigVec s
def execVdot (f : Slot) (s : State) := execTrigger (.vdot f) trigVec s
def execVstat (f : Slot) (s : State) := execTrigger (.vstat f) trigVec s
def execVbcast (f : Slot) (s : State) := execTrigger (.vbcast f) trigVec s
def execVshuf (f : Slot) (s : State) := execTrigger (.vshuf f) trigVec s
def execVwidenl (f : Slot) (s : State) := execTrigger (.vwidenl f) trigVec s
def execVwidenh (f : Slot) (s : State) := execTrigger (.vwidenh f) trigVec s
def execVnarrow (f : Slot) (s : State) := execTrigger (.vnarrow f) trigVec s
def execVcvtif (f : Slot) (s : State) := execTrigger (.vcvtif f) trigVec s
def execVcvtfi (f : Slot) (s : State) := execTrigger (.vcvtfi f) trigVec s
def execPprob (f : Slot) (s : State) := execTrigger (.pprob f) trigVec s
def execQnt (f : Slot) (s : State) := execTrigger (.qnt f) trigQnt s
def execQscale (f : Slot) (s : State) := execTrigger (.qscale f) trigQnt s
def execDqnt (f : Slot) (s : State) := execTrigger (.dqnt f) trigDqnt s
def execExp (f : Slot) (s : State) := execTrigger (.exp f) trigSfn s
def execExp2 (f : Slot) (s : State) := execTrigger (.exp2 f) trigSfn s
def execLn (f : Slot) (s : State) := execTrigger (.ln f) trigSfn s
def execLog2 (f : Slot) (s : State) := execTrigger (.log2 f) trigSfn s
def execRcp (f : Slot) (s : State) := execTrigger (.rcp f) trigSfn s
def execRsqrt (f : Slot) (s : State) := execTrigger (.rsqrt f) trigSfn s
def execSqrt (f : Slot) (s : State) := execTrigger (.sqrt f) trigSfn s
def execTanh (f : Slot) (s : State) := execTrigger (.tanh f) trigSfn s
def execSigm (f : Slot) (s : State) := execTrigger (.sigm f) trigSfn s
def execGelu (f : Slot) (s : State) := execTrigger (.gelu f) trigSfn s
def execSilu (f : Slot) (s : State) := execTrigger (.silu f) trigSfn s
def execErf (f : Slot) (s : State) := execTrigger (.erf f) trigSfn s

end Sys2Proof.Machine
end

