-- ==== Sys2Proof/Machine/Sv.lean ====
section
/-!
DEFINITION. The sv unit (10 R240..R245) and the survey steps of a die: deltas sent and merged, mirrors refreshed, a record
written by an STA (10 R234, R235, R239).
-/

namespace Sys2Proof.Machine

/-- The result line of an sv operation: the image, REMOTE and BMIS (R240). -/
def svLine (img : SvRec) (remote bmis : Bool) : Line :=
  BitVec.ofNat 1024 (BitVec.toNat img + (b2n remote + 2 * b2n bmis) * 2 ^ 512)

/-- The item of an sv operation. -/
def TCtx.svItem (t : TCtx) (w : W) (l : Line) : Res :=
  .ok (w.addItem t.c
    { kind := .res, id := t.id, m := t.m, seq := t.seq, due := t.run + 6, wr := [(0x240, l)], bpc := word t.bpc })

/-- The item of an sv operation that shows the home record: a later read of the mirror sees no less (R236). -/
def TCtx.svSeen (t : TCtx) (w : W) (n : Nat) (l : Line) : Res := t.svItem (w.refreshMirror (dieOf t.c) n) l

/-- The survey id of the operation: `sv.o` after the bundle's writes. -/
def TCtx.svId (t : TCtx) (w : W) : Nat := bits ((w.core t.c).regs.portW 0x240) 0 12

/-- The checks of R240: reserved bits, the id's range; then the operation. `ok` says that the trigger value is legal. -/
def svChecked (ok : TCtx → Bool) (f : TCtx → Nat → W → Res) : TrigFn := fun t w =>
  let o := (w.core t.c).regs.portW 0x240
  if bits o 12 52 ≠ 0 ∨ t.m ≠ 0 ∨ !(ok t) then t.engine
  else if !(t.env.svOk (bits o 0 12)) then t.window (bits o 0 12)
  else f t (bits o 0 12) w

/-- The checks of a line that the operation reads, and its wait while the line is absent (R240, 05 R126). -/
def TCtx.svRead (t : TCtx) (ln : Nat) (f : Line → Res) : Res :=
  match readCheck t.pre t.c t.env false t.slot t.id ln with
  | some x => .trap x
  | none => if t.k.present ln then f (t.k.line ln) else .hold 3 none

/-- The die on whose record an operation acts, any delta sent first, and whether that is another die (R240). -/
def W.svHome (w : W) (d n : Nat) : W × Nat × Bool :=
  let r := w.survey d n
  if SvRec.fwd r then (w.flushDelta d n, SvRec.home r, true) else (w, d, false)

/-- A record configured and emptied (R241): the image before, and the machine after. -/
def W.svReset (w : W) (d n : Nat) (v : Word) : SvRec × W :=
  let w := if SvRec.fwd (w.survey d n) then w.flushDelta d n else w
  let old := w.survey d n
  let fwd := bitAt v 14
  let new : BitVec 512 := BitVec.ofNat 512 (bits v 0 8 * 2 ^ 32 + bits v 8 1 * 2 ^ 40 +
    (if fwd then bits v 9 3 else d) * 2 ^ 41 + b2n fwd * 2 ^ 46 + bits v 16 12 * 2 ^ 48)
  (old, (w.setSurvey d n new).refreshMirror d n)

/-- SVRST's trigger value has its reserved bits clear and does not forward to its own die. -/
def svrstOk (d : Nat) (v : Word) : Bool :=
  decide (bits v 12 2 = 0) && !bitAt v 15 && decide (bits v 28 36 = 0) &&
    !(bitAt v 14 && decide (bits v 9 3 = d))

def trigSvrst : TrigFn := svChecked (fun t => svrstOk (dieOf t.c) t.v) fun t n w =>
  let d := dieOf t.c
  if !(t.pre.legendInRange d t.env.ctx (bits t.v 16 12)) then t.window (bits t.v 16 12)
  else
    let r := w.svReset d n t.v
    t.svItem r.2 (svLine r.1 false false)

def trigSvrd : TrigFn := svChecked (fun t => decide (t.v = 0)) fun t n w =>
  let h := w.svHome (dieOf t.c) n
  t.svSeen h.1 n (svLine (h.1.survey h.2.1 n) h.2.2 false)

/-- SVNOTE's trigger value is legal (R243). -/
def svnoteOk (v : Word) : Bool :=
  let ty := bits v 15 2
  decide (bits v 23 41 = 0) && decide (ty ≠ 3) && !(decide (ty = 1) && decide (31 < bits v 17 6)) &&
    !(decide (ty = 2) && decide (24 < bits v 17 6))

def trigSvnote : TrigFn := svChecked (fun t => svnoteOk t.v) fun t n w =>
  t.svRead (bits t.v 0 15) fun ln =>
    let d := dieOf t.c
    let r := w.noteRec d n (lineNums ln (bits t.v 15 2) (bits t.v 17 6 + 1))
    if r.2 then .trap { code := 8, slot := t.slot, i0 := rescaleInfo d n, i1 := word t.bpc }
    else
      let h := r.1.svHome d n
      t.svSeen h.1 n (svLine (h.1.survey h.2.1 n) h.2.2 false)

def trigSvmerge : TrigFn := svChecked (fun t => decide (bits t.v 15 49 = 0)) fun t n w =>
  t.svRead (bits t.v 0 15) fun ln =>
    let img : BitVec 512 := ln.truncate 512
    let h := w.svHome (dieOf t.c) n
    let same := decide (SvRec.base img = SvRec.base (h.1.survey h.2.1 n))
    let w := h.1.svUpdate h.2.1 n fun r => SvRec.merge r img same
    t.svSeen w n (svLine (w.survey h.2.1 n) h.2.2 !same)

def trigSvtrap : TrigFn := svChecked (fun t => decide (bits t.v 2 62 = 0)) fun t n w =>
  let d := dieOf t.c
  let h := w.svHome d n
  let w := h.1
  let w := w.setSurvey d n (setBits (w.survey d n) 40 1 (bits t.v 0 1))
  let w := if bitAt t.v 1 then w.setSurvey h.2.1 n (setBits (w.survey h.2.1 n) 45 1 0) else w
  t.svSeen w n (svLine (w.survey h.2.1 n) h.2.2 false)

def execSvrst (f : Slot) (s : State) := execTrigger (.svrst f) trigSvrst s
def execSvrd (f : Slot) (s : State) := execTrigger (.svrd f) trigSvrd s
def execSvnote (f : Slot) (s : State) := execTrigger (.svnote f) trigSvnote s
def execSvmerge (f : Slot) (s : State) := execTrigger (.svmerge f) trigSvmerge s
def execSvtrap (f : Slot) (s : State) := execTrigger (.svtrap f) trigSvtrap s

/-! ### Steps of the die -/

/-- A delta is due: 4,096 clock cycles old (R234). -/
def Delta.old (x : Delta) (clk : Nat) : Bool := decide (x.age + 4096 ≤ clk)

/-- SURVEY_DELTA_SEND: the delta of entry `sv` leaves die `d` for its home. -/
def execSurveyDeltaSend (d sv : Nat) (s : State) : Host.Outcome State Fault Refusal :=
  let w := W.of s
  let mine (x : Delta) : Bool := decide (x.sv = sv) && x.old s.clk
  let l := (w.die d).deltas.filter mine
  go s ((w.modDie d fun x => { x with deltas := x.deltas.filter fun y => !mine y }).deliver l)

/-- SURVEY_DELTA_MERGE: the oldest delta that reached die `d` is merged at its home record. -/
def execSurveyDeltaMerge (d : Nat) (s : State) : Host.Outcome State Fault Refusal :=
  let w := W.of s
  match (w.die d).inDeltas with
  | [] => go s w
  | x :: l => go s ((w.modDie d fun h => { h with inDeltas := l }).mergeDelta x)

/-- SURVEY_MIRROR_REFRESH: the mirror of a forwarding entry takes the home record as it stands. -/
def execSurveyMirrorRefresh (d sv : Nat) (s : State) : Host.Outcome State Fault Refusal :=
  go s ((W.of s).refreshMirror d sv)

/-- A survey record replaced whole by an STA: one update that counts as a reset (R239). -/
def W.surveySta (w : W) (d n : Nat) (img : BitVec 512) : W :=
  let w := if SvRec.fwd (w.survey d n) then w.flushDelta d n else w
  (w.setSurvey d n (svStored d img)).refreshMirror d n

/-- SURVEY_STA_WRITE: the record is replaced. -/
def execSurveyStaWrite (d sv : Nat) (img : BitVec 512) (s : State) : Host.Outcome State Fault Refusal :=
  go s ((W.of s).surveySta d (sv % 4096) img)

end Sys2Proof.Machine
end

