-- ==== Sys2Proof/Machine/Power.lean ====
section
/-!
DEFINITION. Frequency, draw and the slew limiter (15 R333, R337..R341); the occupation of the matrix unit (06 R151, R152).
-/

namespace Sys2Proof.Machine

/-! ### The power block (R333) -/

/-- The ramp block of cluster `q`. -/
def Die.rampBlk (d : Die) (q : Nat) : BitVec 512 := Tab.get rampReset d.ramp q
/-- RAMP(k), WMX, WXB, WST. -/
def Die.rampAt (d : Die) (q k : Nat) : Nat := bits (d.rampBlk q) (16 * k) 16
def Die.wmx (d : Die) (q : Nat) : Nat := bits (d.rampBlk q) 256 16
def Die.wxb (d : Die) (q : Nat) : Nat := bits (d.rampBlk q) 272 16
def Die.wst (d : Die) (q : Nat) : Nat := bits (d.rampBlk q) 288 16
/-- The limiter of a cluster. -/
def Die.limiter (d : Die) (q : Nat) : Slew := Tab.get {} d.slew q
/-- FW(m): the draw of a FILLER block (R339). -/
def Die.fw (d : Die) (q m : Nat) : Nat := d.wmx q * d.rampAt q m / d.rampAt q 15

/-! ### Draw (R337, R339) -/

/-- FILLER's ramp step now: k − j in its block j. -/
def EngineOp.fillerStep (o : EngineOp) : Nat := bits o.trig 0 4 - o.step
/-- An xb operation that draws. -/
def xbDraws (id : Nat) : Bool := (decide (0x891 ≤ id) && decide (id ≤ 0x894)) || decide (id = 0x899) || decide (id = 0x89a)
/-- The draw of a core's mx operation. -/
def Core.mxDraw (k : Core) (d : Die) (q : Nat) : Nat :=
  match k.eng.mx with
  | some o => if o.id = 0x305 then d.fw q o.fillerStep else d.wmx q
  | none => 0
/-- The draw of a core. -/
def Core.draw (k : Core) (d : Die) (q : Nat) : Nat :=
  let xb := k.eng.xb.filter fun o => (o.started || o.again) && xbDraws o.id && decide (k.pipe.run < o.u + o.dt)
  let st := k.eng.streams.filter fun e => decide (e.2.st = 2 ∨ e.2.st = 3)
  k.mxDraw d q + xb.length * d.wxb q + st.length * d.wst q + k.ctl.res
/-- The stopped crossbar operations of a core that draw on through their tile phase (R341). -/
def Core.stoppedDraws (k : Core) (clk : Nat) : Nat :=
  (k.stopped.filter fun x => x.1.again && xbDraws x.1.id && decide (x.1.stopRan + (clk - x.1.stopClk) < x.1.dt)).length
/-- DSUM of a cluster: the cores' draw and the grants not yet used. -/
def State.dsum (s : State) (d q : Nat) : Nat :=
  let die := s.die d
  ((List.range 16).foldl (fun a i =>
    let k := s.core (d * 128 + q * 16 + i)
    a + k.draw die q + k.stoppedDraws s.clk * die.wxb q) 0) +
    (die.limiter q).granted.foldl (fun a r => a + (r.w - r.own)) 0
/-- A request of weight `x` fits under a draw (R338). -/
def slewFits (die : Die) (q sum x : Nat) : Bool :=
  let st := (die.limiter q).step
  decide (sum + x ≤ die.rampAt q st) || (decide (sum = 0) && decide (st = 15))

/-! ### Requests (R337, R338) -/

/-- Grants(): requests in order while they fit. -/
def grantAll (die : Die) (q : Nat) : List SlewReq → Nat → List SlewReq × List SlewReq
  | [], _ => ([], [])
  | r :: l, sum =>
    if slewFits die q (sum - r.own) r.w then let x := grantAll die q l (sum - r.own + r.w); (r :: x.1, x.2)
    else ([], r :: l)

/-- Grants() for cluster `q` of die `d`. -/
def W.grants (w : W) (d q : Nat) : W :=
  let die := w.die d
  let x := grantAll die q (die.limiter q).waiting (w.dsum d q)
  (if x.2.isEmpty then w else w.markTele (d * 128) 8).modSlew (d * 128 + q * 16) fun l => { l with waiting := x.2, granted := l.granted ++ x.1.map fun r => { r with got := w.clk } }

/-- A request of core `c` for engine `eng` with weight `x`, of which it draws `own` already: by a grant given, or at once
when nothing waits and it fits; `none` where it must wait. -/
def W.askGrant (w : W) (c eng x : Nat) (own : Nat := 0) : Option W :=
  let q := clusterOf c
  let die := w.die (dieOf c)
  let l := die.limiter q
  let mine (r : SlewReq) : Bool := decide (r.core = c) && decide (r.eng = eng)
  if l.granted.any mine then some (w.modSlew c fun l => { l with granted := l.granted.filter fun r => !mine r })
  else
    -- with its own grant given the requests behind it have theirs looked at again, in a boundary cycle (20 R372)
    let w0 := w.modSlew c fun l => l.recall c w.clk
    let l := (w0.die (dieOf c)).limiter q
    let ahead := if w.clk % 4 = 0 then l.waiting.filter fun r => decide (r.core ≤ c) else l.waiting
    if ahead.isEmpty && slewFits die q (w0.dsum (dieOf c) q - own) x then
      let r : SlewReq := { core := c, eng := eng, seq := 0, w := x, own := own, since := w.clk, got := w.clk }
      let w1 := (w0.modSlew c fun l => { l with granted := l.granted ++ [r] }).grants (dieOf c) q
      some { w1.modSlew c (fun l => { l with granted := l.granted.filter fun r => !mine r }) with took := w.took ++ [r] }
    else none

/-- A start of engine `eng` with weight `x`: out of the core's reservation, or by a grant. -/
def W.askStart (w : W) (c eng x : Nat) (own : Nat := 0) : Option W :=
  if x ≤ (w.core c).ctl.res then
    some (w.modCore c fun k => { k with ctl := { k.ctl with res := k.ctl.res - x } })
  else w.askGrant c eng x own

/-- The hold of a start that waits for its grant (13 R305 reason 4). -/
def slewHold (c eng seq x : Nat) : Res := .hold 4 (some { core := c, eng := eng, seq := seq, w := x })

/-! ### The limiter's steps -/

/-- The smallest step whose ramp entry covers a draw. -/
def Die.stepFor (d : Die) (q sum : Nat) : Nat :=
  ((List.range 16).find? fun k => decide (sum ≤ d.rampAt q k)).getD 15

/-- SLEW_STEP_BOUNDARY: in a clock cycle that is a multiple of 4 the step moves, then Grants() runs; a request that waited in
the cycle before raises the step (20 R372). -/
def execSlewStepBoundary (d q : Nat) (s : State) : Host.Outcome State Fault Refusal :=
  let w := W.of s
  let l := (s.die d).limiter q
  if s.clk % 4 ≠ 0 then go s w
  else
    let waited := l.waiting.any fun r => decide (r.since < s.clk)
    let st := if waited then Nat.min 15 (l.step + 1) else (s.die d).stepFor q (s.dsum d q)
    go s ((w.modSlew (d * 128 + q * 16) fun l => { l with step := st, last := s.clk }).grants d q)

/-- SLEW_GRANT: waiting requests that fit are granted. -/
def execSlewGrant (d q : Nat) (s : State) : Host.Outcome State Fault Refusal := go s ((W.of s).grants d q)

/-! ### Frequency and ramp tables (R333) -/

/-- FTGT written: a value outside 32..76 is ignored. -/
def W.writeFtgt (w : W) (d : Nat) (v : Word) : W :=
  let f := bits v 0 7
  if 32 ≤ f ∧ f ≤ 76 then w.modDie d fun x => { x with ftgt := BitVec.ofNat 7 f } else w

def execFtgtWrite (d : Nat) (v : BitVec 64) (s : State) : Host.Outcome State Fault Refusal :=
  go s ((W.of s).writeFtgt d v)

/-- FREQUENCY_CHANGE_DONE: the target frequency is in force. -/
def execFrequencyChangeDone (d : Nat) (s : State) : Host.Outcome State Fault Refusal :=
  go s ((W.of s).modDie d fun x => { x with fcur := x.ftgt })

/-- The block of cluster `q` after a store of `n` bytes `v` at power-block offset `off`: RAMP, WMX, WXB and WST take them. -/
def Die.rampStored (d : Die) (q off n v : Nat) : BitVec 512 :=
  let lo := Nat.max off (0x100 + 64 * q)
  let hi := Nat.min (off + n) (0x140 + 64 * q)
  let old := d.rampBlk q
  if lo < hi then setBits (setBits old (8 * (lo - (0x100 + 64 * q))) (8 * (hi - lo)) (v >>> (8 * (lo - off)))) 304 208 (bits old 304 208)
  else old
/-- RAMP entries that do not fall. -/
def rampRises (x : BitVec 512) : Bool := (List.range 15).all fun k => decide (bits x (16 * k) 16 ≤ bits x (16 * k + 16) 16)
/-- A store to the ramp blocks of a die; one that would leave the RAMP entries of a cluster not non-decreasing is ignored
as a whole. -/
def W.writeRamps (w : W) (d off n v : Nat) : W :=
  let d0 := w.die d
  if (List.range 8).all fun q => rampRises (d0.rampStored q off n v) then
    w.modDie d fun x => { x with ramp := (List.range 8).foldl (fun t q => Tab.put rampReset t q (d0.rampStored q off n v)) x.ramp }
  else w

def execRampTableWrite (d q off : Nat) (v : BitVec 64) (s : State) : Host.Outcome State Fault Refusal :=
  go s (if off % 8 = 0 ∧ off ≤ 32 then (W.of s).writeRamps d (0x100 + 64 * (q % 8) + off) 8 v.toNat else W.of s)

/-! ### Occupation of the matrix unit (06 R151, R152) -/

/-- ENGINE_FAULT of an engine with operations that end at given run cycles: a start before the engine is free, or behind
a waiting operation. -/
def occupied (ends : List Nat) (waiting : Bool) (u : Nat) : Bool := waiting || ends.any fun e => decide (u < e)

/-- Whether an mx start at `u` faults. -/
def Core.mxFaults (k : Core) (u : Nat) : Bool :=
  occupied ((k.eng.mx.map fun o => o.u + o.dc).toList) k.eng.mxWait.isSome u

/-- An mx operation (FILLER among them) accepted: it starts now, or waits for its start cycle. `x` is its draw at the
start; `free` says that it is granted outside the order. -/
def startMx (t : TCtx) (w : W) (o : EngineOp) (x : Nat) (free : Bool) (begin_ : EngineOp → W → Res) : Res :=
  if t.k.mxFaults o.u then t.engine
  else if o.u = t.run then
    if free then begin_ o w
    else match w.askStart t.c 0 x with
      | some w => begin_ o w
      | none => slewHold t.c 0 t.seq x
  else .ok (w.modCore t.c fun k => k.modEng fun e => { e with mxWait := some o })

/-! ### SLEWREQ and FILLER (R339, R340; 06 R164) -/

/-- SLEWREQ: the core's reservation. -/
def trigSlewreq : TrigFn := fun t w =>
  let n := bits t.v 0 16
  let res := (w.core t.c).ctl.res
  let item : Item := { kind := .res, id := t.id, m := t.m, seq := t.seq, due := t.run + 2,
                       wr := [(0x300, lineOf (word n))], bpc := word t.bpc }
  let take (w : W) : Res := .ok ((w.modCore t.c fun k => { k with ctl := { k.ctl with res := n } }).addItem t.c item)
  if t.m ≠ 0 then .trap (illegalPort t.slot 0 t.id)
  else if bits t.v 16 48 ≠ 0 then t.engine
  else if n ≤ res then take w
  else
    match w.askGrant t.c 3 (n - res) with
    | some w => take w
    | none => slewHold t.c 3 t.seq (n - res)

/-- FILLER k: an mx operation of 4 (k + 1) run cycles. -/
def trigFiller : TrigFn := fun t w =>
  if t.m ≠ 0 then .trap (illegalPort t.slot 0 t.id)
  else if bits t.v 4 60 ≠ 0 then t.engine
  else
    let kk := bits t.v 0 4
    let d := w.die (dieOf t.c)
    let x := d.fw (clusterOf t.c) kk
    let o : EngineOp := { id := t.id, m := t.m, trig := t.v, seq := t.seq, u := t.run + t.dmx, dc := 4 * (kk + 1),
                          dt := 4 * (kk + 1), due := some (t.run + t.dmx), bpc := word t.bpc, stepped := t.k.stepArm }
    let now := t.k.eng.mxEnd
    let free := decide (o.u = t.run) && decide (now.1 = w.clk) && decide (x ≤ now.2)
    startMx t w o x free fun o w => .ok (w.modCore t.c fun k => k.modEng fun e => { e with mx := some { o with started := true, due := none } })

/-- A completion of an operation that a stepped bundle triggered (17 R356). -/
def W.stepDone (w : W) (c : Nat) (o : EngineOp) : W := if o.stepped then w.stepEvent c o.bpc.toNat 1 0 0 0 else w

/-- The end of a FILLER's block on core `c`: the next step down, or the end of the operation. -/
def W.fillerBlock (w : W) (c : Nat) : W :=
  let k := w.core c
  match k.eng.mx with
  | some o =>
    if o.id = 0x305 ∧ o.started ∧ o.u + 4 * (o.step + 1) ≤ k.pipe.run then
      if o.step < bits o.trig 0 4 then
        w.modCore c fun k => k.modEng fun e => { e with mx := some { o with step := o.step + 1 } }
      else
        let x := (w.die (dieOf c)).fw (clusterOf c) o.fillerStep
        let w := w.modCore c fun k => k.modEng fun e => { e with mx := none, mxEnd := (w.clk, x) }
        w.stepDone c o
    else w
  | none => w

def execSlewreq (f : Slot) (s : State) := execTrigger (.slewreq f) trigSlewreq s
def execFiller (f : Slot) (s : State) := execTrigger (.filler f) trigFiller s
/-- FILLER_RAMP_BLOCK: a block of four run cycles of core `c`'s FILLER has ended. -/
def execFillerRampBlock (c : Nat) (s : State) : Host.Outcome State Fault Refusal := go s ((W.of s).fillerBlock c)

end Sys2Proof.Machine
end

