-- ==== Sys2Proof/Machine/CtlUnit.lean ====
section
/-!
DEFINITION. The ctl unit: control registers (06 R161..R164; 02 R67; 12 R285; 13 R307; 15 R336; 17 R353), CTLR, CTLW and
TLBINV (13 R314).
-/

namespace Sys2Proof.Machine

/-! ### The registers -/

/-- `ctl.id` of core `c`. -/
def State.ctlId (s : State) (c : Nat) : Word :=
  word (c % 16 + clusterOf c * 2 ^ 4 + dieOf c * 2 ^ 7 + ((s.core c).ctx.getD 0) * 2 ^ 10 + s.pkg.rank.toNat * 2 ^ 16)

/-- `ctl.pst`: PROMPT, NOSLOT, AGE. -/
def CtlRegs.pst (r : CtlRegs) (clk : Nat) : Word :=
  match r.prompt with
  | none => word (b2n r.noslot * 2)
  | some t => word (1 + b2n r.noslot * 2 + Nat.min (clk - t) (2 ^ 32 - 1) * 2 ^ 8)

/-- `ctl.slw`: RES, STEP, WAIT. -/
def State.ctlSlw (s : State) (c : Nat) : Word :=
  let l := (s.die (dieOf c)).limiter (clusterOf c)
  word ((s.core c).ctl.res % 2 ^ 16 + l.step % 16 * 2 ^ 16 + b2n (l.waiting.any fun r => decide (r.core = c)) * 2 ^ 20)

/-- `ctl.tsk` (12 R285). -/
def Core.ctlTsk (k : Core) : Word :=
  match k.running with
  | none => 0
  | some r => word (bits r.img 461 3 + bits r.img 474 3 * 2 ^ 3 + bits r.img 464 1 * 2 ^ 6 +
      recLaunch r.img * 2 ^ 7 + r.e % 8 * 2 ^ 19)

/-- `ctl.sch` (12 R285). -/
def State.ctlSch (s : State) (c : Nat) : Word :=
  match (s.core c).running with
  | none => 0
  | some r =>
    let l := (s.die (dieOf c)).board.launch (recLaunch r.img)
    word (l.cur % 4 + b2n (!l.units.isEmpty) * 4)

/-- The control register at an index; `none` for an unassigned one (R162). -/
def State.ctlReg (s : State) (c idx : Nat) : Option Word :=
  let k := s.core c
  let r := k.ctl
  match idx with
  | 0x000 => some (s.ctlId c)
  | 0x001 => some r.win
  | 0x002 => some r.fmt
  | 0x004 => some r.lpc
  | 0x005 => some r.lsq
  | 0x006 => some r.ltc
  | 0x007 => some r.lix
  | 0x008 => some r.wdg
  | 0x009 => some (word k.engBusyBits)
  | 0x00a => some r.hcy
  | 0x00b => some r.scy
  | 0x040 => some r.pdl
  | 0x041 => some (r.pst s.clk)
  | 0x042 => some (if k.mode = .handler then word (1 + r.tcause.toNat * 2) else 0)
  | 0x043 => some r.terr
  | 0x080 => some r.egr
  | 0x081 => some (word (k.windowSum s.clk % 2 ^ 23))
  | 0x082 => some (s.ctlSlw c)
  | 0x084 => some (word (bits r.ewt 0 64))
  | 0x085 => some (word (bits r.ewt 64 64))
  | 0x086 => some (word (bits r.ewt 128 64))
  | 0x087 => some (word (bits r.ewt 192 64))
  | 0x0c0 => some k.ctlTsk
  | 0x0c1 => some (s.ctlSch c)
  | 0x100 => some (word r.halts.toNat)
  | _ => none

/-- A control register written, reserved fields kept zero; read-only registers keep their value (R164). -/
def CtlRegs.write (r : CtlRegs) (idx : Nat) (v : Word) : CtlRegs :=
  let low (n : Nat) : Word := word (bits v 0 n)
  match idx with
  | 0x001 => { r with win := low 22 }
  | 0x002 => { r with fmt := word (bits v 0 15 + bits v 16 36 * 2 ^ 16) }
  | 0x004 => { r with lpc := word (bits v 5 46 * 32) }
  | 0x005 => { r with lsq := low 19 }
  | 0x006 => { r with ltc := v }
  | 0x007 => { r with lix := low 40 }
  | 0x008 => if bits v 0 32 = 0 then r else { r with wdg := low 32 }
  | 0x00a => { r with hcy := v }
  | 0x00b => { r with scy := v }
  | 0x040 => { r with pdl := low 32 }
  | 0x043 => { r with terr := v }
  | 0x080 => { r with egr := low 23 }
  | 0x084 => { r with ewt := setBits r.ewt 0 64 v.toNat }
  | 0x085 => { r with ewt := setBits r.ewt 64 64 v.toNat }
  | 0x086 => { r with ewt := setBits r.ewt 128 64 v.toNat }
  | 0x087 => { r with ewt := setBits r.ewt 192 64 v.toNat }
  | _ => r

/-! ### CTLR and CTLW (R162, R164) -/

/-- The item of a control-register read. -/
def TCtx.ctlItem (t : TCtx) (w : W) (lat : Nat) (v : Word) : Res :=
  .ok (w.addItem t.c
    { kind := .res, id := t.id, m := t.m, seq := t.seq, due := t.run + lat, wr := [(0x300, lineOf v)]
      bpc := word t.bpc })

def trigCtlr : TrigFn := fun t w =>
  if t.m ≠ 0 ∨ bits t.v 12 52 ≠ 0 then .trap (illegalPort t.slot 0 t.id)
  else match t.pre.ctlReg t.c (bits t.v 0 12) with
    | none => .trap (illegalPort t.slot 0 t.id)
    | some v => t.ctlItem w 2 v

def trigCtlw : TrigFn := fun t w =>
  let idx := bits t.v 0 12
  if t.m ≠ 0 ∨ bits t.v 12 52 ≠ 0 then .trap (illegalPort t.slot 0 t.id)
  else match t.pre.ctlReg t.c idx with
    | none => .trap (illegalPort t.slot 0 t.id)
    | some v =>
      if t.k.seq.on ∧ [1, 4, 5, 6, 7].contains idx then .trap (illegalPort t.slot 0 t.id)
      else t.ctlItem (w.modCore t.c fun k => k.modCtl fun r => r.write idx (k.regs.portW 0x300)) 2 v

/-! ### TLBINV (13 R314) -/

/-- Whether an invalidation of form `form` by context `ctx` removes a translation of context `x` over `va`..`va+size-1`. -/
def tlbHits (form ctx va x base size : Nat) : Bool :=
  match form with
  | 0 => decide (x = ctx)
  | 1 => decide (x = ctx) && decide (base ≤ va) && decide (va < base + size)
  | _ => true

/-- The matching translations leave a core's channel caches. -/
def Core.dropTlb (k : Core) (form ctx va : Nat) : Core :=
  let x := k.ctx.getD 64
  k.modCp fun e => { e with ch := e.ch.map fun q =>
    (q.1, { q.2 with tlb := q.2.tlb.filter fun p => !(tlbHits form ctx va x p.va p.size) }) }

/-- The matching translations leave a die's gazetteer and the channel caches of its cores. -/
def W.dropTlb (w : W) (d form ctx va : Nat) : W :=
  let away (a : Option Core) : Option Core := a.map fun k => k.dropTlb form ctx va
  let w := w.modDie d fun x =>
    { x with
      gaz := x.gaz.filter fun e => !(tlbHits form ctx va e.1 e.2.va e.2.size)
      away := x.away.map fun e => (e.1, away e.2) }
  { w with cores := w.cores.map fun e => if dieOf e.1 = d then (e.1, e.2.dropTlb form ctx va) else e }

/-- An effect enters the commit buffer (13 R303). -/
def W.buffer (w : W) (c : Nat) (o : Out) : W := w.modCore c fun k => { k with cbuf := k.cbuf ++ [(w.clk, o)] }

def trigTlbinv : TrigFn := fun t w =>
  let o := (w.core t.c).regs.portW 0x300
  let form := bits t.v 0 2
  if t.m ≠ 0 then .trap (illegalPort t.slot 0 t.id)
  else if bits t.v 3 61 ≠ 0 ∨ form = 3 ∨ (form = 1 ∧ bits o 51 13 ≠ 0) then t.engine
  else
    let w := w.addItem t.c { kind := .atr, id := t.id, m := t.m, seq := t.seq, due := t.run + 16, a := o
                             await := .agent, bpc := word t.bpc }
    .ok (w.buffer t.c (.tlbinv t.seq form (bitAt t.v 2) (bits o 0 51)))

def execCtlr (f : Slot) (s : State) := execTrigger (.ctlr f) trigCtlr s
def execCtlw (f : Slot) (s : State) := execTrigger (.ctlw f) trigCtlw s
def execTlbinv (f : Slot) (s : State) := execTrigger (.tlbinv f) trigTlbinv s

end Sys2Proof.Machine
end

