-- ==== Sys2Proof/Machine/Xlate.lean ====
section
/-!
DEFINITION. Translation of virtual addresses (13 R311..R313, R377).
-/

namespace Sys2Proof.Machine

/-- Why a translation fails: a PAGE_FAULT subcode (13 R305), or an uncorrectable table entry (SOFT_ERROR). -/
inductive XErr where
  | page (sub : Nat)
  | soft
  /-- A read of the walk has not been admitted. -/
  | wait
  deriving DecidableEq, Repr

/-! ### Requests of the agents beside the copy channels (03 R72..R75)

DESIGN CHOICE (log 101): the source ports of the agents of 03 R72 beside the copy channels, by kind and die: 0 memory-tier
engine, 1 scrubber, 2 controller, 3 other packages, 4 gazetteer, 5 stage die, 6 telemetry, 7 host. A write of such an agent is
performed when it is admitted. A step of one that reads waits until every read of its own has been admitted; then it uses them. -/

/-- The source port of such an agent. -/
def agentPort (kind d : Nat) : Nat := 65536 + 8 * kind + d
/-- The addresses of the lines of `n` bytes from `a`. -/
def lineAddrs (a n : Nat) : List Nat := (List.range ((a % 128 + n + 127) / 128)).map fun i => (a / 128 + i) * 128
/-- A request joins those that wait for its pseudo-channel. -/
def W.hbmAsk (w : W) (q : HbmReq) : W :=
  let a := 128 * q.line
  w.modDie (stackOf a) fun d =>
    { d with mc := { d.mc with waiting := Tab.put [] d.mc.waiting (pcOf a) (Tab.get [] d.mc.waiting (pcOf a) ++ [q]) } }
/-- The requests for the lines of `n` bytes from `a` join those that wait for their pseudo-channels. -/
def W.askHbm (w : W) (port a n : Nat) : W :=
  (lineAddrs a n).foldl (fun w a => w.hbmAsk { src := port, line := a / 128, write := false }) w
/-- A request of the agent for one of these lines is not admitted yet. -/
def State.askedHbm (s : State) (port a n : Nat) : Bool :=
  (lineAddrs a n).any fun a =>
    (Tab.get [] (s.die (stackOf a)).mc.waiting (pcOf a)).any fun q => decide (q.src = port) && decide (q.line = a / 128)
/-- Bytes written from an address, line by line, by the agent of a source port. -/
def W.hbmStore (w : W) (port a : Nat) (l : List Byte) : W :=
  let cells := ((List.range l.length).zip l).map fun e => (a + e.1, e.2)
  (lineAddrs a l.length).foldl (fun w b => w.hbmAsk
    { src := port, line := b / 128, write := true, data := cells.filter fun e => decide (e.1 / 128 = b / 128) }) w
/-- The lines of a range filled with zeros by the agent of a source port. -/
def W.hbmZero (w : W) (port a n : Nat) : W :=
  (lineAddrs a n).foldl (fun w b => w.hbmAsk { src := port, line := b / 128, write := true, whole := true }) w
/-- HBM as the agents read it whose own writes, which wait for admission, come first. -/
def W.ahead (w : W) : W :=
  let mine (q : HbmReq) : Bool := q.write && decide (agentPort 0 0 ≤ q.src)
  ((w.dies.map fun e => (e.2.mc.waiting.map fun p => p.2.filter mine).flatten).flatten).foldl W.hbmPut w

/-- A read of an agent: its source port and its line. -/
abbrev AgentRead := Nat × Nat
/-- The reads of the lines of `n` bytes from `a`. -/
def readsOf (port a n : Nat) : List AgentRead := (lineAddrs a n).map fun b => (port, b / 128)
/-- The admitted read of an agent that no step has used: whether its data was good. -/
def State.turn (s : State) (e : AgentRead) : Option Bool :=
  ((s.die (stackOf (128 * e.2))).mc.turns.find? fun t => decide (t.1 = e.1) && decide (t.2.1 = e.2)).map (·.2.2.2)
/-- Every read of a step has been admitted. -/
def State.admitted (s : State) (l : List AgentRead) : Bool := l.all fun e => (s.turn e).isSome
/-- The reads of a step that have neither been made nor admitted are made. -/
def W.askReads (w : W) (l : List AgentRead) : W :=
  l.foldl (fun w e => if (w.turn e).isSome || w.askedHbm e.1 (128 * e.2) 128 then w else w.askHbm e.1 (128 * e.2) 128) w
/-- The step uses its reads. -/
def W.takeReads (w : W) (l : List AgentRead) : W :=
  let bad := (l.filter fun e => decide (w.turn e = some false)).map (·.2)
  let free (t : Nat × Nat × Nat × Bool) : Bool := !(l.contains (t.1, t.2.1))
  { w with bad := bad ++ w.bad
           dies := w.dies.map fun e => (e.1, { e.2 with mc := { e.2.mc with turns := e.2.mc.turns.filter free } }) }
/-- A step whose reads are `l`: what it does once they are admitted; until then they are made. -/
def W.reading (w : W) (l : List AgentRead) (f : W → W) : W :=
  if w.admitted l then f (w.takeReads l) else w.askReads l

/-- A table entry with reserved bits set, by level (R312). -/
def leafReserved (e : BitVec 64) : Bool :=
  decide (bits e 5 10 ≠ 0) || decide (bits e 49 15 ≠ 0) || (!bitAt e 4 && decide (bits e 39 10 ≠ 0))

/-- The levels of the walk from a table address: index position and page size of each (R311). -/
def walkFrom (w : W) (va : Nat) : List (Nat × Nat) → Nat → Except XErr HeldPage
  | [], _ => .error (.page 4)
  | (pos, size) :: l, t =>
    let a := t + 8 * (va / 2 ^ pos % 4096)
    let e : BitVec 64 := BitVec.ofNat 64 (w.hbmNat a 8)
    let pa := bits e 15 24 * 2 ^ 15
    if Config.hbmBytes ≤ a then .error (.page 5)
    else if w.badLine a then .error .soft
    else if !bitAt e 0 then .error (.page 0)
    else if leafReserved e ∨ (l.isEmpty ∧ !bitAt e 1) ∨ (!bitAt e 1 ∧ bitAt e 4) then .error (.page 4)
    else if bitAt e 1 then
      if pa % size ≠ 0 then .error (.page 4)
      else if !bitAt e 4 ∧ Config.hbmBytes ≤ pa + va % size then .error (.page 5)
      else .ok { va := va / size * size, size := size, leaf := e }
    else walkFrom w va l pa

/-- Walk(va) under the table root (R311). -/
def W.walk (w : W) (root : Nat) (va : Int) : Except XErr HeldPage :=
  if va < 0 ∨ 2 ^ 51 ≤ va then .error (.page 6)
  else if root = 0 then .error (.page 0)
  else walkFrom w va.toNat [(39, 2 ^ 39), (27, 2 ^ 27), (15, 2 ^ 15)] root

/-- The table entries that the walk reads. -/
def walkAddrs (w : W) (va : Nat) : List (Nat × Nat) → Nat → List Nat
  | [], _ => []
  | (pos, _) :: l, t =>
    let a := t + 8 * (va / 2 ^ pos % 4096)
    let e : BitVec 64 := BitVec.ofNat 64 (w.hbmNat a 8)
    a :: (if bitAt e 0 && !bitAt e 1 then walkAddrs w va l (bits e 15 24 * 2 ^ 15) else [])
/-- The walk's reads, requests of die `d`'s gazetteer (03 R72). -/
def W.walkReads (w : W) (d root : Nat) (va : Int) : List AgentRead :=
  if va < 0 ∨ 2 ^ 51 ≤ va ∨ root = 0 then []
  else ((walkAddrs w va.toNat [(39, 2 ^ 39), (27, 2 ^ 27), (15, 2 ^ 15)] root).filter (· < Config.hbmBytes)).map fun a =>
    (agentPort 4 d, a / 128)

/-- PTROOT of context `ctx` on die `d` (R308). -/
def State.ptroot (s : State) (d ctx : Nat) : Nat := bits (Tab.get 0 (s.die d).cctl ctx) 96 39

/-- The physical address under a page, and whether it is another package's HBM with its rank. -/
def HeldPage.pa (p : HeldPage) (va : Nat) : Nat := bits p.leaf 15 24 * 2 ^ 15 + (va - p.va)
def HeldPage.remote (p : HeldPage) : Option Nat := if bitAt p.leaf 4 then some (bits p.leaf 39 10) else none
/-- An address under a page lies outside the physical space (R305 SUB 5; 03 R71). -/
def HeldPage.outside (p : HeldPage) (va : Nat) : Bool := p.remote.isNone && decide (Config.hbmBytes ≤ p.pa va)
def HeldPage.rd (p : HeldPage) : Bool := bitAt p.leaf 2
def HeldPage.wr (p : HeldPage) : Bool := bitAt p.leaf 3
/-- A page covers an address. -/
def HeldPage.covers (p : HeldPage) (va : Nat) : Bool := decide (p.va ≤ va) && decide (va < p.va + p.size)

/-- The pages under the bytes `lo`..`hi`-1, each inside the physical space and with read right, or nothing (03 R71). -/
def W.translateRange (w : W) (root hi : Nat) : Nat → Nat → Option (List HeldPage)
  | 0, _ => none
  | n + 1, lo =>
    if hi ≤ lo then some []
    else match w.walk root lo with
      | .error _ => none
      | .ok p =>
        if p.rd && !(p.outside (Nat.min hi (p.va + p.size) - 1)) then
          (W.translateRange w root hi n (p.va + p.size)).map (p :: ·)
        else none

/-- The pages of a code range (R377). -/
def W.codePages (w : W) (root base size : Nat) : Option (List HeldPage) :=
  w.translateRange root (base + size) (size / 32768 + 3) base
/-- The reads of the walks of a code range. -/
def W.codeReads (w : W) (d root base size : Nat) : List AgentRead :=
  ((List.range (size / 32768 + 2)).map fun i =>
    let va := (base / 32768 + i) * 32768
    if va < base + size then w.walkReads d root va else []).flatten

/-- The reads of die `d` for `n` translated bytes at a virtual address, its walks among them (03 R72). -/
def W.ctxReads (w : W) (d root : Nat) : Nat → Nat → Nat → List AgentRead
  | 0, _, _ => []
  | f + 1, va, n =>
    if n = 0 then []
    else w.walkReads d root va ++ match w.walk root va with
      | .error _ => []
      | .ok p =>
        let k := Nat.min n (p.va + p.size - va)
        (if p.remote.isSome || p.outside (va + k - 1) then [] else readsOf (agentPort 5 d) (p.pa va) k) ++
          W.ctxReads w d root f (va + k) (n - k)

/-- The handler range of a context translated anew (R377), by reads that nothing waits for. -/
def W.holdHandler (w : W) (d ctx : Nat) : W :=
  let blk := Tab.get 0 (w.die d).cctl ctx
  let root := bits blk 96 39
  let pages := (w.ahead.codePages root (bits blk 0 64) (bits blk 64 32)).getD []
  (pages.foldl (fun w' p => w'.askReads (w.ahead.walkReads d root p.va)) w).modDie d fun x =>
    { x with handler := Tab.put [] x.handler ctx pages }

/-- TABLE_WALK: the gazetteer of die `d` takes the translation of a virtual page of a context; 8,192 translations at
most, 16 to a set, the oldest of a full set leaving (R313; DESIGN CHOICE, log 21: which one leaves). -/
def W.fillGaz (w : W) (d ctx : Nat) (p : HeldPage) : W :=
  let set (c : Nat) (q : HeldPage) : Nat := (q.va / q.size + c) % 512
  w.modDie d fun x =>
    let rest := x.gaz.filter fun e => !(decide (e.1 = ctx) && decide (e.2.va = p.va) && decide (e.2.size = p.size))
    let same := rest.filter fun e => decide (set e.1 e.2 = set ctx p)
    let rest := if 16 ≤ same.length then rest.erase (same.headD (ctx, p)) else rest
    { x with gaz := rest ++ [(ctx, p)] }

/-- The gazetteer's translation of a virtual address. -/
def State.gazPage (s : State) (d ctx : Nat) (va : Int) : Option HeldPage :=
  ((s.die d).gaz.find? fun e => decide (e.1 = ctx) && decide (0 ≤ va) && e.2.covers va.toNat).map (·.2)
/-- The reads that the translation of a virtual address needs: none when the gazetteer holds it. -/
def W.xlateReads (w : W) (d ctx : Nat) (va : Int) : List AgentRead :=
  if (w.gazPage d ctx va).isSome then [] else w.walkReads d (w.ptroot d ctx) va

/-- The translation of `va` for context `ctx` on die `d`: held by the gazetteer, or walked, once the walk's reads are admitted,
and then held. -/
def W.gazetteer (w : W) (d ctx : Nat) (va : Int) : Except XErr (HeldPage × W) :=
  match w.gazPage d ctx va with
  | some p => if p.outside va.toNat then .error (.page 5) else .ok (p, w)
  | none =>
    let l := w.walkReads d (w.ptroot d ctx) va
    if !(w.admitted l) then .error .wait
    else match (w.takeReads l).walk (w.ptroot d ctx) va with
      | .ok p => .ok (p, (w.takeReads l).fillGaz d ctx p)
      | .error e => .error e

def execTableWalk (d ctx va : Nat) (s : State) : Host.Outcome State Fault Refusal :=
  go s ((W.of s).reading ((W.of s).xlateReads d ctx va) fun w =>
    if (w.gazPage d ctx va).isSome then w
    else match w.walk (w.ptroot d ctx) va with
      | .ok p => w.fillGaz d ctx p
      | .error _ => w)

end Sys2Proof.Machine
end

