-- ==== Sys2Proof/Machine/Atlas.lean ====
section
/-!
DEFINITION. The atlas: its map, reads and writes of every place it names (05 R116..R122; 03 R79, R87; 09 R204, R205;
12 R272, R280, R287; 13 R308; 14 R318, R321; 15 R333, R342; 17 R353; 10 R239; 04 R91).
-/

namespace Sys2Proof.Machine

/-! ### The map (R116..R119, 14 R318) -/

/-- What an atlas address names; offsets count from the start of the part. -/
inductive Loc where
  | vrf (c off : Nat)
  | acc (c off : Nat)
  | aperture (c off : Nat)
  | presence (c off : Nat)
  | buffers (c off : Nat)
  | legend (d off : Nat)
  | survey (d off : Nat)
  | memctl (d off : Nat)
  | tier (d off : Nat)
  | desc (d off : Nat)
  | port (d off : Nat)
  | board (d off : Nat)
  | barrier (d off : Nat)
  | owner (d off : Nat)
  | cctl (d off : Nat)
  | power (d off : Nat)
  | telemetry (off : Nat)
  | debug (d off : Nat)
  | wing (off : Nat)
  | fabric (w off : Nat)
  | window (w a off : Nat)
  deriving DecidableEq, Repr

/-- The core of a place in a core region. -/
def Loc.core? : Loc → Option Nat
  | .vrf c _ | .acc c _ | .aperture c _ | .presence c _ | .buffers c _ => some c
  | _ => none

/-- `off` lies in lo .. lo+len-1. -/
def within (off lo len : Nat) : Bool := decide (lo ≤ off) && decide (off < lo + len)

/-- The place in a core region (R117). -/
def coreLoc (c off : Nat) : Option Loc :=
  if within off 0 0x400000 then some (.vrf c off)
  else if within off 0x1000000 0x50000 then some (.acc c (off - 0x1000000))
  else if within off 0x2000000 0x100 then some (.aperture c (off - 0x2000000))
  else if within off 0x3000000 0x1000 then some (.presence c (off - 0x3000000))
  else if within off 0x3001000 0x200 then some (.buffers c (off - 0x3001000))
  else none

/-- The place in a stage-die region (R118). -/
def dieLoc (d off : Nat) : Option Loc :=
  if within off 0 0x10000 then some (.legend d off)
  else if within off 0x100000 0x40000 then some (.survey d (off - 0x100000))
  else if within off 0x200000 0x420 then some (.memctl d (off - 0x200000))
  else if within off 0x300000 0x800 then some (.tier d (off - 0x300000))
  else if within off 0x400000 0x20000 then some (.desc d (off - 0x400000))
  else if within off 0x800000 0x800 then some (.port d (off - 0x800000))
  else if within off 0x810000 0x220 then some (.board d (off - 0x810000))
  else if within off 0x840000 0x40000 then some (.barrier d (off - 0x840000))
  else if within off 0xC00000 0x400 then some (.owner d (off - 0xC00000))
  else if within off 0xC20000 0x1000 then some (.cctl d (off - 0xC20000))
  else if within off 0xC40000 0x300 then some (.power d (off - 0xC40000))
  else if d = 0 ∧ within off 0xC41000 0x1000 then some (.telemetry (off - 0xC41000))
  else if within off 0xC60000 0x80 ∨ within off 0xC70000 0x10000 then some (.debug d (off - 0xC60000))
  else none

/-- The place in a wing-die region (14 R318). -/
def wingLoc (w off : Nat) : Option Loc :=
  if within off 0 0x100 then some (.wing off)
  else if within off 0x10000 0x10000 then some (.fabric w (off - 0x10000))
  else if 2 ^ 43 ≤ off then some (.window w (off / 2 ^ 40 % 8) (off % 2 ^ 40))
  else none

/-- What an atlas address names; `none` is unmapped (R119). The fabric blocks' part is listed to 0x1_FFFF and holds 64 blocks
of 256 bytes: DESIGN CHOICE (log 99), offsets above them read as zero and take no write. -/
def atlasLoc (a : Nat) : Option Loc :=
  if 2 ^ 48 ≤ a then none
  else match a / 2 ^ 45 with
    | 0 => coreLoc (a / 2 ^ 35) (a % 2 ^ 35)
    | 1 => dieLoc (a / 2 ^ 42 % 8) (a % 2 ^ 42)
    | 2 => wingLoc (a / 2 ^ 44 % 2) (a % 2 ^ 44)
    | _ => none

/-- Both ends of an access are mapped in one part. -/
def atlasSpan (a n : Nat) : Option Loc :=
  match atlasLoc a, atlasLoc (a + n - 1) with
  | some l, some _ => some l
  | _, _ => none
/-- The core of whose region a place is part. -/
def Loc.region? : Loc → Option Nat
  | .vrf c _ | .acc c _ | .aperture c _ | .presence c _ | .buffers c _ => some c
  | _ => none
/-- The same in this package, where the regions of a disabled cluster are unmapped (00 R3). -/
def State.atlasHere (s : State) (a n : Nat) : Option Loc :=
  (atlasSpan a n).filter fun l => l.region?.all s.coreEnabled

/-- Parts that only privileged agents read, and those that only they write (R118; log 20). -/
def Loc.privRead : Loc → Bool
  | .memctl .. | .tier .. | .desc .. | .cctl .. | .telemetry .. | .fabric .. => true
  | _ => false
def Loc.privWrite : Loc → Bool
  | .board .. | .owner .. | .power .. | .debug .. => true
  | l => l.privRead

/-! ### Reads: the aligned word at a byte offset (multiple of 8) -/

/-- Eight bytes of a wide record. -/
def recWord {n : Nat} (r : BitVec n) (off : Nat) : Word := word (bits r (8 * off) 64)

/-- A word of the presence map (R117) as context `ctx` sees it: bits of lines outside its allotment are not visible to it
(R124; log 98), what it reads there is free. -/
def State.presenceWord (s : State) (ctx c off : Nat) : Word :=
  let f (i : Nat) : Bool :=
    if s.allotted c ctx (8 * off + i) then (s.core c).present (8 * off + i) else bitAt (Config.hiddenPresence (c * 4096 + off)) i
  word ((List.range 64).foldl (fun a i => a + b2n (f i) * 2 ^ i) 0)
/-- A buffer-table entry as it reads (R132). -/
def Buf.word (b : Buf) : Word :=
  Machine.word (b.first % 2 ^ 15 + b.cntm1 % 2 ^ 15 * 2 ^ 16 + b.holder % 16 * 2 ^ 32 + b.target % 16 * 2 ^ 36 +
    b.st % 4 * 2 ^ 40 + b.gen % 64 * 2 ^ 42)
/-- The channel status word (04 R103). -/
def Channel.status (x : Channel) : Word :=
  word (x.st % 8 + x.cause % 16 * 2 ^ 4 + x.queue.length % 4 * 2 ^ 8 + x.ticket % 2 ^ 16 * 2 ^ 16 +
    x.rprog % 2 ^ 32 * 2 ^ 32)
/-- Eight bytes of the memory-controller block (03 R79). -/
def MemCtl.word (m : MemCtl) (off : Nat) : Word :=
  if off < 0x400 then
    Machine.word ((List.range 4).foldr (fun i a => (Tab.get 32 m.idle (off / 2 + i)).toNat + 2 ^ 16 * a) 0)
  else match off with
    | 0x400 => Machine.word (m.period.toNat + b2n m.scrub * 2 ^ 8)
    | 0x408 => Machine.word m.ehbase.toNat
    | 0x410 => Machine.word m.ehcount.toNat
    | _ => Machine.word (m.ehhead.toNat + m.lost.toNat * 2 ^ 20)
/-- The reset image of a memory-tier context block (03 R87). -/
def tierReset : BitVec 256 := BitVec.ofNat 256 (12 * 2 ^ 128 + 8 * 2 ^ 132)
/-- Eight bytes of a context descriptor (R120, R121). -/
def Die.descWord (d : Die) (off : Nat) : Word :=
  let c := off / 2048
  let o := off % 2048
  if o < 0x400 then recWord (Tab.get 0 d.windows (c * 64 + o / 16)) (o % 16)
  else if o < 0x600 then
    let i := c * 128 + (o - 0x400) / 4
    word ((Tab.get 0 d.allot i).toNat + (Tab.get 0 d.allot (i + 1)).toNat * 2 ^ 32)
  else if o = 0x600 then Tab.get 0 d.ranges c
  else 0
/-- Board entries and overflow records in use (12 R280). -/
def Board.used (b : Board) : Nat := (b.recs.filter fun e => decide (e.1 < 16384)).length
def Board.ovUsed (b : Board) : Nat := (b.recs.filter fun e => decide (16384 ≤ e.1)).length
/-- Eight bytes of the board control block (12 R280). -/
def Board.word (b : Board) (off : Nat) : Word :=
  match off with
  | 0x00 => Machine.word b.cap.toNat
  | 0x08 => Machine.word b.ovbase.toNat
  | 0x10 => Machine.word b.ovcount.toNat
  | 0x18 => Machine.word (b.used + b.ovUsed * 2 ^ 16)
  | _ => Machine.word (Tab.get 0 b.tkbase ((off - 0x20) / 8)).toNat
/-- Save slots of context `c` in use (13 R308). -/
def Die.saveUsed (d : Die) (c : Nat) : Nat := (d.saves.filter fun e => decide (e.1 / 65536 = c)).length
/-- Eight bytes of a context control block (13 R308). -/
def Die.cctlWord (d : Die) (off : Nat) : Word :=
  let c := off / 64
  let b : BitVec 512 := Tab.get 0 d.cctl c
  recWord (setBits b 240 16 (d.saveUsed c)) (off % 64)
/-- Eight bytes of the power block (15 R333). -/
def State.powerWord (s : State) (d off : Nat) : Word :=
  let x := s.die d
  if off = 0 then word (x.ftgt.toNat + x.fcur.toNat * 2 ^ 8)
  else if off < 0x100 then 0
  else
    let q := (off - 0x100) / 64
    let b := setBits (x.rampBlk q) 320 4 (x.limiter q).step
    recWord (setBits b 336 16 (Nat.min (s.dsum d q) 65535)) (off % 64)
/-- Eight bytes of the debug block (17 R353). -/
def State.debugWord (s : State) (d off : Nat) : Word :=
  let x := (s.die d).dbg
  if off < 0x10000 then
    if off = 0x08 then word x.halted.toNat
    else if off = 0x10 then word x.bken.toNat
    else if 0x40 ≤ off then recWord x.idrec (off - 0x40)
    else 0
  else
    let k := s.core (d * 128 + (off - 0x10000) / 512)
    let o := off % 512
    if o = 0 then word k.stepq.length
    else if 0x100 ≤ o then recWord (k.stepq.getD ((o - 0x100) / 16) 0) (o % 16)
    else 0
/-- Eight bytes of the wing control registers (14 R318). -/
def State.wingWord (s : State) (off : Nat) : Word :=
  match off with
  | 0x00 => word (s.pkg.rank.toNat + s.pkg.rank.toNat / 32 * 2 ^ 10 + s.pkg.dsize.toNat * 2 ^ 15)
  | 0x08 => s.tsWord
  | 0x10 => word (s.pkg.linkUp.toNat + s.pkg.ringUp.toNat * 2 ^ 16)
  | 0x18 => word s.pkg.late.toNat
  | 0x20 => word s.pkg.retry.toNat
  | _ => 0

/-- The aligned eight bytes at a place, as they stand for context `ctx`: channels and buffers belong to its core layer. -/
def State.locWord (s : State) (ctx : Nat) (l : Loc) : Word :=
  match l with
  | .vrf c off => word (lineBytes ((s.core c).line (off / 128)) (off % 128) 8)
  | .acc c off =>
    let k := s.core c
    word ((List.range 8).foldr (fun i a => (k.accByte ((off + i) / 20480) ((off + i) % 20480)).toNat + 256 * a) 0)
  | .aperture c off =>
    let x := (s.layer c ctx).chan (off / 32)
    match off % 32 with
    | 8 => x.offs
    | 16 => x.status
    | _ => 0
  | .presence c off => s.presenceWord ctx c off
  | .buffers c off => (Tab.get {} (s.layer c ctx).bufs (off / 8)).word
  | .legend d off => recWord (s.legend d (off / 16)) (off % 16)
  | .survey d off => recWord (s.surveyRead d (off / 64)) (off % 64)
  | .memctl d off => (s.die d).mc.word off
  | .tier d off => recWord (Tab.get tierReset (s.die d).tierBlk (off / 32)) (off % 32)
  | .desc d off => (s.die d).descWord off
  | .port .. => 0
  | .board d off => (s.die d).board.word off
  | .barrier d off => recWord (Tab.get barReset (s.die d).board.bars (off / 64)) (off % 64)
  | .owner d off => Tab.get 0 (s.die d).owner (off / 8)
  | .cctl d off => (s.die d).cctlWord off
  | .power d off => s.powerWord d off
  | .telemetry off => recWord (Tab.get 0 s.pkg.tele (off / 64)) (off % 64)
  | .debug d off => s.debugWord d off
  | .wing off => s.wingWord off
  | .fabric w off => if off < 0x4000 then recWord (Tab.get 0 s.pkg.fab (w * 64 + off / 256)) (off % 256) else 0
  | .window .. => 0

/-- The aligned eight bytes at an atlas address; an unmapped word reads as zero inside a mapped access. -/
def State.atlasWord (s : State) (ctx a : Nat) : Word :=
  match atlasLoc (a / 8 * 8) with
  | some l => s.locWord ctx l
  | none => 0

/-- `n` bytes at an atlas address of the own package, as a number. -/
def State.atlasNat (s : State) (ctx a n : Nat) : Nat :=
  let first := a / 8
  let cnt := (a + n + 7) / 8 - first
  let x := (List.range cnt).foldr (fun i acc => (s.atlasWord ctx (8 * (first + i))).toNat + 2 ^ 64 * acc) 0
  x / 2 ^ (8 * (a % 8)) % 2 ^ (8 * n)

/-! ### Fabric apertures (14 R321) -/

/-- Where an aperture access goes: the target rank and atlas address; `none` where AVALID is 0. -/
def State.apertureTarget (s : State) (w ctx a off : Nat) : Option (Nat × Nat) :=
  let b := Tab.get 0 s.pkg.fab (w * 64 + ctx)
  let e := bits b (64 * a + 64) 64
  if e.testBit 18 then some (e / 2 ^ 8 % 1024, e % 256 * 2 ^ 40 + off) else none

/-- An atlas address with the apertures of the own package followed: the place in this package, or another package's
rank with the address there. -/
inductive Target where
  | here (a : Nat) (l : Loc)
  | there (rank a : Nat)
  deriving DecidableEq, Repr

/-- The target of an access of `n` bytes by context `ctx`; `none` is unmapped or an aperture without AVALID. -/
def State.target (s : State) (ctx a n : Nat) : Option Target :=
  match s.atlasHere a n with
  | none => none
  | some (.window w i off) =>
    match s.apertureTarget w ctx i off with
    | none => none
    | some (rank, b) =>
      if rank = s.pkg.rank.toNat then
        match s.atlasHere b n with
        | some (.window ..) | none => none
        | some l => some (.here b l)
      else some (.there rank b)
  | some l => some (.here a l)

/-! ### Debug commands (17 R353, R354, R356..R358) -/

/-- RESUME, or with `pass` PASS: the cores of the context go on. A core stopped at a BKPT takes its bundle with a CNOP on PASS
alone. The accesses that the halt held drain before the channels issue again (R355). -/
def W.goOn (w : W) (d ctx : Nat) (pkg pass : Bool) : W :=
  let w := w.modCtx (cmdDies d pkg) ctx fun k => { k with halted := false, bkpt := k.bkpt && pass, stepArm := false }
  (cmdDies d pkg).foldl (fun w e => w.modDie e fun x =>
    { x with dbg := { x.dbg with halted := setBits x.dbg.halted ctx 1 0, stop := setBits x.dbg.stop ctx 1 0
                                 drain := setBits x.dbg.drain ctx 1 1 } }) w
def W.resumeCtx (w : W) (d ctx : Nat) (pkg : Bool) : W := w.goOn d ctx pkg false
def W.passCtx (w : W) (d ctx : Nat) (pkg : Bool) : W := w.goOn d ctx pkg true
/-- The cores a STEP or RELEASE names. -/
def State.cmdCores (s : State) (d ctx core : Nat) (all : Bool) : List Nat :=
  (s.ctxCores d ctx).filter fun c => all || decide (c % 128 = core)
/-- STEP: one bundle of each named halted core, which is not halted while it takes place; a BKPT raises DEBUG again, for PASS
alone lets it go (R357). -/
def W.stepCtx (w : W) (d ctx core : Nat) (all : Bool) : W :=
  (w.cmdCores d ctx core all).foldl (fun w c =>
    if (w.core c).halted then
      (w.modCore c fun k => { k with stepArm := true, chanHalt := false, bkpt := false }).modDie d fun x =>
        { x with dbg := { x.dbg with halted := setBits x.dbg.halted ctx 1 0 } }
    else w) w

/-- A record leaves the board and its launch: the launch slot frees with its last one (12 R272, R277); a slot used again
counts as another slot (12 R273). -/
def W.freeRecord (w : W) (d idx : Nat) (img : BitVec 512) : W :=
  let i := recLaunch img
  let l := (w.die d).board.launch i
  let w := w.modBoard d fun b => { b with recs := b.recs.erase idx }
  if l.live ≤ 1 ∧ l.todo = 0 then
    let forget (k : Core) : Core :=
      { k with lastLaunch := if k.lastLaunch = some i then none else k.lastLaunch, tally := k.tally.erase i }
    let w := w.modBoard d fun b => { b with launches := b.launches.erase i }
    { w with cores := w.cores.map fun e => if dieOf e.1 = d then (e.1, forget e.2) else e }
  else w.modBoard d fun b => { b with launches := Tab.set b.launches i { l with live := l.live - 1 } }

/-- The task that core `c` was prompted to leave has left: the records it was prompted for may prompt again (12 R280). -/
def W.unprompt (w : W) (c : Nat) : W :=
  w.modBoard (dieOf c) fun b =>
    { b with recs := b.recs.map fun (e : Nat × Record) => if e.2.prompting = some c then (e.1, { e.2 with prompting := none }) else e }

/-- RELEASE: a core stopped by a double trap becomes idle, and nothing of the task that trapped is left on it; a record bound
to the core stays on the board (R358). DESIGN CHOICE (log 115): the record of that task, if bound to the core, waits there
until its context closes; an unbound one is freed. -/
def W.releaseCtx (w : W) (d ctx core : Nat) (all : Bool) : W :=
  (w.cmdCores d ctx core all).foldl (fun w c =>
    let k := w.core c
    if k.mode = .stopped then
      let w := match k.running with
        | some r =>
          if bitAt r.img 464 then w.modBoard d fun b =>
            { b with recs := b.recs.map fun (e : Nat × Record) =>
                if e.1 = r.idx then (e.1, { e.2 with run := false, ready := false, wait := .never, reg := none }) else e }
          else w.freeRecord d r.idx r.img
        | none => w
      (w.unprompt c).modCore c fun k =>
        { k with
          mode := .idle, running := none, notask := false, shadow := {}, seq := {}, relFence := none
          pipe := { k.pipe with items := [], pre := 0, held := 0, causes := [] }
          eng := { k.eng with mx := none, mxWait := none, acc := none, xb := [] }
          ats := k.ats.map fun a => { a with live := false }
          ctl := { k.ctl with res := 0, prompt := none, noslot := false } }
    else w) w

/-- A command word stored to the debug block (R353). -/
def W.debugCommand (w : W) (d : Nat) (v : Word) : W :=
  let ctx := bits v 0 6
  let pkg := bitAt v 9
  let core := bits v 10 7
  let all := bitAt v 17
  let ds := cmdDies d pkg
  match bits v 6 3 with
  | 0 => w.haltCtx d ctx pkg
  | 1 => w.resumeCtx d ctx pkg
  | 2 => ds.foldl (fun w d => w.stepCtx d ctx core all) w
  | 3 => w.passCtx d ctx pkg
  | 4 => ds.foldl (fun w d => w.releaseCtx d ctx core all) w
  | _ => w

/-! ### Register writes: one aligned word -/

/-- Eight bytes of a wide record replaced under a mask of writable bits. -/
def putWord {n : Nat} (r : BitVec n) (off : Nat) (mask v : Nat) : BitVec n :=
  let old := bits r (8 * off) 64
  setBits r (8 * off) 64 ((old &&& (2 ^ 64 - 1 - mask)) ||| (v &&& mask))

/-- The memory-controller block (03 R79). DESIGN CHOICE (log 106): EHBASE is kept as written, a multiple
of 32 KiB or not, and SCRUB is written whatever PERIOD the same word has. -/
def MemCtl.write (m : MemCtl) (off : Nat) (v : Word) : MemCtl :=
  if off < 0x400 then
    { m with idle := Tab.puts 32 m.idle ((List.range 4).map fun i => (off / 2 + i, BitVec.ofNat 16 (bits v (16 * i) 10))) }
  else match off with
    | 0x400 =>
      let p := bits v 0 8
      { m with scrub := bitAt v 8, period := if 1 ≤ p ∧ p ≤ 168 then BitVec.ofNat 8 p else m.period }
    | 0x408 => { m with ehbase := BitVec.ofNat 39 (bits v 0 39), ehhead := 0, ehfill := 0 }
    | 0x410 => if bits v 0 20 = 0 then m else { m with ehcount := BitVec.ofNat 20 (bits v 0 20), ehhead := 0, ehfill := 0 }
    | 0x418 => { m with ehhead := BitVec.ofNat 20 (bits v 0 20), lost := BitVec.ofNat 32 (bits v 20 32), ehfill := 0 }
    | _ => m

/-- Writable bits of the words of a memory-tier context block (03 R87). DESIGN CHOICE (log 106): SBASE and SSIZE are kept as
written, a multiple of 32 KiB or not. -/
def tierMask (o : Nat) : Nat :=
  match o with
  | 0 => 2 ^ 39 - 1
  | 8 => 2 ^ 64 - 1
  | 16 => 2 ^ 64 - 1
  | _ => 2 ^ 8 - 1

/-- A context-descriptor word (R120, R121). -/
def Die.writeDesc (d : Die) (off : Nat) (v : Word) : Die :=
  let c := off / 2048
  let o := off % 2048
  if o < 0x400 then
    let i := c * 64 + o / 16
    let mask := if o % 16 = 0 then 2 ^ 48 - 1 else 0x8FFFFFFF
    { d with windows := Tab.put 0 d.windows i (putWord (Tab.get 0 d.windows i) (o % 16) mask v.toNat) }
  else if o < 0x600 then
    let i := c * 128 + (o - 0x400) / 4
    { d with allot := Tab.puts 0 d.allot [(i, BitVec.ofNat 32 (bits v 0 30)), (i + 1, BitVec.ofNat 32 (bits v 32 30))] }
  else if o = 0x600 then
    { d with ranges := Tab.put 0 d.ranges c (word (bits v 0 25 + bits v 32 25 * 2 ^ 32)) }
  else d

/-- The board control block (12 R280). -/
def Board.write (b : Board) (off : Nat) (v : Word) : Board :=
  match off with
  | 0x00 => { b with cap := BitVec.ofNat 3 (bits v 0 3) }
  | 0x08 => { b with ovbase := BitVec.ofNat 39 (bits v 0 39) }
  | 0x10 => { b with ovcount := BitVec.ofNat 32 (bits v 0 32) }
  | 0x18 => b
  | _ => { b with tkbase := Tab.put 0 b.tkbase ((off - 0x20) / 8) (BitVec.ofNat 39 (bits v 0 39)) }

/-- A pair cleared by the stage manager: C zero, F at the rest states, MODE CAL, the registers of calibration. -/
def Pair.clear (p : Pair) : Pair :=
  let f (i j : Nat) : Int := clampInt (-127) 127 (Tab.get 0 p.calRow i + Tab.get 0 p.calCol j)
  let cells : Tab Int := (List.range 1024).foldl (fun t i => (List.range 1024).foldl (fun t j => Tab.put 0 t (i * 1024 + j) (f i j)) t) []
  { nF := if p.calRow.isEmpty ∧ p.calCol.isEmpty then [] else cells
    sRow := p.calRow, sCol := p.calCol, calRow := p.calRow, calCol := p.calCol, bad := p.bad }

/-- A tile-owner entry (09 R204, R205): setting OWN over a pair not cleared or not fit for use (17 R361), or changing CTX while OWN is 1, is
ignored. A store that takes OWN away withdraws the pair: a stopped operation goes with its entry, and the pair is cleared. DESIGN CHOICE (log
104): one that finds the pair holding an operation is ignored, for the stage manager waits until it holds none. -/
def W.writeOwner (w : W) (d idx : Nat) (v : Word) : W :=
  let c := d * 128 + idx
  let old := Tab.get 0 (w.die d).owner idx
  let k := w.core c
  let f (i : Nat) : Nat :=
    let o := bits old (8 * i) 8
    let n := bits v (8 * i) 8
    let n := n % 64 + n / 128 * 128
    let own := decide (128 ≤ o)
    if own && decide (n % 64 ≠ o % 64) then o
    else if own && decide (n < 128) && (k.eng.xb.any fun x => decide (x.pair = i)) then o
    else if !own && decide (128 ≤ n) && (!(Tab.get {} k.pairs i).cleared || (Tab.get {} k.pairs i).bad) then o
    else n
  let new := word ((List.range 8).foldr (fun i a => f i + 256 * a) 0)
  let w := w.modDie d fun x => { x with owner := Tab.put 0 x.owner idx new }
  (List.range 8).foldl (fun w i =>
    if bits new (8 * i + 7) 1 = 1 ∧ bits old (8 * i + 7) 1 = 0 then
      w.modCore c fun k => { k with pairs := Tab.set k.pairs i { (Tab.get {} k.pairs i) with cleared := false } }
    else if bits new (8 * i + 7) 1 = 0 ∧ bits old (8 * i + 7) 1 = 1 then
      w.modCore c fun k => { k with
        pairs := Tab.put {} k.pairs i (Tab.get {} k.pairs i).clear
        stopped := k.stopped.filter fun x => decide (x.1.pair ≠ i) }
    else w) w

/-- A context-control word (13 R308). -/
def W.cctlWord (w : W) (d ctx off : Nat) (v : Word) : W :=
  let b : BitVec 512 := Tab.get 0 (w.die d).cctl ctx
  let mask : Nat :=
    match off with
    | 0 => 2 ^ 51 - 32
    | 8 => 2 ^ 64 - 1
    | 16 => 2 ^ 7 - 1 + (2 ^ 32 - 1) * 2 ^ 32
    | 24 => 2 ^ 7 - 1 + (2 ^ 16 - 1) * 2 ^ 32
    | 32 => 2 ^ 39 - 1
    | _ => 0
  let b' : BitVec 512 := if off = 40 ∧ !bitAt v 15 then setBits b 335 1 0 else putWord b off mask v.toNat
  w.modDie d fun x => { x with cctl := Tab.put 0 x.cctl ctx b' }
/-- A context-control word written by itself: one with TVEC or TSIZE translates the handler range anew (13 R308, R377). -/
def W.writeCctl (w : W) (d ctx off : Nat) (v : Word) : W :=
  let w := w.cctlWord d ctx off v
  if off = 0 ∨ off = 8 then w.holdHandler d ctx else w

/-- A telemetry word (15 R342). -/
def W.writeTele (w : W) (ctx off : Nat) (v : Word) : W :=
  let b : BitVec 512 := Tab.get 0 w.pkg.tele ctx
  let b' : BitVec 512 :=
    match off with
    | 0 => putWord b 0 (2 ^ 51 - 64) v.toNat
    | 8 =>
      let b1 := putWord b 8 (2 ^ 41 - 1) v.toNat
      if bitAt v 40 then setBits b1 105 1 0 else b1
    | 24 => putWord b 24 (2 ^ 64 - 1) v.toNat
    | _ => b
  let starts := decide (off = 8) && bitAt v 40 && !bitAt b 104
  w.modPkg fun p =>
    { p with
      tele := Tab.put 0 p.tele ctx b'
      teleSeq := if starts then Tab.put 0 p.teleSeq ctx 0 else p.teleSeq
      teleDue := if starts then Tab.put 0 p.teleDue ctx (w.ts + 1000 * bits b' 88 16) else p.teleDue }

/-- Entry `j` of a wing die's fabric contexts holds a DCID as valid. -/
def State.dcidValid (s : State) (wing j dcid : Nat) : Bool :=
  let x : BitVec 2048 := Tab.get 0 s.pkg.fab (wing * 64 + j)
  bitAt x 16 && decide (bits x 0 16 = dcid)

/-- A fabric-context word (14 R321): a DCID valid for another context of the wing die is ignored. -/
def W.writeFab (w : W) (wing ctx off : Nat) (v : Word) : W :=
  let i := wing * 64 + ctx
  let b : BitVec 2048 := Tab.get 0 w.pkg.fab i
  let clash := decide (off = 0) && bitAt v 16 && (List.range 64).any fun j =>
    decide (j ≠ ctx) && w.dcidValid wing j (bits v 0 16)
  let mask := if off = 0 then 2 ^ 17 - 1 else if off ≤ 64 then 2 ^ 19 - 1 else 0
  if clash then w else w.modPkg fun p => { p with fab := Tab.put 0 p.fab i (putWord b off mask v.toNat) }

/-- The debug block (17 R353). -/
def W.writeDebug (w : W) (d off : Nat) (v : Word) : W :=
  if off = 0 then (w.modDie d fun x => { x with dbg := { x.dbg with cmd := word (bits v 0 18) } }).debugCommand d v
  else if off = 0x10 then w.modDie d fun x => { x with dbg := { x.dbg with bken := v } }
  else if 0x10000 ≤ off ∧ off % 512 = 0 then
    w.modCore (d * 128 + (off - 0x10000) / 512) fun k => { k with stepq := [] }
  else w

/-- A copy aperture (04 R91): a start word waits at the channel; OFFS is set, behind a start that waits there. -/
def W.writeAperture (w : W) (c ch off : Nat) (v : Word) : W :=
  let x := (w.core c).chan ch
  if off = 8 then w.modCore c fun k => k.setChan ch
    (if x.pend.any (·.ap) then { x with pend := x.pend ++ [{ v := v, offs := v, ap := true, set := true }] }
     else { x with offs := v })
  else if off = 0 then w.modCore c fun k => k.setChan ch { x with pend := x.pend ++ [{ v := v, offs := x.offs, ap := true, resume := bitAt v 6 }] }
  else w

/-- An aligned word written to a register part. -/
def W.regWrite (w : W) (l : Loc) (v : Word) : W :=
  match l with
  | .aperture c off => w.writeAperture c (off / 32) (off % 32) v
  | .memctl d off => w.modDie d fun x => { x with mc := x.mc.write off v }
  | .tier d off => w.modDie d fun x =>
      { x with tierBlk := Tab.put tierReset x.tierBlk (off / 32)
                 (putWord (Tab.get tierReset x.tierBlk (off / 32)) (off % 32) (tierMask (off % 32)) v.toNat) }
  | .desc d off => w.modDie d fun x => x.writeDesc off v
  | .board d off => w.modBoard d fun b => b.write off v
  | .owner d off => w.writeOwner d (off / 8) v
  | .cctl d off => w.cctlWord d (off / 64) (off % 64) v
  | .power d off =>
    if off = 0 then w.writeFtgt d v else if off < 0x100 then w else w.writeRamps d off 8 v.toNat
  | .telemetry off => w.writeTele (off / 64) (off % 64) v
  | .debug d off => w.writeDebug d off v
  | .fabric g off => if off < 0x4000 then w.writeFab g (off / 256) (off % 256) v else w
  | _ => w

/-! ### Whole writes -/

/-- A barrier descriptor's ranges (12 R287). -/
def barrierOk (x : BitVec 512) (dsize : Nat) : Bool :=
  decide (1 ≤ bits x 0 32) && decide (3 ≤ bits x 45 3) && decide (3000 ≤ bits x 80 16) && decide (bits x 32 10 < dsize)

/-- A barrier descriptor written whole: GEN and ARR stay; `none` where R287 refuses it. -/
def W.writeBarrier (w : W) (d i : Nat) (img : BitVec 512) : Option W :=
  let old := Tab.get barReset (w.die d).board.bars i
  if bits old 128 32 ≠ 0 ∨ !(barrierOk img w.pkg.dsize.toNat) then none
  else
    let n : BitVec 512 := setBits (setBits (setBits img 161 351 0) 96 32 (bits old 96 32)) 128 32 0
    some (w.modBoard d fun b => { b with bars := Tab.put barReset b.bars i n })

/-- Whether a write of `n` bytes to a place is one the part allows (R117, R118, R239, 12 R272, R287); `sta`: by an STA. -/
def writeAllowed (l : Loc) (n : Nat) (sta priv : Bool) : Bool :=
  match l with
  | .presence .. | .buffers .. => false
  | .survey _ off => sta && decide (n = 64) && decide (off % 64 = 0)
  | .barrier _ off => sta && decide (n = 64) && decide (off % 64 = 0)
  | .port _ off => sta && decide (n = 32) && decide (off % 32 = 0)
  | .window .. => false
  | .wing _ => priv
  | l => priv || !l.privWrite

/-- `n` bytes written to a place of this package; the value's least significant byte goes lowest. Refused by R287:
`none`. The write is assumed allowed. -/
def W.locWrite (w : W) (l : Loc) (n v : Nat) (priv tier : Bool) : Option W :=
  match l with
  | .vrf c off => some (w.setLine c (off / 128) (setLineBytes ((w.core c).line (off / 128)) (off % 128) n v))
  | .acc c off => some (w.modCore c fun k =>
      (List.range n).foldl (fun k i =>
        k.setAccByte ((off + i) / 20480) ((off + i) % 20480) (BitVec.ofNat 8 (v >>> (8 * i)))) k)
  | .legend d off => some (w.modDie d fun x =>
      (List.range n).foldl (fun x i =>
        let j := (off + i) / 16
        { x with legends := Tab.put 0 x.legends j
                   (setBits (Tab.get 0 x.legends j) (8 * ((off + i) % 16)) 8 (v >>> (8 * i))) }) x)
  | .survey d off => some (w.surveySta d (off / 64) (BitVec.ofNat 512 v))
  | .barrier d off => w.writeBarrier d (off / 64) (BitVec.ofNat 512 v)
  | .port d off => some (w.modBoard d fun b =>
      { b with ports := b.ports ++ [{ ctx := off / 32, req := BitVec.ofNat 256 v, priv := priv, tier := tier }] })
  | _ => none

/-- A write of `n` bytes at `a` to context-control blocks is over: where it wrote TVEC or TSIZE, the handler range is translated
anew, under the block as the whole write leaves it (13 R377). -/
def W.cctlWritten (w : W) (a n : Nat) : W :=
  match atlasLoc a with
  | some (.cctl d off) =>
    ((List.range 2).map fun i => off / 64 + i).foldl (fun w ctx =>
      if off < 64 * ctx + 12 ∧ 64 * ctx < off + n then w.holdHandler d ctx else w) w
  | _ => w
/-- `n` bytes written to register words: each aligned word takes the bytes of it that the access writes, over what stands
there. A store of fewer than eight bytes to a start word starts nothing (log 37). -/
def W.regWords (w : W) (a n v : Nat) : W :=
  let first := a / 8
  let cnt := (a + n + 7) / 8 - first
  W.cctlWritten (a := a) (n := n) <| (List.range cnt).foldl (fun w i =>
    let b := 8 * (first + i)
    match atlasLoc b with
    | none => w
    | some l =>
      let lo := Nat.max a b
      let hi := Nat.min (a + n) (b + 8)
      let ctx := match l with | .aperture o _ => ((w.core o).ctx).getD 64 | _ => 64
      let x := setBits (w.locWord ctx l) (8 * (lo - b)) (8 * (hi - lo)) (v >>> (8 * (lo - a)))
      match l with
      | .aperture _ off => if off % 32 = 0 ∧ hi - lo ≠ 8 then w else w.regWrite l x
      | l => w.regWrite l x) w

/-- `n` bytes written at an atlas address of this package. -/
def W.atlasWrite (w : W) (a n v : Nat) (priv tier : Bool) : Option W :=
  match atlasLoc a with
  | none => none
  | some l =>
    match l with
    | .vrf .. | .acc .. | .legend .. | .survey .. | .barrier .. | .port .. => w.locWrite l n v priv tier
    | .power d off => some (if 0x100 ≤ off then w.writeRamps d off n v else w.regWords a n v)
    | _ => some (w.regWords a n v)

end Sys2Proof.Machine
end

