-- ==== Sys2Proof/Machine/LoadStore.lean ====
section
/-!
DEFINITION. Loads and stores of the ls unit, to own lines and through the atlas (05 R119, R122, R123, R126..R130, R133,
R138..R140; 14 R320, R322; 17 R355).
-/

namespace Sys2Proof.Machine

/-! ### Landing classes and conflicts (R128, R130) -/

/-- The class of a load in run cycles. -/
def landingClass (m : BitVec 4) : Nat := [4, 6, 8, 12, 16, 24, 32, 64].getD (bits m 0 3) 4
/-- The result ports on which a load lands. -/
def loadPorts (id : Nat) (m : BitVec 4) : List Nat :=
  (if (loadSize id).1 = 128 then [0x180] else [0x181]) ++ (if bitAt m 3 then [0x181] else [])
/-- A pending landing at run cycle `due` on a port of the load: the port. -/
def Core.landingClash (k : Core) (ports : List Nat) (due : Nat) : Option Nat :=
  ports.find? fun p => k.pipe.items.any fun it => isLoad it.id && decide (it.due = due) && (loadPorts it.id it.m).contains p

/-- The die of a place. -/
def Loc.die : Loc → Nat
  | .vrf c _ | .acc c _ | .aperture c _ | .presence c _ | .buffers c _ => dieOf c
  | .legend d _ | .survey d _ | .memctl d _ | .tier d _ | .desc d _ | .port d _ | .board d _ | .barrier d _
  | .owner d _ | .cctl d _ | .power d _ | .debug d _ => d
  | .telemetry _ | .wing _ | .fabric .. | .window .. => 0

/-- The ring links from stage die `d` to `e` through increasing numbers; those of the other direction run from `e` to
`d`. -/
def ringPath (d e : Nat) : List Nat := (List.range ((e + 8 - d) % 8)).map fun i => (d + i) % 8
/-- A path whose links are all up. -/
def pathUp (up : BitVec 12) (l : List Nat) : Bool := l.all fun n => bitAt up n
/-- The links of the fixed route between two stage dies: the path with fewer hops, at four each way the one from the lower
number through increasing ones; through a link that is down it turns to the other direction (14 R316, R317). -/
def stageRoute (up : BitVec 12) (d e : Nat) : List Nat :=
  let a := ringPath (Nat.min d e) (Nat.max d e)
  let b := ringPath (Nat.max d e) (Nat.min d e)
  let r := if a.length ≤ b.length then (a, b) else (b, a)
  if pathUp up r.1 then r.1 else r.2
/-- The links of the route between wing die `w` and stage die `e`: through the wing link with fewer hops, on a tie the one
to the lower-numbered die; through a wing link that is down it turns to the other. -/
def wingRoute (up : BitVec 12) (w e : Nat) : List Nat :=
  let via (k : Nat) : List Nat := (8 + 2 * w + k) :: stageRoute up (2 * w + 4 * k) e
  let r := if (ringPath (2 * w) e).length.min (ringPath e (2 * w)).length ≤
      (ringPath (2 * w + 4) e).length.min (ringPath e (2 * w + 4)).length then (via 0, via 1) else (via 1, via 0)
  if bitAt up (r.1.headD 0) then r.1 else r.2
/-- The hops from stage die `d` to the die of the place `l` at address `a`. -/
def State.hops (s : State) (d a : Nat) (l : Loc) : Nat :=
  match l with
  | .wing _ | .fabric .. | .window .. => (wingRoute s.pkg.ringUp (a / 2 ^ 44 % 2) d).length
  | l => (stageRoute s.pkg.ringUp d l.die).length
/-- The ready time of a load of core `c` where no other agent contends (R131; log 62). -/
def State.loadTime (s : State) (c ctx id a : Nat) : Nat :=
  let die (b : Nat) (l : Loc) : Nat := 40 + 26 * s.hops (dieOf c) b l
  if id ≠ 0x191 then 4
  else match s.target ctx (bits (word a) 0 48) 128 with
    | some (.here b l) =>
      match l.core? with
      | some o => if o = c then 8 else if o / 16 = c / 16 then 16 else die b l
      | none => die b l
    | _ => 0

/-- A load accepted: its landing is pending with its data, or with what it waits for. -/
def TCtx.land (t : TCtx) (w : W) (ea : Nat) (data : Line) (pres : Bool) (aw : Await) : Res :=
  let due := t.run + landingClass t.m
  match t.k.landingClash (loadPorts t.id t.m) due with
  | some p => .trap { code := 4, slot := t.slot, i0 := word p, i1 := word (landingClass t.m) }
  | none =>
    .ok (w.addItem t.c
      { kind := if aw = .ready then .res else .lreq, id := t.id, m := t.m, seq := t.seq, due := due, a := word ea
        await := aw, rdy := w.clk + t.pre.loadTime t.c t.env.ctx t.id ea
        wr := if aw = .ready then loadWrites t.id t.m ea data pres else [], bpc := word t.bpc })

/-! ### Own lines (R139, R140) -/

/-- The effective address of an own-line access: trigger plus `ls.m`, and STLM's trigger alone. -/
def TCtx.lsAddr (t : TCtx) (w : W) : Nat :=
  if t.id = 0x18c then t.v.toNat else (t.v + (w.core t.c).regs.portW 0x181).toNat

/-- The checks of an own-line access of `n` bytes: allotment, buffer, alignment. -/
def TCtx.ownCheck (t : TCtx) (ea n : Nat) : Option Cause :=
  if 2 ^ 22 ≤ ea then some (windowFault t.slot (ea / 128) t.id)
  else match lineCheck t.pre t.c t.env true t.slot t.id (ea / 128) with
    | some x => some x
    | none => if ea % n = 0 then none else some (engineFault t.slot t.id)

/-- LDL, LDS, LDSX. -/
def trigLoad : TrigFn := fun t w =>
  let ea := t.lsAddr w
  match (t.ownCheck ea (loadSize t.id).1).or (softCheck t.k t.slot t.id (ea / 128)) with
  | some x => .trap x
  | none =>
    let ln := ea / 128
    let pres := t.k.present ln
    t.land w ea (t.k.line ln) pres (if bitAt t.m 3 || pres then .ready else .line t.c ln)

/-- The line that a store leaves, from the line as it stands and `ls.o`. -/
def storeLine (id ea : Nat) (mask : Word) (old o : Line) : Line :=
  if id = 0x18c then ofLanes fun q => if bitAt mask q then lane o q else lane old q
  else if id ≤ 0x18b then o
  else setLineBytes old (ea % 128) (2 ^ (id - 0x18d)) (lineBytes o 0 (2 ^ (id - 0x18d)))

/-- Bytes of a store form. -/
def storeSize (id : Nat) : Nat := if id ≤ 0x18c then 128 else 2 ^ (id - 0x18d)

/-- STL, STLM, STS. -/
def trigStore : TrigFn := fun t w =>
  let g := (w.core t.c).regs
  let ea := t.lsAddr w
  match t.ownCheck ea (storeSize t.id) with
  | some x => .trap x
  | none => .ok (w.modCore t.c fun k =>
      k.setLine (ea / 128) (storeLine t.id ea (g.portW 0x181) (k.line (ea / 128)) (g.port 0x180)))

/-- STLN: the line is stored, and its lanes are noted under the current legend (R140). -/
def trigStln : TrigFn := fun t w =>
  let l := t.legend
  let ea := t.lsAddr w
  match t.ownCheck ea 128 with
  | some x => .trap x
  | none =>
    if let some id := t.badLegend then t.window id
    else if !l.usable then t.engine
    else if !(t.env.svOk l.svid) then t.window l.svid
    else
      let d := dieOf t.c
      let o := (w.core t.c).regs.port 0x180
      let xs := numLanes (bitAt t.m 0) o
      if decide (0 < overCount l xs) && w.svTrap d l.svid then
        .trap { code := 8, slot := t.slot, i0 := rescaleInfo d l.svid, i1 := word t.bpc }
      else .ok ((w.modCore t.c fun k => k.setLine (ea / 128) o).svUpdate d l.svid fun r => SvRec.notes r l xs)

/-! ### Through the atlas (R119, R122; 14 R320, R321) -/

/-- Why an access through the atlas is refused. -/
inductive Bad where
  | window
  | handle
  | engine
  deriving DecidableEq, Repr

/-- The cause of a refused access at its bundle. -/
def TCtx.bad (t : TCtx) (b : Bad) (a : Nat) : Res :=
  match b with
  | .window => t.window a
  | .handle => .trap (handleFault t.slot a t.id)
  | .engine => t.engine

/-- The target of an access of context `ctx` from die `d` through an address word in the layout of R251. -/
def State.atlasTarget (s : State) (d ctx : Nat) (v : Word) (n : Nat) (need : Need) : Except Bad Target :=
  let a := bits v 0 48
  let rank := bits v 48 10
  if bits v 59 5 ≠ 0 ∨ (!bitAt v 58 ∧ rank ≠ 0) then .error .engine
  else if bitAt v 58 ∧ s.pkg.dsize.toNat ≤ rank then .error .window
  else if bitAt v 58 ∧ rank ≠ s.pkg.rank.toNat then .ok (.there rank a)
  else if !(s.windowOk d ctx a n need) then .error .window
  else match s.target ctx a n with
    | none => .error .window
    | some (.there r b) => if s.pkg.dsize.toNat ≤ r then .error .window else .ok (.there r b)
    | some (.here b l) => if b = a ∨ s.windowOk d ctx b n need then .ok (.here b l) else .error .window

/-- The checks of a place in this package: allotment and buffer of a line, privilege of a part (R118, R123, R133). -/
def State.locCheck (s : State) (c ctx : Nat) (priv : Bool) (l : Loc) (via : Via) : Option Bad :=
  match l with
  | .vrf o off =>
    if !(s.allotted o ctx (off / 128)) then some .window
    else if s.lineRight c o ctx (off / 128) via then none else some .handle
  | l => if l.privRead && !priv then some .window else none

/-- A debug halt has stopped a context on die `d`. -/
def State.frozenAt (s : State) (d ctx : Nat) : Bool := (s.ctxCores d ctx).any fun o => (s.core o).halted
/-- Another die's part of a context that a debug halt has stopped there (17 R355). -/
def State.frozen (s : State) (c d ctx : Nat) : Bool := decide (dieOf c ≠ d) && s.frozenAt d ctx

/-- An access to accumulator words of core `o` waits: its matrix unit holds the tile, or the context is not resident
there (08 R190, 13 R310). -/
def State.accWaits (s : State) (o ctx t : Nat) : Bool :=
  (s.core o).tileHeld t || match (s.core o).ctx with | some x => decide (x ≠ ctx) | none => false

/-- A write to a place waits at it (08 R190, 13 R310, 17 R355). -/
def State.writeWaits (s : State) (c ctx : Nat) (l : Loc) : Bool :=
  s.frozen c l.die ctx ||
    match l with
    | .acc o off => s.accWaits o ctx (off / 20480)
    | .aperture o _ => match (s.core o).ctx with | some x => decide (x ≠ ctx) | none => false
    | _ => false

/-! ### Another package (14 R320, R322) -/

/-- The DCID of a context, when one is in force (wing die 0's block; both are the same, R321). -/
def State.dcid (s : State) (ctx : Nat) : Option Nat :=
  let b : BitVec 2048 := Tab.get 0 s.pkg.fab ctx
  if bitAt b 16 then some (bits b 0 16) else none

/-- What this package knows of a refusal by another: no route, no DCID, no such place. -/
def State.remoteRefusal (s : State) (ctx a n : Nat) : Option Nat :=
  if s.pkg.linkUp = 0 then some 10
  else if s.dcid ctx = none then some 6
  else if (atlasSpan a n).isNone then some 6
  else none

/-- The attributed cause of a refused remote access of core `c` itself. -/
def W.refuseRemote (w : W) (c code a id : Nat) : W :=
  w.modCore c fun k => k.addAttr 9 { code := code, sub := if code = 10 then 2 else 0, i0 := word a, i1 := word id }

/-- Whether the other package refuses an access of `n` bytes at `a`: what this package knows, and beyond that a free value,
for that package's context blocks, window tables and allotments are its own (14 R322; log 31). A line of another package lies
in no buffer of the agent (R320). -/
def W.farVerdict (w : W) (ctx a n : Nat) : Option Nat × W :=
  match w.remoteRefusal ctx a n with
  | some code => (some code, w)
  | none =>
    let v := w.freeWord
    (if bitAt v.1 63 then some 6 else match atlasSpan a n with | some (.vrf ..) => some 5 | _ => none, v.2)

/-- A message leaves for another package. -/
def W.send (w : W) (ctx rank kind : Nat) (body : List Word) (bytes : List Byte) : W :=
  let dcid := word ((w.dcid ctx).getD 0)
  w.modPkg fun p => { p with outbox := p.outbox ++ [{ rank := rank, kind := kind, body := dcid :: body, bytes := bytes }] }

/-! ### Pending operations of the same task (11 R250, R260, R261; 14 R319) -/

/-- The bytes at an address word: this package's by their atlas address, those of rank r 2^48 (r + 1) further on. -/
def State.spanOf (s : State) (ctx : Nat) (addr : Word) (n : Nat) : Option (Nat × Nat) :=
  if bitAt addr 58 ∧ bits addr 48 10 ≠ s.pkg.rank.toNat then some ((bits addr 48 10 + 1) * 2 ^ 48 + bits addr 0 48, n)
  else match s.target ctx (bits addr 0 48) n with
    | some (.here b _) => some (b, n)
    | some (.there r b) => some ((r + 1) * 2 ^ 48 + b, n)
    | none => none
/-- The address word of a checked target: what is written to the tables later does not touch it (R122). -/
def Target.addr : Target → Word
  | .here b _ => word b
  | .there r b => word (b + r * 2 ^ 48 + 2 ^ 58)
/-- Two byte ranges meet. -/
def overlap (p q : Option (Nat × Nat)) : Bool :=
  match p, q with
  | some p, some q => decide (p.1 < q.1 + q.2) && decide (q.1 < p.1 + p.2)
  | _, _ => false
/-- An at operation that writes its word. -/
def atWrites (op : Nat) : Bool := decide (0x283 ≤ op) && decide (op ≤ 0x288)
/-- A handle operation that waits for earlier stores (05 R134). -/
def AtOp.handleOp (a : AtOp) : Bool := decide (0x193 ≤ a.op) && decide (a.op ≤ 0x196)
/-- The bytes that a pending operation accesses. -/
def State.atSpan (s : State) (a : AtOp) : Option (Nat × Nat) :=
  if a.handleOp then none else s.spanOf a.ctx a.addr (if a.op = 0x191 ∨ a.op = 0x192 then a.x.toNat else 5)
/-- What a command of the commit buffer is at its home, if it is such an operation. -/
def Out.atOp (ctx : Nat) : Out → Option AtOp
  | .at seq op addr x y m rel cover =>
    some { seq := seq, op := op, addr := addr, x := x, y := y, m := m, rel := rel, cover := cover, ctx := ctx }
  | .queue a => some a
  | _ => none
/-- The operations that tasks of core `c` issued on sync words, and their queued STAs, that are not performed: those of the
running task, or with `ended` also those of tasks that have left the core. -/
def State.tasksOpen (s : State) (c : Nat) (ended : Bool) : List AtOp :=
  let k := s.core c
  (k.ats.filter fun a => (a.live || ended) && !a.mute) ++ k.cbuf.filterMap fun e => e.2.atOp (k.ctx.getD 0)
/-- Those of core `c`'s task. -/
def State.ownOpen (s : State) (c : Nat) : List AtOp := s.tasksOpen c false
/-- One of those that writes, or with `all` any, touches a byte range. -/
def State.ownMeets (s : State) (c : Nat) (all : Bool) (p : Option (Nat × Nat)) (before : Nat) : Bool :=
  (s.ownOpen c).any fun a =>
    decide (a.seq < before) && (all || atWrites a.op || decide (a.op = 0x192)) && overlap (s.atSpan a) p

/-! ### LDA and STA -/

/-- LDA (R139); a line or word with an uncorrectable error is a SOFT_ERROR (13 R292). -/
def trigLda : TrigFn := fun t w =>
  let h := (w.core t.c).regs.portW 0x181
  let a := bits t.v 0 48
  let ctx := t.env.ctx
  let s := t.pre
  match s.atlasTarget (dieOf t.c) ctx t.v 128 { rd := true } with
  | .error b => t.bad b a
  | .ok (.there rank b) =>
    if a % 128 ≠ 0 then t.engine
    else if s.ownMeets t.c true (s.spanOf ctx t.v 128) t.seq then t.land w t.v.toNat 0 true .again
    else match w.farVerdict ctx b 128 with
      | (some code, w) =>
        match t.land w t.v.toNat 0 true .ready with
        | .ok w => .ok (w.refuseRemote t.c code b t.id)
        | r => r
      | (none, w) =>
        let x := w.freeLine
        t.land (x.2.send ctx rank 0 [word b, 128] []) t.v.toNat x.1 true .ready
  | .ok (.here b l) =>
    match s.locCheck t.c ctx t.env.priv l (.handle h.toNat) with
    | some e => t.bad e a
    | none =>
      if a % 128 ≠ 0 then t.engine
      else
        let later := s.ownMeets t.c false (some (b, 128)) t.seq
        match l with
        | .vrf o off =>
          let ln := off / 128
          let pres := (s.core o).present ln
          if (s.core o).soft.contains ln then .trap (softError t.slot a t.id)
          else t.land w t.v.toNat ((s.core o).line ln) pres
            (if later then .again else if bitAt t.m 3 || pres then .ready else .line o ln)
        | .acc o off =>
          if (List.range 128).any fun j => (s.core o).softAcc.contains ((off + j) / 5) then
            .trap { softError t.slot a t.id with sub := 1 }
          else t.land w t.v.toNat (BitVec.ofNat 1024 (s.atlasNat ctx b 128)) true
            (if later then .again
             else if !bitAt t.m 3 && w.accWaits o ctx (off / 20480) then .tile o (off / 20480) else .ready)
        | _ => t.land w t.v.toNat (BitVec.ofNat 1024 (s.atlasNat ctx b 128)) true (if later then .again else .ready)

/-- Bytes of an STA: 128, 64, 32, 16, 8. -/
def staSize (m : BitVec 4) : Nat := 128 / 2 ^ bits m 0 3

/-- A plain write to a sync word after a release fence acts as a release (11 R262): survey updates of the die are merged
when the fence's scope is die or wider (10 R236); every earlier access had been performed when the fence issued. -/
def W.fenced (w : W) (c : Nat) : W :=
  match (w.core c).relFence with
  | none => w
  | some sc =>
    let w := w.modCore c fun k => { k with relFence := none }
    if 3 ≤ sc then w.flushDie (dieOf c) else w

/-- The starts that a store at `b` has made at the apertures of a core, `pre` before it: core, channel, ticket. -/
def State.newStarts (s pre : State) (b : Nat) : List (Nat × Nat × Nat) :=
  let starts (s : State) (o ch : Nat) : Nat := (((s.core o).chan ch).pend.filter fun q => !q.resume && !q.set).length
  match atlasLoc b with
  | some (.aperture o _) =>
    ((List.range 8).filter fun ch => decide (starts pre o ch < starts s o ch)).map fun ch =>
      (o, ch, (((s.core o).chan ch).ticket + starts s o ch) % 65536)
  | _ => []
/-- They count among the commands of the task that core `c` runs (12 R274 ENGINE). -/
def W.apertureIssued (w : W) (pre : State) (c b : Nat) : W :=
  let l := w.newStarts pre b
  if l.isEmpty then w else w.modCore c fun k => { k with running := k.running.map fun r => { r with cmds := r.cmds ++ l } }
/-- They count among the commands of task `tid`, wherever it runs or waits. -/
def W.apertureLate (w : W) (pre : State) (tid b : Nat) : W :=
  let l := w.newStarts pre b
  let run (k : Core) : Core :=
    { k with running := k.running.map fun r => if r.tid = tid then { r with cmds := r.cmds ++ l } else r }
  let wait (r : Record) : Record := if r.tid = tid ∧ !r.run then { r with cmds := r.cmds ++ l } else r
  if l.isEmpty ∨ tid = 0 then w
  else { w with
    cores := w.cores.map fun e => (e.1, run e.2)
    dies := w.dies.map fun e => (e.1, { e.2 with board := { e.2.board with recs := e.2.board.recs.map fun x => (x.1, wait x.2) } }) }

def execLdl (f : Slot) (s : State) := execTrigger (.ldl f) trigLoad s
def execLdsB (f : Slot) (s : State) := execTrigger (.ldsB f) trigLoad s
def execLdsH (f : Slot) (s : State) := execTrigger (.ldsH f) trigLoad s
def execLdsW (f : Slot) (s : State) := execTrigger (.ldsW f) trigLoad s
def execLdsD (f : Slot) (s : State) := execTrigger (.ldsD f) trigLoad s
def execLdsxB (f : Slot) (s : State) := execTrigger (.ldsxB f) trigLoad s
def execLdsxH (f : Slot) (s : State) := execTrigger (.ldsxH f) trigLoad s
def execLdsxW (f : Slot) (s : State) := execTrigger (.ldsxW f) trigLoad s
def execStl (f : Slot) (s : State) := execTrigger (.stl f) trigStore s
def execStln (f : Slot) (s : State) := execTrigger (.stln f) trigStln s
def execStlm (f : Slot) (s : State) := execTrigger (.stlm f) trigStore s
def execStsB (f : Slot) (s : State) := execTrigger (.stsB f) trigStore s
def execStsH (f : Slot) (s : State) := execTrigger (.stsH f) trigStore s
def execStsW (f : Slot) (s : State) := execTrigger (.stsW f) trigStore s
def execStsD (f : Slot) (s : State) := execTrigger (.stsD f) trigStore s
def execLda (f : Slot) (s : State) := execTrigger (.lda f) trigLda s

/-! ### Landings that waited (R126, R139; 08 R190) -/

/-- A load that waits for an accumulator tile takes its words once the tile is free. -/
def W.landTile (w : W) (c : Nat) (it : Item) : W :=
  match it.await with
  | .tile o t =>
    if w.accWaits o ((w.core c).ctx.getD 0) t then w
    else
      let a := bits it.a 0 48
      let b := match w.target ((w.core c).ctx.getD 0) a 128 with | some (.here b _) => b | _ => a
      let f (x : Item) : Item :=
        if x.seq = it.seq then
          { x with await := .ready, kind := .res, wr := loadWrites x.id x.m a (BitVec.ofNat 1024 (w.atlasNat ((w.core c).ctx.getD 0) b 128)) true }
        else x
      w.modCore c fun k => k.modPipe fun p => { p with items := p.items.map f }
  | _ => w

/-- A load whose read is made anew: what it reads now, or what it waits for (13 R300 LREQ, R301). -/
def W.readAgain (w : W) (c : Nat) (it : Item) : W :=
  let ctx := (w.core c).ctx.getD 0
  let probe := bitAt it.m 3
  let put (x : Item) : W :=
    let x : Item := { x with rdy := w.clk + w.loadTime c ctx it.id it.a.toNat }
    w.modCore c fun k => k.modPipe fun p => { p with items := p.items.map fun y => if y.seq = it.seq then x else y }
  let got (l : Line) (pres : Bool) : Item :=
    { it with await := .ready, kind := .res, wr := loadWrites it.id it.m it.a.toNat l pres }
  let ofLine (o ln : Nat) : Item :=
    let k := w.core o
    if probe || k.present ln then got (k.line ln) (k.present ln) else { it with await := .line o ln }
  -- a line of another package: the read leaves now, and its data, or the zero of its refusal, comes back
  let far : W :=
    let p := ((w.spanOf ctx it.a 128).getD (2 ^ 48, 0)).1
    let give (w : W) (l : Line) : W := w.modCore c fun k => k.modPipe fun q =>
      { q with items := q.items.map fun y => if y.seq = it.seq then got l true else y }
    match w.farVerdict ctx (p % 2 ^ 48) 128 with
    | (some code, w) => give (w.refuseRemote c code (p % 2 ^ 48) it.id) 0
    | (none, w) => let x := w.freeLine; give (x.2.send ctx (p / 2 ^ 48 - 1) 0 [word (p % 2 ^ 48), 128] []) x.1
  if it.id ≠ 0x191 then put (ofLine c (it.a.toNat / 128))
  else if bitAt it.a 58 ∧ bits it.a 48 10 ≠ w.pkg.rank.toNat then far
  else match w.target ctx (bits it.a 0 48) 128 with
    | some (.here _ (.vrf o off)) => put (ofLine o (off / 128))
    | some (.here b (.acc o off)) =>
      if !probe && w.accWaits o ctx (off / 20480) then put { it with await := .tile o (off / 20480) }
      else put (got (BitVec.ofNat 1024 (w.atlasNat ctx b 128)) true)
    | some (.here b _) => put (got (BitVec.ofNat 1024 (w.atlasNat ctx b 128)) true)
    | _ => far

/-- An LDA that an earlier pending operation of its task keeps from reading: one that writes its bytes, or, at another package,
any on its line (11 R261; 14 R319). -/
def State.loadWaits (s : State) (c : Nat) (it : Item) : Bool :=
  let p := s.spanOf ((s.core c).ctx.getD 0) it.a 128
  s.ownMeets c (match p with | some (b, _) => decide (2 ^ 48 ≤ b) | none => false) p it.seq

/-- Loads of core `c` whose data is there now take it; a load put back by RTRAP reads when the restart bundle issues. -/
def W.pollLoads (w : W) (c : Nat) : W :=
  (w.core c).pipe.items.foldl (fun w it =>
    match it.await with
    | .tile .. => w.landTile c it
    | .again =>
      if (w.core c).pipe.pre = 0 &&
          (it.id ≠ 0x191 || !(w.loadWaits c it)) then w.readAgain c it
      else w
    | .line o ln =>
      let k := w.core o
      if k.present ln then w.modCore c fun x => x.wakeLine o ln (k.line ln) else w
    | _ => w) w

/-- LOAD_LANDING: loads of core `c` that are due in the run cycle that is next and whose data has arrived land. -/
def execLoadLanding (c : Nat) (s : State) : Host.Outcome State Fault Refusal :=
  go s (((W.of s).pollLoads c).completeItems c fun it => isLoad it.id)

/-- RESULT_COMPLETION: other results due in the run cycle that is next are placed on their ports. -/
def execResultCompletion (c : Nat) (s : State) : Host.Outcome State Fault Refusal :=
  go s ((W.of s).completeItems c fun it => !(isLoad it.id))

end Sys2Proof.Machine
end

