-- ==== Sys2Proof/Machine/Stream.lean ====
section
/-!
DEFINITION. The stc unit and the steps of the streams (05 R135..R137, R142; 15 R337).
-/

namespace Sys2Proof.Machine

/-- The item of an stc operation. -/
def TCtx.stcItem (t : TCtx) (w : W) (v : Nat) : Res :=
  .ok (w.addItem t.c
    { kind := .res, id := t.id, m := t.m, seq := t.seq, due := t.run + 2, wr := [(0x340, lineOf (word v))]
      bpc := word t.bpc })

/-- The reserved bits of the trigger value and of M (R142, 01 R18), then the operation on stream k. -/
def stcChecked (f : TCtx → Nat → W → Res) : TrigFn := fun t w =>
  if bits t.v 3 61 ≠ 0 ∨ t.m ≠ 0 then t.engine else f t (bits t.v 0 3) w

/-- A descriptor that R135 and R142 accept: reserved bits zero, extent product at most 2^32. -/
def descOk (x : BitVec 256) : Bool :=
  let s : Stream := { desc := x }
  decide (bits x 17 47 = 0) && ((List.range 4).all fun k => decide (bits x (64 + 48 * k + 32) 16 = 0)) &&
    decide (s.total ≤ 2 ^ 32)

/-- STCFG: the descriptor of a line is loaded into stream k. -/
def trigStcfg : TrigFn := stcChecked fun t k w =>
  let o := (w.core t.c).regs.portW 0x340
  let ln := bits o 0 15
  if bits o 15 49 ≠ 0 then t.engine
  else match readCheck t.pre t.c t.env false t.slot t.id ln with
    | some x => .trap x
    | none =>
      if !(t.k.present ln) then .hold 3 none
      else
        let x : BitVec 256 := (t.k.line ln).truncate 256
        let st := (w.core t.c).stream k
        if st.st = 2 ∨ st.st = 3 ∨ !(descOk x) then t.engine
        else t.stcItem (w.modCore t.c fun c => c.setStream k { st with desc := x, st := 1, n := 0 }) 0

/-- The weight of a stream of core `c`. -/
def State.wstOf (s : State) (c : Nat) : Nat := (s.die (dieOf c)).wst (clusterOf c)

/-- STGO: n := 0; the stream enters START for d run cycles, or RUN by a grant (15 R337). -/
def trigStgo : TrigFn := stcChecked fun t k w =>
  let st := (w.core t.c).stream k
  if st.st = 0 then t.engine
  else if 0 < t.dst then
    t.stcItem (w.modCore t.c fun c => c.setStream k { st with st := 2, n := 0, runAt := t.run + t.dst }) 0
  else
    -- a stream that runs already draws its weight
    let own := if st.st = 2 ∨ st.st = 3 then w.wstOf t.c else 0
    match w.askStart t.c 2 (w.wstOf t.c) own with
    | some w => t.stcItem (w.modCore t.c fun c => c.setStream k { st with st := 3, n := 0 }) 0
    | none => .hold 4 (some { core := t.c, eng := 2, seq := t.seq, w := w.wstOf t.c, own := own })

/-- STSTOP: the buffer of a write stream drains, and the stream enters CONF; IDLE is left. -/
def trigStstop : TrigFn := stcChecked fun t k w =>
  let st := (w.core t.c).stream k
  if st.st = 0 then t.stcItem w st.n
  else t.stcItem (w.modCore t.c fun c => c.setStream k { st with st := 1, wbuf := [] }) st.n

/-- STSTAT: state, DIR and n. DESIGN CHOICE (log 119): accesses of its own bundle count. -/
def trigStstat : TrigFn := stcChecked fun t k w =>
  let st := (w.core t.c).stream k
  t.stcItem w (st.st % 8 + b2n st.isWrite * 8 + st.n % 2 ^ 33 * 256)

def execStcfg (f : Slot) (s : State) := execTrigger (.stcfg f) trigStcfg s
def execStgo (f : Slot) (s : State) := execTrigger (.stgo f) trigStgo s
def execStstop (f : Slot) (s : State) := execTrigger (.ststop f) trigStstop s
def execStstat (f : Slot) (s : State) := execTrigger (.ststat f) trigStstat s

/-! ### Steps -/

/-- Stream `n` of core `c` enters RUN, or its request waits at the limiter. -/
def W.streamRun (w : W) (c n : Nat) : W :=
  if (w.core c).streamDue n then
    let x := w.wstOf c
    match w.askStart c (16 + n) x x with
    | some w => w.modCore c fun k => k.setStream n { k.stream n with st := 3 }
    | none => w.modSlew c fun l => l.ask { core := c, eng := 16 + n, seq := 0, w := x, own := x, since := w.clk }
  else w

/-- STREAM_RUN. -/
def execStreamRun (c k : Nat) (s : State) : Host.Outcome State Fault Refusal := go s ((W.of s).streamRun c k)

/-- STREAM_WRITE_DRAIN: the oldest line of a write stream's buffer is in its bank. -/
def execStreamWriteDrain (c k : Nat) (s : State) : Host.Outcome State Fault Refusal :=
  go s ((W.of s).modCore c fun x => x.setStream k { x.stream k with wbuf := (x.stream k).wbuf.drop 1 })

end Sys2Proof.Machine
end

