-- ==== Sys2Proof/Machine/At.lean ====
section
/-!
DEFINITION. Sync words and the at unit (11 R250..R256, R262, R267; 10 R236).
-/

namespace Sys2Proof.Machine

/-! ### Sync words (R117, R251) -/

/-- The home of a sync word: the core and the word's number in its store. -/
def Loc.syncWord : Loc → Option (Nat × Nat)
  | .acc o off => if off % 5 = 0 then some (o, off / 5) else none
  | _ => none

/-- A part that refuses every atomic operation with WINDOW_FAULT (R117, 10 R239, 12 R287). -/
def Loc.noAtomic : Loc → Bool
  | .presence .. | .buffers .. | .survey .. | .barrier .. => true
  | _ => false

/-- The checks of R251 on the address of an at operation, after its reserved bits. -/
def State.atTarget (s : State) (d ctx : Nat) (priv : Bool) (v : Word) : Except Bad Target :=
  match s.atlasTarget d ctx (if bitAt v 58 then v else word (bits v 0 48 + bits v 59 5 * 2 ^ 59)) 5 { rd := true, wr := true, at_ := true } with
  | .error b => .error b
  | .ok (.there r b) =>
    match atlasSpan b 5 with
    | none => .error .window
    | some l => if l.syncWord.isSome then .ok (.there r b) else .error .engine
  | .ok (.here b l) =>
    match l with
    | .vrf o off => if s.allotted o ctx (off / 128) then .error .engine else .error .window
    | l =>
      if l.noAtomic || (l.privRead && !priv) then .error .window
      else if l.syncWord.isSome then .ok (.here b l) else .error .engine

/-- The core whose store holds the word of an address, and the word, when the address is this package's. -/
def State.atHome (s : State) (ctx : Nat) (v : Word) : Option (Nat × Nat) :=
  if bitAt v 58 ∧ bits v 48 10 ≠ s.pkg.rank.toNat then none
  else match s.target ctx (bits v 0 48) 5 with
    | some (.here _ l) => l.syncWord
    | _ => none

/-- Operands of ABIND and AUNBIND (R255). -/
def bindOk (op : Nat) (x y : Word) : Bool :=
  decide (bits x 51 12 = 0) && (!bitAt x 63 || decide (bits x 48 3 = 0)) && decide (bits x 0 51 % 128 = 0) &&
    decide (bits y 40 23 = 0) &&
    (decide (op = 0x28a) ||
      (!bitAt y 63 && decide (bits y 0 40 % 128 = 0) && decide (128 ≤ bits y 0 40)))

/-- The latency of an at operation whose home is core `o` (R251). -/
def atLatency (c o : Nat) : Nat := if o = c then 12 else if o / 16 = c / 16 then 24 else 60

/-- ALD, AST, AADD, AMAX, AMIN, ASWAP, ACAS, ABIND, AUNBIND, AWAITGE: checked, and sent through the commit buffer. A release
fence lasts until a write to a sync word; an ACAS, which may write nothing, acts as its release and leaves it (R262). -/
def trigAt : TrigFn := fun t w =>
  let g := (w.core t.c).regs
  let x := g.portW 0x280
  let y := g.portW 0x281
  let binds := decide (t.id = 0x289 ∨ t.id = 0x28a)
  if bits t.v 59 5 ≠ 0 ∨ (binds ∧ bitAt t.m 3) ∨ (binds ∧ !(bindOk t.id x y)) then t.engine
  else match t.pre.atTarget (dieOf t.c) t.env.ctx t.env.priv t.v with
    | .error b => t.bad b (bits t.v 0 48)
    | .ok tg =>
      let lat := match tg with | .here _ (.acc o _) => atLatency t.c o | _ => 60
      let own := if atWrites t.id && bitAt t.m 3 then some (bits t.m 0 3) else none
      let rel := if atWrites t.id then
          match own, (w.core t.c).relFence with
          | some a, some b => some (Nat.max a b)
          | some a, none => some a
          | none, b => b
        else none
      let cover := atWrites t.id && (w.core t.c).relFence.isSome
      let w := if atWrites t.id && decide (t.id ≠ 0x288) then w.modCore t.c fun k => { k with relFence := none } else w
      let w := if t.id = 0x283 then w else w.addItem t.c
        { kind := .atr, id := t.id, m := t.m, seq := t.seq, due := t.run + lat, a := t.v, await := .agent
          bpc := word t.bpc }
      .ok (w.buffer t.c (.at t.seq t.id tg.addr x y t.m rel cover))

/-! ### Performing at the home (R250, R253..R255) -/

/-- The word an operation writes, when it writes (R253); all values are the low 32 bits. -/
def atNew (op : Nat) (old v c : BitVec 32) : Option (BitVec 32) :=
  match op with
  | 0x283 => some v
  | 0x284 => some (old + v)
  | 0x285 => some (if v.toInt ≤ old.toInt then old else v)
  | 0x286 => some (if old.toInt ≤ v.toInt then old else v)
  | 0x287 => some v
  | 0x288 => if old = c then some v else none
  | _ => none

/-- Sign extension of the low 32 bits into a word. -/
def sext32 (x : BitVec 32) : Word := x.signExtend 64

/-- One read or read-modify-write of word `i` of core `o`'s store: the result and the machine after. -/
def W.atWord (w : W) (o i op : Nat) (x y : Word) : Word × W :=
  let old : BitVec 32 := ((w.core o).acc (i / 4096) (i % 4096)).truncate 32
  let w' := match atNew op old (x.truncate 32) (y.truncate 32) with
    | some n => w.modCore o fun k => k.setAcc (i / 4096) (i % 4096) (n.signExtend 40)
    | none => w
  (sext32 old, w')

/-- An accumulator word added to, rounded (04 R101). -/
def W.accAdd (w : W) (o i v : Nat) : W :=
  w.modCore o fun k => k.setAcc (i / 4096) (i % 4096)
    ((a40 (k.acc (i / 4096) (i % 4096))).add (a40 (BitVec.ofNat 40 v))).toA40

/-- The table after the admitted copy's last add (08 R198, R199). -/
def SlotTab.advance (t : SlotTab) : SlotTab :=
  if t.ptr + 1 < t.entries.length then { t with ptr := t.ptr + 1, adm := none }
  else if t.rep then { t with ptr := 0, adm := none }
  else { t with ptr := t.entries.length, done := true, adm := none }

/-- The same word. -/
def Binding.sameWord (b : Binding) (ctx : Nat) (v : Word) : Bool := decide (b.ctx = ctx) && decide (b.word = v)

/-- ABIND and AUNBIND at the word's die: the result and the machine after (R255). -/
def W.bindOp (w : W) (c o : Nat) (a : AtOp) : Word × W :=
  let d := dieOf o
  let v := word (bits a.addr 0 48)
  let all := (w.die d).bind
  let same (b : Binding) : Bool := b.sameWord a.ctx v && decide (b.base = a.x)
  let full := decide (256 ≤ (all.filter fun b => decide (b.ctx = a.ctx)).length)
  let new : Binding :=
    { ctx := a.ctx, word := v, base := a.x, len := word (bits a.y 0 40), scope := bits a.m 0 3, core := c, tid := a.tid }
  let r : Nat × List Binding :=
    if a.op = 0x289 then
      if all.any same then (0, all.map fun b => if same b then { b with len := new.len, scope := new.scope } else b)
      else if full then (1, all)
      else (0, all ++ [new])
    else
      let gone (b : Binding) : Bool := if bitAt a.y 63 then b.sameWord a.ctx v else same b
      if all.any gone then (0, all.filter fun b => !(gone b)) else (2, all)
  let nb := Nat.min 255 (r.2.filter fun b => b.sameWord a.ctx v).length
  (word (r.1 + nb * 256), w.modDie d fun x => { x with bind := r.2 })

/-- The task of core `c` and that of core `o` lie in one unit of a scope (R249); from package scope on, every two do. -/
def sameUnit (scope c o t u : Nat) : Bool :=
  match scope with
  | 0 => decide (t = u) && (decide (t ≠ 0) || decide (c = o))
  | 1 => decide (c = o)
  | 2 => decide (c / 16 = o / 16)
  | 3 => decide (dieOf c = dieOf o)
  | _ => true

/-- An acquire of die scope or wider is performed: later survey reads see what the releaser noted (10 R236). -/
def W.acquired (w : W) (c scope : Nat) : W := if 3 ≤ scope then w.refreshMirrors (dieOf c) else w
/-- A release is performed: the core's popped lines are ordered (03 R85); at die scope or wider the survey updates made before
it are merged (10 R236). -/
def W.released (w : W) (c scope : Nat) : W :=
  let w := w.settlePops c
  if 3 ≤ scope then w.flushDie (dieOf c) else w

/-- The task that core `c` runs, by its number; 0 is none. -/
def Core.tid (k : Core) : Nat := match k.running with | some r => r.tid | none => 0
/-- An operation of the task of core `c` joins the pending ones, in the task's order. -/
def W.pushAt (w : W) (c : Nat) (a : AtOp) : W :=
  { (w.modCore c fun k => { k with ats := k.ats ++ [{ a with tid := k.tid, num := w.count }] }) with count := w.count + 1 }

/-- An operation of no task joins those pending at core `o`. -/
def W.arriveAt (w : W) (o : Nat) (a : AtOp) : W :=
  { (w.modCore o fun k => { k with ats := k.ats ++ [{ a with num := w.count }] }) with count := w.count + 1 }

/-- Two operations of one agent (R248): of one task, or of the engine or package that `src` names. -/
def AtOp.sameAgent (a b : AtOp) : Bool := decide (a.mute = b.mute) && decide (a.src = b.src) && decide (a.tid = b.tid)
/-- Pending operations that the task of `a` made on other cores before it. -/
def State.elsewhere (s : State) (c : Nat) (a : AtOp) : List AtOp :=
  if a.mute ∨ a.tid = 0 then []
  else (s.cores.map fun e => if e.1 = c then [] else e.2.ats.filter fun b => a.sameAgent b && decide (b.num < a.num)).flatten
/-- The pending operations of its agent that come before operation `n` of core `c` (R248). -/
def State.earlierAts (s : State) (c n : Nat) (a : AtOp) : List AtOp :=
  ((s.core c).ats.take n).filter a.sameAgent ++ s.elsewhere c a

/-- What stands behind a frame of the task of `a`: beneath the handler that runs, or with its record after a forced save. -/
def State.beneath (s : State) (c : Nat) (a : AtOp) : List Behind :=
  if a.mute then []
  else if a.live then (if a.lvl = 1 then (s.core c).shadow.behind else [])
  else if a.tid = 0 then []
  else ((s.die (dieOf c)).board.recs.map fun e =>
    if e.2.tid = a.tid then (match e.2.frame with | some f => f.2.behind | none => []) else []).flatten
/-- The digital items and the lock-step engines' operations of the task that have not completed and came before `a`. -/
def State.earlierItems (s : State) (c : Nat) (a : AtOp) : List Item :=
  ((if a.live then (s.core c).pipe.items else []) ++
    (s.beneath c a).filterMap fun b => match b with | .item it => some it | _ => none).filter fun it => decide (it.seq < a.seq)
/-- The tile that an operation of the matrix unit, an ACCZ or an ACCFILL writes when it ends. -/
def EngineOp.tileWritten (o : EngineOp) : Option Nat :=
  if isMma o.id then some o.mxTile else if o.id = 0x844 ∨ o.id = 0x846 then some (bits o.trig 0 4) else none
def State.earlierOps (s : State) (c : Nat) (a : AtOp) : List EngineOp :=
  let k := s.core c
  let acc := k.eng.acc.toList.filter fun o => o.tileWritten.isSome || decide (o.id = 0x845) || decide (k.pipe.run < o.u + o.dc)
  (k.eng.mx.toList ++ k.eng.mxWait.toList ++ acc ++ k.eng.xb ++
    (s.beneath c a).filterMap fun b => match b with | .op o => some o | _ => none).filter fun o =>
      decide (o.seq < a.seq) && o.agent.isNone
/-- The bytes of tile `t` of core `c` in the atlas. -/
def tileSpan (c t : Nat) : Nat × Nat := (c * 2 ^ 35 + 0x1000000 + 20480 * t, 20480)
/-- A write with no result comes after the reads of its task that wait for its bytes, and after the tile writes of the task's
engines (R260, R261). -/
def State.ownBefore (s : State) (c : Nat) (a : AtOp) : Bool :=
  let p := s.atSpan a
  !a.mute && ((atWrites a.op || decide (a.op = 0x192)) && (s.earlierItems c a).any fun it =>
      decide (it.id = 0x191) && decide (it.await ≠ .ready) && overlap (s.spanOf a.ctx it.a 128) p) ||
    (!a.mute && decide (a.op = 0x283 ∨ a.op = 0x192) && (s.earlierOps c a).any fun o =>
      match o.tileWritten with | some t => overlap (some (tileSpan c t)) p | none => false)

/-- Operation `n` of a core's pending ones may be performed now, apart from its own condition: no earlier one of the same
agent touches its bytes, its tile is free and resident, and its die is not halted for the context (R250; 08 R190; 13 R310;
17 R355). A handle operation waits for the stores and handle operations before it (05 R134). -/
def State.atFree (s : State) (c n : Nat) (a : AtOp) : Bool :=
  let before := s.earlierAts c n a
  if a.handleOp then before.all fun b => decide (b.op ≠ 0x192) && !b.handleOp
  else
    !(before.any fun b => overlap (s.atSpan a) (s.atSpan b)) && !(s.ownBefore c a) &&
      match s.atSpan a with
      | none => true
      | some (b, n) =>
        match s.target a.ctx b n with
        | some (.here _ l) => !(s.writeWaits c a.ctx l) && !(a.mute && s.frozenAt l.die a.ctx)
        | _ => true

/-- The regions bound to a word that a release of task `t` on core `c` publishes: those whose scope unit it lies in (R249,
R255). -/
def State.boundTo (s : State) (c t o ctx : Nat) (v : Word) : List (Nat × Nat) :=
  ((s.die (dieOf o)).bind.filter fun b => b.sameWord ctx v && bitAt b.base 63 && sameUnit b.scope b.core c b.tid t).filterMap
    fun b => s.spanOf ctx (word (bits b.base 0 48)) 128 |>.map fun r => (r.1, b.len.toNat)

/-- The answer to an access that another package's agent made here: kind 8 with its result, kind 9 with the cause of its
refusal (14 R322). -/
def W.agentAnswer (w : W) (a : AtOp) (kind v : Nat) (bytes : List Byte) : W :=
  if 8192 ≤ a.src then w.send a.ctx (a.src / 8192 - 1) kind [word (a.src % 8192), word v] bytes else w

/-- The result of an operation goes to its core, or back to the package whose agent sent it (14 R322). -/
def W.atAnswer (w : W) (c : Nat) (a : AtOp) (v : Word) : W :=
  if !a.mute then w.answer c a.seq [(0x280, lineOf v)] else w.agentAnswer a 8 v.toNat []

/-- The result of an at operation in another package (R251, R255): SignExt32 of a free value, or a free STATUS and NB. -/
def farResult (op : Nat) (v : Word) : Word :=
  if op = 0x289 then word (bits v 0 1 + bits v 8 8 * 256)
  else if op = 0x28a then word (2 * bits v 0 1 + bits v 8 8 * 256)
  else sext32 (v.truncate 32)

/-- An operation on another package's words leaves for it, which may refuse it: its answer, a free value, comes back (14 R320),
and a refused one's lands as zero (R322). -/
def W.performFar (w : W) (c : Nat) (a : AtOp) : W :=
  let rank := bits a.addr 48 10
  let b := bits a.addr 0 48
  let n := a.x.toNat
  match w.farVerdict a.ctx b (if a.op = 0x192 then n else 5) with
  | (some code, w) =>
    let w := w.refuseRemote c code b a.op
    if a.op = 0x192 then w else w.answer c a.seq [(0x280, 0)]
  | (none, w) =>
    if a.op = 0x192 then w.send a.ctx rank 0 [word b, a.x] (toBytes n (lineBytes a.line (b % 128) n))
    else
      let v := (w.send a.ctx rank 1 [word a.op, word b, a.x, a.y, word a.m.toNat] []).freeWord
      (if acquires a.op a.m then v.2.acquired c (bits a.m 0 3) else v.2).answer c a.seq [(0x280, lineOf (farResult a.op v.1))]
/-- AWAITGE `n` of core `c` is registered at the other package, or refused by it. -/
def W.registerFar (w : W) (c n : Nat) (a : AtOp) : W :=
  match w.farVerdict a.ctx (bits a.addr 0 48) 5 with
  | (some code, w) =>
    ((w.modCore c fun k => { k with ats := k.ats.eraseIdx n }).refuseRemote c code (bits a.addr 0 48) a.op).answer c a.seq [(0x280, 0)]
  | (none, w) =>
    (w.send a.ctx (bits a.addr 48 10) 1 [word a.op, word (bits a.addr 0 48), a.x, a.y, word a.m.toNat] []).modCore c fun k =>
      { k with ats := k.ats.set n { a with far := true } }
/-- The word of another package that an operation's address names. -/
def State.isFar (s : State) (a : AtOp) : Bool := bitAt a.addr 58 && decide (bits a.addr 48 10 ≠ s.pkg.rank.toNat)

/-- A pending operation of core `c` is performed: it leaves the list, and its result is formed. -/
def W.performAt (w : W) (c n : Nat) (a : AtOp) : W :=
  let w := match a.rel with | some sc => w.released c sc | none => w
  let w := w.modCore c fun k => { k with ats := k.ats.eraseIdx n }
  if w.isFar a && !a.mute then w.performFar c a
  else if a.op = 0x191 then w.agentAnswer a 8 0 (toBytes a.x.toNat (w.atlasNat a.ctx (bits a.addr 0 48) a.x.toNat))
  else if a.op = 0x192 then
    -- an STA of this package, or a write of another's agent; a barrier descriptor may refuse it (12 R287)
    let n := a.x.toNat
    let b := bits a.addr 0 48
    match w.atlasWrite b n (lineBytes a.line (b % 128) n) (bitAt a.y 0) (bitAt a.y 1) with
    | none => if a.mute then w.agentAnswer a 9 6 [] else w.refuseRemote c 6 b a.op
    | some w' => if a.mute then w' else if a.live then w'.apertureIssued w.toState c b else w'.apertureLate w.toState a.tid b
  else if a.op = 0x843 then
    -- an add of another package's reduce copy (04 R101)
    match w.atHome a.ctx a.addr with
    | none => w
    | some (o, i) =>
      let w := w.accAdd o i (bits a.x 0 40)
      if bitAt a.y 0 then w.modCore o fun k => { k with slots := k.slots.advance } else w
  else match w.atHome a.ctx a.addr with
    | none => w.atAnswer c a 0
    | some (o, i) =>
      let r := if a.op = 0x289 ∨ a.op = 0x28a then w.bindOp c o a else w.atWord o i a.op a.x a.y
      let w := if acquires a.op a.m then r.2.acquired c (bits a.m 0 3) else r.2
      w.atAnswer c a r.1

/-- The word of an AWAITGE has reached its value (R254). -/
def State.reached (s : State) (ctx : Nat) (addr x : Word) : Bool :=
  match s.atHome ctx addr with
  | none => false
  | some (o, i) =>
    let old : BitVec 32 := ((s.core o).acc (i / 4096) (i % 4096)).truncate 32
    decide ((x.truncate 32 : BitVec 32).toInt ≤ old.toInt)

/-- Registered AWAITGEs of core `c` whose word has reached its value are performed, from the `n`-th pending one on (R254). -/
def W.wakeFrom (c : Nat) : Nat → Nat → W → W
  | 0, _, w => w
  | fuel + 1, n, w =>
    match (w.core c).ats[n]? with
    | none => w
    | some a =>
      if decide (a.op = 0x28b) && !a.far && w.reached a.ctx a.addr a.x && w.atFree c n a then wakeFrom c fuel n (w.performAt c n a)
      else wakeFrom c fuel (n + 1) w
/-- A word has been written: every AWAITGE whose condition then holds is performed at that moment (R254). -/
def W.wake (w : W) : W :=
  (w.cores.filter fun e => e.2.ats.any fun a => decide (a.op = 0x28b) && !a.far).foldl
    (fun w e => W.wakeFrom e.1 e.2.ats.length 0 w) w

/-- Operation `n` of core `c`, when `ok` holds of it and it may be performed. -/
def W.tryAt (w : W) (c n : Nat) (ok : AtOp → Bool) : W :=
  match (w.core c).ats[n]? with
  | none => w
  | some a =>
    if ok a && w.atFree c n a then
      let w := w.performAt c n a
      if atWrites a.op ∨ a.op = 0x192 ∨ a.op = 0x843 then w.wake else w
    else w

/-- A remote AWAITGE that has been performed: whether, and with what value, is free but for its condition (R254). -/
def farReached (v x : Word) : Word :=
  let got := sext32 (v.truncate 32)
  if got.toInt < (sext32 (x.truncate 32)).toInt then sext32 (x.truncate 32) else got
/-- A registered AWAITGE whose word is at least its value is performed. -/
def W.tryAwait (w : W) (c n : Nat) : W :=
  match (w.core c).ats[n]? with
  | none => w
  | some a =>
    if decide (a.op ≠ 0x28b) then w
    else if !(w.isFar a) then w.tryAt c n fun a => w.reached a.ctx a.addr a.x
    else if !(w.atFree c n a) then w
    else if !a.far then w.registerFar c n a
    else
      let v := w.freeWord
      if bitAt v.1 63 then v.2
      else
        let w := v.2.modCore c fun k => { k with ats := k.ats.eraseIdx n }
        (if acquires a.op a.m then w.acquired c (bits a.m 0 3) else w).answer c a.seq [(0x280, lineOf (farReached v.1 a.x))]
/-- AWAITGE_SATISFIED. -/
def execAwaitgeSatisfied (c n : Nat) (s : State) : Host.Outcome State Fault Refusal :=
  go s ((W.of s).tryAwait c n)

/-- An at operation, or an STA that waits, leaves the commit buffer: it is on its way to its home. `lvl`: issued by the task
beneath a handler (1). For another package it leaves at once unless it is a release, or an earlier one of its task on the same
bytes has not left (R250, R256; 14 R319). -/
def W.sendOp (w : W) (c : Nat) (a : AtOp) : W :=
  let n := (w.core c).ats.length
  let w := w.pushAt c a
  match (w.core c).ats[n]? with
  | none => w
  | some a =>
    if w.isFar a && decide (a.rel = none) && w.atFree c n a then
      (if a.op = 0x28b then w.registerFar c n a else w.performAt c n a)
    else w

/-- The pending operations of core `c` that came before trigger `before` and may be performed are, oldest first, from the `n`-th
one on. -/
def W.performFrom (c before : Nat) : Nat → Nat → W → W
  | 0, _, w => w
  | fuel + 1, n, w =>
    match (w.core c).ats[n]? with
    | none => w
    | some a =>
      let bare := match w.atHome a.ctx a.addr with
        | some (o, _) => (w.boundTo c a.tid o a.ctx (word (bits a.addr 0 48))).isEmpty && decide (n = 0) && !a.cover &&
            (w.earlierOps c a).isEmpty && !((w.earlierItems c a).any fun it => isLoad it.id && decide (it.await ≠ .ready))
        | none => false
      let ready := decide (a.seq < before) && (decide (a.op ≠ 0x28b) || w.reached a.ctx a.addr a.x) &&
        (decide (a.rel = none) || bare) && a.live && !a.mute && !a.handleOp && !(w.isFar a)
      if ready && w.atFree c n a then performFrom c before fuel n (w.performAt c n a).wake
      else performFrom c before fuel (n + 1) w
/-- An effect of the at unit or an STA leaves the commit buffer. -/
def W.emitAt (w : W) (c lvl : Nat) : Out → W
  | .at seq op addr x y m rel cover =>
    w.sendOp c { seq := seq, op := op, addr := addr, x := x, y := y, m := m, rel := rel, cover := cover
                 ctx := ((w.core c).ctx).getD 0, lvl := lvl }
  | .queue a => if a.handleOp then w.pushAt c { a with lvl := lvl } else w.sendOp c { a with lvl := lvl }
  | _ => w
/-- Pending operations of the task on words of tile `x` of its own store, from before trigger `before`. -/
def State.ownTile (s : State) (c x before : Nat) : Bool := s.ownMeets c true (some (tileSpan c x)) before
/-- An access of the core's own engines to tile `x` of its store comes after the task's pending operations on its words
(R260): they leave the commit buffer and are performed first. -/
def W.catchUp (w : W) (c x before : Nat) : W :=
  if w.ownTile c x before then
    let early (e : Nat × Out) : Bool := decide (e.1 < w.clk) && (e.2.atOp 0).isSome
    let l := (w.core c).cbuf
    let w := (l.filter early).foldl (fun w e => w.emitAt c 0 e.2) (w.modCore c fun k => { k with cbuf := l.filter (!early ·) })
    W.performFrom c before (w.core c).ats.length 0 w
  else w

/-- What an access of the bundle to tile `x` finds: the machine before the bundle, the pending operations that precede it
performed. -/
def TCtx.caught (t : TCtx) (x : Nat) : W := (W.of t.pre).catchUp t.c x (t.pre.core t.c).pipe.seq
/-- The core that such an access reads. -/
def TCtx.tileCore (t : TCtx) (x : Nat) : Core := (t.caught x).core t.c

/-- An at operation of an engine or a board of die `d` on behalf of context `ctx`: it waits at its home as any other; a
release of die scope or wider merges the die's survey updates first. The engines and boards of a die for a context count
as one agent each. What this package itself refuses (14 R322) is lost: it has no core to report to. -/
def W.engineAt (w : W) (d ctx op : Nat) (v x : Word) (scope : Nat) : W :=
  let w := if 3 ≤ scope then w.flushDie d else w
  let far (r b : Nat) : W :=
    if (w.remoteRefusal ctx b 5).isSome then w else w.send ctx r 1 [word op, word b, x, 0, word (scope + 8)] []
  if bitAt v 58 ∧ bits v 48 10 ≠ w.pkg.rank.toNat then far (bits v 48 10) (bits v 0 48)
  else match w.target ctx (bits v 0 48) 5 with
    | some (.there r b) => far r b
    | some (.here b l) =>
      match l.syncWord with
      | some (o, _) => w.arriveAt o
          { seq := 0, op := op, addr := word b, x := x, m := 0, live := false, mute := true, ctx := ctx, src := ctx * 8 + d }
      | none => w
    | none => w

def execAld (f : Slot) (s : State) := execTrigger (.ald f) trigAt s
def execAst (f : Slot) (s : State) := execTrigger (.ast f) trigAt s
def execAadd (f : Slot) (s : State) := execTrigger (.aadd f) trigAt s
def execAmax (f : Slot) (s : State) := execTrigger (.amax f) trigAt s
def execAmin (f : Slot) (s : State) := execTrigger (.amin f) trigAt s
def execAswap (f : Slot) (s : State) := execTrigger (.aswap f) trigAt s
def execAcas (f : Slot) (s : State) := execTrigger (.acas f) trigAt s
def execAbind (f : Slot) (s : State) := execTrigger (.abind f) trigAt s
def execAunbind (f : Slot) (s : State) := execTrigger (.aunbind f) trigAt s
def execAwaitge (f : Slot) (s : State) := execTrigger (.awaitge f) trigAt s

end Sys2Proof.Machine
end

