-- ==== Sys2Proof/Machine/Mx.lean ====
section
/-!
DEFINITION. The matrix unit (08 R184..R192; 02 R69; 06 R151, R152).
-/

namespace Sys2Proof.Machine

/-! ### Captured ports (R184) -/

/-- The eight ports of mx after the bundle's writes. -/
def Core.mxPorts (k : Core) : List Word := (List.range 8).map fun i => k.regs.portW (0x800 + i)
/-- Port `i` of an operation. -/
def EngineOp.port (o : EngineOp) (i : Nat) : Word := o.ports.getD i 0
/-- NAR, n, the element size, K, S. -/
def EngineOp.nar (o : EngineOp) : Bool := bitAt (o.port 6) 0
def EngineOp.width (o : EngineOp) : Nat := if o.nar then 64 else 32
def EngineOp.esize (o : EngineOp) : Nat := if o.nar then 1 else 2
def EngineOp.kdepth (o : EngineOp) : Nat := bits (o.port 4) 0 16
def EngineOp.steps (o : EngineOp) : Nat := o.kdepth / o.width
/-- The outer forms, and the forms that start from +0. -/
def EngineOp.outer (o : EngineOp) : Bool := decide (o.id = 0x812 ∨ o.id = 0x813)
def EngineOp.zeroed (o : EngineOp) : Bool := decide (o.id = 0x811 ∨ o.id = 0x813)
/-- Base offset and stride of operand A (0) or B (1). -/
def EngineOp.base (o : EngineOp) (x : Nat) : Nat := bits (o.port (2 * x)) 0 22
def EngineOp.stride (o : EngineOp) (x : Nat) : Nat := bits (o.port (2 * x + 1)) 0 24

/-! ### Checks at the trigger (R189) -/

/-- A base that R186 accepts, on core `c`. -/
def mxBaseOk (c : Nat) (v : Word) : Bool :=
  decide (bits v 48 16 = 0) && decide (bits v 22 13 = 0) && (decide (bits v 35 13 = 0) || decide (bits v 35 13 = c)) &&
    decide (bits v 0 6 = 0)
/-- Reserved bits, depth, strides and bases of the captured ports. -/
def EngineOp.mxFieldsOk (o : EngineOp) (c : Nat) : Bool :=
  decide (bits (o.port 1) 24 40 = 0) && decide (bits (o.port 3) 24 40 = 0) && decide (bits (o.port 4) 16 48 = 0) &&
    decide (bits (o.port 5) 4 60 = 0) && decide (bits (o.port 6) 1 3 = 0) && decide (bits (o.port 6) 44 20 = 0) &&
    decide (bits (o.port 7) 13 51 = 0) && decide (o.kdepth % o.width = 0) && decide (1 ≤ o.steps) &&
    decide (o.steps ≤ 256) && decide (o.stride 0 % 64 = 0) && decide (o.stride 1 % 64 = 0) &&
    mxBaseOk c (o.port 0) && mxBaseOk c (o.port 2)

/-- The 64-byte blocks of operand x that step s reads (R186): byte offsets. -/
def EngineOp.blocks (o : EngineOp) (x s : Nat) : List Nat :=
  if o.outer then
    ((List.range o.width).map fun q =>
      let a := o.base x + (o.width * s + q) * o.stride x
      if o.nar then [a] else [a, a + 64]).flatten
  else (List.range 64).map fun i => o.base x + i * o.stride x + 64 * s
/-- The lines of a step's operands. -/
def EngineOp.stepLines (o : EngineOp) (s : Nat) : List Nat := ((o.blocks 0 s ++ o.blocks 1 s).map (· / 128)).eraseDups
/-- The first line of the operation outside the allotment. -/
def EngineOp.badLine (o : EngineOp) (st : State) (c ctx : Nat) : Option Nat :=
  (List.range o.steps).findSome? fun s => (o.stepLines s).find? fun ln => !(st.allotted c ctx ln)

/-- The legend ids of an operation, and their records. -/
def EngineOp.legIds (o : EngineOp) : List Nat := [bits (o.port 6) 4 12, bits (o.port 6) 16 12]
/-- Note survey and flag. -/
def EngineOp.noteSv (o : EngineOp) : Option Nat := if bitAt (o.port 7) 12 then some (bits (o.port 7) 0 12) else none

/-- Two spans of run cycles meet. -/
def spansMeet (a n b m : Nat) : Bool := decide (a < b + m) && decide (b < a + n)
/-- The tile that an acc operation names. -/
def EngineOp.accTile (o : EngineOp) : Option Nat := if o.id = 0x847 then none else some (bits o.trig 0 4)
/-- The acc operation of core `k` occupies the tile in `n` run cycles from `u`. -/
def Core.accMeets (k : Core) (tile u n : Nat) : Bool :=
  k.eng.acc.any fun a => decide (a.accTile = some tile) && spansMeet a.u a.dc u n
/-- An mx operation of core `k` holds the tile in `n` run cycles from `u`. -/
def Core.mxMeets (k : Core) (tile u n : Nat) : Bool :=
  (k.eng.mx.toList ++ k.eng.mxWait.toList).any fun o => isMma o.id && decide (o.mxTile = tile) && spansMeet o.u o.dc u n

/-! ### The computation (R187) -/

/-- The values of a 64-byte block of operand x. -/
def EngineOp.blockVals (o : EngineOp) (k : Core) (x a : Nat) : List FNum :=
  let ln := k.line (a / 128)
  if o.nar then
    let l : Legend := o.legs.getD x 0
    let es := sbits (o.port 6) (28 + 8 * x) 8
    (List.range 64).map fun i => l.wide (lineBytes ln (a % 128 + i) 1) es
  else (List.range 32).map fun i => bf16 (BitVec.ofNat 16 (lineBytes ln (a % 128 + 2 * i) 2))

/-- For each i in 0..63, the n values of operand x in step s: A(i, k), or B(k, j). -/
def EngineOp.stepVals (o : EngineOp) (k : Core) (x s : Nat) : List (List FNum) :=
  if o.outer then
    let rows := (List.range o.width).map fun q =>
      let a := o.base x + (o.width * s + q) * o.stride x
      if o.nar then o.blockVals k x a else o.blockVals k x a ++ o.blockVals k x (a + 64)
    (List.range 64).map fun i => rows.map fun r => r.getD i .nan
  else (o.blocks x s).map fun a => o.blockVals k x a

/-- A table of words from a list, zeros unlisted. -/
def tabOfWords (l : List Acc40) : Tab Acc40 := ((List.range l.length).zip l).filter fun e => decide (e.2 ≠ 0)

/-- Step s over all words of the understudy. -/
def EngineOp.stepSums (o : EngineOp) (k : Core) (s : Nat) : Tab Acc40 :=
  let va := o.stepVals k 0 s
  let vb := o.stepVals k 1 s
  tabOfWords (((List.range 64).zip va).map fun r => ((List.range 64).zip vb).map fun q =>
    matrixStep ((r.2.zip q.2).map fun p => p.1.mul p.2) (Tab.get 0 o.sums (64 * r.1 + q.1))).flatten

/-- The words of a tile. -/
def Core.tile (k : Core) (t : Nat) : Tab Acc40 :=
  (k.accw.filter fun e => decide (t * 4096 ≤ e.1) && decide (e.1 < t * 4096 + 4096)).map fun e => (e.1 - t * 4096, e.2)
/-- A tile written whole. -/
def Core.setTile (k : Core) (t : Nat) (l : Tab Acc40) : Core :=
  { k with accw := (k.accw.filter fun e => decide (e.1 < t * 4096)) ++ (l.map fun e => (t * 4096 + e.1, e.2)) ++
      k.accw.filter fun e => decide (t * 4096 + 4096 ≤ e.1)
           softAcc := k.softAcc.filter fun i => decide (i / 4096 ≠ t) }

/-! ### Start, steps, completion (R188, R190, R192) -/

/-- The operation at its start cycle: the understudy is taken. -/
def EngineOp.begin_ (o : EngineOp) (k : Core) : EngineOp :=
  { o with started := true, step := 0, due := some o.u, sums := if o.zeroed then [] else k.tile o.mxTile }

/-- What stops a step's read: an absent line, or a line whose buffer the core does not hold. -/
inductive Block where
  | absent
  | handle (ln : Nat)
  | soft (ln : Nat)
  deriving DecidableEq, Repr

/-- The lines of a read checked, in order (R133, R126). -/
def State.engineLines (s : State) (c : Nat) (lines : List Nat) : Option Block :=
  let k := s.core c
  match lines.find? fun ln => !(s.lineRight c c (k.ctx.getD 0) ln .own) with
  | some ln => some (.handle ln)
  | none =>
    match lines.find? k.soft.contains with
    | some ln => some (.soft ln)
    | none => if lines.all k.present then none else some .absent

/-- Step `o.step` read and summed, the operation after it. -/
def EngineOp.stepped' (o : EngineOp) (k : Core) : EngineOp :=
  let n := o.step + 1
  { o with sums := o.stepSums k o.step, step := n, due := if n < o.steps then some (o.u + 128 * n) else none }

/-- An engine's read of a line raises HANDLE_FAULT (13 R292). -/
def W.engineHandle (w : W) (c ln : Nat) (o : EngineOp) : W := w.engineCause c o (handleFault 8 ln o.id)
/-- An engine's read of an uncorrectable line, or accumulator word, raises SOFT_ERROR at the run cycle of the read (R191; 13
R292). -/
def W.engineSoft (w : W) (c ln : Nat) (o : EngineOp) : W :=
  w.engineCause c o (softError 8 ln o.id)
/-- The first uncorrectable word of a tile that an operation reads as C. -/
def EngineOp.softC (o : EngineOp) (k : Core) : Option Cause :=
  if o.zeroed then none
  else (k.softAcc.find? fun i => decide (i / 4096 = o.mxTile)).map fun i =>
    { code := 10, slot := 8, sub := 1, i0 := word (0x1000000 + 5 * i), i1 := word o.id }

/-- The triggers MMA, MMAZ, MMAT, MMATZ. -/
def trigMma : TrigFn := fun t w =>
  let k := w.core t.c
  let o : EngineOp := { id := t.id, m := t.m, trig := t.v, ports := k.mxPorts, seq := t.seq, u := t.run + t.dmx, dc := 0,
                        dt := 0, bpc := word t.bpc, agent := t.agent }
  let d := dieOf t.c
  if t.m ≠ 0 ∨ t.v ≠ 0 ∨ !(o.mxFieldsOk t.c) then t.engine
  else match (if o.nar then o.legIds else []).find? fun i => !(t.pre.legendInRange d t.env.ctx i) with
    | some i => t.window i
    | none =>
      match o.noteSv.filter fun n => !(t.env.svOk n) with
      | some n => t.window n
      | none =>
        let legs : List Legend := if o.nar then o.legIds.map fun i => t.pre.legend d i else []
        let n := 128 * o.steps + 16
        let o : EngineOp := { o with legs := legs, dc := n, dt := n, due := some o.u, stepped := t.k.stepArm }
        if legs.any fun l => !l.usable then t.engine
        else if t.k.mxFaults o.u || k.accMeets o.mxTile o.u n then t.engine
        else match o.badLine t.pre t.c t.env.ctx with
          | some ln => t.window ln
          | none => startMx t (w.catchUp t.c o.mxTile (t.pre.core t.c).pipe.seq) o ((w.die d).wmx (clusterOf t.c)) false fun o w =>
              let o := o.begin_ (t.tileCore o.mxTile)
              match t.pre.engineLines t.c (o.stepLines 0) with
              | some (.handle ln) => .trap (handleFault t.slot ln t.id)
              | some (.soft ln) => .trap (softError t.slot ln t.id)
              | some .absent => .hold 4 none
              | none =>
                match o.softC (t.tileCore o.mxTile) with
                | some x => .trap { x with slot := t.slot }
                | none => .ok (w.modCore t.c fun k => k.modEng fun e => { e with mx := some (o.stepped' t.k) })

/-- The step that is due reads its rows, while they are present and the core's own. -/
def W.mxStepRead (w : W) (c : Nat) : W :=
  let k := w.core c
  match k.eng.mx with
  | some o =>
    if isMma o.id && o.started && o.behind k.pipe.run then
      match w.engineLines c (o.stepLines o.step) with
      | some .absent => w
      | some (.handle ln) => w.engineHandle c ln o
      | some (.soft ln) => w.engineSoft c ln o
      | none =>
        match (if o.step = 0 then o.softC k else none) with
        | some x => w.engineCause c o x
        | none => w.modCore c fun k => k.modEng fun e => { e with mx := some (o.stepped' k) }
    else w
  | none => w

/-- The status word (R188). -/
def EngineOp.mxStatus (o : EngineOp) : Word :=
  let spec := o.sums.any fun e => decide (bits e.2 31 8 = 255)
  word (o.mxTile + b2n spec * 2 ^ 4 + b2n o.zeroed * 2 ^ 5 + b2n o.outer * 2 ^ 6 + b2n o.nar * 2 ^ 7 + o.steps * 2 ^ 8)

/-- The matrix operation whose last run cycle has passed is complete: tile, status, note. -/
def W.mxComplete (w : W) (c : Nat) : W :=
  let k := w.core c
  match k.eng.mx with
  | some o =>
    if isMma o.id && o.started && decide (o.step = o.steps) && decide (o.u + o.dc ≤ k.pipe.run) then
      let d := dieOf c
      let x := (w.die d).wmx (clusterOf c)
      let w := w.modCore c fun k =>
        ((k.setTile o.mxTile o.sums).modRegs fun r => r.setResult 0x800 (lineOf o.mxStatus)).modEng fun e =>
          { e with mx := none, mxEnd := (w.clk, x) }
      let w := (w.stepDone c o).wake
      match o.noteSv with
      | none => w
      | some n =>
        let r := w.noteRec d n ((List.range 4096).map fun i => a40 (Tab.get 0 o.sums i))
        if r.2 then r.1.engineRescale c d n o else r.1
    else w
  | none => w

/-- A waiting mx operation whose start cycle is due starts by a grant, or its request waits (06 R151, 15 R337). -/
def W.mxStart (w : W) (c : Nat) : W :=
  let k := w.core c
  match k.eng.mxWait with
  | some o =>
    if o.behind k.pipe.run && k.eng.mx.isNone then
      let die := w.die (dieOf c)
      let q := clusterOf c
      let x := if o.id = 0x305 then die.fw q (bits o.trig 0 4) else die.wmx q
      let free := decide (o.id = 0x305) && decide (k.eng.mxEnd.1 = w.clk) && decide (x ≤ k.eng.mxEnd.2)
      let o' := if o.id = 0x305 then { o with started := true, due := none } else o.begin_ k
      let put (w : W) : W := w.modCore c fun k => k.modEng fun e => { e with mxWait := none, mx := some o' }
      if free then put w
      else match w.askStart c 0 x with
        | some w => put w
        | none => w.modSlew c fun l => l.ask { core := c, eng := 0, seq := o.seq, w := x, since := w.clk }
    else w
  | none => w

def execMma (f : Slot) (s : State) := execTrigger (.mma f) trigMma s
def execMmaz (f : Slot) (s : State) := execTrigger (.mmaz f) trigMma s
def execMmat (f : Slot) (s : State) := execTrigger (.mmat f) trigMma s
def execMmatz (f : Slot) (s : State) := execTrigger (.mmatz f) trigMma s
/-- MX_STEP_READ. -/
def execMxStepRead (c : Nat) (s : State) : Host.Outcome State Fault Refusal := go s ((W.of s).mxStepRead c)
/-- MX_COMPLETE. -/
def execMxComplete (c : Nat) (s : State) : Host.Outcome State Fault Refusal := go s ((W.of s).mxComplete c)

end Sys2Proof.Machine
end

