-- ==== Sys2Proof/Machine/Acc.lean ====
section
/-!
DEFINITION. The accumulator store's operations and the time-slot table (08 R193..R200).
-/

namespace Sys2Proof.Machine

/-! ### Shared checks (R194) -/

/-- The acc operation of a trigger: it occupies the engine for `n` run cycles from now. -/
def TCtx.accOp (t : TCtx) (n : Nat) : EngineOp :=
  { id := t.id, m := t.m, trig := t.v, seq := t.seq, u := t.run, dc := n, dt := n, started := true, bpc := word t.bpc
    stepped := t.k.stepArm }

/-- The engine takes the operation unless it is occupied (06 R152) or mx holds its tile; it comes after the task's pending
operations on the tile's words (11 R260). DESIGN CHOICE (log 100): where one of them cannot be performed yet, the bundle holds
as for a result awaited, after wait cycles while an engine of the core runs, which a release may wait for. An operation of one
run cycle is complete with it. -/
def TCtx.accStart (t : TCtx) (w : W) (n : Nat) (f : EngineOp → W → Res) : Res :=
  let o := t.accOp n
  let begin_ (w : W) : Res :=
    match f o (w.modCore t.c fun k => k.modEng fun e => { e with acc := some o }) with
    | .ok w => .ok (if n = 1 then w.stepDone t.c o else w)
    | r => r
  match o.accTile with
  | none => if t.k.accNow.isSome then t.engine else begin_ w
  | some x =>
    if t.k.accNow.isSome || (w.core t.c).mxMeets x t.run n then t.engine
    else if (t.caught x).ownTile t.c x (t.pre.core t.c).pipe.seq then
      (if (List.range 4).any t.k.engineBusy then .wait else .hold 7 none)
    else begin_ (w.catchUp t.c x (t.pre.core t.c).pipe.seq)

/-! ### Rows (R195) -/

/-- First word and number of the words a row operation touches. -/
def accRow (m : BitVec 4) (v : Word) : Nat × Nat :=
  if bitAt m 0 then (64 * bits v 4 6 + 32 * bits v 10 1, 32) else (64 * bits v 4 6, 64)

/-- Reserved trigger and M bits of a row operation. -/
def accRowOk (rd : Bool) (m : BitVec 4) (v : Word) : Bool :=
  decide (bits m 1 3 = 0) && decide (bits v 24 40 = 0) && (rd || decide (bits v 11 13 = 0)) && (bitAt m 0 || !bitAt v 10)

/-- Lane q of a row's line: BF16 or FP32. -/
def accLane (m : BitVec 4) (l : Line) (q : Nat) : FNum := if bitAt m 0 then fp32 (lane32 l q) else bf16 (lane l q)

/-- The line of a row's words, rounded. -/
def accLine (k : Core) (m : BitVec 4) (v : Word) : Line :=
  let r := accRow m v
  let t := bits v 0 4
  packNums (bitAt m 0) ((List.range r.2).map fun q => a40 (k.acc t (r.1 + q)))

/-- Words of a tile checked before they are read: the first uncorrectable one of the `n` words from `first` on is a
SOFT_ERROR with SUB 1 (13 R292, R305). -/
def TCtx.softWords (t : TCtx) (first n : Nat) (f : Res) : Res :=
  match ((List.range n).map fun q => bits t.v 0 4 * 4096 + first + q).find? t.k.softAcc.contains with
  | some i => .trap { softError t.slot (0x1000000 + 5 * i) t.id with sub := 1 }
  | none => f

/-- ACCRD: a row or half row on `acc.r`, noted when NOTE is set. -/
def trigAccrd : TrigFn := fun t w =>
  if !(accRowOk true t.m t.v) then t.engine
  else
    let n := (accRow t.m t.v).2
    let sv := bits t.v 11 12
    let fx : Fx := if bitAt t.v 23 then .note (dieOf t.c) sv (b2n (bitAt t.m 0)) n else .none
    t.accStart w 1 fun _ w =>
      if bitAt t.v 23 ∧ !(t.env.svOk sv) then t.window sv
      else t.softWords (accRow t.m t.v).1 n <| .ok (w.addItem t.c
        { kind := .res, id := t.id, m := t.m, seq := t.seq, due := t.run + 4, wr := [(0x840, accLine (t.tileCore (bits t.v 0 4)) t.m t.v)]
          fx := fx, bpc := word t.bpc })

/-- ACCWR and ACCADD: a row or half row written from `acc.o`. -/
def trigAccwr : TrigFn := fun t w =>
  if !(accRowOk false t.m t.v) then t.engine
  else t.accStart w 1 fun _ w =>
    let l := (w.core t.c).regs.port 0x840
    let r := accRow t.m t.v
    let x := bits t.v 0 4
    let w := w.fenced t.c
    t.softWords r.1 (if t.id = 0x843 then r.2 else 0) <| .ok (w.modCore t.c fun k => k.setAccs x ((List.range r.2).map fun q =>
      let v := accLane t.m l q
      (r.1 + q, if t.id = 0x842 then v.toA40 else ((a40 (k.acc x (r.1 + q))).add v).toA40))).wake

/-! ### Whole tiles (R196, R197) -/

/-- The number of a tile's image: word w at bits 40w..40w+39. -/
def tileImage (l : Tab Acc40) : Nat := l.foldr (fun e a => a + e.2.toNat * 2 ^ (40 * e.1)) 0
/-- Line q of a tile's image. -/
def imageLine (l : Tab Acc40) (q : Nat) : Line :=
  let first := 128 * q / 5
  let near := l.filter fun e => decide (first ≤ e.1) && decide (e.1 < first + 27)
  BitVec.ofNat 1024 (tileImage (near.map fun e => (e.1 - first, e.2)) >>> (8 * (128 * q - 5 * first)))
/-- The tile of an image of 160 lines. -/
def imageTile (lines : Tab Line) : Tab Acc40 :=
  let x := (List.range 160).foldr (fun q a => (Tab.get 0 lines q).toNat + 2 ^ 1024 * a) 0
  tabOfWords ((List.range 4096).map fun i => BitVec.ofNat 40 (x >>> (40 * i)))

/-- ACCZ. -/
def trigAccz : TrigFn := fun t w =>
  if t.m ≠ 0 ∨ bits t.v 4 60 ≠ 0 then t.engine else t.accStart w 16 fun _ w => .ok (w.fenced t.c)

/-- First line of a spill or fill. -/
def EngineOp.firstLine (o : EngineOp) : Nat := bits o.trig 4 15

/-- The checks of ACCSPILL and ACCFILL (R196). -/
def TCtx.imageCheck (t : TCtx) (f : Res) : Res :=
  if t.m ≠ 0 ∨ bits t.v 19 45 ≠ 0 then t.engine
  else match ((List.range 160).map (bits t.v 4 15 + ·)).find? fun ln => !(t.pre.allotted t.c t.env.ctx ln) with
    | some ln => t.window ln
    | none => f

/-- ACCSPILL: the tile is read at its start cycle; a line is written at the end of each run cycle. -/
def trigAccspill : TrigFn := fun t w =>
  t.imageCheck <| t.accStart w 160 fun o w =>
    t.softWords 0 4096 <| .ok (w.modCore t.c fun k => k.modEng fun e => { e with acc := some { o with sums := (t.tileCore (bits t.v 0 4)).tile (bits t.v 0 4) } })

/-- A fill with its next line read. -/
def EngineOp.fillRead (o : EngineOp) (k : Core) : EngineOp :=
  let n := o.step + 1
  { o with buf := Tab.set o.buf o.step (k.line (o.firstLine + o.step)), step := n
           due := if n < 160 then some (o.u + n) else none }

/-- ACCFILL: a line is read at the start of each run cycle, the first one now. -/
def trigAccfill : TrigFn := fun t w =>
  t.imageCheck <| t.accStart w 160 fun o w =>
    match t.pre.engineLines t.c [o.firstLine] with
    | some (.handle ln) => .trap (handleFault t.slot ln t.id)
    | some (.soft ln) => .trap (softError t.slot ln t.id)
    | some .absent => .hold 4 none
    | none => .ok ((w.fenced t.c).modCore t.c fun k => k.modEng fun e => { e with acc := some (o.fillRead t.k) })

/-- The acc operation `id` of core `k`. -/
def Core.accIs (k : Core) (id : Nat) : Option EngineOp := k.eng.acc.filter fun o => decide (o.id = id)

/-- ACCZ's last run cycle has passed: every word is +0. -/
def W.acczDone (w : W) (c : Nat) : W :=
  let k := w.core c
  match k.accIs 0x844 with
  | some o =>
    if o.u + o.dc ≤ k.pipe.run then
      (w.modCore c fun k => (k.setTile (bits o.trig 0 4) []).modEng fun e => { e with acc := none }).wake.stepDone c o
    else w
  | none => w

/-- A spill line whose run cycle has passed is written, while its buffer is the core's own. -/
def W.accspillLine (w : W) (c : Nat) : W :=
  let k := w.core c
  match k.accIs 0x845 with
  | some o =>
    if o.u + o.step + 1 ≤ k.pipe.run ∧ o.step < 160 then
      let ln := o.firstLine + o.step
      if !(w.lineRight c c (k.ctx.getD 0) ln .own) then w.engineHandle c ln o
      else
        let last := decide (o.step = 159)
        let w := w.modCore c fun k => (k.setLine ln (imageLine o.sums o.step)).modEng fun e =>
          { e with acc := if last then none else some { o with step := o.step + 1 } }
        if last then w.stepDone c o else w
    else w
  | none => w

/-- A fill's line that is due is read, while it is present and the core's own. -/
def W.accfillRead (w : W) (c : Nat) : W :=
  let k := w.core c
  match k.accIs 0x846 with
  | some o =>
    if o.behind k.pipe.run then
      match w.engineLines c [o.firstLine + o.step] with
      | some .absent => w
      | some (.handle ln) => w.engineHandle c ln o
      | some (.soft ln) => w.engineSoft c ln o
      | none => w.modCore c fun k => k.modEng fun e => { e with acc := some (o.fillRead k) }
    else w
  | none => w

/-- A fill whose last run cycle has passed: the tile is the image read. -/
def W.accfillDone (w : W) (c : Nat) : W :=
  let k := w.core c
  match k.accIs 0x846 with
  | some o =>
    if o.step = 160 ∧ o.u + o.dc ≤ k.pipe.run then
      (w.modCore c fun k => (k.setTile (bits o.trig 0 4) (imageTile o.buf)).modEng fun e =>
        { e with acc := none }).wake.stepDone c o
    else w
  | none => w

/-! ### The time-slot table (R198, R200) -/

/-- The table's state as `acc.r` shows it. -/
def SlotTab.word (x : SlotTab) : Nat :=
  x.ptr % 512 + x.entries.length % 512 * 2 ^ 9 + b2n x.rep * 2 ^ 18 + b2n x.done * 2 ^ 19 + b2n x.adm.isSome * 2 ^ 20

/-- The table of an image: header line and entry lines; `none` where R200 refuses it. -/
def slotImage (lines : List Line) : Option SlotTab :=
  match lines with
  | [] => none
  | h :: es =>
    let n := bits h 0 9
    let ws := (List.range n).map fun e =>
      let x : BitVec 32 := (es.getD (e / 32) 0).extractLsb' (32 * (e % 32)) 32
      x
    if n = 0 ∨ 256 < n ∨ bits h 10 1014 ≠ 0 ∨ ws.any fun x => decide (bits x 29 3 ≠ 0) then none
    else some { entries := ws, ptr := 0, rep := bitAt h 9, done := false, adm := none }

/-- PTR := 0, and DONE := 0 when there are entries. -/
def SlotTab.rewind (x : SlotTab) : SlotTab := { x with ptr := 0, done := x.done && x.entries.isEmpty }

/-- The item of ACCTS: the table as it is after the operation. -/
def TCtx.acctsItem (t : TCtx) (w : W) : Res :=
  .ok (w.addItem t.c
    { kind := .res, id := t.id, m := t.m, seq := t.seq, due := t.run + 4
      wr := [(0x840, lineOf (word (w.core t.c).slots.word))], bpc := word t.bpc })

/-- ACCTS M = 0: status. -/
def acctsStatus (t : TCtx) (w : W) : Res :=
  if t.v ≠ 0 then t.engine else t.accStart w 1 fun _ w => t.acctsItem w

/-- ACCTS M = 2: rewind, which waits while a copy is admitted. -/
def acctsRewind (t : TCtx) (w : W) : Res :=
  if t.v ≠ 0 then t.engine
  else t.accStart w 1 fun _ w =>
    if (w.core t.c).slots.adm.isSome then .hold 4 none
    else t.acctsItem (w.modCore t.c fun k => { k with slots := k.slots.rewind })

/-- The checks of one line that ACCTS reads. -/
def TCtx.tableLine (t : TCtx) (ln : Nat) : Option Cause := readCheck t.pre t.c t.env false t.slot t.id ln

/-- ACCTS M = 1: the table is loaded from lines. -/
def acctsLoad (t : TCtx) (w : W) : Res :=
  if bits t.v 15 49 ≠ 0 then t.engine
  else t.accStart w 1 fun _ w =>
    let f := bits t.v 0 15
    match t.tableLine f with
    | some x => .trap x
    | none =>
      if (w.core t.c).slots.adm.isSome ∨ !(t.k.present f) then .hold 4 none
      else
        let n := bits (t.k.line f) 0 9
        if n = 0 ∨ 256 < n then t.engine
        else
          let rest := (List.range ((n + 31) / 32)).map (f + 1 + ·)
          match rest.findSome? t.tableLine with
          | some x => .trap x
          | none =>
            if !(rest.all t.k.present) then .hold 4 none
            else match slotImage ((f :: rest).map t.k.line) with
              | none => t.engine
              | some x => t.acctsItem (w.modCore t.c fun k => { k with slots := x })

/-- ACCTS: the form that M selects. -/
def trigAccts : TrigFn := fun t w =>
  match t.m.toNat with
  | 0 => acctsStatus t w
  | 1 => acctsLoad t w
  | 2 => acctsRewind t w
  | _ => t.engine

def execAccrd (f : Slot) (s : State) := execTrigger (.accrd f) trigAccrd s
def execAccwr (f : Slot) (s : State) := execTrigger (.accwr f) trigAccwr s
def execAccadd (f : Slot) (s : State) := execTrigger (.accadd f) trigAccwr s
def execAccz (f : Slot) (s : State) := execTrigger (.accz f) trigAccz s
def execAccspill (f : Slot) (s : State) := execTrigger (.accspill f) trigAccspill s
def execAccfill (f : Slot) (s : State) := execTrigger (.accfill f) trigAccfill s
def execAcctsStatus (f : Slot0) (s : State) := execTrigger (.acctsStatus f) trigAccts s
def execAcctsLoad (f : Slot0) (s : State) := execTrigger (.acctsLoad f) trigAccts s
def execAcctsRewind (f : Slot0) (s : State) := execTrigger (.acctsRewind f) trigAccts s
/-- ACCZ_DONE. -/
def execAcczDone (c : Nat) (s : State) : Host.Outcome State Fault Refusal := go s ((W.of s).acczDone c)
/-- ACCSPILL_LINE. -/
def execAccspillLine (c : Nat) (s : State) : Host.Outcome State Fault Refusal := go s ((W.of s).accspillLine c)
/-- ACCFILL_LINE_READ. -/
def execAccfillLineRead (c : Nat) (s : State) : Host.Outcome State Fault Refusal := go s ((W.of s).accfillRead c)
/-- ACCFILL_DONE. -/
def execAccfillDone (c : Nat) (s : State) : Host.Outcome State Fault Refusal := go s ((W.of s).accfillDone c)

end Sys2Proof.Machine
end

