-- ==== Sys2Proof/Machine/XbCore.lean ====
section
/-!
DEFINITION. The arithmetic of a crossbar tile pair: reads, pulse draws, updates, transfers, read-out, programming, reset
(09 R203, R213..R224), as the nominal device model states it.
-/

namespace Sys2Proof.Machine

/-! ### A pair's registers and cells (R203) -/

def Pair.f (p : Pair) (i j : Nat) : Int := Tab.get 0 p.nF (1024 * i + j)
def Pair.c (p : Pair) (i j : Nat) : Int := Tab.get 0 p.nC (1024 * i + j)
def Pair.setF (p : Pair) (i j : Nat) (v : Int) : Pair := { p with nF := Tab.put 0 p.nF (1024 * i + j) v }
def Pair.setC (p : Pair) (i j : Nat) (v : Int) : Pair := { p with nC := Tab.put 0 p.nC (1024 * i + j) v }
def Pair.row (p : Pair) (i : Nat) : Int := Tab.get 0 p.sRow i
def Pair.col (p : Pair) (j : Nat) : Int := Tab.get 0 p.sCol j
/-- γ and w_step as values. -/
def Pair.gammaNum (p : Pair) : FNum := bf16 p.gamma
def Pair.wstepNum (p : Pair) : FNum := bf16 p.wstep
/-- The effective weight of a cell, exact (R203). -/
def Pair.weight (p : Pair) (i j : Nat) : FNum :=
  p.wstepNum.mul ((FNum.ofInt (p.c i j)).add (p.gammaNum.mul (FNum.ofInt (p.f i j - p.row i - p.col j))))

/-! ### Captured ports (R206) -/

/-- The window and the fields of an operation's ports. -/
def EngineOp.row0 (o : EngineOp) : Nat := bits (o.port 1) 0 10
def EngineOp.rows (o : EngineOp) : Nat := bits (o.port 2) 0 11
def EngineOp.col0 (o : EngineOp) : Nat := bits (o.port 3) 0 10
def EngineOp.cols (o : EngineOp) : Nat := bits (o.port 4) 0 11
def EngineOp.inb (o : EngineOp) : Nat := bits (o.port 5) 0 15
def EngineOp.outb (o : EngineOp) : Nat := bits (o.port 6) 0 15
def EngineOp.cb (o : EngineOp) : Nat := bits (o.port 7) 0 15
def EngineOp.isv (o : EngineOp) : Nat := bits (o.port 9) 0 12
def EngineOp.osv (o : EngineOp) : Nat := bits (o.port 10) 0 12
def EngineOp.xbNote (o : EngineOp) : Bool := bitAt (o.port 10) 12
def EngineOp.shC (o : EngineOp) : Nat := bits (o.port 11) 0 4
def EngineOp.shF (o : EngineOp) : Nat := bits (o.port 11) 4 4
def EngineOp.beta (o : EngineOp) : FNum := bf16 ((o.port 12).truncate 16)
/-- The slots L of XUPD and XFER. -/
def EngineOp.slotsL (o : EngineOp) : Nat := if o.id = 0x893 then bits o.trig 0 8 else bits (o.port 8) 0 8
/-- XFWD: inputs run over rows and outputs over columns; XBWD the other way. -/
def EngineOp.fwd (o : EngineOp) : Bool := decide (o.id = 0x891)
def EngineOp.nIn (o : EngineOp) : Nat := if o.fwd then o.rows else o.cols
def EngineOp.nOut (o : EngineOp) : Nat := if o.fwd then o.cols else o.rows
/-- The first index and number of bytes of XSPW and XSPR, and the axis. -/
def EngineOp.spFirst (o : EngineOp) : Nat := bits o.trig 0 10
def EngineOp.spCount (o : EngineOp) : Nat := bits o.trig 10 11 + 1
def EngineOp.spCol (o : EngineOp) : Bool := bitAt o.trig 21

/-! ### Reads (R214, R215) -/

/-- z / 2^sh rounded to the nearest integer, ties to even. -/
def rneShift (z : Int) (sh : Nat) : Int :=
  let r : Int := (roundInt z.natAbs (-(sh : Int)) : Nat)
  if z < 0 then -r else r

/-- E_x and EMPTY from a survey record. -/
def inputExp (r : SvRec) : Int × Bool :=
  let m := fp32 (BitVec.ofNat 32 (bits r 0 32))
  if bits r 96 32 = 0 ∨ m.isZero then (0, true) else if m.isInf then (128, false) else (m.exp2, false)

/-- The code of an input lane and whether it counts in CLIN. -/
def inputCode (ex : Int) (x : FNum) : Int × Bool :=
  match x with
  | .nan => (0, true)
  | .inf neg => (if neg then -127 else 127, true)
  | x =>
    let v := (x.scale (6 - ex)).toIntRne
    let c := clampInt (-127) 127 v
    (c, decide (v ≠ c))

/-- One conversion: the code and whether it was clamped. -/
def convert (z : Int) (sh : Nat) : Int × Bool :=
  let v := rneShift z sh
  let g := clampInt (-511) 511 v
  (g, decide (v ≠ g))

/-- Output o of a read with input codes `cs`, and the conversion codes clamped. -/
def readOutput (p : Pair) (o : EngineOp) (cs : List Int) (q : Nat) : FNum × Nat :=
  let cell (a : Nat) : Nat × Nat := if o.fwd then (o.row0 + a, o.col0 + q) else (o.row0 + q, o.col0 + a)
  let idx := (List.range cs.length).zip cs
  let sum (f : Nat → Nat → Int) : Int := idx.foldl (fun s x => if x.2 = 0 then s else s + x.2 * f (cell x.1).1 (cell x.1).2) 0
  let gC := convert (sum p.c) o.shC
  let gF := convert (sum p.f) o.shF
  let yF : Int := 2 ^ o.shF * gF.1 - sum fun i j => p.row i + p.col j
  let inner := (FNum.ofInt (2 ^ o.shC * gC.1)).add (p.gammaNum.mul (FNum.ofInt yF))
  ((p.wstepNum.scale (o.ex - 6)).mul inner, b2n gC.2 + b2n gF.2)

/-- The input lane q of the lines read. -/
def EngineOp.inLane (o : EngineOp) (q : Nat) : Lane := lane (Tab.get 0 o.buf (q / 64)) (q % 64)

/-- The whole read: outputs as BF16 patterns, CLIN and CLCV. -/
def arrayRead (p : Pair) (o : EngineOp) : List (BitVec 16) × Nat × Nat :=
  let cs := (List.range o.nIn).map fun q => inputCode o.ex (bf16 (o.inLane q))
  let ys := (List.range o.nOut).map fun q => readOutput p o (cs.map (·.1)) q
  (ys.map fun y => y.1.toBF16, (cs.filter fun x => x.2).length, (ys.map fun y => y.2).foldl (· + ·) 0)

/-- Output line q of a read's outputs, the lanes past the last one +0. -/
def outLine (ys : List (BitVec 16)) (q : Nat) : Line := ofLanes fun i => ys.getD (64 * q + i) 0

/-! ### Pulse draws (R218) -/

/-- Dice. -/
def dice (seed line slot : Nat) : Nat :=
  let h := (seed + 0x9E37 * line + 0x7F4B * slot) % 65536
  let h := h ^^^ (h >>> 7)
  let h := h * 0x5DB5 % 65536
  let h := h ^^^ (h >>> 9)
  h >>> 8
/-- Mag and Sgn of a pulse code. -/
def codeMag (c : BitVec 16) : Nat := Nat.min (bits c 0 9) 256
def codeSgn (c : BitVec 16) : Int := if bitAt c 15 then -1 else 1
/-- The lines of an axis that fire in a slot, with their codes. -/
def firing (seed slot first : Nat) (codes : List (BitVec 16)) : List (Nat × BitVec 16) :=
  (((List.range codes.length).zip codes).map fun x => (first + x.1, x.2)).filter fun x =>
    decide (dice seed x.1 slot < codeMag x.2)

/-! ### Update and transfer (R219, R220) -/

/-- A coincidence step of F. -/
def stepF (p : Pair) (i j : Nat) (s : Int) : Pair := p.setF i j (clampInt (-127) 127 (p.f i j + s))

/-- Slot k of an update: the pair after it and the coincidences. -/
def updateSlot (p : Pair) (o : EngineOp) (slot : Nat) : Pair × Nat :=
  let rc := (List.range o.rows).map fun q => lane (Tab.get 0 o.buf (q / 64)) (q % 64)
  let cc := (List.range o.cols).map fun q => lane (Tab.get 0 o.buf (64 + q / 64)) (q % 64)
  let fr := firing p.seedR.toNat slot o.row0 rc
  let fc := firing p.seedC.toNat slot o.col0 cc
  let sg (a b : BitVec 16) : Int := if bitAt o.trig 8 then -(codeSgn a * codeSgn b) else codeSgn a * codeSgn b
  (fr.foldl (fun p r => fc.foldl (fun p q => stepF p r.1 q.1 (sg r.2 q.2)) p) p, fr.length * fc.length)

/-- The seed after L slots. -/
def seedAfter (seed : BitVec 16) (n : Nat) : BitVec 16 := seed + BitVec.ofNat 16 (n * 0x7F4B)

/-- n · |β| · 256 / 127 rounded to the nearest integer, ties to even, at most 256. -/
def transferMag (n : Nat) (beta : FNum) : Nat :=
  match beta with
  | .fin _ m e =>
    let e8 := e + 8
    let num := n * m * 2 ^ e8.toNat
    let den := 127 * 2 ^ (-e8).toNat
    let q := num / den
    let r := num % den
    Nat.min 256 (if den < 2 * r ∨ (2 * r = den ∧ q % 2 = 1) then q + 1 else q)
  | _ => 0

/-- The pulse code of row i in a transfer of column c, and whether its F conversion was clamped. -/
def transferCode (p : Pair) (o : EngineOp) (i c : Nat) : BitVec 16 × Bool :=
  let g := convert (127 * p.f i c) o.shF
  let uq : Int := 2 ^ o.shF * g.1 - 127 * (p.row i + p.col c)
  (BitVec.ofNat 16 (b2n (decide (uq < 0)) * 2 ^ 15 + transferMag uq.natAbs o.beta), g.2)

/-- Slot k of a transfer of column TP. -/
def transferSlot (p : Pair) (o : EngineOp) (slot : Nat) : Pair × Nat :=
  let rc := (List.range o.rows).map fun a => (transferCode p o (o.row0 + a) p.tp).1
  let fr := firing p.seedR.toNat slot o.row0 rc
  (fr.foldl (fun p r => p.setC r.1 p.tp (clampInt (-1023) 1023 (p.c r.1 p.tp + codeSgn r.2))) p, fr.length)

/-- F conversions clamped in the read phase of a transfer. -/
def transferClamps (p : Pair) (o : EngineOp) : Nat :=
  ((List.range o.rows).filter fun a => (transferCode p o (o.row0 + a) p.tp).2).length

/-- The end of a transfer. -/
def transferEnd (p : Pair) (o : EngineOp) : Pair :=
  let p' := if bitAt o.trig 0 then
      (List.range o.rows).foldl (fun (x : Pair) a =>
        x.setF (o.row0 + a) p.tp (clampInt (-127) 127 (p.row (o.row0 + a) + p.col p.tp))) p
    else p
  { p' with seedR := seedAfter p.seedR o.slotsL, tp := o.col0 + (p.tp - o.col0 + 1) % o.cols }

/-! ### Read-out, programming, reset (R222..R224) -/

/-- RNE_FP32 of the effective weight. -/
def weightFP32 (p : Pair) (i j : Nat) : BitVec 32 := (p.weight i j).toFP32

/-- x / y rounded to the nearest integer, ties to even, for finite values with y > 0. -/
def rneDiv (x y : FNum) : Int :=
  match x, y with
  | .fin s m e, .fin _ n d =>
    if n = 0 then 0
    else
      let num := m * 2 ^ (e - d).toNat
      let den := n * 2 ^ (d - e).toNat
      let q := num / den
      let r := num % den
      let v : Int := (if den < 2 * r ∨ (2 * r = den ∧ q % 2 = 1) then q + 1 else q : Nat)
      if s then -v else v
  | _, _ => 0

/-- The C state of a target, and whether it counts in COUNT2: it lies beyond 1,023 steps (R217, 16 R351). -/
def programCell (wstep x : FNum) : Int × Bool :=
  match x with
  | .nan => (0, true)
  | .inf neg => (if neg then -1023 else 1023, true)
  | x =>
    let out := (wstep.mul (.ofInt 1023)).lt x || x.lt (wstep.mul (.ofInt (-1023)))
    (clampInt (-1023) 1023 (rneDiv x wstep), out)

/-- Element e of the 32-bit elements that the lines from INB hold, line of element e keyed by `key`. -/
def fpElem (buf : Tab Line) (key : Nat → Nat) (e : Nat) : BitVec 32 := lane32 (Tab.get 0 buf (key (e / 32))) (e % 32)

/-- Window column q programmed from its targets: the pair and the targets counted. -/
def programColumn (p : Pair) (o : EngineOp) (q : Nat) : Pair × Nat :=
  let first := q * o.rows / 32
  (List.range o.rows).foldl (fun (x : Pair × Nat) a =>
    let r := programCell p.wstepNum (fp32 (fpElem o.buf (fun l => 64 * q + (l - first)) (q * o.rows + a)))
    (x.1.setC (o.row0 + a) (o.col0 + q) r.1, x.2 + b2n r.2)) (p, 0)

/-- XRST: F at the rest states in the window. -/
def resetWindow (p : Pair) (o : EngineOp) : Pair :=
  (List.range o.rows).foldl (fun (x : Pair) a => (List.range o.cols).foldl (fun (x : Pair) b =>
    x.setF (o.row0 + a) (o.col0 + b) (clampInt (-127) 127 (p.row (o.row0 + a) + p.col (o.col0 + b)))) x) p

/-- XSPW: symmetry registers from the bytes read. -/
def writeSym (p : Pair) (o : EngineOp) : Pair :=
  (List.range o.spCount).foldl (fun (x : Pair) q =>
    let v := sext 8 (lineBytes (Tab.get 0 o.buf (q / 128)) (q % 128) 1)
    if o.spCol then { x with sCol := Tab.put 0 x.sCol (o.spFirst + q) v }
    else { x with sRow := Tab.put 0 x.sRow (o.spFirst + q) v }) p

/-- XSPR: line q of the symmetry registers. -/
def symLine (p : Pair) (o : EngineOp) (q : Nat) : Line :=
  packBytes ((List.range 128).map fun b =>
    let i := 128 * q + b
    if i < o.spCount then
      ((if o.spCol then p.col (o.spFirst + i) else p.row (o.spFirst + i)) % 256).toNat
    else 0)

/-! ### Settling (R211) -/

/-- The settle time between modes. -/
def settleTime (a b : Nat) : Nat :=
  if a = b then 0 else if (a ≤ 1 ∧ b ≤ 1) ∨ ((a = 2 ∨ a = 3) ∧ (b = 2 ∨ b = 3)) then 160 else 1600

end Sys2Proof.Machine
end

