-- ==== Sys2Proof/Machine/Xb.lean ====
section
/-!
DEFINITION. The crossbar's operations and their steps in time (09 R204, R207..R212, R216, R217, R221, R225).
-/

namespace Sys2Proof.Machine

/-! ### Lines that an operation touches (R209) -/

/-- ceil(n / d). -/
def ceilDiv (n d : Nat) : Nat := (n + d - 1) / d

/-- Lines read: line, key in the buffer, run cycle after u. -/
def EngineOp.xbReads (o : EngineOp) : List (Nat × Nat × Nat) :=
  let from_ (base key off n : Nat) : List (Nat × Nat × Nat) :=
    (List.range n).map fun q => (base + q, key + q, off + q / 4)
  match o.id with
  | 0x891 | 0x892 => from_ o.inb 0 0 (ceilDiv o.nIn 64)
  | 0x893 => from_ o.inb 0 0 (ceilDiv o.rows 64) ++ from_ o.cb 64 4 (ceilDiv o.cols 64)
  | 0x896 => from_ o.inb 0 0 (ceilDiv o.spCount 128)
  | 0x89a => ((List.range o.cols).map fun q =>
      let first := q * o.rows / 32
      let last := ((q + 1) * o.rows - 1) / 32
      (List.range (last + 1 - first)).map fun l => (o.inb + first + l, 64 * q + l, 16 + 256 * q)).flatten
  | _ => []

/-- Lines written whole: line and run cycle after u at whose end. -/
def EngineOp.xbWrites (o : EngineOp) : List (Nat × Nat) :=
  let from_ (off n : Nat) : List (Nat × Nat) := (List.range n).map fun q => (o.outb + q, off + q / 4)
  match o.id with
  | 0x891 | 0x892 => from_ 92 (ceilDiv o.nOut 64)
  | 0x897 => from_ 8 (ceilDiv o.spCount 128)
  | _ => []

/-- Every line an operation names. -/
def EngineOp.xbLines (o : EngineOp) : List Nat :=
  (o.xbReads.map (·.1)) ++ (o.xbWrites.map (·.1)) ++
    (if o.id = 0x899 then (List.range (ceilDiv (o.rows * o.cols) 32)).map (o.outb + ·) else [])

/-! ### Checks at the trigger (R207, R208, R210) -/

/-- Dc and Dt. -/
def EngineOp.xbTimes (o : EngineOp) : Nat × Nat :=
  match o.id with
  | 0x890 => (2, 2)
  | 0x891 | 0x892 => (12, 96)
  | 0x893 => (12, 16 * o.slotsL + 8)
  | 0x894 => (12, 96 + 16 * o.slotsL + 8)
  | 0x896 | 0x897 => (12, 12)
  | 0x899 => let n := 16 + 12 * 2 ^ bits o.trig 0 3 * o.cols; (n, n)
  | 0x89a => let n := 16 + 256 * o.cols; (n, n)
  | 0x89b => (4, 24)
  | _ => (1, 1)

/-- The modes an operation requires; none where it requires no mode. -/
def xbModes (id : Nat) : List Nat :=
  match id with
  | 0x891 => [0]
  | 0x892 => [1]
  | 0x893 => [2]
  | 0x894 => [3]
  | 0x899 | 0x89a => [4]
  | 0x89b => [2, 4]
  | _ => []

/-- The window ports, in range (R206). -/
def EngineOp.windowPortsOk (o : EngineOp) : Bool :=
  decide (bits (o.port 1) 10 54 = 0) && decide (bits (o.port 2) 11 53 = 0) && decide (bits (o.port 3) 10 54 = 0) &&
    decide (bits (o.port 4) 11 53 = 0) && decide (1 ≤ o.rows) && decide (o.row0 + o.rows ≤ 1024) &&
    decide (1 ≤ o.cols) && decide (o.col0 + o.cols ≤ 1024)
/-- The reserved bits of a port from bit `n` up. -/
def EngineOp.portOk (o : EngineOp) (i n : Nat) : Bool := decide (bits (o.port i) n (64 - n) = 0)
/-- A finite BF16 value. -/
def bf16Finite (x : BitVec 16) : Bool := !(bf16 x).isNan && !(bf16 x).isInf

/-- The column of a transfer. -/
def EngineOp.xferCol (o : EngineOp) (tp : Nat) : Nat := if bitAt o.trig 1 then bits (o.port 13) 0 10 else tp

/-- The trigger value and the ports an operation uses (R210 order 1). -/
def EngineOp.xbFieldsOk (o : EngineOp) (tp : Nat) : Bool :=
  let v := o.trig
  o.portOk 0 3 &&
  match o.id with
  | 0x890 => decide (v.toNat ≤ 4)
  | 0x891 | 0x892 => decide (v = 0) && o.windowPortsOk && o.portOk 5 15 && o.portOk 6 15 && o.portOk 9 12 &&
      o.portOk 10 13 && o.portOk 11 8
  | 0x893 => decide (bits v 9 55 = 0) && decide (bits v 0 8 ≠ 0) && o.windowPortsOk && o.portOk 5 15 && o.portOk 7 15
  | 0x894 => decide (bits v 2 62 = 0) && o.windowPortsOk && o.portOk 8 8 && decide (bits (o.port 8) 0 8 ≠ 0) &&
      o.portOk 12 16 && bf16Finite ((o.port 12).truncate 16) && o.portOk 11 8 && (!bitAt v 1 || o.portOk 13 10) &&
      decide (o.col0 ≤ o.xferCol tp) && decide (o.xferCol tp < o.col0 + o.cols)
  | 0x895 => decide (bits v 32 32 = 0) && bf16Finite (v.truncate 16) && bf16Finite ((v >>> 16).truncate 16) &&
      (FNum.fin false 0 0).lt (bf16 ((v >>> 16).truncate 16))
  | 0x896 => decide (bits v 22 42 = 0) && o.portOk 5 15 && decide (o.spFirst + o.spCount ≤ 1024)
  | 0x897 => decide (bits v 22 42 = 0) && o.portOk 6 15 && decide (o.spFirst + o.spCount ≤ 1024)
  | 0x898 => decide (bits v 32 32 = 0)
  | 0x899 => decide (v.toNat ≤ 6) && o.windowPortsOk && o.portOk 6 15
  | 0x89a => decide (v = 0) && o.windowPortsOk && o.portOk 5 15
  | 0x89b => decide (v = 0) && o.windowPortsOk
  | _ => decide (bits v 2 62 = 0)

/-- Whether context `ctx` owns pair `p` of core `c` (R204). -/
def State.ownsPair (s : State) (c ctx p : Nat) : Bool :=
  let e := Tab.get 0 (s.die (dieOf c)).owner (onDie c)
  bitAt e (8 * p + 7) && decide (bits e (8 * p) 6 = ctx)

/-- A pair of a core. -/
def Core.pair (k : Core) (p : Nat) : Pair := Tab.get {} k.pairs p
/-- A pair of a core changed. -/
def Core.setPair (k : Core) (p : Nat) (x : Pair) : Core := { k with pairs := Tab.put {} k.pairs p x }

/-- Survey ids that an operation uses (R210 order 2). -/
def EngineOp.xbSurveys (o : EngineOp) : List Nat :=
  if o.id = 0x891 ∨ o.id = 0x892 then o.isv :: (if o.xbNote then [o.osv] else []) else []

/-- R208 forbids the start: the controller is not free, an operation waits, or the pair is taken. -/
def Core.xbTaken (k : Core) (o : EngineOp) : Bool :=
  (k.eng.xb.any fun x => !x.started && !x.again) ||
  (k.eng.xb.any fun x => decide (o.u < x.u + x.dc)) ||
  (decide (o.id ≠ 0x89c) &&
    ((k.eng.xb.any fun x => decide (x.id ≠ 0x89c) && decide (x.pair = o.pair) && spansMeet x.u x.dt o.u o.dt) ||
     (k.stopped.any fun x => (x.1.started || x.1.again) && decide (x.1.pair = o.pair))))

/-! ### The start cycle (R212, 15 R337) -/

/-- Clock cycles of settle that remain. -/
def Pair.settleLeft (p : Pair) (clk : Nat) : Nat := p.settle - clk

/-- The view of XSTAT (R221). -/
def Core.xbView (k : Core) (n sel clk : Nat) : Word :=
  let p := k.pair n
  let st := k.stopped.find? fun x => decide (x.1.pair = n) && (x.1.started || x.1.again)
  let busy := st.isSome || k.eng.xb.any fun x => decide (x.pair = n) && decide (x.id ≠ 0x89c) && x.started
  match sel with
  | 0 => word (p.mode + b2n (decide (p.settleLeft clk = 0)) * 2 ^ 3 + p.settleLeft clk % 2 ^ 11 * 2 ^ 4 +
      b2n busy * 2 ^ 15 + p.tp * 2 ^ 16)
  | 1 => word (p.seedR.toNat + p.seedC.toNat * 2 ^ 16)
  | 2 => word (p.gamma.toNat + p.wstep.toNat * 2 ^ 16)
  | _ => match st with
    | some (o, _) => if o.id = 0x893 ∨ o.id = 0x894 then word (o.slotsL % 256 + o.outs % 256 * 2 ^ 8) else 0
    | none => 0

/-- The reads due at run cycle `run`, of those not yet done. -/
def EngineOp.readsDue (o : EngineOp) (run : Nat) : List (Nat × Nat × Nat) :=
  (o.xbReads.drop o.step).takeWhile fun r => decide (o.u + r.2.2 ≤ run)

/-- The operation with lines of core `k` taken into its buffer. -/
def EngineOp.takeReads (o : EngineOp) (k : Core) (l : List (Nat × Nat × Nat)) : EngineOp :=
  let n := o.step + l.length
  { o with step := n, buf := l.foldl (fun b r => Tab.set b r.2.1 (k.line r.1)) o.buf
           due := (o.xbReads[n]?).map fun r => o.u + r.2.2 }

/-- The operation at its start cycle: the input exponent is taken; one that restarts keeps the exponent and the codes that it has
captured (R225). -/
def EngineOp.xbBegin (o : EngineOp) (s : State) (c : Nat) : EngineOp :=
  if o.again then
    { o with started := true, again := false, outs := 0, count1 := 0, count2 := 0
             due := (o.xbReads[o.step]?).map fun r => o.u + r.2.2 }
  else
  let e := if o.id = 0x891 ∨ o.id = 0x892 then inputExp (s.surveyRead (dieOf c) o.isv) else (0, false)
  { o with started := true, again := false, step := 0, outs := 0, buf := [], ex := e.1, empty := e.2, count1 := 0
           count2 := 0, due := (o.xbReads.head?).map fun r => o.u + r.2.2 }

/-- What follows from a start at once: an XSTAT's view is on its way to `xb.r`. -/
def W.xbStartEffect (w : W) (s : State) (c : Nat) (o : EngineOp) : W :=
  if o.id = 0x89c then
    w.addItem c { kind := .res, id := o.id, m := o.m, seq := o.seq, due := o.u + 2, bpc := o.bpc
                  wr := [(0x880, lineOf ((s.core c).xbView o.pair (bits o.trig 0 2) s.clk))] }
  else w

/-- A start that draws (R208, 15 R337). -/
def xbSlewed (id : Nat) : Bool := xbDraws id

/-- A crossbar trigger. -/
def trigXb : TrigFn := fun t w =>
  let k := w.core t.c
  let o0 : EngineOp :=
    { id := t.id, m := t.m, trig := t.v, ports := (List.range 14).map fun i => k.regs.portW (0x880 + i), seq := t.seq
      u := t.run + t.dxb, dc := 0, dt := 0, due := some (t.run + t.dxb), bpc := word t.bpc, stepped := t.k.stepArm
      agent := t.agent }
  let o : EngineOp := { o0 with dc := o0.xbTimes.1, dt := o0.xbTimes.2 }
  let p := t.k.pair o.pair
  if !t.env.bound ∨ t.m ≠ 0 ∨ !(o.xbFieldsOk p.tp) then t.engine
  else if !(t.pre.ownsPair t.c t.env.ctx o.pair) then t.window o.pair
  else match o.xbSurveys.find? fun n => !(t.env.svOk n) with
    | some n => t.window n
    | none =>
      match o.xbLines.find? fun ln => !(t.pre.allotted t.c t.env.ctx ln) with
      | some ln => t.window ln
      | none =>
        if t.k.xbTaken o then t.engine
        else if xbModes o.id ≠ [] ∧ !((xbModes o.id).contains p.mode) then t.engine
        else if o.u ≠ t.run then
          .ok (w.modCore t.c fun k => k.modEng fun e => { e with xb := e.xb ++ [o] })
        else
          let wxb := (w.die (dieOf t.c)).wxb (clusterOf t.c)
          let ask : Option SlewReq :=
            if xbSlewed o.id && decide (t.k.ctl.res < wxb) then some { core := t.c, eng := 1, seq := t.seq, w := wxb } else none
          if xbModes o.id ≠ [] ∧ t.pre.clk < p.settle then .hold 4 ask
          else match (if xbSlewed o.id then w.askStart t.c 1 wxb else some w) with
            | none => .hold 4 ask
            | some w =>
              let o := o.xbBegin t.pre t.c
              let l := o.readsDue t.run
              match t.pre.engineLines t.c (l.map (·.1)) with
              | some (.handle ln) => .trap (handleFault t.slot ln t.id)
              | some (.soft ln) => .trap (softError t.slot ln t.id)
              | some .absent => .hold 4 none
              | none =>
                let o := o.takeReads t.k l
                .ok ((w.modCore t.c fun k => k.modEng fun e => { e with xb := e.xb ++ [o] }).xbStartEffect t.pre t.c o)

/-! ### Steps of an operation -/

/-- The started operation on pair `p`; XSTAT holds none. -/
def Core.xbOn (k : Core) (p : Nat) : Option EngineOp :=
  k.eng.xb.find? fun o => decide (o.pair = p) && decide (o.id ≠ 0x89c) && o.started
/-- That operation replaced, or ended. -/
def Core.putXb (k : Core) (o : EngineOp) (o' : Option EngineOp) : Core :=
  k.modEng fun e => { e with xb := (e.xb.map fun x => if x.seq = o.seq then o'.toList else [x]).flatten }

/-- Waiting operations whose start cycle is due start, when their pair has settled and their grant, which they ask for at
once, is there (R212; 15 R337). -/
def W.xbStart (w : W) (c : Nat) : W :=
  let k := w.core c
  (k.eng.xb.filter fun o => !o.started && o.behind k.pipe.run).foldl (fun w o =>
    let p := (w.core c).pair o.pair
    let wxb := (w.die (dieOf c)).wxb (clusterOf c)
    let go (w : W) : W :=
      let o' := o.xbBegin w.toState c
      (w.modCore c fun k => k.putXb o (some o')).xbStartEffect w.toState c o'
    let ask (w : W) : W := w.modSlew c fun l => l.ask { core := c, eng := 1, seq := o.seq, w := wxb, since := w.clk }
    if xbModes o.id ≠ [] ∧ w.clk < p.settle then
      if xbSlewed o.id && !o.again && decide ((w.core c).ctl.res < wxb) then ask w else w
    else if !(xbSlewed o.id) || o.again then go w
    else match w.askStart c 1 wxb with
      | some w => go w
      | none => ask w) w

/-- XB_LINE_READ: the lines that are due are read, when they are present and the core's own. -/
def W.xbLineRead (w : W) (c p : Nat) : W :=
  let k := w.core c
  match k.xbOn p with
  | some o =>
    if o.behind k.pipe.run then
      let l := o.readsDue k.pipe.run
      match w.engineLines c (l.map (·.1)) with
      | some .absent => w
      | some (.handle ln) => w.engineHandle c ln o
      | some (.soft ln) => w.engineSoft c ln o
      | none => w.modCore c fun k => k.putXb o (some (o.takeReads k l))
    else w
  | none => w

/-- One output line written at the end of its run cycle; the line that `f` gives. -/
def W.xbWriteLine (w : W) (c : Nat) (o : EngineOp) (f : Nat → Line) : W :=
  match o.xbWrites[o.outs]? with
  | some (ln, off) =>
    if o.u + off + 1 ≤ (w.core c).pipe.run then
      if !(w.lineRight c c ((w.core c).ctx.getD 0) ln .own) then w.engineHandle c ln o
      else w.modCore c fun k => (k.setLine ln (f o.outs)).putXb o (some { o with outs := o.outs + 1 })
    else w
  | none => w

/-- XB_OUTPUT_WRITE: the next output line of a read, or a column of a read-out; after the last line, the note (R216). -/
def W.xbOutput (w : W) (c p : Nat) : W :=
  let k := w.core c
  match k.xbOn p with
  | some o =>
    if o.id = 0x891 ∨ o.id = 0x892 then
      if o.step < o.xbReads.length then w
      else if o.outs < o.xbWrites.length then
        w.xbWriteLine c o fun q => outLine (arrayRead (k.pair p) o).1 q
      else if o.xbNote ∧ o.outs = o.xbWrites.length ∧ o.u + 96 ≤ k.pipe.run then
        let r := w.noteRec (dieOf c) o.osv ((arrayRead (k.pair p) o).1.map bf16)
        let w := r.1.modCore c fun k => k.putXb o (some { o with outs := o.outs + 1 })
        if r.2 then w.engineRescale c (dieOf c) o.osv o else w
      else w
    else w
  | none => w

/-- XSPR_OUTPUT_WRITE: the next line of symmetry registers. -/
def W.xsprOutput (w : W) (c p : Nat) : W :=
  match (w.core c).xbOn p with
  | some o => if o.id = 0x897 then w.xbWriteLine c o (symLine ((w.core c).pair p) o) else w
  | none => w

/-- The operation on a pair that a slot or column step is for: running, or stopped with begun ones to finish (R225). -/
def Core.xbSlotOp (k : Core) (p id : Nat) : Option (EngineOp × Bool) :=
  match (k.xbOn p).filter fun o => decide (o.id = id) with
  | some o => some (o, true)
  | none => ((k.stopped.find? fun x => decide (x.1.pair = p) && decide (x.1.id = id) && decide (x.1.outs < x.1.begun)).map
      fun x => (x.1, false))
/-- A slot or column that had begun before a stop, `last` run cycles after u, ends now in real time. -/
def EngineOp.slotEnds (o : EngineOp) (clk last : Nat) : Bool :=
  decide (o.outs < o.begun) && decide (last ≤ o.stopRan + (clk - o.stopClk))
/-- The operation replaced, running or stopped. -/
def Core.putSlotOp (k : Core) (o : EngineOp) (running : Bool) (o' : EngineOp) : Core :=
  if running then k.putXb o (some o')
  else { k with stopped := k.stopped.map fun x => if x.1.seq = o.seq then (o', x.2) else x }
/-- A counter that saturates at 2^24 − 1 (R217). -/
def sat24 (n : Nat) : Nat := Nat.min n (2 ^ 24 - 1)

/-- One slot or column of an operation on pair `p`, done when its last run cycle has passed or, begun before a stop, in real time:
`last n` counts run cycles from u to the end of number n, `f` gives the pair after it and the counts. -/
def W.xbSlot (w : W) (c p id : Nat) (total : EngineOp → Nat) (last : EngineOp → Nat → Nat)
    (f : Pair → EngineOp → Nat → Pair × Nat × Nat) : W :=
  let k := w.core c
  match k.xbSlotOp p id with
  | some (o, running) =>
    let ready := o.slotEnds w.clk (last o o.outs) || (running && decide (o.outs < total o) &&
      decide (o.u + last o o.outs ≤ k.pipe.run) && decide (o.step = o.xbReads.length ∨ id = 0x89a))
    if ready then
      let r := f (k.pair p) o o.outs
      w.modCore c fun k => (k.setPair p r.1).putSlotOp o running
        { o with outs := o.outs + 1, count1 := sat24 (o.count1 + r.2.1), count2 := sat24 (o.count2 + r.2.2) }
    else w
  | none => w

/-- XUPD_SLOT. -/
def W.xupdSlot (w : W) (c p : Nat) : W :=
  w.xbSlot c p 0x893 EngineOp.slotsL (fun _ n => 24 + 16 * n) fun x o n =>
    let r := updateSlot x o n
    (r.1, r.2, 0)
/-- TP of a transfer with PSET, in its run cycle u: a stop at u comes before it (R220, R225). -/
def W.xferPset (w : W) (c p : Nat) : W :=
  match (w.core c).xbOn p with
  | some o =>
    if o.id = 0x894 ∧ bitAt o.trig 1 ∧ o.u < (w.core c).pipe.run then
      w.modCore c fun k => k.setPair p { k.pair p with tp := bits (o.port 13) 0 10 }
    else w
  | none => w
/-- XFER_SLOT. -/
def W.xferSlot (w : W) (c p : Nat) : W :=
  (w.xferPset c p).xbSlot c p 0x894 EngineOp.slotsL (fun _ n => 120 + 16 * n) fun x o n =>
    let r := transferSlot x o n
    (r.1, r.2, if n = 0 then transferClamps x o else 0)
/-- XPRG_COLUMN. -/
def W.xprgColumn (w : W) (c p : Nat) : W :=
  w.xbSlot c p 0x89a EngineOp.cols (fun _ n => 272 + 256 * n) fun x o n =>
    let r := programColumn x o n
    (r.1, o.rows, r.2)

/-- The lines of a read-out's column with their new contents. -/
def readoutLines (k : Core) (p : Pair) (o : EngineOp) (q : Nat) : List (Nat × Line) :=
  let first := q * o.rows
  let lines := (List.range ((first + o.rows - 1) / 32 + 1 - first / 32)).map (first / 32 + ·)
  lines.map fun l => (o.outb + l, ofLanes32 fun i =>
    let e := 32 * l + i
    if first ≤ e ∧ e < first + o.rows then weightFP32 p (o.row0 + (e - first)) (o.col0 + q)
    else lane32 (k.line (o.outb + l)) i)

/-- XRDAVG_COLUMN: the elements of the next column are written. -/
def W.xrdavgColumn (w : W) (c p : Nat) : W :=
  let k := w.core c
  match k.xbSlotOp p 0x899 with
  | some (o, running) =>
    let per := 12 * 2 ^ bits o.trig 0 3
    let last := 16 + per * (o.outs + 1)
    let ready := running && decide (o.outs < o.cols) && decide (o.u + last ≤ k.pipe.run)
    if ready then
      let l := readoutLines k (k.pair p) o o.outs
      match l.find? fun e => !(w.lineRight c c (k.ctx.getD 0) e.1 .own) with
      | some e => w.engineHandle c e.1 o
      | none => w.modCore c fun k =>
          (l.foldl (fun k e => k.setLine e.1 e.2) k).putSlotOp o running
            { o with outs := o.outs + 1, count1 := sat24 (o.count1 + o.rows) }
    else w
  | none => w

/-- XB_MODE_TAKE: MODE takes the new value, and the pair settles (R211). -/
def W.xbModeTake (w : W) (c p : Nat) : W :=
  let k := w.core c
  match k.xbOn p with
  | some o =>
    if o.id = 0x890 ∧ o.u + 2 ≤ k.pipe.run then
      let x := k.pair p
      let m := bits o.trig 0 3
      let x' : Pair := if m = x.mode then x else
        { x with mode := m, prev := x.mode, unsettled := false, settle := w.clk + settleTime x.mode m }
      (w.modCore c fun k => (k.setPair p x').putXb o none).stepDone c o
    else w
  | none => w

/-- XSPW_APPLY. -/
def W.xspwApply (w : W) (c p : Nat) : W :=
  let k := w.core c
  match k.xbOn p with
  | some o =>
    if o.id = 0x896 ∧ o.step = o.xbReads.length ∧ o.u + 12 ≤ k.pipe.run then
      (w.modCore c fun k => (k.setPair p (writeSym (k.pair p) o)).putXb o none).stepDone c o
    else w
  | none => w

/-- XRST_APPLY: the window of F takes its rest states. -/
def W.xrstApply (w : W) (c p : Nat) : W :=
  let k := w.core c
  match k.xbOn p with
  | some o =>
    if o.id = 0x89b ∧ o.outs = 0 ∧ o.u + 24 ≤ k.pipe.run then
      w.modCore c fun k => (k.setPair p (resetWindow (k.pair p) o)).putXb o
        (some { o with outs := 1, count1 := sat24 (o.rows * o.cols) })
    else w
  | none => w

/-- XB_SETTLE_END. -/
def W.xbSettleEnd (w : W) (c p : Nat) : W :=
  let x := (w.core c).pair p
  if x.settle ≠ 0 ∧ x.settle ≤ w.clk then w.modCore c fun k => k.setPair p { x with settle := 0 } else w

/-- Everything an operation does before its end has been done. -/
def EngineOp.xbReady (o : EngineOp) : Bool :=
  match o.id with
  | 0x891 | 0x892 => decide (o.step = o.xbReads.length) && decide (o.outs = o.xbWrites.length + b2n o.xbNote)
  | 0x893 | 0x894 => decide (o.outs = o.slotsL)
  | 0x899 | 0x89a => decide (o.outs = o.cols)
  | 0x89b => decide (o.outs = 1)
  | 0x897 => decide (o.outs = o.xbWrites.length)
  | 0x890 | 0x896 => false
  | _ => true

/-- The pair after the end of an operation: XGAMMA, XSEED, and the seeds and TP of an update or transfer. -/
def EngineOp.endPair (o : EngineOp) (x : Pair) : Pair :=
  match o.id with
  | 0x893 => { x with seedR := seedAfter x.seedR o.slotsL, seedC := seedAfter x.seedC o.slotsL }
  | 0x894 => transferEnd x o
  | 0x895 =>
    let flush (v : BitVec 16) : BitVec 16 := (bf16 v).toBF16
    { x with gamma := flush (o.trig.truncate 16), wstep := flush ((o.trig >>> 16).truncate 16) }
  | 0x898 => { x with seedR := o.trig.truncate 16, seedC := (o.trig >>> 16).truncate 16 }
  | _ => x

/-- The status word (R217); `none` for an operation without one. -/
def EngineOp.xbStatus (o : EngineOp) (x : Pair) : Option Word :=
  let r := arrayRead x o
  let st (op : Nat) (empty spec : Bool) (a b : Nat) : Option Word :=
    some (word (op + o.pair * 2 ^ 4 + b2n empty * 2 ^ 7 + b2n spec * 2 ^ 8 + sat24 a * 2 ^ 16 + sat24 b * 2 ^ 40))
  match o.id with
  | 0x891 | 0x892 => st (o.id - 0x890) o.empty (r.1.any fun y => (bf16 y).isInf) r.2.1 r.2.2
  | 0x893 | 0x894 => st (o.id - 0x890) false false o.count1 o.count2
  | 0x899 => st 5 false false o.count1 o.count2
  | 0x89a => st 6 false false o.count1 o.count2
  | 0x89b => st 7 false false o.count1 o.count2
  | _ => none

/-- XB_STATUS: an operation whose tile time has passed ends on its pair. -/
def W.xbStatus (w : W) (c p : Nat) : W :=
  -- an XSTAT has no more to do once its cycle has passed
  let w := w.modCore c fun k => k.modEng fun e =>
    { e with xb := e.xb.filter fun o => !(decide (o.id = 0x89c) && o.started && decide (o.u + 1 ≤ k.pipe.run)) }
  let k := w.core c
  match k.xbOn p with
  | some o =>
    if o.xbReady && decide (o.u + o.dt ≤ k.pipe.run) then
      let x := k.pair p
      (w.modCore c fun k =>
        let k := (k.setPair p (o.endPair x)).putXb o none
        match o.xbStatus x with
        | some v => k.modRegs fun r => r.setResult 0x881 (lineOf v)
        | none => k).stepDone c o
    else w
  | none => w

def execXmode (f : Slot) (s : State) := execTrigger (.xmode f) trigXb s
def execXfwd (f : Slot) (s : State) := execTrigger (.xfwd f) trigXb s
def execXbwd (f : Slot) (s : State) := execTrigger (.xbwd f) trigXb s
def execXupd (f : Slot) (s : State) := execTrigger (.xupd f) trigXb s
def execXfer (f : Slot) (s : State) := execTrigger (.xfer f) trigXb s
def execXgamma (f : Slot) (s : State) := execTrigger (.xgamma f) trigXb s
def execXspw (f : Slot) (s : State) := execTrigger (.xspw f) trigXb s
def execXspr (f : Slot) (s : State) := execTrigger (.xspr f) trigXb s
def execXseed (f : Slot) (s : State) := execTrigger (.xseed f) trigXb s
def execXrdavg (f : Slot) (s : State) := execTrigger (.xrdavg f) trigXb s
def execXprg (f : Slot) (s : State) := execTrigger (.xprg f) trigXb s
def execXrst (f : Slot) (s : State) := execTrigger (.xrst f) trigXb s
def execXstat (f : Slot) (s : State) := execTrigger (.xstat f) trigXb s
def execXbSettleEnd (c k : Nat) (s : State) : Host.Outcome State Fault Refusal := go s ((W.of s).xbSettleEnd c k)
def execXbOutputWrite (c k : Nat) (s : State) : Host.Outcome State Fault Refusal := go s ((W.of s).xbOutput c k)
def execXbStatus (c k : Nat) (s : State) : Host.Outcome State Fault Refusal := go s ((W.of s).xbStatus c k)
def execXupdSlot (c k : Nat) (s : State) : Host.Outcome State Fault Refusal := go s ((W.of s).xupdSlot c k)
def execXferSlot (c k : Nat) (s : State) : Host.Outcome State Fault Refusal := go s ((W.of s).xferSlot c k)
def execXrdavgColumn (c k : Nat) (s : State) : Host.Outcome State Fault Refusal := go s ((W.of s).xrdavgColumn c k)
def execXprgColumn (c k : Nat) (s : State) : Host.Outcome State Fault Refusal := go s ((W.of s).xprgColumn c k)
def execXrstApply (c k : Nat) (s : State) : Host.Outcome State Fault Refusal := go s ((W.of s).xrstApply c k)
def execXspwApply (c k : Nat) (s : State) : Host.Outcome State Fault Refusal := go s ((W.of s).xspwApply c k)
def execXbLineRead (c k : Nat) (s : State) : Host.Outcome State Fault Refusal := go s ((W.of s).xbLineRead c k)
def execXsprOutputWrite (c k : Nat) (s : State) : Host.Outcome State Fault Refusal := go s ((W.of s).xsprOutput c k)
def execXbModeTake (c k : Nat) (s : State) : Host.Outcome State Fault Refusal := go s ((W.of s).xbModeTake c k)

end Sys2Proof.Machine
end

