-- ==== Sys2Proof/Machine/Cover.lean ====
section
/-!
DEFINITION. What a release covers before it is performed at its home (11 R256, R259, R260).
-/

namespace Sys2Proof.Machine

/-- The bytes of this package that the lock-step engines of core `c` have still to write, with the order of the operation:
the matrix unit's tile, the accumulator engine's tile or lines, output lines of the crossbar, lines of write streams. -/
def State.engineWrites (s : State) (c : Nat) : List (Nat × Nat × Nat) :=
  let k := s.core c
  let base := c * 2 ^ 35
  let tile (t : Nat) : Nat × Nat := (base + 0x1000000 + 20480 * t, 20480)
  let lines (ln n : Nat) : Nat × Nat := (base + 128 * ln, 128 * n)
  ((k.eng.mx.toList ++ k.eng.mxWait.toList).filter fun o => isMma o.id).map (fun o => (o.seq, tile o.mxTile)) ++
    (k.eng.acc.toList.filterMap fun o =>
      if o.id = 0x844 ∨ o.id = 0x846 then some (o.seq, tile (bits o.trig 0 4))
      else if o.id = 0x845 then some (o.seq, lines o.firstLine 160) else none) ++
    ((k.eng.xb ++ k.stopped.map (·.1)).map fun o =>
      (o.xbWrites.map fun e => (o.seq, lines e.1 1)) ++
        (if o.id = 0x899 then [(o.seq, lines o.outb (ceilDiv (o.rows * o.cols) 32))] else [])).flatten ++
    (k.eng.streams.map fun e => e.2.wbuf.map fun ln => (0, lines ln 1)).flatten

/-- Core `c` has a write to one of these regions under way that came before trigger `seq`: an at operation or STA that is
not performed, also where its task has left the core since, or a write of an engine. -/
def State.writesOpen (s : State) (c seq : Nat) (regions : List (Nat × Nat)) : Bool :=
  let hit (p : Option (Nat × Nat)) : Bool := regions.any fun r => overlap p (some r)
  ((s.tasksOpen c true).any fun a => decide (a.seq < seq) && (atWrites a.op || decide (a.op = 0x192)) && hit (s.atSpan a)) ||
    (s.engineWrites c).any fun e => decide (e.1 < seq) && hit (some e.2)
/-- A stopped operation of the task of `a`, beneath a handler or with a saved record, has still to write to one of these regions
(R267). -/
def State.stoppedWrites (s : State) (c : Nat) (a : AtOp) (regions : List (Nat × Nat)) : Bool :=
  (s.beneath c a).any fun b => match b with
    | .op o => decide (o.seq < a.seq) && match o.tileWritten with
        | some t => regions.any fun r => overlap (some (tileSpan c t)) (some r)
        | none => decide (o.id = 0x845) && regions.any fun r => overlap (some (c * 2 ^ 35 + 128 * o.firstLine, 20480)) (some r)
    | _ => false
/-- An access of the task that comes before its operation `n` and is not performed: an earlier at operation that reads, a load
whose data has not been read, a lock-step engine's operation that reads lines or tiles (R260). -/
def State.readsOpen (s : State) (c n : Nat) (a : AtOp) : Bool :=
  ((s.earlierAts c n a).any fun b => decide (b.op = 0x282 ∨ b.op = 0x28b) || (atWrites b.op && decide (b.op ≠ 0x283))) ||
    ((s.earlierItems c a).any fun it => isLoad it.id && decide (it.await ≠ .ready)) ||
    (s.earlierOps c a).any fun o => decide (o.id ≠ 0x844) && decide (o.id ≠ 0x305)
/-- A write of the task that comes before its operation `n` and is not published (R259). -/
def State.allOpen (s : State) (c n : Nat) (a : AtOp) : Bool :=
  ((s.earlierAts c n a).any fun b => atWrites b.op || decide (b.op = 0x192)) ||
    (s.engineWrites c).any (fun e => decide (e.1 < a.seq) && !((s.core c).stopped.any fun x => decide (x.1.seq = e.1))) ||
    !(s.earlierOps c a).isEmpty

/-- What release `n` of core `c` must still wait for: an earlier read of the task that has not been performed, and an earlier
write: to a region bound to its word, or any where a fence made it a release, or where another package keeps the bindings of its
word (R256, R259, R260, R262). -/
def State.coverOpen (s : State) (c n : Nat) (a : AtOp) : Bool :=
  let v := word (bits a.addr 0 48)
  a.rel.isSome && !a.mute && (s.readsOpen c n a ||
    if a.cover || s.isFar a then s.allOpen c n a
    else match s.atHome a.ctx a.addr with
      | none => false
      | some (o, _) =>
        let regions := s.boundTo c a.tid o a.ctx v
        s.writesOpen c a.seq regions || s.stoppedWrites c a regions)

/-- RELEASE_PERFORM: a release is performed once what it covers is published. -/
def execReleasePerform (c n : Nat) (s : State) : Host.Outcome State Fault Refusal :=
  go s ((W.of s).tryAt c n fun a => decide (a.rel ≠ none) && !(s.coverOpen c n a))

/-! ### STA (05 R140) -/

/-- Accumulator words of core `c` itself. -/
def Loc.ownWords (l : Loc) (c : Nat) : Bool := match l with | .acc o _ => decide (o = c) | _ => false
/-- An STA of the bundle that waits for its turn. -/
def TCtx.staOp (t : TCtx) (w : W) (addr : Word) (rel : Option Nat) : AtOp :=
  { seq := t.seq, op := 0x192, addr := addr, x := word (staSize t.m), m := t.m, ctx := t.env.ctx, rel := rel, cover := rel.isSome
    y := word (b2n t.env.priv + 2 * b2n t.env.tier), line := (w.core t.c).regs.port 0x180 }

/-- STA (R140). One that another pending operation of the task on its bytes precedes, or that goes to another package, keeps
its place behind them (11 R260, 14 R319); one to a place that is held waits there (08 R190), and one to the core's own
accumulator words comes after a matrix operation that its bundle starts. To a sync word after a release fence it is a release
that covers every earlier write (11 R262). -/
def trigSta : TrigFn := fun t w =>
  let g := (w.core t.c).regs
  let h := g.portW 0x181
  let a := bits t.v 0 48
  let n := staSize t.m
  let ctx := t.env.ctx
  let s := t.pre
  let v := lineBytes (g.port 0x180) (a % 128) n
  let rel (l : Loc) : Option Nat := match l with | .acc .. => (w.core t.c).relFence | _ => none
  let spend (l : Loc) (w : W) : W := match l with | .acc .. => w.modCore t.c fun k => { k with relFence := none } | _ => w
  if 5 ≤ bits t.m 0 3 then t.engine
  else match s.atlasTarget (dieOf t.c) ctx t.v n { wr := true } with
    | .error b => t.bad b a
    | .ok (.there r b) =>
      if a % n ≠ 0 then t.engine
      else
        let l := (atlasSpan b n).getD (.telemetry 0)
        .ok ((spend l w).buffer t.c (.queue (t.staOp w (Target.there r b).addr (rel l))))
    | .ok (.here b l) =>
      match s.locCheck t.c ctx t.env.priv l (.handle h.toNat) with
      | some e => t.bad e a
      | none =>
        if !(writeAllowed l n true t.env.priv) then t.window a
        else if a % n ≠ 0 then t.engine
        else
          match w.atlasWrite b n v t.env.priv t.env.tier with
          | none => t.window a
          | some w' =>
            let op := t.staOp w (word b) (rel l)
            if s.ownMeets t.c true (some (b, n)) t.seq || (rel l).isSome || s.ownBefore t.c op then
              .ok ((spend l w).buffer t.c (.queue op))
            else if w.writeWaits t.c ctx l || l.ownWords t.c then .ok (w.pushAt t.c op)
            else .ok (w'.apertureIssued w.toState t.c b).wake

def execSta (f : Slot) (s : State) := execTrigger (.sta f) trigSta s

end Sys2Proof.Machine
end

