-- ==== Sys2Proof/Machine/Hbm.lean ====
section
/-!
DEFINITION. Main memory beside its bytes: banks and their rows, the patrol scrubber and the error history (03 R71, R73,
R77..R79).
-/

namespace Sys2Proof.Machine

/-! ### Addresses (R71) -/

/-- Block index, bank and row of an HBM address. -/
def blockOf (a : Nat) : Nat := a / 2 ^ 18
def bankOf (a : Nat) : Nat := (blockOf a % 16) ^^^ (blockOf a / 16 % 16)
def rowOf (a : Nat) : Nat := blockOf a / 16
/-- The bank of an address among the 512 of its stack. -/
def bankKey (a : Nat) : Nat := pcOf a * 16 + bankOf a
/-- The address of row `row` of bank `bk` of stack `d`. -/
def rowAddr (d bk row : Nat) : Nat :=
  (row * 16 + ((bk % 16) ^^^ (row % 16))) * 2 ^ 18 + bk / 16 * 2 ^ 13 + d * 2 ^ 10

/-! ### The error history (R78, R79) -/

/-- An error record appended to die `d`'s ring; a full ring loses its oldest record. -/
def W.errorRecord (w : W) (d kind src who pa syn : Nat) : W :=
  let m := (w.die d).mc
  let x := w.ts % 2 ^ 64 + pa % 2 ^ 39 * 2 ^ 64 + kind * 2 ^ 104 + src * 2 ^ 108 + who % 65536 * 2 ^ 112 + syn % 2 ^ 64 * 2 ^ 128
  let a := m.ehbase.toNat + 32 * m.ehhead.toNat
  let w := w.hbmStore (agentPort 2 d) a (toBytes 32 x)
  let full := decide (m.ehcount.toNat ≤ m.ehfill)
  let head := if m.ehhead.toNat + 1 < m.ehcount.toNat then m.ehhead + 1 else 0
  w.modDie d fun x =>
    { x with mc := { x.mc with ehhead := head, ehfill := if full then m.ehfill else m.ehfill + 1
                               lost := if full then m.lost + 1 else m.lost } }

/-- WHO of a copy channel (R78). -/
def whoOf (c ch : Nat) : Nat := dieOf c * 2048 + ch * 256 + onDie c

/-! ### Poison (R77) -/

/-- A line that an agent's read reports uncorrectable, or corrected: its record, with its syndrome (R78). DESIGN CHOICE
(log 106): the syndrome of a line marked with the poison pattern is a free value. -/
def W.readRecord (w : W) (d src who pa : Nat) (ev : Option ReadEvent) : Bool × W :=
  match ev with
  | some (.corrected syn) => (!(w.poisoned pa), w.errorRecord d 0 src who (pa / 128 * 128) syn.toNat)
  | some (.uncorrectable syn) => (false, w.errorRecord d 2 src who (pa / 128 * 128) syn.toNat)
  | _ =>
    if w.poisoned pa then
      let v := w.freeWord
      (false, v.2.errorRecord d 2 src who (pa / 128 * 128) v.1.toNat)
    else (true, w)

/-- The source and kind of an agent's read as R78 names them: the memory-tier engine, other packages; DESIGN CHOICE (log 106):
of an agent without a code, a free one of the reserved codes. -/
def W.agentSrc (w : W) (kind : Nat) : Nat × W :=
  let v := w.freeWord
  if kind = 0 then (2, w) else if kind = 3 then (3, w) else (4 + v.1.toNat % 12, v.2)
/-- An admitted read of an agent beside the channels, with what its checks report; one that no step uses within 1,200 ns is
forgotten. The scrubber's reads are its own. -/
def W.giveTurn (w : W) (q : HbmReq) (ev : Option ReadEvent) : W :=
  let kind := (q.src - agentPort 0 0) / 8
  let d := stackOf (128 * q.line)
  if kind = 1 then w
  else
    let r := if ev.isSome || w.poisoned (128 * q.line) then
        let v := w.agentSrc kind
        v.2.readRecord d v.1 0 (128 * q.line) ev
      else (true, w)
    r.2.modDie d fun x =>
      { x with mc := { x.mc with turns := (x.mc.turns.filter fun t => decide (w.ts ≤ t.2.2.1 + 1200)) ++ [(q.src, q.line, w.ts, r.1)] } }

/-! ### Banks (R73) -/

/-- The controller cycle: 2.0 GHz, two to a nanosecond. -/
def State.ctlCycle (s : State) : Nat := 2 * s.ts
/-- A queued request hits the open row of a bank. -/
def MemCtl.queuedHit (m : MemCtl) (bk : Nat) : Bool :=
  match Tab.get none m.openRow bk with
  | none => false
  | some r => (Tab.get [] m.queues (bk / 16)).any fun q =>
      decide (bankKey (128 * q.line) = bk) && decide (rowOf (128 * q.line) = r)
/-- A bank closed. -/
def W.closeBank (w : W) (d bk : Nat) : W :=
  w.modDie d fun x => { x with mc := { x.mc with openRow := Tab.put none x.mc.openRow bk none } }

/-- BANK_IDLE_PRECHARGE: the bank's idle time has passed and no queued request hits its row. -/
def execBankIdlePrecharge (d bk : Nat) (s : State) : Host.Outcome State Fault Refusal :=
  let m := (s.die d).mc
  let t := (Tab.get 32 m.idle bk).toNat
  if (Tab.get none m.openRow bk).isSome && decide (Tab.get 0 m.lastUse bk + t ≤ s.ctlCycle) && !(m.queuedHit bk) then
    go s ((W.of s).closeBank d bk)
  else go s (W.of s)

/-- HBM_REFRESH: a refresh precharges the bank. -/
def execHbmRefresh (d bk : Nat) (s : State) : Host.Outcome State Fault Refusal := go s ((W.of s).closeBank d bk)

/-! ### The scrubber (R77) -/

/-- Rows of a stack. -/
def rowsOfStack : Nat := 98304 * 512

/-- One line that the scrubber found in error: its record, and its poison when it is uncorrectable. -/
def W.scrubLine (w : W) (d : Nat) (e : Nat × Bool × BitVec 64) : W :=
  let a := e.1 / 128 * 128
  let w := w.errorRecord d (if e.2.1 then 3 else 1) 0 0 a e.2.2.toNat
  if e.2.1 then w.setPoison (a / 128) true else w

/-- The next row of die `d`'s stack. -/
def State.scrubBase (s : State) (d : Nat) : Nat :=
  rowAddr d ((s.die d).mc.scrubRow % 512) ((s.die d).mc.scrubRow / 512)
/-- A row is due: one every P / 98,304 / 512 hours. -/
def State.scrubReady (s : State) (d : Nat) : Bool :=
  let m := (s.die d).mc
  m.scrub && (m.scrubAsked || decide (m.scrubDue ≤ s.ts * rowsOfStack))
/-- The requests of the row's eight lines are made, and the time of the row after it. -/
def W.scrubAsk (w : W) (d : Nat) : W :=
  (w.modDie d fun x =>
    let period := x.mc.period.toNat * 3600000000000
    { x with mc := { x.mc with scrubAsked := true, scrubDue := Nat.max x.mc.scrubDue (w.ts * rowsOfStack) + period } }).askHbm
    (agentPort 1 d) (w.scrubBase d) 1024
/-- SCRUB_ROW: the next row is read, once the controller has admitted its requests; `ev` are the lines found in error:
address, uncorrectable, syndrome. -/
def execScrubRow (d : Nat) (ev : List (Nat × Bool × BitVec 64)) (s : State) : Host.Outcome State Fault Refusal :=
  let w := W.of s
  let m := (s.die d).mc
  if !m.scrub then go s w
  else if !m.scrubAsked then go s (w.scrubAsk d)
  else if s.askedHbm (agentPort 1 d) (s.scrubBase d) 1024 then go s w
  else
    -- a line already poisoned is uncorrectable again; its syndrome is free (log 106)
    let old := ((lineAddrs (s.scrubBase d) 1024).filter fun a => s.poisoned a && !(ev.any fun e => decide (e.1 / 128 = a / 128))).map
      fun a => (a, true, (Config.freeLine (s.free + a / 128 % 8)).truncate 64)
    let w : W := { w with free := w.free + (if old.isEmpty then 0 else 8) }
    let mine := (ev.filter fun e => decide (e.1 / 1024 = s.scrubBase d / 1024)) ++ old
    let w := mine.foldl (fun w e => w.scrubLine d e) w
    go s (w.modDie d fun x =>
      { x with mc := { x.mc with scrubRow := (m.scrubRow + 1) % rowsOfStack, scrubAsked := false } })

/-- EHRING_WRITE: EHCOUNT or EHBASE is written; the head returns to 0. -/
def execEhringWrite (d : Nat) (count : Bool) (v : BitVec 64) (s : State) : Host.Outcome State Fault Refusal :=
  go s ((W.of s).modDie d fun x => { x with mc := x.mc.write (if count then 0x410 else 0x408) v })

end Sys2Proof.Machine
end

