-- ==== Sys2Proof/Machine/Tpl.lean ====
section
/-!
DEFINITION. Copy templates: fields, element geometry, the cause-1 checks, conversions (04 R94..R102, R111).
-/

namespace Sys2Proof.Machine

/-- A template: 3,072 bits (R94). -/
abbrev Tpl := BitVec 3072

def Tpl.ndim (t : Tpl) : Nat := bits t 320 4 + 1
def Tpl.esizeCode (t : Tpl) : Nat := bits t 324 3
def Tpl.valid (t : Tpl) : Bool := bitAt t 327
def Tpl.conv (t : Tpl) : Nat := bits t 328 4
def Tpl.ssp (t : Tpl) : Nat := bits t 332 2
def Tpl.dsp (t : Tpl) : Nat := bits t 334 2
def Tpl.nomark (t : Tpl) : Bool := bitAt t 336
def Tpl.transp (t : Tpl) : Bool := bitAt t 337
def Tpl.gather (t : Tpl) : Bool := bitAt t 338
def Tpl.wadd (t : Tpl) : Bool := bitAt t 339
def Tpl.note (t : Tpl) : Bool := bitAt t 340
def Tpl.acq (t : Tpl) : Bool := bitAt t 341
def Tpl.rel (t : Tpl) : Bool := bitAt t 342
def Tpl.scope (t : Tpl) : Nat := bits t 343 3
def Tpl.lowpri (t : Tpl) : Bool := bitAt t 346
def Tpl.svid (t : Tpl) : Nat := bits t 352 12
def Tpl.legid (t : Tpl) : Nat := bits t 364 12
def Tpl.rslot (t : Tpl) : Nat := bits t 384 8
def Tpl.fid (t : Tpl) : Nat := bits t 448 12
def Tpl.async (t : Tpl) : Word := word (bits t 128 64)
def Tpl.rsync (t : Tpl) : Word := word (bits t 192 64)
/-- Extent and strides of dimension k (R95). -/
def Tpl.ext (t : Tpl) (k : Nat) : Nat := bits t (1024 + 128 * k) 24 + 1
def Tpl.sstr (t : Tpl) (k : Nat) : Int := sbits t (1024 + 128 * k + 32) 48
def Tpl.dstr (t : Tpl) (k : Nat) : Int := sbits t (1024 + 128 * k + 80) 48

/-- Source element bytes. -/
def Tpl.esize (t : Tpl) : Nat := [1, 2, 4, 5].getD (Tpl.esizeCode t) 1
/-- Source and destination bytes of a conversion (R96). -/
def convSizes (conv : Nat) : Option (Nat × Nat) :=
  match conv with
  | 1 => some (2, 4) | 2 => some (4, 2) | 3 => some (2, 1) | 4 => some (4, 1) | 5 => some (1, 2) | 6 => some (1, 4)
  | 7 => some (2, 5) | 8 => some (4, 5) | 9 => some (5, 4) | 10 => some (5, 2) | _ => none
/-- Destination element bytes. -/
def Tpl.dsize (t : Tpl) : Nat := match convSizes (Tpl.conv t) with | some p => p.2 | none => Tpl.esize t
/-- A conversion with a legend. -/
def Tpl.narrow (t : Tpl) : Bool := decide (3 ≤ Tpl.conv t) && decide (Tpl.conv t ≤ 6)
/-- CONV agrees with ESIZE. -/
def Tpl.agrees (t : Tpl) : Bool :=
  match convSizes (Tpl.conv t) with
  | some p => decide (Tpl.esizeCode t < 4) && decide (p.1 = Tpl.esize t)
  | none => true

/-! ### Elements (R95, R99) -/

/-- Dimensions in element order, fastest first. -/
def Tpl.dims (t : Tpl) : List Nat :=
  if Tpl.transp t && decide (2 ≤ Tpl.ndim t) then 1 :: 0 :: (List.range (Tpl.ndim t - 2)).map (· + 2)
  else List.range (Tpl.ndim t)
/-- Elements of a row, elements, rows. -/
def Tpl.rowLen (t : Tpl) : Nat := Tpl.ext t ((Tpl.dims t).headD 0)
def Tpl.total (t : Tpl) : Nat := (List.range (Tpl.ndim t)).foldl (fun a k => a * Tpl.ext t k) 1
def Tpl.rows (t : Tpl) : Nat := Tpl.total t / Tpl.rowLen t
/-- The index vector of element e: (dimension, index). -/
def tplIndex (t : Tpl) : List Nat → Nat → List (Nat × Nat)
  | [], _ => []
  | k :: l, e => (k, e % Tpl.ext t k) :: tplIndex t l (e / Tpl.ext t k)
def Tpl.index (t : Tpl) (e : Nat) : List (Nat × Nat) := tplIndex t (Tpl.dims t) e

/-- The source address of element e, exact; a gather row takes its index (R100). -/
def Copy.srcAddr (x : Copy) (e : Nat) : Int :=
  (Tpl.index x.img e).foldl (fun a p =>
    a + (if Tpl.gather x.img && decide (p.1 = 1) then x.idx.getD p.2 0 else (p.2 : Int)) * Tpl.sstr x.img p.1)
    ((bits x.img 0 64 : Int) + x.soff)
/-- The destination address of element e, exact. -/
def Copy.dstAddr (x : Copy) (e : Nat) : Int :=
  (Tpl.index x.img e).foldl (fun a p => a + (p.2 : Int) * Tpl.dstr x.img p.1) ((bits x.img 64 64 : Int) + x.doff)
/-- The least and the greatest offset of a list of (extent, stride, digit). -/
def offsetSpan (l : List (Nat × Int × Nat)) : Int × Int :=
  l.foldl (fun a p => let y := ((p.1 - 1 : Nat) : Int) * p.2.1; (a.1 + min 0 y, a.2 + max 0 y)) (0, 0)
/-- Indices from `first` on below `n` with which base + index * stride, plus an offset of `sp`, can meet lo..hi. -/
def strideRange (n first : Nat) (s b : Int) (sp : Int × Int) (lo hi : Int) : List Nat :=
  let up (i : Int) : Nat := Nat.max first i.toNat
  let upTo (a z : Int) : List Nat := (List.range (Nat.min n (z + 1).toNat - up a)).map (up a + ·)
  if s = 0 then (List.range (Nat.min 2 (n - first))).map (first + ·)
  else if 0 < s then upTo (-((b + sp.2 - lo) / s)) ((hi - b - sp.1) / s)
  else upTo (-((hi - b - sp.1) / -s)) ((b + sp.2 - lo) / -s)
/-- An index vector of the dimensions `l` (extent, stride, digit; the outermost first), not before the digits while `tight`,
gives base + offset in lo..hi. -/
def strideMeets (lo hi : Int) : List (Nat × Int × Nat) → Bool → Int → Bool
  | [], _, b => decide (lo ≤ b) && decide (b ≤ hi)
  | (n, s, d) :: l, tight, b =>
    (strideRange n (if tight then d else 0) s b (offsetSpan l) lo hi).any fun i =>
      strideMeets lo hi l (tight && decide (i = d)) (b + (i : Int) * s)
/-- Element e or one after it has its destination address in lo..hi. -/
def Copy.dstFrom (x : Copy) (e : Nat) (lo hi : Int) : Bool :=
  decide (e < Tpl.total x.img) &&
    strideMeets lo hi ((Tpl.index x.img e).reverse.map fun p => (Tpl.ext x.img p.1, Tpl.dstr x.img p.1, p.2)) true
      ((bits x.img 64 64 : Int) + x.doff)
/-- Lowest address and end of the range of a base under strides. -/
def tplSpan (t : Tpl) (str : Nat → Int) (base : Int) (n : Nat) : Int × Int :=
  (List.range (Tpl.ndim t)).foldl (fun a k =>
    let x := (Tpl.ext t k - 1 : Nat) * str k
    (a.1 + min 0 x, a.2 + max 0 x)) (base, base + (n : Int))

/-! ### The cause-1 checks (R102, R97, R98, R100, R101; R111) -/

/-- A follow-on that R98 allows. -/
def fidOk (f : Nat) : Bool := decide (f = 0) || isMma f || (decide (0x891 ≤ f) && decide (f ≤ 0x893))

/-- For every cause-1 condition of the template alone that fails, the lowest bit position of the fields it reads (R111). -/
def Tpl.faults (t : Tpl) : List Nat :=
  let nd := Tpl.ndim t
  let c : List (Bool × Nat) :=
    [(!(Tpl.valid t), 327), (decide (4 ≤ Tpl.esizeCode t), 324), (decide (Tpl.ssp t = 3), 332), (decide (Tpl.dsp t = 3), 334),
     (decide (11 ≤ Tpl.conv t), 328), (!(Tpl.agrees t), 324),
     (Tpl.acq t && decide (bits t 187 5 ≠ 0), 128), (Tpl.rel t && decide (bits t 251 5 ≠ 0), 192),
     (Tpl.note t && decide (Tpl.conv t = 0) && decide (Tpl.esizeCode t = 0), 324), (Tpl.note t && Tpl.wadd t, 339),
     (Tpl.gather t && (decide (nd ≠ 2) || Tpl.transp t), 320),
     (Tpl.wadd t && decide (Tpl.dsp t ≠ 1), 334), (Tpl.wadd t && (decide (Tpl.dsize t ≠ 5) || decide (11 ≤ Tpl.conv t)), 324),
     (Tpl.transp t && decide (nd = 1), 320), (decide (2 ^ 32 < Tpl.total t), 1024), (!(fidOk (Tpl.fid t)), 448),
     (decide (bits t 347 5 ≠ 0), 347), (decide (bits t 392 56 ≠ 0), 392), (decide (bits t 464 16 ≠ 0), 464),
     (decide (bits t 512 512 ≠ 0), 512)] ++
    (List.range nd).map fun k => (decide (bits t (1024 + 128 * k + 24) 8 ≠ 0), 1024 + 128 * k + 24)
  (c.filter (·.1)).map (·.2)

/-- TPLW's result: bit 0 for a template that passes, else the byte offset (R111). -/
def Tpl.verdict (t : Tpl) : Nat :=
  match Tpl.faults t with
  | [] => 1
  | p :: l => l.foldl Nat.min p / 8 * 256

/-- An atlas address of a context that lies in an accumulator store, here or on another package: the offset in it. -/
def State.accOffset (s : State) (ctx : Nat) (a : Int) : Option Nat :=
  if a < 0 then none
  else match s.target ctx a.toNat 5 with
    | some (.here _ (.acc _ off)) => some off
    | some (.there _ b) => match atlasLoc b with | some (.acc _ off) => some off | _ => none
    | _ => none

/-- The start passes the cause-1 checks, its addresses among them (R102). -/
def State.cause1Ok (s : State) (x : Copy) : Bool :=
  x.wordOk && (Tpl.faults x.img).isEmpty &&
    (!(Tpl.wadd x.img) || (List.range (Tpl.total x.img)).all fun e => (s.accOffset x.ctx (x.dstAddr e)).isSome)

/-! ### Conversion (R96, R97) -/

/-- An element read: its wide value by source width. -/
def wideOf (n v : Nat) : FNum :=
  if n = 2 then bf16 (BitVec.ofNat 16 v) else if n = 4 then fp32 (BitVec.ofNat 32 v) else a40 (BitVec.ofNat 40 v)

/-- The legend of a copy. -/
def Copy.legend (x : Copy) : Legend := x.leg
/-- Convert: the bits written, the value noted, and whether it was clamped. -/
def Copy.convert (x : Copy) (v : Nat) : Nat × FNum × Bool :=
  let t : Tpl := x.img
  let l := x.legend
  let src := wideOf (Tpl.esize t) v
  let out (y : Nat) : Nat × FNum × Bool := (y, wideOf (Tpl.dsize t) y, false)
  match Tpl.conv t with
  | 0 => out v
  | 1 | 6 | 9 => out ((if Tpl.conv t = 6 then l.wide v x.scale else src).toFP32).toNat
  | 2 | 5 | 10 => out ((if Tpl.conv t = 5 then l.wide v x.scale else src).toBF16).toNat
  | 3 | 4 => let r := l.encode src x.scale; (r.1, src, r.2)
  | _ => out src.toA40.toNat

end Sys2Proof.Machine
end

