-- ==== Sys2Proof/Machine/Copy.lean ====
section
/-!
DEFINITION. Copy channels (04 R90..R109; 03 R74, R81; 08 R199; 17 R355): acceptance and claims, activation, acquire,
admission, requests, element moves, release, follow-on, faults, resume and abort.
-/

namespace Sys2Proof.Machine

/-! ### Small parts -/

/-- A channel of core `c` changed. -/
def W.modChan (w : W) (c ch : Nat) (f : Channel → Channel) : W := w.modCore c fun k => k.setChan ch (f (k.chan ch))
/-- The active copy of a channel changed. -/
def W.modAct (w : W) (c ch : Nat) (f : Copy → Copy) : W := w.modChan c ch fun q => { q with act := q.act.map f }
/-- A line of a core, as claims name it. -/
def lineKey (o ln : Nat) : Nat := o * 32768 + ln
/-- The atlas address of byte `a` of core `c`'s own lines. -/
def vrfAtlas (c a : Nat) : Nat := c * 2 ^ 35 + a
/-- The rights of a copy's read, or write. -/
def copyNeed (wr : Bool) : Need := { rd := !wr, wr := wr, en := true }

/-- INFO1 of a channel (13 R305). -/
def Channel.info (x : Channel) (ch : Nat) : Word :=
  word (ch % 8 + x.cause % 16 * 2 ^ 4 + x.ticket % 2 ^ 16 * 2 ^ 16 + x.rprog % 2 ^ 32 * 2 ^ 32)
/-- An attributed cause of channel `ch`. -/
def W.chanCause (w : W) (c ch : Nat) (y : Cause) : W :=
  let q := (w.core c).chan ch
  let tpl := match q.act with | some x => x.tpl | none => 0
  w.modCore c fun k => k.addAttr ch { y with i1 := q.info ch, i2 := word tpl }

/-! ### Claims (R105; 05 R125) -/

/-- The lines of core `o` that `n` bytes from byte `a` of its VRF touch. -/
def bytesLines (o a n : Nat) : List Nat := (List.range ((a + n - 1) / 128 + 1 - a / 128)).map fun i => lineKey o (a / 128 + i)

/-- The VRF lines that element e writes, in the context's allotments. -/
def State.dstLines (s : State) (c : Nat) (x : Copy) (e : Nat) : List Nat :=
  let a := x.dstAddr e
  let n := Tpl.dsize x.img
  let keep (o : Nat) (l : List Nat) : List Nat := l.filter fun q => s.allotted o x.ctx (q % 32768)
  if a < 0 then []
  else if Tpl.dsp x.img = 2 then if a.toNat + n ≤ 2 ^ 22 then keep c (bytesLines c a.toNat n) else []
  else if Tpl.dsp x.img = 1 then
    match s.target x.ctx a.toNat n with
    | some (.here _ (.vrf o off)) => keep o (bytesLines o off n)
    | _ => []
  else []

/-- The lines a marked copy claims, each with the last element that touches it. -/
def State.claimSet (s : State) (c : Nat) (x : Copy) : Tab Nat :=
  if Tpl.nomark x.img then []
  else (List.range (Tpl.total x.img)).foldl (fun t e => (s.dstLines c x e).foldl (fun t q => t.set q e) t) []

/-- A claim set that no line's count forbids. -/
def State.claimsFit (s : State) (t : Tab Nat) : Bool :=
  t.all fun e => decide (Tab.get 0 (s.core (e.1 / 32768)).claims (e.1 % 32768) < 255)
/-- Claims placed, and withdrawn. -/
def W.placeClaims (w : W) (t : Tab Nat) : W := t.foldl (fun w e => w.claim (e.1 / 32768) (e.1 % 32768)) w
def W.dropClaims (w : W) (l : List Nat) : W := l.foldl (fun w q => w.unclaim (q / 32768) (q % 32768)) w

/-! ### TLBINV (13 R314) -/

/-- The copies of a die with elements in hand that a removed translation has translated (R314). -/
def State.tlbOpen (s : State) (d form ctx va : Nat) : List TlbOpen :=
  (s.cores.map fun e => if dieOf e.1 ≠ d then [] else (e.2.cp.ch.filterMap fun q =>
    q.2.act.bind fun x =>
      let gaz := ((s.die d).gaz.filter fun y => decide (y.1 = x.ctx)).map (·.2)
      let gone := (gaz ++ q.2.tlb).filter fun y => tlbHits form ctx va x.ctx y.va y.size
      let under (a : Int) (n : Nat) : Bool := gone.any fun y => decide (a < ((y.va + y.size : Nat) : Int)) && decide ((y.va : Int) < a + n)
      let src (i : Nat) : Bool := decide (Tpl.ssp x.img = 0) && under (x.srcAddr (x.done + i)) (Tpl.esize x.img)
      let dst (i : Nat) : Bool := decide (Tpl.dsp x.img = 0) && under (x.dstAddr (x.done + i)) (Tpl.dsize x.img)
      let upTo (f : Nat → Bool) : Nat := ((List.range x.reading.length).filter f).foldl (fun _ i => x.done + i + 1) 0
      if upTo src = 0 ∧ upTo dst = 0 then none
      else some { core := e.1, ch := q.1, ticket := q.2.ticket, reads := upTo src, writes := upTo dst })).flatten
/-- Requests of such a copy are not complete: reads of those elements, or elements that are to be written there. -/
def State.tlbHeld (s : State) (e : TlbOpen) : Bool :=
  let q := (s.core e.core).chan e.ch
  match q.act with
  | some x =>
    decide (q.ticket = e.ticket) && !x.reading.isEmpty &&
      (decide (x.done < e.writes) || (x.reading.take (e.reads - x.done)).any fun y => !y.src.isEmpty)
  | none => false
/-- TLBINV performed: the translations leave this die or every one; its result is answered once every request made under
them is complete. -/
def W.performTlbinv (w : W) (c seq form : Nat) (pkg : Bool) (va : Nat) : W :=
  let ctx := (w.core c).ctx.getD 0
  let ds := if pkg then List.range 8 else [dieOf c]
  let l := (ds.map fun d => w.tlbOpen d form ctx va).flatten
  let w := ds.foldl (fun w d => w.dropTlb d form ctx va) w
  if l.isEmpty then w.answer c seq [(0x300, 0)] else w.modCore c fun k => { k with tlbWaits := k.tlbWaits ++ [(seq, l)] }
/-- The TLBINVs of core `c` whose requests are complete are answered. -/
def W.tlbDone (w : W) (c : Nat) : W :=
  let open_ (e : Nat × List TlbOpen) : Bool := e.2.any w.tlbHeld
  let done := (w.core c).tlbWaits.filter fun e => !(open_ e)
  if done.isEmpty then w
  else done.foldl (fun w e => w.answer c e.1 [(0x300, 0)]) (w.modCore c fun k => { k with tlbWaits := k.tlbWaits.filter open_ })

/-! ### Acceptance (R90, R92, R104) -/

/-- The state in which a copy becomes active: SLOT, ACQ, RUN. -/
def Copy.first (x : Copy) : Nat :=
  if Tpl.wadd x.img && !x.admitted then 3 else if Tpl.acq x.img && !x.acqDone then 1 else 2

/-- The snapshot of a start on channel `ch` of core `c`; one through the aperture takes OFFS as it stands. -/
def State.snapshot (s : State) (c ch : Nat) (q : Start) : Copy :=
  let k := s.core c
  let d := dieOf c
  let n := bits q.v 0 6
  let img := Tab.get 0 k.cp.tpl n
  let e := s.env c
  let leg : Legend := if Tpl.narrow img then s.legend d (Tpl.legid img) else 0
  let es := if Tpl.conv img = 3 ∨ Tpl.conv img = 4 then (if leg.usable then (s.scaleOf d leg).1 else 0) else sbits img 376 8
  let offs := if q.ap then (k.chan ch).offs else q.offs
  { tpl := n, img := img, soff := sbits offs 0 32, doff := sbits offs 32 32, leg := leg, scale := es, ctx := e.ctx
    svFirst := if q.ap then e.svFirst else q.svFirst, svCount := if q.ap then e.svCount else q.svCount
    order := Tab.get 0 s.edges d * 8 + ch, since := s.ts, tid := q.tid, wordOk := decide (bits q.v 7 57 = 0), priv := if q.ap then e.priv else q.priv
    bpc := q.bpc, seq := q.seq, stepped := q.stepped }

/-- The start that the channel takes next, with the others: a resume of the core's own bundles, else the oldest when it
resumes, sets OFFS or there is a place. -/
def Channel.nextStart (x : Channel) : Option (Start × List Start) :=
  match x.pend.find? fun q => q.resume && !q.ap with
  | some q => some (q, x.pend.erase q)
  | none =>
    match x.pend with
    | [] => none
    | q :: l => if q.resume || q.set || decide (x.queue.length < 3) || x.act.isNone then some (q, l) else none

/-- A start accepted: as the active copy or into the queue. -/
def W.acceptStart (w : W) (c ch : Nat) (q : Start) (rest : List Start) : W :=
  let x := w.snapshot c ch q
  let t := if w.cause1Ok x then w.claimSet c x else []
  if !(w.claimsFit t) then w
  else
    let x := { x with claims := t, ticket := (((w.core c).chan ch).ticket + 1) % 65536, wake := w.clk + 16 }
    let w := w.placeClaims t
    w.modChan c ch fun y =>
      let y := { y with ticket := (y.ticket + 1) % 65536, cause := 0, pend := rest }
      match y.act with
      | none => { y with act := some x, st := x.first, rprog := 0 }
      | some _ => { y with queue := y.queue ++ [x] }

/-- A faulted copy goes on (R104): rows at or above RPROG are moved anew; a copy stopped by a check is checked anew. -/
def Copy.resumed (x : Copy) (rprog : Nat) : Copy :=
  let d := if x.checked && !(Tpl.wadd x.img) then rprog * Tpl.rowLen x.img else x.done
  { x with done := d, reading := [], ask := [], crc := [], words := [] }

/-- The channel enters FAULT with a cause, and its trap is pending at the core; a stepped bundle's start adds its event
(17 R356). -/
def W.chanFault (w : W) (c ch cause : Nat) (y : Cause) : W :=
  let w := w.modChan c ch fun q => { q with st := 4, cause := cause }
  let q := (w.core c).chan ch
  let w := match q.act with
    | some x => if x.stepped then w.stepEvent c x.bpc.toNat 3 y.code (ch + 1) q.ticket else w
    | none => w
  w.chanCause c ch y

/-- A resume taken: nothing outside FAULT. The words of a stopped reduce copy hold its sums again; a word with reserved bits
fails as a start does, with cause 1 (R91). -/
def W.resumeStart (w : W) (c ch : Nat) (q : Start) (rest : List Start) : W :=
  let w := w.modChan c ch fun y => { y with pend := rest }
  let y := (w.core c).chan ch
  match y.act with
  | none => w
  | some x =>
    if y.st ≠ 4 then w
    else if q.ap ∧ bits q.v 7 57 ≠ 0 then w.chanFault c ch 1 { code := 9, sub := 1, i0 := 0x8c2 }
    else
      let w := x.words.foldl (fun w e => w.modCore e.1 fun k => k.setAcc (e.2.1 / 4096) (e.2.1 % 4096) e.2.2) w
      w.modChan c ch fun y => { y with act := some (x.resumed y.rprog), st := x.first, cause := 0 }

/-- COPY_ACCEPT: a start or resume that reached channel `ch` of core `c` is accepted. -/
def W.copyAccept (w : W) (c ch : Nat) : W :=
  let y := (w.core c).chan ch
  if y.st = 5 then w
  else match y.nextStart with
    | none => w
    | some (q, rest) =>
      if q.set then w.modChan c ch fun y => { y with offs := q.v, pend := rest }
      else if q.resume then w.resumeStart c ch q rest
      else w.acceptStart c ch q rest

/-- A start word stored to the channel's aperture (R91); with RES set it resumes. The aperture of a core that is not enabled is
unmapped (00 R3). -/
def W.apertureWord (w : W) (c ch : Nat) (v : Word) (res : Bool) : W :=
  if bitAt v 6 = res ∧ w.coreEnabled c then w.writeAperture c (ch % 8) 0 v else w

/-! ### Activation (R102) -/

/-- A sync word of a template: 0 as it should be, else the cause (6, 3). -/
def State.syncCheck (s : State) (d ctx : Nat) (v : Word) (wr : Bool) : Nat :=
  match s.atlasTarget d ctx (if bitAt v 58 then v else word (bits v 0 48)) 5 (copyNeed wr) with
  | .error _ => 6
  | .ok (.there _ _) => 0
  | .ok (.here _ l) =>
    match l with
    | .vrf o off => if s.allotted o ctx (off / 128) then 3 else 6
    | l => if l.noAtomic then 6 else if l.syncWord.isSome then 0 else 3

/-- The address whose alignment counts: in an accumulator store, the offset in it. -/
def State.alignAddr (s : State) (ctx sp : Nat) (a : Int) (n : Nat) : Int :=
  if sp = 1 ∧ n = 5 then ((s.accOffset ctx a).map fun o => (o : Int)).getD a else a

/-- The cause-3 check of one side: base, strides, the range in space 2. `rows`: its rows come from indices, whose addresses
are checked as the rows are read (R100). -/
def State.sideOk (s : State) (ctx sp : Nat) (t : Tpl) (str : Nat → Int) (a : Int) (n : Nat) (rows : Bool) : Bool :=
  let r := tplSpan t str a n
  decide (s.alignAddr ctx sp a n % (n : Int) = 0) &&
    ((List.range (Tpl.ndim t)).all fun k => decide (str k % (n : Int) = 0)) &&
    (decide (sp ≠ 2) || rows || (decide (0 ≤ r.1) && decide (r.2 ≤ 2 ^ 22)))

/-- The cause-6 check: the id or address at fault. -/
def State.cause6 (s : State) (d : Nat) (x : Copy) : Option Nat :=
  let t : Tpl := x.img
  let svOk (n : Nat) : Bool := decide (x.svFirst ≤ n) && decide (n < x.svFirst + x.svCount)
  if Tpl.narrow t && !(s.legendInRange d x.ctx (Tpl.legid t)) then some (Tpl.legid t)
  else if Tpl.note t && !(svOk (Tpl.svid t)) then some (Tpl.svid t)
  else if (decide (Tpl.conv t = 3) || decide (Tpl.conv t = 4)) && x.legend.usable && !(svOk x.legend.svid) then
    some x.legend.svid
  else if Tpl.acq t && decide (s.syncCheck d x.ctx (Tpl.async t) false = 6) then some (bits t 128 48)
  else if Tpl.rel t && decide (s.syncCheck d x.ctx (Tpl.rsync t) true = 6) then some (bits t 192 48)
  else none

/-- The activation checks in the order of R102: the first that fails, with its trap. -/
def State.activation (s : State) (c : Nat) (x : Copy) : Option (Nat × Cause) :=
  let t : Tpl := x.img
  let d := dieOf c
  let engine : Cause := { code := 9, sub := 1, i0 := 0x8c2 }
  if !(s.cause1Ok x) then some (1, engine)
  else match s.cause6 d x with
    | some a => some (6, { code := 6, sub := 1, i0 := word a })
    | none =>
      if Tpl.narrow t && !x.legend.usable then some (2, engine)
      else if !(s.sideOk x.ctx (Tpl.ssp t) t (Tpl.sstr t) ((bits t 0 64 : Int) + x.soff) (Tpl.esize t) (Tpl.gather t)) ||
          !(s.sideOk x.ctx (Tpl.dsp t) t (Tpl.dstr t) ((bits t 64 64 : Int) + x.doff) (Tpl.dsize t) false) ||
          (Tpl.acq t && decide (s.syncCheck d x.ctx (Tpl.async t) false = 3)) ||
          (Tpl.rel t && decide (s.syncCheck d x.ctx (Tpl.rsync t) true = 3)) then some (3, engine)
      else none

/-- The home of a reduce copy that is in another package: its rank and the address there (14 R320). -/
def State.copyFar (s : State) (x : Copy) : Option (Nat × Nat) :=
  if !(Tpl.wadd x.img) then none
  else match s.target x.ctx (x.dstAddr 0).toNat 5 with
    | some (.there r b) => some (r, b)
    | _ => none

/-- A fault of an element: cause and trap. -/
abbrev ElemFault := Nat × Cause
/-- The fault of an element that another package refuses (R102, 14 R322). -/
def farFault (a : Int) (code : Nat) : ElemFault :=
  let i := word (a % 2 ^ 64).toNat
  if code = 10 then (7, { code := 10, sub := 2, i0 := i })
  else if code = 5 then (5, { code := 5, sub := 1, i0 := i })
  else (6, { code := 6, sub := 1, i0 := i })

/-- COPY_ACTIVATE: the checks of the active copy. A reduce copy to a home in another package asks it for admission. -/
def W.copyActivate (w : W) (c ch : Nat) : W :=
  let q := (w.core c).chan ch
  match q.act with
  | none => w
  | some x =>
    if x.checked ∨ q.st = 4 ∨ q.st = 5 then w
    else match w.activation c x with
      | some (n, y) =>
        ((w.dropClaims (x.claims.map (·.1))).modAct c ch fun x => { x with claims := [] }).chanFault c ch n y
      | none =>
        let t := if x.claims.isEmpty then w.claimSet c x else []
        if !(w.claimsFit t) then w
        else
        let w := (w.placeClaims t).modAct c ch fun x =>
          { x with checked := true, claims := if x.claims.isEmpty then t else x.claims }
        match w.copyFar x with
        | some (r, b) =>
          match w.farVerdict x.ctx b 5 with
          | (some code, w) => let f := farFault (x.dstAddr 0) code; w.chanFault c ch f.1 f.2
          | (none, w) => w.send x.ctx r 6 [0, word b, word c, word (Tpl.rslot x.img), word x.since] []
        | none => w

/-! ### The acquire (R99, R102) -/

/-- The refusal of a sync word by another package, if any: cause and trap (R102). -/
def W.syncRefused (w : W) (ctx : Nat) (a : Nat) : Option (Nat × Cause) × W :=
  let window : Nat × Cause := (6, { code := 6, sub := 1, i0 := word a })
  match atlasSpan a 5 with
  | none => (some window, w)
  | some l =>
    if w.pkg.linkUp = 0 then (some (7, { code := 10, sub := 2, i0 := word a }), w)
    else if w.dcid ctx ≠ none ∧ l.syncWord.isNone then (some (3, { code := 9, sub := 1, i0 := 0x8c2 }), w)
    else match w.farVerdict ctx a 5 with
      | (some _, w) => (some window, w)
      | (none, w) => (none, w)

/-- Where a template's sync word is: a core's word here, or another package's address. -/
def State.syncPlace (s : State) (ctx : Nat) (v : Word) : Option ((Nat × Nat) ⊕ (Nat × Nat)) :=
  if bitAt v 58 ∧ bits v 48 10 ≠ s.pkg.rank.toNat then some (.inr (bits v 48 10, bits v 0 48))
  else match s.target ctx (bits v 0 48) 5 with
    | some (.here _ l) => l.syncWord.map .inl
    | some (.there r b) => some (.inr (r, b))
    | none => none

/-- COPY_ACQUIRE_DONE: the acquire's condition holds, and it is performed; that of another package's word holds when a free
value says so. The admission by a home in another package arrives in the same way. -/
def W.copyAcquire (w : W) (c ch : Nat) : W :=
  let k := w.core c
  let q := k.chan ch
  match q.act with
  | none => w
  | some x =>
    let t : Tpl := x.img
    if x.checked ∧ q.st = 3 ∧ (w.copyFar x).isSome then
      let v := w.freeWord
      if bitAt v.1 63 then v.2
      else v.2.modChan c ch fun q => { q with st := ({ x with admitted := true } : Copy).first, act := some { x with admitted := true } }
    else if !x.checked ∨ q.st ≠ 1 ∨ k.chanHalt then w
    else
      let take (w : W) : W :=
        (w.modChan c ch fun q => { q with st := 2, act := q.act.map fun x => { x with acqDone := true } }).acquired c (Tpl.scope t)
      match w.syncPlace x.ctx (Tpl.async t) with
      | none => w
      | some (.inr (_, a)) =>
        match w.syncRefused x.ctx a with
        | (some (n, y), w) => w.chanFault c ch n y
        | (none, w) => let v := w.freeWord; if bitAt v.1 63 then v.2 else take v.2
      | some (.inl (o, i)) =>
        let old : BitVec 32 := ((w.core o).acc (i / 4096) (i % 4096)).truncate 32
        if w.accWaits o x.ctx (i / 4096) || w.frozen c (dieOf o) x.ctx then w
        else if sext 32 (bits t 256 32) ≤ old.toInt then take w
        else w

/-! ### Reduce copies (R101, R199) -/

/-- The home core of a reduce copy: that of its first element. -/
def State.copyHome (s : State) (x : Copy) : Option Nat :=
  match s.target x.ctx (x.dstAddr 0).toNat 5 with
  | some (.here _ (.acc o _)) => some o
  | _ => none
/-- The current entry of the table of a home on package `home` names a source core of package `rank` and a tag (R198). -/
def SlotTab.names (t : SlotTab) (home rank c tag : Nat) : Bool :=
  match t.entries[t.ptr]? with
  | none => false
  | some e => !t.done && decide (bits e 0 4 = c % 16) && decide (bits e 4 3 = clusterOf c) && decide (bits e 7 3 = dieOf c) &&
      decide (bits e 20 8 = tag) && decide ((if bitAt e 28 then home else bits e 10 10) = rank)

/-- Copies of this package that wait in SLOT for home `o` and that its current entry names: order, core, channel. One
accepted in this clock cycle still waits, for those of the cycle go by channel number. -/
def State.slotWaiters (s : State) (o : Nat) : List (Nat × Nat × Nat) :=
  let h := s.core o
  (s.cores.map fun e => (List.range 8).filterMap fun ch =>
    let q := e.2.chan ch
    match q.act with
    | none => none
    | some x =>
      if q.st = 3 ∧ x.checked ∧ h.ctx = some x.ctx ∧ h.slots.names s.pkg.rank.toNat s.pkg.rank.toNat e.1 (Tpl.rslot x.img) ∧
          x.order / 8 < Tab.get 0 s.edges (dieOf e.1) ∧
          s.copyHome x = some o then some (x.order, e.1, ch) else none).flatten

/-- A reduce copy of another package as `SlotTab.adm` names it. -/
def farSource (rank core : Nat) : Nat := 1024 * (1 + rank) + core
/-- Of the copies of other packages that home `o`'s current entry names, the one accepted first. -/
def State.slotAsk (s : State) (o : Nat) : Option SlotAsk :=
  let k := s.core o
  (k.slotAsks.filter fun a => decide (k.ctx = some a.ctx) && k.slots.names s.pkg.rank.toNat a.rank a.core a.tag).foldl
    (fun m a => match m with | some b => if a.since < b.since then some a else m | none => some a) none
/-- That copy is admitted, and its package is told. -/
def W.admitFar (w : W) (o : Nat) : W :=
  match w.slotAsk o with
  | none => w
  | some a => (w.modCore o fun k =>
      { k with slots := { k.slots with adm := some (farSource a.rank a.core, a.tag) }, slotAsks := k.slotAsks.erase a }).send
        a.ctx a.rank 7 [word a.core, word a.tag] []
/-- REDUCE_ADMIT: the home admits the copy accepted first among those its current entry names; copies of other packages are
placed by the timestamp of their acceptance, after this package's of the same one. -/
def W.reduceAdmit (w : W) (o : Nat) : W :=
  if (w.core o).slots.adm.isSome then w
  else match w.slotWaiters o with
    | [] => w.admitFar o
    | p :: l =>
      let b := l.foldl (fun a y => if y.1 < a.1 then y else a) p
      let since : Nat := ((((w.core b.2.1).chan b.2.2).act.map (·.since)).getD 0)
      if (w.slotAsk o).any fun a => decide (a.since < since) then w.admitFar o else
      let w := w.modCore o fun k => { k with slots := { k.slots with adm := some b.2 } }
      w.modChan b.2.1 b.2.2 fun q =>
        let act := q.act.map fun x => { x with admitted := true }
        { q with act := act, st := match act with | some x => x.first | none => q.st }

/-! ### Translation of a channel (R109) -/

/-- The translation of a virtual address for a channel: its own cache, else the gazetteer's. -/
def W.chanPage (w : W) (c ch ctx : Nat) (va : Int) : Except XErr (HeldPage × W) :=
  let q := (w.core c).chan ch
  let put (w : W) (p : HeldPage) : W :=
    w.modChan c ch fun q => { q with tlb := (p :: q.tlb.filter fun x => decide (x ≠ p)).take 8 }
  match q.tlb.find? fun p => decide (0 ≤ va) && p.covers va.toNat with
  | some p => if p.outside va.toNat then .error (.page 5) else .ok (p, put w p)
  | none =>
    match w.gazetteer (dieOf c) ctx va with
    | .ok (p, w) => .ok (p, put w p)
    | .error e => .error e


/-- The attributed trap of a failed translation (13 R305); `none` while the walk goes on. -/
def xlateFault (va : Int) (e : XErr) : Option ElemFault :=
  match e with
  | .page n => some (4, { code := 7, sub := n, i0 := word (va % 2 ^ 64).toNat })
  | .soft => some (7, { code := 10, sub := 2, i0 := word (va % 2 ^ 64).toNat })
  | .wait => none

/-- A leased address of another package's HBM may not be accessed (03 R89): no lease of the context that is ACTIVE, or in
NOTICE before its deadline, covers it, and one that has left those states does. -/
def State.leaseOver (s : State) (ctx rank pa : Nat) : Bool :=
  let within (lender base units : Nat) : Bool :=
    decide (lender = rank) && decide (base ≤ pa) && decide (pa < base + units * 2 ^ 27)
  let slots := (s.dies.map fun e => ((Tab.get {} e.2.tier ctx).leases.map (·.2)).filter fun l =>
    decide (1 < l.st) && decide (l.st ≠ 3) && within l.lender l.base l.units).flatten
  let live (l : LeaseSlot) : Bool := decide (l.st = 2) || (decide (l.st = 4) && decide (s.ts < l.deadline))
  !(slots.any live) && (!slots.isEmpty || s.dies.any fun e => (Tab.get {} e.2.tier ctx).gone.any fun g => within g.1 g.2.1 g.2.2)

/-- Where a virtual element lies: HBM bytes here, or an address of another package's HBM. -/
def W.virtPlace (w : W) (c ch ctx : Nat) (va : Int) (n : Nat) (wr : Bool) : Except (Option ElemFault) (Place × W) :=
  match w.chanPage c ch ctx va with
  | .error e => .error (xlateFault va e)
  | .ok (p, w) =>
    let last := va + (n : Int) - 1
    match (if p.covers last.toNat then .ok (p, w) else w.chanPage c ch ctx last) with
    | .error e => .error (xlateFault last e)
    | .ok (p2, w) =>
      let right (p : HeldPage) : Bool := if wr then p.wr else p.rd
      if !(right p) || !(right p2) then .error (xlateFault va (.page (if wr then 2 else 1)))
      else match p.remote with
        | some r =>
          if w.leaseOver ctx r (p.pa va.toNat) then .error (xlateFault va (.page 3))
          else if w.pkg.linkUp = 0 then .error (some (farFault va 10))
          else if w.dcid ctx = none then .error (some (farFault va 6))
          else
            let v := w.freeWord
            if bitAt v.1 63 then .error (some (farFault va 6)) else .ok (.far r (p.pa va.toNat) true, v.2)
        | none =>
          .ok (.hbm ((List.range n).map fun i =>
            let a := va.toNat + i
            if p.covers a then p.pa a else p2.pa a), w)

/-! ### One element -/

/-- What an element of a copy meets. -/
inductive Got where
  | ok (e : Elem) (w : W)
  | wait
  | fault (f : ElemFault)

/-- An own-line access of a channel: inside the VRF, allotment, handle. -/
def State.ownBytes (s : State) (c ctx : Nat) (addr : Int) (n : Nat) : Option ElemFault :=
  let a := addr.toNat
  let ls := bytesLines c a n
  if addr < 0 ∨ 2 ^ 22 < addr + n then some (6, { code := 6, sub := 1, i0 := word (addr / 128 % 2 ^ 64).toNat })
  else match ls.find? fun q => !(s.allotted c ctx (q % 32768)) with
  | some q => some (6, { code := 6, sub := 1, i0 := word (q % 32768) })
  | none =>
    match ls.find? fun q => !(s.lineRight c c ctx (q % 32768) .engine) with
    | some q => some (5, { code := 5, sub := 1, i0 := word (q % 32768) })
    | none => none

/-- An atlas access of a channel: window, place, rights. -/
def W.atlasPlace (s : W) (c ctx : Nat) (priv : Bool) (a : Int) (n : Nat) (wr : Bool) : Except ElemFault (Target × W) :=
  let window : ElemFault := (6, { code := 6, sub := 1, i0 := word (a % 2 ^ 64).toNat })
  if a < 0 ∨ 2 ^ 48 ≤ a then .error window
  else match s.atlasTarget (dieOf c) ctx (word a.toNat) n (copyNeed wr) with
    | .error _ => .error window
    | .ok (.there r b) =>
      match s.farVerdict ctx b n with
      | (some code, _) => .error (farFault a code)
      | (none, w) => .ok (.there r b, w)
    | .ok (.here b l) =>
      match s.locCheck c ctx priv l .engine with
      | some .handle => .error (5, { code := 5, sub := 1, i0 := word a.toNat })
      | some _ => .error window
      | none => if wr && !(writeAllowed l n false priv) then .error window else .ok (.here b l, s)

/-- The place of element e's destination, or what it meets. -/
def W.dstPlace (w : W) (c ch : Nat) (x : Copy) (e : Nat) : Except (Option ElemFault) (Place × W) :=
  let a := x.dstAddr e
  let n := Tpl.dsize x.img
  match Tpl.dsp x.img with
  | 0 => w.virtPlace c ch x.ctx a n true
  | 1 =>
    match w.atlasPlace c x.ctx x.priv a n true with
    | .error f => .error (some f)
    | .ok (.there r b, w) => .ok (.far r b false, w)
    | .ok (.here b l, w) => if w.writeWaits c x.ctx l then .error none else .ok (.here b, w)
  | _ => match w.ownBytes c x.ctx a n with | some f => .error (some f) | none => .ok (.here (vrfAtlas c a.toNat), w)

/-- Bytes of own lines as a number. -/
def Core.vrfNat (k : Core) (a n : Nat) : Nat :=
  (List.range n).foldr (fun i x => lineBytes (k.line ((a + i) / 128)) ((a + i) % 128) 1 + 256 * x) 0

/-- An uncorrectable line or word of a VRF or an accumulator store, as its check bits find it (13 R292, R305). -/
def softFault (sub : Nat) (i0 : Word) : ElemFault := (7, { code := 10, sub := sub, i0 := i0 })
/-- A place of the atlas is in a VRF. -/
def Loc.isVrf : Loc → Bool
  | .vrf .. => true
  | _ => false
/-- The lines of `n` bytes at a place are present. -/
def State.sourceThere (s : State) (_ctx : Nat) (l : Loc) (n : Nat) : Bool :=
  match l with
  | .vrf o off => (bytesLines o off n).all fun q => (s.core o).present (q % 32768)
  | _ => true
/-- The bytes read at a place that is uncorrectable: the SUB of its SOFT_ERROR. -/
def State.softPlace (s : State) (ctx : Nat) (l : Loc) (n : Nat) : Option Nat :=
  match l with
  | .vrf o off => if (bytesLines o off n).any fun q => (s.core o).soft.contains (q % 32768) then some 0 else none
  | .acc o off =>
    if (List.range ((off % 5 + n + 4) / 5)).any fun i => (s.layer o ctx).softAcc.contains (off / 5 + i) then some 1 else none
  | _ => none

/-- The source of element e: read now, or HBM bytes to be read. -/
def W.srcElem (w : W) (c ch : Nat) (x : Copy) (e : Nat) : Except (Option ElemFault) (List Nat × Nat × W) :=
  let a := x.srcAddr e
  let n := Tpl.esize x.img
  let free (r b : Nat) (w : W) : List Nat × Nat × W :=
    let v := w.freeWord
    ([], v.1.toNat % 2 ^ (8 * n), v.2.send x.ctx r 0 [word b, word n] [])
  match Tpl.ssp x.img with
  | 0 =>
    match w.virtPlace c ch x.ctx a n false with
    | .error f => .error f
    | .ok (.hbm l, w) => .ok (l, 0, w)
    | .ok (.far r b _, w) => .ok (free r b w)
    | .ok (_, w) => .ok ([], 0, w)
  | 1 =>
    match w.atlasPlace c x.ctx x.priv a n false with
    | .error f => .error (some f)
    | .ok (.there r b, w) => .ok (free r b w)
    | .ok (.here b l, w) =>
      if !(w.sourceThere x.ctx l n) || (!l.isVrf && w.writeWaits c x.ctx l) then .error none
      else match w.softPlace x.ctx l n with
        | some sub => .error (some (softFault sub (word b)))
        | none => .ok ([], w.atlasNat x.ctx b n, w)
  | _ =>
    match w.ownBytes c x.ctx a n with
    | some f => .error (some f)
    | none =>
      let k := w.core c
      match (bytesLines c a.toNat n).find? fun q => k.soft.contains (q % 32768) with
      | some q => .error (some (softFault 0 (word (q % 32768))))
      | none =>
        if (bytesLines c a.toNat n).all fun q => k.present (q % 32768) then .ok ([], k.vrfNat a.toNat n, w) else .error none

/-- Element e: its source and its place. -/
def W.element (w : W) (c ch : Nat) (x : Copy) (e : Nat) : Got :=
  match w.srcElem c ch x e with
  | .error none => .wait
  | .error (some f) => .fault f
  | .ok (src, v, w) =>
    match w.dstPlace c ch x e with
    | .error none => .wait
    | .error (some f) => .fault f
    | .ok (p, w) => .ok { src := (List.range src.length).zip src, val := v, dst := p } w

/-! ### Requests (R93, R99, R100; 03 R74) -/

/-- The row of element e has its index (R100). -/
def Copy.indexed (x : Copy) (e : Nat) : Bool := !(Tpl.gather x.img) || decide (e / Tpl.rowLen x.img < x.idx.length)
/-- Element e is read by the request that reads element a and those up to it: its first byte lies in the line where the last
byte of the one before it lies, so that a line that two of them share is read once (11 R266). -/
def Copy.together (x : Copy) (a e : Nat) : Bool :=
  e == a || decide (x.srcAddr e / 128 = (x.srcAddr (e - 1) + Tpl.esize x.img - 1) / 128)
/-- The destination lines of an element, whatever their space: the first and the last. -/
def Copy.dstSpan (x : Copy) (e : Nat) : Int × Int :=
  (x.dstAddr e / 128, (x.dstAddr e + Tpl.dsize x.img - 1) / 128)
/-- Element e or one after it writes a destination line of element a. -/
def Copy.shares (x : Copy) (a e : Nat) : Bool :=
  x.dstFrom e (128 * (x.dstSpan a).1 - Tpl.dsize x.img + 1) (128 * (x.dstSpan a).2 + 127)
/-- No element from e on writes a destination line of elements first .. e-1: those lines can be written whole, so that every
line, every record and every 16-byte beat of them is old or new (02 R61; R108; 05 R143). -/
def Copy.closed (x : Copy) (first e : Nat) : Bool :=
  (List.range (e - first)).all fun k => !(x.shares (e - 1 - k) e)
/-- The next element to take in hand. -/
def Copy.front (x : Copy) : Nat := x.done + x.reading.length
/-- The elements in hand can be written whole. -/
def Copy.whole (x : Copy) : Bool := !x.reading.isEmpty && x.closed x.done x.front

/-- Elements from e on that one request reads, the first taken. -/
def W.gatherElems (w : W) (c ch : Nat) (x : Copy) (first : Nat) : Nat → Nat → List Elem × W
  | 0, _ => ([], w)
  | n + 1, e =>
    if e < Tpl.total x.img ∧ x.indexed e ∧ x.together first e ∧ (e = first ∨ !(x.closed x.done e)) then
      match w.element c ch x e with
      | .ok el w => let r := W.gatherElems w c ch x first n (e + 1); (el :: r.1, r.2)
      | _ => ([], w)
    else ([], w)

/-- The active copy of a channel that may take its next element in hand. -/
def Core.moving (k : Core) (ch : Nat) : Option Copy :=
  let q := k.chan ch
  q.act.filter fun x => x.checked && decide (q.st = 2) && x.ask.isEmpty && decide (x.writes = 0) && !x.whole &&
    decide (x.front < Tpl.total x.img) && x.indexed x.front && !k.chanHalt
/-- The active copy of a channel with a request of elements in hand to send. -/
def Core.asking (k : Core) (ch : Nat) : Option (Copy × HbmReq) :=
  let q := k.chan ch
  if k.chanHalt ∨ q.st ≠ 2 then none else q.act.bind fun x => x.ask.head?.map fun r => (x, r)
/-- A channel that has a request ready. -/
def W.chanReady (w : W) (c ch : Nat) : Bool :=
  ((w.core c).asking ch).isSome ||
  match (w.core c).moving ch with
  | none => false
  | some x => decide (x.wake ≤ w.clk) && match w.element c ch x x.front with | .ok .. => true | _ => false
/-- A channel's active copy is of low priority. -/
def Core.lowChan (k : Core) (ch : Nat) : Bool := (k.chan ch).act.any fun x => Tpl.lowpri x.img
/-- A channel without LOWPRI of a stage die has a request ready. -/
def W.otherReady (w : W) (d : Nat) : Bool :=
  w.cores.any fun e => decide (dieOf e.1 = d) && (List.range 8).any fun ch => !(e.2.lowChan ch) && w.chanReady e.1 ch
/-- The channel that the request server of core `c` serves (R93): one of low priority that has waited so long that the eight
of them are served within 64 cycles goes first. -/
def W.nextChan (w : W) (c : Nat) : Option Nat :=
  let k := w.core c
  let order := (List.range 8).map fun i => (k.cp.rr + 1 + i) % 8
  match order.find? fun ch => k.lowChan ch && w.chanReady c ch && decide (55 ≤ (k.chan ch).starve) with
  | some ch => some ch
  | none => order.find? fun ch => w.chanReady c ch && (!(k.lowChan ch) || !(w.otherReady (dieOf c)))

/-- The HBM lines of a list of byte addresses. -/
def linesOf (l : List Nat) : List Nat := (l.map (· / 128)).eraseDups

/-- The pages that the channel did not hold before `w'`, all of them in the gazetteer of `w` (R93). -/
def W.gazOnly (w w' : W) (c ch ctx : Nat) : Bool :=
  let fresh := ((w'.core c).chan ch).tlb.filter fun p => !(((w.core c).chan ch).tlb.contains p)
  !fresh.isEmpty && fresh.all fun p => (w.die (dieOf c)).gaz.contains (ctx, p)

/-- The first request of a channel that waits to be sent is sent. -/
def W.sendAsk (w : W) (c ch : Nat) : W :=
  match (w.core c).asking ch with
  | none => w
  | some (x, q) => (w.modAct c ch fun _ => { x with ask := x.ask.drop 1 }).hbmAsk q
/-- Elements are taken in hand, with the requests that read them; a translation that the gazetteer gives first takes 24
cycles (R93). -/
def W.takeElems (w : W) (c ch : Nat) : W :=
  match (w.core c).moving ch with
  | none => w
  | some x =>
    let r := w.gatherElems c ch x x.front 128 x.front
    if w.gazOnly r.2 c ch x.ctx then r.2.modAct c ch fun x => { x with wake := w.clk + 24 }
    else
      let ls := linesOf (r.1.map fun e => e.src.map (·.2)).flatten
      r.2.modAct c ch fun x =>
        { x with reading := x.reading ++ r.1, reads := x.reads + ls.length, land := w.clk
                 ask := ls.map fun ln => { src := c * 8 + ch, line := ln, write := false } }
/-- The reads of the translations that the next element of a channel waits for are made. -/
def W.askXlate (w : W) (c ch : Nat) : W :=
  match (w.core c).moving ch with
  | none => w
  | some x =>
    let held (va : Int) : Bool := ((w.core c).chan ch).tlb.any fun p => decide (0 ≤ va) && p.covers va.toNat
    let need (va : Int) : List AgentRead := if held va then [] else w.xlateReads (dieOf c) x.ctx va
    let side (sp : Nat) (a : Int) (n : Nat) : List AgentRead := if sp = 0 then need a ++ need (a + (n : Int) - 1) else []
    w.askReads (side (Tpl.ssp x.img) (x.srcAddr x.front) (Tpl.esize x.img) ++
      side (Tpl.dsp x.img) (x.dstAddr x.front) (Tpl.dsize x.img))
/-- COPY_REQUEST_ISSUE: one request of core `c`'s copy engine leaves. -/
def W.copyRequest (w : W) (c : Nat) : W :=
  let w := (List.range 8).foldl (fun w ch => w.askXlate c ch) w
  let low (ch : Nat) : Bool := (w.core c).lowChan ch && w.chanReady c ch
  let pick := w.nextChan c
  let w := ((List.range 8).filter low).foldl (fun w ch => w.modChan c ch fun q => { q with starve := q.starve + 1 }) w
  match pick with
  | none => w
  | some ch =>
    let w := (if ((w.core c).asking ch).isSome then w else w.takeElems c ch).sendAsk c ch
    let w := if (w.core c).lowChan ch then w.modChan c ch fun q => { q with starve := 0 } else w
    w.modCore c fun k => k.modCp fun e => { e with rr := ch }

/-- GATHER_INDEX_TAKE: the row that starts takes its index. -/
def W.takeIndex (w : W) (c ch : Nat) : W :=
  let q := (w.core c).chan ch
  match q.act, q.indices with
  | some x, i :: l =>
    if x.checked ∧ q.st = 2 ∧ Tpl.gather x.img ∧ x.front < Tpl.total x.img ∧ !(x.indexed x.front) then
      w.modChan c ch fun q => { q with act := some { x with idx := x.idx ++ [i] }, indices := l }
    else w
  | _, _ => w

/-! ### Landing (R81, R96, R97, R99, R105) -/

/-- A finished line of a marked copy keeps its final data (R104). -/
def Copy.keeps (x : Copy) (o ln : Nat) : Bool := !(Tpl.nomark x.img) && !(x.claims.any fun e => decide (e.1 = lineKey o ln))

/-- One converted element written at an atlas place. -/
def W.putElem (w : W) (x : Copy) (b v : Nat) : W :=
  let n := Tpl.dsize x.img
  match atlasLoc b with
  | some (.acc o off) => if Tpl.wadd x.img then w.accAdd o (off / 5) v else (w.atlasWrite b n v x.priv false).getD w
  | some (.vrf o off) =>
    (List.range n).foldl (fun w i =>
      if x.keeps o ((off + i) / 128) then w
      else w.setLine o ((off + i) / 128) (setLineBytes ((w.core o).line ((off + i) / 128)) ((off + i) % 128) 1 (v >>> (8 * i)))) w
  | _ => (w.atlasWrite b n v x.priv false).getD w

/-- The notes and clamp counts of one line of a copy; a RESCALE is pending once per channel (10 R238). -/
def W.copyNotes (w : W) (c ch : Nat) (x : Copy) (l : List (Nat × FNum × Bool)) : W :=
  let d := dieOf c
  let t : Tpl := x.img
  let trap (w : W) (on : Bool) (sv : Nat) : W :=
    if on && !((w.core c).pipe.attr.any fun a => decide (a.1 = ch) && decide (a.2.code = 8)) then
      (if x.stepped then w.stepEvent c x.bpc.toNat 3 8 (ch + 1) x.ticket else w).chanCause c ch
        { code := 8, sub := 2, i0 := rescaleInfo d sv }
    else w
  let w := if Tpl.note t then
      let r := w.noteRec d (Tpl.svid t) (l.map fun e => e.2.1)
      trap r.1 r.2 (Tpl.svid t)
    else w
  if Tpl.conv t = 3 ∨ Tpl.conv t = 4 then
    let r := w.clampRec d x.legend.svid (l.filter fun e => e.2.2).length
    trap r.1 r.2 x.legend.svid
  else w

/-- The home's table after a reduce copy's last add; a home in another package is told. -/
def W.reduceDone (w : W) (c ch : Nat) (x : Copy) : W :=
  match w.copyHome x with
  | some o => w.modCore o fun k => if k.slots.adm = some (c, ch) then { k with slots := k.slots.advance } else k
  | none => w

/-- The elements in hand are written: notes, progress, claims, the home's table. -/
def W.chunkDone (w : W) (c ch : Nat) : W :=
  match ((w.core c).chan ch).act with
  | none => w
  | some x =>
    let d := x.front
    let w := w.copyNotes c ch x (x.reading.map fun e => x.convert e.val)
    let gone := x.claims.filter fun e => decide (e.2 < d)
    let w := w.modChan c ch fun q =>
      { q with rprog := d / Tpl.rowLen x.img
               act := some { x with done := d, reading := [], crc := [], claims := x.claims.filter fun e => !decide (e.2 < d) } }
    let w := w.dropClaims (gone.map (·.1))
    if Tpl.wadd x.img ∧ d = Tpl.total x.img then w.reduceDone c ch x else w

/-- Bytes of the elements whose place is HBM. -/
def hbmCells (n : Nat) (l : List (Elem × Nat)) : List (Nat × Byte) :=
  (l.map fun e => match e.1.dst with | .hbm bs => bs.zip (toBytes n e.2) | _ => []).flatten

/-- The reads of the elements in hand are complete and none of their writes is under way. -/
def Copy.landed (x : Copy) (st clk : Nat) : Bool :=
  !x.reading.isEmpty && decide (x.reads = 0) && decide (x.writes = 0) && x.ask.isEmpty && x.bad.isNone && decide (st = 2) &&
    decide (x.land ≤ clk)
/-- The elements in hand are written now: their lines are whole, or the next element faults and the copy stops there. -/
def W.writable (w : W) (c ch : Nat) (x : Copy) : Bool :=
  decide (Tpl.total x.img ≤ x.front) || x.whole || match w.element c ch x x.front with | .fault _ => true | _ => false
/-- An element goes to an accumulator tile that is held (08 R190). -/
def State.tileBusy (s : State) (c : Nat) (x : Copy) : Bool :=
  x.reading.any fun e => match e.dst with
    | .here b => match atlasLoc b with | some (.acc o off) => s.writeWaits c x.ctx (.acc o off) | _ => false
    | _ => false

/-! ### Undefined contents (R104, R106) -/

/-- A free value at a place. -/
def W.freePlace (w : W) (x : Copy) (p : Place) : W :=
  let n := Tpl.dsize x.img
  let v := w.freeWord
  match p with
  | .here b => v.2.putElem x b (v.1.toNat % 2 ^ (8 * n))
  | .hbm bs => v.2.hbmWrite (bs.zip (toBytes n v.1.toNat))
  | .far .. => w
/-- The destinations of some elements become undefined; finished lines keep their data. -/
def W.freeElems (w : W) (c ch : Nat) (x : Copy) (l : List Nat) : W :=
  l.foldl (fun w e =>
    match w.dstPlace c ch x e with
    | .ok (p, w) => w.freePlace x p
    | .error _ => w) w
/-- The elements of rows at or above RPROG. -/
def Copy.above (x : Copy) (rprog : Nat) : List Nat :=
  let b := rprog * Tpl.rowLen x.img
  (List.range (Tpl.total x.img - b)).map (b + ·)
/-- The elements in lines that a copy has not finished: those not written, and those that share a line with one (R106). -/
def Copy.unfinished (x : Copy) : List Nat :=
  ((List.range x.done).filter fun e => x.shares e x.done) ++
    (List.range (Tpl.total x.img - x.done)).map (x.done + ·)
/-- The accumulator words of a reduce copy's elements of rows at or above RPROG, with what they hold. -/
def State.addWords (s : State) (x : Copy) (rprog : Nat) : List (Nat × Nat × Acc40) :=
  (x.above rprog).filterMap fun e =>
    match s.target x.ctx (x.dstAddr e).toNat 5 with
    | some (.here _ (.acc o off)) => some (o, off / 5, (s.core o).acc (off / 5 / 4096) (off / 5 % 4096))
    | _ => none
/-- Accumulator words become undefined. -/
def W.freeWords (w : W) (l : List (Nat × Nat × Acc40)) : W :=
  l.foldl (fun w e =>
    let v := w.freeWord
    v.2.modCore e.1 fun k => k.setAcc (e.2.1 / 4096) (e.2.1 % 4096) (v.1.truncate 40)) w

/-! ### Element faults (R102) -/

/-- The copy stops at its next element: what it has written of rows at or above RPROG is undefined (R104). The sums of a
reduce copy stay with the copy, which goes on from them when it resumes. -/
def W.copyStop (w : W) (c ch : Nat) (f : ElemFault) : W :=
  let q := (w.core c).chan ch
  match q.act with
  | none => w
  | some x =>
    let l := if Tpl.wadd x.img then w.addWords x q.rprog else []
    let w := if Tpl.wadd x.img then w.freeWords l else w.freeElems c ch x (x.above q.rprog)
    (w.freeWord.2.modAct c ch fun x => { x with reading := [], ask := [], bad := none, words := l }).chanFault c ch f.1 f.2

/-- The first element in hand whose leased range is over (03 R89). -/
def State.leaseStop (s : State) (x : Copy) : Option Nat :=
  x.reading.findIdx? fun e => match e.dst with
    | .far r a true => s.leaseOver x.ctx r a
    | _ => false
/-- The copy stops at element `n` of those in hand, whose access the lender would not admit any more (03 R89): those before it
are written first. -/
def W.copyLease (w : W) (c ch : Nat) (x : Copy) (n : Nat) : W :=
  if n = 0 then
    w.copyStop c ch (4, { code := 7, sub := 3, i0 := word ((x.dstAddr x.done) % 2 ^ 64).toNat })
  else w.modAct c ch fun x => { x with reading := x.reading.take n }

/-- COPY_LINE_DONE: the elements in hand have been read; they are converted and written. -/
def W.copyLine (w : W) (c ch : Nat) : W :=
  match ((w.core c).chan ch).act with
  | none => w
  | some x =>
    if !(x.landed ((w.core c).chan ch).st w.clk) || !(w.writable c ch x) || w.tileBusy c x then w
    else match w.leaseStop x with
    | some k => w.copyLease c ch x k
    | none =>
      let n := Tpl.dsize x.img
      let l := x.reading.map fun e => (e, (x.convert e.val).1)
      let wakes := x.reading.any fun e => match e.dst with | .here _ => true | _ => false
      let last := decide (Tpl.total x.img ≤ x.front)
      let w := l.foldl (fun w e =>
        match e.1.dst with
        | .here b => w.putElem x b e.2
        | .far r a virt =>
          w.send x.ctx r (if Tpl.wadd x.img then 6 else 0)
            (if Tpl.wadd x.img then [1 + word (b2n last), word a, word c, word (Tpl.rslot x.img)] else [word a, word n, word (b2n virt)])
            (toBytes n e.2)
        | .hbm _ => w) w
      let w := if wakes then w.wake else w
      let cells := hbmCells n l
      let ls := linesOf (cells.map (·.1))
      if ls.isEmpty then w.chunkDone c ch
      else w.modAct c ch fun x =>
        { x with writes := ls.length
                 ask := ls.map fun ln =>
                   { src := c * 8 + ch, line := ln, write := true, data := cells.filter fun e => decide (e.1 / 128 = ln) } }

/-- A line that the copy read is uncorrectable and its other requests are complete. -/
def Core.readBad (k : Core) (ch : Nat) : Option Nat :=
  let q := k.chan ch
  (q.act.filter fun x => decide (q.st = 2) && decide (x.reads = 0) && decide (x.writes = 0) && x.ask.isEmpty).bind (·.bad)
/-- COPY_FAULT: the next element of the channel's copy cannot be moved, or what it read is uncorrectable. -/
def W.copyFault (w : W) (c ch : Nat) : W :=
  match (w.core c).readBad ch with
  | some ln => w.copyStop c ch (7, { code := 10, sub := 2, i0 := word (128 * ln) })
  | none =>
    match (w.core c).moving ch with
    | none => w
    | some x =>
      if !x.reading.isEmpty then w
      else match w.element c ch x x.front with | .fault f => w.copyStop c ch f | _ => w

/-- A list whose every entry is there. -/
def allSome {α : Type} : List (Option α) → Option (List α)
  | [] => some []
  | none :: _ => none
  | some x :: l => (allSome l).map (x :: ·)
/-- The die at whose landing port an element of core `c`'s copy arrives. -/
def Elem.landDie (el : Elem) (c : Nat) : Nat :=
  match el.dst with
  | .here a => match atlasLoc a with | some l => l.die | none => dieOf c
  | _ => dieOf c
/-- The first and last source line of element e. -/
def Copy.srcSpan (x : Copy) (e : Nat) : Int × Int := (x.srcAddr e / 128, (x.srcAddr e + Tpl.esize x.img - 1) / 128)
/-- The elements in hand that use a source line are read again from it. -/
def W.rereadLine (w : W) (c ch : Nat) (x : Copy) (ln : Int) : W :=
  let els := ((List.range x.reading.length).zip x.reading).map fun e =>
    let s := x.srcSpan (x.done + e.1)
    if s.1 = ln ∨ s.2 = ln then
      match w.element c ch x (x.done + e.1) with
      | .ok el _ => some { el with dst := e.2.dst }
      | _ => none
    else some e.2
  match allSome els with
  | none => w.modAct c ch fun x => { x with reading := [], crc := ln :: x.crc }
  | some l =>
    let ls := linesOf (l.map fun e => e.src.map (·.2)).flatten
    w.modAct c ch fun x =>
      { x with reading := l, crc := ln :: x.crc, reads := ls.length
               ask := ls.map fun q => { src := c * 8 + ch, line := q, write := false } }
/-- LANDING_CRC_RETRY: a CRC mismatch at the landing of the line where element `n` of those in hand begins; the line is read
again once, then the copy stops (03 R81). -/
def W.crcRetry (w : W) (c ch n : Nat) (syn : Word) : W :=
  match ((w.core c).chan ch).act with
  | none => w
  | some x =>
    match x.reading[n]? with
    | none => w
    | some el =>
      if !(x.landed ((w.core c).chan ch).st w.clk) then w
      else
        let ln := (x.srcSpan (x.done + n)).1
        let w := w.errorRecord (el.landDie c) (if x.crc.contains ln then 5 else 4) 1 (whoOf c ch) 0 syn.toNat
        if x.crc.contains ln then w.copyStop c ch (softFault 2 (word ((x.srcAddr (x.done + n)) % 2 ^ 64).toNat))
        else w.rereadLine c ch x ln

/-- The two results of the converter differ: an uncorrectable error of the line (03 R80, R81). -/
def W.convBad (w : W) (c ch n : Nat) (syn : Word) : W :=
  match ((w.core c).chan ch).act with
  | none => w
  | some x =>
    match x.reading[n]? with
    | none => w
    | some el =>
      if !(x.landed ((w.core c).chan ch).st w.clk) ∨ Tpl.conv x.img = 0 then w
      else
        let pa := match w.element c ch x (x.done + n) with
          | .ok e _ => (e.src.map (·.2)).headD 0
          | _ => 0
        (w.errorRecord (el.landDie c) 2 1 (whoOf c ch) (pa / 128 * 128) syn.toNat).copyStop c ch
          (softFault 2 (word ((x.srcAddr (x.done + n)) % 2 ^ 64).toNat))

/-! ### The end of a copy (R90, R98, R99) -/

/-- The next copy of the channel becomes active, or the channel is IDLE. -/
def Channel.next (q : Channel) : Channel :=
  match q.queue with
  | [] => { q with st := 0, act := none, follow := none }
  | x :: l => { q with st := x.first, act := some x, queue := l, rprog := 0, follow := none }

/-- The active copy has finished; a stepped bundle's copy adds its event. -/
def W.copyEnd (w : W) (c ch : Nat) : W :=
  let q := (w.core c).chan ch
  let w := match q.act with
    | some x => if x.stepped then w.stepEvent c x.bpc.toNat 1 0 (ch + 1) q.ticket else w
    | none => w
  w.modChan c ch Channel.next

/-- The atlas address of word `i` of core `o`'s store. -/
def accAtlas (o i : Nat) : Nat := o * 2 ^ 35 + 0x1000000 + 5 * i
/-- The release performed: one atomic add to the word; `none` while it must wait, for the word or for an earlier write of
the core to a region bound to it (11 R259, R263). -/
def W.copyRelease (w : W) (c : Nat) (x : Copy) : Except (Option ElemFault) W :=
  let t : Tpl := x.img
  let v := word (bits t 288 32)
  match w.syncPlace x.ctx (Tpl.rsync t) with
  | none => .error none
  | some (.inr (r, a)) =>
    match w.syncRefused x.ctx a with
    | (some f, _) => .error (some f)
    | (none, w) => .ok ((w.released c (Tpl.scope t)).send x.ctx r 1 [word 0x284, word a, v, 0, word (Tpl.scope t + 8)] [])
  | some (.inl (o, i)) =>
    if w.accWaits o x.ctx (i / 4096) || w.frozen c (dieOf o) x.ctx ||
        w.writesOpen c x.seq (w.boundTo c x.tid o x.ctx (word (accAtlas o i))) then .error none
    else .ok ((w.released c (Tpl.scope t)).atWord o i 0x284 v 0).2.wake

/-- The active copy has finished once its release is performed and its follow-on handed over. -/
def W.copyClose (w : W) (c ch : Nat) : W :=
  let q := (w.core c).chan ch
  match q.act with
  | none => w
  | some x =>
    if (x.relDone || !(Tpl.rel x.img)) && (x.folDone || decide (Tpl.fid x.img = 0)) && q.follow.isNone then w.copyEnd c ch else w

/-- COPY_FINISH: after the last write the follow-on is formed and the release performed; neither waits for the other. -/
def W.copyFinish (w : W) (c ch : Nat) : W :=
  let q := (w.core c).chan ch
  match q.act with
  | none => w
  | some x =>
    let t : Tpl := x.img
    if !x.checked ∨ q.st ≠ 2 ∨ x.done < Tpl.total t ∨ !x.reading.isEmpty ∨ (w.core c).chanHalt then w
    else
      let w := if Tpl.fid t = 0 ∨ x.folDone then w else w.modChan c ch fun q =>
        { q with act := some { x with folDone := true }
                 follow := some (Tpl.fid t, word (bits t 480 32), BitVec.ofNat 4 (bits t 460 4)) }
      -- the adds of a reduce copy to another package have been performed there when a free value says so (11 R263)
      let v := if (w.copyFar x).isSome then w.freeWord else (0, w)
      let w := v.2
      if !(Tpl.rel t) || x.relDone then w.copyClose c ch
      else if bitAt v.1 63 then w
      else match w.copyRelease c x with
        | .error none => w
        | .error (some f) => w.freeWord.2.chanFault c ch f.1 f.2
        | .ok w => (w.modAct c ch fun x => { x with relDone := true }).copyClose c ch

/-- FOLLOW_ON_HANDOVER: the core takes the follow-on when the replay queue has a place for it (13 R299). -/
def W.followHand (w : W) (c ch : Nat) : W :=
  let k := w.core c
  let q := k.chan ch
  match q.follow with
  | none => w
  | some (fid, v, m) =>
    let u := k.replayUse
    if k.chanHalt ∨ q.st ≠ 2 ∨ 48 ≤ u.1 ∨ 30 < u.2 + b2n (isMma fid) then w
    else
      let f : FollowOn :=
        { id := fid, val := v, m := m, ch := ch, seq := k.pipe.seq, info := q.info ch
          tpl := match q.act with | some x => word x.tpl | none => 0
          stepped := q.act.any (·.stepped), bpc := match q.act with | some x => x.bpc | none => 0 }
      let w := w.modCore c fun k =>
        { k with cp := { k.cp with follows := k.cp.follows ++ [f] }, pipe := { k.pipe with seq := k.pipe.seq + 1 } }
      (w.modChan c ch fun q => { q with follow := none }).copyClose c ch

/-! ### Abort (R106) -/

/-- A copy whose channel is aborted makes no further request. -/
def Copy.noAsk (x : Copy) : Copy :=
  { x with reads := x.reads - (x.ask.filter fun q => !q.write).length
           writes := x.writes - (x.ask.filter fun q => q.write).length, ask := [] }
/-- A channel enters ABORT: its queue and indices go. -/
def W.chanAbort (w : W) (c ch : Nat) : W :=
  w.modChan c ch fun q =>
    if q.st = 0 then q
    else { q with st := 5, queue := [], indices := [], follow := none, act := q.act.map Copy.noAsk
                  dropped := q.dropped ++ q.queue }

/-- What an aborted copy leaves undefined: lines it had not finished; of a reduce copy, only the words whose adds were
admitted and are not complete. -/
def W.abortFree (w : W) (c ch : Nat) (x : Copy) : W :=
  if !(w.cause1Ok x) then w
  else if Tpl.wadd x.img then x.reading.foldl (fun w e => w.freePlace { x with img := setBits x.img 339 1 0 } e.dst) w
  else w.freeElems c ch x x.unfinished
/-- The admission of an aborted reduce copy ends; its entry stays current. -/
def W.abortAdmit (w : W) (c ch : Nat) (x : Copy) : W :=
  match w.copyHome x, w.copyFar x with
  | some o, _ =>
    w.modCore o fun k => if k.slots.adm = some (c, ch) then { k with slots := { k.slots with adm := none } } else k
  | none, some (r, b) => if x.checked then w.send x.ctx r 6 [3, word b, word c, word (Tpl.rslot x.img)] [] else w
  | none, none => w

/-- COPY_ABORT_DRAIN: its admitted requests are complete; claims are withdrawn and the channel is IDLE. -/
def W.abortDrain (w : W) (c ch : Nat) : W :=
  let q := (w.core c).chan ch
  if q.st ≠ 5 ∨ q.act.any fun x => decide (x.reads ≠ 0 ∨ x.writes ≠ 0) then w
  else
    let all := q.act.toList ++ q.dropped
    let w := all.foldl (fun w x => (w.abortFree c ch x).dropClaims (x.claims.map (·.1))) w
    let w := match q.act with | some x => w.abortAdmit c ch x | none => w
    w.modChan c ch fun q => { q with st := 0, cause := 8, act := none, dropped := [] }

/-! ### The controllers' queues (03 R74, R75) -/

/-- The bytes of an admitted read reach the elements that wait for them; an uncorrectable line stops the copy. -/
def W.readLine (w : W) (src ln : Nat) (ev : Option ReadEvent) : W :=
  let c := src / 8
  let ch := src % 8
  let here (p : Nat × Nat) : Bool := decide (p.2 / 128 = ln)
  let fill (e : Elem) : Elem :=
    { e with src := e.src.filter fun p => !(here p)
             val := (e.src.filter here).foldl (fun v p => v + (w.byte p.2).toNat * 2 ^ (8 * p.1)) e.val }
  let r := w.readRecord (stackOf (128 * ln)) 1 (whoOf c ch) (128 * ln) ev
  let w := r.2
  if !r.1 then w.modAct c ch fun x => { x with bad := some ln }
  else w.modAct c ch fun x => { x with reading := x.reading.map fill }

/-- The waiting request that the controller admits next: round-robin by source port. DESIGN CHOICE (log 101): a source port
is a copy channel of a core, ordered as core * 8 + channel, or another agent of the package after them. -/
def nextPort (last : Nat) (l : List HbmReq) : Option HbmReq :=
  match l.filter fun q => decide (last < q.src) with
  | q :: r => some (r.foldl (fun a y => if y.src < a.src then y else a) q)
  | [] =>
    match l with
    | [] => none
    | q :: r => some (r.foldl (fun a y => if y.src < a.src then y else a) q)

/-! ### The steps -/

def execCopyAccept (c ch : Nat) (s : State) : Host.Outcome State Fault Refusal := go s ((W.of s).copyAccept c ch)
def execCopyActivate (c ch : Nat) (s : State) : Host.Outcome State Fault Refusal := go s ((W.of s).copyActivate c ch)
def execCopyAcquireDone (c ch : Nat) (s : State) : Host.Outcome State Fault Refusal := go s ((W.of s).copyAcquire c ch)
def execCopyRequestIssue (c : Nat) (s : State) : Host.Outcome State Fault Refusal := go s ((W.of s).copyRequest c)
def execGatherIndexTake (c ch : Nat) (s : State) : Host.Outcome State Fault Refusal := go s ((W.of s).takeIndex c ch)
def execCopyLineDone (c ch : Nat) (s : State) : Host.Outcome State Fault Refusal := go s ((W.of s).copyLine c ch)
def execReduceAdmit (home : Nat) (s : State) : Host.Outcome State Fault Refusal := go s ((W.of s).reduceAdmit home)
def execCopyFinish (c ch : Nat) (s : State) : Host.Outcome State Fault Refusal := go s ((W.of s).copyFinish c ch)
def execFollowOnHandover (c ch : Nat) (s : State) : Host.Outcome State Fault Refusal := go s ((W.of s).followHand c ch)
def execCopyFault (c ch : Nat) (s : State) : Host.Outcome State Fault Refusal := go s ((W.of s).copyFault c ch)
def execCopyAbortDrain (c ch : Nat) (s : State) : Host.Outcome State Fault Refusal := go s ((W.of s).abortDrain c ch)
def execLandingCrcRetry (c ch : Nat) (e : LandingError) (s : State) : Host.Outcome State Fault Refusal :=
  go s (if e.conv then (W.of s).convBad c ch e.n e.syn else (W.of s).crcRetry c ch e.n e.syn)
def execApertureStart (c ch : Nat) (v : BitVec 64) (s : State) : Host.Outcome State Fault Refusal :=
  go s ((W.of s).apertureWord c ch v false)
def execApertureResume (c ch : Nat) (v : BitVec 64) (s : State) : Host.Outcome State Fault Refusal :=
  go s ((W.of s).apertureWord c ch v true)
end Sys2Proof.Machine
end

