-- ==== Sys2Proof/Machine/Cp.lean ====
section
/-!
DEFINITION. The cp unit: TPLW, CPGO, GQPUSH, CPWAIT, CPSTAT, CPABORT (04 R110..R114), and a follow-on's issue (R98).
-/

namespace Sys2Proof.Machine

/-- The item of a cp operation. -/
def TCtx.cpItem (t : TCtx) (w : W) (lat v : Nat) : Res :=
  .ok (w.addItem t.c
    { kind := .res, id := t.id, m := t.m, seq := t.seq, due := t.run + lat, wr := [(0x8c0, lineOf (word v))]
      bpc := word t.bpc })

/-- TPLW: three lines become template n whole (R111). -/
def trigTplw : TrigFn := fun t w =>
  let o := (w.core t.c).regs.portW 0x8c0
  let f := bits o 0 15
  let ls := [f, f + 1, f + 2]
  if t.m ≠ 0 ∨ bits t.v 6 58 ≠ 0 ∨ bits o 15 49 ≠ 0 then t.engine
  else match ls.findSome? fun ln => readCheck t.pre t.c t.env false t.slot t.id ln with
    | some x => .trap x
    | none =>
      if !(ls.all t.k.present) then .hold 3 none
      else
        let img : Tpl := BitVec.ofNat 3072
          ((t.k.line f).toNat + (t.k.line (f + 1)).toNat * 2 ^ 1024 + (t.k.line (f + 2)).toNat * 2 ^ 2048)
        t.cpItem (w.modCore t.c fun k => k.modCp fun e => { e with tpl := Tab.put 0 e.tpl (bits t.v 0 6) img }) 8
          (Tpl.verdict img)

/-- Starts of a channel that are on their way: in the commit buffer, or at the channel. -/
def Core.startsComing (k : Core) (ch : Nat) : Nat :=
  ((k.chan ch).pend.filter fun q => !q.resume && !q.set).length +
    (k.cbuf.filter fun e => match e.2 with | .cpgo j q => decide (j = ch) && !q.resume | _ => false).length
/-- Places of a channel in use: the active copy, its queue, starts on their way. -/
def Core.startsUsed (k : Core) (ch : Nat) : Nat :=
  b2n (k.chan ch).act.isSome + (k.chan ch).queue.length + k.startsComing ch

/-- A copy start or tier command that the running task issued (12 R274 ENGINE). -/
def W.issued (w : W) (c agent n : Nat) : W :=
  w.modCore c fun k => { k with running := k.running.map fun r => { r with cmds := r.cmds ++ [(c, agent, n)] } }

/-- CPGO: a start, or with M[3] a resume, of channel M[2:0] (R112). -/
def trigCpgo : TrigFn := fun t w =>
  let ch := bits t.m 0 3
  let res := bitAt t.m 3
  let q := t.k.chan ch
  let st : Start :=
    { v := t.v, offs := (w.core t.c).regs.portW 0x8c0, resume := res, priv := t.env.priv, svFirst := t.env.svFirst
      svCount := t.env.svCount, bpc := word t.bpc, seq := t.seq, stepped := t.k.stepArm, tid := t.k.tid }
  let n := q.ticket + t.k.startsComing ch
  -- a resume or an abort on its way leaves no FAULT for this one (R112)
  let gone := q.pend.any (·.resume) || t.k.cbuf.any fun e =>
    match e.2 with | .cpgo j y => decide (j = ch) && y.resume | .cpabort j => decide (j = ch) | _ => false
  if res then t.cpItem (w.buffer t.c (.cpgo ch st)) 4 (n % 65536 + (if q.st = 4 ∧ !gone then 0 else 2 ^ 63))
  else if bits t.v 6 58 ≠ 0 then t.engine
  else if 4 ≤ t.k.startsUsed ch then .hold 5 none
  else t.cpItem ((w.buffer t.c (.cpgo ch st)).issued t.c ch ((n + 1) % 65536)) 4 ((n + 1) % 65536)

/-- GQPUSH: one index for channel M[2:0] (R113). -/
def trigGqpush : TrigFn := fun t w =>
  let ch := bits t.m 0 3
  let coming := (t.k.cbuf.filter fun e => match e.2 with | .gqpush j _ => decide (j = ch) | _ => false).length
  if bitAt t.m 3 ∨ bits t.v 32 32 ≠ 0 then t.engine
  else if 64 ≤ (t.k.chan ch).indices.length + coming then .hold 5 none
  else .ok (w.buffer t.c (.gqpush ch t.v))

/-- A channel mask without reserved bits. -/
def TCtx.maskOk (t : TCtx) (n : Nat) : Bool := decide (t.m = 0) && decide (bits t.v n (64 - n) = 0)
/-- The mask of the channels of which `f` holds. -/
def chanMask (f : Nat → Bool) : Nat := (List.range 8).foldl (fun a i => a + b2n (f i) * 2 ^ i) 0

/-- CPWAIT: held until every channel of the mask is IDLE or FAULT (R114). -/
def trigCpwait : TrigFn := fun t w =>
  if !(t.maskOk 8) then t.engine
  else if (List.range 8).any fun i => bitAt t.v i && t.k.chanBusy i then .hold 8 none
  else t.cpItem w 4 (chanMask fun i => decide ((t.k.chan i).st = 4))

/-- CPSTAT: the status word (R103). -/
def trigCpstat : TrigFn := fun t w =>
  if !(t.maskOk 3) then t.engine else t.cpItem w 4 (t.k.chan (bits t.v 0 3)).status.toNat

/-- CPABORT: the channels of the mask that are not IDLE end their copies; the result names every channel that was not IDLE
(R106, R114). -/
def trigCpabort : TrigFn := fun t w =>
  let busy (i : Nat) : Bool := t.k.chanBusy i || decide ((t.k.chan i).st = 4)
  if !(t.maskOk 8) then t.engine
  else
    let w := ((List.range 8).filter fun i => bitAt t.v i && busy i).foldl (fun w i => w.buffer t.c (.cpabort i)) w
    t.cpItem w 4 (chanMask busy)

def execTplw (f : Slot) (s : State) := execTrigger (.tplw f) trigTplw s
def execCpgo (f : Slot0) (c : BitVec 3) (s : State) := execTrigger (.cpgo f c) trigCpgo s
def execCpgoResume (f : Slot0) (c : BitVec 3) (s : State) := execTrigger (.cpgoResume f c) trigCpgo s
def execGqpush (f : Slot) (s : State) := execTrigger (.gqpush f) trigGqpush s
def execCpwait (f : Slot) (s : State) := execTrigger (.cpwait f) trigCpwait s
def execCpstat (f : Slot) (s : State) := execTrigger (.cpstat f) trigCpstat s
def execCpabort (f : Slot) (s : State) := execTrigger (.cpabort f) trigCpabort s

/-- Starts, indices and aborts that leave the commit buffer reach their channel (13 R303). -/
def W.sendStart (w : W) (c ch : Nat) (q : Start) : W := w.modChan c ch fun x => { x with pend := x.pend ++ [q] }
def W.sendIndex (w : W) (c ch : Nat) (v : Word) : W :=
  w.modChan c ch fun x => { x with indices := x.indices ++ [sext 32 v.toNat] }
/-- An abort follows the starts made before it. -/
def W.sendAbort (w : W) (c ch : Nat) : W :=
  ((((w.copyAccept c ch).copyAccept c ch).copyAccept c ch).copyAccept c ch).chanAbort c ch

/-! ### Follow-ons (R98) -/

/-- A follow-on's engine as the limiter and the core know it: 0 mx, 1 xb. -/
def followEng (id : Nat) : Nat := if isMma id then 0 else 1
/-- The engine of a follow-on is idle. -/
def Core.followIdle (k : Core) (id : Nat) : Bool :=
  if isMma id then k.eng.mx.isNone && k.eng.mxWait.isNone
  else (k.eng.xb.all fun o => o.started && decide (o.u + o.dc ≤ k.pipe.run)) && k.stopped.isEmpty
/-- A grant given to the follow-on that waits for an engine becomes the engine's. -/
def W.followGrant (w : W) (c eng : Nat) : W :=
  w.modSlew c fun l =>
    { l with granted := l.granted.map fun r => if r.core = c ∧ r.eng = 4 + eng then { r with eng := eng } else r }
/-- A follow-on's request at the limiter is withdrawn: a bundle has taken its engine. -/
def W.followWithdraw (w : W) (c eng : Nat) : W :=
  let keep (r : SlewReq) : Bool := !(decide (r.core = c) && decide (r.eng = 4 + eng))
  w.modSlew c fun l => { l with waiting := l.waiting.filter keep, granted := l.granted.filter keep }

/-- The oldest follow-on of core `c` for engine `eng` is issued in the run cycle of `pre`, with the ports as `w` holds them;
`trig` is its engine's trigger. A fault is attributed to its channel; a start that waits for its grant leaves the core running,
and a follow-on for the other engine does not wait for it. -/
def W.followOne (w : W) (pre : State) (c eng : Nat) (trig : Nat → TrigFn) : W :=
  match (w.core c).cp.follows.find? fun f => decide (followEng f.id = eng) with
  | none => w
  | some f =>
    if !((pre.core c).followIdle f.id && (w.core c).followIdle f.id) then w.followWithdraw c eng
    else
      let t : TCtx :=
        { c := c, id := f.id, slot := 8, m := f.m, val := lineOf f.val, pre := pre, env := pre.env c, seq := f.seq
          bpc := 0, dmx := 0, dxb := 0, dst := 0, agent := some (f.ch, f.info, f.tpl) }
      let drop (w : W) : W := w.modCore c fun k => k.modCp fun e => { e with follows := e.follows.erase f }
      match trig f.id t (w.followGrant c eng) with
      | .ok w => drop w
      | .trap x =>
        let w := drop w
        let w := if f.stepped then w.stepEvent c f.bpc.toNat 3 x.code (f.ch + 1) (bits f.info 16 16) else w
        w.modCore c fun k => k.addAttr f.ch { x with sub := followSub x, i1 := f.info, i2 := f.tpl, ord := f.seq }
      | .hold _ (some q) => w.modSlew c fun s => s.ask { q with eng := 4 + eng, since := w.clk }
      | .hold _ none | .wait => w
/-- The oldest follow-on of each engine (R98). Those that RTRAP puts back are issued from the restart bundle on (13 R300). -/
def W.followOn (w : W) (pre : State) (c : Nat) (trig : Nat → TrigFn) : W :=
  let k := pre.core c
  if k.pipe.pre ≠ 0 ∨ (k.mode = .handler ∧ (w.core c).mode = .task) then w
  else (w.followOne pre c 0 trig).followOne pre c 1 trig

/-- FOLLOW_ON_ISSUE in a cycle without a bundle: the ports as they stand. -/
def followTrig (id : Nat) : TrigFn := if isMma id then trigMma else trigXb
def execFollowOnIssue (c : Nat) (s : State) : Host.Outcome State Fault Refusal :=
  go s ((W.of s).followOn s c followTrig)

end Sys2Proof.Machine
end

