-- ==== Sys2Proof/Machine/Handle.lean ====
section
/-!
DEFINITION. Buffers and handles: HMAKE, HGIVE, HTAKE, HREL (05 R132..R134, R141).
-/

namespace Sys2Proof.Machine

/-- A buffer-table slot. -/
def Core.buf (k : Core) (i : Nat) : Buf := Tab.get {} k.bufs i
/-- The generation after a slot is freed. -/
def nextGen (g : Nat) : Nat := if 63 ≤ g then 1 else g + 1

/-- Owner core and slot that a handle of core `c`'s cluster names. -/
def handleOwner (c h : Nat) : Nat := c / 16 * 16 + h / 4096 % 16
def handleSlot (h : Nat) : Nat := h % 64
/-- A handle that matches a live slot of its owner. -/
def handleLive (b : Buf) (h : Nat) : Bool := decide (b.st ≠ 0) && decide (b.gen = h / 64 % 64)

/-- The lines that element e of a copy reads. -/
def State.srcLines (s : State) (c : Nat) (x : Copy) (e : Nat) : List Nat :=
  let a := x.srcAddr e
  let n := Tpl.esize x.img
  if a < 0 then []
  else if Tpl.ssp x.img = 2 then bytesLines c a.toNat n
  else if Tpl.ssp x.img = 1 then
    match s.target x.ctx a.toNat n with
    | some (.here _ (.vrf o off)) => bytesLines o off n
    | _ => []
  else []
/-- A copy touches a buffer of core `o`. -/
def State.touches (s : State) (c : Nat) (x : Copy) (o : Nat) (b : Buf) : Bool :=
  (List.range (Tpl.total x.img)).any fun e =>
    (s.srcLines c x e ++ s.dstLines c x e).any fun q =>
      decide (lineKey o b.first ≤ q) && decide (q ≤ lineKey o (b.first + b.cntm1))
/-- BUSY: an accepted copy on the issuer's channels touches the buffer. -/
def State.bufBusy (s : State) (c o : Nat) (b : Buf) : Bool :=
  (s.core c).cp.ch.any fun e => (e.2.act.toList ++ e.2.queue).any fun x => (Tpl.faults x.img).isEmpty && s.touches c x o b

/-- The item of a handle operation: its operand for a frame (the trigger value of an HMAKE), handle and status on `ls.h`. -/
def TCtx.handleItem (t : TCtx) (w : W) (lat h status : Nat) (fx : Fx) : Res :=
  .ok (w.addItem t.c
    { kind := .atr, id := t.id, m := t.m, seq := t.seq, due := t.run + lat, a := if t.id = 0x193 then t.v else word h, fx := fx
      wr := [(0x182, lineOf (word (h % 65536 + status * 65536)))], bpc := word t.bpc })
/-- A slot of the owner's table replaced. -/
def W.setBuf (w : W) (o ctx i : Nat) (b : Buf) : W := w.modLayer o ctx fun k => { k with bufs := Tab.put {} k.bufs i b }

/-- HMAKE: a new buffer of the issuer's own lines. DEDUCED (log 54): NO_SLOT comes before OVERLAP. -/
def trigHmake : TrigFn := fun t w =>
  let first := bits t.v 0 15
  let n := bits t.v 16 15
  let k := w.core t.c
  match ((List.range (n + 1)).map (first + ·)).find? fun ln => !(t.pre.allotted t.c t.env.ctx ln) with
  | some ln => t.window ln
  | none =>
    let meets (b : Buf) : Bool := decide (b.st ≠ 0) && decide (b.first ≤ first + n) && decide (first ≤ b.first + b.cntm1)
    match (List.range 64).find? fun i => decide ((k.buf i).st = 0) with
    | none => t.handleItem w 4 0 1 .none
    | some i =>
      if k.bufs.any fun e => meets e.2 then t.handleItem w 4 0 2 .none
      else
        let b : Buf := { first := first, cntm1 := n, holder := t.c % 16, st := 1, gen := (k.buf i).gen }
        t.handleItem (w.setBuf t.c t.env.ctx i b) 4 (b.handle t.c i) 0 .none

/-- HGIVE at the buffer table: the status, and the slot after it when it is OK. -/
def State.giveBuf (s : State) (c ctx h tg : Nat) : Nat × Option Buf :=
  let o := handleOwner c h
  let b := (s.layer o ctx).buf (handleSlot h)
  if !(handleLive b h) then (5, none)
  else if b.st ≠ 1 ∨ b.holder ≠ c % 16 then (3, none)
  else if s.bufBusy c o b then (6, none)
  else if tg = c % 16 ∨ !(s.coreEnabled (c / 16 * 16 + tg)) then (7, none)
  else (0, some { b with st := 2, target := tg })
/-- HREL at the buffer table: by the owner, the slot is freed; by another holder, the owner holds the buffer. DEDUCED (log 54): a
freed slot's other fields are zero, and so is the target of a buffer that is HELD. -/
def State.relBuf (s : State) (c ctx h : Nat) : Nat × Option Buf :=
  let o := handleOwner c h
  let b := (s.layer o ctx).buf (handleSlot h)
  if !(handleLive b h) then (5, none)
  else if b.st ≠ 1 ∨ b.holder ≠ c % 16 then (3, none)
  else if s.bufBusy c o b then (6, none)
  else if c = o then (0, some { gen := nextGen b.gen })
  else (0, some { b with holder := o % 16, target := 0, gap := none })

/-- HTAKE at the buffer table: an offered buffer is held by its target, or again by its giver. -/
def State.takeBuf (s : State) (c ctx h : Nat) : Nat × Option Buf :=
  let b := (s.layer (handleOwner c h) ctx).buf (handleSlot h)
  let me := c % 16
  if !(handleLive b h) then (5, none)
  else if b.st ≠ 2 ∨ (b.target ≠ me ∧ b.holder ≠ me) then (4, none)
  else (0, some { b with st := 1, holder := me, target := 0 })

/-- Operations of the issuer that a transfer comes after are not performed: handle operations, and with `stores` STAs. -/
def TCtx.earlier (t : TCtx) (w : W) (stores : Bool) : Bool :=
  (w.ownOpen t.c).any fun a => decide (a.seq < t.seq) && (a.handleOp || (stores && decide (a.op = 0x192)))
/-- A transfer that waits for them: a giver's right is suspended, and the table answers later. -/
def TCtx.transferLater (t : TCtx) (w : W) (h : Nat) : Res :=
  let o := handleOwner t.c h
  let i := handleSlot h
  let b := (w.layer o t.env.ctx).buf i
  let w := if t.id = 0x194 ∧ handleLive b h ∧ b.st = 1 ∧ b.holder = t.c % 16 then
      w.setBuf o t.env.ctx i { b with gap := some (t.c % 16, t.seq) }
    else w
  let w := w.addItem t.c
    { kind := .atr, id := t.id, m := t.m, seq := t.seq, due := t.run + 12, a := word h, fx := .right o t.env.ctx i
      await := .agent, bpc := word t.bpc }
  .ok (w.buffer t.c (.queue { seq := t.seq, op := t.id, addr := 0, x := t.v, y := word h, m := 0, ctx := t.env.ctx }))

/-- HGIVE: a held buffer is offered; the giver's right is suspended until the result. -/
def trigHgive : TrigFn := fun t w =>
  let h := bits ((w.core t.c).regs.portW 0x181) 0 16
  let o := handleOwner t.c h
  let i := handleSlot h
  let gap := some (t.c % 16, t.seq)
  let r := w.giveBuf t.c t.env.ctx h (bits t.v 0 4)
  if t.earlier w r.2.isSome then t.transferLater w h
  else match r with
    | (_, some b) => t.handleItem (w.setBuf o t.env.ctx i { b with gap := gap }) 12 h 0 (.right o t.env.ctx i)
    | (n, none) =>
      if n = 5 ∨ n = 3 then t.handleItem w 12 h n .none
      else t.handleItem (w.setBuf o t.env.ctx i { (w.layer o t.env.ctx).buf i with gap := gap }) 12 h n (.right o t.env.ctx i)

/-- HTAKE: the taker's right begins at the result. -/
def trigHtake : TrigFn := fun t w =>
  let h := bits t.v 0 16
  let o := handleOwner t.c h
  let i := handleSlot h
  if t.earlier w false then t.transferLater w h
  else match w.takeBuf t.c t.env.ctx h with
    | (n, none) => t.handleItem w 12 h n .none
    | (_, some b) =>
      t.handleItem (w.setBuf o t.env.ctx i { b with gap := some (t.c % 16, t.seq) }) 12 h 0 (.right o t.env.ctx i)

/-- HREL: a held buffer goes back to its owner, or to no one. -/
def trigHrel : TrigFn := fun t w =>
  let h := bits t.v 0 16
  let o := handleOwner t.c h
  let r := w.relBuf t.c t.env.ctx h
  if t.earlier w (r.2.isSome && decide (t.c ≠ o)) then t.transferLater w h
  else match r with
    | (n, none) => t.handleItem w 12 h n .none
    | (_, some b) => t.handleItem (w.setBuf o t.env.ctx (handleSlot h) b) 12 h 0 .none

/-! ### At the home -/

/-- A transfer that waited is performed at the owner's table. -/
def W.performTransfer (w : W) (c n : Nat) (a : AtOp) : W :=
  let h := a.y.toNat
  let o := handleOwner c h
  let i := handleSlot h
  let r := if a.op = 0x194 then w.giveBuf c a.ctx h (bits a.x 0 4)
    else if a.op = 0x195 then w.takeBuf c a.ctx h else w.relBuf c a.ctx h
  let w := w.modCore c fun k => { k with ats := k.ats.eraseIdx n }
  let w := match r.2 with
    | some b => w.setBuf o a.ctx i (if a.op = 0x196 then b else { b with gap := some (c % 16, a.seq) })
    | none => w
  w.answer c a.seq [(0x182, lineOf (word (h + r.1 * 65536)))]
/-- AT_PERFORM: an operation that releases nothing, or a transfer of a buffer, is performed. -/
def W.atPerform (w : W) (c n : Nat) : W :=
  match (w.core c).ats[n]? with
  | none => w
  | some a =>
    if a.handleOp then (if w.atFree c n a then w.performTransfer c n a else w)
    else w.tryAt c n fun a => decide (a.op ≠ 0x28b) && decide (a.rel = none)
def execAtPerform (c n : Nat) (s : State) : Host.Outcome State Fault Refusal := go s ((W.of s).atPerform c n)

def execHmake (f : Slot) (s : State) := execTrigger (.hmake f) trigHmake s
def execHgive (f : Slot) (s : State) := execTrigger (.hgive f) trigHgive s
def execHtake (f : Slot) (s : State) := execTrigger (.htake f) trigHtake s
def execHrel (f : Slot) (s : State) := execTrigger (.hrel f) trigHrel s

end Sys2Proof.Machine
end

