-- ==== Sys2Proof/Machine/Tier.lean ====
section
/-!
DEFINITION. The memory-tier engine (03 R82..R89): commands and their acceptance, the tensor stack, the spill engine, leases
on both sides.
-/

namespace Sys2Proof.Machine

/-! ### The block of a context (R87) -/

/-- The stack of a context on a die. -/
def State.stack (s : State) (d ctx : Nat) : Stack := Tab.get {} (s.die d).tier ctx
def W.modStack (w : W) (d ctx : Nat) (f : Stack → Stack) : W :=
  w.modDie d fun x => { x with tier := Tab.put {} x.tier ctx (f (Tab.get {} x.tier ctx)) }
/-- The block's fields: SSIZE, DSIZE in bytes, the marks in bytes, LEVW. -/
def State.tierBlk (s : State) (d ctx : Nat) : BitVec 256 := Tab.get tierReset (s.die d).tierBlk ctx
def State.ssize (s : State) (d ctx : Nat) : Nat := bits (s.tierBlk d ctx) 64 32
def State.deepSize (s : State) (d ctx : Nat) : Nat := if s.pkg.cxl then bits (s.tierBlk d ctx) 96 32 * 4096 else 0
/-- DESIGN CHOICE (log 106): HIGH's sixteen sixteenths have no code in four bits; the field's value is taken as it is, and
SBASE and SSIZE as they are written, a multiple of 32 KiB or not. -/
def State.highMark (s : State) (d ctx : Nat) : Nat := bits (s.tierBlk d ctx) 128 4 * s.ssize d ctx / 16
def State.lowMark (s : State) (d ctx : Nat) : Nat := bits (s.tierBlk d ctx) 132 4 * s.ssize d ctx / 16
def State.sbase (s : State) (d ctx : Nat) : Nat := bits (s.tierBlk d ctx) 0 39
def State.levw (s : State) (d ctx : Nat) : Word := word (bits (s.tierBlk d ctx) 136 64)

/-- Bytes of an entry: its header line and its data. -/
def StackEntry.size (e : StackEntry) : Nat := (e.len + 1) * 128
/-- Line `n` of some runs of lines. -/
def runLine : List (Nat × Nat) → Nat → Nat
  | [], n => n
  | (b, k) :: l, n => if n < k then b + n else runLine l (n - k)
/-- The HBM address of line `n` of an entry, header first: in the segment's lines that it takes (R84, R87). -/
def State.stackLine (s : State) (d ctx : Nat) (e : StackEntry) (n : Nat) : Nat := s.sbase d ctx + 128 * runLine e.runs n
/-- The HBM address of data line `n` of an entry. -/
def State.stackAddr (s : State) (d ctx : Nat) (e : StackEntry) (n : Nat) : Nat := s.stackLine d ctx e (n + 1)
/-- The entries of a stack, on it or leaving it. -/
def Stack.all (k : Stack) : List StackEntry := k.entries ++ k.leaving
/-- The spill engine moves the entry to the deep tier. -/
def Stack.movesOut (k : Stack) (e : StackEntry) : Bool := k.moving.any fun x => decide (x.1 = e.key) && !x.2.2
/-- Resident bytes of a stack, those of an entry that comes back among them, and spilled bytes, those of one that moves out
among them. -/
def Stack.resident (k : Stack) : Nat :=
  (k.all.filter fun e => e.resident || !e.runs.isEmpty).foldl (fun a e => a + e.size) 0
def Stack.spilled (k : Stack) : Nat :=
  (k.all.filter fun e => !e.resident || k.movesOut e).foldl (fun a e => a + e.size) 0

/-! ### The lines of the segment (log 24) -/

/-- A run put into a list of runs with rising places. -/
def putRun (x : Nat × Nat) (l : List (Nat × Nat)) : List (Nat × Nat) :=
  l.takeWhile (fun y => decide (y.1 < x.1)) ++ x :: l.dropWhile fun y => decide (y.1 < x.1)
/-- The runs between `at_` and `n` that rising runs leave free. -/
def gaps (n : Nat) : Nat → List (Nat × Nat) → List (Nat × Nat)
  | at_, [] => if at_ < n then [(at_, n - at_)] else []
  | at_, (b, k) :: l => (if at_ < b then [(at_, b - at_)] else []) ++ gaps n (Nat.max at_ (b + k)) l
/-- The first `n` lines of some runs. -/
def takeRuns : Nat → List (Nat × Nat) → List (Nat × Nat)
  | 0, _ => []
  | _, [] => []
  | n, (b, k) :: l => if n ≤ k then [(b, n)] else (b, k) :: takeRuns (n - k) l
/-- Where `n` lines go in a segment of `size` lines. DESIGN CHOICE (log 24): the lowest gap that holds them whole, else the
lowest free lines. -/
def Stack.room (k : Stack) (size n : Nat) : Option (List (Nat × Nat)) :=
  let free := gaps size 0 ((k.all.map (·.runs)).flatten.foldl (fun l x => putRun x l) [])
  if free.foldl (fun a x => a + x.2) 0 < n then none
  else match free.find? fun x => decide (n ≤ x.2) with
    | some x => some [(x.1, n)]
    | none => some (takeRuns n free)
/-- An entry changed. -/
def Stack.modEntry (k : Stack) (key : Nat) (f : StackEntry → StackEntry) : Stack :=
  let g (e : StackEntry) : StackEntry := if e.key = key then f e else e
  { k with entries := k.entries.map g, leaving := k.leaving.map g }
/-- An entry takes its lines, if there is room. -/
def Stack.place (k : Stack) (size : Nat) (e : StackEntry) : Stack :=
  match k.room size (e.len + 1) with
  | some l => k.modEntry e.key fun x => { x with runs := l }
  | none => k
/-- Pushed entries that wait for room take it, oldest first. -/
def Stack.placeAll (k : Stack) (size : Nat) : Stack :=
  let l := (k.all.filter fun e => e.resident && e.runs.isEmpty).foldl (fun (l : List StackEntry) e =>
    l.takeWhile (fun x => decide (x.key < e.key)) ++ e :: l.dropWhile fun x => decide (x.key < e.key)) []
  l.foldl (fun k e => k.place size e) k
/-- After a change of the resident bytes: waiting entries take their places, and at or below LOW the spill engine rests (R86). -/
def W.settleStack (w : W) (d ctx : Nat) : W :=
  let low := w.lowMark d ctx
  let size := w.ssize d ctx / 128
  w.modStack d ctx fun k => { k.placeAll size with spilling := k.spilling && decide (low < k.resident) }

/-! ### Triggers (R83, R84, R88) -/

/-- A command leaves its bundle: through the commit buffer to the engine; its status is due at u + 24. -/
def TCtx.tierCmd (t : TCtx) (w : W) : Res :=
  let o := (w.core t.c).regs.portW 0x900
  let w := w.addItem t.c
    { kind := .atr, id := t.id, m := t.m, seq := t.seq, due := t.run + 24, a := o, await := .agent, bpc := word t.bpc }
  let cmd : TierCmd := { seq := t.seq, op := t.id, o := o, t := t.v, m := t.m, bpc := word t.bpc, stepped := t.k.stepArm }
  .ok ((w.modCore t.c fun k => { k with tier := k.tier ++ [cmd] }).issued t.c 8 t.seq)

/-- PUSHT and POPT: a tensor of `len` lines (R84). DESIGN CHOICE (log 107): a length of 0 or above its limit, or lines past the
last one, raises ENGINE_FAULT, as a reserved bit does, and not WINDOW_FAULT. -/
def trigStackOp : TrigFn := fun t w =>
  let o := (w.core t.c).regs.portW 0x900
  let va := bitAt t.m 0
  let len := bits t.v 0 25
  let first := bits o 0 15
  if bits t.m 1 3 ≠ 0 ∨ bits t.v 25 39 ≠ 0 ∨ bits o 44 4 ≠ 0 ∨ len = 0 then t.engine
  else if va then (if 2 ^ 24 < len then t.engine else t.tierCmd w)
  else if bits o 15 29 ≠ 0 ∨ 32768 < first + len then t.engine
  else match ((List.range len).map (first + ·)).find? fun ln => !(t.pre.allotted t.c t.env.ctx ln) with
    | some ln => t.window ln
    | none =>
      match ((List.range len).map (first + ·)).find? fun ln => !(t.pre.lineRight t.c t.c t.env.ctx ln .own) with
      | some ln => .trap (handleFault t.slot ln t.id)
      | none => t.tierCmd w

/-- LEASE. DESIGN CHOICE (log 107): units 0 or above 1,024 raise ENGINE_FAULT. -/
def trigLease : TrigFn := fun t w =>
  let o := (w.core t.c).regs.portW 0x900
  if bits t.m 1 3 ≠ 0 ∨ bits o 10 54 ≠ 0 ∨ bits t.v 11 53 ≠ 0 ∨ bits t.v 0 11 = 0 ∨ 1024 < bits t.v 0 11 then t.engine
  else t.tierCmd w
/-- UNLEASE. -/
def trigUnlease : TrigFn := fun t w => if t.m ≠ 0 ∨ bits t.v 4 60 ≠ 0 then t.engine else t.tierCmd w
/-- LSTAT: slot, `:stk`, `:dl`. DESIGN CHOICE (log 107): `:stk` with `:dl`, or with a slot other than 0, raises ENGINE_FAULT. -/
def trigLstat : TrigFn := fun t w =>
  if 3 ≤ t.m.toNat ∨ bits t.v 4 60 ≠ 0 ∨ (t.m = 1 ∧ bits t.v 0 4 ≠ 0) then t.engine else t.tierCmd w

def execPusht (f : Slot) (s : State) := execTrigger (.pusht f) trigStackOp s
def execPopt (f : Slot) (s : State) := execTrigger (.popt f) trigStackOp s
def execLease (f : Slot) (s : State) := execTrigger (.lease f) trigLease s
def execUnlease (f : Slot) (s : State) := execTrigger (.unlease f) trigUnlease s
def execLstatSlot (f : Slot0) (s : State) := execTrigger (.lstatSlot f) trigLstat s
def execLstatDeadline (f : Slot0) (s : State) := execTrigger (.lstatDeadline f) trigLstat s
def execLstatStack (f : Slot0) (s : State) := execTrigger (.lstatStack f) trigLstat s

/-! ### Acceptance -/

/-- Entries that the spill engine may move: resident, pushed whole, oldest first. -/
def Stack.movable (k : Stack) : List StackEntry :=
  (k.entries.reverse.filter fun e => e.resident && !(k.movesOut e)).takeWhile fun e => decide (e.wrote = e.len) && !e.runs.isEmpty
/-- The oldest movable entries free `n` bytes, and the deep tier has `free` bytes for them (SpillRoom, R86). -/
def spillFor : List StackEntry → Nat → Nat → Bool
  | _, 0, _ => true
  | [], _ + 1, _ => false
  | e :: l, n + 1, free => decide (e.size ≤ free) && spillFor l (n + 1 - e.size) (free - e.size)

/-- The die's part of a command: status word and machine after. -/
abbrev TierRes := Nat × W

/-- Virtual address of line `n` of a `:va` command. -/
def TierJob.va (j : TierJob) (n : Nat) : Int := ((bits j.o 0 44 + n) * 128 : Nat)

/-- Contents that become undefined: the lines of a pop that it did not write. -/
def W.freeLines (w : W) (d ctx : Nat) (j : TierJob) : W :=
  (List.range (j.len - j.n)).foldl (fun w i =>
    let n := j.n + i
    let v := w.freeLine
    if bitAt j.m 0 then
      match (w.ahead.gazPage d ctx (j.va n)).elim ((w.ahead.walk (w.ptroot d ctx) (j.va n)).toOption) some with
      | some p =>
        let pa := p.pa (j.va n).toNat
        if p.remote.isSome ∨ !p.wr ∨ Config.hbmBytes ≤ pa then w
        else v.2.hbmWrite (((List.range 128).map (pa + ·)).zip (lineToBytes v.1))
      | none => w
    else
      let ln := bits j.o 0 15 + n
      (v.2.setLine j.core ln v.1).unclaim j.core ln) w

/-- PUSHT accepted (R84): its bytes are reserved; where they wait for entries to be spilled, so does the push. -/
def W.pushAccept (w : W) (c d ctx : Nat) (x : TierCmd) : TierRes :=
  let k := w.stack d ctx
  let len := bits x.t 0 25
  let need := (len + 1) * 128
  let size := w.ssize d ctx
  if size = 0 then (9, w)
  else if size < need then (2, w)
  else if !(spillFor k.movable (k.resident + need - size) (w.deepSize d ctx - k.spilled)) then (1, w)
  else
    let e : StackEntry := { key := k.nextKey, tag := BitVec.ofNat 16 (bits x.o 48 16), len := len }
    let j : TierJob := { core := c, seq := x.seq, op := x.op, o := x.o, m := x.m, len := len, key := e.key }
    (0, (w.modStack d ctx fun k =>
      { k with entries := e :: k.entries, jobs := k.jobs ++ [j], nextKey := k.nextKey + 1 }).settleStack d ctx)

/-- The destination lines of a `:vrf` pop. -/
def popLines (x : TierCmd) : List Nat :=
  if bitAt x.m 0 then [] else (List.range (bits x.t 0 25)).map (bits x.o 0 15 + ·)
/-- A claim on each line would exceed 255 (05 R125). -/
def State.popWaits (s : State) (c : Nat) (x : TierCmd) : Bool :=
  decide (x.op = 0x902) && (popLines x).any fun ln => decide (255 ≤ Tab.get 0 (s.core c).claims ln)

/-- POPT accepted (R84). -/
def W.popAccept (w : W) (c d ctx : Nat) (x : TierCmd) : TierRes :=
  let k := w.stack d ctx
  if w.ssize d ctx = 0 then (9, w)
  else match k.entries with
    | [] => (3, w)
    | e :: l =>
      if e.tag.toNat ≠ bits x.o 48 16 then (4, w)
      else if e.len ≠ bits x.t 0 25 then (5, w)
      else
        let j : TierJob := { core := c, seq := x.seq, op := x.op, o := x.o, m := x.m, len := e.len, key := e.key }
        let w := w.modStack d ctx fun k =>
          { k with entries := l, leaving := { e with popped := some 0 } :: k.leaving, jobs := k.jobs ++ [j] }
        (0, if bitAt x.m 0 then w.freeLines d ctx j else (popLines x).foldl (fun w ln => w.claim c ln) w)

/-- A lease slot of a context. -/
def Stack.lease (k : Stack) (i : Nat) : LeaseSlot := Tab.get {} k.leases i
def W.setLease (w : W) (d ctx i : Nat) (l : LeaseSlot) : W :=
  w.modStack d ctx fun k => { k with leases := Tab.put {} k.leases i l }
/-- A lease message to another package: kind 5. -/
def W.leaseMsg (w : W) (ctx rank : Nat) (body : List Nat) : W := w.send ctx rank 5 (body.map word) []

/-- LEASE accepted (R88). DESIGN CHOICE (log 107): it takes the lowest FREE slot, and NO_SLOT is judged before BAD_LENDER. -/
def W.leaseAccept (w : W) (d ctx : Nat) (x : TierCmd) : TierRes :=
  let k := w.stack d ctx
  let lender := bits x.o 0 10
  match (List.range 16).find? fun i => decide ((k.lease i).st = 0) with
  | none => (6, w)
  | some i =>
    if lender = w.pkg.rank.toNat ∨ w.pkg.dsize.toNat ≤ lender ∨ w.pkg.linkUp = 0 then (8, w)
    else
      let n := bits x.t 0 11
      let w := w.setLease d ctx i { st := 1, lender := lender, asked := n, part := bitAt x.m 0 }
      (i * 256, w.leaseMsg ctx lender [0, d, i, n, b2n (bitAt x.m 0)])

/-- The range of a slot that becomes FREE: an access to it faults (R89). -/
def W.leaseGone (w : W) (d ctx : Nat) (l : LeaseSlot) : W :=
  w.modStack d ctx fun k => { k with gone := k.gone ++ [(l.lender, l.base, l.units)] }
/-- UNLEASE accepted: the slot's next state (R88). -/
def W.unleaseAccept (w : W) (d ctx : Nat) (x : TierCmd) : TierRes :=
  let i := bits x.t 0 4
  let l := (w.stack d ctx).lease i
  match l.st with
  | 1 => (0, (w.setLease d ctx i {}).modStack d ctx fun k => { k with stale := k.stale ++ [(i, l.lender)] })
  | 3 => (0, w.setLease d ctx i {})
  | 5 => (0, (w.setLease d ctx i {}).leaseGone d ctx l)
  | 2 | 4 => (0, w.setLease d ctx i { l with st := 6 })
  | _ => (7, w)

/-- LSTAT's word (R88). -/
def State.lstat (s : State) (d ctx : Nat) (x : TierCmd) : Nat :=
  let k := s.stack d ctx
  let l := k.lease (bits x.t 0 4)
  if x.m = 1 then
    (k.entries.length % 2 ^ 24) * 2 ^ 8 + (k.entries.filter fun e => !e.resident).length % 2 ^ 24 * 2 ^ 32
  else if x.m = 2 then (if l.st = 4 ∨ l.st = 5 then l.deadline % 2 ^ 64 else 0)
  else l.st * 2 ^ 8 + l.units % 2 ^ 11 * 2 ^ 11 + l.base / 2 ^ 27 % 2 ^ 42 * 2 ^ 22

/-- A command accepted: the engine's checks, its status, its work. -/
def W.tierTake (w : W) (c : Nat) (x : TierCmd) : TierRes :=
  let d := dieOf c
  let ctx := ((w.core c).ctx).getD 0
  match x.op with
  | 0x901 => w.pushAccept c d ctx x
  | 0x902 => w.popAccept c d ctx x
  | 0x903 => w.leaseAccept d ctx x
  | 0x904 => w.unleaseAccept d ctx x
  | _ => (w.lstat d ctx x, w)

/-- A completed or stopped command leaves the core; a stepped bundle's adds its event (17 R356). -/
def W.tierOver (w : W) (c seq kind code : Nat) : W :=
  let w := match (w.core c).tier.find? fun x => decide (x.seq = seq) with
    | some x => if x.stepped then w.stepEvent c x.bpc.toNat kind code 9 0 else w
    | none => w
  w.modCore c fun k => { k with tier := k.tier.filter fun x => decide (x.seq ≠ seq) }

/-- TIER_ACCEPT: the engine accepts core `c`'s oldest command once it has left the commit buffer; the status is formed. -/
def W.tierAccept (w : W) (c : Nat) : W :=
  let k := w.core c
  match k.tier.find? fun x => !x.accepted with
  | none => w
  | some x =>
    -- a command held in a frame is offered again when the restart bundle issues (13 R300)
    if k.chanHalt ∨ 0 < k.pipe.pre ∨ w.popWaits c x then w
    else
      let r := w.tierTake c x
      let w := r.2.answer c x.seq [(0x900, lineOf (word r.1))]
      let w := w.modCore c fun k =>
        { k with tier := k.tier.map fun y => if y.seq = x.seq then { y with accepted := true } else y }
      let runs := decide (x.op ≤ 0x902) && decide (r.1 = 0)
      if runs then w else w.tierOver c x.seq 1 0

def execTierAccept (c : Nat) (s : State) : Host.Outcome State Fault Refusal := go s ((W.of s).tierAccept c)

/-! ### Data (R84, R85) -/

/-- An attributed cause of the engine at a core: INFO1 the trigger id, INFO2 `tier.o` (13 R305). -/
def W.tierCause (w : W) (ctx : Nat) (j : TierJob) (y : Cause) : W :=
  w.modLayer j.core ctx fun k => k.addAttr 8 { y with i1 := word j.op, i2 := j.o }
/-- A stopped command: its cause, its event, its end. -/
def W.tierStop (w : W) (ctx : Nat) (j : TierJob) (y : Cause) : W := (w.tierOver j.core j.seq 3 y.code).tierCause ctx j y

/-- A line of an entry. -/
def stackKey (key n : Nat) : Nat := key * 2 ^ 25 + n
/-- An entry of a stack by its key, on it or leaving it. -/
def Stack.entry (k : Stack) (key : Nat) : Option StackEntry := k.all.find? fun e => decide (e.key = key)
/-- An entry and its lines gone. -/
def Stack.dropEntry (k : Stack) (key : Nat) : Stack :=
  { k with entries := k.entries.filter fun e => decide (e.key ≠ key)
           leaving := k.leaving.filter fun e => decide (e.key ≠ key)
           data := k.data.filter fun e => decide (e.1 / 2 ^ 25 ≠ key)
           poison := k.poison.filter fun e => decide (e / 2 ^ 25 ≠ key)
           moving := k.moving.filter fun x => decide (x.1 ≠ key) }
/-- A job gone. -/
def Stack.dropJob (k : Stack) (j : TierJob) : Stack :=
  { k with jobs := k.jobs.filter fun x => !(decide (x.core = j.core) && decide (x.seq = j.seq)) }
/-- An entry put back in its place, newest first. -/
def insertEntry (e : StackEntry) : List StackEntry → List StackEntry
  | [] => [e]
  | x :: l => if x.key < e.key then e :: x :: l else x :: insertEntry e l

/-- The page of a `:va` line, the trap, or a wait for the walk. -/
def W.tierPage (w : W) (d ctx : Nat) (va : Int) (wr : Bool) : Except (Option Cause) (HeldPage × W) :=
  let fault (e : XErr) : Option Cause := (xlateFault va e).map (·.2)
  match w.gazetteer d ctx va with
  | .error e => .error (fault e)
  | .ok (p, w) =>
    if (if wr then p.wr else p.rd) then
      match p.remote with
      | some r =>
        if w.leaseOver ctx r (p.pa va.toNat) then .error (fault (.page 3))
        else if w.pkg.linkUp = 0 then .error (some (farFault va 10).2)
        else if w.dcid ctx = none then .error (some (farFault va 6).2)
        else .ok (p, w)
      | none => .ok (p, w)
    else .error (fault (.page (if wr then 2 else 1)))

/-- The HBM address in this package of line `j.n` of a `:va` command, when it is translated. -/
def W.tierSide (w : W) (d ctx : Nat) (j : TierJob) (wr : Bool) : Option Nat :=
  if bitAt j.m 0 then
    match w.tierPage d ctx (j.va j.n) wr with
    | .ok (p, _) => if p.remote.isNone then some (p.pa (j.va j.n).toNat) else none
    | .error _ => none
  else none
/-- The reads of the walk for line `j.n` of a `:va` command. -/
def W.tierWalk (w : W) (d ctx : Nat) (j : TierJob) : List AgentRead := if bitAt j.m 0 then w.xlateReads d ctx (j.va j.n) else []
/-- The requests that line `j.n` of a command waits for: a pop's stack line, and its `:va` line (03 R72). -/
def W.tierLines (w : W) (d ctx : Nat) (j : TierJob) : List AgentRead :=
  let pop := decide (j.op = 0x902)
  ((if pop then (((w.stack d ctx).entry j.key).map fun e => w.stackAddr d ctx e j.n).toList else []) ++
    (w.tierSide d ctx j pop).toList).map fun a => (agentPort 0 d, a / 128)
/-- A job changed. -/
def Stack.modJob (k : Stack) (j : TierJob) (f : TierJob → TierJob) : Stack :=
  { k with jobs := k.jobs.map fun x => if x.core = j.core ∧ x.seq = j.seq then f x else x }
/-- The checks of a line that the engine has read, landing on die `d` (R78, R81): whether its data is good, whether it is to be
read again. `pa` is its address in this package's HBM; a CRC mismatch can strike a line of any source. -/
def W.tierCheck (w : W) (d ctx : Nat) (pa : Option Nat) (j : TierJob) (ev : Option ReadEvent) : Bool × Bool × W :=
  match ev with
  | some (.crc sums) =>
    let w := w.errorRecord d (if j.crc then 5 else 4) 2 0 0 sums.toNat
    (false, !j.crc, w.modStack d ctx fun k => k.modJob j fun x => { x with crc := true })
  | _ =>
    match pa with
    | none => (true, false, w)
    | some a =>
      if w.badLine a then (false, false, w)
      else
        let r := w.readRecord (stackOf a) 2 0 a ev
        (r.1, false, r.2)

/-- The next line of a push: its data, a wait, or the trap. -/
def W.pushLine (w : W) (d ctx : Nat) (j : TierJob) : Except (Option Cause) (Line × W) :=
  if bitAt j.m 0 then
    match w.tierPage d ctx (j.va j.n) false with
    | .error y => .error y
    | .ok (p, w) =>
      let pa := p.pa (j.va j.n).toNat
      match p.remote with
      | some r =>
        let f := w.freeWord
        if bitAt f.1 63 then .error (some (farFault (j.va j.n) 6).2)
        else let v := f.2.freeLine; .ok (v.1, v.2.send ctx r 0 [word pa, 128, 1] [])
      | none => .ok (ofBytes 1024 (w.bytes pa 128), w)
  else
    let ln := bits j.o 0 15 + j.n
    if !((w.core j.core).present ln) then .error none
    else if (w.core j.core).soft.contains ln then .error (some (softFault 0 (word ln)).2)
    else .ok ((w.core j.core).line ln, w)

/-- A push that fails removes its entry; a pop accepted for it ends with it (R85). DESIGN CHOICE (log 107): an uncorrectable
`:va` source line ends the push as a failed translation does. -/
def W.pushFails (w : W) (d ctx : Nat) (j : TierJob) (y : Cause) : W :=
  let k := w.stack d ctx
  let pop := k.jobs.find? fun x => decide (x.op = 0x902) && decide (x.key = j.key)
  let w := (w.modStack d ctx fun k => (k.dropEntry j.key).dropJob j).settleStack d ctx
  let w := w.tierStop ctx j y
  match pop with
  | none => w
  | some p =>
    let w := w.modStack d ctx fun k => k.dropJob p
    (if bitAt p.m 0 then w else w.freeLines d ctx p).tierStop ctx p { code := 9, sub := 2, i0 := word p.op }

/-- A push writes its next line into its entry, and the header before the first (R84): its contents, which no software sees, are
a free value. `ev` is what the checks of the source line report. -/
def W.pushData (w : W) (d ctx n : Nat) (ev : Option ReadEvent) : W :=
  match (w.stack d ctx).jobs[n]? with
  | none => w
  | some j =>
    if j.op ≠ 0x901 ∨ (w.core j.core).chanHalt then w
    else
      let side := w.tierSide d ctx j false
      let chk := w.tierCheck d ctx side j ev
      if chk.2.1 then chk.2.2
      else if !chk.1 then
        chk.2.2.pushFails d ctx j { code := 10, sub := 2, i0 := word (side.getD 0) }
      else match chk.2.2.pushLine d ctx j, (w.stack d ctx).entry j.key with
        | .error none, _ => w
        | .error (some y), _ => w.freeWord.2.pushFails d ctx j y
        | .ok _, none => w
        | .ok (l, w), some e =>
          let port := agentPort 0 d
          let w := if j.n = 0 then
              let v := w.freeLine
              v.2.hbmStore port (w.stackLine d ctx e 0) (lineToBytes v.1)
            else w
          let w := w.hbmStore port (w.stackAddr d ctx e j.n) (lineToBytes l)
          let last := decide (j.n + 1 = j.len)
          let w := w.modStack d ctx fun k =>
            (k.modEntry j.key fun e => { e with wrote := j.n + 1 }).modJob j fun x => { x with n := j.n + 1, crc := false }
          if last then (w.modStack d ctx fun k => k.dropJob j).tierOver j.core j.seq 1 0 else w

/-- The next line of a pop goes to its destination. The lines of a `:va` range have been undefined since the acceptance; they
take their data with a WAITE 5 or a release of the core that popped them (R85). -/
def W.popPut (w : W) (d ctx : Nat) (j : TierJob) (l : Line) : Except (Option Cause) W :=
  if bitAt j.m 0 then
    match w.tierPage d ctx (j.va j.n) true with
    | .error y => .error y
    | .ok (p, w) =>
      let pa := p.pa (j.va j.n).toNat
      match p.remote with
      | some r =>
        let f := w.freeWord
        if bitAt f.1 63 then .error (some (farFault (j.va j.n) 6).2)
        else .ok (f.2.send ctx r 0 [word pa, 128, 1] (lineToBytes l))
      | none => .ok (w.modLayer j.core ctx fun k => { k with late := k.late ++ [(pa, l)] })
  else
    let ln := bits j.o 0 15 + j.n
    .ok ((w.setLine j.core ln l).unclaim j.core ln)

/-- Line `j.n` of a pop is over. -/
def W.popNext (w : W) (d ctx : Nat) (j : TierJob) : W :=
  if j.n + 1 = j.len then
    ((w.modStack d ctx fun k => (k.dropJob j).dropEntry j.key).settleStack d ctx).tierOver j.core j.seq 1 0
  else w.modStack d ctx fun k => k.modJob j fun x => { x with n := j.n + 1, crc := false }

/-- Line `n` of the entry of a pop is in HBM: the entry is resident and does not move, and the push has written the line. -/
def Stack.popReady (k : Stack) (j : TierJob) : Option StackEntry :=
  (k.entry j.key).filter fun e => e.resident && !(k.movesOut e) && decide (j.n < e.wrote)

/-- A pop copies its next line; `ev` is what the checks of the stack line report. A bad line is not written at its destination
and SOFT_ERROR is attributed (R81; log 107). -/
def W.popData (w : W) (d ctx n : Nat) (ev : Option ReadEvent) : W :=
  let k := w.stack d ctx
  match k.jobs[n]? with
  | none => w
  | some j =>
    match k.popReady j with
    | none => w
    | some e =>
      if j.op ≠ 0x902 ∨ (w.core j.core).chanHalt then w
      else
        let pa := w.stackAddr d ctx e j.n
        let chk := w.tierCheck d ctx (some pa) j ev
        if chk.2.1 then chk.2.2
        else if !chk.1 then
          (chk.2.2.tierCause ctx j { code := 10, sub := 2, i0 := word pa }).popNext d ctx j
        else match chk.2.2.popPut d ctx j (ofBytes 1024 (w.bytes pa 128)) with
          | .error none => w
          | .error (some y) =>
            (w.modStack d ctx fun k =>
              let k := k.dropJob j
              { k with leaving := k.leaving.filter fun x => decide (x.key ≠ e.key)
                       entries := insertEntry { e with popped := none } k.entries }).tierStop ctx j y
          | .ok w => w.popNext d ctx j

/-- A line of a command may go on: a push whose entry has its place and whose VRF line is present, a pop whose line is there
(R84); neither while the channels of its core are halted (17 R355). -/
def W.tierMay (w : W) (d ctx : Nat) (j : TierJob) : Bool :=
  let k := w.stack d ctx
  !((w.core j.core).chanHalt) &&
    if j.op = 0x901 then
      ((k.entry j.key).any fun e => !e.runs.isEmpty) &&
        (bitAt j.m 0 || (w.core j.core).present (bits j.o 0 15 + j.n))
    else (k.popReady j).isSome
/-- A step of push or pop `n` of a stack: its walk, its requests, and its line once they are admitted (03 R72, R74). -/
def W.tierStep (w : W) (d ctx n op : Nat) (data : W → W) : W :=
  match (w.stack d ctx).jobs[n]? with
  | none => w
  | some j =>
    if j.op ≠ op ∨ !(w.tierMay d ctx j) then w
    else if !(w.admitted (w.tierWalk d ctx j)) then w.askReads (w.tierWalk d ctx j)
    else w.reading (w.tierLines d ctx j) data

/-- TIER_PUSH_DATA and TIER_POP_DATA. -/
def execTierPushData (d ctx : Nat) (q : LineRead) (s : State) : Host.Outcome State Fault Refusal :=
  go s ((W.of s).tierStep d ctx q.n 0x901 fun w => w.pushData d ctx q.n q.ev)
def execTierPopData (d ctx : Nat) (q : LineRead) (s : State) : Host.Outcome State Fault Refusal :=
  go s ((W.of s).tierStep d ctx q.n 0x902 fun w => w.popData d ctx q.n q.ev)

/-! ### The spill engine (R86) -/

/-- A POPT has reached this spilled entry (R86). -/
def Stack.wanted (k : Stack) : Option StackEntry := k.leaving.find? fun e => !e.resident
/-- The spill engine has to make room: above HIGH, from there down to LOW, and for an entry that a pop waits for. -/
def W.spillOn (w : W) (d ctx : Nat) : Bool :=
  let k := w.stack d ctx
  decide (w.highMark d ctx < k.resident) || (k.spilling && decide (w.lowMark d ctx < k.resident)) ||
    (k.wanted.any fun e => e.runs.isEmpty && decide (w.ssize d ctx < k.resident + e.size))
/-- The next line of an entry that moves out is read and stands in the deep tier; after the last the entry is spilled. -/
def W.spillLine (w : W) (d ctx : Nat) (e : StackEntry) (n : Nat) : W :=
  let a := w.stackLine d ctx e n
  w.reading [(agentPort 0 d, a / 128)] fun w =>
    let l : Line := ofBytes 1024 (w.bytes a 128)
    let bad := w.badLine a
    let w := w.modStack d ctx fun k =>
      { k with data := Tab.put 0 k.data (stackKey e.key n) l, poison := if bad then stackKey e.key n :: k.poison else k.poison
               moving := some (e.key, n + 1, false) }
    if n < e.len then w
    else (w.modStack d ctx fun k =>
      { k.modEntry e.key fun e => { e with resident := false, runs := [] } with moving := none }).settleStack d ctx
/-- SPILL_ENTRY: the oldest resident entry moves to the deep tier, line by line. -/
def W.spillEntry (w : W) (d ctx : Nat) : W :=
  let k := w.stack d ctx
  match k.moving with
  | some (key, n, false) => match k.entry key with | some e => w.spillLine d ctx e n | none => w
  | some (_, _, true) => w
  | none =>
    match k.movable with
    | [] => w
    | e :: _ =>
      if w.spillOn d ctx && decide (e.size ≤ w.deepSize d ctx - k.spilled) then
        w.modStack d ctx fun k => { k with spilling := true, moving := some (e.key, 0, false) }
      else w

/-- The next line of an entry that comes back is written; a line that is poisoned in CXL memory stays uncorrectable (R82). -/
def W.returnLine (w : W) (d ctx : Nat) (e : StackEntry) (n : Nat) (bad : Bool) : W :=
  let k := w.stack d ctx
  let a := w.stackLine d ctx e n
  let cells := ((List.range 128).map (a + ·)).zip (lineToBytes (Tab.get 0 k.data (stackKey e.key n)))
  let w := w.hbmAsk
    { src := agentPort 0 d, line := a / 128, write := true, data := cells, bad := bad || k.poison.contains (stackKey e.key n) }
  w.modStack d ctx fun k =>
    let k := { k with data := Tab.erase k.data (stackKey e.key n), poison := k.poison.filter fun x => decide (x ≠ stackKey e.key n)
                      moving := some (e.key, n + 1, true) }
    if n < e.len then k else { k.modEntry e.key fun e => { e with resident := true } with moving := none }
/-- RETURN_ENTRY: the entry that a pop waits for, else below LOW the newest spilled entry, moves back, line by line, when there
is room; data lines `bad` arrive from CXL memory poisoned (R82). -/
def W.returnEntry (w : W) (d ctx : Nat) (bad : List Nat) : W :=
  let k := w.stack d ctx
  match k.moving with
  | some (key, n, true) =>
    match k.entry key with | some e => w.returnLine d ctx e n (bad.any fun b => decide (b + 1 = n)) | none => w
  | some (_, _, false) => w
  | none =>
    let pick := match k.wanted with
      | some e => some e
      | none => if k.resident < w.lowMark d ctx then k.entries.find? fun e => !e.resident else none
    match pick with
    | none => w
    | some e =>
      let k' := k.place (w.ssize d ctx / 128) e
      if k.resident + e.size ≤ w.ssize d ctx && ((k'.entry e.key).any fun e => !e.runs.isEmpty) then
        w.modStack d ctx fun _ => { k' with moving := some (e.key, 0, true) }
      else w

def execSpillEntry (d ctx : Nat) (s : State) : Host.Outcome State Fault Refusal := go s ((W.of s).spillEntry d ctx)
def execReturnEntry (d : Nat) (q : EntryReturn) (s : State) : Host.Outcome State Fault Refusal :=
  go s ((W.of s).returnEntry d q.ctx q.bad)

/-! ### Leases: the borrower (R88) -/

/-- A slot enters ACTIVE, REFUSED, NOTICE or REVOKED: LEVW rises by one. -/
def W.leaseEvent (w : W) (d ctx i : Nat) (l : LeaseSlot) : W :=
  (w.setLease d ctx i l).engineAt d ctx 0x284 (w.levw d ctx) 1 6

/-- An answer of `lender` for slot `i` belongs to a request that an UNLEASE withdrew (R88). -/
def Stack.isStale (k : Stack) (i lender : Nat) : Bool := k.stale.contains (i, lender)
def W.dropStale (w : W) (d ctx i lender : Nat) : W :=
  w.modStack d ctx fun k => { k with stale := k.stale.erase (i, lender) }
/-- A grant arrives: one that no PENDING slot waits for is returned at once. -/
def W.leaseGrant (w : W) (d ctx i lender units base : Nat) : W :=
  let l := (w.stack d ctx).lease i
  if (w.stack d ctx).isStale i lender then (w.dropStale d ctx i lender).leaseMsg ctx lender [1, d, i, units, base]
  else if l.st ≠ 1 ∨ l.lender ≠ lender then w.leaseMsg ctx lender [1, d, i, units, base]
  else if l.asked ≤ units ∨ (l.part ∧ 1 ≤ units) then
    w.leaseEvent d ctx i { l with st := 2, units := units, base := base }
  else w.leaseEvent d ctx i { l with st := 3 }
/-- A refusal arrives. -/
def W.leaseRefuse (w : W) (d ctx i lender : Nat) : W :=
  let l := (w.stack d ctx).lease i
  if (w.stack d ctx).isStale i lender then w.dropStale d ctx i lender
  else if l.st = 1 ∧ l.lender = lender then w.leaseEvent d ctx i { l with st := 3 } else w
/-- A revocation arrives with the lender's notice in microseconds. -/
def W.leaseRevoke (w : W) (d ctx i notice : Nat) : W :=
  let l := (w.stack d ctx).lease i
  if l.st = 2 then w.leaseEvent d ctx i { l with st := 4, deadline := w.ts + notice * 1000 } else w
/-- The deadline is reached. -/
def W.leaseDeadline (w : W) (d ctx i : Nat) : W :=
  let l := (w.stack d ctx).lease i
  if l.st = 4 ∧ l.deadline ≤ w.ts then w.leaseEvent d ctx i { l with st := 5 } else w
/-- A released slot's accesses have drained: the range returns to its lender. The accesses that the lender admitted before the
UNLEASE are complete when a free value says so; those not yet sent fault (R89). -/
def W.leaseDrained (w : W) (d ctx i : Nat) : W :=
  let l := (w.stack d ctx).lease i
  let v := w.freeWord
  if l.st ≠ 6 then w
  else if bitAt v.1 63 then v.2
  else ((v.2.setLease d ctx i {}).leaseGone d ctx l).leaseMsg ctx l.lender [1, d, i, l.units, l.base]

def execLeaseGrant (d ctx : Nat) (q : LeaseAnswer) (units base : Nat) (s : State) : Host.Outcome State Fault Refusal :=
  go s ((W.of s).leaseGrant d ctx q.slot q.lender units base)
def execLeaseRefuse (d ctx : Nat) (q : LeaseAnswer) (s : State) : Host.Outcome State Fault Refusal :=
  go s ((W.of s).leaseRefuse d ctx q.slot q.lender)
def execLeaseRevoke (d ctx slot notice : Nat) (s : State) : Host.Outcome State Fault Refusal :=
  go s ((W.of s).leaseRevoke d ctx slot notice)
def execLeaseDeadline (d ctx slot : Nat) (s : State) : Host.Outcome State Fault Refusal :=
  go s ((W.of s).leaseDeadline d ctx slot)
def execLeaseDrained (d ctx slot : Nat) (s : State) : Host.Outcome State Fault Refusal :=
  go s ((W.of s).leaseDrained d ctx slot)

/-! ### Leases: the lender (R88, R89) -/

/-- The base unit of `n` consecutive lendable units. -/
def poolRange (pool : List Nat) (n : Nat) : Option Nat :=
  pool.find? fun b => (List.range n).all fun i => pool.contains (b + i)

/-- A range lent is taken back: zeros are written over it before it is lendable again. -/
def W.takeBack (w : W) (e : Nat × Nat × Nat × Nat × Nat × Option Nat) : W :=
  let b := e.2.2.2.1
  let n := e.2.2.2.2.1
  (w.zeroHbm (b * 2 ^ 27) (n * 2 ^ 27)).modPkg fun p =>
    { p with lent := p.lent.erase e, pool := p.pool ++ (List.range n).map (b + ·) }
/-- Every range whose deadline has passed is taken back. -/
def W.reclaim (w : W) : W :=
  (w.pkg.lent.filter fun e => e.2.2.2.2.2.any fun t => decide (t ≤ w.ts)).foldl W.takeBack w

/-- A request for units: the range is zeroed and granted, or the request refused. -/
def W.leaseRequest (w : W) (rank ctx slot units : Nat) (part : Bool) : W :=
  let w := w.reclaim
  let pool := w.pkg.pool
  let sizes := if part then (List.range units).map (units - ·) else [units]
  match sizes.findSome? fun n => if n = 0 then none else (poolRange pool n).map fun b => (n, b) with
  | none => w.leaseMsg ctx rank [3, slot]
  | some (n, b) =>
    let w := w.zeroHbm (b * 2 ^ 27) (n * 2 ^ 27)
    let w := w.modPkg fun p =>
      { p with pool := p.pool.filter fun x => !(decide (b ≤ x) && decide (x < b + n))
               lent := p.lent ++ [(rank, ctx, slot, b, n, none)] }
    w.leaseMsg ctx rank [2, slot, n, b]

/-- The stage manager revokes a range: the borrower is given its notice of N microseconds. DESIGN CHOICE (log 107): the lender
counts the deadline from the timestamp at which it revokes. -/
def W.leaseRecall (w : W) (rank ctx slot : Nat) : W :=
  let n := w.pkg.leaseN.toNat
  let mine (e : Nat × Nat × Nat × Nat × Nat × Option Nat) : Bool :=
    decide (e.1 = rank) && decide (e.2.1 = ctx) && decide (e.2.2.1 = slot)
  if w.pkg.lent.any fun e => mine e && e.2.2.2.2.2.isNone then
    (w.modPkg fun p =>
      { p with lent := p.lent.map fun e =>
          if mine e then (e.1, e.2.1, e.2.2.1, e.2.2.2.1, e.2.2.2.2.1, some (w.ts + n * 1000)) else e }).leaseMsg ctx rank [4, slot, n]
  else w

/-- LEASE_REQUEST_ARRIVE: what reaches the stage manager of the lender, served in arrival order. -/
def W.lenderAct (w : W) (rank ctx slot : Nat) (act : LenderAct) (part : Bool) : W :=
  match act with
  | .ask units => w.leaseRequest rank ctx slot units part
  | .revoke => w.leaseRecall rank ctx slot
  | .back =>
    match w.pkg.lent.find? fun e => decide (e.1 = rank) && decide (e.2.1 = ctx) && decide (e.2.2.1 = slot) with
    | some e => w.takeBack e
    | none => w

def execLeaseRequestArrive (rank ctx slot : Nat) (act : LenderAct) (part : Bool) (s : State) : Host.Outcome State Fault Refusal :=
  go s ((W.of s).lenderAct rank ctx slot act part)

end Sys2Proof.Machine
end

