-- ==== Sys2Proof/Machine/Board.lean ====
section
/-!
DEFINITION. The call board: records and their waits, launches, tokens, barriers (12 R271..R274, R277, R278, R283, R284,
R287..R289; 14 R324).
-/

namespace Sys2Proof.Machine

/-! ### Records on the board (R271, R277) -/

/-- The lowest index that a table with rising keys does not list. -/
def freeIdx {α : Type} : Tab α → Nat → Nat
  | [], n => n
  | (j, _) :: t, n => if n < j then n else freeIdx t (n + 1)

/-- A record of a board. -/
def Board.entry (b : Board) (i : Nat) : Option Record := b.recs.lookup i
/-- Records that a board and its overflow area hold. -/
def Board.room (b : Board) : Nat := 16384 + b.ovcount.toNat

/-- A record beyond the board's entries stands in the overflow area of HBM (R277, R280). -/
def W.overflow (w : W) (d idx : Nat) (img : BitVec 512) : W :=
  if idx < 16384 then w else w.hbmStore (agentPort 5 d) ((w.die d).board.ovbase.toNat + 64 * (idx - 16384)) (toBytes 64 img.toNat)
/-- A record put on the board at an index. -/
def W.putRecord (w : W) (d idx : Nat) (r : Record) : W :=
  (w.modBoard d fun b => { b with recs := Tab.set b.recs idx r }).overflow d idx r.img
/-- A new record, a new task's, at the lowest free index; `none` when the board and the overflow area are full. -/
def W.addRecord (w : W) (d : Nat) (r : Record) : Option W :=
  let b := (w.die d).board
  let i := freeIdx b.recs 0
  if i < b.room then some { w.putRecord d i { r with tid := w.count + 1 } with count := w.count + 1 } else none
/-- A record of the board changed. -/
def W.modRec (w : W) (d idx : Nat) (f : Record → Record) : W :=
  w.modBoard d fun b => { b with recs := b.recs.map fun e => if e.1 = idx then (e.1, f e.2) else e }
/-- A launch of the board changed. -/
def W.modLaunch (w : W) (d i : Nat) (f : Launch → Launch) : W :=
  w.modBoard d fun b => { b with launches := b.launches.map fun e => if e.1 = i then (e.1, f e.2) else e }

/-- Fields of a record's image. -/
def Record.prio (r : Record) : Nat := bits r.img 461 3
def Record.group (r : Record) : Nat := bits r.img 474 3
def Record.bound (r : Record) : Bool := bitAt r.img 464
def Record.aff (r : Record) : Nat := bits r.img 465 7

/-! ### At operations before a release is performed (R274, R282, R284; 11 R256) -/

/-- The at operations of core `c`'s task that are not performed: all of them, or only the writes and acquires, those of a BARC
`:wait` among them (12 R274, R289). -/
def Core.openAts (k : Core) (c : Nat) (all : Bool) : List (Nat × Nat) :=
  ((k.ats.filter fun a => a.live && !a.mute && (all || acquires a.op a.m || atWrites a.op || decide (a.op = 0x192))).map
    fun a => (c, a.seq)) ++ (if all then [] else (k.pipe.items.filter Item.barWait).map fun it => (c, it.seq))
/-- What a release of core `c`'s task covers and is not yet performed: those, and the writes of its lock-step engines that
are under way (11 R259, R260). -/
def State.openOps (s : State) (c : Nat) (all : Bool) : List (Nat × Nat) :=
  (s.core c).openAts c all ++ ((s.engineWrites c).filter fun e => decide (e.1 ≠ 0)).map fun e => (c, e.1)
/-- Those that came before item `seq`. -/
def State.openBefore (s : State) (c seq : Nat) : List (Nat × Nat) := (s.openOps c true).filter fun e => decide (e.2 < seq)
/-- A BARC `:wait` of a core whose release has not come. -/
def State.barOpen (s : State) (e : Nat × Nat) : Bool :=
  s.dies.any fun d => (d.2.board.arrivals.any fun a => decide (a.core = some e.1) && decide (a.seq = e.2) && a.wait) ||
    d.2.board.waits.any fun x => decide (x.core = e.1) && decide (x.seq = e.2)
/-- They have been performed. -/
def State.performed (s : State) (l : List (Nat × Nat)) : Bool :=
  l.all fun e => !((s.core e.1).ats.any fun a => decide (a.seq = e.2) && !a.mute) &&
    !((s.engineWrites e.1).any fun x => decide (x.1 = e.2)) && !(s.barOpen e)

/-! ### Waits (R274) -/

/-- A count has reached a threshold modulo 2^32. -/
def reachedCount (count h : BitVec 32) : Bool := decide ((count - h).toNat < 2 ^ 31)

/-- A barrier descriptor of a die. -/
def State.bar (s : State) (d ctx b : Nat) : BitVec 512 := Tab.get barReset (s.die d).board.bars (ctx * 64 + b)
def barNpart (x : BitVec 512) : Nat := bits x 0 32
def barRank (x : BitVec 512) : Nat := bits x 32 10
def barDie (x : BitVec 512) : Nat := bits x 42 3
def barScope (x : BitVec 512) : Nat := bits x 45 3
def barPsk (x : BitVec 512) : Nat := bits x 48 16
def barCsk (x : BitVec 512) : Nat := bits x 64 16
def barLead (x : BitVec 512) : Nat := bits x 80 16
def barArr (x : BitVec 512) : Nat := bits x 128 32
def barValid (x : BitVec 512) : Bool := bitAt x 160
/-- released(b) of cluster `q` (R288). -/
def State.releasedCount (s : State) (d ctx b q : Nat) : BitVec 32 :=
  Tab.get 0 (s.die d).board.released ((ctx * 64 + b) * 8 + q)

/-- A command that a task issued on a core is over: the copy has finished, stopped in FAULT or been aborted, or the
tier command has completed. -/
def State.cmdOver (s : State) (ctx : Nat) (e : Nat × Nat × Nat) : Bool :=
  let n := e.2.2
  if e.2.1 = 8 then !((s.core e.1).tier.any fun t => decide (t.seq = n))
  else
    let x := (s.layer e.1 ctx).chan e.2.1
    let at_ (y : Copy) : Bool := decide (y.ticket = n)
    decide ((x.ticket + 65536 - n) % 65536 < 32768) && !(x.queue.any at_) &&
      match x.act with
      | some y => !(at_ y) || decide (x.st = 4)
      | none => true

/-- The commands of a task that an ENGINE wait with mask `m` waits for. -/
def engineCmds (m : Word) (l : List (Nat × Nat × Nat)) : List (Nat × Nat × Nat) :=
  l.filter fun e => if e.2.1 = 8 then bitAt m 5 else bitAt m 4
/-- The condition of a registered wait holds, a TIMER's apart, and that of a word of another package. -/
def State.waitMet (s : State) (d : Nat) (r : Record) : Bool :=
  match r.wait with
  | .always => true
  | .token id h => reachedCount (Tab.get 0 (s.die d).board.tokens (r.ctx * 65536 + id)) h
  | .sync addr v =>
    match s.atHome r.ctx addr with
    | some (o, i) => !(s.accWaits o r.ctx (i / 4096)) && s.reached r.ctx addr (v.signExtend 64)
    | none => false
  | .engine m => (engineCmds m r.cmds).all (s.cmdOver r.ctx)
  | .timer _ => false
  | .barrier b t => reachedCount (s.releasedCount d r.ctx b (if r.bound then r.aff / 16 else 0)) t
  | .never => false

/-- The record becomes ready: its task's release is performed, and a TOKEN, SYNC or BARRIER wait acquires (R274; 10 R236); an
ENGINE wait orders the pops of the core that issued it (03 R85). -/
def W.makeReady (w : W) (d idx : Nat) (r : Record) : W :=
  let w := w.flushDie d
  let w := match r.wait with
    | .engine _ => (match r.reg with | some c => w.settleLayer c r.ctx | none => w)
    | .token .. | .sync .. | .barrier .. => w.refreshMirrors d
    | _ => w
  w.modRec d idx fun r => { r with ready := true, readyAt := w.clk, after := [] }

/-- A record that waits, and whose release is performed. -/
def State.waiting (s : State) (r : Record) : Bool := !r.ready && !r.run && s.performed r.after

/-- A SYNC wait for a word of another package: when it is met is that package's (log 31). -/
def State.farWait (s : State) (r : Record) : Bool :=
  match r.wait with
  | .sync addr _ => (s.atHome r.ctx addr).isNone
  | _ => false
/-- A SYNC wait for a word of another package is registered there; refused, it is attributed to the core that issued the SUSPEND,
and the record waits until its context closes (R274; 14 R322). -/
def W.syncRegister (w : W) (d idx c : Nat) (r : Record) : W :=
  let wait (w : W) (x : Wait) : W := w.modRec d idx fun r => { r with reg := none, wait := x }
  match r.wait with
  | .sync a _ =>
    let p := ((w.spanOf r.ctx a 5).getD (2 ^ 48, 0)).1
    match w.farVerdict r.ctx (p % 2 ^ 48) 5 with
    | (some code, w) => wait (w.refuseRemote c code (p % 2 ^ 48) 0x28b) .never
    | (none, w) => wait (w.send r.ctx (p / 2 ^ 48 - 1) 1 [word 0x28b, word (p % 2 ^ 48)] []) r.wait
  | x => wait w x
/-- RECORD_READY. A word of another package has reached the value when a free value says so. -/
def W.recordReady (w : W) (d idx : Nat) : W :=
  match (w.die d).board.entry idx with
  | some r =>
    if !(w.waiting r) then w
    else if w.farWait r && r.reg.isSome then w.syncRegister d idx (r.reg.getD 0) r
    else if w.farWait r then (let v := w.freeWord; if bitAt v.1 63 then v.2 else v.2.makeReady d idx r)
    else if w.waitMet d r then w.makeReady d idx r else w
  | none => w
/-- TIMER_WAIT_EXPIRE: the package timestamp has reached the record's. -/
def W.timerExpire (w : W) (d idx : Nat) : W :=
  match (w.die d).board.entry idx with
  | some r =>
    match r.wait with
    | .timer t => if w.waiting r && decide (t ≤ w.ts) then w.makeReady d idx r else w
    | _ => w
  | none => w

def execRecordReady (d idx : Nat) (s : State) : Host.Outcome State Fault Refusal := go s ((W.of s).recordReady d idx)
def execTimerWaitExpire (d idx : Nat) (s : State) : Host.Outcome State Fault Refusal := go s ((W.of s).timerExpire d idx)

/-! ### Launches (R272, R273; 01 R47, R48; 10 R246) -/

/-- `n` bytes at a virtual address under a table root; bytes of another package's HBM are free values; `none` where a
page has no translation with read right, or a line is uncorrectable (log 106). -/
def W.ctxBytes (w : W) (root : Nat) : Nat → Nat → Nat → Option (List Byte)
  | 0, _, n => if n = 0 then some [] else none
  | f + 1, va, n =>
    if n = 0 then some []
    else match w.walk root va with
      | .error _ => none
      | .ok p =>
        let k := Nat.min n (p.va + p.size - va)
        let free (i : Nat) : Byte := (Config.freeLine (w.clk * 2 ^ 51 + va + i)).truncate 8
        let here := if p.remote.isSome then (List.range k).map free else w.bytes (p.pa va) k
        let bad := p.remote.isNone && (p.outside (va + k - 1) || (lineAddrs (p.pa va) k).any w.badLine)
        if p.rd && !bad then (W.ctxBytes w root f (va + k) (n - k)).map (here ++ ·) else none
/-- The same for a context of a die. -/
def W.vread (w : W) (d ctx va n : Nat) : Option (List Byte) := w.ctxBytes (w.ptroot d ctx) (n / 32768 + 2) va n

/-- Header fields (R47). -/
def hdrVer (h : BitVec 1024) : Nat := hdrField h 0x04 2
def hdrCode (h : BitVec 1024) : Nat := hdrField h 0x08 8
def hdrSize (h : BitVec 1024) : Nat := hdrField h 0x10 4
def hdrEntry (h : BitVec 1024) : Nat := hdrField h 0x14 4
def hdrWidth (h : BitVec 1024) (k : Nat) : Nat := hdrField h (0x20 + k) 1
def hdrFlag (h : BitVec 1024) (k : Nat) : Bool := bitAt h (8 * 0x79 + k)
def hdrScheds (h : BitVec 1024) : Nat := hdrField h 0x78 1
def hdrTpls (h : BitVec 1024) : Nat := hdrField h 0x40 1

/-- Reserved bytes and flags of a header. -/
def hdrReserved (h : BitVec 1024) : Bool :=
  decide (hdrField h 0x26 2 ≠ 0) || decide (hdrField h 0x41 7 ≠ 0) || decide (hdrField h 0x79 1 / 8 ≠ 0) ||
    decide (hdrField h 0x7E 2 ≠ 0)

/-- Fields of a launch request (R272). -/
def reqHdr (q : BitVec 256) : Nat := bits q 0 64
def reqNrec (q : BitVec 256) : Nat := bits q 64 32
def reqStatw (q : BitVec 256) : Word := word (bits q 128 64)

/-- The checks that need the header and the request alone: statuses 2..8, in order (log 26). -/
def launchEarly (q : BitVec 256) (h : BitVec 1024) (priv tier : Bool) : Option Nat :=
  if hdrField h 0 4 ≠ 0x464C564B ∨ hdrField h 6 2 ≠ 128 then some 2
  else if hdrVer h = 0 ∨ 3 < hdrVer h then some 3
  else if hdrSize h ≤ hdrEntry h ∨ hdrEntry h % 32 ≠ 0 then some 4
  else if 64 < ((List.range 6).map (hdrWidth h)).foldl (· + ·) 0 then some 5
  else if 64 < hdrTpls h ∨ 4 < hdrScheds h then some 6
  else if hdrReserved h ∨ bits q 109 19 ≠ 0 ∨ bits q 192 64 ≠ 0 ∨ reqHdr q % 128 ≠ 0 then some 7
  else if (hdrFlag h 1 ∧ !priv) ∨ (hdrFlag h 2 ∧ !tier) then some 8
  else none

/-- The tables of a launch as read: legends, survey words, templates, slot image, unit tables, code pages. -/
structure LaunchTabs where
  legs : List Byte
  words : List Byte
  tpl : List Byte
  slot : List Byte
  units : List (List Nat)
  code : List HeldPage
  deriving DecidableEq, Repr

/-- The slot image at a virtual address: its header line and entry lines (08 R198). -/
def W.slotBytes (w : W) (d ctx va : Nat) : Option (List Byte) :=
  if va = 0 then some []
  else match w.vread d ctx va 128 with
    | none => none
    | some l =>
      let n := leNat (l.take 2) % 512
      w.vread d ctx va (128 * (1 + (n + 31) / 32))

/-- The unit tables of the schedules (R285). -/
def W.unitTables (w : W) (d ctx tab n : Nat) : Option (List (List Nat)) :=
  match w.vread d ctx tab (8 * n) with
  | none => none
  | some l => allSome ((List.range n).map fun i =>
      (w.vread d ctx (leNat ((l.drop (8 * i)).take 8)) 32).map fun u =>
        (List.range 8).map fun g => leNat ((u.drop (4 * g)).take 4))

/-- Every table of the launch under the context's tables; `none` where one is not translated (status 1). -/
def W.launchTabs (w : W) (d ctx : Nat) (h : BitVec 1024) : Option LaunchTabs :=
  let legtab := hdrField h 0x28 8
  let legn := hdrField h 0x30 2
  let svn := hdrField h 0x36 2
  match w.vread d ctx legtab (16 * legn),
      w.vread d ctx (legtab + 16 * legn) (if legtab = 0 then 0 else 4 * svn),
      w.vread d ctx (hdrField h 0x38 8) (384 * hdrTpls h),
      w.slotBytes d ctx (hdrField h 0x48 8),
      w.unitTables d ctx (hdrField h 0x70 8) (hdrScheds h),
      w.codePages (w.ptroot d ctx) (hdrCode h) (hdrSize h) with
  | some a, some b, some c, some e, some u, some p =>
    some { legs := a, words := b, tpl := c, slot := e, units := u, code := p }
  | _, _, _, _, _, _ => none

/-- The cores a core-bound launch uses, counted cyclically from AFF (R273). -/
def State.launchCores (s : State) (d ctx aff : Nat) : List Nat :=
  let l := (List.range 128).filter fun i =>
    s.coreEnabled (d * 128 + i) && decide (0 < (s.allotment (d * 128 + i) ctx).2)
  l.filter (fun i => decide (aff ≤ i)) ++ l.filter fun i => decide (i < aff)

/-- `n` ids from `first` lie in a range. -/
def inRange (first n base count : Nat) : Bool := decide (n = 0) || (decide (base ≤ first) && decide (first + n ≤ base + count))

/-- Survey word `q` of a launch. -/
def surveyWord (l : List Byte) (q : Nat) : Word := word (leNat ((l.drop (4 * q)).take 4))

/-- The checks that follow the tables: statuses 9..13 (R272; 10 R246; 05 R121). DESIGN CHOICE (log 64): the LEGID of a survey
word refuses no launch; neither R246 nor R272 lists it. -/
def W.launchLate (w : W) (d ctx : Nat) (q : BitVec 256) (h : BitVec 1024) (t : LaunchTabs) : Option Nat :=
  let r := Tab.get 0 (w.die d).ranges ctx
  let svn := hdrField h 0x36 2
  let svf := hdrField h 0x34 2
  let badWord (i : Nat) : Bool := !(svrstOk d (surveyWord t.words i))
  if 4096 ≤ freeIdx (w.die d).board.launches 0 then some 9
  else if reqNrec q = 0 then some 10
  else if hdrFlag h 0 ∧ (w.launchCores d ctx (bits q 102 7)).isEmpty then some 11
  else if 0 < svn ∧ (hdrField h 0x28 8 = 0 ∨ 4096 < svf + svn ∨ (List.range svn).any badWord) then some 12
  else if !(inRange (hdrField h 0x32 2) (hdrField h 0x30 2) (bits r 0 12) (bits r 12 13)) ∨
      !(inRange svf svn (bits r 32 12) (bits r 44 13)) then some 13
  else none

/-- Lines of a byte string. -/
def bytesToLines (l : List Byte) : List Line :=
  (List.range (l.length / 128)).map fun i => ofBytes 1024 ((l.drop (128 * i)).take 128)

/-- An accepted launch: its legends and surveys loaded, its slot taken. -/
def W.launchAccept (w : W) (d ctx : Nat) (q : BitVec 256) (h : BitVec 1024) (t : LaunchTabs) : W :=
  let lf := hdrField h 0x32 2
  let svf := hdrField h 0x34 2
  let w := w.modDie d fun x =>
    { x with legends := Tab.puts 0 x.legends ((List.range (hdrField h 0x30 2)).map fun i =>
        (lf + i, ofBytes 128 ((t.legs.drop (16 * i)).take 16))) }
  let w := (List.range (hdrField h 0x36 2)).foldl (fun w i => (w.svReset d (svf + i) (surveyWord t.words i)).2) w
  let l : Launch :=
    { ctx := ctx, hdr := h, prio := bits q 96 3, group := bits q 99 3, aff := bits q 102 7, todo := reqNrec q
      acceptedAt := w.clk, code := t.code, slotimg := bytesToLines t.slot, units := t.units
      tpl := (List.range (hdrTpls h)).map fun i => ofBytes 3072 ((t.tpl.drop (384 * i)).take 384) }
  w.modBoard d fun b => { b with launches := Tab.set b.launches (freeIdx b.launches 0) l }

/-- The status of a launch, written by an AST with release at package scope, or domain scope with G = 1; nothing where
STATW is refused (R272). -/
def W.launchStatus (w : W) (d ctx : Nat) (v : Word) (st : Nat) : W :=
  let scope := if bitAt v 58 then 6 else 4
  if v = 0 then w
  else match w.atTarget d ctx false v with
    | .error _ => w
    | .ok (.there _ b) => if (w.remoteRefusal ctx b 5).isSome then w else w.engineAt d ctx 0x283 v (word st) scope
    | .ok (.here ..) => w.engineAt d ctx 0x283 v (word st) scope

/-- The reads of `n` bytes at a virtual address of a context (03 R72). -/
def W.vreads (w : W) (d ctx va n : Nat) : List AgentRead := w.ctxReads d (w.ptroot d ctx) (n / 32768 + 2) va n
/-- The reads of a launch: its header, then its tables as the header and the tables read so far name them. -/
def W.launchReads (w : W) (d : Nat) (x : LaunchReq) : List AgentRead :=
  let rd := w.vreads d x.ctx
  let get (va n : Nat) : List Byte := (w.vread d x.ctx va n).getD []
  let head := rd (reqHdr x.req) 128
  if !(w.admitted head) then head
  else match w.vread d x.ctx (reqHdr x.req) 128 with
    | none => head
    | some l =>
      let h : BitVec 1024 := ofBytes 1024 l
      if (launchEarly x.req h x.priv x.tier).isSome then head
      else
        let legtab := hdrField h 0x28 8
        let legn := hdrField h 0x30 2
        let slot := hdrField h 0x48 8
        let units := hdrField h 0x70 8
        let heads := (if slot = 0 then [] else rd slot 128) ++ rd units (8 * hdrScheds h)
        let own := head ++ rd legtab (16 * legn) ++ rd (legtab + 16 * legn) (if legtab = 0 then 0 else 4 * hdrField h 0x36 2) ++
          rd (hdrField h 0x38 8) (384 * hdrTpls h) ++ w.codeReads d (w.ptroot d x.ctx) (hdrCode h) (hdrSize h) ++ heads
        if !(w.admitted heads) then own
        else
          own ++ (if slot = 0 then [] else rd slot (128 * (1 + (leNat ((get slot 128).take 2) % 512 + 31) / 32))) ++
            ((List.range (hdrScheds h)).map fun i =>
              rd (leNat (((get units (8 * hdrScheds h)).drop (8 * i)).take 8)) 32).flatten

/-- One request handled, its reads admitted: its status, and the machine after. -/
def W.launchTry (w : W) (d : Nat) (x : LaunchReq) : Nat × W :=
  match w.vread d x.ctx (reqHdr x.req) 128 with
  | none => (1, w)
  | some l =>
    let h : BitVec 1024 := ofBytes 1024 l
    match launchEarly x.req h x.priv x.tier with
    | some st => (st, w)
    | none =>
      match w.launchTabs d x.ctx h with
      | none => (1, w)
      | some t =>
        match w.launchLate d x.ctx x.req h t with
        | some st => (st, w)
        | none => (0, w.launchAccept d x.ctx x.req h t)

/-- The oldest request of a context's launch port of a die is handled, once what it reads is admitted (R272; 03 R74). -/
def W.handleLaunch (w : W) (d ctx : Nat) : W :=
  match (w.die d).board.ports.find? fun x => decide (x.ctx = ctx) with
  | none => w
  | some x =>
    -- from the acceptance of a CLOSE on, requests to the context are refused (14 R328; log 117)
    if w.isClosing d ctx then
      (w.modBoard d fun b => { b with ports := b.ports.erase x }).launchStatus d ctx (reqStatw x.req) 1
    else w.reading (w.launchReads d x) fun w =>
    let r := (w.modBoard d fun b => { b with ports := b.ports.erase x }).launchTry d x
    r.2.launchStatus d ctx (reqStatw x.req) r.1

/-- LAUNCH_REQUEST: a request stored to the port by an agent that may grant what `grant` says, and the oldest of the
port handled. -/
def execLaunchRequest (d ctx : Nat) (req : BitVec 256) (grant : BitVec 2) (s : State) : Host.Outcome State Fault Refusal :=
  let x : LaunchReq := { ctx := ctx, req := req, priv := bitAt grant 0, tier := bitAt grant 1 }
  go s (((W.of s).modBoard d fun b => { b with ports := b.ports ++ [x] }).handleLaunch d ctx)

/-- The image of record k of a launch in slot `i` (R271, R273). DESIGN CHOICE (log 110): a codebase that is no multiple of 32 is
refused by no case of 01 R48; the low five bits of codebase + entry are dropped. -/
def Launch.image (l : Launch) (i k aff : Nat) : BitVec 512 :=
  let h := l.hdr
  BitVec.ofNat 512 (
    (hdrField h 0x18 8 + k) % 2 ^ 64 + (hdrCode h + hdrEntry h) / 32 % 2 ^ 46 * 2 ^ 384 +
    hdrField h 0x7A 2 % 2 ^ 15 * 2 ^ 430 + hdrField h 0x7C 2 % 2 ^ 12 * 2 ^ 445 + l.prio % 8 * 2 ^ 461 +
    b2n (hdrFlag h 0) * 2 ^ 464 + (if hdrFlag h 0 then aff % 128 else 0) * 2 ^ 465 + hdrVer h % 4 * 2 ^ 472 +
    l.group % 8 * 2 ^ 474 + b2n (hdrFlag h 1) * 2 ^ 477 + b2n (hdrFlag h 2) * 2 ^ 478 + i % 4096 * 2 ^ 480)

/-- RECORD_CREATE: the next record of the launch in slot `i` is placed, ready since the acceptance (R273). -/
def W.recordCreate (w : W) (d i : Nat) : W :=
  let l := (w.die d).board.launch i
  let cs := w.launchCores d l.ctx l.aff
  let aff := cs.getD (l.next % Nat.max 1 cs.length) 0
  let r : Record := { ctx := l.ctx, img := l.image i l.next aff, ready := true, readyAt := l.acceptedAt, fresh := true }
  if l.todo = 0 then w
  else match w.addRecord d r with
    | none => w
    | some w => w.modLaunch d i fun l => { l with todo := l.todo - 1, next := l.next + 1, live := l.live + 1 }

def execRecordCreate (d slot : Nat) (s : State) : Host.Outcome State Fault Refusal := go s ((W.of s).recordCreate d slot)

/-! ### The selector (R285, R286) -/

/-- The clock cycles that running tasks of a launch have used count for their groups up to now (R285). -/
def W.countBusy (w : W) (d slot : Nat) : W :=
  ((List.range 128).map (d * 128 + ·)).foldl (fun w c =>
    match (w.core c).running with
    | some r =>
      if recLaunch r.img = slot then
        (w.modLaunch d slot fun l =>
          { l with busy := Tab.put 0 l.busy (bits r.img 474 3) (Tab.get 0 l.busy (bits r.img 474 3) + (w.clk - r.since)) }).modCore
          c fun k => { k with running := some { r with since := w.clk } }
      else w
    | none => w) w

/-- P[s] of schedule `s` (R286). -/
def schedTime (units : List (List Nat)) (cpu : Tab Nat) (i : Nat) : Nat :=
  ((List.range 8).map fun g => (units.getD i []).getD g 0 * Tab.get 0 cpu g).foldl Nat.max 0

/-- Boundary(): the launch after, and whether CUR changed (R286). -/
def Launch.boundary (l : Launch) : Launch × Bool :=
  let cpu := (List.range 8).foldl (fun t g =>
    if 0 < Tab.get 0 l.done g then Tab.put 0 t g (Tab.get 0 l.busy g / Tab.get 0 l.done g) else t) l.cpu
  let p := schedTime l.units cpu
  let m := (List.range l.units.length).foldl (fun a i => if p i < p a then i else a) 0
  let ch := decide (m ≠ l.cur) && decide (16 * p m < 15 * p l.cur)
  ({ l with cpu := cpu, busy := [], done := [], cur := if ch then m else l.cur }, ch)

/-- A phase boundary of a launch: its result (R286). -/
def W.boundary (w : W) (d slot : Nat) : Nat × W :=
  let w := w.countBusy d slot
  let r := ((w.die d).board.launch slot).boundary
  (r.1.cur + b2n r.2 * 4, w.modLaunch d slot fun _ => r.1)

/-! ### Tokens (R283, R284) -/

/-- A token added to its counter, which the board also keeps at TKBASE (R283). -/
def W.countToken (w : W) (d ctx tok : Nat) : W :=
  let i := ctx * 65536 + tok
  let n := Tab.get 0 (w.die d).board.tokens i + 1
  let w := w.modBoard d fun b => { b with tokens := Tab.put 0 b.tokens i n }
  w.hbmStore (agentPort 5 d) ((Tab.get 0 (w.die d).board.tkbase ctx).toNat + 4 * tok) (toBytes 4 n.toNat)

/-- The waiting records of a die become ready where their condition holds. -/
def W.readyAll (w : W) (d ctx : Nat) (sel : Wait → Bool) : W :=
  ((w.die d).board.recs.filter fun e => decide (e.2.ctx = ctx) && sel e.2.wait).foldl (fun w e => w.recordReady d e.1) w

/-- The token of a list that arrives next among those of one id: its sending task's earlier ones to the die have arrived, and
its release is performed (R284). -/
def State.nextToken (s : State) (l : List Token) (ctx tok : Nat) : Option Token :=
  let mate (t x : Token) : Bool := decide (x.tid = t.tid) && (decide (t.tid ≠ 0) || decide (x.src = t.src)) &&
    decide (x.far = t.far) && decide (x.die = t.die)
  let firstOf (t : Token) : Bool := decide (l.find? (mate t) = some t)
  l.find? fun t => decide (t.ctx = ctx) && decide (t.tok = tok) && firstOf t && s.performed t.after

/-- TOKEN_ARRIVE: a token on its way to die `d` arrives, or leaves for its rank; with none on its way, one that another
package of the domain has sent arrives. -/
def W.tokenArrive (w : W) (d ctx tok : Nat) : W :=
  let l := (w.die d).board.intok
  let arrive (w : W) : W := (w.countToken d ctx tok).readyAll d ctx fun x => match x with | .token .. => true | _ => false
  match w.nextToken l ctx tok with
  | some t =>
    let w := w.modBoard d fun b => { b with intok := b.intok.erase t }
    let w := match t.src with | some c => w.released c t.scope | none => w
    match t.far with
    | none => arrive w
    | some rank =>
      match w.farVerdict ctx (2 ^ 45 + t.die * 2 ^ 42) 8 with
      | (some code, w) => (match t.src with | some c => w.refuseRemote c code t.die 0x2c2 | none => w)
      | (none, w) => w.send ctx rank 2 [word t.die, word t.tok, word t.scope] []
  | none =>
    if l.any (fun t => decide (t.ctx = ctx) && decide (t.tok = tok)) ∨ w.pkg.dsize.toNat ≤ 1 ∨ w.dcid ctx = none ∨
        65536 ≤ tok then w
    else arrive w

def execTokenArrive (d ctx tok : Nat) (s : State) : Host.Outcome State Fault Refusal := go s ((W.of s).tokenArrive d ctx tok)

/-! ### Barriers (R287..R289; 14 R324) -/

/-- A generation closed at its home: its release timestamp, and the notice (R288). -/
def W.closeGen (w : W) (ctx b : Nat) (x : BitVec 512) (gen : BitVec 32) : W :=
  let trel := w.ts + barLead x
  let w := w.modPkg fun p => { p with sent := p.sent ++ [(ctx, b, gen, trel)] }
  if w.pkg.dsize.toNat ≤ 1 then w
  else w.modPkg fun p =>
    { p with outbox := p.outbox ++ [{ rank := 1024, kind := 4, body := [word ctx, word b, word gen.toNat, word trel] }] }

/-- The result of an arrival: T, or a wait for its cluster's release (R289). -/
def W.arriveAnswer (w : W) (a : Arrival) (t : BitVec 32) : W :=
  match a.core with
  | none => w
  | some c =>
    if !a.wait then w.answer c a.seq [(0x2c0, lineOf (word t.toNat))]
    else w.modBoard (dieOf c) fun b =>
      { b with waits := b.waits ++ [{ core := c, seq := a.seq, ctx := a.ctx, b := a.b, t := t }] }

/-- An arrival counted at home die `d` (R288). -/
def W.countArrival (w : W) (d : Nat) (a : Arrival) : W :=
  let x := w.bar d a.ctx a.b
  let i := a.ctx * 64 + a.b
  let t := Tab.get 0 (w.die d).board.gens i + 1
  let close := decide (barNpart x ≤ barArr x + 1)
  let w := w.modBoard d fun b =>
    { b with
      bars := Tab.put barReset b.bars i (setBits x 128 32 (if close then 0 else barArr x + 1))
      gens := if close then Tab.put 0 b.gens i t else b.gens }
  let w := w.arriveAnswer a t
  if close then w.closeGen a.ctx a.b x t else w

/-- An arrival whose release is performed leaves for its home in another package. One that the package does not take lands T as
zero, with the refusal attributed to the core (R289; 14 R322); else T is a free value, and a `:wait` lands at the next release
that this die has not heard of. -/
def W.arriveFar (w : W) (d : Nat) (a : Arrival) (x : BitVec 512) : W :=
  match a.core with
  | none => w
  | some c =>
    match w.farVerdict a.ctx (2 ^ 45 + barDie x * 2 ^ 42) 8 with
    | (some code, w) => (w.refuseRemote c code (word (bits x 32 13)).toNat 0x2c5).answer c a.seq [(0x2c0, 0)]
    | (none, w) =>
      let w := w.send a.ctx (barRank x) 3 [word (barDie x), word a.b] []
      let known := ((w.die d).board.notices.filter fun n => decide (n.ctx = a.ctx) && decide (n.b = a.b)).map (·.gen)
      let last := known.getLast?.getD (w.releasedCount d a.ctx a.b (clusterOf c))
      if a.wait then w.arriveAnswer a (last + 1)
      else
        let v := w.freeWord
        v.2.answer c a.seq [(0x2c0, lineOf (word (bits v.1 0 32)))]

/-- BARRIER_ARRIVAL: an arrival whose release is performed reaches its home `d`, or leaves die `d` for its home in another
package; with none on its way, one of another package of the domain. -/
def W.barrierArrival (w : W) (d ctx b : Nat) : W :=
  let l := (w.die d).board.arrivals
  let firstOf (a : Arrival) : Bool := decide ((l.find? fun x => decide (x.core = a.core) && decide (x.ctx = ctx) && decide (x.b = b)) = some a)
  match l.find? fun a => decide (a.ctx = ctx) && decide (a.b = b) && firstOf a && w.performed a.after with
  | some a =>
    let w := w.modBoard d fun x => { x with arrivals := x.arrivals.erase a }
    let x := w.bar d ctx b
    let w := match a.core with | some c => w.released c (barScope x) | none => w
    if barRank x = w.pkg.rank.toNat then w.countArrival d a else w.arriveFar d a x
  | none =>
    let x := w.bar d ctx b
    if l.any (fun a => decide (a.ctx = ctx) && decide (a.b = b)) ∨ w.pkg.dsize.toNat ≤ 1 ∨ w.dcid ctx = none ∨
        !barValid x ∨ barDie x ≠ d ∨ barRank x ≠ w.pkg.rank.toNat ∨ 64 ≤ b then w
    else w.countArrival d { core := none, seq := 0, ctx := ctx, b := b, wait := false }

def execBarrierArrival (d ctx b : Nat) (s : State) : Host.Outcome State Fault Refusal := go s ((W.of s).barrierArrival d ctx b)

/-- The dies of the package that take part in a barrier. -/
def State.barDies (s : State) (ctx b : Nat) : List Nat := (List.range 8).filter fun d => barValid (s.bar d ctx b)
/-- The timestamp at which this package releases, under die `d`'s descriptor (R288). -/
def State.releaseTs (s : State) (d ctx b trel : Nat) : Nat :=
  let x := s.bar d ctx b
  trel + (s.pkg.rank.toNat + 1024 - barRank x) % 1024 * barPsk x

/-- BARRIER_NOTICE_ARRIVE: a notice on its way inside the package, or one of a home in another package, reaches the dies;
after its release time it counts as late, and the release follows at once (14 R324). -/
def W.noticeArrive (w : W) (ctx b gen trel : Nat) : W :=
  let e := (ctx, b, BitVec.ofNat 32 gen, trel)
  let ds := w.barDies ctx b
  let own := w.pkg.sent.contains e
  let far := decide (1 < w.pkg.dsize.toNat) && ds.any fun d => decide (barRank (w.bar d ctx b) ≠ w.pkg.rank.toNat)
  if !own && !far then w
  else
    let lateOn (d : Nat) : Bool := decide (w.releaseTs d ctx b trel ≤ w.ts)
    let late := ds.any lateOn
    let w := w.modPkg fun p => { p with sent := p.sent.erase e, late := if late then p.late + 1 else p.late }
    ds.foldl (fun w d =>
      let n : Notice := { ctx := ctx, b := b, gen := BitVec.ofNat 32 gen, at_ := w.releaseTs d ctx b trel
                          x := if lateOn d then some (w.clkOf d) else none }
      w.modBoard d fun x => { x with notices := x.notices ++ [n] }) w

/-- PACKAGE_RELEASE: on each die, X is the clock cycle in which the release timestamp is reached (R288). -/
def W.packageRelease (w : W) (ctx b : Nat) : W :=
  let f (d : Nat) (n : Notice) : Notice :=
    if n.ctx = ctx ∧ n.b = b ∧ n.x = none ∧ n.at_ ≤ w.ts then { n with x := some (w.clkOf d) } else n
  (List.range 8).foldl (fun w d => w.modBoard d fun x => { x with notices := x.notices.map (f d) }) w

/-- A notice whose release of cluster `q` is due. -/
def State.releaseDue (s : State) (d q : Nat) (n : Notice) : Bool :=
  match n.x with
  | some x => !(n.done.contains q) && decide (x + q * barCsk (s.bar d n.ctx n.b) ≤ s.clk)
  | none => false

/-- `:wait` arrivals of a cluster whose generation is released land, each an acquire at SCOPE (R289). -/
def W.wakeWaits (w : W) (d ctx b q : Nat) (gen : BitVec 32) : W :=
  let hit (x : BarWait) : Bool :=
    decide (x.ctx = ctx) && decide (x.b = b) && decide (clusterOf x.core = q) && reachedCount gen x.t
  let l := (w.die d).board.waits.filter hit
  let w := w.modBoard d fun x => { x with waits := x.waits.filter fun y => !hit y }
  l.foldl (fun w x => (w.acquired x.core (barScope (w.bar d ctx b))).answer x.core x.seq
    [(0x2c0, lineOf (word x.t.toNat))]) w

/-- CLUSTER_RELEASE: cluster `q` takes the new generation at X + q CSK; its waiters become ready (R288). -/
def W.clusterRelease (w : W) (d ctx b q : Nat) : W :=
  match (w.die d).board.notices.find? fun n => decide (n.ctx = ctx) && decide (n.b = b) && w.releaseDue d q n with
  | none => w
  | some n =>
    let all := (List.range 8).filter (w.clusterEnabled d)
    let n' : Notice := { n with done := q :: n.done }
    let gone := all.all fun i => n'.done.contains i
    let i := ctx * 64 + b
    let w := w.modBoard d fun x =>
      { x with
        notices := if gone then x.notices.erase n else x.notices.map fun m => if m = n then n' else m
        released := Tab.put 0 x.released (i * 8 + q) n.gen
        bars := if q = 0 then Tab.put barReset x.bars i (setBits (Tab.get barReset x.bars i) 96 32 n.gen.toNat) else x.bars }
    (w.wakeWaits d ctx b q n.gen).readyAll d ctx fun x => match x with | .barrier c _ => decide (c = b) | _ => false

def execBarrierNoticeArrive (ctx b gen trel : Nat) (s : State) : Host.Outcome State Fault Refusal :=
  go s ((W.of s).noticeArrive ctx b gen trel)
def execPackageRelease (ctx b : Nat) (s : State) : Host.Outcome State Fault Refusal := go s ((W.of s).packageRelease ctx b)
def execClusterRelease (d ctx b q : Nat) (s : State) : Host.Outcome State Fault Refusal :=
  go s ((W.of s).clusterRelease d ctx b q)

/-- BARRIER_DESCRIPTOR_WRITE: a descriptor written whole; one that R287 refuses stays as it stands. -/
def execBarrierDescriptorWrite (d idx : Nat) (img : BitVec 512) (s : State) : Host.Outcome State Fault Refusal :=
  go s (((W.of s).writeBarrier d idx img).getD (W.of s))

end Sys2Proof.Machine
end

