-- ==== Sys2Proof/Machine/TaskUnit.lean ====
section
/-!
DEFINITION. The task block: WIDF, SPAWN, TOKSEND, PHASE, BARC, BARQ (12 R269, R270, R281, R282, R284, R286, R289).
-/

namespace Sys2Proof.Machine

/-- The record image of the task on a core. -/
def Core.taskImg (k : Core) : BitVec 512 := match k.running with | some r => r.img | none => 0
/-- The launch of the task on core `c`. -/
def State.taskLaunch (s : State) (c : Nat) : Launch := (s.die (dieOf c)).board.launch (recLaunch (s.core c).taskImg)
/-- `task.o` after the bundle's writes. -/
def TCtx.taskO (t : TCtx) (w : W) : Word := (w.core t.c).regs.portW 0x2c0

/-- A result on `task.r`, formed at the bundle. -/
def TCtx.taskItem (t : TCtx) (w : W) (lat : Nat) (v : Word) : W :=
  w.addItem t.c
    { kind := .res, id := t.id, m := t.m, seq := t.seq, due := t.run + lat, wr := [(0x2c0, lineOf v)], bpc := word t.bpc }
/-- A result on `task.r` that an agent forms. -/
def TCtx.taskAwait (t : TCtx) (w : W) (lat : Nat) (a : Word) : W :=
  w.addItem t.c
    { kind := .atr, id := t.id, m := t.m, seq := t.seq, due := t.run + lat, a := a, await := .agent, bpc := word t.bpc }

/-! ### Work ids (R269, R270) -/

/-- The place and width of field k of a work id. -/
def widField (h : BitVec 1024) (k : Nat) : Nat × Nat :=
  (((List.range k).map (hdrWidth h)).foldl (· + ·) 0, hdrWidth h k)
/-- Field k of a work id, zero-extended. -/
def widGet (h : BitVec 1024) (k : Nat) (v : Word) : Word := word (bits v (widField h k).1 (widField h k).2)
/-- A work id with field k replaced. -/
def widPut (h : BitVec 1024) (k : Nat) (v : Word) (x : Nat) : Word := setBits v (widField h k).1 (widField h k).2 x

/-- WIDF. -/
def trigWidf : TrigFn := fun t w =>
  let h := (t.pre.taskLaunch t.c).hdr
  let k := bits t.v 0 3
  let o := t.taskO w
  if 4 ≤ t.m.toNat ∨ 6 ≤ k then t.engine
  else match t.m.toNat with
    | 0 => if bits t.v 3 61 ≠ 0 then t.engine else .ok (t.taskItem w 1 (widGet h k t.k.wid))
    | 1 => if bits t.v 3 61 ≠ 0 then t.engine else .ok (t.taskItem w 1 (widGet h k o))
    | 2 =>
      if bits t.v 3 5 ≠ 0 ∨ 56 < (widField h k).2 then t.engine else .ok (t.taskItem w 1 (widPut h k o (bits t.v 8 56)))
    | _ => t.engine

/-! ### SPAWN (R282) -/

/-- Bits of a spawned record that the spawner's own record gives: VER, PRIV, TIER, LAUNCH. -/
def spawnKeeps (img : BitVec 512) : Nat :=
  bits img 472 2 * 2 ^ 472 + bits img 477 2 * 2 ^ 477 + bits img 480 12 * 2 ^ 480
/-- The image of a spawned record. -/
def TCtx.spawnImage (t : TCtx) (wid : Word) : BitVec 512 :=
  let r := t.k.regs
  let s (i : Nat) : Nat := (r.sreg i).toNat
  BitVec.ofNat 512 (
    wid.toNat + s 1 * 2 ^ 64 + s 2 * 2 ^ 128 + s 3 * 2 ^ 192 + s 4 * 2 ^ 256 + s 5 * 2 ^ 320 +
    bits t.v 0 46 * 2 ^ 384 + bits t.k.ctl.win 0 15 * 2 ^ 430 + bits t.k.ctl.fmt 0 12 * 2 ^ 445 +
    bits t.v 46 3 * 2 ^ 461 + bits t.v 49 1 * 2 ^ 464 + bits t.v 50 7 * 2 ^ 465 + bits t.v 57 3 * 2 ^ 474 +
    spawnKeeps t.k.taskImg)

/-- SPAWN: the new record's start lies in the spawner's code. -/
def trigSpawn : TrigFn := fun t w =>
  let h := (t.pre.taskLaunch t.c).hdr
  let rpc := bits t.v 0 46 * 32
  if t.m ≠ 0 ∨ bits t.v 60 4 ≠ 0 ∨ rpc < hdrCode h ∨ hdrCode h + hdrSize h < rpc + 32 then t.engine
  else .ok ((t.taskAwait w 8 t.v).buffer t.c (.spawn t.seq (t.spawnImage (t.taskO w))))

/-- The board of the spawner's die takes the record: the status (R282). -/
def W.spawn (w : W) (c seq : Nat) (img : BitVec 512) : W :=
  let d := dieOf c
  let ctx := ((w.core c).ctx).getD 0
  let aff := d * 128 + bits img 465 7
  let bad := bitAt img 464 && (!(w.coreEnabled aff) || decide ((w.allotment aff ctx).2 = 0))
  let reply (w : W) (st : Nat) : W := w.answer c seq [(0x2c0, lineOf (word st))]
  if (w.die d).board.room ≤ freeIdx (w.die d).board.recs 0 then reply w 1
  else if bad then reply w 2
  else
    let r : Record := { ctx := ctx, img := img, after := w.openBefore c seq }
    match w.addRecord d r with
    | none => reply w 1
    | some w => reply (w.modLaunch d (recLaunch img) fun l => { l with live := l.live + 1 }) 0

/-! ### TOKSEND (R284) -/

/-- TOKSEND: its checks, its zero result, and the token through the commit buffer. -/
def trigToksend : TrigFn := fun t w =>
  let o := t.taskO w
  let sc := bits t.m 0 3
  let far := bitAt o 13
  if bitAt t.m 3 ∨ bits o 14 50 ≠ 0 ∨ bits t.v 16 48 ≠ 0 ∨ sc < 4 ∨ (far ∧ sc < 6) then t.engine
  else if far ∧ t.pre.pkg.dsize.toNat ≤ bits o 3 10 then t.window o.toNat
  else .ok ((t.taskItem w 4 0).buffer t.c (.token t.seq o (bits t.v 0 16) sc))

/-- A token leaves the commit buffer: it is on its way to its board once its release is performed; no live route or no
context there refuses it at once (14 R322). -/
def W.sendToken (w : W) (c seq : Nat) (dest : Word) (tok scope : Nat) : W :=
  let ctx := ((w.core c).ctx).getD 0
  let rank := bits dest 3 10
  let far := bitAt dest 13 && decide (rank ≠ w.pkg.rank.toNat)
  let t : Token :=
    { die := bits dest 0 3, ctx := ctx, tok := tok, src := some c, far := if far then some rank else none
      after := w.openBefore c seq, scope := scope, tid := (w.core c).tid }
  let at_ := if far then dieOf c else bits dest 0 3
  let put (w : W) : W := w.modBoard at_ fun b => { b with intok := b.intok ++ [t] }
  if !far then put w
  else match w.remoteRefusal ctx (2 ^ 45 + bits dest 0 3 * 2 ^ 42) 8 with
    | some code => w.refuseRemote c code dest.toNat 0x2c2
    | none => put w

/-! ### PHASE (R286) -/

/-- PHASE `:unit` and `:bound`. -/
def trigPhase : TrigFn := fun t w =>
  let l := t.pre.taskLaunch t.c
  let img := t.k.taskImg
  if 2 ≤ t.m.toNat ∨ l.units.isEmpty then t.engine
  else if t.m = 0 then
    if bits t.v 32 32 ≠ 0 then t.engine
    else .ok ((t.taskItem w 4 0).buffer t.c (.unit (recLaunch img) (bits img 474 3) (bits t.v 0 32)))
  else if t.v ≠ 0 then t.engine
  else .ok ((t.taskAwait w 16 0).buffer t.c (.bound t.seq (recLaunch img)))

/-- Units reported for a group of a launch. -/
def W.addUnits (w : W) (d slot g n : Nat) : W :=
  w.modLaunch d slot fun l => { l with done := Tab.put 0 l.done g (Tab.get 0 l.done g + n) }
/-- A boundary evaluated on behalf of item `seq` of core `c`. -/
def W.boundOf (w : W) (c seq slot : Nat) : W :=
  let r := w.boundary (dieOf c) slot
  r.2.answer c seq [(0x2c0, lineOf (word r.1))]

/-! ### BARC and BARQ (R289) -/

/-- The barrier's trigger value is legal and its descriptor valid. -/
def TCtx.barOk (t : TCtx) : Bool :=
  decide (bits t.v 6 58 = 0) && barValid (t.pre.bar (dieOf t.c) t.env.ctx (bits t.v 0 6))

/-- BARC. -/
def trigBarc : TrigFn := fun t w =>
  if 2 ≤ t.m.toNat ∨ !t.barOk then t.engine
  else .ok ((t.taskAwait w 60 t.v).buffer t.c (.barc t.seq (bits t.v 0 6) (bitAt t.m 0)))

/-- An arrival leaves the commit buffer for its home; one whose home is in another package leaves this die once its release is
performed. A home that no live route reaches refuses it at once: SOFT_ERROR with SUB 2, T zero. -/
def W.arrive (w : W) (c seq b : Nat) (wait : Bool) : W :=
  let d := dieOf c
  let ctx := ((w.core c).ctx).getD 0
  let x := w.bar d ctx b
  let a : Arrival := { core := some c, seq := seq, ctx := ctx, b := b, wait := wait, after := w.openBefore c seq }
  let put (at_ : Nat) : W := w.modBoard at_ fun y => { y with arrivals := y.arrivals ++ [a] }
  if barRank x = w.pkg.rank.toNat then put (barDie x)
  else match w.remoteRefusal ctx (2 ^ 45 + barDie x * 2 ^ 42) 8 with
    | some code => (w.refuseRemote c code (word (bits x 32 13)).toNat 0x2c5).answer c seq [(0x2c0, 0)]
    | none => put d

/-- BARQ: the released count of the core's cluster, and whether a notice is pending for it. -/
def trigBarq : TrigFn := fun t w =>
  let d := dieOf t.c
  let b := bits t.v 0 6
  let q := clusterOf t.c
  let note := (t.pre.die d).board.notices.any fun n =>
    decide (n.ctx = t.env.ctx) && decide (n.b = b) && !(n.done.contains q)
  if t.m ≠ 0 ∨ !t.barOk then t.engine
  else .ok (t.taskItem w 4 (word ((t.pre.releasedCount d t.env.ctx b q).toNat + b2n note * 2 ^ 32)))

def execSpawn (f : Slot) (s : State) := execTrigger (.spawn f) trigSpawn s
def execToksend (f : Slot) (s : State) := execTrigger (.toksend f) trigToksend s
def execWidfExtractWid (f : Slot0) (s : State) := execTrigger (.widfExtractWid f) trigWidf s
def execWidfExtractOperand (f : Slot0) (s : State) := execTrigger (.widfExtractOperand f) trigWidf s
def execWidfInsert (f : Slot0) (s : State) := execTrigger (.widfInsert f) trigWidf s
def execPhaseUnit (f : Slot0) (s : State) := execTrigger (.phaseUnit f) trigPhase s
def execPhaseBound (f : Slot0) (s : State) := execTrigger (.phaseBound f) trigPhase s
def execBarc (f : Slot) (s : State) := execTrigger (.barc f) trigBarc s
def execBarq (f : Slot) (s : State) := execTrigger (.barq f) trigBarq s

end Sys2Proof.Machine
end

