-- ==== Sys2Proof/Machine/Drain.lean ====
section
/-!
DEFINITION. The commit buffer drains (13 R303): each effect reaches the agent that performs it.
-/

namespace Sys2Proof.Machine

/-- An effect of core `c` leaves the commit buffer; `lvl` 1: of the task beneath the handler that runs. -/
def W.emit (w : W) (c lvl : Nat) (o : Out) : W :=
  match o with
  | .at .. | .queue .. => w.emitAt c lvl o
  | .cpgo ch x => w.sendStart c ch x
  | .gqpush ch v => w.sendIndex c ch v
  | .cpabort ch => w.sendAbort c ch
  | .token seq dest tok scope => w.sendToken c seq dest tok scope
  | .barc seq b wait => w.arrive c seq b wait
  | .spawn seq img => w.spawn c seq img
  | .unit slot g n => w.addUnits (dieOf c) slot g n
  | .bound seq slot => w.boundOf c seq slot
  | .tlbinv seq form pkg va => w.performTlbinv c seq form pkg va

/-- The launch whose phases an effect reports to or bounds. -/
def Out.phase : Out → Option Nat
  | .unit slot _ _ => some slot
  | .bound _ slot => some slot
  | _ => none
/-- The other core of the die whose buffer holds the oldest report or boundary of launch `slot` issued before core `c`'s of
time `t`. -/
def State.olderPhase (s : State) (c t slot : Nat) : Option (Nat × Nat) :=
  s.cores.foldl (fun m e =>
    if e.1 = c ∨ dieOf e.1 ≠ dieOf c then m
    else match e.2.cbuf.find? fun x => decide (x.2.phase = some slot), m with
      | some x, none => if x.1 < t ∨ (x.1 = t ∧ e.1 < c) then some (x.1, e.1) else none
      | some x, some y => if x.1 < y.1 then some (x.1, e.1) else m
      | none, m => m) none
/-- They are performed, the oldest first: boundaries of a launch on a die are evaluated in issue order (12 R286). -/
def W.phasesBefore (c t slot : Nat) : Nat → W → W
  | 0, w => w
  | fuel + 1, w =>
    match w.olderPhase c t slot with
    | none => w
    | some (_, o) =>
      let l := (w.core o).cbuf
      let mine (x : Nat × Out) : Bool := decide (x.2.phase = some slot)
      match l.find? mine with
      | none => w
      | some e => phasesBefore c t slot fuel ((w.modCore o fun k => { k with cbuf := l.eraseP mine }).emit o 0 e.2)

/-- The oldest effect of the buffer leaves; a phase boundary after the earlier ones of its launch on the die. -/
def W.drainOne (w : W) (c : Nat) : W :=
  match (w.core c).cbuf with
  | [] => w
  | (t, o) :: l =>
    let w : W := match o with
      | .bound _ slot => W.phasesBefore c t slot (w.cores.foldl (fun n e => n + e.2.cbuf.length) 0) w
      | _ => w
    (w.modCore c fun k => { k with cbuf := l }).emit c (b2n (decide (t = 0) && decide ((w.core c).mode = .handler))) o
/-- Every effect of the buffer leaves, in issue order. -/
def W.drainAll (w : W) (c : Nat) : W := (w.core c).cbuf.foldl (fun w _ => w.drainOne c) w
/-- The oldest effect's bundle has passed its check: two clock cycles have gone since its issue. -/
def State.drainDue (s : State) (c : Nat) : Bool :=
  match (s.core c).cbuf with
  | [] => false
  | e :: _ => decide (e.1 + 2 ≤ s.clk)

/-- COMMIT_BUFFER_DRAIN, and the answers of the TLBINVs that left it and whose requests are complete (R314). -/
def execCommitBufferDrain (c : Nat) (s : State) : Host.Outcome State Fault Refusal :=
  go s ((if s.drainDue c then (W.of s).drainOne c else W.of s).tlbDone c)

end Sys2Proof.Machine
end

