-- ==== Sys2Proof/Machine/Return.lean ====
section
/-!
DEFINITION. Returning from a trap: RTRAP, what it restores, and the replay queue put back (13 R300..R302; 09 R225).
-/

namespace Sys2Proof.Machine

/-! ### Entries put back, discarded, altered (R300..R302) -/

/-- The result ports of an operation that has no result yet. -/
def awaitedPorts (it : Item) : List Nat :=
  match it.id / 64 with
  | 0x6 => if isLoad it.id then loadPorts it.id it.m else [0x182]
  | 0xa => [0x280]
  | 0xb => [0x2c0]
  | 0xc => [0x300]
  | _ => [0x900]
/-- The result ports of an item. -/
def Item.outPorts (it : Item) : List Nat := if it.wr.isEmpty then awaitedPorts it else it.wr.map (·.1)
/-- Free values for some ports. -/
def W.freePorts (w : W) (ps : List Nat) : List (Nat × Line) × W :=
  ps.foldl (fun a p => let x := a.2.freeLine; (a.1 ++ [(p, x.1)], x.2)) ([], w)
/-- Free values for the words of a tile. -/
def W.freeTile (w : W) (c t : Nat) : W :=
  let l := tabOfWords ((List.range 4096).map fun i => (Config.freeLine (w.free + i)).truncate 40)
  { (w.modCore c fun k => k.setTile t l) with free := w.free + 4096 }

/-- The stopped operation `seq` leaves its pair. -/
def Core.unstop (k : Core) (seq : Nat) : Core := { k with stopped := k.stopped.filter fun x => decide (x.1.seq ≠ seq) }

/-- A discarded entry: its stopped crossbar operation ends; a gap in a right to a buffer ends (R302). -/
def W.discard (w : W) (c : Nat) (b : Behind) : W :=
  match b with
  | .item it => match it.fx with | .right .. => w.itemFx c it | _ => w
  | .op o => w.modCore c fun k => k.unstop o.seq
  | .follow _ | .tier _ => w

/-- Free values for some lines of a core. -/
def W.freeVrf (w : W) (c : Nat) (l : List Nat) : W := l.foldl (fun w ln => let x := w.freeLine; x.2.setLine c ln x.1) w
/-- Free values for a tile pair: its arrays and its registers. -/
def W.freePair (w : W) (c p : Nat) : W :=
  let v (i : Nat) : Nat := (Config.freeLine (w.free + i)).toNat
  let cells (n : Nat) : Tab Int := (List.range 1048576).foldl (fun t i => Tab.put 0 t i ((v (n + i) % 255 : Nat) - 127 : Int)) []
  let x := (w.core c).pair p
  let x' : Pair := { x with
    nF := cells 0, nC := cells 1048576, gamma := BitVec.ofNat 16 (v 2097152), wstep := BitVec.ofNat 16 (v 2097153)
    seedR := BitVec.ofNat 16 (v 2097154), seedC := BitVec.ofNat 16 (v 2097155), tp := v 2097156 % 1024, mode := v 2097157 % 5 }
  { (w.modCore c fun k => k.setPair p x') with free := w.free + 2097158 }

/-- An mx or acc operation put back, the restart bundle at run cycle `r`. -/
def EngineOp.replayed (o : EngineOp) (r rem el : Nat) : EngineOp :=
  if o.started then { o with u := r - el, started := false, due := some (r - el), step := 0, buf := [], sums := [] }
  else { o with u := r + rem, due := some (r + rem), again := false }
/-- An ACCSPILL goes on at line EL with the tile as it then stands. -/
def EngineOp.respilled (o : EngineOp) (r el : Nat) : EngineOp :=
  { o with u := r - el, started := false, again := true, due := some r, step := el, sums := [] }
/-- A crossbar operation put back: it waits, restarts with the codes that it had captured, or goes on with its slots (09 R225).
One that was due and had not really begun, for its pair settled or its grant had not come, begins as any other (09 R212; 15
R341). -/
def EngineOp.xbReplayed (o : EngineOp) (r rem el ran : Nat) : EngineOp :=
  if !o.started then { o with u := r + rem, due := some (r + rem), again := false }
  else if o.xbRestarts (o.u + ran) || !o.again then
    { o with u := r - el, started := false, due := some (r - el) }
  else { o with u := r - ran, due := (o.xbReads[o.step]?).map fun x => r - ran + x.2.2 }

/-- An entry takes effect at its distance from the restart bundle, which issues at run cycle `r` (R300, R301). -/
def W.reinject (w : W) (c r rem el : Nat) (b : Behind) : W :=
  match b with
  | .item it => w.addItem c { it with due := r + it.due }
  | .follow f => w.modCore c fun k => k.modCp fun e => { e with follows := e.follows ++ [f] }
  | .tier x =>
    (w.modCore c fun k => { k with tier := k.tier ++ [x] }).addItem c
      { kind := .atr, id := x.op, m := x.m, seq := x.seq, due := r + rem, a := x.o, await := .agent, bpc := x.bpc }
  | .op o =>
    if isMma o.id ∨ o.id = 0x305 then
      let o' := o.replayed r rem el
      w.modCore c fun k => k.modEng fun e =>
        if o.started && o.again then { e with mx := some o' } else { e with mxWait := some o' }
    else if decide (0x890 ≤ o.id) && decide (o.id ≤ 0x89c) then
      -- an operation whose pair was withdrawn is gone with its entry (09 R205)
      match (w.core c).stopped.find? fun x => decide (x.1.seq = o.seq) with
      | none => w
      | some x =>
        let o' := ({ x.1 with started := o.started } : EngineOp).xbReplayed r rem el x.2
        w.modCore c fun k => (k.unstop o.seq).modEng fun e => { e with xb := e.xb ++ [o'] }
    else
      let o' := if o.id = 0x845 then o.respilled r el else { o.replayed r rem el with again := true }
      w.modCore c fun k => k.modEng fun e => { e with acc := some o' }

/-- An entry changed otherwise: its results are free values, and so is what an engine's operation writes: the tile of an mx,
ACCZ or ACCFILL, the lines of an ACCSPILL, the pair and the output lines of a crossbar operation, a count of clamps. Whether a
FILLER, a follow-on or a tier command takes place is a free value too, and so are the operands of the latter two (R302;
log 15). -/
def W.altered (w : W) (c r rem el : Nat) (b : Behind) : W :=
  let due := r + rem
  let v := w.freeWord
  let maybe (b : Behind) : W := if bitAt v.1 63 then v.2 else v.2.reinject c r rem el b
  let result (w : W) (it : Item) (ps : List Nat) : W :=
    let r := w.freePorts ps
    let n := r.2.freeWord
    n.2.addItem c { it with
      kind := .res, due := due, await := .ready, wr := r.1
      fx := match it.fx with | .clamp d sv _ => .clamp d sv (bits n.1 0 7 % 65) | .right .. => .none | x => x }
  match b with
  | .item it => result (w.discard c b) it it.outPorts
  | .op o =>
    let w := w.discard c b
    let it : Item := { kind := .res, id := o.id, m := o.m, seq := o.seq, due := due, bpc := o.bpc }
    if isMma o.id then (result w it [0x800]).freeTile c o.mxTile
    else if o.id = 0x305 then maybe b
    else if o.id = 0x845 then w.freeVrf c ((List.range 160).map fun i => o.firstLine + i)
    else if o.id = 0x844 ∨ o.id = 0x846 then (match o.accTile with | some t => w.freeTile c t | none => w)
    else
      ((result w it [if o.id = 0x89c then 0x880 else 0x881]).freePair c o.pair).freeVrf c (o.xbWrites.map (·.1))
  | .follow f =>
    let x := v.2.freeWord
    if bitAt v.1 63 then v.2 else x.2.reinject c r rem el (.follow { f with val := x.1, m := BitVec.ofNat 4 (bits v.1 0 4) })
  | .tier x =>
    let p := v.2.freeWord
    let q := p.2.freeWord
    if bitAt v.1 63 then result v.2 { kind := .res, id := x.op, m := x.m, seq := x.seq, due := due, bpc := x.bpc } [0x900]
    else q.2.reinject c r rem el (.tier { x with o := p.1, t := q.1 })

/-- Entry `q` of the frame with what stood behind it. -/
def W.replayEntry (w : W) (c r q : Nat) : W :=
  let k := w.core c
  let e := k.frameEntry q
  let h := k.frameLine 0
  match k.shadow.behind[q]?, k.shadow.entries[q]? with
  | some b, some e0 =>
    if bits h 112 8 ≤ q ∨ bits e.1 0 4 = 0 then w.discard c b
    else if e = e0 then w.reinject c r (bits e.1 32 32) (bits e.1 64 32) b
    else w.altered c r (bits e.1 32 32) (bits e.1 64 32) b
  | _, _ => w

/-! ### RTRAP (R301) -/

/-- The code range of the task on a core. -/
def State.taskRange (s : State) (c : Nat) : Nat × Nat :=
  let h := (s.taskLaunch c).hdr
  (hdrCode h, hdrCode h + hdrSize h)

/-- The loop body fetched again for a restart at a merged issue. -/
def W.loopBody (w : W) (c : Nat) : List (BitVec 256) :=
  let k := w.core c
  (List.range (bits k.ctl.lsq 1 6 + 1)).map fun i =>
    (w.fetch (w.env c).pages (bits k.ctl.lpc 0 51 + 32 * (i + 1))).getD 0

/-- The RTRAP effect: the frame is read; the task goes on, its first run cycle being `run`, through PRE wait cycles to
its restart point. -/
def W.rtrapEffect (w : W) (c run : Nat) : W :=
  let k := w.core c
  let h := k.frameLine 0
  let r := run + bits h 384 32
  let loop := bitAt h 88
  let w := w.modCore c fun k =>
    { ((k.restoreFrame r).setPc (bits h 0 64)) with
      mode := .task
      pipe := { k.pipe with pre := bits h 384 32, held := 0 } }
  let w := w.modCore c fun k =>
    { k with
      seq := if loop then { on := true, body := w.loopBody c } else {}
      ctl := { k.ctl with lsq := setBits k.ctl.lsq 0 1 (b2n loop) } }
  let w := (List.range k.shadow.behind.length).foldl (fun w q => w.replayEntry c r q) w
  w.modCore c fun k =>
    { k with
      shadow := {}, relFence := k.shadow.fence, ats := k.ats.map AtOp.above
      bkpt := decide (k.shadow.pass = some k.pcAddr) && !loop }

/-- RTRAP on a frame: checked, or a double trap with DBLCAUSE 2. -/
def W.rtrap (w : W) (c run : Nat) : W :=
  let x := w.taskRange c
  if rtrapOk (w.core c) x.1 x.2 then w.rtrapEffect c run else w.doubleTrap c 2

/-- An entry with no task ends: the core becomes idle. -/
def W.endNotask (w : W) (c : Nat) : W :=
  w.modCore c fun k => { k with mode := .idle, running := none, notask := false, shadow := {}, relFence := none, ats := k.ats.map AtOp.above }

/-- An operation of the handler on the core's units and lock-step engines has not completed. -/
def Core.unitsBusy (k : Core) : Bool :=
  !k.pipe.items.isEmpty || k.engineBusy 0 || k.engineBusy 1 || k.xbBusy ||
    k.eng.streams.any fun e => !e.2.wbuf.isEmpty

/-- RTRAP: wait cycles while the handler's operations run, then held until the commit buffer is empty; the moves take
effect; the frame is read. -/
def ctlRtrap : CtlFn := checked fun t w =>
  if t.k.unitsBusy then .wait
  else if !t.k.cbuf.isEmpty then .hold 9 none
  else if t.k.notask then .ok (w.endNotask t.c)
  else .ok (w.rtrap t.c (t.k.pipe.run + 1))

def execRtrap (e : BitVec 4) (s : State) := execControl (.rtrap e) ctlRtrap s

/-- REPLAY_ENTRY_EFFECT: what an entry put back does when its distance is reached: a re-issued load reads its line, an
engine operation restarts, an ACCSPILL takes the tile as it stands (R300). -/
def W.replayEffect (w : W) (c : Nat) : W :=
  let k := w.core c
  let w := if k.pipe.pre = 0 then w.pollLoads c else w
  w.modCore c fun k => k.modEng fun e =>
    { e with
      mx := e.mx.map fun o =>
        if o.again && !o.started && o.behind k.pipe.run then
          { (if o.id = 0x305 then { o with started := true, due := none } else o.begin_ k) with again := false }
        else o
      acc := e.acc.map fun o =>
        if o.again && !o.started && o.behind k.pipe.run then
          if o.id = 0x845 then { o with started := true, again := false, due := none, sums := k.tile (bits o.trig 0 4) }
          else { o with started := true, again := false, due := if o.id = 0x846 then o.due else none }
        else o }

def execReplayEntryEffect (c : Nat) (s : State) : Host.Outcome State Fault Refusal := go s ((W.of s).replayEffect c)

/-- ENGINE_START_CYCLE: the operation of an engine (0 mx, 1 acc, 2 xb) that waits for its start cycle starts when it is
due. An acc operation waits only when it was put back by RTRAP. -/
def W.engineStart (w : W) (c e : Nat) : W :=
  match e with
  | 0 => (w.replayEffect c).mxStart c
  | 1 => w.replayEffect c
  | _ => w.xbStart c

def execEngineStartCycle (c e : Nat) (s : State) : Host.Outcome State Fault Refusal := go s ((W.of s).engineStart c e)

end Sys2Proof.Machine
end

