-- ==== Sys2Proof/Machine/Tasks.lean ====
section
/-!
DEFINITION. Tasks on cores: SUSPEND, YIELD, dispatch and the context switch, prompts, forced saves, trap entry at a
boundary, entries with no task, timing errors (12 R274..R280; 13 R293, R303, R304, R306, R310; 09 R212).
-/

namespace Sys2Proof.Machine

/-! ### SUSPEND and YIELD (12 R274, R275) -/

/-- Results that SUSPEND does not wait for: those of at, SPAWN, PHASE, BARC and tier operations (R274; log 27). -/
def suspendDrops (it : Item) : Bool :=
  (decide (0x282 ≤ it.id) && decide (it.id ≤ 0x28b)) || [0x2c1, 0x2c4, 0x2c5].contains it.id ||
    (decide (0x901 ≤ it.id) && decide (it.id ≤ 0x905))
/-- The core's units or lock-step engines hold an operation of the task. -/
def Core.taskBusy (k : Core) : Bool :=
  (k.pipe.items.any fun it => !(suspendDrops it)) || (List.range 4).any k.engineBusy

/-- The newest id of the format pipeline, or CUR (R274). -/
def newestLegend (f : Word) : Nat :=
  if bitAt f 14 then bits f 40 12 else if bitAt f 13 then bits f 28 12 else if bitAt f 12 then bits f 16 12 else bits f 0 12

/-- The record as the core leaves it: S1..S5, RPC, WBASE, LEG, WAIT. -/
def Core.suspendImage (k : Core) (img : BitVec 512) (rpc : Nat) (kind : Option Nat) : BitVec 512 :=
  let s (i : Nat) (x : BitVec 512) : BitVec 512 := setBits x (64 * i) 64 (k.regs.sreg i).toNat
  let x : BitVec 512 := s 5 (s 4 (s 3 (s 2 (s 1 img))))
  let x : BitVec 512 := setBits x 384 46 (rpc / 32)
  let x : BitVec 512 := setBits (setBits x 430 15 (bits k.ctl.win 0 15)) 445 12 (newestLegend k.ctl.fmt)
  match kind with | some n => setBits x 457 4 n | none => x

/-- The wait that the condition registers give, checked (R274). -/
def CCtx.suspendWait (t : CCtx) (kind : Nat) (a b : Word) : Except Cause Wait :=
  let fault (x : Cause) : Except Cause Wait := .error x
  match kind with
  | 1 => if bits a 48 16 ≠ 0 then fault (engineFault 0 0) else .ok (.token (bits a 0 16) (BitVec.ofNat 32 (bits a 16 32)))
  | 2 =>
    match t.pre.atTarget (dieOf t.c) t.env.ctx t.env.priv a with
    | .error .engine => fault (engineFault 0 0)
    | .error .handle => fault (handleFault 0 (bits a 0 48) 0)
    | .error .window => fault (windowFault 0 (bits a 0 48) 0)
    | .ok _ => .ok (.sync a (b.truncate 32))
  | 3 => if bits a 6 58 ≠ 0 then fault (engineFault 0 0) else .ok (.engine a)
  | 4 => .ok (.timer a.toNat)
  | 5 =>
    if bits a 6 26 ≠ 0 ∨ !(barValid (t.pre.bar (dieOf t.c) t.env.ctx (bits a 0 6))) then fault (engineFault 0 0)
    else .ok (.barrier (bits a 0 6) (BitVec.ofNat 32 (bits a 32 32)))
  | _ => .ok .always

/-- The task has left core `c`: nothing of it remains there but its detached commands (R274 step 4). -/
def W.leaveCore (w : W) (c : Nat) : W :=
  (((w.settlePops c).fenced c).unprompt c).modCore c fun k =>
    { k with
      mode := .idle, running := none, seq := {}, relFence := none
      pipe := { k.pipe with items := [], pre := 0, held := 0 }
      ats := k.ats.map fun a => { a with live := false }
      ctl := { k.ctl with res := 0, prompt := none, noslot := false } }

/-- The run of the task on core `c` ends; its record waits, or is freed by DONE. -/
def W.suspend (w : W) (c rpc : Nat) (kind : Option Nat) (wait : Wait) : W :=
  let d := dieOf c
  let w := w.drainAll c
  let k := w.core c
  match k.running with
  | none => w
  | some r =>
    let slot := recLaunch r.img
    let g := bits r.img 474 3
    let w := w.modLaunch d slot fun l => { l with busy := Tab.put 0 l.busy g (Tab.get 0 l.busy g + (w.clk - r.since)) }
    let after := w.openOps c false
    let ctx := k.ctx.getD 0
    let w := w.leaveCore c
    if kind = some 0 then w.freeRecord d r.idx r.img
    else
      let img := k.suspendImage r.img rpc kind
      let cmds := r.cmds.filter fun e => !(w.cmdOver ctx e)
      let w := (w.modRec d r.idx fun x =>
        { x with img := img, wait := wait, after := after, cmds := cmds, run := false, ready := false, reg := some c }).overflow d r.idx img
      (w.recordReady d r.idx).timerExpire d r.idx

/-- SUSPEND: wait cycles while an operation of the task runs; then it issues. -/
def ctlSuspend : CtlFn := checked fun t w =>
  let o := ctlOpd t.word
  let kind := bits o 18 4
  let n := bits o 12 6
  let a := t.k.regs.sreg n
  if t.k.taskBusy then .wait
  else match t.suspendWait kind a (t.k.regs.sreg ((n + 1) % 64)) with
    | .error x => .trap x
    | .ok wait => .ok (w.suspend t.c (target64 (t.rel 12 (bits o 0 12))) (some kind) wait)

/-- YIELD: ready at once, resuming at PC + 32. -/
def ctlYield : CtlFn := checked fun t w =>
  if t.k.taskBusy then .wait else .ok (w.suspend t.c (t.bpc + 32) none .always)

/-- BKPT: DEBUG, precisely (17 R357). -/
def ctlBkpt : CtlFn := checked fun _ _ => .trap { code := 13, slot := 0 }

def execSuspend (e k : BitVec 4) (n : BitVec 6) (d : BitVec 12) (s : State) := execControl (.suspend e k n d) ctlSuspend s
def execYield (e : BitVec 4) (s : State) := execControl (.yield e) ctlYield s
def execBkpt (e : BitVec 4) (s : State) := execControl (.bkpt e) ctlBkpt s

/-! ### The context switch (13 R309, R310; 09 R212) -/

/-- Channels and tier commands let the context leave the core (R310). -/
def Core.mayLeave (k : Core) : Bool :=
  (k.cp.ch.all fun e => (decide (e.2.st = 0) || decide (e.2.st = 3) || decide (e.2.st = 4)) && e.2.pend.isEmpty) &&
    k.tier.all (·.accepted)
/-- The switch itself waits for the adds of a copy admitted to the store (08 R199) and for the commit buffer. -/
def Core.mayStore (k : Core) : Bool := k.slots.adm.isNone && k.cbuf.isEmpty

/-- Settles of a context's pairs that have not ended are recorded as unsettled. -/
def W.unsettle (w : W) (c ctx : Nat) : W :=
  (List.range 8).foldl (fun w i =>
    let p := (w.core c).pair i
    if w.ownsPair c ctx i && decide (w.clk < p.settle) then
      w.modCore c fun k => k.setPair i { p with unsettled := true, settle := 0 }
    else w) w
/-- They begin again in the next clock cycle, whole, from the mode before the last change. -/
def W.resettle (w : W) (c ctx : Nat) : W :=
  (List.range 8).foldl (fun w i =>
    let p := (w.core c).pair i
    if w.ownsPair c ctx i && p.unsettled then
      w.modCore c fun k => k.setPair i { p with unsettled := false, settle := w.clk + settleTime p.prev p.mode }
    else w) w

/-- The core-state slot of a context on core `c` (R308, R310), and where the model lays the accumulator image in it (log 57). -/
def State.slotBase (s : State) (c ctx : Nat) : Nat :=
  bits (Tab.get 0 (s.die (dieOf c)).cctl ctx) 256 39 + 524288 * onDie c + 0x20000
/-- The accumulator store is saved in the image of 08 R196, R197: tile t at 20,480 t; every line is written whole. -/
def W.saveAcc (w : W) (c ctx : Nat) (acc : Tab Acc40) : W :=
  let base := w.slotBase c ctx
  let port := agentPort 5 (dieOf c)
  (List.range 16).foldl (fun w t =>
    let l := (acc.filter fun e => decide (e.1 / 4096 = t)).map fun e => (e.1 % 4096, e.2)
    let at_ := base + 20480 * t
    if l.isEmpty then w.hbmZero port at_ 20480
    else (List.range 160).foldl (fun w q =>
      let cells := (((List.range 128).map (at_ + 128 * q + ·)).zip (lineToBytes (imageLine l q))).filter fun e => decide (e.2 ≠ 0)
      w.hbmAsk { src := port, line := (at_ + 128 * q) / 128, write := true, data := cells, whole := true }) w) w
/-- A byte of a range may differ from zero. -/
def W.listed (w : W) (a n : Nat) : Bool :=
  w.out.any (fun e => decide (a ≤ e.1) && decide (e.1 < a + n)) || w.mem.any fun e => decide (a ≤ e.1) && decide (e.1 < a + n)
/-- `n` lines of HBM from `a` as a die reads them for itself; DESIGN CHOICE (log 106): an uncorrectable line is a free value. -/
def W.dieLines (w : W) (a n : Nat) : List Line × W :=
  (List.range n).foldr (fun i r =>
    if r.2.badLine (a + 128 * i) then let v := r.2.freeLine; (v.1 :: r.1, v.2) else (ofBytes 1024 (w.bytes (a + 128 * i) 128) :: r.1, r.2))
    ([], w)
/-- The accumulator store that a slot's image holds. -/
def W.loadAcc (w : W) (c ctx : Nat) : Tab Acc40 × W :=
  let base := w.slotBase c ctx
  let r := (List.range 16).foldl (fun (r : Core × W) t =>
    let at_ := base + 20480 * t
    if r.2.listed at_ 20480 || (lineAddrs at_ 20480).any r.2.badLine then
      let l := r.2.dieLines at_ 160
      (r.1.setTile t (imageTile ((List.range 160).zip l.1)), l.2)
    else r) (Core.reset, w)
  (r.1.accw, r.2)
/-- The reads of the switch of core `c` to a context: the image in its slot. -/
def W.switchReads (w : W) (c ctx : Nat) : List AgentRead :=
  if (w.core c).ctx = some ctx ∨ (Tab.get none (w.die (dieOf c)).away (ctx * 128 + onDie c)).isNone then []
  else readsOf (agentPort 5 (dieOf c)) (w.slotBase c ctx) 327680

/-- The core layer of another context takes the place of the resident one's (R309, R310). -/
def W.switchTo (w : W) (c ctx : Nat) : W :=
  let k := w.core c
  if k.ctx = some ctx then w
  else
    let key (x : Nat) : Nat := x * 128 + onDie c
    let w := w.flushDie (dieOf c)
    let w := match k.ctx with
      | some old =>
        ((w.unsettle c old).modDie (dieOf c) fun d => { d with away := Tab.set d.away (key old) (some k) }).saveAcc c old k.accw
      | none => w
    let l := if k.ctx.isNone ∧ (Tab.get none (w.die (dieOf c)).away (key ctx)).isNone then k else w.layer c ctx
    let held := (Tab.get none (w.die (dieOf c)).away (key ctx)).isSome
    let img := if held then w.loadAcc c ctx else (l.accw, w)
    let accw := img.1
    let w := img.2
    let w := w.modDie (dieOf c) fun d => { d with away := Tab.erase d.away (key ctx) }
    let w := w.modCore c fun k =>
      { k with
        ctx := some ctx
        regs := { k.regs with op := l.regs.op, res := l.regs.res }
        eng := { k.eng with streams := l.eng.streams }
        cp := l.cp, bufs := l.bufs, slots := l.slots, accw := accw, late := l.late
        pipe := { k.pipe with causes := l.pipe.causes, attr := l.pipe.attr } }
    w.resettle c ctx

/-! ### Dispatch (12 R273, R276, R278, R279; 08 R198) -/

/-- The effective priority of a ready record (R278). -/
def State.effPrio (s : State) (d : Nat) (r : Record) : Nat :=
  Nat.max r.prio (Nat.min (s.die d).board.cap.toNat (r.prio + (s.clk - r.readyAt) / 4096))

/-- A ready record may be given to core `c`, were it idle (R279, R310). -/
def State.eligible (s : State) (c : Nat) (r : Record) : Bool :=
  let k := s.core c
  r.ready && !r.run && s.coreEnabled c && !(s.barred (dieOf c) r.ctx) &&
    (if r.bound then decide (r.aff = onDie c) else decide (0 < (s.allotment c r.ctx).2)) &&
    (decide (k.ctx = some r.ctx) || k.ctx.isNone || k.mayLeave)
/-- The record that an idle core is given may resume there: its context's store is in place or may come, and a slot table that
it loads waits while a copy is admitted (08 R198). -/
def State.mayResume (s : State) (c : Nat) (r : Record) : Bool :=
  let k := s.core c
  (decide (k.ctx = some r.ctx) || k.ctx.isNone || k.mayStore) &&
    !(r.fresh && k.slots.adm.isSome && !((s.die (dieOf c)).board.launch (recLaunch r.img)).slotimg.isEmpty)

/-- An idle core with no attributed cause to take first (13 R304). -/
def State.idleCore (s : State) (c : Nat) : Bool :=
  let k := s.core c
  let pending := (List.range 64).any fun x => !(s.layer c x).pipe.attr.isEmpty && !(s.barred (dieOf c) x)
  decide (k.mode = .idle) && !k.halted && !pending

/-- The dispatch order: highest E, earliest ready time, lowest index (R279). -/
def State.before (s : State) (d : Nat) (x y : Nat × Record) : Bool :=
  let a := s.effPrio d x.2
  let b := s.effPrio d y.2
  decide (b < a) || (decide (a = b) && (decide (x.2.readyAt < y.2.readyAt) ||
    (decide (x.2.readyAt = y.2.readyAt) && decide (x.1 < y.1))))
/-- The record that core `c` would be given. -/
def State.nextRecord (s : State) (c : Nat) : Option (Nat × Record) :=
  let d := dieOf c
  ((s.die d).board.recs.filter fun e => s.eligible c e.2).foldl (fun (a : Option (Nat × Record)) e =>
    match a with
    | none => some e
    | some x => if s.before d e x then some e else some x) none

/-- The counts of launch `i` take the place in the control registers of those of the core's last launch. -/
def Core.recount (k : Core) (i : Nat) : Core :=
  let t : Tally := Tab.get {} k.tally i
  let old : Tally := { hcy := k.ctl.hcy, scy := k.ctl.scy, terr := k.ctl.terr, halts := k.ctl.halts }
  { k with
    tally := match k.lastLaunch with | some j => Tab.put {} (k.tally.erase i) j old | none => k.tally.erase i
    ctl := { k.ctl with hcy := t.hcy, scy := t.scy, terr := t.terr, halts := t.halts } }
/-- Templates, energy weights and counts of a launch, loaded when the core's last launch was another (R273). -/
def W.loadLaunch (w : W) (c : Nat) (img : BitVec 512) : W :=
  let i := recLaunch img
  let l := (w.die (dieOf c)).board.launch i
  if (w.core c).lastLaunch = some i then w
  else w.modCore c fun k0 =>
    let k := k0.recount i
    { k with
      lastLaunch := some i
      cp := { k.cp with tpl := ((List.range l.tpl.length).zip l.tpl).foldl (fun t e => Tab.put 0 t e.1 e.2) [] }
      ctl := { k.ctl with ewt := BitVec.ofNat 256 (hdrField l.hdr 0x50 32) } }
/-- The time-slot image of a launched record, loaded into the core of its first dispatch (08 R198). -/
def W.loadSlots (w : W) (c : Nat) (r : Record) : W :=
  let l := (w.die (dieOf c)).board.launch (recLaunch r.img)
  if !r.fresh ∨ l.slotimg.isEmpty then w
  else match slotImage l.slotimg with
    | some t => w.modCore c fun k => { k with slots := t }
    | none => w

/-- The registers of a resumed task (R276). -/
def Core.resumeRegs (k : Core) (r : Record) : Core :=
  let s := (List.range 5).foldl (fun t i => Tab.put 0 t (i + 1) (word (bits r.img (64 * (i + 1)) 64))) []
  let regs : Regs := if r.fresh then { s := s } else { k.regs with s := s, p := 0, lit := 0 }
  { (k.setPc (bits r.img 384 46 * 32)) with
    regs := regs, seq := {}
    ctl := { k.ctl with win := word (bits r.img 430 15), fmt := word (bits r.img 445 12), lsq := setBits k.ctl.lsq 0 1 0 } }

/-- The address of a save slot of a context on a die (13 R306, R308). -/
def State.saveBase (s : State) (d ctx slot : Nat) : Nat := bits (Tab.get 0 (s.die d).cctl ctx) 160 39 + 8192 * slot
/-- A forced-save frame loaded again: lines and shadow, its save slot free (13 R306). -/
def W.loadFrame (w : W) (c ctx slot : Nat) (sh : Shadow) : W :=
  let d := dieOf c
  let l := w.dieLines (w.saveBase d ctx slot) 64
  let w := (l.2.writeFrame c l.1).modDie d fun x => { x with saves := Tab.put false x.saves (ctx * 65536 + slot) false }
  w.modCore c fun k => { k with shadow := sh }
/-- The reads of a record's resumption on core `c`: its context's image, and the frame of a forced save. -/
def W.resumeReads (w : W) (c : Nat) (r : Record) : List AgentRead :=
  w.switchReads c r.ctx ++ match r.frame with
    | some (slot, _) => readsOf (agentPort 5 (dieOf c)) (w.saveBase (dieOf c) r.ctx slot) 8192
    | none => []

/-- A record resumes on core `c` (R276; 13 R301, R306). Resumption acquires at die scope. -/
def W.resume (w : W) (c : Nat) (e : Nat × Record) : W :=
  let d := dieOf c
  let r := e.2
  let eff := w.effPrio d r
  let w := ((w.switchTo c r.ctx).loadLaunch c r.img).loadSlots c r
  let w := w.modRec d e.1 fun x =>
    { x with run := true, ready := false, fresh := false, frame := none, after := [], prompting := none }
  let run : Running := { img := r.img, e := eff, since := w.clk, cmds := r.cmds, idx := e.1, tid := r.tid }
  let w := w.modCore c fun k =>
    { k with mode := .task, running := some run, relFence := none, ctl := { k.ctl with prompt := none, noslot := false } }
  let w := w.refreshMirrors d
  match r.frame with
  | none => w.modCore c fun k => k.resumeRegs r
  | some (slot, sh) =>
    let w := ((w.loadFrame c r.ctx slot sh).resettle c r.ctx).modCore c fun k =>
      { k with ats := k.ats.map fun a => if r.after.contains (c, a.seq) then { a with live := true, lvl := 1 } else a }
    w.rtrap c (w.core c).pipe.run

/-- DISPATCH: an idle core is given the record that comes first. -/
def W.dispatch (w : W) (c : Nat) : W :=
  if !(w.idleCore c) then w
  else match w.nextRecord c with
    | none => w
    | some e => if w.mayResume c e.2 then w.reading (w.resumeReads c e.2) fun w => w.resume c e else w

def execDispatch (c : Nat) (s : State) : Host.Outcome State Fault Refusal := go s ((W.of s).dispatch c)

/-! ### Prompts (12 R280) -/

/-- The prompt that a record raised is outstanding. -/
def State.promptOut (s : State) (r : Record) : Bool :=
  r.prompting.any fun c => (s.core c).ctl.prompt.isSome

/-- The core whose task is prompted for a record: the lowest running priority, then the lowest index. -/
def State.promptCore (s : State) (d : Nat) (r : Record) : Option Nat :=
  let q := s.effPrio d r
  let l := ((List.range 128).map (d * 128 + ·)).filter fun c =>
    s.eligible c r && decide ((s.core c).mode ≠ .stopped) && match (s.core c).running with | some x => decide (x.e < q) | none => false
  let e (c : Nat) : Nat := match (s.core c).running with | some x => x.e | none => 0
  l.foldl (fun a c => match a with | none => some c | some b => if e c < e b then some c else some b) none

/-- From this index on, which no board entry has, PROMPT names the stage manager's prompt of core `idx - managerPrompt` of
the die (R306; log 23). -/
def managerPrompt : Nat := 2 ^ 33
/-- The stage manager prompts the task that core `c` runs (R306). -/
def W.promptByManager (w : W) (c : Nat) : W :=
  if (w.core c).running.isNone then w
  else w.modCore c fun k => { k with ctl := { k.ctl with prompt := some (k.ctl.prompt.getD w.clk) } }

/-- PROMPT: a ready record that has found no idle core for 256 clock cycles, or the stage manager prompts a core. -/
def W.prompt (w : W) (d idx : Nat) : W :=
  match (w.die d).board.entry idx with
  | none =>
    if managerPrompt ≤ idx ∧ idx < managerPrompt + 128 then w.promptByManager (d * 128 + (idx - managerPrompt)) else w
  | some r =>
    let idle := ((List.range 128).map (d * 128 + ·)).any fun c => w.idleCore c && w.eligible c r
    if !r.ready ∨ r.run ∨ w.clk < r.readyAt + 256 ∨ idle ∨ w.promptOut r then w
    else match w.promptCore d r with
      | none => w
      | some c =>
        let t := ((w.core c).ctl.prompt).getD w.clk
        (w.modCore c fun k => { k with ctl := { k.ctl with prompt := some t } }).modRec d idx fun x =>
          { x with prompting := some c }

def execPrompt (d idx : Nat) (s : State) : Host.Outcome State Fault Refusal := go s ((W.of s).prompt d idx)

/-! ### Forced saves (13 R306) -/

/-- The restart point of a core at a boundary: the bundle's 32 bytes or the merged issue's, and whether it is one. -/
def W.restartImg (w : W) (c : Nat) : BitVec 256 × Bool :=
  let k := w.core c
  if k.seq.on then ((match mergedBundle k with | some b => b.img | none => 0), true)
  else ((w.fetch (w.env c).pages k.pcAddr).getD 0, false)

/-- The forced save of the task on core `c` into a save slot. -/
def W.forceSave (w : W) (c slot : Nat) : W :=
  let d := dieOf c
  let k := w.core c
  let ctx := k.ctx.getD 0
  match k.running with
  | none => w
  | some r =>
    -- the die sends the context's deltas before its state counts as saved (10 R246)
    let w := (((w.completeItems c fun _ => true).drainAll c).unread c).flushDie d
    let k := w.core c
    let ri := w.restartImg c
    let age := match k.ctl.prompt with | some t => w.clk - t | none => 0
    let fr := w.frameOf c { code := 11, i0 := word age } (w.also c 11) ri.1 ri.2 true
    let w := ((w.stopCore c).writeFrame c fr.1).unsettle c ctx
    let w := w.hbmStore (agentPort 5 d) (w.saveBase d ctx slot) (fr.1.map lineToBytes).flatten
    let w := w.modDie d fun x => { x with saves := Tab.put false x.saves (ctx * 65536 + slot) true }
    let w := w.modLaunch d (recLaunch r.img) fun l =>
      { l with busy := Tab.put 0 l.busy (bits r.img 474 3) (Tab.get 0 l.busy (bits r.img 474 3) + (w.clk - r.since)) }
    let img : BitVec 512 := setBits (setBits r.img 464 1 1) 465 7 (onDie c)
    let after := k.openAts c true
    let w := (w.modRec d r.idx fun x =>
      { x with img := img, wait := .always, after := after, cmds := r.cmds, run := false, ready := true, readyAt := w.clk
               frame := some (slot, fr.2), prompting := none }).overflow d r.idx img
    (w.leaveCore c).stepTrap c 11

/-- The task of core `c` is taken from it at this boundary: after a TIMEOUT that is due (R293). -/
def State.preemptNow (s : State) (c : Nat) : Bool := s.preemptDue c && (s.core c).runs && !((s.core c).timeoutDue)

/-- PREEMPT_FORCED: the task is saved, or NOSLOT is set where no slot is free. -/
def W.preemptForced (w : W) (c : Nat) : W :=
  if !(w.preemptNow c) ∨ (w.core c).ctl.noslot then w
  else match w.saveSlot (dieOf c) ((w.core c).ctx.getD 0) with
    | some i => w.forceSave c i
    | none => w.modCore c fun k => { k with ctl := { k.ctl with noslot := true } }

/-- FORCED_SAVE_RETRY: a save slot has become free. -/
def W.forcedSaveRetry (w : W) (c : Nat) : W :=
  if !(w.preemptNow c) ∨ !((w.core c).ctl.noslot) then w
  else match w.saveSlot (dieOf c) ((w.core c).ctx.getD 0) with
    | some i => w.forceSave c i
    | none => w

def execPreemptForced (c : Nat) (s : State) : Host.Outcome State Fault Refusal := go s ((W.of s).preemptForced c)
def execForcedSaveRetry (c : Nat) (s : State) : Host.Outcome State Fault Refusal := go s ((W.of s).forcedSaveRetry c)

/-! ### Pending causes at a boundary (13 R293, R294, R304) -/

/-- The first pending cause of a core, which leaves the pending ones: completion causes, then, outside handler mode,
attributed ones (R293, R295). -/
def Core.firstPending (k : Core) : Option (Cause × Core) :=
  match k.pipe.causes with
  | x :: l => some (x, k.modPipe fun p => { p with causes := l })
  | [] =>
    if k.mode = .handler then none
    else match k.pipe.attr with
      | x :: l => some (x.2, k.modPipe fun p => { p with attr := l })
      | [] => none

/-- The first pending cause of core `c` is taken at its boundary; a TIMEOUT that is due stays pending behind it. -/
def W.takePending (w : W) (c : Nat) : W :=
  match (w.core c).firstPending with
  | none => w
  | some (x, k) =>
    let ri := w.restartImg c
    let k := if k.timeoutDue then k.addAttr 10 k.timeout else k
    let w := (w.modCore c fun _ => k).drainAll c
    w.enterTrap c x (w.also c x.code) ri.1 ri.2

/-- TRAP_ENTRY: a core that runs takes the first cause that is pending for it. -/
def execTrapEntry (c : Nat) (s : State) : Host.Outcome State Fault Refusal :=
  go s (if (s.core c).runs then (W.of s).takePending c else W.of s)

/-- The context with an attributed cause that an idle core takes: the resident one first; none that a HALT has stopped (17
R354) or that closes (14 R328). -/
def State.notaskCtx (s : State) (c : Nat) : Option Nat :=
  let k := s.core c
  let has (x : Nat) : Bool := !(s.layer c x).pipe.attr.isEmpty && !(s.barred (dieOf c) x)
  match k.ctx.filter has with
  | some x => some x
  | none => (List.range 64).find? fun x => has x && (k.ctx.isNone || (k.mayLeave && k.mayStore))

/-- NOTASK_ENTRY: an idle core takes an attributed cause of a context with no task. -/
def W.notaskEntry (w : W) (c : Nat) : W :=
  if (w.core c).mode ≠ .idle ∨ (w.core c).halted then w
  else match w.notaskCtx c with
    | none => w
    | some x => w.reading (w.switchReads c x) fun w =>
      ((w.switchTo c x).modCore c fun k => { k with notask := true }).takePending c

def execNotaskEntry (c : Nat) (s : State) : Host.Outcome State Fault Refusal := go s ((W.of s).notaskEntry c)

/-! ### Timing errors (13 R303) -/

/-- TIMING_ERROR_REPLAY: the core's clock domain repeats the failing cycle; the clock cycles spent are held cycles that
`ctl.terr` alone counts. -/
def execTimingErrorReplay (c cycles : Nat) (s : State) : Host.Outcome State Fault Refusal :=
  go s ((W.of s).modCore c fun k =>
    { k with ctl := { k.ctl with terr := k.ctl.terr + word cycles }, pipe := { k.pipe with replay := k.pipe.replay + cycles } })

end Sys2Proof.Machine
end

