-- ==== Sys2Proof/Machine/Fabric.lean ====
section
/-!
DEFINITION. The fabric and the writes of registers (14 R316..R323; 00 R7; 13 R308; 09 R205): accesses of other packages,
links, the timestamp's rate, and stores to registers and records that have no row of their own.
-/

namespace Sys2Proof.Machine

/-! ### Links (R316, R317) -/

/-- FLIT_REPLAY: RETRY counts the replays of every link; the failed replays of one flit are counted. -/
def execFlitReplay (r : FlitReplay) (s : State) : Host.Outcome State Fault Refusal :=
  go s ((W.of s).modPkg fun p =>
    { p with retry := p.retry + 1, fails := Tab.put 0 p.fails r.link (if r.good then 0 else Tab.get 0 p.fails r.link + 1) })

/-- LINK_DOWN: UCIe link 0..11 leaves RINGUP after eight failed replays of one flit, Iluari link `link` − 12 leaves LINKUP;
flits are neither lost nor doubled, and routes turn (`State.hops`). -/
def execLinkDown (link : Nat) (s : State) : Host.Outcome State Fault Refusal :=
  go s ((W.of s).modPkg fun p =>
    if link < 12 then
      if 8 ≤ Tab.get 0 p.fails link then { p with ringUp := setBits p.ringUp link 1 0 } else p
    else { p with linkUp := setBits p.linkUp (link - 12) 1 0 })

/-! ### The timestamp (R323) -/

/-- TIMESTAMP_ALIGN: the rate is corrected by at most 100 ppm; TS itself never jumps. -/
def execTimestampAlign (ppm : Int) (s : State) : Host.Outcome State Fault Refusal :=
  go s ((W.of s).modPkg fun p => { p with ppm := clampInt (-100) 100 ppm })

/-! ### Accesses of other packages (R320, R322; 03 R89) -/

/-- The context whose block on a wing die holds a DCID in force. -/
def State.dcidCtx (s : State) (wing dcid : Nat) : Option Nat := (List.range 64).find? fun j => s.dcidValid wing j dcid

/-- `n` bytes of HBM from `a` lie in a range lent to a rank's slots, before its deadline. -/
def State.lentTo (s : State) (rank a n : Nat) : Bool :=
  s.pkg.lent.any fun (r, _, _, base, units, dl) =>
    decide (r = rank) && decide (base * 2 ^ 27 ≤ a) && decide (a + n ≤ (base + units) * 2 ^ 27) &&
      match dl with | some t => decide (s.ts < t) | none => true

/-- An access of another package's agent reaches its home, core `o` or the first of its die: at once, or after the agent's
earlier accesses to its bytes and once the tile is free (R319; 08 R190). -/
def W.fabricQueue (w : W) (o : Nat) (a : AtOp) : W :=
  (w.arriveAt o a).tryAt o (w.core o).ats.length fun _ => true
/-- Home `o`'s table has admitted the reduce copy of a core of another package. -/
def W.fabricAdmitted (w : W) (o rank core tag : Nat) : Bool := decide ((w.core o).slots.adm = some (farSource rank core, tag))

/-- The answer to an access of another package: kind 8 with its result, kind 9 with the cause of its refusal (R322). -/
def W.fabricAnswer (w : W) (x : FabricAccess) (kind v : Nat) (bytes : List Byte) : W :=
  w.modPkg fun p =>
    { p with outbox := p.outbox ++ [{ rank := x.rank, kind := kind, body := [x.dcid.zeroExtend 64, word x.agent, word v], bytes := bytes }] }
/-- A refusal: WINDOW_FAULT or HANDLE_FAULT; it changes nothing here. -/
def W.fabricRefuse (w : W) (x : FabricAccess) (b : Bad) : W :=
  w.fabricAnswer x 9 (match b with | .handle => 5 | .window => 6 | .engine => 9) []

/-- An access of context `ctx` to the atlas of this package, checked against its window table and allotments on the target
die. -/
def W.fabricAtlas (w : W) (ctx : Nat) (acc : FabricAccess) : W :=
  let a := acc.addr
  let mine (op : Nat) : AtOp :=
    { seq := 0, op := op, addr := word a, x := 0, m := 0, live := false, mute := true, ctx := ctx, src := 8192 * (acc.rank + 1) + acc.agent }
  let home : Option (Nat × Nat) := (w.atlasHere a 5).bind Loc.syncWord
  let check (d n : Nat) (need : Need) (l : Loc) : Option Bad :=
    if !(w.windowOk d ctx a n need) || (w.atlasHere a n).isNone then some .window
    else match l with
      | .vrf o off => if (bytesLines o off n).all fun q => w.allotted o ctx (q % 32768) then some .handle else some .window
      | l => w.locCheck 0 ctx false l .engine
  let at_ (l : Loc) : Nat := match l with | .acc o _ => o | _ => l.die * 128
  match w.atlasHere a 1 with
  | none => w.fabricRefuse acc .window
  | some l =>
    let d := l.die
    match acc.op with
    | .atomic id x y =>
      match w.atTarget d ctx false (word a), l.syncWord with
      | .ok (.here ..), some (o, _) =>
        if decide (0x282 ≤ id) && decide (id ≤ 0x28b) then
          w.arriveAt o { mine id with x := x, y := y }
        else w.fabricRefuse acc .engine
      | .error b, _ => w.fabricRefuse acc b
      | _, _ => w.fabricRefuse acc .engine
    | .read n =>
      match check d n { rd := true } l with
      | some b => w.fabricRefuse acc b
      | none => w.fabricQueue (at_ l) { mine 0x191 with x := word n }
    | .write l' =>
      match check d l'.length { wr := true } l with
      | some b => w.fabricRefuse acc b
      | none =>
        if !(writeAllowed l l'.length (!acc.copy) false) then w.fabricRefuse acc .window
        else w.fabricQueue (at_ l)
          { mine 0x192 with x := word l'.length, line := BitVec.ofNat 1024 (leNat l' * 2 ^ (8 * (a % 128))) }
    | .slotAsk core tag since =>
      match home with
      | some (o, _) =>
        if w.windowOk d ctx a 5 (copyNeed true) then
          w.modCore o fun k => { k with slotAsks := k.slotAsks ++ [{ ctx := ctx, rank := acc.rank, core := core, tag := tag, since := since }] }
        else w.fabricRefuse acc .window
      | none => w.fabricRefuse acc .engine
    | .slotAbort core tag =>
      match home with
      | some (o, _) => w.modCore o fun k =>
          { k with
            slotAsks := k.slotAsks.filter fun q =>
              !(decide (q.ctx = ctx) && decide (q.rank = acc.rank) && decide (q.core = core) && decide (q.tag = tag))
            slots := if k.ctx = some ctx ∧ k.slots.adm = some (farSource acc.rank core, tag) then { k.slots with adm := none } else k.slots }
      | none => w
    | .slotAdd core tag v last =>
      match home with
      | some (o, _) =>
        if w.windowOk d ctx a 5 (copyNeed true) && w.fabricAdmitted o acc.rank core tag then
          w.fabricQueue o { mine 0x843 with x := word v.toNat, y := word (b2n last) }
        else w.fabricRefuse acc .window
      | none => w.fabricRefuse acc .engine

/-- An access to this package's HBM: a request for each line (03 R72, R74). -/
def W.fabricHbm (w : W) (x : FabricAccess) : W :=
  let ask (n : Nat) (write : Bool) (cells : List (Nat × Byte)) : W :=
    (lineAddrs x.addr n).foldl (fun w a => w.hbmAsk
      { src := agentPort 3 (stackOf a), line := a / 128, write := write
        data := cells.filter fun e => decide (e.1 / 128 = a / 128), who := .far x }) w
  match x.op with
  | .write l => ask l.length true (((List.range l.length).zip l).map fun e => (x.addr + e.1, e.2))
  | .read n => ask n false []
  | _ => w.fabricAnswer x 9 9 []
/-- The bytes of `n` from `a` that lie in a line: the first and how many. -/
def lineCut (a n ln : Nat) : Nat × Nat :=
  let lo := Nat.max a (128 * ln)
  (lo, Nat.min (a + n) (128 * ln + 128) - lo)
/-- A line of such an access is admitted: only in a range lent to the rank, before its deadline (03 R89). An uncorrectable line
of a read is recorded and answered as SOFT_ERROR (03 R78); every line of a read has an answer of its own, which names the
place of its bytes. -/
def W.fabricPart (w : W) (x : FabricAccess) (q : HbmReq) (ev : Option ReadEvent) : W :=
  let n := match x.op with | .read n => n | .write l => l.length | _ => 0
  let cut := lineCut x.addr n q.line
  if !(w.lentTo x.rank cut.1 cut.2) then w.fabricAnswer x 9 7 []
  else if q.write then w.hbmPut q
  else
    let r := w.readRecord (stackOf cut.1) 3 0 cut.1 ev
    if r.1 then r.2.fabricAnswer x 8 (cut.1 - x.addr) (w.bytes cut.1 cut.2) else r.2.fabricAnswer x 9 10 []
/-- A line of a host's read is admitted and its bytes returned (14 R327): of an uncorrectable line free bytes (log 106). -/
def W.hostPart (w : W) (a n : Nat) (q : HbmReq) (ev : Option ReadEvent) : W :=
  let cut := lineCut a n q.line
  let src := w.agentSrc 7
  let r := src.2.readRecord (stackOf cut.1) src.1 0 cut.1 ev
  let v := r.2.freeLine
  let l := if r.1 then w.bytes cut.1 cut.2 else ((List.range cut.2).map fun i => v.1.extractLsb' (8 * i) 8)
  (if r.1 then (if ev.isSome then r.2 else w) else v.2).modPkg fun p =>
    { p with host := { p.host with reads := some l :: p.host.reads } }

/-- FABRIC_ACCESS_ARRIVE. -/
def W.fabricAccess (w : W) (x : FabricAccess) : W :=
  match w.dcidCtx x.wing x.dcid.toNat with
  | none => w.fabricRefuse x .window
  | some ctx => if x.hbm then w.fabricHbm x else w.fabricAtlas ctx x

def execFabricAccessArrive (x : FabricAccess) (s : State) : Host.Outcome State Fault Refusal := go s ((W.of s).fabricAccess x)

/-! ### The controllers' queues (03 R74, R75) -/

/-- HBM_ADMIT: a request enters its pseudo-channel's queue of 32, what the checks of a read report is `ev`. Requests are
performed in admission order: a write's bytes are what later-admitted reads return. -/
def W.hbmAdmit (w : W) (d pc : Nat) (ev : Option ReadEvent) : W :=
  let m := (w.die d).mc
  let qs := Tab.get [] m.queues pc
  match nextPort (Tab.get 0 m.port pc) (Tab.get [] m.waiting pc) with
  | none => w
  | some q =>
    if 32 ≤ qs.length then w
    else
      let w := w.modDie d fun x =>
        { x with mc := { x.mc with waiting := Tab.put [] x.mc.waiting pc ((Tab.get [] x.mc.waiting pc).erase q)
                                   queues := Tab.put [] x.mc.queues pc (qs ++ [{ q with age := w.ts }])
                                   port := Tab.put 0 x.mc.port pc q.src } }
      match q.who with
      | .far x => w.fabricPart x q ev
      | .host a n => if q.write then w.hbmPut q else w.hostPart a n q ev
      | .agent =>
        if q.write then w.hbmPut q
        else if q.src < agentPort 0 0 then w.readLine q.src q.line ev
        else w.giveTurn q ev

/-- The request that the controller completes next: one that has waited 600 ns, else a row hit, else the oldest. -/
def MemCtl.pick (m : MemCtl) (ts pc : Nat) : Option HbmReq :=
  let l := Tab.get [] m.queues pc
  match l with
  | [] => none
  | q :: _ =>
    if q.age + 600 ≤ ts then some q
    else some ((l.find? fun r => decide (Tab.get none m.openRow (bankKey (128 * r.line)) = some (rowOf (128 * r.line)))).getD q)

/-- HBM_COMPLETE: an admitted request completes; its bank keeps the row open. -/
def W.hbmComplete (w : W) (d pc : Nat) : W :=
  let m := (w.die d).mc
  match m.pick w.ts pc with
  | none => w
  | some q =>
    let bk := bankKey (128 * q.line)
    let w := w.modDie d fun x =>
      { x with mc := { x.mc with queues := Tab.put [] x.mc.queues pc ((Tab.get [] x.mc.queues pc).erase q)
                                 openRow := Tab.put none x.mc.openRow bk (some (rowOf (128 * q.line)))
                                 lastUse := Tab.put 0 x.mc.lastUse bk w.ctlCycle } }
    let c := q.src / 8
    let ch := q.src % 8
    if agentPort 0 0 ≤ q.src then w
    else if !q.write then w.modAct c ch fun x => { x with reads := x.reads - 1, land := w.clkOf (dieOf c) + 10 }
    else
      let w := w.modAct c ch fun x => { x with writes := x.writes - 1 }
      match ((w.core c).chan ch).act with
      | some x =>
        if x.writes = 0 ∧ x.ask.isEmpty ∧ !x.reading.isEmpty ∧ ((w.core c).chan ch).st = 2 then w.chunkDone c ch else w
      | none => w

def execHbmAdmit (d : Nat) (q : LineRead) (s : State) : Host.Outcome State Fault Refusal :=
  go s ((W.of s).hbmAdmit d q.n q.ev)
def execHbmComplete (d pc : Nat) (s : State) : Host.Outcome State Fault Refusal := go s ((W.of s).hbmComplete d pc)

/-! ### Register writes (00 R7; 14 R318, R327) -/

/-- A word written to the wing control registers by the stage manager: RANK and DSIZE (R318). -/
def Pkg.writeWing (p : Pkg) (off : Nat) (v : Word) : Pkg :=
  if off = 0 ∧ 1 ≤ bits v 15 11 ∧ bits v 15 11 ≤ 1024 then
    { p with rank := BitVec.ofNat 10 (bits v 0 10), dsize := BitVec.ofNat 11 (bits v 15 11) }
  else p

/-- A word of BAR0 as the host reads it (R327): reserved bits are zero. -/
def HostBlk.read (h : HostBlk) (off : Nat) : Word :=
  if 0x2000000 ≤ off then word (leNat ((List.range 8).map fun i => Tab.get 0 h.image (off - 0x2000000 + i)))
  else match off with
    | 0x00 => word (h.phase % 8 + h.err % 256 * 2 ^ 8)
    | 0x08 => word (h.isize.toNat % 2 ^ 25 + b2n h.go * 2 ^ 32)
    | 0x10 => word (bits h.wbase 30 9 * 2 ^ 30)
    | 0x18 => h.cmdbase
    | 0x20 => h.cplbase
    | 0x28 => word (h.tail.toNat + h.head.toNat * 2 ^ 16)
    | _ => 0

/-- A word written to BAR0 by the host (R327). -/
def HostBlk.write (h : HostBlk) (off : Nat) (v : Word) : HostBlk :=
  if 0x2000000 ≤ off then
    { h with image := Tab.puts 0 h.image ((List.range 8).map fun i =>
        (off - 0x2000000 + i, BitVec.ofNat 8 (bits v (8 * i) 8))) }
  else match off with
    | 0x08 =>
      let h := { h with isize := BitVec.ofNat 32 (bits v 0 25), go := bitAt v 32 }
      if bitAt v 32 then (if h.phase = 0 then { h with phase := 1 } else h)
      else if h.phase = 2 then { h with phase := 0, err := 0 } else h
    | 0x10 => { h with wbase := word (bits v 30 9 * 2 ^ 30) }
    | 0x18 => { h with cmdbase := v }
    | 0x20 => { h with cplbase := v }
    | _ => h

/-- The address above the atlas at which the model names BAR0, and the one of the register of lease notice (03 R89). -/
def bar0Base : Nat := 2 ^ 48
def leaseNoticeReg : Nat := 2 ^ 48 + 2 ^ 26

/-- The address at which the model names an upset of the silicon (log 109): line or, from 32,768 on, accumulator word `n` of
core `c` becomes uncorrectable at upsetBase + c * 2^20 + n. -/
def upsetBase : Nat := 2 ^ 49
/-- The upset. -/
def W.upset (w : W) (x : Nat) : W :=
  let n := x % 2 ^ 20
  w.modCore (x / 2 ^ 20 % 1024) fun k =>
    if n < 32768 then { k with soft := n :: k.soft }
    else if n < 32768 + 65536 then { k with softAcc := (n - 32768) :: k.softAcc }
    else k

/-- An aligned word written to a register by an agent that may write it. DESIGN CHOICE (log 106): a write of 0 to the lease notice
is ignored (03 R89). -/
def W.registerWrite (w : W) (a : Nat) (v : Word) : W :=
  if upsetBase ≤ a then w.upset (a - upsetBase)
  else if a / 8 * 8 = leaseNoticeReg then
    if bits v 0 16 = 0 then w else w.modPkg fun p => { p with leaseN := BitVec.ofNat 16 (bits v 0 16) }
  else if bar0Base ≤ a then w.modPkg fun p => { p with host := p.host.write (a / 8 * 8 - bar0Base) v }
  else match w.atlasHere (a / 8 * 8) 8 with
    | some (.wing off) => w.modPkg fun p => p.writeWing off v
    | some l => (w.regWrite l v).cctlWritten (a / 8 * 8) 8
    | none => w

def execRegisterWrite (a : Nat) (v : BitVec 64) (s : State) : Host.Outcome State Fault Refusal :=
  go s ((W.of s).registerWrite a v)
def execContextControlWrite (d ctx off : Nat) (v : BitVec 64) (s : State) : Host.Outcome State Fault Refusal :=
  go s ((W.of s).writeCctl d ctx (off / 8 * 8) v)
def execTileOwnerWrite (d idx : Nat) (v : BitVec 64) (s : State) : Host.Outcome State Fault Refusal :=
  go s ((W.of s).writeOwner d idx v)
def execFabricContextWrite (g ctx off : Nat) (v : BitVec 64) (s : State) : Host.Outcome State Fault Refusal :=
  go s ((W.of s).writeFab g ctx (off / 8 * 8) v)

end Sys2Proof.Machine
end

