-- ==== Sys2Proof/Machine/HostCmd.lean ====
section
/-!
DEFINITION. The host's commands, contexts opened and closed, firmware and bring-up, attestation (14 R327..R332; 17
R359..R361; 09 R205).
-/

namespace Sys2Proof.Machine

/-! ### The command ring (R327) -/

/-- The host block changed. -/
def W.modHost (w : W) (f : HostBlk → HostBlk) : W := w.modPkg fun p => { p with host := f p.host }

/-- CMD_DOORBELL: CMDTAIL is written, and the commands up to it are read from the ring. -/
def W.doorbell (w : W) (tail : BitVec 12) (cmds : List (BitVec 512)) : W :=
  let h := w.pkg.host
  if cmds.length = (tail - h.tail).toNat then w.modHost fun h => { h with tail := tail, ring := h.ring ++ cmds } else w

def execCmdDoorbell (tail : BitVec 12) (cmds : List (BitVec 512)) (s : State) : Host.Outcome State Fault Refusal :=
  go s ((W.of s).doorbell tail cmds)

/-- A request of the host waits for a controller. -/
def State.hostAsks (s : State) : Bool :=
  s.dies.any fun e => e.2.mc.waiting.any fun p => p.2.any fun q => decide (q.src = agentPort 7 0)
/-- The oldest BAR2 request goes to its controller once those before it are admitted: they are performed in order (R327). -/
def W.postHost (w : W) : W :=
  match w.pkg.host.posted with
  | [] => w
  | q :: l => if w.hostAsks then w else (w.modHost fun h => { h with posted := l }).hbmAsk q

/-- `cmd` is the command that is taken next, with opcode `opc`: the part is READY, and the BAR2 accesses received before it are
performed (R327). -/
def State.takes (s : State) (cmd : BitVec 512) (opc : Nat → Bool) : Bool :=
  decide (s.pkg.host.phase = 4) && decide (s.pkg.host.ring.head? = some cmd) && opc (bits cmd 0 8) &&
    s.pkg.host.posted.isEmpty && !s.hostAsks

/-- A command is over: its completion and its message, CMDHEAD moves on. -/
def W.complete (w : W) (cmd : BitVec 512) (status : Nat) (value : Word) : W :=
  let tag := bits cmd 16 16
  w.modHost fun h =>
    { h with
      ring := h.ring.tail, head := h.head + 1
      cpl := (h.head.toNat, BitVec.ofNat 128 (tag + status % 2 ^ 16 * 2 ^ 16 + value.toNat * 2 ^ 64)) :: h.cpl
      msix := tag % 2048 :: h.msix }

/-- A command whose operands name nothing: the spec states no status; it is a free value. -/
def W.completeOpen (w : W) (cmd : BitVec 512) : W :=
  let r := w.freeWord
  r.2.complete cmd (bits r.1 0 16) 0

/-- HOST_LAUNCH: the stage manager, which may grant both flags, writes the launch port. -/
def W.hostLaunch (w : W) (cmd : BitVec 512) : W :=
  let d := bits cmd 64 8
  let ctx := bits cmd 72 8
  if !(w.takes cmd (· == 1)) then w
  else if 8 ≤ d ∨ 64 ≤ ctx then w.completeOpen cmd
  else
    let x : LaunchReq := { ctx := ctx, req := cmd.extractLsb' 128 256, priv := true, tier := true }
    (w.modBoard d fun b => { b with ports := b.ports ++ [x] }).complete cmd 0 0

/-- A sync word in this package or another one, by an address in the layout of R251; the host has no window table. -/
def State.hostWord (s : State) (v : Word) : Option ((Nat × Nat) ⊕ Nat) :=
  let rank := bits v 48 10
  if bits v 59 5 ≠ 0 ∨ (!bitAt v 58 ∧ rank ≠ 0) ∨ (bitAt v 58 ∧ s.pkg.dsize.toNat ≤ rank) then none
  else if bitAt v 58 ∧ rank ≠ s.pkg.rank.toNat then
    ((atlasSpan (bits v 0 48) 5).bind Loc.syncWord).map fun _ => .inr rank
  else ((s.atlasHere (bits v 0 48) 5).bind Loc.syncWord).map .inl

/-- SIGNAL: an AST with release at system scope; a tile that its matrix unit holds, or a debug halt of its core, makes it wait. -/
def W.hostSignal (w : W) (cmd : BitVec 512) : W :=
  let v := word (bits cmd 64 64)
  let x := word (bits cmd 128 32)
  if !(w.takes cmd (· == 2)) then w
  else match w.hostWord v with
    | none => w.completeOpen cmd
    | some (.inr rank) => (w.send 0 rank 1 [word 0x283, word (bits v 0 48), x, 0, word 15] []).complete cmd 0 0
    | some (.inl (o, i)) =>
      if (w.core o).tileHeld (i / 4096) || (w.core o).halted then w else (w.atWord o i 0x283 x 0).2.wake.complete cmd 0 0

/-- READSYNC: an ALD with acquire at system scope; a word of another package is a free value. -/
def W.hostRead (w : W) (cmd : BitVec 512) : W :=
  let v := word (bits cmd 64 64)
  if !(w.takes cmd (· == 3)) then w
  else match w.hostWord v with
    | none => w.completeOpen cmd
    | some (.inr rank) =>
      let r := (w.send 0 rank 1 [word 0x282, word (bits v 0 48), 0, 0, word 15] []).freeWord
      r.2.complete cmd 0 (sext32 (r.1.truncate 32))
    | some (.inl (o, i)) =>
      if (w.core o).tileHeld (i / 4096) || (w.core o).halted then w else w.complete cmd 0 (w.atWord o i 0x282 0 0).1

/-- UNKNOWN_HOST_COMMAND: status 1. -/
def W.hostUnknown (w : W) (cmd : BitVec 512) : W :=
  if w.takes cmd (fun o => o == 0 || decide (6 < o)) then w.complete cmd 1 0 else w

def execHostLaunch (cmd : BitVec 512) (s : State) : Host.Outcome State Fault Refusal := go s ((W.of s).hostLaunch cmd)
def execSignal (cmd : BitVec 512) (s : State) : Host.Outcome State Fault Refusal := go s ((W.of s).hostSignal cmd)
def execReadsync (cmd : BitVec 512) (s : State) : Host.Outcome State Fault Refusal := go s ((W.of s).hostRead cmd)
def execUnknownHostCommand (cmd : BitVec 512) (s : State) : Host.Outcome State Fault Refusal := go s ((W.of s).hostUnknown cmd)

/-- BAR2_ACCESS: HBM at WBASE + offset, in READY: a request for each line, which completes a read with its bytes; every other
access completes as Unsupported Request. -/
def W.bar2 (w : W) (write : Bool) (off : Nat) (data : List Byte) : W :=
  let a := w.pkg.host.wbase.toNat + off
  let n := data.length
  let cells := ((List.range n).zip data).map fun e => (a + e.1, e.2)
  let req (b : Nat) : HbmReq :=
    { src := agentPort 7 0, line := b / 128, write := write, who := .host a n
      data := if write then cells.filter fun e => decide (e.1 / 128 = b / 128) else [] }
  if w.pkg.host.phase ≠ 4 ∨ 2 ^ 36 < off + n ∨ Config.hbmBytes < a + n then w.modHost fun h => { h with reads := none :: h.reads }
  else w.modHost fun h => { h with posted := h.posted ++ (lineAddrs a n).map req }

def execBar2Access (write : Bool) (off : Nat) (data : List (BitVec 8)) (s : State) : Host.Outcome State Fault Refusal :=
  go s ((W.of s).bar2 write off data)

/-! ### OPEN (R328) -/

/-- Entries of a context plan: atlas address and value. -/
def W.planEntries (w : W) (plan n : Nat) : List (Nat × Word) :=
  (List.range n).map fun e => (w.hbmNat (plan + 128 + 16 * e) 8, word (w.hbmNat (plan + 136 + 16 * e) 8))

/-- The owner entry of core `c` may take the value: every pair keeps its owner, or is cleared, unowned, fit for use and
goes to `ctx` (R205, R361). -/
def State.ownerOk (s : State) (c ctx : Nat) (v : Word) : Bool :=
  let old := Tab.get 0 (s.die (dieOf c)).owner (onDie c)
  (List.range 8).all fun k =>
    let n := bits v (8 * k) 8
    let o := bits old (8 * k) 8
    let p : Pair := Tab.get {} (s.core c).pairs k
    decide (n = o) || (decide (n < 128) && decide (o < 128)) ||
      (decide (o < 128) && decide (n = 128 + ctx) && p.cleared && !p.bad)

/-- An entry of a plan for context `ctx` on the dies of a mask (R328). -/
def State.planOk (s : State) (ctx mask : Nat) (e : Nat × Word) : Bool :=
  if e.1 % 8 ≠ 0 then false
  else match atlasLoc e.1 with
    | some (.desc d off) => mask.testBit d && decide (off / 2048 = ctx) && decide (off % 2048 ≤ 0x600)
    | some (.cctl d off) => mask.testBit d && decide (off / 64 = ctx) && decide (off % 64 < 48)
    | some (.tier d off) => mask.testBit d && decide (off / 32 = ctx)
    | some (.board d off) => mask.testBit d && decide (off = 0x20 + 8 * ctx)
    | some (.owner d off) => mask.testBit d && s.ownerOk (d * 128 + off / 8) ctx e.2
    | _ => false

/-- Two id ranges meet. -/
def rangesMeet (b1 n1 b2 n2 : Nat) : Bool := decide (b1 < b2 + n2) && decide (b2 < b1 + n1)
/-- A context is open on a die. -/
def State.isOpen (s : State) (d ctx : Nat) : Bool := s.pkg.opens.contains (d * 64 + ctx)
/-- The legend and survey ranges of a context on a die overlap no other open context's. -/
def State.rangesFree (s : State) (d ctx : Nat) : Bool :=
  let r (x : Nat) : Word := Tab.get 0 (s.die d).ranges x
  (List.range 64).all fun x => decide (x = ctx) || !(s.isOpen d x) ||
    !(rangesMeet (bits (r ctx) 0 12) (bits (r ctx) 12 13) (bits (r x) 0 12) (bits (r x) 12 13) ||
      rangesMeet (bits (r ctx) 32 12) (bits (r ctx) 44 13) (bits (r x) 32 12) (bits (r x) 44 13))

/-- Bytes `lo`..`hi` of a window that meet the region from `base` of `size` bytes lie in `first`..`last`. -/
def meetsWithin (lo hi base size first last : Nat) : Bool :=
  decide (Nat.min hi (base + size) ≤ Nat.max lo base) ||
    (decide (first ≤ Nat.max lo base) && decide (Nat.min hi (base + size) ≤ last))
/-- A window entry covers legends and surveys of each die only inside the context's ranges there (05 R121). -/
def State.windowFits (s : State) (ctx : Nat) (e : BitVec 128) : Bool :=
  let lo := bits e 0 48
  let hi := lo + (bits e 64 24 + 1) * 128
  !(bitAt e 95) || (List.range 8).all fun d =>
    let r : Word := Tab.get 0 (s.die d).ranges ctx
    let base := 2 ^ 45 + d * 2 ^ 42
    meetsWithin lo hi base 0x10000 (base + 16 * bits r 0 12) (base + 16 * (bits r 0 12 + bits r 12 13)) &&
      meetsWithin lo hi (base + 0x100000) 0x40000 (base + 0x100000 + 64 * bits r 32 12)
        (base + 0x100000 + 64 * (bits r 32 12 + bits r 44 13))
/-- Every window entry of a context on a die does. DESIGN CHOICE (log 108): a plan that would grant another entry completes
with status 2. -/
def State.windowsFit (s : State) (d ctx : Nat) : Bool :=
  (List.range 64).all fun i => s.windowFits ctx (Tab.get 0 (s.die d).windows (ctx * 64 + i))

/-- The dies of a mask. -/
def maskDies (mask : Nat) : List Nat := (List.range 8).filter fun d => mask.testBit d

/-- A line becomes zero and present, without claims (05 R124). -/
def Core.clearLine (k : Core) (ln : Nat) : Core :=
  { k with vrf := Tab.put 0 k.vrf ln 0, absent := Tab.put false k.absent ln false, claims := Tab.put 0 k.claims ln 0
           soft := k.soft.filter (· ≠ ln) }

/-- Step 3 of OPEN on a die: lines, accumulators, surveys, bindings, tokens, stack and leases, time-slot tables. A core
without a resident context takes the opened one (log 60). -/
def W.openDie (w : W) (d ctx : Nat) : W :=
  let w := ((List.range 128).map (d * 128 + ·)).foldl (fun w c =>
    let a := w.allotment c ctx
    if a.2 = 0 ∨ !(w.coreEnabled c) then w
    else
      let w := w.modCore c fun k => (List.range a.2).foldl (fun k i => k.clearLine (a.1 + i)) k
      w.modCore c fun k =>
        if k.ctx = none then
          { k with ctx := some ctx, accw := [], slots := {}, bufs := [], cp := {}
                   regs := { k.regs with op := [], res := [] }
                   eng := { k.eng with streams := [] } }
        else k) w
  let r := Tab.get 0 (w.die d).ranges ctx
  let w := (List.range (bits r 44 13)).foldl (fun w i => (w.svReset d (bits r 32 12 + i) 0).2) w
  let tk := (Tab.get 0 (w.die d).board.tkbase ctx).toNat
  let w := if tk = 0 then w else w.hbmZero (agentPort 5 d) tk 262144
  w.modDie d fun x =>
    { x with
      bind := x.bind.filter fun b => decide (b.ctx ≠ ctx)
      tier := x.tier.erase ctx
      away := x.away.filter fun e => decide (e.1 / 128 ≠ ctx)
      board := { x.board with tokens := x.board.tokens.filter fun e => decide (e.1 / 65536 ≠ ctx) } }

/-- OPEN, its plan read. DESIGN CHOICE (log 106): the status of a plan with an uncorrectable line is a free value. -/
def W.openPlan (w : W) (cmd : BitVec 512) : W :=
  let ctx := bits cmd 64 8
  let mask := bits cmd 72 8
  let plan := bits cmd 128 64
  let n := w.hbmNat plan 4
  if w.badLine plan ∨ (lineAddrs (plan + 128) (16 * n)).any w.badLine then w.completeOpen cmd
  else
    let shape := decide (ctx < 64) && decide (plan % 128 = 0) && decide (1 ≤ n) && decide (n ≤ 65536) &&
      decide (plan + 128 + 16 * n ≤ Config.hbmBytes) && decide (w.hbmNat (plan + 6) 1 < 2) &&
      decide (w.hbmNat (plan + 7) 121 = 0)
    let es := if shape then w.planEntries plan n else []
    let fine := shape && (maskDies mask).all (fun d => !(w.isOpen d ctx)) && es.all (w.planOk ctx mask)
    let w' := es.foldl (fun w e => w.registerWrite e.1 e.2) w
    if !fine || !((maskDies mask).all fun d => w'.rangesFree d ctx && w'.windowsFit d ctx) then w.complete cmd 2 0
    else
      let dc := word (w.hbmNat (plan + 4) 2 + w.hbmNat (plan + 6) 1 % 2 * 2 ^ 16)
      let w := (w'.writeFab 0 ctx 0 dc).writeFab 1 ctx 0 dc
      let w := (maskDies mask).foldl (fun w d => w.openDie d ctx) w
      (w.modPkg fun p => { p with opens := p.opens ++ (maskDies mask).map (· * 64 + ctx) }).complete cmd 0 0

/-- The reads of a context plan: its header, then its entries. -/
def W.planReads (w : W) (plan : Nat) : List AgentRead :=
  let port := agentPort 5 0
  if Config.hbmBytes < plan + 128 ∨ plan % 128 ≠ 0 then []
  else
    let head := readsOf port plan 128
    let n := w.hbmNat plan 4
    if !(w.admitted head) ∨ 65536 < n ∨ Config.hbmBytes < plan + 128 + 16 * n then head else head ++ readsOf port (plan + 128) (16 * n)
/-- OPEN, once the plan has been read. -/
def W.hostOpen (w : W) (cmd : BitVec 512) : W :=
  if !(w.takes cmd (· == 5)) then w else w.reading (w.planReads (bits cmd 128 64)) fun w => w.openPlan cmd

def execOpenCtx (cmd : BitVec 512) (s : State) : Host.Outcome State Fault Refusal := go s ((W.of s).hostOpen cmd)

/-! ### CLOSE (R328; 04 R106; 09 R205; 03 R87) -/

/-- Claims that the channels of a context's saved layer hold are withdrawn. -/
def W.abortAway (w : W) (k : Core) : W :=
  k.cp.ch.foldl (fun w e =>
    let x := e.2
    w.dropClaims ((x.act.toList.map fun y => y.claims.map (·.1)).flatten ++
      ((x.queue ++ x.dropped).map fun y => y.claims.map (·.1)).flatten)) w

/-- The task of a context on a core stops at a bundle boundary and is discarded: the bundles issued take effect, what only waits
is withdrawn, the channels abort (steps 2 and 3). Commands, operations and requests that the core has sent go on. -/
def W.closeStop (w : W) (c ctx : Nat) : W :=
  if (w.core c).ctx = some ctx then
    let w := ((((w.completeItems c fun _ => true).drainAll c).settlePops c).stopCore c).unprompt c
    let w := (List.range 8).foldl (fun w ch => (w.chanAbort c ch).modChan c ch fun q => { q with pend := [] }) w
    w.modCore c fun k =>
      { k with
        mode := .idle, halted := false, bkpt := false, stepArm := false, chanHalt := false, notask := false
        running := none, seq := {}, shadow := {}, relFence := none
        pipe := { k.pipe with items := [], pre := 0, held := 0, causes := [], attr := [] }
        eng := { k.eng with streams := [] }
        ats := (k.ats.filter fun a => a.mute || decide (a.op ≠ 0x28b)).map fun a => { a with live := false }
        ctl := { k.ctl with prompt := none, noslot := false } }
  else match Tab.get none (w.die (dieOf c)).away (ctx * 128 + onDie c) with
    | some k =>
      (w.abortAway k).modLayer c ctx fun k => { k with cp := {}, pipe := { k.pipe with causes := [], attr := [] } }
    | none => w

/-- Every pair that a context owns on a core is cleared and released. -/
def W.releasePairs (w : W) (c ctx : Nat) : W :=
  (List.range 8).foldl (fun w k =>
    if w.ownsPair c ctx k then
      let w := w.modCore c fun x =>
        { (x.setPair k (x.pair k).clear) with
          stopped := x.stopped.filter fun e => decide (e.1.pair ≠ k)
          eng := { x.eng with xb := x.eng.xb.filter fun o => decide (o.pair ≠ k) } }
      w.modDie (dieOf c) fun x =>
        { x with owner := Tab.put 0 x.owner (onDie c) (setBits (Tab.get 0 x.owner (onDie c)) (8 * k) 8 0) }
    else w) w

/-- What a closed context leaves on one core goes. -/
def W.closeCore (w : W) (c ctx : Nat) : W :=
  let w := if (w.core c).ctx = some ctx then
      (w.settlePops c).modCore c fun k =>
        { k with
          ctx := none, regs := { k.regs with op := [], res := [] }, accw := [], slots := {}, bufs := [], cp := {}, tier := []
          slotAsks := k.slotAsks.filter fun a => decide (a.ctx ≠ ctx)
          pipe := { k.pipe with causes := [], attr := [] } }
    else w
  w.releasePairs c ctx

/-- CLOSE begins on a die: launch requests are refused, tasks stop, records are freed, channels abort (steps 1 to 3). -/
def W.closeBegin (w : W) (d ctx : Nat) : W :=
  let w := ((List.range 128).map (d * 128 + ·)).foldl (fun w c => w.closeStop c ctx) (w.resumeCtx d ctx false)
  let keep (k : Nat) : Bool := decide (k ≠ ctx)
  let w := w.modDie d fun x =>
    { x with
      dbg := { x.dbg with drain := setBits x.dbg.drain ctx 1 0 }
      saves := x.saves.filter fun e => keep (e.1 / 65536)
      board := { x.board with
        recs := x.board.recs.filter fun e => keep e.2.ctx
        ports := x.board.ports.filter fun e => keep e.ctx
        notices := x.board.notices.filter fun e => keep e.ctx
        waits := x.board.waits.filter fun e => keep e.ctx } }
  let w := (w.die d).board.launches.foldl (fun w e => if e.2.ctx = ctx then w.modLaunch d e.1 fun l => { l with todo := 0 } else w) w
  w.modPkg fun p => { p with closing := p.closing ++ [d * 64 + ctx] }

/-- An operation that a closing context's task or engine on die `d` has sent, pending at core `c`. -/
def AtOp.closes (a : AtOp) (c d ctx : Nat) : Bool :=
  decide (a.ctx = ctx) && (if a.mute then decide (a.src < 8192) && decide (dieOf a.src = d) else decide (dieOf c = d))
/-- It waits for a store of the closing context that has left its core: nothing will bring that back. -/
def State.lostAt (s : State) (a : AtOp) : Bool :=
  let away (o : Nat) : Bool := s.isClosing (dieOf o) a.ctx && ((s.core o).ctx.any fun x => decide (x ≠ a.ctx))
  match s.atSpan a with
  | none => false
  | some (b, n) =>
    match s.target a.ctx b n with
    | some (.here _ (.acc o _)) | some (.here _ (.aperture o _)) => away o
    | _ => false
/-- Such operations are discarded, and an accepted push whose next source line nothing will make present, with its entry.
DESIGN CHOICE (log 117): the spec does not say how CLOSE ends what can no longer complete. -/
def W.closeLost (w : W) (d ctx : Nat) : W :=
  let w := w.cores.foldl (fun w e =>
    if e.2.ats.any fun a => a.closes e.1 d ctx then
      let lost (a : AtOp) : Bool := a.closes e.1 d ctx && w.lostAt a
      w.modCore e.1 fun k => { k with ats := k.ats.filter fun a => !(lost a) }
    else w) w
  let stuck (j : TierJob) : Bool :=
    let ln := bits j.o 0 15 + j.n
    decide (j.op = 0x901) && !(bitAt j.m 0) && !((w.core j.core).present ln) && decide (Tab.get 0 (w.core j.core).claims ln = 0)
  ((w.stack d ctx).jobs.filter stuck).foldl (fun w j => w.pushFails d ctx j { code := 10 }) w

/-- Nothing of the context remains in flight on a die. -/
def State.closeOver (s : State) (d ctx : Nat) : Bool :=
  let b := (s.die d).board
  (((List.range 128).map (d * 128 + ·)).all fun c =>
    let k := s.core c
    decide (k.ctx ≠ some ctx) || (k.cbuf.isEmpty && k.cp.ch.all fun e => decide (e.2.st = 0))) &&
    (s.stack d ctx).jobs.isEmpty && !(s.askedHbm (agentPort 0 d) (s.sbase d ctx) (s.ssize d ctx)) &&
    !(b.intok.any fun t => decide (t.ctx = ctx)) && !(b.arrivals.any fun a => decide (a.ctx = ctx)) &&
    !(s.cores.any fun e => e.2.ats.any fun a => a.closes e.1 d ctx)

/-- CLOSE ends on a die: the stack goes, leases are returned, pairs are cleared and released, the context's blocks are reset
(steps 3 to 5). -/
def W.closeDie (w : W) (d ctx : Nat) : W :=
  let w := ((List.range 16).filter fun i => [2, 4, 6].contains ((w.stack d ctx).lease i).st).foldl (fun w i =>
    let l := (w.stack d ctx).lease i
    w.leaseMsg ctx l.lender [1, d, i, l.units, l.base]) w
  let w := (((List.range 128).map (d * 128 + ·)).foldl (fun w c => w.closeCore c ctx) w).flushDie d
  let gone := ((w.die d).board.launches.filter fun e => decide (e.2.ctx = ctx)).map (·.1)
  let forget (k : Core) : Core :=
    { k with lastLaunch := k.lastLaunch.filter fun i => !(gone.contains i), tally := k.tally.filter fun e => !(gone.contains e.1) }
  let w : W := { w with cores := w.cores.map fun e => if dieOf e.1 = d then (e.1, forget e.2) else e }
  let keep (k : Nat) : Bool := decide (k ≠ ctx)
  let w := w.modDie d fun x =>
    { x with
      windows := x.windows.filter fun e => keep (e.1 / 64)
      allot := x.allot.filter fun e => keep (e.1 / 128)
      ranges := x.ranges.erase ctx
      bind := x.bind.filter fun b => decide (b.ctx ≠ ctx)
      cctl := x.cctl.erase ctx, handler := x.handler.erase ctx
      saves := x.saves.filter fun e => keep (e.1 / 65536)
      away := x.away.filter fun e => keep (e.1 / 128)
      gaz := x.gaz.filter fun e => keep e.1
      tier := x.tier.erase ctx, tierBlk := x.tierBlk.erase ctx
      dbg := { x.dbg with halted := setBits x.dbg.halted ctx 1 0, stop := setBits x.dbg.stop ctx 1 0 }
      board := { x.board with
        recs := x.board.recs.filter fun e => keep e.2.ctx
        launches := x.board.launches.filter fun e => keep e.2.ctx
        ports := x.board.ports.filter fun e => keep e.ctx
        tkbase := x.board.tkbase.erase ctx
        notices := x.board.notices.filter fun e => keep e.ctx
        waits := x.board.waits.filter fun e => keep e.ctx } }
  w.modPkg fun p =>
    let left := p.closing.filter fun e => decide (e ≠ d * 64 + ctx)
    { p with opens := p.opens.filter fun e => decide (e ≠ d * 64 + ctx), closing := left
             fab := if left.any fun e => decide (e % 64 = ctx) then p.fab else (p.fab.erase ctx).erase (64 + ctx) }

/-- Every closing context ends on the dies where nothing of it remains in flight. -/
def W.closeAll (w : W) : W :=
  w.pkg.closing.foldl (fun w e =>
    let w := w.closeLost (e / 64) (e % 64)
    if w.closeOver (e / 64) (e % 64) then w.closeDie (e / 64) (e % 64) else w) w

/-- CLOSE: begun once, it completes when nothing of the context remains in flight (step 6). -/
def W.hostClose (w : W) (cmd : BitVec 512) : W :=
  let ctx := bits cmd 64 8
  if !(w.takes cmd (· == 6)) then w
  else if 64 ≤ ctx then w.completeOpen cmd
  else
    let w := if w.pkg.host.begun then w
      else ((maskDies (bits cmd 72 8)).foldl (fun w d => w.closeBegin d ctx) w).modHost fun h => { h with begun := true }
    let w := w.closeAll
    if w.pkg.closing.isEmpty then (w.modHost fun h => { h with begun := false }).complete cmd 0 0 else w

def execCloseCtx (cmd : BitVec 512) (s : State) : Host.Outcome State Fault Refusal := go s ((W.of s).hostClose cmd)

/-- FUNCTION_LEVEL_RESET: every context is closed; the firmware runs on. -/
def execFunctionLevelReset (s : State) : Host.Outcome State Fault Refusal :=
  go s ((s.pkg.opens.filter fun e => !(s.pkg.closing.contains e)).foldl (fun w e => w.closeBegin (e / 64) (e % 64)) (W.of s)).closeAll

/-! ### Firmware (R329, R330) -/

/-- POWER_UP: the part as it is after power-up, with the clusters that its form lacks; what the model itself keeps to choose steps and free values stays. -/
def execPowerUp (s : State) : Host.Outcome State Fault Refusal :=
  .next { State.reset with agenda := s.agenda, free := s.free, pkg := { off := s.pkg.off } }

/-- IMAGE_GO: GO = 1 in WAIT_IMAGE starts verification. -/
def execImageGo (s : State) : Host.Outcome State Fault Refusal :=
  go s ((W.of s).modHost fun h => if h.phase = 0 then { h with phase := 1, go := true } else { h with go := true })

/-- Bytes of the boot image buffer. -/
def HostBlk.bytes (h : HostBlk) (a n : Nat) : List Byte := (List.range n).map fun i => Tab.get 0 h.image (a + i)
/-- The digest D: SHA3-256 of the image with zeros in its signature field. -/
def HostBlk.imageDigest (h : HostBlk) : BitVec 256 :=
  Config.sha3 (h.bytes 0 0x530 ++ List.replicate 2420 0 ++ h.bytes 0xEA4 (h.isize.toNat - 0xEA4))
/-- A 256-bit digest as its 32 bytes; which byte comes first is opaque with the digest itself (log 9). -/
def digestBytes (x : BitVec 256) : List Byte := toBytes 32 x.toNat

/-- The first check that fails, in R330's order. -/
def HostBlk.imageError (h : HostBlk) : Option Nat :=
  let n := h.isize.toNat
  let key := h.bytes 0x10 1312
  let hash := Config.sha3 key
  if leNat (h.bytes 0 4) ≠ 0x46574B46 ∨ n ≠ 4096 + leNat (h.bytes 8 4) ∨ 2 ^ 25 < n ∨ leNat (h.bytes 0xC 4) ≠ 0 ∨
      leNat (h.bytes 0xEA4 348) ≠ 0 then some 1
  else if !((List.range 4).any fun i => decide (Config.fuseKeyHash i = hash) && !bitAt Config.fuseRevoke i) then some 2
  else if leNat (h.bytes 4 4) < Config.fuseMinSvn.toNat then some 3
  else if !(Config.mldsaVerify key (digestBytes h.imageDigest) (h.bytes 0x530 2420)) then some 4
  else none

/-- IMAGE_VERIFY_DONE: REFUSED, which clears the buffer, or STARTING. -/
def HostBlk.verified (h : HostBlk) : HostBlk :=
  match h.imageError with
  | some e => { h with phase := 2, err := e, image := [] }
  | none => { h with phase := 3, err := 0, digest := h.imageDigest, svn := BitVec.ofNat 32 (leNat (h.bytes 4 4)) }

def execImageVerifyDone (s : State) : Host.Outcome State Fault Refusal :=
  go s ((W.of s).modHost fun h => if h.phase = 1 then h.verified else h)

/-! ### Bring-up (17 R359..R361) -/

/-- The ring stays connected: at most one of its links is down, and each wing die reaches it. -/
def ringConnected (r : BitVec 12) : Bool :=
  decide (((List.range 8).filter fun i => !(bitAt r i)).length ≤ 1) && (bitAt r 8 || bitAt r 9) && (bitAt r 10 || bitAt r 11)

/-- The identity record of a die after step 3. -/
def State.idRecord (s : State) (d : Nat) : BitVec 512 :=
  BitVec.ofNat 512 ((Config.fuseSerial d).toNat + d % 8 * 2 ^ 64 +
    (List.range 8).foldl (fun a q => a + b2n (s.clusterEnabled d q) * 2 ^ (72 + q)) 0)

/-- Symmetry registers of a calibration. -/
def symTab (l : List Byte) : Tab Int :=
  ((List.range l.length).zip l).foldl (fun t e => Tab.put 0 t e.1 (sext 8 e.2.toNat)) []

/-- A pair after calibration. -/
def Pair.calibrated (row col : List Byte) (bad : Bool) : Pair :=
  Pair.clear { calRow := symTab row, calCol := symTab col, bad := bad }

/-- Every tile pair that no context owns is calibrated (R361); one that the report does not name needs no symmetry correction. -/
def W.calibratePairs (w : W) (r : BringUpReport) : W :=
  let owned (c k : Nat) : Bool := bitAt (Tab.get 0 (w.die (dieOf c)).owner (onDie c)) (8 * k + 7)
  let w : W := { w with cores := w.cores.map fun e => (e.1, { e.2 with pairs := e.2.pairs.filter fun p => owned e.1 p.1 }) }
  let w := (r.sym.filter fun e => !(owned (e.1 / 8) (e.1 % 8))).foldl (fun (w : W) (e : Nat × List Byte × List Byte) =>
    w.modCore (e.1 / 8) fun k => k.setPair (e.1 % 8) (Pair.calibrated e.2.1 e.2.2 false)) w
  (r.bad.filter fun i => !(owned (i / 8) (i % 8))).foldl (fun w i =>
    w.modCore (i / 8) fun k => k.setPair (i % 8) { k.pair (i % 8) with bad := true }) w
/-- Step 4: calibration, and CALVER, CALTS, which is TS at its end, and PBAD of each die. -/
def W.calibrate (w : W) (r : BringUpReport) : W :=
  let w := w.calibratePairs r
  (List.range 8).foldl (fun w d =>
    let n := ((w.cores.filter fun e => decide (dieOf e.1 = d)).map fun e => (e.2.pairs.filter fun p => p.2.bad).length).foldl (· + ·) 0
    w.modDie d fun x =>
      { x with dbg := { x.dbg with idrec := setBits (setBits (setBits x.dbg.idrec 80 16 r.calver.toNat) 96 64 w.ts) 160 16 n } }) w

/-- The steps of bring-up in order; the first failure gives FAILED with its number. -/
def W.bringUp (w : W) (r : BringUpReport) : W :=
  let fail (w : W) (e : Nat) : W := w.modHost fun h => { h with phase := 5, err := e }
  let w1 := w.modPkg fun p => { p with ringUp := r.ringUp }
  let w2 := w1.zeroHbm 0 Config.hbmBytes
  let w3 := (List.range 8).foldl (fun w d => w.modDie d fun x =>
    { x with mc := { x.mc with scrub := true, poison := [] }, dbg := { x.dbg with idrec := w.idRecord d } }) w2
  let w4 := w3.calibrate r
  let w5 := w4.modPkg fun p => { p with cxl := r.cxl }
  -- rank 0 sets TS to 0 as the domain starts; elsewhere TS follows the master and never steps back (14 R323)
  let w6 : W := { w5 with ts := if r.rank = 0 then 0 else Nat.max w5.ts r.ts.toNat, tsFrac := 0 }
  let w7 := w6.modPkg fun p =>
    { p with linkUp := r.linkUp, rank := r.rank, dsize := if r.dsize = 0 then 1 else r.dsize, pool := r.pool }
  -- in READY, calibration is repeated for the pairs that no context owns (R361)
  if w.pkg.host.phase = 4 then w.calibrate r
  else if w.pkg.host.phase ≠ 3 then w
  else if !(ringConnected r.ringUp) then fail w1 1
  else if !r.hbmOk then fail w1 2
  else if !r.fuseOk then fail w2 3
  else if !r.calOk then fail w3 4
  else if !r.cxlOk then fail w4 5
  else if !r.fabricOk then fail w5 6
  else w7.modHost fun h => { h with phase := 4, err := 0 }

def execBringUp (r : BringUpReport) (s : State) : Host.Outcome State Fault Refusal := go s ((W.of s).bringUp r)

/-! ### Attestation (R331, R332) -/

/-- The seed of the alias key: SHA3-256 of the secret, D and SVN. -/
def HostBlk.aliasSeed (h : HostBlk) : BitVec 256 :=
  Config.sha3 (digestBytes Config.fuseSecret ++ digestBytes h.digest ++ toBytes 4 h.svn.toNat)

/-- The seed of the identity key: SHA3-256 of "identity" in ASCII and the secret. -/
def identitySeed : BitVec 256 :=
  Config.sha3 ([0x69, 0x64, 0x65, 0x6E, 0x74, 0x69, 0x74, 0x79] ++ digestBytes Config.fuseSecret)
/-- The alias certificate: its body with the alias public key, and the identity key's signature over it (R331). -/
def HostBlk.aliasCert (h : HostBlk) : List Byte :=
  let body := Config.aliasBody (Config.mldsaPublic h.aliasSeed)
  body ++ Config.mldsaSign identitySeed body

/-- Bytes 0..155 of the report. -/
def State.reportHead (s : State) (nonce : List Byte) : List Byte :=
  let ident := ((List.range 8).map fun d => toBytes 64 ((s.die d).dbg.idrec).toNat).flatten
  let encl := (List.range 8).map fun d =>
    (BitVec.ofNat 8 ((List.range 8).foldl (fun a q => a + b2n (s.clusterEnabled d q) * 2 ^ q) 0) : Byte)
  toBytes 4 0x52544146 ++ toBytes 4 1 ++ nonce ++ toBytes 8 s.ts ++ digestBytes s.pkg.host.digest ++
    toBytes 4 s.pkg.host.svn.toNat ++ toBytes 2 s.pkg.rank.toNat ++ toBytes 2 s.pkg.dsize.toNat ++ encl ++
    digestBytes (Config.sha3 ident) ++ List.replicate 28 0

/-- ATTEST: the report with its signature, the alias certificate and the identity certificate go to the buffer of 4 KiB. -/
def W.hostAttest (w : W) (cmd : BitVec 512) : W :=
  if !(w.takes cmd (· == 4)) then w
  else
    let h := w.pkg.host
    let head := w.reportHead (toBytes 32 (bits cmd 64 256))
    let sig := (Config.mldsaSign h.aliasSeed (digestBytes (Config.sha3 head)) ++ List.replicate 2420 0).take 2420
    let out := (head ++ sig ++ h.aliasCert ++ Config.identityCert (Config.mldsaPublic identitySeed)).take 4096
    (w.modHost fun h => { h with dma := (bits cmd 320 64, out) :: h.dma }).complete cmd 0 0

def execAttest (cmd : BitVec 512) (s : State) : Host.Outcome State Fault Refusal := go s ((W.of s).hostAttest cmd)

end Sys2Proof.Machine
end

