-- ==== Sys2Proof/Machine/Debug.lean ====
section
/-!
DEFINITION. Telemetry (15 R342, R343) and the debug mechanism (17 R353..R358).
-/

namespace Sys2Proof.Machine

/-! ### Telemetry -/

/-- The record of a period: what the silicon measured, with TS, the sequence number, every FCUR and the dies that had stalls or slew holds; reserved bytes zero
(R343). -/
def State.teleRecord (s : State) (ctx : Nat) (sample : BitVec 512) : BitVec 512 :=
  let x : BitVec 512 := setBits (setBits sample 0 64 s.ts) 64 32 (Tab.get 0 s.pkg.teleSeq ctx).toNat
  let x : BitVec 512 := (List.range 8).foldl (fun x d => setBits x (8 * (16 + 4 * d) + 24) 8 (s.die d).fcur.toNat) x
  let x : BitVec 512 := (List.range 2).foldl (fun x w => setBits x (8 * (48 + 4 * w) + 24) 8 0) x
  setBits (setBits x (8 * 56) 16 (Tab.get 0 s.pkg.teleHeld ctx).toNat) (8 * 58) 48 0

/-- The translation of a record's address on die 0: by reads that nothing waits for. -/
def W.telePage (w : W) (ctx va : Nat) : Except XErr (HeldPage × W) :=
  match w.gazPage 0 ctx va with
  | some p => if p.outside va then .error (.page 5) else .ok (p, w)
  | none =>
    match w.ahead.walk (w.ptroot 0 ctx) va with
    | .ok p => .ok (p, (w.askReads (w.ahead.walkReads 0 (w.ptroot 0 ctx) va)).fillGaz 0 ctx p)
    | .error e => .error e

/-- TELEMETRY_PERIOD, at the end of a period of PERIOD microseconds while EN is set: one record at TBASE + 64 HEAD, HEAD on modulo TCOUNT, an AADD of 1 to TSYNC with release at package scope; a
failed translation sets FLT and clears EN. -/
def W.teleStep (w : W) (ctx : Nat) (sample : BitVec 512) : W :=
  let b : BitVec 512 := Tab.get 0 w.pkg.tele ctx
  let head := bits b 128 24
  let va := bits b 0 64 + 64 * head
  let put (w : W) (b' : BitVec 512) : W := w.modPkg fun p => { p with tele := Tab.put 0 p.tele ctx b' }
  let r := toBytes 64 (w.teleRecord ctx sample).toNat
  let tsync := word (bits b 192 64)
  let after (w : W) : W :=
    let w := put w (setBits b 128 24 ((head + 1) % bits b 64 24))
    let w := w.modPkg fun p => { p with teleSeq := Tab.put 0 p.teleSeq ctx (Tab.get 0 p.teleSeq ctx + 1)
                                        teleHeld := Tab.put 0 p.teleHeld ctx 0
                                        teleDue := Tab.put 0 p.teleDue ctx (Tab.get 0 p.teleDue ctx + 1000 * bits b 88 16) }
    if tsync = 0 then w
    else match w.atTarget 0 ctx false tsync with
      | .ok _ => w.engineAt 0 ctx 0x284 tsync 1 4
      | .error _ => w
  if !bitAt b 104 ∨ w.ts < Tab.get 0 w.pkg.teleDue ctx then w
  else match w.telePage ctx va with
    | .error _ => put w (setBits (setBits b 104 1 0) 105 1 1)
    | .ok (p, w) =>
      if !p.wr then put w (setBits (setBits b 104 1 0) 105 1 1)
      else match p.remote with
        | some rank => after (w.send ctx rank 0 [word (p.pa va), 64, 1] r)
        | none => after (w.hbmStore (agentPort 6 0) (p.pa va) r)

def execTelemetryPeriod (ctx : Nat) (sample : BitVec 512) (s : State) : Host.Outcome State Fault Refusal :=
  go s ((W.of s).teleStep ctx sample)
def execTelemetryEnableWrite (ctx : Nat) (v : BitVec 64) (s : State) : Host.Outcome State Fault Refusal :=
  go s ((W.of s).writeTele ctx 8 v)

/-! ### Halt, resume, step, pass, release -/

def execDebugHalt (d ctx : Nat) (pkg : Bool) (s : State) : Host.Outcome State Fault Refusal := go s ((W.of s).haltCtx d ctx pkg)
def execDebugResume (d ctx : Nat) (pkg : Bool) (s : State) : Host.Outcome State Fault Refusal :=
  go s ((W.of s).resumeCtx d ctx pkg)
def execDebugStep (d ctx core : Nat) (all : Bool) (s : State) : Host.Outcome State Fault Refusal :=
  go s ((W.of s).stepCtx d ctx core all)
def execDebugPass (d : DebugDies) (ctx : Nat) (s : State) : Host.Outcome State Fault Refusal :=
  go s ((W.of s).passCtx d.die ctx d.pkg)
def execDebugRelease (d ctx core : Nat) (all : Bool) (s : State) : Host.Outcome State Fault Refusal :=
  go s ((W.of s).releaseCtx d ctx core all)

/-- No request that the copy has sent is open, and what it has read has landed: what is left has not been sent. -/
def Copy.quiet (x : Copy) : Bool :=
  let sent (write : Bool) (n : Nat) : Nat := n - (x.ask.filter fun q => q.write == write).length
  decide (sent false x.reads = 0) && decide (sent true x.writes = 0) && (x.reading.isEmpty || !x.ask.isEmpty)
/-- A halted core's channels stand: stopped by the HALT, or with no copy that goes on after a STEP. -/
def Core.quiet (k : Core) : Bool :=
  k.cp.ch.all fun e => match e.2.act with
    | some x => x.quiet && (k.chanHalt || decide (e.2.st = 4))
    | none => true

/-- The pending operation, the first to arrive of those that a halt of the context on die `d` held, with its core. -/
def State.heldFirst (s : State) (d ctx : Nat) : Option (Nat × Nat × AtOp) :=
  let held (c : Nat) (e : Nat × AtOp) : Bool :=
    let a := e.2
    decide (a.ctx = ctx) && decide (a.op ≠ 0x28b) && a.rel.isNone && !a.handleOp && (a.mute || decide (dieOf c ≠ d)) &&
      (match s.atSpan a with | some p => (s.target ctx p.1 p.2).any fun t => match t with | .here _ l => decide (l.die = d) | _ => false
                             | none => false) && s.atFree c e.1 a
  let l := (s.cores.map fun e => (((List.range e.2.ats.length).zip e.2.ats).filter (held e.1)).map fun x => (e.1, x)).flatten
  l.foldl (fun m x => match m with | some y => if x.2.2.num < y.2.2.num then some x else m | none => some x) none
/-- They are performed in the order of their arrival. -/
def W.drainHeld (d ctx : Nat) : Nat → W → W
  | 0, w => w
  | fuel + 1, w =>
    match w.heldFirst d ctx with
    | none => w
    | some (c, n, a) => drainHeld d ctx fuel (w.performAt c n a).wake

/-- HALT_DRAIN_DONE: every core of the halted context on the die stands, and its channels' requests have completed; or, after a
RESUME, the accesses that the halt held drain, and the channels issue again. -/
def W.haltDrain (w : W) (d ctx : Nat) : W :=
  let l := w.ctxCores d ctx
  if bitAt (w.die d).dbg.stop ctx then
    if l.all fun c => (w.core c).halted && !(w.core c).stepArm && (w.core c).quiet then
      w.modDie d fun x => { x with dbg := { x.dbg with halted := setBits x.dbg.halted ctx 1 1 } }
    else w
  else if bitAt (w.die d).dbg.drain ctx then
    let w := W.drainHeld d ctx (w.cores.foldl (fun n e => n + e.2.ats.length) 0) w
    (w.modCtx [d] ctx fun k => { k with chanHalt := false }).modDie d fun x =>
      { x with dbg := { x.dbg with drain := setBits x.dbg.drain ctx 1 0 } }
  else w

def execHaltDrainDone (d ctx : Nat) (s : State) : Host.Outcome State Fault Refusal := go s ((W.of s).haltDrain d ctx)

/-! ### The event queue (R356) -/

/-- STEP_EVENT: the oldest event that waits enters the queue when it has room. -/
def Core.takeEvent (k : Core) (ev : BitVec 128) : Core :=
  if k.stepPend.head? = some ev ∧ k.stepq.length < 16 then
    { k with stepq := k.stepq ++ [ev], stepPend := k.stepPend.tail }
  else k
def execStepEvent (c : Nat) (ev : BitVec 128) (s : State) : Host.Outcome State Fault Refusal :=
  go s ((W.of s).modCore c fun k => k.takeEvent ev)
/-- EVCOUNT_WRITE: the queue is emptied. -/
def execEvcountWrite (c : Nat) (s : State) : Host.Outcome State Fault Refusal :=
  go s ((W.of s).modCore c fun k => { k with stepq := [] })

end Sys2Proof.Machine
end

