-- ==== Sys2Proof/Machine/Bundle.lean ====
section
/-!
DEFINITION. The issue of whole bundles: every trigger operation and control operation by its number, BUNDLE_ISSUE,
HOLD_RELEASE, MERGED_ISSUE and WATCHDOG_TIMEOUT (01 R19, R31..R35; 05 R129; 06 R156, R163).
-/

namespace Sys2Proof.Machine

/-- The trigger operations of the units that are no integer unit, by id (R31..R33). -/
def unitTable : List (Nat × TrigFn) :=
  [ (0x18a, trigStore), (0x18b, trigStln), (0x18c, trigStore), (0x18d, trigStore), (0x18e, trigStore),
    (0x18f, trigStore), (0x190, trigStore), (0x191, trigLda), (0x192, trigSta), (0x193, trigHmake),
    (0x194, trigHgive), (0x195, trigHtake), (0x196, trigHrel),
    (0x1de, trigQnt), (0x1df, trigDqnt), (0x1e0, trigQnt),
    (0x241, trigSvrst), (0x242, trigSvrd), (0x243, trigSvnote), (0x244, trigSvmerge), (0x245, trigSvtrap),
    (0x2c1, trigSpawn), (0x2c2, trigToksend), (0x2c3, trigWidf), (0x2c4, trigPhase), (0x2c5, trigBarc),
    (0x2c6, trigBarq), (0x301, trigCtlr), (0x302, trigCtlw), (0x303, trigTlbinv), (0x304, trigSlewreq),
    (0x305, trigFiller), (0x341, trigStcfg), (0x342, trigStgo), (0x343, trigStstop), (0x344, trigStstat) ]
/-- The trigger operations of the engine blocks, by id (R33). -/
def engineTrigs : List (Nat × TrigFn) :=
  [ (0x841, trigAccrd), (0x842, trigAccwr), (0x843, trigAccwr), (0x844, trigAccz), (0x845, trigAccspill),
    (0x846, trigAccfill), (0x847, trigAccts), (0x8c1, trigTplw), (0x8c2, trigCpgo), (0x8c3, trigGqpush),
    (0x8c4, trigCpwait), (0x8c5, trigCpstat), (0x8c6, trigCpabort), (0x901, trigStackOp), (0x902, trigStackOp),
    (0x903, trigLease), (0x904, trigUnlease), (0x905, trigLstat) ]

/-- The trigger operation of an id. -/
def trigOf (id : Nat) : TrigFn :=
  match id / 64 with
  | 0x4 | 0x5 => trigInt
  | 0x6 => if id < 0x18a then trigLoad else (unitTable.lookup id).getD trigLoad
  | 0x7 => if id < 0x1de then trigVec else (unitTable.lookup id).getD trigVec
  | 0x8 => trigSfn
  | 0xa => trigAt
  | 0x20 => trigMma
  | 0x22 => trigXb
  | 0x21 | 0x23 | 0x24 => (engineTrigs.lookup id).getD trigAccts
  | _ => (unitTable.lookup id).getD trigCtlr

/-- The control operation of a control slot (R35). -/
def ctlOf (w : BitVec 32) : CtlFn :=
  match (ctlOpc w).toNat with
  | 0x01 => ctlBr
  | 0x02 => ctlBrp
  | 0x03 => ctlCall
  | 0x04 => ctlRet
  | 0x05 => ctlJr
  | 0x06 => ctlLoopm
  | 0x07 => ctlLoopx
  | 0x08 => ctlLit
  | 0x09 => ctlLith
  | 0x0a => ctlSetfmt
  | 0x0b => ctlSetwin
  | 0x0d => ctlWaite
  | 0x0e => ctlFence
  | 0x0f => ctlSuspend
  | 0x10 => ctlYield
  | 0x11 => ctlTrap
  | 0x12 => ctlRtrap
  | 0x13 => ctlBkpt
  | _ => ctlNop

/-- A whole bundle issues on core `c` (R19). -/
def W.issueBundle (w : W) (c : Nat) (b : BitVec 256) : W :=
  issue c (Bundle.ofBits (w.core c).pcAddr b) trigOf (fun t w => ctlOf t.word t w) w

/-- BUNDLE_ISSUE on the core whose clock cycle it is. -/
def execBundleIssue (b : BitVec 256) (s : State) : Host.Outcome State Fault Refusal :=
  go s (if (s.core s.focus).runs then (W.of s).issueBundle s.focus b else W.of s)

/-- A merged issue of core `c` with every operation (R156). -/
def W.issueMerged (w : W) (c : Nat) : W := mergedIssue c trigOf ctlOf w

/-- MERGED_ISSUE: the sequencer of a core that runs makes its next merged issue. -/
def execMergedIssue (c : Nat) (s : State) : Host.Outcome State Fault Refusal :=
  go s (if (s.core c).runs && (s.core c).seq.on then (W.of s).issueMerged c else W.of s)

/-- The bundle at the program counter of a core under the pages it holds. -/
def State.fetchAt (s : State) (c : Nat) : Option (BitVec 256) := (W.of s).fetch (s.env c).pages (s.core c).pcAddr

/-- The bundle or merged issue that is due on a core. -/
def W.reissue (w : W) (c : Nat) : W :=
  if (w.core c).seq.on then w.issueMerged c
  else match w.fetchAt c with
    | some b => w.issueBundle c b
    | none => w

/-- HOLD_RELEASE: a held bundle issues when nothing holds it any more; else its hold goes on. -/
def execHoldRelease (c : Nat) (s : State) : Host.Outcome State Fault Refusal :=
  go s (if (s.core c).runs && decide (0 < (s.core c).pipe.held) then (W.of s).reissue c else W.of s)

/-- WATCHDOG_TIMEOUT: a bundle that has been held for LIMIT clock cycles and cannot issue raises TIMEOUT (R163). -/
def execWatchdogTimeout (c : Nat) (s : State) : Host.Outcome State Fault Refusal :=
  go s (if (s.core c).runs && decide (bits (s.core c).ctl.wdg 0 32 ≤ (s.core c).pipe.held) then (W.of s).reissue c else W.of s)

end Sys2Proof.Machine
end

