-- ==== Sys2Proof/Machine/Dispatch.lean ====
section
/-!
DEFINITION. One arm per constructor of Instr: the meaning of each instruction.
-/

namespace Sys2Proof.Machine

def exec (i : Instr) (s : State) : Host.Outcome State Fault Refusal :=
  match i with
  | .bundleIssue b => Sys2Proof.Machine.execBundleIssue b s
  | .move g d sr m => Sys2Proof.Machine.execMove g d sr m s
  | .hint g h sr m => Sys2Proof.Machine.execHint g h sr m s
  | .cnop e => Sys2Proof.Machine.execCnop e s
  | .br e d => Sys2Proof.Machine.execBr e d s
  | .brp e v p d => Sys2Proof.Machine.execBrp e v p d s
  | .call e d => Sys2Proof.Machine.execCall e d s
  | .ret e => Sys2Proof.Machine.execRet e s
  | .jr e n => Sys2Proof.Machine.execJr e n s
  | .loopm e l t n => Sys2Proof.Machine.execLoopm e l t n s
  | .loopx e => Sys2Proof.Machine.execLoopx e s
  | .lit e v => Sys2Proof.Machine.execLit e v s
  | .lith e v => Sys2Proof.Machine.execLith e v s
  | .setfmt e f => Sys2Proof.Machine.execSetfmt e f s
  | .setwin e r b => Sys2Proof.Machine.execSetwin e r b s
  | .start e x y z => Sys2Proof.Machine.execStart e x y z s
  | .waite e m => Sys2Proof.Machine.execWaite e m s
  | .fence e sr k => Sys2Proof.Machine.execFence e sr k s
  | .suspend e k n d => Sys2Proof.Machine.execSuspend e k n d s
  | .yield e => Sys2Proof.Machine.execYield e s
  | .trap e c => Sys2Proof.Machine.execTrap e c s
  | .rtrap e => Sys2Proof.Machine.execRtrap e s
  | .bkpt e => Sys2Proof.Machine.execBkpt e s
  | .chint e h v => Sys2Proof.Machine.execChint e h v s
  | .add u f => Sys2Proof.Machine.execAdd u f s
  | .sub u f => Sys2Proof.Machine.execSub u f s
  | .mul u f => Sys2Proof.Machine.execMul u f s
  | .mulh u f => Sys2Proof.Machine.execMulh u f s
  | .mulhu u f => Sys2Proof.Machine.execMulhu u f s
  | .div u f => Sys2Proof.Machine.execDiv u f s
  | .divu u f => Sys2Proof.Machine.execDivu u f s
  | .rem u f => Sys2Proof.Machine.execRem u f s
  | .remu u f => Sys2Proof.Machine.execRemu u f s
  | .and u f => Sys2Proof.Machine.execAnd u f s
  | .or u f => Sys2Proof.Machine.execOr u f s
  | .xor u f => Sys2Proof.Machine.execXor u f s
  | .andn u f => Sys2Proof.Machine.execAndn u f s
  | .orn u f => Sys2Proof.Machine.execOrn u f s
  | .shl u f => Sys2Proof.Machine.execShl u f s
  | .shr u f => Sys2Proof.Machine.execShr u f s
  | .sar u f => Sys2Proof.Machine.execSar u f s
  | .rol u f => Sys2Proof.Machine.execRol u f s
  | .min u f => Sys2Proof.Machine.execMin u f s
  | .max u f => Sys2Proof.Machine.execMax u f s
  | .minu u f => Sys2Proof.Machine.execMinu u f s
  | .maxu u f => Sys2Proof.Machine.execMaxu u f s
  | .clz u f => Sys2Proof.Machine.execClz u f s
  | .ctz u f => Sys2Proof.Machine.execCtz u f s
  | .popc u f => Sys2Proof.Machine.execPopc u f s
  | .bswap u f => Sys2Proof.Machine.execBswap u f s
  | .sext u f => Sys2Proof.Machine.execSext u f s
  | .zext u f => Sys2Proof.Machine.execZext u f s
  | .bext u f => Sys2Proof.Machine.execBext u f s
  | .ceq u f => Sys2Proof.Machine.execCeq u f s
  | .cne u f => Sys2Proof.Machine.execCne u f s
  | .clt u f => Sys2Proof.Machine.execClt u f s
  | .cltu u f => Sys2Proof.Machine.execCltu u f s
  | .cle u f => Sys2Proof.Machine.execCle u f s
  | .cleu u f => Sys2Proof.Machine.execCleu u f s
  | .clmull u f => Sys2Proof.Machine.execClmull u f s
  | .clmulh u f => Sys2Proof.Machine.execClmulh u f s
  | .pass u f => Sys2Proof.Machine.execPass u f s
  | .lea u f => Sys2Proof.Machine.execLea u f s
  | .ldl f => Sys2Proof.Machine.execLdl f s
  | .ldsB f => Sys2Proof.Machine.execLdsB f s
  | .ldsH f => Sys2Proof.Machine.execLdsH f s
  | .ldsW f => Sys2Proof.Machine.execLdsW f s
  | .ldsD f => Sys2Proof.Machine.execLdsD f s
  | .ldsxB f => Sys2Proof.Machine.execLdsxB f s
  | .ldsxH f => Sys2Proof.Machine.execLdsxH f s
  | .ldsxW f => Sys2Proof.Machine.execLdsxW f s
  | .stl f => Sys2Proof.Machine.execStl f s
  | .stln f => Sys2Proof.Machine.execStln f s
  | .stlm f => Sys2Proof.Machine.execStlm f s
  | .stsB f => Sys2Proof.Machine.execStsB f s
  | .stsH f => Sys2Proof.Machine.execStsH f s
  | .stsW f => Sys2Proof.Machine.execStsW f s
  | .stsD f => Sys2Proof.Machine.execStsD f s
  | .lda f => Sys2Proof.Machine.execLda f s
  | .sta f => Sys2Proof.Machine.execSta f s
  | .hmake f => Sys2Proof.Machine.execHmake f s
  | .hgive f => Sys2Proof.Machine.execHgive f s
  | .htake f => Sys2Proof.Machine.execHtake f s
  | .hrel f => Sys2Proof.Machine.execHrel f s
  | .vadd f => Sys2Proof.Machine.execVadd f s
  | .vsub f => Sys2Proof.Machine.execVsub f s
  | .vmul f => Sys2Proof.Machine.execVmul f s
  | .vfma f => Sys2Proof.Machine.execVfma f s
  | .vfms f => Sys2Proof.Machine.execVfms f s
  | .vnfma f => Sys2Proof.Machine.execVnfma f s
  | .vmin f => Sys2Proof.Machine.execVmin f s
  | .vmax f => Sys2Proof.Machine.execVmax f s
  | .vabs f => Sys2Proof.Machine.execVabs f s
  | .vneg f => Sys2Proof.Machine.execVneg f s
  | .vclamp f => Sys2Proof.Machine.execVclamp f s
  | .vscale f => Sys2Proof.Machine.execVscale f s
  | .vcmplt f => Sys2Proof.Machine.execVcmplt f s
  | .vcmple f => Sys2Proof.Machine.execVcmple f s
  | .vcmpeq f => Sys2Proof.Machine.execVcmpeq f s
  | .vsel f => Sys2Proof.Machine.execVsel f s
  | .vsum f => Sys2Proof.Machine.execVsum f s
  | .vmaxr f => Sys2Proof.Machine.execVmaxr f s
  | .vdot f => Sys2Proof.Machine.execVdot f s
  | .vstat f => Sys2Proof.Machine.execVstat f s
  | .vbcast f => Sys2Proof.Machine.execVbcast f s
  | .vshuf f => Sys2Proof.Machine.execVshuf f s
  | .vwidenl f => Sys2Proof.Machine.execVwidenl f s
  | .vwidenh f => Sys2Proof.Machine.execVwidenh f s
  | .vnarrow f => Sys2Proof.Machine.execVnarrow f s
  | .vcvtif f => Sys2Proof.Machine.execVcvtif f s
  | .vcvtfi f => Sys2Proof.Machine.execVcvtfi f s
  | .pprob f => Sys2Proof.Machine.execPprob f s
  | .qnt f => Sys2Proof.Machine.execQnt f s
  | .dqnt f => Sys2Proof.Machine.execDqnt f s
  | .qscale f => Sys2Proof.Machine.execQscale f s
  | .exp f => Sys2Proof.Machine.execExp f s
  | .exp2 f => Sys2Proof.Machine.execExp2 f s
  | .ln f => Sys2Proof.Machine.execLn f s
  | .log2 f => Sys2Proof.Machine.execLog2 f s
  | .rcp f => Sys2Proof.Machine.execRcp f s
  | .rsqrt f => Sys2Proof.Machine.execRsqrt f s
  | .sqrt f => Sys2Proof.Machine.execSqrt f s
  | .tanh f => Sys2Proof.Machine.execTanh f s
  | .sigm f => Sys2Proof.Machine.execSigm f s
  | .gelu f => Sys2Proof.Machine.execGelu f s
  | .silu f => Sys2Proof.Machine.execSilu f s
  | .erf f => Sys2Proof.Machine.execErf f s
  | .svrst f => Sys2Proof.Machine.execSvrst f s
  | .svrd f => Sys2Proof.Machine.execSvrd f s
  | .svnote f => Sys2Proof.Machine.execSvnote f s
  | .svmerge f => Sys2Proof.Machine.execSvmerge f s
  | .svtrap f => Sys2Proof.Machine.execSvtrap f s
  | .ald f => Sys2Proof.Machine.execAld f s
  | .ast f => Sys2Proof.Machine.execAst f s
  | .aadd f => Sys2Proof.Machine.execAadd f s
  | .amax f => Sys2Proof.Machine.execAmax f s
  | .amin f => Sys2Proof.Machine.execAmin f s
  | .aswap f => Sys2Proof.Machine.execAswap f s
  | .acas f => Sys2Proof.Machine.execAcas f s
  | .abind f => Sys2Proof.Machine.execAbind f s
  | .aunbind f => Sys2Proof.Machine.execAunbind f s
  | .awaitge f => Sys2Proof.Machine.execAwaitge f s
  | .spawn f => Sys2Proof.Machine.execSpawn f s
  | .toksend f => Sys2Proof.Machine.execToksend f s
  | .widfExtractWid f => Sys2Proof.Machine.execWidfExtractWid f s
  | .widfExtractOperand f => Sys2Proof.Machine.execWidfExtractOperand f s
  | .widfInsert f => Sys2Proof.Machine.execWidfInsert f s
  | .phaseUnit f => Sys2Proof.Machine.execPhaseUnit f s
  | .phaseBound f => Sys2Proof.Machine.execPhaseBound f s
  | .barc f => Sys2Proof.Machine.execBarc f s
  | .barq f => Sys2Proof.Machine.execBarq f s
  | .ctlr f => Sys2Proof.Machine.execCtlr f s
  | .ctlw f => Sys2Proof.Machine.execCtlw f s
  | .tlbinv f => Sys2Proof.Machine.execTlbinv f s
  | .slewreq f => Sys2Proof.Machine.execSlewreq f s
  | .filler f => Sys2Proof.Machine.execFiller f s
  | .stcfg f => Sys2Proof.Machine.execStcfg f s
  | .stgo f => Sys2Proof.Machine.execStgo f s
  | .ststop f => Sys2Proof.Machine.execStstop f s
  | .ststat f => Sys2Proof.Machine.execStstat f s
  | .mma f => Sys2Proof.Machine.execMma f s
  | .mmaz f => Sys2Proof.Machine.execMmaz f s
  | .mmat f => Sys2Proof.Machine.execMmat f s
  | .mmatz f => Sys2Proof.Machine.execMmatz f s
  | .accrd f => Sys2Proof.Machine.execAccrd f s
  | .accwr f => Sys2Proof.Machine.execAccwr f s
  | .accadd f => Sys2Proof.Machine.execAccadd f s
  | .accz f => Sys2Proof.Machine.execAccz f s
  | .accspill f => Sys2Proof.Machine.execAccspill f s
  | .accfill f => Sys2Proof.Machine.execAccfill f s
  | .acctsStatus f => Sys2Proof.Machine.execAcctsStatus f s
  | .acctsLoad f => Sys2Proof.Machine.execAcctsLoad f s
  | .acctsRewind f => Sys2Proof.Machine.execAcctsRewind f s
  | .xmode f => Sys2Proof.Machine.execXmode f s
  | .xfwd f => Sys2Proof.Machine.execXfwd f s
  | .xbwd f => Sys2Proof.Machine.execXbwd f s
  | .xupd f => Sys2Proof.Machine.execXupd f s
  | .xfer f => Sys2Proof.Machine.execXfer f s
  | .xgamma f => Sys2Proof.Machine.execXgamma f s
  | .xspw f => Sys2Proof.Machine.execXspw f s
  | .xspr f => Sys2Proof.Machine.execXspr f s
  | .xseed f => Sys2Proof.Machine.execXseed f s
  | .xrdavg f => Sys2Proof.Machine.execXrdavg f s
  | .xprg f => Sys2Proof.Machine.execXprg f s
  | .xrst f => Sys2Proof.Machine.execXrst f s
  | .xstat f => Sys2Proof.Machine.execXstat f s
  | .tplw f => Sys2Proof.Machine.execTplw f s
  | .cpgo f c => Sys2Proof.Machine.execCpgo f c s
  | .cpgoResume f c => Sys2Proof.Machine.execCpgoResume f c s
  | .gqpush f => Sys2Proof.Machine.execGqpush f s
  | .cpwait f => Sys2Proof.Machine.execCpwait f s
  | .cpstat f => Sys2Proof.Machine.execCpstat f s
  | .cpabort f => Sys2Proof.Machine.execCpabort f s
  | .pusht f => Sys2Proof.Machine.execPusht f s
  | .popt f => Sys2Proof.Machine.execPopt f s
  | .lease f => Sys2Proof.Machine.execLease f s
  | .unlease f => Sys2Proof.Machine.execUnlease f s
  | .lstatSlot f => Sys2Proof.Machine.execLstatSlot f s
  | .lstatDeadline f => Sys2Proof.Machine.execLstatDeadline f s
  | .lstatStack f => Sys2Proof.Machine.execLstatStack f s
  | .holdRelease c => Sys2Proof.Machine.execHoldRelease c s
  | .mergedIssue c => Sys2Proof.Machine.execMergedIssue c s
  | .watchdogTimeout c => Sys2Proof.Machine.execWatchdogTimeout c s
  | .resultCompletion c => Sys2Proof.Machine.execResultCompletion c s
  | .loadLanding c => Sys2Proof.Machine.execLoadLanding c s
  | .engineStartCycle c e => Sys2Proof.Machine.execEngineStartCycle c e s
  | .streamRun c k => Sys2Proof.Machine.execStreamRun c k s
  | .streamWriteDrain c k => Sys2Proof.Machine.execStreamWriteDrain c k s
  | .registerWrite a v => Sys2Proof.Machine.execRegisterWrite a v s
  | .atPerform c n => Sys2Proof.Machine.execAtPerform c n s
  | .awaitgeSatisfied c n => Sys2Proof.Machine.execAwaitgeSatisfied c n s
  | .releasePerform c n => Sys2Proof.Machine.execReleasePerform c n s
  | .mxStepRead c => Sys2Proof.Machine.execMxStepRead c s
  | .mxComplete c => Sys2Proof.Machine.execMxComplete c s
  | .acczDone c => Sys2Proof.Machine.execAcczDone c s
  | .accspillLine c => Sys2Proof.Machine.execAccspillLine c s
  | .accfillLineRead c => Sys2Proof.Machine.execAccfillLineRead c s
  | .accfillDone c => Sys2Proof.Machine.execAccfillDone c s
  | .xbSettleEnd c k => Sys2Proof.Machine.execXbSettleEnd c k s
  | .xbOutputWrite c k => Sys2Proof.Machine.execXbOutputWrite c k s
  | .xbStatus c k => Sys2Proof.Machine.execXbStatus c k s
  | .xupdSlot c k => Sys2Proof.Machine.execXupdSlot c k s
  | .xferSlot c k => Sys2Proof.Machine.execXferSlot c k s
  | .xrdavgColumn c k => Sys2Proof.Machine.execXrdavgColumn c k s
  | .xprgColumn c k => Sys2Proof.Machine.execXprgColumn c k s
  | .xrstApply c k => Sys2Proof.Machine.execXrstApply c k s
  | .xspwApply c k => Sys2Proof.Machine.execXspwApply c k s
  | .apertureStart c ch w => Sys2Proof.Machine.execApertureStart c ch w s
  | .apertureResume c ch w => Sys2Proof.Machine.execApertureResume c ch w s
  | .copyAccept c ch => Sys2Proof.Machine.execCopyAccept c ch s
  | .copyActivate c ch => Sys2Proof.Machine.execCopyActivate c ch s
  | .copyAcquireDone c ch => Sys2Proof.Machine.execCopyAcquireDone c ch s
  | .copyRequestIssue c => Sys2Proof.Machine.execCopyRequestIssue c s
  | .gatherIndexTake c ch => Sys2Proof.Machine.execGatherIndexTake c ch s
  | .copyLineDone c ch => Sys2Proof.Machine.execCopyLineDone c ch s
  | .reduceAdmit home => Sys2Proof.Machine.execReduceAdmit home s
  | .copyFinish c ch => Sys2Proof.Machine.execCopyFinish c ch s
  | .followOnHandover c ch => Sys2Proof.Machine.execFollowOnHandover c ch s
  | .followOnIssue c => Sys2Proof.Machine.execFollowOnIssue c s
  | .copyFault c ch => Sys2Proof.Machine.execCopyFault c ch s
  | .copyAbortDrain c ch => Sys2Proof.Machine.execCopyAbortDrain c ch s
  | .landingCrcRetry c ch e => Sys2Proof.Machine.execLandingCrcRetry c ch e s
  | .tableWalk d ctx va => Sys2Proof.Machine.execTableWalk d ctx va s
  | .hbmAdmit d q => Sys2Proof.Machine.execHbmAdmit d q s
  | .hbmComplete d pc => Sys2Proof.Machine.execHbmComplete d pc s
  | .bankIdlePrecharge d bk => Sys2Proof.Machine.execBankIdlePrecharge d bk s
  | .hbmRefresh d bk => Sys2Proof.Machine.execHbmRefresh d bk s
  | .scrubRow d ev => Sys2Proof.Machine.execScrubRow d ev s
  | .ehringWrite d count v => Sys2Proof.Machine.execEhringWrite d count v s
  | .tierAccept c => Sys2Proof.Machine.execTierAccept c s
  | .tierPushData d ctx q => Sys2Proof.Machine.execTierPushData d ctx q s
  | .tierPopData d ctx q => Sys2Proof.Machine.execTierPopData d ctx q s
  | .spillEntry d ctx => Sys2Proof.Machine.execSpillEntry d ctx s
  | .returnEntry d q => Sys2Proof.Machine.execReturnEntry d q s
  | .leaseGrant d ctx q units base => Sys2Proof.Machine.execLeaseGrant d ctx q units base s
  | .leaseRefuse d ctx q => Sys2Proof.Machine.execLeaseRefuse d ctx q s
  | .leaseRevoke d ctx slot notice => Sys2Proof.Machine.execLeaseRevoke d ctx slot notice s
  | .leaseDeadline d ctx slot => Sys2Proof.Machine.execLeaseDeadline d ctx slot s
  | .leaseDrained d ctx slot => Sys2Proof.Machine.execLeaseDrained d ctx slot s
  | .surveyDeltaSend d sv => Sys2Proof.Machine.execSurveyDeltaSend d sv s
  | .surveyDeltaMerge d => Sys2Proof.Machine.execSurveyDeltaMerge d s
  | .surveyMirrorRefresh d sv => Sys2Proof.Machine.execSurveyMirrorRefresh d sv s
  | .surveyStaWrite d sv img => Sys2Proof.Machine.execSurveyStaWrite d sv img s
  | .launchRequest d ctx req grant => Sys2Proof.Machine.execLaunchRequest d ctx req grant s
  | .recordCreate d slot => Sys2Proof.Machine.execRecordCreate d slot s
  | .recordReady d idx => Sys2Proof.Machine.execRecordReady d idx s
  | .tokenArrive d ctx tok => Sys2Proof.Machine.execTokenArrive d ctx tok s
  | .timerWaitExpire d idx => Sys2Proof.Machine.execTimerWaitExpire d idx s
  | .dispatch c => Sys2Proof.Machine.execDispatch c s
  | .prompt d idx => Sys2Proof.Machine.execPrompt d idx s
  | .preemptForced c => Sys2Proof.Machine.execPreemptForced c s
  | .forcedSaveRetry c => Sys2Proof.Machine.execForcedSaveRetry c s
  | .barrierArrival d ctx b => Sys2Proof.Machine.execBarrierArrival d ctx b s
  | .barrierNoticeArrive ctx b gen trel => Sys2Proof.Machine.execBarrierNoticeArrive ctx b gen trel s
  | .packageRelease ctx b => Sys2Proof.Machine.execPackageRelease ctx b s
  | .clusterRelease d ctx b q => Sys2Proof.Machine.execClusterRelease d ctx b q s
  | .barrierDescriptorWrite d idx img => Sys2Proof.Machine.execBarrierDescriptorWrite d idx img s
  | .trapEntry c => Sys2Proof.Machine.execTrapEntry c s
  | .notaskEntry c => Sys2Proof.Machine.execNotaskEntry c s
  | .replayEntryEffect c => Sys2Proof.Machine.execReplayEntryEffect c s
  | .timingErrorReplay c cycles => Sys2Proof.Machine.execTimingErrorReplay c cycles s
  | .commitBufferDrain c => Sys2Proof.Machine.execCommitBufferDrain c s
  | .contextControlWrite d ctx off v => Sys2Proof.Machine.execContextControlWrite d ctx off v s
  | .tileOwnerWrite d idx v => Sys2Proof.Machine.execTileOwnerWrite d idx v s
  | .fabricContextWrite w ctx off v => Sys2Proof.Machine.execFabricContextWrite w ctx off v s
  | .flitReplay r => Sys2Proof.Machine.execFlitReplay r s
  | .linkDown link => Sys2Proof.Machine.execLinkDown link s
  | .fabricAccessArrive acc => Sys2Proof.Machine.execFabricAccessArrive acc s
  | .timestampAlign adv => Sys2Proof.Machine.execTimestampAlign adv s
  | .powerUp => Sys2Proof.Machine.execPowerUp s
  | .functionLevelReset => Sys2Proof.Machine.execFunctionLevelReset s
  | .imageGo => Sys2Proof.Machine.execImageGo s
  | .imageVerifyDone => Sys2Proof.Machine.execImageVerifyDone s
  | .bringUp r => Sys2Proof.Machine.execBringUp r s
  | .cmdDoorbell tail cmds => Sys2Proof.Machine.execCmdDoorbell tail cmds s
  | .hostLaunch cmd => Sys2Proof.Machine.execHostLaunch cmd s
  | .signal cmd => Sys2Proof.Machine.execSignal cmd s
  | .readsync cmd => Sys2Proof.Machine.execReadsync cmd s
  | .attest cmd => Sys2Proof.Machine.execAttest cmd s
  | .openCtx cmd => Sys2Proof.Machine.execOpenCtx cmd s
  | .closeCtx cmd => Sys2Proof.Machine.execCloseCtx cmd s
  | .unknownHostCommand cmd => Sys2Proof.Machine.execUnknownHostCommand cmd s
  | .bar2Access write off data => Sys2Proof.Machine.execBar2Access write off data s
  | .ftgtWrite d v => Sys2Proof.Machine.execFtgtWrite d v s
  | .frequencyChangeDone d => Sys2Proof.Machine.execFrequencyChangeDone d s
  | .rampTableWrite d q off v => Sys2Proof.Machine.execRampTableWrite d q off v s
  | .slewStepBoundary d q => Sys2Proof.Machine.execSlewStepBoundary d q s
  | .slewGrant d q => Sys2Proof.Machine.execSlewGrant d q s
  | .telemetryPeriod ctx sample => Sys2Proof.Machine.execTelemetryPeriod ctx sample s
  | .telemetryEnableWrite ctx v => Sys2Proof.Machine.execTelemetryEnableWrite ctx v s
  | .debugHalt d ctx pkg => Sys2Proof.Machine.execDebugHalt d ctx pkg s
  | .haltDrainDone d ctx => Sys2Proof.Machine.execHaltDrainDone d ctx s
  | .debugResume d ctx pkg => Sys2Proof.Machine.execDebugResume d ctx pkg s
  | .debugStep d ctx core all => Sys2Proof.Machine.execDebugStep d ctx core all s
  | .debugPass d ctx => Sys2Proof.Machine.execDebugPass d ctx s
  | .debugRelease d ctx core all => Sys2Proof.Machine.execDebugRelease d ctx core all s
  | .stepEvent c ev => Sys2Proof.Machine.execStepEvent c ev s
  | .evcountWrite c => Sys2Proof.Machine.execEvcountWrite c s
  | .xbLineRead c k => Sys2Proof.Machine.execXbLineRead c k s
  | .xsprOutputWrite c k => Sys2Proof.Machine.execXsprOutputWrite c k s
  | .xbModeTake c k => Sys2Proof.Machine.execXbModeTake c k s
  | .fillerRampBlock c => Sys2Proof.Machine.execFillerRampBlock c s
  | .leaseRequestArrive rank ctx slot act part => Sys2Proof.Machine.execLeaseRequestArrive rank ctx slot act part s

end Sys2Proof.Machine
end

