-- ==== Sys2Proof/Machine/Load.lean ====
section
/-!
DEFINITION. A program brought in from outside: a context opened, a launch accepted, its record dispatched to core 0 of die
0, with one bundle in HBM at the program counter (log 5).
-/

namespace Sys2Proof.Machine

/-- The launch header of the loaded program: code range 0..32767, the first page of HBM under identity translation. -/
def loadHeader : BitVec 1024 := BitVec.ofNat 1024 (32768 * 2 ^ (8 * 0x10))
/-- Its translation: a leaf with read right (13 R312). -/
def loadPage : HeldPage := { va := 0, size := 32768, leaf := 7 }
/-- Its record: encoding version 3, launch slot 0 (12 R271). -/
def loadRecord : BitVec 512 := BitVec.ofNat 512 (3 * 2 ^ 236 * 2 ^ 236)
/-- The address of its bundle. -/
def loadPc : Nat := 4096

/-- The bytes of a bundle placed in memory (01 R10). -/
def placeBundle (m : List Host.Cell) (a : Nat) (b : BitVec 256) : List Host.Cell :=
  (List.range 32).foldl (fun m k => Mem.put m (a + k) (b.extractLsb' (8 * k) 8)) m

/-- Core 0 as the dispatch of the record leaves it, its clock cycle next. -/
def Core.loaded (k : Core) (clk : Nat) : Core :=
  { k with
    mode := .task, halted := false, ctx := some 0, notask := false, pc := BitVec.ofNat 46 (loadPc / 32), seq := {}
    running := some { img := loadRecord, e := 0, since := clk }
    pipe := { k.pipe with held := 0, pre := 0, replay := 0 } }

/-- The state with the bundle as the program of core 0, whose clock cycle is next. -/
def State.withProgram (s : State) (b : BitVec 256) : State :=
  let l : Launch := { ctx := 0, hdr := loadHeader, live := 1, code := [loadPage] }
  let r : Record := { ctx := 0, img := loadRecord, run := true }
  let d := s.die 0
  let board : Board := { d.board with recs := Tab.set d.board.recs 0 r, launches := Tab.set d.board.launches 0 l }
  { s with
    mem := placeBundle s.mem loadPc b
    cores := Tab.set s.cores 0 ((s.core 0).loaded s.clk)
    dies := Tab.set s.dies 0 { d with board := board }
    pkg := if s.pkg.opens.contains 0 then s.pkg else { s.pkg with opens := 0 :: s.pkg.opens }
    agenda := [], todo := [], agents := false, laid := true, focus := 0 }

end Sys2Proof.Machine
end

