-- ==== Sys2Proof/Machine/Sched.lean ====
section
/-!
DEFINITION. What happens next (log 3). A clock cycle of the package is the detached agents' part, then each core's: what is
due at the start of its run cycle (06 R145, R147), then its own clock cycle. Each step is one instruction of the package.
-/

namespace Sys2Proof.Machine

/-! ### What is due on a core: the ends of its run cycle, then what comes before its clock cycle -/

/-- The pairs of a core that an operation, a stopped one or a settle concerns. -/
def Core.busyPairs (k : Core) : List Nat :=
  (List.range 8).filter fun p => (k.eng.xb.any fun o => decide (o.pair = p)) ||
    (k.stopped.any fun x => decide (x.1.pair = p) && decide (x.1.outs < x.1.begun)) || decide ((k.pair p).settle ≠ 0)
/-- The same pairs in the order in which their operations were triggered: the later-triggered one's status stays (09 R207). -/
def Core.pairsByTrigger (k : Core) : List Nat :=
  let key (p : Nat) : Nat := ((k.xbOn p).map (·.seq)).getD 0
  let put (p : Nat) (l : List Nat) : List Nat :=
    l.takeWhile (fun q => decide (key q ≤ key p)) ++ p :: l.dropWhile fun q => decide (key q ≤ key p)
  k.busyPairs.foldl (fun l p => put p l) []
/-- Output lines of a crossbar operation that are due, and one step for its note. -/
def EngineOp.outsDue (o : EngineOp) (run : Nat) : Nat :=
  ((o.xbWrites.drop o.outs).filter fun e => decide (o.u + e.2 + 1 ≤ run)).length + 1
/-- Steps that the operation on a pair may take now. -/
def Core.pairSteps (k : Core) (c p : Nat) : List Due :=
  let n : Nat := (k.eng.xb.filter fun o => decide (o.pair = p)).foldl (fun a o => a + o.outsDue k.pipe.run) 0
  let stopped : Nat := (k.stopped.filter fun x => decide (x.1.pair = p)).foldl (fun a x => a + (x.1.begun - x.1.outs)) 0
  [.pair .settleEnd c p] ++ List.replicate n (.pair .output c p) ++ List.replicate n (.pair .xspr c p) ++
    (List.replicate (stopped + 1) [Due.pair .xupd c p, .pair .xfer c p, .pair .xrdavg c p, .pair .xprg c p]).flatten ++
    [.pair .xrst c p, .pair .xspw c p, .pair .modeTake c p, .pair .status c p]

/-- Ends and writes of the engines: they belong to the run cycle that has passed. -/
def Core.endSteps (k : Core) (c : Nat) : List Due :=
  (if k.eng.acc.isSome then [Due.core .accspillLine c, .core .acczDone c, .core .accfillDone c] else []) ++
    (if k.eng.mx.isSome then [Due.core .mxComplete c, .core .fillerBlock c] else []) ++
    (k.pairsByTrigger.map (k.pairSteps c)).flatten ++
    ((k.eng.streams.filter fun e => !e.2.wbuf.isEmpty).map fun e => Due.stream true c e.1)
/-- Results, landings, and effects that leave the commit buffer. -/
def Core.resultSteps (k : Core) (c : Nat) : List Due :=
  (if k.pipe.items.isEmpty then [] else [Due.core .result c, .core .landing c]) ++
    k.cbuf.map (fun _ => Due.core .drain c) ++ (if k.tlbWaits.isEmpty then [] else [Due.core .drain c])
/-- Starts and reads of the engines in the run cycle that is next. -/
def Core.startSteps (k : Core) (c : Nat) : List Due :=
  (if k.eng.mx.isSome || k.eng.mxWait.isSome then [Due.start c 0, .core .mxRead c] else []) ++
    (if k.eng.acc.isSome then [Due.start c 1, .core .accRead c] else []) ++
    (if k.eng.xb.isEmpty then [] else [Due.start c 2]) ++
    (k.busyPairs.map fun p => Due.pair .lineRead c p) ++
    ((k.eng.streams.filter fun e => decide (e.2.st = 2)).map fun e => Due.stream false c e.1) ++
    (if k.pipe.items.isEmpty then [] else [Due.core .replay c])
/-- What a core takes at its boundary: a pending cause, a forced save, or, idle, a cause with no task or a record. -/
def State.boundarySteps (s : State) (c : Nat) : List Due :=
  let k := s.core c
  if k.runs then
    [.core .trap c] ++ (if k.ctl.prompt.isSome then [Due.core .preempt c, .core .saveRetry c] else [])
  else if k.mode = .idle ∧ !k.halted then
    (if (s.notaskCtx c).isSome then [Due.core .notask c] else []) ++
      (if (s.nextRecord c).isSome then [Due.core .dispatch c] else [])
  else []
/-- Everything that may be due on core `c` before its clock cycle, in order. -/
def State.coreSteps (s : State) (c : Nat) : List Due :=
  let k := s.core c
  k.resultSteps c ++ k.startSteps c ++ s.boundarySteps c

/-! ### The detached agents -/

/-- Steps of the copy channels of a core. -/
def Core.channelSteps (k : Core) (c : Nat) : List Due :=
  (k.cp.ch.map fun e =>
    let ch := e.1
    let x := e.2
    (if x.pend.isEmpty then [] else [Due.chan .accept c ch]) ++
      (if x.act.isSome ∨ x.st ≠ 0 then
        [Due.chan .activate c ch, .chan .acquire c ch, .chan .index c ch, .chan .lineDone c ch, .chan .fault c ch,
         .chan .finish c ch, .chan .abortDrain c ch]
       else []) ++
      (if x.follow.isSome then [Due.chan .handover c ch] else [])).flatten ++
    (if k.cp.ch.isEmpty then [] else [.core .copyRequest c])
/-- Steps of a core's detached commands: channels, tier commands, at operations, step events. -/
def Core.agentSteps (k : Core) (c : Nat) : List Due :=
  k.channelSteps c ++ (if k.slots.entries.isEmpty then [] else [.core .reduceAdmit c]) ++ (if k.tier.isEmpty then [] else [.core .tierAccept c]) ++
    ((List.range k.ats.length).map fun n => [Due.atOp 0 c n, .atOp 1 c n, .atOp 2 c n]).flatten ++
    (if k.stepPend.isEmpty then [] else [.core .stepEvent c])

/-- Steps of the call board of a die. -/
def State.boardSteps (s : State) (d : Nat) : List Due :=
  let b := (s.die d).board
  b.ports.map (fun x => Due.die .launch d x.ctx) ++
    ((b.launches.filter fun e => decide (0 < e.2.todo)).map fun e => Due.die .recordCreate d e.1) ++
    b.intok.map (fun t => Due.ctx .token d t.ctx t.tok) ++
    b.arrivals.map (fun a => Due.ctx .arrival d a.ctx a.b) ++
    b.notices.map (fun n => Due.ctx .packageRelease d n.ctx n.b) ++
    (b.notices.map fun n => (List.range 8).map fun q => Due.cluster d n.ctx n.b q).flatten ++
    (b.recs.map fun e =>
      if e.2.run then []
      else if e.2.ready then (if e.2.readyAt + 256 ≤ s.clk then [Due.die .prompt d e.1] else [])
      else match e.2.wait with
        | .timer t => if t ≤ s.ts then [Due.die .timer d e.1] else []
        | _ => [Due.die .recordReady d e.1]).flatten
/-- Steps of the memory of a die: its controller's queues, banks, tensor stacks and leases. -/
def State.memorySteps (s : State) (d : Nat) : List Due :=
  let m := (s.die d).mc
  (m.waiting.map fun e => List.replicate e.2.length (Due.die .hbmAdmit d e.1)).flatten ++
    m.queues.map (fun e => Due.die .hbmComplete d e.1) ++
    m.openRow.map (fun e => Due.die .bankIdle d e.1) ++ (if s.scrubReady d then [.die .scrub d 0] else []) ++
    ((s.die d).tier.map fun e =>
      ((List.range e.2.jobs.length).map fun n => [Due.ctx .push d e.1 n, .ctx .pop d e.1 n]).flatten ++
        (if e.2.entries.isEmpty && e.2.leaving.isEmpty then [] else [Due.die .spill d e.1, .die .return_ d e.1]) ++
        (e.2.leases.map fun l =>
          if l.2.st = 4 then [Due.ctx .leaseDeadline d e.1 l.1] else if l.2.st = 6 then [.ctx .leaseDrained d e.1 l.1] else []).flatten).flatten
/-- Steps of the slew limiters of a die: they see the draw of the clock cycle that begins, after the ends of the run
cycles that have passed and before this cycle's starts (15 R337, R338). -/
def State.slewSteps (s : State) (d : Nat) : List Due :=
  if s.clk % 4 = 0 then ((List.range 8).filter fun q => s.cores.any fun e =>
      decide (dieOf e.1 = d) && decide (clusterOf e.1 = q)).map fun q => Due.die .slewStep d q
  else ((s.die d).slew.filter fun e => !e.2.waiting.isEmpty).map fun e => Due.die .slewGrant d e.1
/-- Steps of the surveys, the frequency and the debug block of a die. -/
def State.blockSteps (s : State) (d : Nat) : List Due :=
  let x := s.die d
  ((x.deltas.filter fun y => y.old s.clk).map fun y => Due.die .deltaSend d y.sv) ++
    x.inDeltas.map (fun _ => Due.die .deltaMerge d 0) ++
    (if s.clk % 512 = 0 then (x.surveys.filter fun e => SvRec.fwd e.2).map fun e => Due.die .mirror d e.1 else []) ++
    (if x.ftgt = x.fcur then [] else [.die .frequency d 0]) ++
    (((List.range 64).filter fun c => (bitAt x.dbg.stop c && !bitAt x.dbg.halted c) || bitAt x.dbg.drain c).map fun c =>
      Due.die .haltDrain d c)
/-- The host's side: the end of a verification, or the next command of the ring. -/
def State.hostStep (s : State) : Host.Outcome State Fault Refusal :=
  let h := s.pkg.host
  if h.phase = 1 then execImageVerifyDone s
  else if !h.posted.isEmpty then go s (W.of s).postHost
  else match h.ring with
    | [] => if h.phase = 4 && !s.pkg.closing.isEmpty then go s (W.of s).closeAll else .next s
    | cmd :: _ =>
      match bits cmd 0 8 with
      | 1 => execHostLaunch cmd s
      | 2 => execSignal cmd s
      | 3 => execReadsync cmd s
      | 4 => execAttest cmd s
      | 5 => execOpenCtx cmd s
      | 6 => execCloseCtx cmd s
      | _ => execUnknownHostCommand cmd s
/-- Everything the detached agents of die `d` may do in its clock cycle, in order; then the ends of every core's run cycle
that has passed, and the limiters. The host's side and the notices inside the package follow die 0's clock (log 11). -/
def State.agentSteps (s : State) (d : Nat) : List Due :=
  let own := s.cores.filter fun e => decide (dieOf e.1 = d)
  (if d = 0 then [.host] ++ s.pkg.sent.map fun n => Due.notice n.1 n.2.1 n.2.2.1.toNat n.2.2.2 else []) ++
    s.blockSteps d ++ s.boardSteps d ++ s.memorySteps d ++
    (own.map fun e => e.2.agentSteps e.1).flatten ++ (own.map fun e => e.2.endSteps e.1).flatten ++ s.slewSteps d

/-! ### What a step that is laid out does -/

def CoreStep.run (k : CoreStep) (c : Nat) (s : State) : Host.Outcome State Fault Refusal :=
  match k with
  | .accspillLine => execAccspillLine c s
  | .acczDone => execAcczDone c s
  | .accfillDone => execAccfillDone c s
  | .mxComplete => execMxComplete c s
  | .fillerBlock => execFillerRampBlock c s
  | .result => execResultCompletion c s
  | .landing => execLoadLanding c s
  | .drain => execCommitBufferDrain c s
  | .replay => execReplayEntryEffect c s
  | .mxRead => execMxStepRead c s
  | .accRead => execAccfillLineRead c s
  | .trap => execTrapEntry c s
  | .preempt => execPreemptForced c s
  | .saveRetry => execForcedSaveRetry c s
  | .notask => execNotaskEntry c s
  | .dispatch => execDispatch c s
  | .copyRequest => execCopyRequestIssue c s
  | .reduceAdmit => execReduceAdmit c s
  | .tierAccept => execTierAccept c s
  | .stepEvent => match (s.core c).stepPend with | ev :: _ => execStepEvent c ev s | [] => .next s
def PairStep.run (k : PairStep) (c p : Nat) (s : State) : Host.Outcome State Fault Refusal :=
  match k with
  | .settleEnd => execXbSettleEnd c p s
  | .output => execXbOutputWrite c p s
  | .xspr => execXsprOutputWrite c p s
  | .xupd => execXupdSlot c p s
  | .xfer => execXferSlot c p s
  | .xrdavg => execXrdavgColumn c p s
  | .xprg => execXprgColumn c p s
  | .xrst => execXrstApply c p s
  | .xspw => execXspwApply c p s
  | .modeTake => execXbModeTake c p s
  | .status => execXbStatus c p s
  | .lineRead => execXbLineRead c p s
def ChanStep.run (k : ChanStep) (c ch : Nat) (s : State) : Host.Outcome State Fault Refusal :=
  match k with
  | .accept => execCopyAccept c ch s
  | .activate => execCopyActivate c ch s
  | .acquire => execCopyAcquireDone c ch s
  | .index => execGatherIndexTake c ch s
  | .lineDone => execCopyLineDone c ch s
  | .fault => execCopyFault c ch s
  | .finish => execCopyFinish c ch s
  | .abortDrain => execCopyAbortDrain c ch s
  | .handover => execFollowOnHandover c ch s
def DieStep.run (k : DieStep) (d n : Nat) (s : State) : Host.Outcome State Fault Refusal :=
  match k with
  | .launch => go s ((W.of s).handleLaunch d n)
  | .recordCreate => execRecordCreate d n s
  | .prompt => execPrompt d n s
  | .timer => execTimerWaitExpire d n s
  | .recordReady => execRecordReady d n s
  | .hbmAdmit => execHbmAdmit d { n := n } s
  | .hbmComplete => execHbmComplete d n s
  | .bankIdle => execBankIdlePrecharge d n s
  | .deltaSend => execSurveyDeltaSend d n s
  | .mirror => execSurveyMirrorRefresh d n s
  | .slewStep => execSlewStepBoundary d n s
  | .slewGrant => execSlewGrant d n s
  | .haltDrain => execHaltDrainDone d n s
  | .spill => execSpillEntry d n s
  | .return_ => execReturnEntry d { ctx := n } s
  | .scrub => execScrubRow d [] s
  | .deltaMerge => execSurveyDeltaMerge d s
  | .frequency => execFrequencyChangeDone d s
def CtxStep.run (k : CtxStep) (d x n : Nat) (s : State) : Host.Outcome State Fault Refusal :=
  match k with
  | .token => execTokenArrive d x n s
  | .arrival => execBarrierArrival d x n s
  | .push => execTierPushData d x { n := n } s
  | .pop => execTierPopData d x { n := n } s
  | .leaseDeadline => execLeaseDeadline d x n s
  | .leaseDrained => execLeaseDrained d x n s
  | .packageRelease => execPackageRelease x n s
/-- A step that is laid out, run. -/
def Due.run (e : Due) (s : State) : Host.Outcome State Fault Refusal :=
  match e with
  | .core k c => k.run c s
  | .start c e => execEngineStartCycle c e s
  | .stream true c n => execStreamWriteDrain c n s
  | .stream false c n => execStreamRun c n s
  | .pair k c p => k.run c p s
  | .chan k c ch => k.run c ch s
  | .atOp 0 c n => execAtPerform c n s
  | .atOp 1 c n => execReleasePerform c n s
  | .atOp 2 c n => execAwaitgeSatisfied c n s
  | .die k d n => k.run d n s
  | .ctx k d x n => k.run d x n s
  | .cluster d x b q => execClusterRelease d x b q s
  | .notice x b gen trel => execBarrierNoticeArrive x b gen trel s
  | .host => s.hostStep

/-! ### The clock cycle of a core -/

/-- The instruction of a running core's clock cycle: its held bundle or merged issue, the sequencer's next merged issue,
or the bundle at its program counter as its encoding version decodes it (01 R10, R38). -/
def State.clockInstr (s : State) (c : Nat) : Option Instr :=
  let k := s.core c
  if 0 < k.pipe.held then
    some (if bits k.ctl.wdg 0 32 ≤ k.pipe.held then .watchdogTimeout c else .holdRelease c)
  else if k.seq.on then some (.mergedIssue c)
  else (s.fetchAt c).map fun b => if (s.env c).ver = 3 then decodeBundle b else .bundleIssue b

/-- A clock cycle that a timing-error replay takes (13 R303). -/
def W.replayCycle (w : W) (c : Nat) : W := w.modCore c fun k => k.modPipe fun p => { p with replay := p.replay - 1 }
/-- An idle core whose engines still work for the task that left passes a wait cycle. -/
def Core.engineWork (k : Core) : Bool :=
  k.eng.mx.isSome || k.eng.mxWait.isSome || k.eng.acc.isSome || !k.eng.xb.isEmpty || !k.cp.follows.isEmpty
def W.idleCycle (w : W) (c : Nat) : W :=
  let k := w.core c
  if k.mode = .idle ∧ !k.halted ∧ k.engineWork ∧ k.gate w.clk = none then w.waitCycle c else w

/-- The next core of its die after `c` whose state is listed; `none` after the last. -/
def State.nextCore (s : State) (c : Nat) : Option Nat :=
  (s.cores.find? fun e => decide (c < e.1) && decide (dieOf e.1 = dieOf c)).map (·.1)
/-- The first core of a die whose state is listed, or the die's first. -/
def State.firstCore (s : State) (d : Nat) : Nat := ((s.cores.find? fun e => decide (dieOf e.1 = d)).map (·.1)).getD (128 * d)
/-- The period of die `d`'s clock: 40 / FCUR nanoseconds, in units of 10^-9 ns, as the timestamp counts them at its
corrected rate (R323). -/
def State.period (s : State) (d : Nat) : Nat :=
  (40 * (1000000000 + 1000 * s.pkg.ppm)).toNat / Nat.max 1 (s.die d).fcur.toNat
/-- The die whose clock edge is next; of several the lowest (log 11). -/
def State.nextDie (s : State) : Nat :=
  (List.range 8).foldl (fun d e => if Tab.get 0 s.edges e < Tab.get 0 s.edges d then e else d) 0
/-- The clock cycle of die `d` is over: the time of the next clock edge of the package comes, and the timestamp with it. -/
def State.tick (s : State) (d : Nat) : State :=
  let start := Tab.get 0 s.edges d
  let s := { s with clocks := Tab.put 0 s.clocks d (s.clk + 1), edges := Tab.put 0 s.edges d (start + s.period d) }
  let e := s.nextDie
  let t := s.tsFrac + (Tab.get 0 s.edges e - start)
  { s with clk := Tab.get 0 s.clocks e, ts := s.ts + t / 1000000000, tsFrac := t % 1000000000, focus := s.firstCore e }
/-- The clock cycle of core `c` is over: that of its die's next core follows, or of the die whose clock edge is next. -/
def State.advance (s : State) (c : Nat) : State :=
  match s.nextCore c with
  | some n => { s with focus := n, laid := false }
  | none => { s.tick (dieOf c) with agents := true, laid := false }

/-- After the clock cycle of core `c`, `pre` before it: a follow-on starts in a run cycle that passed (04 R98), and the
focus moves on. -/
def State.endCycle (pre s : State) (c : Nat) : State :=
  let w := W.of s
  let w := if (w.core c).pipe.run = (pre.core c).pipe.run + 1 then w.followOn pre c followTrig else w
  (w.commit s).advance c

/-- The clock cycle of the focused core. -/
def State.cycle (s : State) : Host.Outcome State Fault Refusal :=
  let c := s.focus
  let k := s.core c
  if k.runs then
    if 0 < k.pipe.replay then .next (s.endCycle (((W.of s).replayCycle c).commit s) c)
    else match s.clockInstr c with
      | none => .fault .fetchUnheld
      | some i =>
        match exec i s with
        | .next t => .next (s.endCycle t c)
        | r => r
  else .next (s.endCycle (((W.of s).idleCycle c).commit s) c)

/-! ### The step -/

/-- An instruction that the outside or a detached agent makes on its own: no slot operation and no issue of a bundle. -/
def outside (i : Instr) : Bool :=
  match i with
  | .bundleIssue _ | .holdRelease _ | .mergedIssue _ | .watchdogTimeout _ | .followOnIssue _ => false
  | i => (encodeSlot i).isNone

/-- The steps of the part of the clock cycle that comes next are laid out. -/
def State.lay (s : State) : State :=
  let s := if s.todo.isEmpty && s.agents then { s with todo := s.agentSteps (dieOf s.focus), agents := false } else s
  if s.todo.isEmpty && !s.laid then { s with todo := s.coreSteps s.focus, laid := true } else s

/-- One step: what is chosen from outside comes first, then what is laid out, then the focused core's clock cycle. -/
def State.stepOnce (s : State) : Host.Outcome State Fault Refusal :=
  match s.agenda with
  | i :: l => if outside i then exec i { s with agenda := l } else .next { s with agenda := l }
  | [] =>
    let s := s.lay
    match s.todo with
    | e :: l => e.run { s with todo := l }
    | [] => s.cycle

end Sys2Proof.Machine
end

