-- ==== Sys2Proof/Machine/Step.lean ====
section
/-!
DEFINITION. One step of the machine, and the state in which a step runs a word of the opcode table.
-/

namespace Sys2Proof.Machine

/-- One step (log 3). -/
def step (s : State) : Host.Outcome State Fault Refusal := s.stepOnce

/-- A state whose next step runs the instruction of table word `w`: a loaded program (log 5). -/
def State.withFetchWord (s : State) (_nbits w : Nat) : State :=
  s.withProgram (tableWordBundle (BitVec.ofNat 32 w))

end Sys2Proof.Machine
end

