-- ==== Sys2Proof/Safety.lean ====
section
/-!
DEFINITION. What a safe run is: no step of it stops with a fault or a refusal, and memory stays in its canonical form; and
the words in which statements speak of a bundle that issues: the core whose clock cycle it is, when it can issue, and the
state that the issue leaves.
-/

namespace Sys2Proof

open Machine

/-- The state after `n` steps, if none of them stops. -/
def stepsTo : Nat → State → Option State
  | 0, s => some s
  | n + 1, s =>
    match step s with
    | .next t => stepsTo n t
    | _ => none

/-- The first `n` steps from `s` go on. -/
def SafeFor (n : Nat) (s : State) : Prop := (stepsTo n s).isSome

/-- A run is safe. -/
def Safe (s : State) : Prop := ∀ n, SafeFor n s

/-- HBM is in canonical form. -/
def MemWf (s : State) : Prop := Mem.wf s.mem = true

/-! ### A bundle that issues (01 R19; 06 R147) -/

namespace Machine

/-- The core whose clock cycle it is. -/
abbrev State.now (s : State) : Core := s.core s.focus

/-- That core can issue a bundle of energy class `cls` in this clock cycle: it runs, nothing that is due is late, no wait
cycle of a resume remains, no BKPT is passed, and the governor admits the class (05 R129; 13 R301; 15 R335). -/
def CanIssue (s : State) (cls : Nat) : Prop :=
  s.now.runs = true ∧ s.now.gate s.clk = none ∧ s.now.pipe.pre = 0 ∧ s.now.bkpt = false ∧
    s.now.admits s.clk cls = true

/-- The next bundle in program order lies in the code range (06 R149). -/
def InRange (s : State) : Prop :=
  (s.env s.focus).lo ≤ s.now.pcAddr + 32 ∧ s.now.pcAddr + 32 < (s.env s.focus).hi

/-- A core after a bundle without any other effect: the next bundle in program order follows, the format pipeline advances
(02 R66). -/
def Core.nextBundle (k : Core) : Core := (k.setPc (k.pcAddr + 32)).modCtl fun r => { r with fmt := fmtShift r.fmt }

/-- The same with the release fence that control word `w` leaves (11 R262). -/
def Core.nextAfter (w : BitVec 32) (k : Core) : Core := { k.nextBundle with relFence := fenceAfter w k.relFence }

/-- The clock cycle of a bundle that issues is over: its energy class is charged, the run cycle passes, nothing is held. -/
def Core.cycled (k : Core) (clk charge : Nat) : Core :=
  { (k.charge clk charge).modPipe (fun p => { p with run := p.run + 1, held := 0 }) with bkpt := false, stepArm := false }

/-- The state after the issue of a bundle of class `cls` that leaves `k` as the issuing core, everything else unchanged. -/
def issued (s : State) (cls : Nat) (k : Core) : State :=
  { s with cores := Tab.set s.cores s.focus (k.cycled s.clk (s.now.weight cls)) }

/-! ### Targets and traps -/

/-- A byte address that a branch may reach: in the code range and a multiple of 32 (06 R149). -/
def Reachable (s : State) (x : Int) : Prop :=
  ((s.env s.focus).lo : Int) ≤ x ∧ x < ((s.env s.focus).hi : Int) ∧ x % 32 = 0

/-- The state after the bundle `b` of the core whose clock cycle it is has raised the precise trap `x`. -/
def trapped (s : State) (b : BitVec 256) (x : Cause) : State :=
  ((W.of s).trapAt s.focus (Bundle.ofBits s.now.pcAddr b) x).commit s

/-- A core after a held clock cycle with hold reason `r`: the watchdog and HCY count (05 R129; 13 R305). -/
def Core.heldFor (k : Core) (r : Nat) : Core :=
  { k with ctl := { k.ctl with hcy := k.ctl.hcy + 1 }, pipe := { k.pipe with held := k.pipe.held + 1, holdR := r } }
/-- The state after a held clock cycle of that core: nothing else happens. -/
def heldFor (s : State) (r : Nat) : State := { s with cores := Tab.set s.cores s.focus (s.now.heldFor r) }

/-- A core after a wait cycle: the run cycle passes without a bundle (06 R147). -/
def Core.waited (k : Core) (clk : Nat) : Core :=
  { (k.charge clk (k.weight 0)).modPipe (fun p => { p with run := p.run + 1, held := 0, pre := p.pre - 1 }) with
    stepArm := false }
/-- The state after a wait cycle of that core. -/
def waited (s : State) : State := { s with cores := Tab.set s.cores s.focus (s.now.waited s.clk) }

/-! ### What a step leaves alone -/

/-- Nothing has changed but core `c`, and the model's own count of free values. -/
def OnlyCore (s t : State) (c : Nat) : Prop :=
  t.mem = s.mem ∧ t.dies = s.dies ∧ t.pkg = s.pkg ∧ t.clk = s.clk ∧ t.ts = s.ts ∧ ∀ e, e ≠ c → t.core e = s.core e
/-- Nothing has changed but die `d`, and the model's own count of free values. -/
def OnlyDie (s t : State) (d : Nat) : Prop :=
  t.mem = s.mem ∧ t.cores = s.cores ∧ t.pkg = s.pkg ∧ t.clk = s.clk ∧ t.ts = s.ts ∧ ∀ e, e ≠ d → t.die e = s.die e
/-- Nothing has changed but the package registers, and the model's own count of free values. -/
def OnlyPkg (s t : State) : Prop :=
  t.mem = s.mem ∧ t.cores = s.cores ∧ t.dies = s.dies ∧ t.clk = s.clk ∧ t.ts = s.ts
/-- A byte of HBM. -/
def State.hbm (s : State) (a : Nat) : Byte := Mem.get s.mem a

/-! ### A move slot that issues alone (01 R15, R27, R29) -/

/-- A bundle and a slot outside a loop body: a source reads the same whichever they are. -/
def plainBundle : Bundle := Bundle.ofBits 0 0
def plainSlot : SlotWork := { slot := 1, w := 0, it := 0 }

/-- Source id `sid` names the source `src`, whose value before the bundle is `v` (01 R27). -/
def Reads (s : State) (sid : BitVec 12) (src : Src) (v : Line) : Prop :=
  srcOf (s.env s.focus).ver sid.toNat = some src ∧
    readSrc s.focus s (s.env s.focus) plainBundle plainSlot src = .ok v

/-- The core after its bundle has read `src`: a stream has advanced (05 R136). -/
def Core.took (k : Core) (src : Src) : Core :=
  match src with
  | .stream n => k.setStream n (k.stream n).advance
  | _ => k

/-- A slot with guard `g` and source id `sid` that triggers `id` (0 where it moves a value and triggers nothing) takes value
`v`: its bundle can issue, the next bundle is in range, the task's encoding version gives the id that meaning (01 R38), the
guard is true, the source is readable, and no acquire that is pending holds it (11 R256). -/
structure Fires (s : State) (g : BitVec 4) (sid : BitVec 12) (id : Nat) (src : Src) (v : Line) : Prop where
  can : CanIssue s 0
  range : InRange s
  ver : canonId (s.env s.focus).ver id = some id
  guard : guardOn s.now.regs g = true
  reads : Reads s sid src v
  free : s.now.acqPending = true → acqUnit id = false ∧ ∀ n, src ≠ .window n

/-- The replay queue has room for everything unfinished on core `k` (13 R299). -/
def Core.Room (k : Core) : Prop := k.replayUse.1 ≤ 48 ∧ k.replayUse.2 ≤ 30

/-- Nothing is unfinished on core `k` (13 R298). -/
def Core.Quiet (k : Core) : Prop :=
  k.pipe.items = [] ∧ k.eng.mx = none ∧ k.eng.mxWait = none ∧ k.eng.acc = none ∧ k.eng.xb = [] ∧ k.cp.follows = [] ∧
    k.tier = []

/-- The core on which the trigger acts: the source taken, the next bundle in order, one trigger more. -/
def Core.fired (k : Core) (src : Src) : Core := (k.took src).nextBundle.modPipe fun p => { p with seq := p.seq + 1 }

/-- The value that a trigger port takes: a line, or a word (01 R29). -/
def trigValue (id : Nat) (v : Line) : Line := if lineTrig id then v else lineOf (scalarOf v)

/-- The core with one more unfinished operation (06 R145). -/
def Core.withItem (k : Core) (it : Item) : Core := k.modPipe fun p => { p with items := p.items ++ [it] }

/-- The unfinished operation of trigger `id` in the bundle that is next: it writes the result ports `wr` after `lat` run
cycles (06 R145, R146). -/
def trigItem (s : State) (id : Nat) (m : BitVec 4) (lat : Nat) (a b : Word) (wr : List (Nat × Line)) : Item :=
  { kind := .dig, id := id, m := m, seq := s.now.pipe.seq, due := s.now.pipe.run + lat, a := a, b := b, wr := wr
    bpc := word s.now.pcAddr }

/-- Wherever the slot `i f` fires with value `v` under condition `P` and the replay queue has room for what it leaves, its
bundle issues, and what it does is `eff s f v`, on the issuing core alone. -/
def TriggersIf (id : Nat) (i : Slot → Instr) (P : State → Slot → Line → Prop) (eff : State → Slot → Line → Core → Core) :
    Prop :=
  ∀ (s : State) (f : Slot) (src : Src) (v : Line), Fires s f.g f.s id src v → P s f v →
    (eff s f v (s.now.fired src)).Room → exec (i f) s = .next (issued s 0 (eff s f v (s.now.fired src)))

/-- The same without a further condition. -/
def Triggers (id : Nat) (i : Slot → Instr) (eff : State → Slot → Line → Core → Core) : Prop :=
  TriggersIf id i (fun _ _ _ => True) eff

/-- Wherever the slot `i f` fires with value `v` under condition `P` and the replay queue has room, its bundle raises the precise trap `x s f v` and takes
no effect (01 R20). -/
def TrapsIf (id : Nat) (i : Slot → Instr) (P : State → Slot → Line → Prop) (x : State → Slot → Line → Cause) : Prop :=
  ∀ (s : State) (f : Slot) (src : Src) (v : Line), Fires s f.g f.s id src v → P s f v → (s.now.fired src).Room →
    exec (i f) s = .next (trapped s ((encode (i f)).getD 0) (x s f v))

/-- Wherever the slot `i f` fires with value `v` under condition `P`, before the watchdog's limit, its bundle is held with
reason `r` and takes no effect (01 R20; 13 R305). -/
def HoldsIf (id : Nat) (i : Slot → Instr) (P : State → Slot → Line → Prop) (r : Nat) : Prop :=
  ∀ (s : State) (f : Slot) (src : Src) (v : Line), Fires s f.g f.s id src v → P s f v →
    s.now.pipe.held < bits s.now.ctl.wdg 0 32 → exec (i f) s = .next (heldFor s r)

/-- An integer operation of unit `u`: after `lat` run cycles the unit's result port takes `r` of the operand port, the
trigger value and the modifier (06 R159). -/
def IntegerOp (u : BitVec 1) (i : BitVec 1 → Slot → Instr) (op lat : Nat) (r : Word → Word → BitVec 4 → Word) : Prop :=
  Triggers (intPort u + op) (i u) fun s f v k =>
    let a := s.now.regs.portW (intPort u)
    k.withItem (trigItem s (intPort u + op) f.m lat a (scalarOf v) [(intPort u, lineOf (r a (scalarOf v) f.m))])

/-! ### The vector and function units (07 R166, R167, R182) -/

/-- A vector operation without a legend: `lat` run cycles after the trigger the ports take what `wr` gives of the modifier,
a = `vec.o`, b = the trigger line and c = `vec.o2`; the captured inputs are `b`, with `a` and `c` where it reads them
(13 R300; log 18). -/
def VectorOp (id : Nat) (i : Slot → Instr) (lat : Nat) (useA useC : Bool)
    (wr : Bool → BitVec 4 → Line → Line → Line → List (Nat × Line)) : Prop :=
  Triggers id i fun s f b k =>
    let a := s.now.regs.port 0x1c0
    let c := s.now.regs.port 0x1c1
    k.withItem { trigItem s id f.m lat 0 0 (wr (f.m.getLsbD 0) f.m a b c) with
      lines := (if useA then [a] else []) ++ [b] ++ (if useC then [c] else []) }

/-- A lane operation: each lane of `vec.r` is the exact value of `op` on the lanes of a, b and c, rounded (07 R166, R168). -/
def LaneOp (id : Nat) (i : Slot → Instr) (lat : Nat) (useA useC : Bool) (op : FNum → FNum → FNum → FNum) : Prop :=
  VectorOp id i lat useA useC fun fp _ a b c =>
    [(0x1c0, packNums fp (((numLanes fp a).zip ((numLanes fp b).zip (numLanes fp c))).map fun x => op x.1 x.2.1 x.2.2))]

/-- A vector operation whose result is a word in `vec.m`. -/
def MaskOp (id : Nat) (i : Slot → Instr) (lat : Nat) (useA : Bool)
    (r : Bool → BitVec 4 → Line → Line → Nat) : Prop :=
  VectorOp id i lat useA false fun fp m a b _ => [(0x1c1, lineOf (word (r fp m a b)))]

/-- A function of the function unit: each lane of `sfn.r` is that of the trigger line under function `n`, 12 run cycles
after the trigger. -/
def FunctionOp (n : Nat) (i : Slot → Instr) : Prop :=
  Triggers (0x200 + n) i fun s f b k =>
    let fp := f.m.getLsbD 0
    k.withItem { trigItem s (0x200 + n) f.m 12 0 0
        [(0x200, packRaw fp ((rawLanes fp b).map fun x => fnLane (if fp then 23 else 7) n x))] with lines := [b] }

/-- No at operation and no STA of core `c`'s task that is not performed touches tile `x` of its store (11 R260). -/
def State.TileQuiet (s : State) (c x : Nat) : Prop :=
  ∀ a ∈ s.ownOpen c, overlap (s.atSpan a) (some (c * 2 ^ 35 + 0x1000000 + 20480 * x, 20480)) = false

/-- No AWAITGE of this package pends whose word has reached its value: a write elsewhere lets none be performed (11 R254). -/
def State.NoneDue (s : State) : Prop :=
  ∀ c, ∀ a ∈ (s.core c).ats, a.op = 0x28b → a.far = false → s.reached a.ctx a.addr a.x = false

/-- No AWAITGE is registered at this package's words: a write to one lets none be performed (11 R254). -/
def State.NoAwait (s : State) : Prop := ∀ c, ∀ a ∈ (s.core c).ats, a.op ≠ 0x28b

/-! ### Own lines (05 R128, R130, R138..R140) -/

/-- The effective address of an own-line access: trigger value plus `ls.m`. -/
def lsEa (s : State) (v : Line) : Nat := (scalarOf v + s.now.regs.portW 0x181).toNat

/-- The core may access the `n` aligned bytes at own-line address `ea`. -/
def OwnAccess (s : State) (id n ea : Nat) : Prop :=
  ea < 2 ^ 22 ∧ lineCheck s s.focus (s.env s.focus) true 1 id (ea / 128) = none ∧ ea % n = 0

/-- The landing that a load of `id` leaves: it lands after the class's run cycles, with the data that `wr` gives
(05 R128, R131; log 62). -/
def landing (s : State) (id : Nat) (m : BitVec 4) (ea rdy : Nat) (wr : List (Nat × Line)) : Item :=
  { kind := .res, id := id, m := m, seq := s.now.pipe.seq
    due := s.now.pipe.run + [4, 6, 8, 12, 16, 24, 32, 64].getD (m.toNat % 8) 4, a := word ea, rdy := s.clk + rdy, wr := wr
    bpc := word s.now.pcAddr }

/-- An own-line load of `n` bytes: where the line holds no uncorrectable error and is present, or the load probes (m bit 3), and its landing meets no other,
it takes the line's value under `val` and, when it probes, the presence bit. -/
def LoadOp (id n : Nat) (i : Slot → Instr) (port : Nat) (val : Line → Nat → Line) : Prop :=
  TriggersIf id i
    (fun s f v => OwnAccess s id n (lsEa s v) ∧ s.now.soft.contains (lsEa s v / 128) = false ∧ (s.now.present (lsEa s v / 128) = true ∨ f.m.getLsbD 3 = true) ∧
      s.now.landingClash (loadPorts id f.m) (s.now.pipe.run + landingClass f.m) = none)
    (fun s f v k =>
      let ln := lsEa s v / 128
      let probe := if f.m.getLsbD 3 then [(0x181, lineOf (if s.now.present ln then 1 else 0))] else []
      k.withItem (landing s id f.m (lsEa s v) 4 ((port, val (s.now.line ln) (lsEa s v % 128)) :: probe)))

/-- An own-line store of `n` bytes at `ea s v`: the line takes `val` of its old value, `ls.o` and the byte offset; nothing
else changes. -/
def StoreOp (id n : Nat) (i : Slot → Instr) (ea : State → Line → Nat) (val : State → Line → Line → Nat → Line) : Prop :=
  TriggersIf id i (fun s _ v => OwnAccess s id n (ea s v)) (fun s _ v k =>
    k.setLine (ea s v / 128) (val s (s.now.line (ea s v / 128)) (s.now.regs.port 0x180) (ea s v % 128)))

end Machine

end Sys2Proof
end

