-- ==== Sys2Proof/WellFormed.lean ====
section
/-!
DEFINITION. Which instructions are well formed: the operand fields of an encoded instruction hold a value its encoding
admits, and the arguments of a step or event name something the package has.
-/

namespace Sys2Proof

/-- A destination id that is neither a trigger port nor a hint, so that a move names it (R24). -/
def plainDest (d : BitVec 12) : Bool :=
  decide (d.toNat < 0xF00) && (triggerInstr d.toNat ⟨0, 0, 0⟩).isNone

/-- A core number of the package. -/
def coreOk (c : Nat) : Bool := decide (c < 1024)
/-- A stage die number. -/
def dieOk (d : Nat) : Bool := decide (d < 8)
/-- A context number. -/
def ctxOk (x : Nat) : Bool := decide (x < 64)
/-- A copy channel, a stream or a tile pair of a core. -/
def chOk (k : Nat) : Bool := decide (k < 8)

/-- Well-formedness, one arm per constructor. -/
def Instr.wf : Instr → Bool
  | .bundleIssue b => decide (decodeBundle b = .bundleIssue b)
  | .holdRelease c => coreOk c
  | .mergedIssue c => coreOk c
  | .watchdogTimeout c => coreOk c
  | .resultCompletion c => coreOk c
  | .loadLanding c => coreOk c
  | .engineStartCycle c e => coreOk c && decide (e < 3)
  | .streamRun c k => coreOk c && chOk k
  | .streamWriteDrain c k => coreOk c && chOk k
  | .registerWrite a _ => decide (a < 2 ^ 48 + 2 ^ 26 + 8)
  | .move g d s m => plainDest d && decide (moveWord g d s m ≠ 0)
  | .hint _ _ _ _ => true
  | .cnop _ => true
  | .br _ _ => true
  | .brp _ _ _ _ => true
  | .call _ _ => true
  | .ret _ => true
  | .jr _ _ => true
  | .loopm _ _ t _ => decide (t ≠ 0)
  | .loopx _ => true
  | .lit _ _ => true
  | .lith _ _ => true
  | .setfmt _ _ => true
  | .setwin _ _ _ => true
  | .start _ _ _ _ => true
  | .waite _ m => decide (m.toNat < 64)
  | .fence _ _ k => decide (k.toNat < 4)
  | .suspend _ k n _ => decide (k.toNat < 6) && !(decide (k = 2) && decide (n = 63))
  | .yield _ => true
  | .trap _ _ => true
  | .rtrap _ => true
  | .bkpt _ => true
  | .chint _ _ _ => true
  | .add _ _ => true
  | .sub _ _ => true
  | .mul _ _ => true
  | .mulh _ _ => true
  | .mulhu _ _ => true
  | .div _ _ => true
  | .divu _ _ => true
  | .rem _ _ => true
  | .remu _ _ => true
  | .and _ _ => true
  | .or _ _ => true
  | .xor _ _ => true
  | .andn _ _ => true
  | .orn _ _ => true
  | .shl _ _ => true
  | .shr _ _ => true
  | .sar _ _ => true
  | .rol _ _ => true
  | .min _ _ => true
  | .max _ _ => true
  | .minu _ _ => true
  | .maxu _ _ => true
  | .clz _ _ => true
  | .ctz _ _ => true
  | .popc _ _ => true
  | .bswap _ _ => true
  | .sext _ _ => true
  | .zext _ _ => true
  | .bext _ _ => true
  | .ceq _ _ => true
  | .cne _ _ => true
  | .clt _ _ => true
  | .cltu _ _ => true
  | .cle _ _ => true
  | .cleu _ _ => true
  | .clmull _ _ => true
  | .clmulh _ _ => true
  | .pass _ _ => true
  | .lea _ _ => true
  | .ldl _ => true
  | .ldsB _ => true
  | .ldsH _ => true
  | .ldsW _ => true
  | .ldsD _ => true
  | .ldsxB _ => true
  | .ldsxH _ => true
  | .ldsxW _ => true
  | .stl _ => true
  | .stln _ => true
  | .stlm _ => true
  | .stsB _ => true
  | .stsH _ => true
  | .stsW _ => true
  | .stsD _ => true
  | .lda _ => true
  | .sta _ => true
  | .hmake _ => true
  | .hgive _ => true
  | .htake _ => true
  | .hrel _ => true
  | .vadd _ => true
  | .vsub _ => true
  | .vmul _ => true
  | .vfma _ => true
  | .vfms _ => true
  | .vnfma _ => true
  | .vmin _ => true
  | .vmax _ => true
  | .vabs _ => true
  | .vneg _ => true
  | .vclamp _ => true
  | .vscale _ => true
  | .vcmplt _ => true
  | .vcmple _ => true
  | .vcmpeq _ => true
  | .vsel _ => true
  | .vsum _ => true
  | .vmaxr _ => true
  | .vdot _ => true
  | .vstat _ => true
  | .vbcast _ => true
  | .vshuf _ => true
  | .vwidenl _ => true
  | .vwidenh _ => true
  | .vnarrow _ => true
  | .vcvtif _ => true
  | .vcvtfi _ => true
  | .pprob _ => true
  | .qnt _ => true
  | .dqnt _ => true
  | .qscale _ => true
  | .exp _ => true
  | .exp2 _ => true
  | .ln _ => true
  | .log2 _ => true
  | .rcp _ => true
  | .rsqrt _ => true
  | .sqrt _ => true
  | .tanh _ => true
  | .sigm _ => true
  | .gelu _ => true
  | .silu _ => true
  | .erf _ => true
  | .svrst _ => true
  | .svrd _ => true
  | .svnote _ => true
  | .svmerge _ => true
  | .svtrap _ => true
  | .ald _ => true
  | .ast _ => true
  | .aadd _ => true
  | .amax _ => true
  | .amin _ => true
  | .aswap _ => true
  | .acas _ => true
  | .abind _ => true
  | .aunbind _ => true
  | .awaitge _ => true
  | .atPerform c _ => coreOk c
  | .awaitgeSatisfied c _ => coreOk c
  | .releasePerform c _ => coreOk c
  | .spawn _ => true
  | .toksend _ => true
  | .widfExtractWid _ => true
  | .widfExtractOperand _ => true
  | .widfInsert _ => true
  | .phaseUnit _ => true
  | .phaseBound _ => true
  | .barc _ => true
  | .barq _ => true
  | .ctlr _ => true
  | .ctlw _ => true
  | .tlbinv _ => true
  | .slewreq _ => true
  | .filler _ => true
  | .stcfg _ => true
  | .stgo _ => true
  | .ststop _ => true
  | .ststat _ => true
  | .mma _ => true
  | .mmaz _ => true
  | .mmat _ => true
  | .mmatz _ => true
  | .mxStepRead c => coreOk c
  | .mxComplete c => coreOk c
  | .accrd _ => true
  | .accwr _ => true
  | .accadd _ => true
  | .accz _ => true
  | .accspill _ => true
  | .accfill _ => true
  | .acczDone c => coreOk c
  | .accspillLine c => coreOk c
  | .accfillLineRead c => coreOk c
  | .accfillDone c => coreOk c
  | .acctsStatus _ => true
  | .acctsLoad _ => true
  | .acctsRewind _ => true
  | .xmode _ => true
  | .xbSettleEnd c k => coreOk c && chOk k
  | .xfwd _ => true
  | .xbwd _ => true
  | .xupd _ => true
  | .xfer _ => true
  | .xgamma _ => true
  | .xspw _ => true
  | .xspr _ => true
  | .xseed _ => true
  | .xrdavg _ => true
  | .xprg _ => true
  | .xrst _ => true
  | .xstat _ => true
  | .xbOutputWrite c k => coreOk c && chOk k
  | .xbStatus c k => coreOk c && chOk k
  | .xupdSlot c k => coreOk c && chOk k
  | .xferSlot c k => coreOk c && chOk k
  | .xrdavgColumn c k => coreOk c && chOk k
  | .xprgColumn c k => coreOk c && chOk k
  | .xrstApply c k => coreOk c && chOk k
  | .xspwApply c k => coreOk c && chOk k
  | .tplw _ => true
  | .cpgo _ _ => true
  | .cpgoResume _ _ => true
  | .gqpush _ => true
  | .cpwait _ => true
  | .cpstat _ => true
  | .cpabort _ => true
  | .apertureStart c ch _ => coreOk c && chOk ch
  | .apertureResume c ch _ => coreOk c && chOk ch
  | .copyAccept c ch => coreOk c && chOk ch
  | .copyActivate c ch => coreOk c && chOk ch
  | .copyAcquireDone c ch => coreOk c && chOk ch
  | .copyRequestIssue c => coreOk c
  | .gatherIndexTake c ch => coreOk c && chOk ch
  | .copyLineDone c ch => coreOk c && chOk ch
  | .reduceAdmit home => coreOk home
  | .copyFinish c ch => coreOk c && chOk ch
  | .followOnHandover c ch => coreOk c && chOk ch
  | .followOnIssue c => coreOk c
  | .copyFault c ch => coreOk c && chOk ch
  | .copyAbortDrain c ch => coreOk c && chOk ch
  | .landingCrcRetry c ch _ => coreOk c && chOk ch
  | .tableWalk d ctx va => dieOk d && ctxOk ctx && decide (va < 2 ^ 51)
  | .hbmAdmit d q => dieOk d && decide (q.n < 32)
  | .hbmComplete d pc => dieOk d && decide (pc < 32)
  | .bankIdlePrecharge d bk => dieOk d && decide (bk < 512)
  | .hbmRefresh d bk => dieOk d && decide (bk < 512)
  | .scrubRow d _ => dieOk d
  | .ehringWrite d _ _ => dieOk d
  | .pusht _ => true
  | .popt _ => true
  | .lease _ => true
  | .unlease _ => true
  | .lstatSlot _ => true
  | .lstatDeadline _ => true
  | .lstatStack _ => true
  | .tierAccept c => coreOk c
  | .tierPushData d ctx _ => dieOk d && ctxOk ctx
  | .tierPopData d ctx _ => dieOk d && ctxOk ctx
  | .spillEntry d ctx => dieOk d && ctxOk ctx
  | .returnEntry d q => dieOk d && ctxOk q.ctx
  | .leaseGrant d ctx q _ _ => dieOk d && ctxOk ctx && decide (q.slot < 16)
  | .leaseRefuse d ctx q => dieOk d && ctxOk ctx && decide (q.slot < 16)
  | .leaseRevoke d ctx slot _ => dieOk d && ctxOk ctx && decide (slot < 16)
  | .leaseDeadline d ctx slot => dieOk d && ctxOk ctx && decide (slot < 16)
  | .leaseDrained d ctx slot => dieOk d && ctxOk ctx && decide (slot < 16)
  | .surveyDeltaSend d sv => dieOk d && decide (sv < 4096)
  | .surveyDeltaMerge d => dieOk d
  | .surveyMirrorRefresh d sv => dieOk d && decide (sv < 4096)
  | .surveyStaWrite d sv _ => dieOk d && decide (sv < 4096)
  | .launchRequest d ctx _ _ => dieOk d && ctxOk ctx
  | .recordCreate d slot => dieOk d && decide (slot < 4096)
  | .recordReady d _ => dieOk d
  | .tokenArrive d ctx tok => dieOk d && ctxOk ctx && decide (tok < 65536)
  | .timerWaitExpire d _ => dieOk d
  | .dispatch c => coreOk c
  | .prompt d _ => dieOk d
  | .preemptForced c => coreOk c
  | .forcedSaveRetry c => coreOk c
  | .barrierArrival d ctx b => dieOk d && ctxOk ctx && chOk (b / 8)
  | .barrierNoticeArrive ctx b _ _ => ctxOk ctx && decide (b < 64)
  | .packageRelease ctx b => ctxOk ctx && decide (b < 64)
  | .clusterRelease d ctx b q => dieOk d && ctxOk ctx && decide (b < 64) && chOk q
  | .barrierDescriptorWrite d idx _ => dieOk d && decide (idx < 4096)
  | .trapEntry c => coreOk c
  | .notaskEntry c => coreOk c
  | .replayEntryEffect c => coreOk c
  | .timingErrorReplay c _ => coreOk c
  | .commitBufferDrain c => coreOk c
  | .contextControlWrite d ctx off _ => dieOk d && ctxOk ctx && decide (off < 64)
  | .tileOwnerWrite d idx _ => dieOk d && decide (idx < 128)
  | .fabricContextWrite w ctx off _ => decide (w < 2) && ctxOk ctx && decide (off < 256)
  | .flitReplay r => decide (r.link < 28)
  | .linkDown link => decide (link < 28)
  | .fabricAccessArrive acc => decide (acc.wing < 2) && decide (acc.rank < 1024)
  | .timestampAlign _ => true
  | .powerUp => true
  | .functionLevelReset => true
  | .imageGo => true
  | .imageVerifyDone => true
  | .bringUp _ => true
  | .cmdDoorbell _ cmds => decide (cmds.length < 4096)
  | .hostLaunch _ => true
  | .signal _ => true
  | .readsync _ => true
  | .attest _ => true
  | .openCtx _ => true
  | .closeCtx _ => true
  | .unknownHostCommand _ => true
  | .bar2Access _ _ data => decide (data.length ≤ 128)
  | .ftgtWrite d _ => dieOk d
  | .frequencyChangeDone d => dieOk d
  | .rampTableWrite d q off _ => dieOk d && chOk q && decide (off < 64)
  | .slewStepBoundary d q => dieOk d && chOk q
  | .slewGrant d q => dieOk d && chOk q
  | .telemetryPeriod ctx _ => ctxOk ctx
  | .telemetryEnableWrite ctx _ => ctxOk ctx
  | .debugHalt d ctx _ => dieOk d && ctxOk ctx
  | .haltDrainDone d ctx => dieOk d && ctxOk ctx
  | .debugResume d ctx _ => dieOk d && ctxOk ctx
  | .debugStep d ctx core _ => dieOk d && ctxOk ctx && decide (core < 128)
  | .debugPass d ctx => dieOk d.die && ctxOk ctx
  | .debugRelease d ctx core _ => dieOk d && ctxOk ctx && decide (core < 128)
  | .stepEvent c _ => coreOk c
  | .evcountWrite c => coreOk c
  | .xbLineRead c k => coreOk c && chOk k
  | .xsprOutputWrite c k => coreOk c && chOk k
  | .xbModeTake c k => coreOk c && chOk k
  | .fillerRampBlock c => coreOk c
  | .leaseRequestArrive rank ctx slot act _ =>
    decide (rank < 1024) && ctxOk ctx && decide (slot < 16) && (match act with | .ask units => decide (0 < units) | _ => true)

end Sys2Proof
end

