-- ==== Sys2Proof/Certificates/Slice0/Obligations.lean ====
section
/-!
DEFINITION. The statements about the FVK-1024 for the provers. Each docstring names the rules of spec/ that it formalises.
-/

open Sys2Proof Sys2Proof.Machine

/-! ### Encoding, steps and reset -/

/-- DECODE AND ENCODE AGREE: the bundle that encodes a well-formed slot operation decodes to it, with every field at every value
the encoding admits, and the first 32 bytes of a byte string that begins with the bundle's bytes give it with the rest
(01 R10..R12, R24, R35). -/
def Obligations.EncodeDecode : Prop :=
  ∀ (i : Instr) (b : BitVec 256), i.wf = true → encode i = some b →
    decodeBundle b = i ∧ ∀ l : List (BitVec 8), decode (bundleBytes b ++ l) = .ok (i, l)

/-- Words written out from the spec's encoding tables decode to the operations that they stand for, a word of 32 bits as a
trigger or hint, else as a legal control word, else as a plain move, which is the model's reading of the table (log 6; 01 R11,
R12, R24, R30..R36). -/
def Obligations.DecodeWords : Prop :=
  decodeTableWord 32 0b0010_000000010000_000000000001_0000 = some (.move 2 0x010 0x001 0) ∧
  decodeTableWord 32 0b0000_000001_0000000000000000000011 = some (.br 0 3) ∧
  decodeTableWord 32 0b0101_001000_1111111111111111111111 = some (.lit 5 0x3FFFFF) ∧
  decodeTableWord 32 0b0000_010000_0000000000000000000000 = some (.yield 0) ∧
  decodeTableWord 32 0b0001_000100000001_000000000101_0000 = some (.add 0 ⟨1, 5, 0⟩) ∧
  decodeTableWord 32 0b0000_000110000110_000000000010_1011 = some (.ldsD ⟨0, 2, 11⟩) ∧
  decodeTableWord 32 0b1111_001010000100_010000000001_0100 = some (.aadd ⟨15, 0x401, 4⟩) ∧
  decodeTableWord 32 0b0000_001011000011_000000000001_0010 = some (.widfInsert ⟨0, 1⟩) ∧
  decodeTableWord 32 0b0000_100011000010_000000000001_1011 = some (.cpgoResume ⟨0, 1⟩ 3) ∧
  decodeTableWord 32 0b0000_111100000000_000000000000_0000 = some (.hint 0 0 0 0)

/-- A STEP RUNS THE DECODED INSTRUCTION: where nothing else is due and the focused core runs a task of encoding version 3, no bundle of
its is held and no loop or timing replay is in progress, and the 32 bytes at its program counter, under a held page of this package's HBM,
decode to an instruction, the step is that instruction's, after which the core's clock cycle is over; a bundle of another
version issues as a bundle (01 R10, R38; 13 R377; the model's: that exec of a slot operation is the issue of a bundle with that
slot alone, log 6, and the order of agents, log 3). That a fetch which finds no held page stops with a fault is the model's
choice (log 95: 13 R377 says that a core never faults on a fetch). -/
def Obligations.StepRunsDecoded : Prop :=
  ∀ s : State,
    let c := s.focus
    let k := s.now
    let e := s.env c
    let after (r : Host.Outcome State Fault Refusal) : Host.Outcome State Fault Refusal :=
      match r with | .next t => .next (s.endCycle t c) | x => x
    s.agenda = [] → s.todo = [] → s.agents = false → s.laid = true → k.runs = true → k.pipe.held = 0 →
      k.pipe.replay = 0 → k.seq.on = false →
      (∀ pa i, heldAddr e.pages k.pcAddr = some (pa, true) →
        decode ((List.range 32).map fun j => s.hbm (pa + j)) = .ok (i, []) →
        (e.ver = 3 → step s = after (exec i s)) ∧
        (e.ver ≠ 3 → step s = after (exec (.bundleIssue (BitVec.ofNat 256 (leNat ((List.range 32).map fun j => s.hbm (pa + j))))) s))) ∧
      (heldAddr e.pages k.pcAddr = none → step s = .fault .fetchUnheld)

/-- At reset the part waits for an image, the timestamp and the clock are 0, every pair is in CAL, the watchdog's limit is 2^24, the pre-emption deadline 2^16, the energy
budget 4,194,240, the target frequency 64, the aging cap 6, a barrier's LEAD 4,000, the notice 2,000 ms, the retry period 24;
memory has its canonical form (03 R79, R89; 06 R163; 09 R211; 12 R280, R287; 13 R307; 14 R329; 15 R333, R336). The model's choice,
for which the spec gives no value before an OPEN: the cores are idle and hold no context, no context is open, and every line is
present (log 1). -/
def Obligations.ResetState : Prop :=
  MemWf State.reset ∧ State.reset.pkg.host.phase = 0 ∧ State.reset.clk = 0 ∧ State.reset.ts = 0 ∧ State.reset.pkg.opens = [] ∧
  State.reset.pkg.leaseN = 2000 ∧
  (∀ c, let k := State.reset.core c
    k.mode = .idle ∧ k.ctx = none ∧ k.ctl.wdg = 0x1000000 ∧ k.ctl.pdl = 0x10000 ∧ k.ctl.egr = 4194240 ∧
      (∀ ln, k.present ln = true) ∧ ∀ p, (k.pair p).mode = 4) ∧
  (∀ d, let x := State.reset.die d
    x.ftgt = 64 ∧ x.fcur = 64 ∧ x.board.cap = 6 ∧ x.mc.period = 24 ∧ x.mc.scrub = true ∧ x.rampAt 0 15 = 1024 ∧
      ∀ ctx b, barLead (State.reset.bar d ctx b) = 4000)

/-- AN INVARIANT THAT EVERY STEP KEEPS: main memory stays in its canonical form, so that memories that read alike are equal
(03 R71; the list form is the model's own, log 2). -/
def Obligations.StepKeepsMemoryCanonical : Prop :=
  ∀ s t : State, MemWf s → step s = .next t → MemWf t
/-! ### The control slot -/

/-- CNOP, START, a control hint, LIT, LITH, SETWIN and SETFMT complete wherever a bundle of their energy class can issue and
the next bundle is in range; nothing but what is named changes (01 R28, R35; 02 R65, R66; 06 R150, R151). -/
def Obligations.PlainControls : Prop :=
  ∀ (s : State) (e : BitVec 4), CanIssue s e.toNat → InRange s →
    exec (.cnop e) s = .next (issued s e.toNat s.now.nextBundle) ∧
    (∀ x y z : BitVec 6, ((s.env s.focus).ver = 1 → z = 0) →
      exec (.start e x y z) s = .next (issued s e.toNat s.now.nextBundle)) ∧
    (∀ (h : BitVec 4) (v : BitVec 22),
      exec (.chint e h v) s = .next (issued s e.toNat s.now.nextBundle)) ∧
    (∀ v : BitVec 22, exec (.lit e v) s =
      .next (issued s e.toNat (s.now.nextBundle.modRegs fun r => { r with lit := v.signExtend 64 }))) ∧
    (∀ v : BitVec 22, exec (.lith e v) s =
      .next (issued s e.toNat
        (s.now.nextBundle.modRegs fun r => { r with lit := s.now.regs.lit <<< 22 ||| v.zeroExtend 64 }))) ∧
    (∀ (r : BitVec 7) (b : BitVec 15), exec (.setwin e r b) s =
      .next (issued s e.toNat (s.now.nextBundle.modCtl fun c => { c with win := word (b.toNat + 2 ^ 15 * r.toNat) }))) ∧
    (∀ f : BitVec 12, s.legendInRange (dieOf s.focus) (s.env s.focus).ctx f.toNat = true →
      exec (.setfmt e f) s =
        .next (issued s e.toNat (s.now.nextBundle.modCtl fun c =>
          { c with fmt := setBits (setBits c.fmt 40 12 f.toNat) 14 1 1 })))

/-- BR, BRP, CALL, RET and JR go to their target when it is in the code range and a multiple of 32; CALL leaves the link in
s63; BRP with a false condition goes on to the next bundle (01 R35; 06 R149). -/
def Obligations.Branches : Prop :=
  ∀ (s : State) (e : BitVec 4), CanIssue s e.toNat →
    (∀ d : BitVec 22, Reachable s (s.now.pcAddr + 32 * d.toInt) →
      exec (.br e d) s =
        .next (issued s e.toNat (s.now.nextBundle.setPc ((s.now.pcAddr : Int) + 32 * d.toInt).toNat))) ∧
    (∀ (v : BitVec 1) (p : BitVec 3) (d : BitVec 18), s.now.regs.pred p.toNat ≠ decide (v = 1) →
      Reachable s (s.now.pcAddr + 32 * d.toInt) →
      exec (.brp e v p d) s =
        .next (issued s e.toNat (s.now.nextBundle.setPc ((s.now.pcAddr : Int) + 32 * d.toInt).toNat))) ∧
    (∀ (v : BitVec 1) (p : BitVec 3) (d : BitVec 18), s.now.regs.pred p.toNat = decide (v = 1) → InRange s →
      exec (.brp e v p d) s = .next (issued s e.toNat s.now.nextBundle)) ∧
    (∀ d : BitVec 22, Reachable s (s.now.pcAddr + 32 * d.toInt) →
      exec (.call e d) s =
        .next (issued s e.toNat ((s.now.nextBundle.modRegs fun r => r.setS 63 (word (s.now.pcAddr + 32))).setPc
          ((s.now.pcAddr : Int) + 32 * d.toInt).toNat))) ∧
    (Reachable s (s.now.regs.sreg 63).toNat →
      exec (.ret e) s = .next (issued s e.toNat (s.now.nextBundle.setPc (s.now.regs.sreg 63).toNat))) ∧
    (∀ n : BitVec 6, Reachable s (s.now.regs.sreg n.toNat).toNat →
      exec (.jr e n) s = .next (issued s e.toNat (s.now.nextBundle.setPc (s.now.regs.sreg n.toNat).toNat)))

/-- A taken BR, BRP, CALL, RET or JR whose target is outside the code range, or no multiple of 32, raises ILLEGAL_CONTROL of
SUB 2 with the control slot and the target, and so does a bundle of CNOP, START, a control hint, LIT, LITH, SETWIN, SETFMT, a
BRP that is not taken, or a hint move alone, whose successor in program order is out of range (06 R149; 13 R305). -/
def Obligations.BadTargets : Prop :=
  ∀ (s : State) (e : BitVec 4), CanIssue s e.toNat →
    let bad (i : Instr) (x : Int) : Prop :=
      exec i s = .next (trapped s ((encode i).getD 0)
        { code := 2, slot := 0, sub := 2, i0 := word (bundleSlot ((encode i).getD 0) 0).toNat, i1 := BitVec.ofInt 64 x })
    let next : Int := s.now.pcAddr + 32
    (∀ d : BitVec 22, ¬ Reachable s (s.now.pcAddr + 32 * d.toInt) →
      bad (.br e d) (s.now.pcAddr + 32 * d.toInt) ∧ bad (.call e d) (s.now.pcAddr + 32 * d.toInt)) ∧
    (∀ (v : BitVec 1) (p : BitVec 3) (d : BitVec 18), s.now.regs.pred p.toNat ≠ decide (v = 1) →
      ¬ Reachable s (s.now.pcAddr + 32 * d.toInt) → bad (.brp e v p d) (s.now.pcAddr + 32 * d.toInt)) ∧
    (¬ Reachable s (s.now.regs.sreg 63).toNat → bad (.ret e) (s.now.regs.sreg 63).toNat) ∧
    (∀ n : BitVec 6, ¬ Reachable s (s.now.regs.sreg n.toNat).toNat → bad (.jr e n) (s.now.regs.sreg n.toNat).toNat) ∧
    (¬ InRange s →
      bad (.cnop e) next ∧
      (∀ x y z : BitVec 6, ((s.env s.focus).ver = 1 → z = 0) → bad (.start e x y z) next) ∧
      (∀ (h : BitVec 4) (v : BitVec 22), bad (.chint e h v) next) ∧
      (∀ v : BitVec 22, bad (.lit e v) next ∧ bad (.lith e v) next) ∧
      (∀ (r : BitVec 7) (b : BitVec 15), bad (.setwin e r b) next) ∧
      (∀ f : BitVec 12, s.legendInRange (dieOf s.focus) (s.env s.focus).ctx f.toNat = true → bad (.setfmt e f) next) ∧
      (∀ (v : BitVec 1) (p : BitVec 3) (d : BitVec 18), s.now.regs.pred p.toNat = decide (v = 1) → bad (.brp e v p d) next) ∧
      (e = 0 → ∀ (g : BitVec 4) (h : BitVec 8) (sr : BitVec 12) (m : BitVec 4), bad (.hint g h sr m) next))

/-! ### Registers and moves -/

/-- What the scalar registers and predicates hold: s0 reads as zero and p0 as 1 whatever is written; another register
holds what was written to it, and a write to one leaves the others (06 R148; 01 R17).
The four views, lane by lane: all lanes, the low half, the high half, and bits [15:0] in every lane; the modifier's two
upper bits are ignored; a scalar becomes a line of zeros but for its 8 bytes, a line the scalar of its bits [63:0]
(01 R15, R16). -/
def Obligations.RegisterFile : Prop :=
  (
    ∀ (r : Regs) (m n : Nat) (v : Word) (q : Bool),
      r.sreg 0 = 0 ∧ r.setS 0 v = r ∧ r.pred 0 = true ∧ r.setP 0 q = r ∧
      (0 < n → n < 64 → (r.setS n v).sreg n = v) ∧ (m ≠ n → (r.setS n v).sreg m = r.sreg m) ∧
      (0 < n → n < 8 → (r.setP n q).pred n = q) ∧ (m ≠ n → m < 8 → n < 8 → (r.setP n q).pred m = r.pred m) ∧
      (r.setS n v).p = r.p ∧ (r.setS n v).lit = r.lit ∧ (r.setS n v).op = r.op ∧ (r.setS n v).res = r.res ∧
      (r.setP n q).s = r.s ∧ (r.setP n q).lit = r.lit ∧ (r.setP n q).op = r.op ∧ (r.setP n q).res = r.res
  ) ∧
  (
    ∀ (m : BitVec 4) (old v : Line) (a b : Word) (q : Nat), q < 64 →
      (lane (viewLine m old v) q =
        match m.toNat % 4 with
        | 0 => lane v q
        | 1 => if q < 32 then lane v q else lane old q
        | 2 => if q < 32 then lane old q else lane v q
        | _ => lane v 0) ∧
      (viewWord m a b =
        match m.toNat % 4 with
        | 0 => b
        | 1 => a.extractLsb' 32 32 ++ b.extractLsb' 0 32
        | 2 => b.extractLsb' 32 32 ++ a.extractLsb' 0 32
        | _ => b.extractLsb' 0 16 ++ b.extractLsb' 0 16 ++ b.extractLsb' 0 16 ++ b.extractLsb' 0 16) ∧
      lane (lineOf a) q = (if q < 4 then a.extractLsb' (16 * q) 16 else 0) ∧
      scalarOf v = v.extractLsb' 0 64
  )

/-- A move whose guard is true writes its destination under its view and changes nothing else but the stream it reads, the
program counter and the format pipeline: a scalar register (s0 discards), a predicate (p0 discards), an operand port of a word
or of a line, a window line that the core may write, a running write stream with room (01 R15..R17, R19, R24; 05 R123,
R136; 06 R148, R150). -/
def Obligations.Moves : Prop :=
  ∀ (s : State) (g m : BitVec 4) (d sid : BitVec 12) (src : Src) (v : Line), Fires s g sid 0 src v →
    (∀ n, destOf (s.env s.focus).ver d.toNat = some (.sreg n) →
      exec (.move g d sid m) s = .next (issued s 0
        ((s.now.took src).modRegs fun r => r.setS n (viewWord m (r.sreg n) (scalarOf v))).nextBundle)) ∧
    (∀ n, destOf (s.env s.focus).ver d.toNat = some (.pred n) →
      exec (.move g d sid m) s = .next (issued s 0
        ((s.now.took src).modRegs fun r => r.setP n (bitAt v 0)).nextBundle)) ∧
    (∀ id, destOf (s.env s.focus).ver d.toNat = some (.port id false) →
      exec (.move g d sid m) s = .next (issued s 0
        ((s.now.took src).modRegs fun r => r.setPort id (lineOf (viewWord m (r.portW id) (scalarOf v)))).nextBundle)) ∧
    (∀ id, destOf (s.env s.focus).ver d.toNat = some (.port id true) →
      exec (.move g d sid m) s = .next (issued s 0
        ((s.now.took src).modRegs fun r => r.setPort id (viewLine m (r.port id) v)).nextBundle)) ∧
    (∀ n, destOf (s.env s.focus).ver d.toNat = some (.window n) →
      lineCheck s s.focus (s.env s.focus) true 1 d.toNat (windowLine s.now false 0 n) = none →
      exec (.move g d sid m) s = .next (issued s 0
        (((s.now.took src).setLine (windowLine s.now false 0 n)
          (viewLine m (s.now.line (windowLine s.now false 0 n)) v))).nextBundle)) ∧
    (∀ n, destOf (s.env s.focus).ver d.toNat = some (.stream n) →
      (s.now.stream n).isWrite = true → (s.now.stream n).st = 3 → (s.now.stream n).wbuf.length < 8 →
      0 ≤ (s.now.stream n).elem (s.now.stream n).n →
      lineCheck s s.focus (s.env s.focus) false 1 d.toNat ((s.now.stream n).elem (s.now.stream n).n).toNat = none →
      exec (.move g d sid m) s = .next (issued s 0
        (((s.now.took src).setLine ((s.now.stream n).elem (s.now.stream n).n).toNat (viewLine m 0 v)).setStream n
          { (s.now.stream n).advance with
            wbuf := (s.now.stream n).wbuf ++ [((s.now.stream n).elem (s.now.stream n).n).toNat] }).nextBundle))

/-- A move whose destination lies in the hint region executes as no operation whatever its other fields: its source is not
read or decoded, no stream advances, the hold line is not raised (01 R26). -/
def Obligations.Hints : Prop :=
  ∀ s : State, CanIssue s 0 → InRange s → ∀ (g : BitVec 4) (h : BitVec 8) (sr : BitVec 12) (m : BitVec 4),
    exec (.hint g h sr m) s = .next (issued s 0 s.now.nextBundle)

/-- An all-zero move slot is the move of s0 to s0 and does nothing, an all-zero control slot is CNOP in energy class 0, and a
bundle made only of zeros does nothing and costs class 0 (01 R13). -/
def Obligations.EmptySlots : Prop :=
  moveWord 0 0 0 0 = 0 ∧ controlWord 0 0 0 = 0 ∧ decodeControl 0 = .ok (.cnop 0) ∧
  ∀ s : State, CanIssue s 0 → InRange s →
    exec (.move 0 0 0 0) s = .next (issued s 0 s.now.nextBundle) ∧
    exec (.cnop 0) s = .next (issued s 0 s.now.nextBundle) ∧
    exec (.bundleIssue 0) s = .next (issued s 0 s.now.nextBundle)

/-- A predicate destination receives bit 0 of the converted source value whatever M[3:0] is, and a write to p0 is discarded
(01 R17). -/
def Obligations.PredicateMoves : Prop :=
  ∀ (s : State) (g m : BitVec 4) (sid : BitVec 12) (src : Src) (v : Line), Fires s g sid 0 src v →
    exec (.move g 0x080 sid m) s = .next (issued s 0 (s.now.took src).nextBundle) ∧
    ∀ n : BitVec 12, 0 < n.toNat → n.toNat < 8 →
      exec (.move g (0x080 + n) sid m) s = .next (issued s 0
        ((s.now.took src).modRegs fun r =>
          { r with p := (r.p &&& ~~~((1 : BitVec 8) <<< n.toNat)) ||| ((v.truncate 1).zeroExtend 8 <<< n.toNat) }).nextBundle)

/-- A slot whose guard is false does nothing, when its ids decode and its context may use them (01 R14, R23).
What stops a slot before it moves anything: an id that the encoding version lacks or the context may not use raises its
ILLEGAL_PORT; a window line outside the allotment raises WINDOW_FAULT, one that another core has a right to HANDLE_FAULT, as
the line's check says, one with an uncorrectable error SOFT_ERROR; a present bit of 0 holds with reason 3; a stream that is no running read stream raises ENGINE_FAULT
(01 R24, R27; 05 R123, R126, R136; 13 R292, R305). -/
def Obligations.SlotStops : Prop :=
  ∀ (s : State) (g m : BitVec 4) (d sid : BitVec 12), CanIssue s 0 → InRange s →
    (∀ (i : Instr) (w : BitVec 32), encodeSlot i = some (.moveSlot w) → guardOn s.now.regs (slotG w) = false →
      moveIllegal (s.env s.focus) { slot := 1, w := w, it := 0 } = none →
      exec i s = .next (issued s 0 s.now.nextBundle)) ∧
    (∀ x, moveIllegal (s.env s.focus) { slot := 1, w := moveWord g d sid m, it := 0 } = some x →
      exec (.move g d sid m) s = .next (trapped s ((encode (.move g d sid m)).getD 0) x)) ∧
    (∀ n k, guardOn s.now.regs g = true → s.now.acqPending = false →
      destOf (s.env s.focus).ver d.toNat = some (.sreg k) → srcOf (s.env s.focus).ver sid.toNat = some (.window n) →
      (∀ x, lineCheck s s.focus (s.env s.focus) true 1 sid.toNat (windowLine s.now false 0 n) = some x →
        exec (.move g d sid m) s = .next (trapped s ((encode (.move g d sid m)).getD 0) x)) ∧
      (lineCheck s s.focus (s.env s.focus) true 1 sid.toNat (windowLine s.now false 0 n) = none →
        (s.now.soft.contains (windowLine s.now false 0 n) = true →
          exec (.move g d sid m) s = .next (trapped s ((encode (.move g d sid m)).getD 0)
            { code := 10, slot := 1, sub := 0, i0 := word (windowLine s.now false 0 n), i1 := word sid.toNat })) ∧
        (s.now.soft.contains (windowLine s.now false 0 n) = false → s.now.present (windowLine s.now false 0 n) = false →
          s.now.pipe.held < bits s.now.ctl.wdg 0 32 → exec (.move g d sid m) s = .next (heldFor s 3)))) ∧
    (∀ n k, guardOn s.now.regs g = true →
      destOf (s.env s.focus).ver d.toNat = some (.sreg k) → srcOf (s.env s.focus).ver sid.toNat = some (.stream n) →
      ((s.now.stream n).isWrite = true ∨ ((s.now.stream n).st ≠ 2 ∧ (s.now.stream n).st ≠ 3)) →
      exec (.move g d sid m) s =
        .next (trapped s ((encode (.move g d sid m)).getD 0) { code := 9, slot := 1, i0 := word sid.toNat }))

/-- Two moves of one bundle both read before either writes, and where they write one register the higher slot's value
stays (01 R19, R21). -/
def Obligations.TwoMoves : Prop :=
  ∀ (s : State) (a b x y : BitVec 6), CanIssue s 0 → InRange s → (s.env s.focus).ver = 3 →
    exec (.bundleIssue (((moveWord 0 (x.zeroExtend 12) (a.zeroExtend 12) 0).zeroExtend 256 <<< 32) |||
        ((moveWord 0 (y.zeroExtend 12) (b.zeroExtend 12) 0).zeroExtend 256 <<< 64))) s =
      .next (issued s 0 ((s.now.modRegs fun r =>
        (r.setS x.toNat (r.sreg a.toNat)).setS y.toNat (r.sreg b.toNat)).nextBundle))

/-! ### The integer units (06 R159, R160) -/

/-- The arithmetic, logic and shift operations of both integer units with their latencies: wrapping sums, differences and
products, the high halves, division toward zero with its cases of divisor 0 and overflow, bit operations, shifts and
rotation by b[5:0], minima, maxima and the compares, which give 1 or 0 (06 R159, R160).
The counting, byte, field and carry-less operations, by the functions that the last part describes (06 R159,
R160).
What those functions compute: leading and trailing zeros (64 for zero), the number of 1 bits, the bytes in reverse
order, extension from width w (the identity for w of 0 or 64 and more), the field of at most 64 bits at b[5:0] whose length
is b[14:8], and the carry-less product bit by bit (06 R160). -/
def Obligations.IntegerUnit : Prop :=
  (
    ∀ u : BitVec 1,
      IntegerOp u .add 0x01 1 (fun a b _ => a + b) ∧
      IntegerOp u .sub 0x02 1 (fun a b _ => a - b) ∧
      IntegerOp u .mul 0x03 3 (fun a b _ => a * b) ∧
      IntegerOp u .mulh 0x04 3 (fun a b _ => (a.signExtend 128 * b.signExtend 128).extractLsb' 64 64) ∧
      IntegerOp u .mulhu 0x05 3 (fun a b _ => (a.zeroExtend 128 * b.zeroExtend 128).extractLsb' 64 64) ∧
      IntegerOp u .div 0x06 18 (fun a b _ => if b = 0 then BitVec.allOnes 64 else a.sdiv b) ∧
      IntegerOp u .divu 0x07 18 (fun a b _ => if b = 0 then BitVec.allOnes 64 else a.udiv b) ∧
      IntegerOp u .rem 0x08 18 (fun a b _ => if b = 0 then a else a.srem b) ∧
      IntegerOp u .remu 0x09 18 (fun a b _ => if b = 0 then a else a.umod b) ∧
      IntegerOp u .and 0x0a 1 (fun a b _ => a &&& b) ∧
      IntegerOp u .or 0x0b 1 (fun a b _ => a ||| b) ∧
      IntegerOp u .xor 0x0c 1 (fun a b _ => a ^^^ b) ∧
      IntegerOp u .andn 0x0d 1 (fun a b _ => a &&& ~~~b) ∧
      IntegerOp u .orn 0x0e 1 (fun a b _ => a ||| ~~~b) ∧
      IntegerOp u .shl 0x0f 1 (fun a b _ => a <<< (b.toNat % 64)) ∧
      IntegerOp u .shr 0x10 1 (fun a b _ => a >>> (b.toNat % 64)) ∧
      IntegerOp u .sar 0x11 1 (fun a b _ => a.sshiftRight (b.toNat % 64)) ∧
      IntegerOp u .rol 0x12 1 (fun a b _ => a.rotateLeft (b.toNat % 64)) ∧
      IntegerOp u .pass 0x26 1 (fun _ b _ => b) ∧
      IntegerOp u .lea 0x27 1 (fun a b m => a + b * 2 ^ (m.toNat % 4)) ∧
      IntegerOp u .min 0x13 1 (fun a b _ => if a.slt b then a else b) ∧
      IntegerOp u .max 0x14 1 (fun a b _ => if a.slt b then b else a) ∧
      IntegerOp u .minu 0x15 1 (fun a b _ => if a.ult b then a else b) ∧
      IntegerOp u .maxu 0x16 1 (fun a b _ => if a.ult b then b else a) ∧
      IntegerOp u .ceq 0x1e 1 (fun a b _ => if a = b then 1 else 0) ∧
      IntegerOp u .cne 0x1f 1 (fun a b _ => if a = b then 0 else 1) ∧
      IntegerOp u .clt 0x20 1 (fun a b _ => if a.slt b then 1 else 0) ∧
      IntegerOp u .cltu 0x21 1 (fun a b _ => if a.ult b then 1 else 0) ∧
      IntegerOp u .cle 0x22 1 (fun a b _ => if b.slt a then 0 else 1) ∧
      IntegerOp u .cleu 0x23 1 (fun a b _ => if b.ult a then 0 else 1)
  ) ∧
  (
    ∀ u : BitVec 1,
      IntegerOp u .clz 0x17 1 (fun _ b _ => word (clz64 b)) ∧
      IntegerOp u .ctz 0x18 1 (fun _ b _ => word (ctz64 b)) ∧
      IntegerOp u .popc 0x19 1 (fun _ b _ => word (popc64 b)) ∧
      IntegerOp u .bswap 0x1a 1 (fun _ b _ => bswap64 b) ∧
      IntegerOp u .sext 0x1b 1 (fun a b _ => sextFrom a (b.toNat % 128)) ∧
      IntegerOp u .zext 0x1c 1 (fun a b _ => zextFrom a (b.toNat % 128)) ∧
      IntegerOp u .bext 0x1d 1 (fun a b m => bitField a b m) ∧
      IntegerOp u .clmull 0x24 3 (fun a b _ => word (clmul a b)) ∧
      IntegerOp u .clmulh 0x25 3 (fun a b _ => word (clmul a b / 2 ^ 64))
  ) ∧
  (
    ∀ (a b : Word) (m : BitVec 4) (w i : Nat),
      (b ≠ 0 → b.toNat < 2 ^ (64 - clz64 b) ∧ 2 ^ (63 - clz64 b) ≤ b.toNat ∧ clz64 b < 64) ∧ clz64 0 = 64 ∧
      (i < 64 → b.getLsbD i = true → (∀ j, j < i → b.getLsbD j = false) → ctz64 b = i) ∧ ctz64 0 = 64 ∧
      popc64 b = ((List.range 64).filter fun k => b.getLsbD k).length ∧
      (i < 8 → (bswap64 b).extractLsb' (8 * i) 8 = b.extractLsb' (8 * (7 - i)) 8) ∧
      (w = 0 ∨ 64 ≤ w → sextFrom a w = a ∧ zextFrom a w = a) ∧
      (0 < w → w < 64 → i < 64 → (sextFrom a w).getLsbD i = a.getLsbD (if i < w then i else w - 1)) ∧
      (0 < w → w < 64 → i < 64 → (zextFrom a w).getLsbD i = (decide (i < w) && a.getLsbD i)) ∧
      (i < 64 →
        let pos := b.toNat % 64
        let len := Nat.min ((b >>> 8).toNat % 128) 64
        (bitField a b m).getLsbD i =
          if i < len then a.getLsbD (pos + i) else m.getLsbD 0 && decide (1 ≤ len) && a.getLsbD (pos + len - 1)) ∧
      (clmul a b).testBit i =
        decide (((List.range 64).filter fun k => decide (k ≤ i) && a.getLsbD (i - k) && b.getLsbD k).length % 2 = 1)
  )

/-! ### Loads and stores (05 R119, R123, R128, R130, R138..R140) -/

/-- The eight own-line loads: LDL the line, LDS 1, 2, 4 or 8 bytes zero-extended, LDSX sign-extended, at the trigger value
plus `ls.m`; a probe also takes the presence bit, and a load of an absent line that does not probe leaves a landing that waits
for the line (05 R126, R128, R138, R139; that the data is in the wings after 05 R131's nominal time, the item's `rdy`, is the
model's choice, log 62). -/
def Obligations.Loads : Prop :=
  (let loads : List (Nat × Nat × (Slot → Instr)) :=
    [(0x182, 128, .ldl), (0x183, 1, .ldsB), (0x184, 2, .ldsH), (0x185, 4, .ldsW), (0x186, 8, .ldsD), (0x187, 1, .ldsxB),
     (0x188, 2, .ldsxH), (0x189, 4, .ldsxW)]
  ∀ p ∈ loads, TriggersIf p.1 p.2.2
    (fun s f v => OwnAccess s p.1 p.2.1 (lsEa s v) ∧ s.now.soft.contains (lsEa s v / 128) = false ∧
      s.now.present (lsEa s v / 128) = false ∧ f.m.getLsbD 3 = false ∧
      s.now.landingClash (loadPorts p.1 f.m) (s.now.pipe.run + landingClass f.m) = none)
    (fun s f v k => k.withItem { landing s p.1 f.m (lsEa s v) 4 [] with
      kind := .lreq, await := .line s.focus (lsEa s v / 128) })) ∧
  LoadOp 0x182 128 .ldl 0x180 (fun l _ => l) ∧
  LoadOp 0x183 1 .ldsB 0x181 (fun l b => lineOf ((l.extractLsb' (8 * b) 8).zeroExtend 64)) ∧
  LoadOp 0x184 2 .ldsH 0x181 (fun l b => lineOf ((l.extractLsb' (8 * b) 16).zeroExtend 64)) ∧
  LoadOp 0x185 4 .ldsW 0x181 (fun l b => lineOf ((l.extractLsb' (8 * b) 32).zeroExtend 64)) ∧
  LoadOp 0x186 8 .ldsD 0x181 (fun l b => lineOf (l.extractLsb' (8 * b) 64)) ∧
  LoadOp 0x187 1 .ldsxB 0x181 (fun l b => lineOf ((l.extractLsb' (8 * b) 8).signExtend 64)) ∧
  LoadOp 0x188 2 .ldsxH 0x181 (fun l b => lineOf ((l.extractLsb' (8 * b) 16).signExtend 64)) ∧
  LoadOp 0x189 4 .ldsxW 0x181 (fun l b => lineOf ((l.extractLsb' (8 * b) 32).signExtend 64))

/-- The own-line stores but STLN: STL the whole line, STLM the lanes of the mask in `ls.m` at the trigger value alone, STS the
lowest 1, 2, 4 or 8 bytes of `ls.o`. Every other line, register and byte keeps its value (05 R138, R140). -/
def Obligations.Stores : Prop :=
  StoreOp 0x18a 128 .stl lsEa (fun _ _ o _ => o) ∧
  StoreOp 0x18c 128 .stlm (fun _ v => (scalarOf v).toNat) (fun s old o _ =>
    ofLanes fun q => if (s.now.regs.portW 0x181).getLsbD q then lane o q else lane old q) ∧
  StoreOp 0x18d 1 .stsB lsEa (fun _ old o b => setLineBytes old b 1 (o.toNat % 2 ^ 8)) ∧
  StoreOp 0x18e 2 .stsH lsEa (fun _ old o b => setLineBytes old b 2 (o.toNat % 2 ^ 16)) ∧
  StoreOp 0x18f 4 .stsW lsEa (fun _ old o b => setLineBytes old b 4 (o.toNat % 2 ^ 32)) ∧
  StoreOp 0x190 8 .stsD lsEa (fun _ old o b => setLineBytes old b 8 (o.toNat % 2 ^ 64))

/-- The own-line accesses, loads and stores alike: one outside the VRF or the allotment raises WINDOW_FAULT with the line and
the trigger id, one to a line that the core has no right to HANDLE_FAULT, and one whose address is no multiple of its size
ENGINE_FAULT; a load of a line with an uncorrectable error is
a SOFT_ERROR, one whose landing meets a pending one on a port a LANDING_CONFLICT (05 R123, R130, R133, R138; 13 R292, R305; which port
INFO0 names where two meet is log 36). -/
def Obligations.OwnLineTraps : Prop :=
  let loads : List (Nat × Nat × (Slot → Instr) × (State → Line → Nat)) :=
    [(0x182, 128, .ldl, lsEa), (0x183, 1, .ldsB, lsEa), (0x184, 2, .ldsH, lsEa), (0x185, 4, .ldsW, lsEa),
     (0x186, 8, .ldsD, lsEa), (0x187, 1, .ldsxB, lsEa), (0x188, 2, .ldsxH, lsEa), (0x189, 4, .ldsxW, lsEa)]
  let stores : List (Nat × Nat × (Slot → Instr) × (State → Line → Nat)) :=
    [(0x18a, 128, .stl, lsEa), (0x18b, 128, .stln, lsEa), (0x18c, 128, .stlm, fun _ v => (scalarOf v).toNat),
     (0x18d, 1, .stsB, lsEa), (0x18e, 2, .stsH, lsEa), (0x18f, 4, .stsW, lsEa), (0x190, 8, .stsD, lsEa)]
  (∀ p ∈ loads ++ stores,
    let ea := p.2.2.2
    TrapsIf p.1 p.2.2.1 (fun s _ v => 2 ^ 22 ≤ ea s v) (fun s _ v => windowFault 1 (ea s v / 128) p.1) ∧
    TrapsIf p.1 p.2.2.1 (fun s _ v => ea s v < 2 ^ 22 ∧ (s.now.mode ≠ .handler ∨ isFrameLine (ea s v / 128) = false) ∧
        s.allotted s.focus (s.env s.focus).ctx (ea s v / 128) = false)
      (fun s _ v => windowFault 1 (ea s v / 128) p.1) ∧
    TrapsIf p.1 p.2.2.1 (fun s _ v => ea s v < 2 ^ 22 ∧ (s.now.mode ≠ .handler ∨ isFrameLine (ea s v / 128) = false) ∧
        s.allotted s.focus (s.env s.focus).ctx (ea s v / 128) = true ∧
        s.lineRight s.focus s.focus (s.env s.focus).ctx (ea s v / 128) .own = false)
      (fun s _ v => handleFault 1 (ea s v / 128) p.1) ∧
    TrapsIf p.1 p.2.2.1 (fun s _ v => ea s v < 2 ^ 22 ∧
        lineCheck s s.focus (s.env s.focus) true 1 p.1 (ea s v / 128) = none ∧ ea s v % p.2.1 ≠ 0)
      (fun _ _ _ => engineFault 1 p.1)) ∧
  (∀ p ∈ loads,
    TrapsIf p.1 p.2.2.1 (fun s _ v => OwnAccess s p.1 p.2.1 (lsEa s v) ∧ s.now.soft.contains (lsEa s v / 128) = true)
      (fun s _ v => { code := 10, slot := 1, sub := 0, i0 := word (lsEa s v / 128), i1 := word p.1 }) ∧
    ∀ q, TrapsIf p.1 p.2.2.1 (fun s f v => OwnAccess s p.1 p.2.1 (lsEa s v) ∧
        s.now.soft.contains (lsEa s v / 128) = false ∧
        s.now.landingClash (loadPorts p.1 f.m) (s.now.pipe.run + landingClass f.m) = some q)
      (fun _ f _ => { code := 4, slot := 1, i0 := word q, i1 := word (landingClass f.m) }))

/-- STLN stores the line and notes its lanes in the survey of the current legend, on its die; the rest is unchanged. Where a lane is
beyond the legend's limit and the survey's TRAP is set it raises RESCALE precisely instead, and neither store nor note takes
place; a legend id outside the context's range or a survey outside the task's is a WINDOW_FAULT, a legend that cannot be used an
ENGINE_FAULT (05 R121, R140; 10 R232, R238; 13 R305; which of two comes first is log 34). -/
def Obligations.StoreAndNote : Prop :=
  (let own (s : State) (v : Line) : Prop := OwnAccess s 0x18b 128 (lsEa s v)
  let legend (s : State) : Legend := s.legend (dieOf s.focus) (bits s.now.ctl.fmt 0 12)
  let svid (s : State) : Nat := Legend.svid (legend s)
  let id (s : State) : Nat := bits s.now.ctl.fmt 0 12
  let mine (s : State) : Prop := s.legendInRange (dieOf s.focus) (s.env s.focus).ctx (id s) = true
  let beyond (s : State) (f : Slot) : Nat := overCount (legend s) (numLanes (bitAt f.m 0) (s.now.regs.port 0x180))
  TrapsIf 0x18b .stln (fun s f v => own s v ∧ mine s ∧ (legend s).usable = true ∧ (s.env s.focus).svOk (svid s) = true ∧ 0 < beyond s f ∧
      s.svTrap (dieOf s.focus) (svid s) = true)
    (fun s _ _ => { code := 8, slot := 1, i0 := rescaleInfo (dieOf s.focus) (svid s), i1 := word s.now.pcAddr }) ∧
  TrapsIf 0x18b .stln (fun s _ v => own s v ∧ ¬ mine s) (fun s _ _ => windowFault 1 (id s) 0x18b) ∧
  TrapsIf 0x18b .stln (fun s _ v => own s v ∧ mine s ∧ (legend s).usable = false) (fun _ _ _ => engineFault 1 0x18b) ∧
  TrapsIf 0x18b .stln (fun s _ v => own s v ∧ mine s ∧ (legend s).usable = true ∧ (s.env s.focus).svOk (svid s) = false)
    (fun s _ _ => windowFault 1 (svid s) 0x18b)) ∧
  ∀ (s : State) (f : Slot) (src : Src) (v : Line),
    let l := s.legend (dieOf s.focus) (bits s.now.ctl.fmt 0 12)
    let o := s.now.regs.port 0x180
    let k := (s.now.fired src).setLine (lsEa s v / 128) o
    Fires s f.g f.s 0x18b src v → OwnAccess s 0x18b 128 (lsEa s v) →
      s.legendInRange (dieOf s.focus) (s.env s.focus).ctx (bits s.now.ctl.fmt 0 12) = true → l.usable = true →
      (s.env s.focus).svOk l.svid = true →
      overCount l (numLanes (bitAt f.m 0) o) = 0 ∨ s.svTrap (dieOf s.focus) l.svid = false → k.Room →
      exec (.stln f) s = .next { issued s 0 k with dies := (((W.of s).svUpdate (dieOf s.focus) l.svid fun r =>
        SvRec.notes r l (numLanes (bitAt f.m 0) o)).dies) }

/-- LDA and STA through the atlas of this package, the store to a VRF line: the load takes the line that the address names, on whatever
core it is, and waits for it where it is absent and the load does not probe, or where an earlier store of the task to it pends.
From any other place, accumulators and registers among them, it takes what stands there, and waits for a tile that is held;
the store, where no earlier access of the task on its bytes pends and its line waits for nothing, writes its bytes there and on no
other core, and no other line of that core changes (05 R119, R122, R139, R140; 11 R261; the times of 05 R131 are log 62, and that
the store lands in its bundle's clock cycle is log 14). -/
def Obligations.AtlasAccess : Prop :=
  ∀ (s : State) (f : Slot) (src : Src) (v : Line) (b o off : Nat),
    let ctx := (s.env s.focus).ctx
    let x := (scalarOf v).toNat
    let a := bits (scalarOf v) 0 48
    let h := (s.now.regs.portW 0x181).toNat
    let later := s.ownMeets s.focus false (some (b, 128)) s.now.pipe.seq
    (Fires s f.g f.s 0x191 src v → s.atlasTarget (dieOf s.focus) ctx (scalarOf v) 128 { rd := true } = .ok (.here b (.vrf o off)) →
      s.locCheck s.focus ctx (s.env s.focus).priv (.vrf o off) (.handle h) = none → a % 128 = 0 →
      (s.core o).soft.contains (off / 128) = false →
      s.now.landingClash (loadPorts 0x191 f.m) (s.now.pipe.run + landingClass f.m) = none →
      ((s.core o).present (off / 128) = true ∨ f.m.getLsbD 3 = true →
       let probe := if f.m.getLsbD 3 then [(0x181, lineOf (if (s.core o).present (off / 128) then 1 else 0))] else []
       let k := (s.now.fired src).withItem (landing s 0x191 f.m x (s.loadTime s.focus ctx 0x191 x)
         ((0x180, (s.core o).line (off / 128)) :: probe))
       later = false → k.Room → exec (.lda f) s = .next (issued s 0 k)) ∧
      ((s.core o).present (off / 128) = false → f.m.getLsbD 3 = false →
       let k := (s.now.fired src).withItem { landing s 0x191 f.m x (s.loadTime s.focus ctx 0x191 x) [] with
         kind := .lreq, await := .line o (off / 128) }
       later = false → k.Room → exec (.lda f) s = .next (issued s 0 k)) ∧
      (let k := (s.now.fired src).withItem { landing s 0x191 f.m x (s.loadTime s.focus ctx 0x191 x) [] with
         kind := .lreq, await := .again }
       later = true → k.Room → exec (.lda f) s = .next (issued s 0 k))) ∧
    (∀ l : Loc, Fires s f.g f.s 0x191 src v → s.atlasTarget (dieOf s.focus) ctx (scalarOf v) 128 { rd := true } = .ok (.here b l) →
      (∀ o off, l ≠ .vrf o off) → (∀ o off, l = .acc o off → (s.core o).softAcc = []) →
      s.locCheck s.focus ctx (s.env s.focus).priv l (.handle h) = none → a % 128 = 0 →
      s.now.landingClash (loadPorts 0x191 f.m) (s.now.pipe.run + landingClass f.m) = none → later = false →
      ((f.m.getLsbD 3 = true ∨ ∀ o off, l = .acc o off → s.accWaits o ctx (off / 20480) = false) →
       let probe := if f.m.getLsbD 3 then [(0x181, lineOf 1)] else []
       let k := (s.now.fired src).withItem (landing s 0x191 f.m x (s.loadTime s.focus ctx 0x191 x)
         ((0x180, BitVec.ofNat 1024 (s.atlasNat ctx b 128)) :: probe))
       k.Room → exec (.lda f) s = .next (issued s 0 k)) ∧
      (∀ o off, l = .acc o off → f.m.getLsbD 3 = false → s.accWaits o ctx (off / 20480) = true →
       let k := (s.now.fired src).withItem { landing s 0x191 f.m x (s.loadTime s.focus ctx 0x191 x) [] with
         kind := .lreq, await := .tile o (off / 20480) }
       k.Room → exec (.lda f) s = .next (issued s 0 k))) ∧
    (f.m.toNat % 8 < 5 → Fires s f.g f.s 0x192 src v →
      s.atlasTarget (dieOf s.focus) ctx (scalarOf v) (128 / 2 ^ (f.m.toNat % 8)) { wr := true } = .ok (.here b (.vrf o off)) →
      atlasLoc b = some (.vrf o off) →
      s.locCheck s.focus ctx (s.env s.focus).priv (.vrf o off) (.handle h) = none → a % (128 / 2 ^ (f.m.toNat % 8)) = 0 →
      s.ownMeets s.focus true (some (b, 128 / 2 ^ (f.m.toNat % 8))) s.now.pipe.seq = false →
      s.ownBefore s.focus { seq := s.now.pipe.seq, op := 0x192, addr := word b, x := word (128 / 2 ^ (f.m.toNat % 8)), m := f.m
                            ctx := ctx } = false →
      s.writeWaits s.focus ctx (.vrf o off) = false → s.NoneDue → (s.now.fired src).Room →
      ∃ t, exec (.sta f) s = .next t ∧ t.dies = s.dies ∧ t.mem = s.mem ∧ t.pkg = s.pkg ∧
        (t.core o).line (off / 128) = setLineBytes ((s.core o).line (off / 128)) (off % 128) (128 / 2 ^ (f.m.toNat % 8))
          (lineBytes (s.now.regs.port 0x180) (a % 128) (128 / 2 ^ (f.m.toNat % 8))) ∧
        (∀ ln, ln ≠ off / 128 → (t.core o).line ln = (s.core o).line ln) ∧
        (∀ c, c ≠ o → c ≠ s.focus → t.core c = s.core c) ∧ t.now.regs = s.now.regs)

/-! ### Buffers and handles (05 R132..R134, R141) -/

/-- HMAKE makes a buffer of the issuer's own lines in the lowest FREE slot: its item gives handle and status 0 after four run
cycles; with no FREE slot status 1, with lines of another buffer status 2, and the table stays; the first line outside the allotment
is a WINDOW_FAULT (05 R132, R141).
HGIVE, HTAKE and HREL on a buffer of the issuing core's own table. HGIVE of a buffer that it holds and that no copy
touches, to another enabled core of the cluster, offers it; HTAKE of one offered by it or to it holds it again; HREL of one
that it holds frees the slot and raises its generation; each gives handle and status 0 after 12 run cycles. HGIVE of a
buffer that a copy touches gives status 6, to itself or a disabled core status 7, the giver's right suspended until then. A
handle of a freed slot gives status 5, a buffer that the issuer does not hold status 3, an HTAKE of one that is not offered by it or to it
status 4, an HREL of one that a copy touches status 6, and no table changes. Each where no earlier handle operation and no
earlier STA of the task pends. The same operations on a buffer of another core's table change that core's slot, and an HREL by a
holder that is not the owner gives the buffer back to the owner (05 R133, R134, R141; which status is reported where two hold
is log 54). -/
def Obligations.Buffers : Prop :=
  (
    (∀ i, i < 64 → TriggersIf 0x193 .hmake
      (fun s _ v =>
        let first := bits (scalarOf v) 0 15
        let n := bits (scalarOf v) 16 15
        s.now.ctx = some (s.env s.focus).ctx ∧
        (∀ j, j ≤ n → s.allotted s.focus (s.env s.focus).ctx (first + j) = true) ∧ (s.now.buf i).st = 0 ∧
        (∀ j, j < i → (s.now.buf j).st ≠ 0) ∧
        ∀ e ∈ s.now.bufs, e.2.st ≠ 0 → first + n < e.2.first ∨ e.2.first + e.2.cntm1 < first)
      (fun s f v k =>
        let b : Buf := { first := bits (scalarOf v) 0 15, cntm1 := bits (scalarOf v) 16 15, holder := s.focus % 16, st := 1
                         gen := (s.now.buf i).gen }
        { k with bufs := Tab.put {} k.bufs i b }.withItem
          { trigItem s 0x193 f.m 4 (scalarOf v) 0 [(0x182, lineOf (word (b.handle s.focus i % 65536)))] with
            kind := .atr })) ∧
    TriggersIf 0x193 .hmake
      (fun s _ v => (∀ j, j ≤ bits (scalarOf v) 16 15 →
          s.allotted s.focus (s.env s.focus).ctx (bits (scalarOf v) 0 15 + j) = true) ∧ ∀ j, j < 64 → (s.now.buf j).st ≠ 0)
      (fun s f v k => k.withItem { trigItem s 0x193 f.m 4 (scalarOf v) 0 [(0x182, lineOf (word 65536))] with kind := .atr }) ∧
    (∀ i, i < 64 → ∀ e : Nat × Buf, TriggersIf 0x193 .hmake
      (fun s _ v =>
        let first := bits (scalarOf v) 0 15
        let n := bits (scalarOf v) 16 15
        (∀ j, j ≤ n → s.allotted s.focus (s.env s.focus).ctx (first + j) = true) ∧ (s.now.buf i).st = 0 ∧
        e ∈ s.now.bufs ∧ e.2.st ≠ 0 ∧ e.2.first ≤ first + n ∧ first ≤ e.2.first + e.2.cntm1)
      (fun s f v k => k.withItem { trigItem s 0x193 f.m 4 (scalarOf v) 0 [(0x182, lineOf (word (2 * 65536)))] with kind := .atr })) ∧
    (∀ j, TrapsIf 0x193 .hmake
      (fun s _ v => j ≤ bits (scalarOf v) 16 15 ∧
        s.allotted s.focus (s.env s.focus).ctx (bits (scalarOf v) 0 15 + j) = false ∧
        ∀ i, i < j → s.allotted s.focus (s.env s.focus).ctx (bits (scalarOf v) 0 15 + i) = true)
      (fun _ _ v => windowFault 1 (bits (scalarOf v) 0 15 + j) 0x193))
  ) ∧
  (
    (∀ (s : State) (f : Slot) (src : Src) (v : Line) (h : Nat),
      let i := handleSlot h
      let b := s.now.buf i
      let out (id st : Nat) (fx : Fx) (k : Core) : Core := k.withItem
        { trigItem s id f.m 12 (word h) 0 [(0x182, lineOf (word (h % 65536 + st * 65536)))] with kind := .atr, fx := fx }
      let put (x : Buf) : Core := { (s.now.fired src) with bufs := Tab.put {} s.now.bufs i x }
      h < 65536 → handleOwner s.focus h = s.focus → s.now.ctx = some (s.env s.focus).ctx → handleLive b h = true →
      (∀ a ∈ s.ownOpen s.focus, a.handleOp = false ∧ a.op ≠ 0x192) →
      (h = (s.now.regs.portW 0x181).toNat % 65536 → Fires s f.g f.s 0x194 src v → b.st = 1 → b.holder = s.focus % 16 →
        s.bufBusy s.focus s.focus b = false → bits (scalarOf v) 0 4 ≠ s.focus % 16 →
        s.coreEnabled (s.focus / 16 * 16 + bits (scalarOf v) 0 4) = true →
        (let k := out 0x194 0 (.right s.focus (s.env s.focus).ctx i) (put
          { b with st := 2, target := bits (scalarOf v) 0 4, gap := some (s.focus % 16, s.now.pipe.seq) })
         k.Room → exec (.hgive f) s = .next (issued s 0 k))) ∧
      (∀ st, h = (s.now.regs.portW 0x181).toNat % 65536 → Fires s f.g f.s 0x194 src v → b.st = 1 → b.holder = s.focus % 16 →
        (st = 6 ∧ s.bufBusy s.focus s.focus b = true) ∨ (st = 7 ∧ s.bufBusy s.focus s.focus b = false ∧
          (bits (scalarOf v) 0 4 = s.focus % 16 ∨ s.coreEnabled (s.focus / 16 * 16 + bits (scalarOf v) 0 4) = false)) →
        (let k := out 0x194 st (.right s.focus (s.env s.focus).ctx i) (put { b with gap := some (s.focus % 16, s.now.pipe.seq) })
         k.Room → exec (.hgive f) s = .next (issued s 0 k))) ∧
      (h = (scalarOf v).toNat % 65536 → Fires s f.g f.s 0x195 src v → b.st = 2 →
        (b.target = s.focus % 16 ∨ b.holder = s.focus % 16) →
        (let k := out 0x195 0 (.right s.focus (s.env s.focus).ctx i) (put
          { b with st := 1, holder := s.focus % 16, target := 0, gap := some (s.focus % 16, s.now.pipe.seq) })
         k.Room → exec (.htake f) s = .next (issued s 0 k))) ∧
      (h = (scalarOf v).toNat % 65536 → Fires s f.g f.s 0x196 src v → b.st = 1 → b.holder = s.focus % 16 →
        s.bufBusy s.focus s.focus b = false →
        (let k := out 0x196 0 .none (put { gen := if 63 ≤ b.gen then 1 else b.gen + 1 })
         k.Room → exec (.hrel f) s = .next (issued s 0 k)))) ∧
    (∀ (s : State) (f : Slot) (src : Src) (v : Line) (h : Nat),
      let b := s.now.buf (handleSlot h)
      let answers (id st : Nat) (i : Instr) : Prop :=
        let k := (s.now.fired src).withItem { trigItem s id f.m 12 (word h) 0
          [(0x182, lineOf (word (h % 65536 + st * 65536)))] with kind := .atr }
        k.Room → exec i s = .next (issued s 0 k)
      h < 65536 → handleOwner s.focus h = s.focus → s.now.ctx = some (s.env s.focus).ctx →
      (∀ a ∈ s.ownOpen s.focus, a.handleOp = false ∧ a.op ≠ 0x192) →
      (h = (s.now.regs.portW 0x181).toNat % 65536 → Fires s f.g f.s 0x194 src v →
        (handleLive b h = false → answers 0x194 5 (.hgive f)) ∧
        (handleLive b h = true → b.st ≠ 1 ∨ b.holder ≠ s.focus % 16 → answers 0x194 3 (.hgive f))) ∧
      (h = (scalarOf v).toNat % 65536 → Fires s f.g f.s 0x195 src v →
        (handleLive b h = false → answers 0x195 5 (.htake f)) ∧
        (handleLive b h = true → b.st ≠ 2 ∨ (b.target ≠ s.focus % 16 ∧ b.holder ≠ s.focus % 16) →
          answers 0x195 4 (.htake f))) ∧
      (h = (scalarOf v).toNat % 65536 → Fires s f.g f.s 0x196 src v →
        (handleLive b h = false → answers 0x196 5 (.hrel f)) ∧
        (handleLive b h = true → b.st ≠ 1 ∨ b.holder ≠ s.focus % 16 → answers 0x196 3 (.hrel f)) ∧
        (handleLive b h = true → b.st = 1 → b.holder = s.focus % 16 → s.bufBusy s.focus s.focus b = true →
          answers 0x196 6 (.hrel f)))) ∧
    (∀ (s : State) (f : Slot) (src : Src) (v : Line) (h : Nat),
      let ctx := (s.env s.focus).ctx
      let o := handleOwner s.focus h
      let i := handleSlot h
      let b := (s.core o).buf i
      let gap := some (s.focus % 16, s.now.pipe.seq)
      let gives (id : Nat) (e : Instr) (fx : Fx) (x : Buf) : Prop :=
        let k := (s.now.fired src).withItem
          { trigItem s id f.m 12 (word h) 0 [(0x182, lineOf (word h))] with kind := .atr, fx := fx }
        k.Room → ∃ t, exec e s = .next t ∧ t.mem = s.mem ∧ t.dies = s.dies ∧ t.pkg = s.pkg ∧
          t.now = k.cycled s.clk (s.now.weight 0) ∧ t.core o = { s.core o with bufs := Tab.put {} (s.core o).bufs i x } ∧
          ∀ c, c ≠ o → c ≠ s.focus → t.core c = s.core c
      h < 65536 → o ≠ s.focus → (s.core o).ctx = some ctx → handleLive b h = true →
      (∀ a ∈ s.ownOpen s.focus, a.handleOp = false ∧ a.op ≠ 0x192) →
      (h = (s.now.regs.portW 0x181).toNat % 65536 → Fires s f.g f.s 0x194 src v → b.st = 1 → b.holder = s.focus % 16 →
        s.bufBusy s.focus o b = false → bits (scalarOf v) 0 4 ≠ s.focus % 16 →
        s.coreEnabled (s.focus / 16 * 16 + bits (scalarOf v) 0 4) = true →
        gives 0x194 (.hgive f) (.right o ctx i) { b with st := 2, target := bits (scalarOf v) 0 4, gap := gap }) ∧
      (h = (scalarOf v).toNat % 65536 → Fires s f.g f.s 0x195 src v → b.st = 2 →
        (b.target = s.focus % 16 ∨ b.holder = s.focus % 16) →
        gives 0x195 (.htake f) (.right o ctx i) { b with st := 1, holder := s.focus % 16, target := 0, gap := gap }) ∧
      (h = (scalarOf v).toNat % 65536 → Fires s f.g f.s 0x196 src v → b.st = 1 → b.holder = s.focus % 16 →
        s.bufBusy s.focus o b = false → gives 0x196 (.hrel f) .none { b with holder := o % 16, target := 0, gap := none }))
  )

/-! ### The vector and function units (07) -/

/-- The lane arithmetic: sums, differences, products, the three fused forms, minima, maxima, absolute value, negation and
clamping of the lanes, exact and rounded once; the fused forms take five run cycles, the others four (07 R166..R169).
The compares give a mask, bit k for lane k; the select takes the lanes of a where the mask in c has a 1; the reductions
give their word in `vec.m` after eight run cycles (07 R167, R170..R172).
The lane moves and conversions: broadcast of the lane that a names, the shuffle over the lanes of b and c, the two
widenings, the narrowing, integers to lanes and back, and the pulse codes (07 R167, R173..R176). Which of its inputs the
entry of an operation holds is log 18. -/
def Obligations.VectorUnit : Prop :=
  (
    LaneOp 0x1c2 .vadd 4 true false (fun a b _ => a.add b) ∧
    LaneOp 0x1c3 .vsub 4 true false (fun a b _ => a.add b.negate) ∧
    LaneOp 0x1c4 .vmul 4 true false (fun a b _ => a.mul b) ∧
    LaneOp 0x1c5 .vfma 5 true true (fun a b c => (a.mul b).add c) ∧
    LaneOp 0x1c6 .vfms 5 true true (fun a b c => (a.mul b).add c.negate) ∧
    LaneOp 0x1c7 .vnfma 5 true true (fun a b c => c.add (a.mul b).negate) ∧
    LaneOp 0x1c8 .vmin 4 true false (fun a b _ => numMin a b) ∧
    LaneOp 0x1c9 .vmax 4 true false (fun a b _ => numMax a b) ∧
    LaneOp 0x1ca .vabs 4 false false (fun _ b _ => b.abs) ∧
    LaneOp 0x1cb .vneg 4 false false (fun _ b _ => b.negate) ∧
    LaneOp 0x1cc .vclamp 4 true true (fun a b c => numMin (numMax b a) c) ∧
    VectorOp 0x1cd .vscale 4 true false (fun fp _ a b _ =>
      [(0x1c0, packNums fp ((numLanes fp b).map fun x => x.scale (scalarOf a).toInt))])
  ) ∧
  (
    MaskOp 0x1ce .vcmplt 4 true (fun fp _ a b => laneMask FNum.lt (numLanes fp a) (numLanes fp b)) ∧
    MaskOp 0x1cf .vcmple 4 true (fun fp _ a b => laneMask FNum.le (numLanes fp a) (numLanes fp b)) ∧
    MaskOp 0x1d0 .vcmpeq 4 true (fun fp _ a b => laneMask FNum.eqv (numLanes fp a) (numLanes fp b)) ∧
    VectorOp 0x1d1 .vsel 4 true true (fun fp _ a b c =>
      [(0x1c0, packRaw fp ((List.range (lanesOf fp)).map fun q =>
        if c.getLsbD q then (rawLanes fp a).getD q 0 else (rawLanes fp b).getD q 0))]) ∧
    MaskOp 0x1d2 .vsum 8 false (fun fp _ _ b => (treeSum (treeDepth fp) (numLanes fp b)).toNat) ∧
    MaskOp 0x1d3 .vmaxr 8 false (fun fp m _ b =>
      maxReduce (if m.getLsbD 1 then (numLanes fp b).map FNum.abs else numLanes fp b)) ∧
    MaskOp 0x1d4 .vdot 8 true (fun fp _ a b =>
      (treeSum (treeDepth fp) (((numLanes fp a).zip (numLanes fp b)).map fun x => (x.1.mul x.2).rnd32)).toNat) ∧
    MaskOp 0x1d5 .vstat 8 true (fun fp m a b =>
      vstat fp (numLanes fp b) (if m.getLsbD 1 then some (fp32 (lane32 a 0)) else none)) ∧
    ∀ (f : FNum → FNum → Bool) (a b : List FNum) (q : Nat), q < a.length → a.length = b.length →
      (laneMask f a b).testBit q = f (a.getD q .nan) (b.getD q .nan)
  ) ∧
  (
    VectorOp 0x1d6 .vbcast 4 true false (fun fp _ a b _ =>
      [(0x1c0, packRaw fp (List.replicate (lanesOf fp) ((rawLanes fp b).getD (a.toNat % lanesOf fp) 0)))]) ∧
    VectorOp 0x1d7 .vshuf 4 true true (fun fp _ a b c =>
      [(0x1c0, packRaw fp ((List.range (lanesOf fp)).map fun q =>
        if 128 ≤ lineByte a q then 0
        else (rawLanes fp b ++ rawLanes fp c).getD (lineByte a q % (2 * lanesOf fp)) 0))]) ∧
    VectorOp 0x1d8 .vwidenl 4 false false (fun _ _ _ b _ => [(0x1c0, packNums true ((numLanes false b).take 32))]) ∧
    VectorOp 0x1d9 .vwidenh 4 false false (fun _ _ _ b _ => [(0x1c2, packNums true ((numLanes false b).drop 32))]) ∧
    VectorOp 0x1da .vnarrow 4 true false (fun _ _ a b _ =>
      [(0x1c0, packNums false (numLanes true a ++ numLanes true b))]) ∧
    VectorOp 0x1db .vcvtif 4 false false (fun fp m _ b _ =>
      [(0x1c0, packNums fp ((rawLanes fp b).map fun (x : Nat) =>
        FNum.ofInt (if m.getLsbD 1 then (x : Int) else sext (if fp then 32 else 16) x)))]) ∧
    VectorOp 0x1dc .vcvtfi 4 false false (fun fp m _ b _ =>
      let w := if fp then 32 else 16
      let lo : Int := if m.getLsbD 1 then 0 else -(2 ^ (w - 1))
      let hi : Int := if m.getLsbD 1 then 2 ^ w - 1 else 2 ^ (w - 1) - 1
      [(0x1c0, packRaw fp ((numLanes fp b).map fun x => (cvtInt lo hi x % 2 ^ w).toNat))]) ∧
    VectorOp 0x1dd .pprob 4 true true (fun fp m a b c =>
      let codes := (numLanes fp b).map fun x => pprobLane x (bf16 (lane a 0))
      [(0x1c0, packRaw false (if !fp then codes else
        if m.getLsbD 1 then (rawLanes false c).take 32 ++ codes else codes ++ (rawLanes false c).drop 32))])
  )

/-- QNT, QSCALE and DQNT complete under a usable current legend: QNT with the legend's scale, QSCALE with the scale in a,
encode the lanes into the code bytes that the modifier names and leave the others as c has them, the status word in `vec.m`, and
the number of clamped lanes for the legend's survey at completion; DQNT decodes the code bytes with the scale in a. What a
replay entry of each holds: b and c of QNT, which does not read a, a, b and c of QSCALE, a and b of DQNT, and the line with the
legend and e_s, so that QNT's has three line-wide inputs and, five run cycles before its end with two data lines before it, the
first word of 19 R369's entry 1. A legend id outside the context's range is a WINDOW_FAULT, an unusable legend an ENGINE_FAULT
(02 R66; 05 R121; 07 R177..R179; 10 R238; 13 R300; 19 R369; which inputs an entry holds is log 18, which of two faults comes first
log 34). -/
def Obligations.Quantize : Prop :=
  let leg (s : State) : Legend := s.legend (dieOf s.focus) (bits s.now.ctl.fmt 0 12)
  let id (s : State) : Nat := bits s.now.ctl.fmt 0 12
  let mine (s : State) : Prop := s.legendInRange (dieOf s.focus) (s.env s.focus).ctx (id s) = true
  let usable (s : State) : Prop := mine s ∧ (leg s).usable = true
  let lawful (s : State) (_ : Slot) (_ : Line) : Prop := usable s ∧ (s.env s.focus).svOk (leg s).svid = true
  let a (s : State) : Line := s.now.regs.port 0x1c0
  let first (f : Slot) : Nat := if f.m.getLsbD 0 then 32 * (f.m.toNat / 2 % 4) else if f.m.getLsbD 1 then 64 else 0
  let n (f : Slot) : Nat := if f.m.getLsbD 0 then 32 else 64
  let coded (id : Nat) (es : Int × Bool) (ins : List Line) (s : State) (f : Slot) (b : Line) (k : Core) : Core :=
    let c := s.now.regs.port 0x1c1
    let enc := (numLanes (f.m.getLsbD 0) b).map fun x => (leg s).encode x es.1
    let clamped := (enc.filter fun x => x.2).length
    k.withItem { trigItem s id f.m 6 0 0
        [(0x1c0, packBytes ((List.range 128).map fun j =>
            if first f ≤ j ∧ j < first f + n f then (enc.map (·.1)).getD (j - first f) 0 else lineByte c j)),
         (0x1c1, lineOf (word ((es.1 % 256).toNat + clamped * 256 + (if es.2 then 1 else 0) * 65536)))] with
      lines := ins ++ [b, c, legendLine (leg s) es.1], fx := .clamp (dieOf s.focus) (leg s).svid clamped }
  TriggersIf 0x1de .qnt lawful (fun s => coded 0x1de (s.scaleOf (dieOf s.focus) (leg s)) [] s) ∧
  TriggersIf 0x1e0 .qscale lawful (fun s => coded 0x1e0 (((a s).truncate 8).toInt, false) [a s] s) ∧
  TriggersIf 0x1df .dqnt (fun s _ _ => usable s)
    (fun s f b k =>
      k.withItem { trigItem s 0x1df f.m 6 0 0
          [(0x1c0, packNums (f.m.getLsbD 0)
            ((List.range (n f)).map fun j => (leg s).wide (lineByte b (first f + j)) ((a s).truncate 8).toInt))] with
        lines := [a s, b, legendLine (leg s) ((a s).truncate 8).toInt] }) ∧
  (∀ p ∈ [(0x1de, Instr.qnt), (0x1e0, .qscale), (0x1df, .dqnt)],
    TrapsIf p.1 p.2 (fun s _ _ => ¬ mine s) (fun s _ _ => windowFault 1 (id s) p.1) ∧
    TrapsIf p.1 p.2 (fun s _ _ => mine s ∧ (leg s).usable = false) (fun _ _ _ => engineFault 1 p.1)) ∧
  (∀ (it : Item) (run : Nat), it.kind = .dig → it.id = 0x1de → it.m = 0 → it.lines.length = 3 → it.due = run + 5 →
    ((it.replay run).entry 2).extractLsb' 0 64 = 0x0000000562001DE1)

/-- The twelve functions complete: `sfn.r` takes `fnLane` of each lane of the trigger line after 12 run cycles. What that
lane is at R183's special inputs, for BF16 and FP32: a NaN, the infinities, zeros and subnormals of either sign, and negative
finite values where the function has none there; and in R183's six example lanes, with LN and LOG2 of 1 (07 R182, R183; the
other finite values are what the model's enclosure rounds to, log 10). -/
def Obligations.Functions : Prop :=
  FunctionOp 1 .exp ∧ FunctionOp 2 .exp2 ∧ FunctionOp 3 .ln ∧ FunctionOp 4 .log2 ∧ FunctionOp 5 .rcp ∧
  FunctionOp 6 .rsqrt ∧ FunctionOp 7 .sqrt ∧ FunctionOp 8 .tanh ∧ FunctionOp 9 .sigm ∧ FunctionOp 10 .gelu ∧
  FunctionOp 11 .silu ∧ FunctionOp 12 .erf ∧
  (∀ f n x, f = 7 ∨ f = 23 → 1 ≤ n → n ≤ 12 → x < 2 ^ (f + 9) →
    let one := 127 * 2 ^ f
    let inf := 255 * 2 ^ f
    let minus := 2 ^ (f + 8)
    let nan := 0x7FC0 * 2 ^ (f - 7)
    let sign := x / minus * minus
    (x / 2 ^ f % 256 = 255 → x % 2 ^ f ≠ 0 → fnLane f n x = nan) ∧
    (x = inf → fnLane f n x = match n with | 5 | 6 => 0 | 8 | 9 | 12 => one | _ => inf) ∧
    (x = minus + inf → fnLane f n x =
      match n with | 1 | 2 | 9 => 0 | 3 | 4 | 6 | 7 => nan | 8 | 12 => minus + one | _ => minus) ∧
    (x / 2 ^ f % 256 = 0 → fnLane f n x =
      match n with | 1 | 2 => one | 3 | 4 => minus + inf | 5 | 6 => sign + inf | 9 => 126 * 2 ^ f | _ => sign) ∧
    (minus ≤ x → 0 < x / 2 ^ f % 256 → x / 2 ^ f % 256 < 255 → n = 3 ∨ n = 4 ∨ n = 6 ∨ n = 7 → fnLane f n x = nan)) ∧
  fnLane 7 7 0x4000 = 0x3FB5 ∧ fnLane 7 1 0x42B2 = 0x7F80 ∧ fnLane 7 1 0xC2B0 = 0 ∧ fnLane 7 8 0x4080 = 0x3F80 ∧
  fnLane 7 10 0xC040 = 0xBB85 ∧ fnLane 7 3 1 = 0xFF80 ∧ fnLane 7 3 0x3F80 = 0 ∧ fnLane 7 4 0x3F80 = 0

/-- Noting one element: COUNT rises and saturates; a NaN sets NAN and nothing more; another value raises MAX to its
magnitude rounded to FP32 and its bin by one, and above the noting limit OVF rises and HIT is set; base, flags of the
configuration and the home stay (10 R231, R232). -/
def Obligations.NoteElement : Prop :=
  ∀ (r : SvRec) (l : Legend) (x : FNum),
    bits (SvRec.note r l x) 96 32 = Nat.min (bits r 96 32 + 1) (2 ^ 32 - 1) ∧
    bits (SvRec.note r l x) 32 12 = bits r 32 12 ∧ bits (SvRec.note r l x) 46 18 = bits r 46 18 ∧
    (x.isNan = true → bitAt (SvRec.note r l x) 44 = true ∧ bits (SvRec.note r l x) 0 32 = bits r 0 32 ∧
      bits (SvRec.note r l x) 45 51 = bits r 45 51 ∧ bits (SvRec.note r l x) 128 384 = bits r 128 384) ∧
    (x.isNan = false →
      bitAt (SvRec.note r l x) 44 = bitAt r 44 ∧
      bits (SvRec.note r l x) 0 32 = Nat.max (bits r 0 32) (x.abs.round 23) ∧
      (∀ k, k < 24 → bits (SvRec.note r l x) (128 + 16 * k) 16 =
        if k = svBin (SvRec.base r) x.abs then Nat.min (bits r (128 + 16 * k) 16 + 1) 65535
        else bits r (128 + 16 * k) 16) ∧
      (bits (SvRec.note r l x) 64 32 =
        if overLimit l x.abs then Nat.min (bits r 64 32 + 1) (2 ^ 32 - 1) else bits r 64 32) ∧
      bitAt (SvRec.note r l x) 45 = (overLimit l x.abs || bitAt r 45))

/-- The sv operations on a home record `n` of the issuing core's die, in the task's range: SVRD gives the record and changes
nothing; SVNOTE notes the elements of a line that the core may read, SVMERGE merges the image of one, SVTRAP writes TRAP
and clears HIT, SVRST configures the record and gives the old one; each gives its line after six run cycles; no other
record, core or byte changes (10 R240..R245).
The survey steps of a die: a delta 4,096 clock cycles old is taken from the entry and given to its home; the oldest one
at a home is merged there; a mirror takes the home record as it stands; an STA replaces the record whole (10 R234, R235,
R239). -/
def Obligations.Surveys : Prop :=
  (
    ∀ (s : State) (f : Slot) (src : Src) (v : Line) (n : Nat),
      let d := dieOf s.focus
      let r := s.survey d n
      let x := scalarOf v
      let ln := s.now.line (bits x 0 15)
      let k (id : Nat) (l : Line) : Core := (s.now.fired src).withItem { trigItem s id f.m 6 0 0 [(0x240, l)] with kind := .res }
      let rest (t : State) : Prop := t.mem = s.mem ∧ t.pkg = s.pkg ∧ (∀ m, m ≠ n → t.survey d m = s.survey d m) ∧
        (∀ e, e ≠ d → t.die e = s.die e) ∧ ∀ c, c ≠ s.focus → t.core c = s.core c
      s.focus < 1024 → s.now.regs.portW 0x240 = word n → n < 4096 → f.m = 0 → (s.env s.focus).svOk n = true → SvRec.fwd r = false →
      (Fires s f.g f.s 0x242 src v → x = 0 → (k 0x242 (svLine r false false)).Room →
        exec (.svrd f) s = .next (issued s 0 (k 0x242 (svLine r false false)))) ∧
      (Fires s f.g f.s 0x243 src v → svnoteOk x = true → readCheck s s.focus (s.env s.focus) false 1 0x243 (bits x 0 15) = none →
        s.now.present (bits x 0 15) = true → bitAt r 40 = false →
        (let new := SvRec.notes r (s.legend d (SvRec.legid r)) (lineNums ln (bits x 15 2) (bits x 17 6 + 1))
         (k 0x243 (svLine new false false)).Room →
         ∃ t, exec (.svnote f) s = .next t ∧ t.survey d n = new ∧ rest t ∧
           t.now = (k 0x243 (svLine new false false)).cycled s.clk (s.now.weight 0))) ∧
      (Fires s f.g f.s 0x244 src v → bits x 15 49 = 0 → readCheck s s.focus (s.env s.focus) false 1 0x244 (bits x 0 15) = none →
        s.now.present (bits x 0 15) = true →
        (let same := decide (SvRec.base (ln.truncate 512) = SvRec.base r)
         let new := SvRec.merge r (ln.truncate 512) same
         (k 0x244 (svLine new false !same)).Room →
         ∃ t, exec (.svmerge f) s = .next t ∧ t.survey d n = new ∧ rest t ∧
           t.now = (k 0x244 (svLine new false !same)).cycled s.clk (s.now.weight 0))) ∧
      (Fires s f.g f.s 0x245 src v → bits x 2 62 = 0 →
        (let r1 : BitVec 512 := setBits r 40 1 (bits x 0 1)
         let new : BitVec 512 := if x.getLsbD 1 then setBits r1 45 1 0 else r1
         (k 0x245 (svLine new false false)).Room →
         ∃ t, exec (.svtrap f) s = .next t ∧ t.survey d n = new ∧ rest t ∧
           t.now = (k 0x245 (svLine new false false)).cycled s.clk (s.now.weight 0))) ∧
      (Fires s f.g f.s 0x241 src v → svrstOk d x = true → s.legendInRange d (s.env s.focus).ctx (bits x 16 12) = true →
        x.getLsbD 14 = false → (k 0x241 (svLine r false false)).Room →
         ∃ t, exec (.svrst f) s = .next t ∧ rest t ∧
           t.survey d n = BitVec.ofNat 512 (bits x 0 8 * 2 ^ 32 + bits x 8 1 * 2 ^ 40 + d * 2 ^ 41 + bits x 16 12 * 2 ^ 48) ∧
           t.now = (k 0x241 (svLine r false false)).cycled s.clk (s.now.weight 0))
  ) ∧
  (
    ∀ (s : State) (d n : Nat), d < 8 →
      (∀ x, (s.die d).deltas = [x] → x.sv = n → x.age + 4096 ≤ s.clk → x.home ≠ d →
        ∃ t, exec (.surveyDeltaSend d n) s = .next t ∧ (t.die d).deltas = [] ∧
          (t.die x.home).inDeltas = (s.die x.home).inDeltas ++ [x] ∧ t.cores = s.cores ∧ t.mem = s.mem ∧ t.pkg = s.pkg) ∧
      (∀ x l, (s.die d).inDeltas = x :: l → x.home = d → SvRec.fwd (s.survey d x.sv) = false →
        ∃ t, exec (.surveyDeltaMerge d) s = .next t ∧ (t.die d).inDeltas = l ∧
          t.survey d x.sv = SvRec.merge (s.survey d x.sv) x.img true ∧ t.cores = s.cores ∧ t.mem = s.mem ∧ t.pkg = s.pkg) ∧
      (SvRec.fwd (s.survey d n) = true →
        ∃ t, exec (.surveyMirrorRefresh d n) s = .next t ∧
          Tab.get 0 (t.die d).mirrors n = s.survey (SvRec.home (s.survey d n)) n ∧
          t.cores = s.cores ∧ t.mem = s.mem ∧ t.pkg = s.pkg ∧ (t.die d).surveys = (s.die d).surveys) ∧
      (∀ img, n < 4096 → SvRec.fwd (s.survey d n) = false → bits img 41 3 = d →
        ∃ t, exec (.surveyStaWrite d n img) s = .next t ∧ t.cores = s.cores ∧ t.mem = s.mem ∧ t.pkg = s.pkg ∧
          bits (t.survey d n) 128 384 = bits img 128 384 ∧ bits (t.survey d n) 64 64 = bits img 64 64 ∧
          ∀ m, m ≠ n → t.survey d m = s.survey d m)
  )

/-! ### Sync words (11) -/

/-- An at operation on a word of this package leaves its core: all but AST have an item that waits for the home; the
operation enters the commit buffer with its operands and, when it writes, the wider of its own and the pending fence's
release scope, which ends that fence unless it is an ACAS, which may write nothing (11 R251, R252, R256, R262; 13 R303); a write
that follows a fence covers every earlier write.
An atomic operation performed at its word of this package, free to be performed: the word's low 32 bits take the new
value, sign-extended to 40, as R253 gives it for the operation (a failed ACAS and ALD write nothing); the operation leaves
the list; other words and other cores' stores keep their values; an item that waits for it gets the old value (11 R250, R253).
An AWAITGE is performed once its word has reached its value and not before (R254), a release once what it covers is
performed and not before (R256). Where no AWAITGE is registered that the new value could satisfy. -/
def Obligations.SyncOperations : Prop :=
  (
    ∀ p ∈ [(0x282, Instr.ald), (0x283, .ast), (0x284, .aadd), (0x285, .amax), (0x286, .amin), (0x287, .aswap),
           (0x288, .acas), (0x289, .abind), (0x28a, .aunbind), (0x28b, .awaitge)],
      ∀ b o off : Nat, TriggersIf p.1 p.2
        (fun s f v => s.atTarget (dieOf s.focus) (s.env s.focus).ctx (s.env s.focus).priv (scalarOf v) = .ok (.here b (.acc o off)) ∧
          bits (scalarOf v) 59 5 = 0 ∧
          (p.1 = 0x289 ∨ p.1 = 0x28a → f.m.getLsbD 3 = false ∧
            bindOk p.1 (s.now.regs.portW 0x280) (s.now.regs.portW 0x281) = true))
        (fun s f v k =>
          let writes := decide (0x283 ≤ p.1 ∧ p.1 ≤ 0x288)
          let own := if writes && f.m.getLsbD 3 then some (f.m.toNat % 8) else none
          let rel := if writes then (match own, s.now.relFence with
            | some a, some b => some (Nat.max a b)
            | some a, none => some a
            | none, b => b) else none
          let lat := if o = s.focus then 12 else if o / 16 = s.focus / 16 then 24 else 60
          let k1 := if writes && decide (p.1 ≠ 0x288) then { k with relFence := none } else k
          let k2 := if p.1 = 0x283 then k1 else k1.withItem
            { trigItem s p.1 f.m lat (scalarOf v) 0 [] with kind := .atr, await := .agent }
          { k2 with cbuf := k2.cbuf ++ [(s.clk, .at s.now.pipe.seq p.1 (word b) (s.now.regs.portW 0x280)
            (s.now.regs.portW 0x281) f.m rel (writes && s.now.relFence.isSome))] })
  ) ∧
  (
    ∀ (s : State) (c n o i : Nat) (a : AtOp), (s.core c).ats[n]? = some a → s.atFree c n a = true →
      (0x282 ≤ a.op ∧ a.op ≤ 0x288) ∨ a.op = 0x28b → a.far = false → a.mute = false ∨ a.src < 8192 →
      s.atHome a.ctx a.addr = some (o, i) →
      let old : BitVec 32 := ((s.core o).acc (i / 4096) (i % 4096)).truncate 32
      let v : BitVec 32 := a.x.truncate 32
      let new : Option (BitVec 32) :=
        if a.op = 0x283 ∨ a.op = 0x287 then some v
        else if a.op = 0x284 then some (old + v)
        else if a.op = 0x285 then some (if v.sle old then old else v)
        else if a.op = 0x286 then some (if old.sle v then old else v)
        else if a.op = 0x288 ∧ old = a.y.truncate 32 then some v
        else none
      let performed (e : Instr) : Prop :=
        ∃ t, exec e s = .next t ∧ (t.core c).ats = (s.core c).ats.eraseIdx n ∧ t.mem = s.mem ∧ t.pkg = s.pkg ∧
          Tab.get 0 (t.core o).accw (i / 4096 * 4096 + i % 4096) =
            (match new with | some x => x.signExtend 40 | none => (s.core o).acc (i / 4096) (i % 4096)) ∧
          (∀ j, j ≠ i / 4096 * 4096 + i % 4096 → Tab.get 0 (t.core o).accw j = Tab.get 0 (s.core o).accw j) ∧
          (∀ e, e ≠ o → (t.core e).accw = (s.core e).accw) ∧
          (a.mute = false → ∀ it ∈ (s.core c).pipe.items, it.seq = a.seq → it.await ≠ .ready → it.id < 0x900 →
            { it with await := .ready, wr := [(0x280, lineOf (old.signExtend 64))] } ∈ (t.core c).pipe.items)
      (a.op ≠ 0x28b → a.rel = none → s.NoAwait → performed (.atPerform c n)) ∧
      (a.op = 0x28b → a.rel = none → v.sle old = true → performed (.awaitgeSatisfied c n)) ∧
      (a.op = 0x28b → v.sle old = false → exec (.awaitgeSatisfied c n) s = .next s) ∧
      (∀ sc, a.rel = some sc → s.coverOpen c n a = false → (s.core c).late = [] → s.NoAwait → performed (.releasePerform c n)) ∧
      (∀ sc, a.rel = some sc → s.coverOpen c n a = true → exec (.releasePerform c n) s = .next s)
  )

/-! ### The task block (12) -/

/-- WIDF gives a field of the running task's work id, a field of `task.o`, or `task.o` with a field replaced, after one run
cycle; TOKSEND gives zero after four and its token to the commit buffer; PHASE reports units or asks for a boundary; SPAWN
gives the commit buffer the new record, made of the registers s1..s5, the work id in `task.o`, the trigger word's fields and
the spawner's version and rights; BARC gives its arrival to the commit buffer and BARQ reads the cluster's released count and whether a notice is pending for it
(12 R269, R270, R281, R282, R284, R286, R289). -/
def Obligations.TaskOperations : Prop :=
  let hdr (s : State) : BitVec 1024 := (s.taskLaunch s.focus).hdr
  let o (s : State) : Word := s.now.regs.portW 0x2c0
  let res (s : State) (id : Nat) (m : BitVec 4) (lat : Nat) (x : Word) : Item :=
    { trigItem s id m lat 0 0 [(0x2c0, lineOf x)] with kind := .res }
  let ask (s : State) (id : Nat) (m : BitVec 4) (lat : Nat) (a : Word) : Item :=
    { trigItem s id m lat a 0 [] with kind := .atr, await := .agent }
  let out (s : State) (k : Core) (x : Out) : Core := { k with cbuf := k.cbuf ++ [(s.clk, x)] }
  TriggersIf 0x2c3 (fun f => .widfExtractWid ⟨f.g, f.s⟩) (fun _ _ v => (scalarOf v).toNat < 6)
    (fun s _ v k => k.withItem (res s 0x2c3 0 1 (widGet (hdr s) (scalarOf v).toNat s.now.wid))) ∧
  TriggersIf 0x2c3 (fun f => .widfExtractOperand ⟨f.g, f.s⟩) (fun _ _ v => (scalarOf v).toNat < 6)
    (fun s _ v k => k.withItem (res s 0x2c3 1 1 (widGet (hdr s) (scalarOf v).toNat (o s)))) ∧
  TriggersIf 0x2c3 (fun f => .widfInsert ⟨f.g, f.s⟩)
    (fun s _ v => bits (scalarOf v) 0 3 < 6 ∧ bits (scalarOf v) 3 5 = 0 ∧ (widField (hdr s) (bits (scalarOf v) 0 3)).2 ≤ 56)
    (fun s _ v k => k.withItem (res s 0x2c3 2 1 (widPut (hdr s) (bits (scalarOf v) 0 3) (o s) (bits (scalarOf v) 8 56)))) ∧
  TriggersIf 0x2c2 .toksend
    (fun s f v => (scalarOf v).toNat < 2 ^ 16 ∧ (o s).toNat < 2 ^ 14 ∧ 4 ≤ f.m.toNat ∧ f.m.toNat < 8 ∧
      ((o s).getLsbD 13 = true → 6 ≤ f.m.toNat ∧ bits (o s) 3 10 < s.pkg.dsize.toNat))
    (fun s f v k => out s (k.withItem (res s 0x2c2 f.m 4 0)) (.token s.now.pipe.seq (o s) (scalarOf v).toNat f.m.toNat)) ∧
  TriggersIf 0x2c4 (fun f => .phaseUnit ⟨f.g, f.s⟩)
    (fun s _ v => (s.taskLaunch s.focus).units ≠ [] ∧ (scalarOf v).toNat < 2 ^ 32)
    (fun s _ v k => out s (k.withItem (res s 0x2c4 0 4 0))
      (.unit (recLaunch s.now.taskImg) (bits s.now.taskImg 474 3) (scalarOf v).toNat)) ∧
  TriggersIf 0x2c4 (fun f => .phaseBound ⟨f.g, f.s⟩) (fun s _ v => (s.taskLaunch s.focus).units ≠ [] ∧ scalarOf v = 0)
    (fun s _ _ k => out s (k.withItem (ask s 0x2c4 1 16 0)) (.bound s.now.pipe.seq (recLaunch s.now.taskImg))) ∧
  TriggersIf 0x2c1 .spawn
    (fun s f v => f.m = 0 ∧ bits (scalarOf v) 60 4 = 0 ∧ hdrCode (hdr s) ≤ bits (scalarOf v) 0 46 * 32 ∧
      bits (scalarOf v) 0 46 * 32 + 32 ≤ hdrCode (hdr s) + hdrSize (hdr s))
    (fun s _ v k =>
      let r := s.now.regs
      let x := scalarOf v
      let t := s.now.taskImg
      let img : BitVec 512 :=
        (0 : BitVec 20) ++ t.extractLsb' 480 12 ++ (0 : BitVec 1) ++ t.extractLsb' 477 2 ++ x.extractLsb' 57 3 ++
          t.extractLsb' 472 2 ++ x.extractLsb' 50 7 ++ x.extractLsb' 49 1 ++ x.extractLsb' 46 3 ++
          (0 : BitVec 4) ++ s.now.ctl.fmt.extractLsb' 0 12 ++ s.now.ctl.win.extractLsb' 0 15 ++ x.extractLsb' 0 46 ++
          r.sreg 5 ++ r.sreg 4 ++ r.sreg 3 ++ r.sreg 2 ++ r.sreg 1 ++ o s
      out s (k.withItem (ask s 0x2c1 0 8 x)) (.spawn s.now.pipe.seq img)) ∧
  TriggersIf 0x2c5 .barc
    (fun s f v => f.m.toNat < 2 ∧ (scalarOf v).toNat < 64 ∧
      barValid (s.bar (dieOf s.focus) (s.env s.focus).ctx (scalarOf v).toNat) = true)
    (fun s f v k => out s (k.withItem (ask s 0x2c5 f.m 60 (scalarOf v)))
      (.barc s.now.pipe.seq (scalarOf v).toNat (f.m.getLsbD 0))) ∧
  TriggersIf 0x2c6 .barq
    (fun s f v => f.m = 0 ∧ (scalarOf v).toNat < 64 ∧
      barValid (s.bar (dieOf s.focus) (s.env s.focus).ctx (scalarOf v).toNat) = true)
    (fun s _ v k => k.withItem (res s 0x2c6 0 4 (word
      ((s.releasedCount (dieOf s.focus) (s.env s.focus).ctx (scalarOf v).toNat (clusterOf s.focus)).toNat +
        if ∃ n ∈ (s.die (dieOf s.focus)).board.notices, n.ctx = (s.env s.focus).ctx ∧ n.b = (scalarOf v).toNat ∧
          clusterOf s.focus ∉ n.done then 2 ^ 32 else 0))))

/-! ### The ctl unit (06 R161..R164; 13 R314; 15 R338, R340) -/

/-- CTLR of an assigned register gives its value after two run cycles; a privileged CTLW also writes it from `ctl.o`, its
reserved fields and read-only registers excepted; an unassigned index is an ILLEGAL_PORT, and so is CTLW or TLBINV of an
unprivileged context; TLBINV enters the commit buffer with its form, reach and address and waits for its answer
(01 R34; 06 R161, R162, R164; 13 R305, R314).
What control registers hold: identity, window, format, loop registers, watchdog, busy engines, counts, deadline, cause, error
count, energy budget, the task registers and HALTS; and which of their bits a write reaches: it changes none of identity, busy
engines, prompt status, cause or task registers; a WDG of LIMIT zero is ignored (06 R163, R164; 02 R67; 12 R285; 13 R307; 15 R336; 17 R353). -/
def Obligations.ControlRegisters : Prop :=
  (
    (∀ x, TriggersIf 0x301 .ctlr
      (fun s f v => f.m = 0 ∧ (scalarOf v).toNat < 2 ^ 12 ∧ s.ctlReg s.focus (scalarOf v).toNat = some x)
      (fun s _ _ k => k.withItem { trigItem s 0x301 0 2 0 0 [(0x300, lineOf x)] with kind := .res })) ∧
    (∀ x, TriggersIf 0x302 .ctlw
      (fun s f v => (s.env s.focus).priv = true ∧ f.m = 0 ∧ (scalarOf v).toNat < 2 ^ 12 ∧
        s.ctlReg s.focus (scalarOf v).toNat = some x ∧ s.now.seq.on = false)
      (fun s _ v k => (k.modCtl fun r => r.write (scalarOf v).toNat (s.now.regs.portW 0x300)).withItem
        { trigItem s 0x302 0 2 0 0 [(0x300, lineOf x)] with kind := .res })) ∧
    TriggersIf 0x303 .tlbinv
      (fun s f v => (s.env s.focus).priv = true ∧ f.m = 0 ∧ (scalarOf v).toNat < 8 ∧ bits (scalarOf v) 0 2 < 3 ∧
        (bits (scalarOf v) 0 2 = 1 → bits (s.now.regs.portW 0x300) 51 13 = 0))
      (fun s _ v k =>
        let k := k.withItem { trigItem s 0x303 0 16 (s.now.regs.portW 0x300) 0 [] with kind := .atr, await := .agent }
        { k with cbuf := k.cbuf ++ [(s.clk, .tlbinv s.now.pipe.seq (bits (scalarOf v) 0 2) ((scalarOf v).getLsbD 2)
          (bits (s.now.regs.portW 0x300) 0 51))] }) ∧
    TrapsIf 0x301 .ctlr (fun s f v => f.m = 0 ∧ (scalarOf v).toNat < 2 ^ 12 ∧ s.ctlReg s.focus (scalarOf v).toNat = none)
      (fun _ _ _ => illegalPort 1 0 0x301) ∧
    TrapsIf 0x302 .ctlw (fun s f _ => f.m = 0 ∧ (s.env s.focus).priv = false) (fun _ _ _ => illegalPort 1 2 0x302) ∧
    TrapsIf 0x303 .tlbinv (fun s f _ => f.m = 0 ∧ (s.env s.focus).priv = false) (fun _ _ _ => illegalPort 1 2 0x303)
  ) ∧
  (
    ∀ (s : State) (c : Nat) (r : CtlRegs) (v : Word),
      let k := s.core c
      let b2 (b : Bool) (i : Nat) : Word := if b then word (2 ^ i) else 0
      s.ctlReg c 0x000 = some (word (c % 16 + c / 16 % 8 * 2 ^ 4 + c / 128 * 2 ^ 7 + k.ctx.getD 0 * 2 ^ 10 +
        s.pkg.rank.toNat * 2 ^ 16)) ∧
      s.ctlReg c 0x009 = some (b2 (k.engineBusy 0) 0 + b2 (k.engineBusy 1) 1 + b2 (k.engineBusy 2) 2 + b2 (k.engineBusy 3) 3 +
        b2 ((List.range 8).any k.chanBusy) 4 + b2 (k.tier.any fun t => t.accepted) 5) ∧
      s.ctlReg c 0x100 = some (k.ctl.halts.zeroExtend 64) ∧
      (k.running = none → s.ctlReg c 0x0c0 = some 0 ∧ s.ctlReg c 0x0c1 = some 0) ∧
      (∀ x, k.running = some x →
        let l := (s.die (dieOf c)).board.launch (recLaunch x.img)
        s.ctlReg c 0x0c0 = some (word (bits x.img 461 3 + bits x.img 474 3 * 2 ^ 3 + bits x.img 464 1 * 2 ^ 6 +
          bits x.img 480 12 * 2 ^ 7 + x.e % 8 * 2 ^ 19)) ∧
        s.ctlReg c 0x0c1 = some (word (l.cur % 4 + if l.units.isEmpty then 0 else 4))) ∧
      s.ctlReg c 0x001 = some k.ctl.win ∧ s.ctlReg c 0x002 = some k.ctl.fmt ∧ s.ctlReg c 0x004 = some k.ctl.lpc ∧
      s.ctlReg c 0x005 = some k.ctl.lsq ∧ s.ctlReg c 0x006 = some k.ctl.ltc ∧ s.ctlReg c 0x007 = some k.ctl.lix ∧
      s.ctlReg c 0x008 = some k.ctl.wdg ∧ s.ctlReg c 0x00a = some k.ctl.hcy ∧ s.ctlReg c 0x00b = some k.ctl.scy ∧
      s.ctlReg c 0x040 = some k.ctl.pdl ∧ s.ctlReg c 0x043 = some k.ctl.terr ∧ s.ctlReg c 0x080 = some k.ctl.egr ∧
      (k.mode ≠ .handler → s.ctlReg c 0x042 = some 0) ∧
      (k.mode = .handler → s.ctlReg c 0x042 = some (1 + k.ctl.tcause.zeroExtend 64 * 2)) ∧
      s.ctlReg c 0x003 = none ∧ s.ctlReg c 0x00c = none ∧ s.ctlReg c 0x140 = none ∧
      (r.write 0x001 v).win = v &&& 0x3FFFFF ∧ (r.write 0x002 v).fmt = v &&& 0xFFFFFFFFF7FFF ∧
      (r.write 0x004 v).lpc = v &&& 0x7FFFFFFFFFFE0 ∧ (r.write 0x005 v).lsq = v &&& 0x7FFFF ∧ (r.write 0x006 v).ltc = v ∧
      (r.write 0x007 v).lix = v &&& 0xFFFFFFFFFF ∧
      (r.write 0x008 v).wdg = (if v &&& 0xFFFFFFFF = 0 then r.wdg else v &&& 0xFFFFFFFF) ∧
      (r.write 0x00a v).hcy = v ∧ (r.write 0x00b v).scy = v ∧ (r.write 0x040 v).pdl = v &&& 0xFFFFFFFF ∧
      (r.write 0x043 v).terr = v ∧ (r.write 0x080 v).egr = v &&& 0x7FFFFF ∧
      r.write 0x000 v = r ∧ r.write 0x009 v = r ∧ r.write 0x041 v = r ∧ r.write 0x042 v = r ∧ r.write 0x0c0 v = r
  )

/-- SLEWREQ sets the core's reservation: at once where it does not rise; its item gives the reservation after two run cycles. A FILLER whose weight the reservation covers starts at
once on a free matrix unit and occupies it for 4 (k + 1) run cycles; one block later it draws less, and after the last the
unit is free (06 R164; 15 R338..R340). -/
def Obligations.SlewAndFiller : Prop :=
  TriggersIf 0x304 .slewreq
    (fun s f v => f.m = 0 ∧ (scalarOf v).toNat < 2 ^ 16 ∧ (scalarOf v).toNat ≤ s.now.ctl.res)
    (fun s _ v k => (k.modCtl fun r => { r with res := (scalarOf v).toNat }).withItem
      { trigItem s 0x304 0 2 0 0 [(0x300, lineOf (scalarOf v))] with kind := .res }) ∧
  TriggersIf 0x305 .filler
    (fun s f v => f.m = 0 ∧ (scalarOf v).toNat < 16 ∧ s.now.eng.mx = none ∧ s.now.eng.mxWait = none ∧ s.now.eng.mxEnd.1 ≠ s.clk ∧
      (s.die (dieOf s.focus)).fw (clusterOf s.focus) (scalarOf v).toNat ≤ s.now.ctl.res)
    (fun s _ v k =>
      let x := (s.die (dieOf s.focus)).fw (clusterOf s.focus) (scalarOf v).toNat
      let o : EngineOp := { id := 0x305, trig := scalarOf v, seq := s.now.pipe.seq, u := s.now.pipe.run
                            dc := 4 * ((scalarOf v).toNat + 1), dt := 4 * ((scalarOf v).toNat + 1), started := true
                            bpc := word s.now.pcAddr, stepped := s.now.stepArm }
      (k.modCtl fun r => { r with res := r.res - x }).modEng fun e => { e with mx := some o }) ∧
  ∀ (s : State) (c : Nat) (o : EngineOp), (s.core c).eng.mx = some o → o.id = 0x305 → o.started = true →
    o.u + 4 * (o.step + 1) ≤ (s.core c).pipe.run → o.stepped = false →
    ∃ t, exec (.fillerRampBlock c) s = .next t ∧ t.dies = s.dies ∧ t.mem = s.mem ∧ (∀ e, e ≠ c → t.core e = s.core e) ∧
      (t.core c).regs = (s.core c).regs ∧
      (t.core c).eng.mx = if o.step < bits o.trig 0 4 then some { o with step := o.step + 1 } else none

/-! ### Streams (05 R135..R137, R142) -/

/-- STCFG loads the descriptor of a present line of the core's own into a stream that does not run; STSTAT gives its state;
STSTOP puts it back into CONF with an empty buffer; STGO starts one whose weight the core's reservation covers; each gives
its word after two run cycles. Reserved bits of any of the four triggers, or of its M, are an ENGINE_FAULT (01 R18; 05 R135, R142;
15 R337).
A stream whose START has ended enters RUN when the core's reservation covers its weight; the oldest line of a write
stream's buffer drains (05 R136, R137; 15 R337). That the count n restarts with REPEAT, and counts the accesses of its own bundle, is log
119. -/
def Obligations.Streams : Prop :=
  (
    ∀ n, n < 8 →
      let it (s : State) (id : Nat) (x : Nat) : Item := { trigItem s id 0 2 0 0 [(0x340, lineOf (word x))] with kind := .res }
      let sel (f : Slot) (v : Line) : Prop := scalarOf v = word n ∧ f.m = 0
      let ln (s : State) : Nat := (s.now.regs.portW 0x340).toNat
      TriggersIf 0x341 .stcfg
        (fun s f v => sel f v ∧ ln s < 2 ^ 15 ∧ readCheck s s.focus (s.env s.focus) false 1 0x341 (ln s) = none ∧
          s.now.present (ln s) = true ∧ descOk ((s.now.line (ln s)).truncate 256) = true ∧
          (s.now.stream n).st ≠ 2 ∧ (s.now.stream n).st ≠ 3)
        (fun s _ _ k => (k.setStream n { k.stream n with desc := (s.now.line (ln s)).truncate 256, st := 1, n := 0 }).withItem
          (it s 0x341 0)) ∧
      TriggersIf 0x342 .stgo
        (fun s f v => sel f v ∧ (s.now.stream n).st ≠ 0 ∧
          (s.die (dieOf s.focus)).wst (clusterOf s.focus) ≤ s.now.ctl.res)
        (fun s _ _ k =>
          ((k.modCtl fun r => { r with res := r.res - (s.die (dieOf s.focus)).wst (clusterOf s.focus) }).setStream n
            { k.stream n with st := 3, n := 0 }).withItem (it s 0x342 0)) ∧
      TriggersIf 0x343 .ststop (fun s f v => sel f v ∧ (s.now.stream n).st ≠ 0)
        (fun s _ _ k => (k.setStream n { k.stream n with st := 1, wbuf := [] }).withItem (it s 0x343 (k.stream n).n)) ∧
      TriggersIf 0x344 .ststat (fun _ f v => sel f v)
        (fun s _ _ k => k.withItem (it s 0x344 ((k.stream n).st % 8 + (if (k.stream n).isWrite then 8 else 0) +
          (k.stream n).n % 2 ^ 33 * 256))) ∧
      ∀ p ∈ [(0x341, Instr.stcfg), (0x342, .stgo), (0x343, .ststop), (0x344, .ststat)],
        TrapsIf p.1 p.2 (fun _ f v => 8 ≤ (scalarOf v).toNat ∨ f.m ≠ 0) (fun _ _ _ => engineFault 1 p.1)
  ) ∧
  (
    ∀ (s : State) (c n : Nat),
      (((s.core c).stream n).st = 2 → ((s.core c).stream n).runAt ≤ (s.core c).pipe.run →
        (s.die (dieOf c)).wst (clusterOf c) ≤ (s.core c).ctl.res →
        ∃ t, exec (.streamRun c n) s = .next t ∧ t.dies = s.dies ∧ t.mem = s.mem ∧ (∀ e, e ≠ c → t.core e = s.core e) ∧
          t.core c = ((s.core c).modCtl fun r => { r with res := r.res - (s.die (dieOf c)).wst (clusterOf c) }).setStream n
            { (s.core c).stream n with st := 3 }) ∧
      (∃ t, exec (.streamWriteDrain c n) s = .next t ∧ t.dies = s.dies ∧ t.mem = s.mem ∧ (∀ e, e ≠ c → t.core e = s.core e) ∧
        t.core c = (s.core c).setStream n { (s.core c).stream n with wbuf := ((s.core c).stream n).wbuf.drop 1 })
  )

/-! ### The matrix unit and the accumulator store (08) -/

/-- MMA, MMAZ, MMAT and MMATZ capture the eight ports and the legends and start at their bundle when the unit and the tile are
free, no earlier operation of the task on the tile's words pends, the fields, legends and survey are legal, the lines are in
the allotment, present, whole and the core's own, and the reservation covers the weight: the understudy takes the tile, or zeros, and step 0 is read; the operation lasts
128 K / n + 16 run cycles (08 R184..R190; 15 R337). A reserved trigger or M bit is an ENGINE_FAULT.
What one step adds to a word of the understudy: the matrix step of the products of row i of A and column j of B, in the
one rounding that R69 gives (02 R69; 08 R187). -/
def Obligations.MatrixStarts : Prop :=
  (
    ∀ p ∈ [(0x810, Instr.mma), (0x811, .mmaz), (0x812, .mmat), (0x813, .mmatz)],
      let op (s : State) : EngineOp := { id := p.1, ports := s.now.mxPorts, seq := 0, u := s.now.pipe.run, dc := 0, dt := 0 }
      let legs (s : State) : List (BitVec 128) :=
        if (op s).nar then (op s).legIds.map fun i => s.legend (dieOf s.focus) i else []
      TriggersIf p.1 p.2
        (fun s f v => f.m = 0 ∧ scalarOf v = 0 ∧ (op s).mxFieldsOk s.focus = true ∧
          ((op s).nar = true → ∀ i ∈ (op s).legIds, s.legendInRange (dieOf s.focus) (s.env s.focus).ctx i = true ∧
            Legend.usable (s.legend (dieOf s.focus) i) = true) ∧
          (∀ n, (op s).noteSv = some n → (s.env s.focus).svOk n = true) ∧
          s.now.eng.mx = none ∧ s.now.eng.mxWait = none ∧
          s.now.accMeets (op s).mxTile s.now.pipe.run (128 * (op s).steps + 16) = false ∧
          (op s).badLine s s.focus (s.env s.focus).ctx = none ∧ s.engineLines s.focus ((op s).stepLines 0) = none ∧
          s.TileQuiet s.focus (op s).mxTile ∧ (op s).softC s.now = none ∧
          (s.die (dieOf s.focus)).wmx (clusterOf s.focus) ≤ s.now.ctl.res)
        (fun s _ _ k =>
          let n := 128 * (op s).steps + 16
          let o : EngineOp := { op s with
            seq := s.now.pipe.seq, dc := n, dt := n, due := some s.now.pipe.run, legs := legs s
            bpc := word s.now.pcAddr, stepped := s.now.stepArm }
          (k.modCtl fun r => { r with res := r.res - (s.die (dieOf s.focus)).wmx (clusterOf s.focus) }).modEng fun e =>
            { e with mx := some ((o.begin_ s.now).stepped' s.now) }) ∧
      TrapsIf p.1 p.2 (fun _ f v => scalarOf v ≠ 0 ∨ f.m ≠ 0) (fun _ _ _ => engineFault 1 p.1)
  ) ∧
  (
    ∀ (o : EngineOp) (k : Core) (i j : Nat), i < 64 → j < 64 →
      Tab.get 0 (o.stepped' k).sums (64 * i + j) =
        matrixStep (((o.stepVals k 0 o.step).getD i []).zipWith FNum.mul ((o.stepVals k 1 o.step).getD j []))
          (Tab.get 0 o.sums (64 * i + j)) ∧
      (o.stepped' k).step = o.step + 1 ∧ (o.stepped' k).id = o.id ∧ (o.stepped' k).ports = o.ports
  )

/-- The steps of a matrix operation: it starts at its cycle with the reservation's weight, each read that is due takes the
next step while its lines are present, whole and the core's own, and at the end the tile takes the understudy, `mx.st` the status,
and the unit is free; an operation with NOTE notes its sums in its survey, and a sum beyond the limit of a survey with TRAP
makes RESCALE pending; no other tile, line, register or core changes, where no AWAITGE waits for the tile's words (06 R151,
R152; 08 R188, R190, R192; 10 R232, R238). -/
def Obligations.MatrixSteps : Prop :=
  ∀ (s : State) (c : Nat) (o : EngineOp),
    let k := s.core c
    let alone (t : State) : Prop := t.dies = s.dies ∧ t.mem = s.mem ∧ t.pkg = s.pkg ∧ ∀ e, e ≠ c → t.core e = s.core e
    isMma o.id = true →
    (k.eng.mxWait = some o → k.eng.mx = none → o.behind k.pipe.run = true →
      (s.die (dieOf c)).wmx (clusterOf c) ≤ k.ctl.res →
      ∃ t, exec (.engineStartCycle c 0) s = .next t ∧ alone t ∧
        t.core c = (k.modCtl fun r => { r with res := r.res - (s.die (dieOf c)).wmx (clusterOf c) }).modEng fun e =>
          { e with mxWait := none, mx := some (o.begin_ k) }) ∧
    (k.eng.mx = some o → o.started = true → o.behind k.pipe.run = true → s.engineLines c (o.stepLines o.step) = none →
      (o.step = 0 → o.softC k = none) →
      ∃ t, exec (.mxStepRead c) s = .next t ∧ alone t ∧ t.core c = k.modEng fun e => { e with mx := some (o.stepped' k) }) ∧
    (k.eng.mx = some o → o.started = true → o.step = o.steps → o.u + o.dc ≤ k.pipe.run → o.stepped = false →
      o.noteSv = none → s.NoAwait → (∀ e ∈ o.sums, e.1 < 4096) →
      ∃ t, exec (.mxComplete c) s = .next t ∧ alone t ∧ (t.core c).eng.mx = none ∧
        (∀ i, i < 4096 → (t.core c).acc o.mxTile i = Tab.get 0 o.sums i) ∧
        (∀ x i, x ≠ o.mxTile → i < 4096 → (t.core c).acc x i = k.acc x i) ∧
        (t.core c).regs = k.regs.setResult 0x800 (lineOf o.mxStatus) ∧ (t.core c).vrf = k.vrf) ∧
    (∀ n, k.eng.mx = some o → o.started = true → o.step = o.steps → o.u + o.dc ≤ k.pipe.run → o.stepped = false → o.agent = none →
      o.noteSv = some n → s.NoAwait → (∀ e ∈ o.sums, e.1 < 4096) → c < 1024 → SvRec.fwd (s.survey (dieOf c) n) = false →
      let d := dieOf c
      let r := s.survey d n
      let l := s.legend d (SvRec.legid r)
      let xs := (List.range 4096).map fun i => a40 (Tab.get 0 o.sums i)
      ∃ t, exec (.mxComplete c) s = .next t ∧ t.mem = s.mem ∧ t.pkg = s.pkg ∧ (∀ e, e ≠ c → t.core e = s.core e) ∧
        (∀ e, e ≠ d → t.die e = s.die e) ∧ t.survey d n = SvRec.notes r l xs ∧ (∀ m, m ≠ n → t.survey d m = s.survey d m) ∧
        (t.core c).eng.mx = none ∧ (∀ i, i < 4096 → (t.core c).acc o.mxTile i = Tab.get 0 o.sums i) ∧
        (0 < overCount l xs → SvRec.trap r = true →
          { code := 8, sub := 1, i0 := rescaleInfo d n, i1 := o.bpc, ord := o.seq } ∈ (t.core c).pipe.causes) ∧
        (overCount l xs = 0 ∨ SvRec.trap r = false → (t.core c).pipe.causes = k.pipe.causes))

/-- The acc operations on a free engine, a tile that mx does not hold and on whose words no earlier operation of the task
pends, where a pending release fence is narrower than a die and the words read are whole: ACCRD gives a rounded row or half row after four run
cycles; ACCWR and ACCADD write or add one; ACCZ, ACCSPILL and ACCFILL occupy the engine for 16 and 160 run cycles, the
spill with the tile as it stands, the fill with its first line read; the writing ones act as the release of that fence; ACCTS
gives, loads or rewinds the time-slot table. The rest of the core is unchanged, where no AWAITGE is registered that a written word
could satisfy and the bundle is no stepped one, which reports the end of an operation of one run cycle (08 R194..R200; 17 R356). -/
def Obligations.AccumulatorOperations : Prop :=
  let op (s : State) (id : Nat) (m : BitVec 4) (v : Line) (n : Nat) : EngineOp :=
    { id := id, m := m, trig := scalarOf v, seq := s.now.pipe.seq, u := s.now.pipe.run, dc := n, dt := n, started := true
      bpc := word s.now.pcAddr, stepped := s.now.stepArm }
  let free (s : State) (v : Line) (n : Nat) : Prop :=
    s.now.accNow = none ∧ s.now.mxMeets (bits (scalarOf v) 0 4) s.now.pipe.run n = false ∧ s.TileQuiet s.focus (bits (scalarOf v) 0 4)
  let whole (s : State) (v : Line) (first n : Nat) : Prop :=
    ∀ q, q < n → s.now.softAcc.contains (bits (scalarOf v) 0 4 * 4096 + first + q) = false
  let narrow (s : State) : Prop := ∀ sc, s.now.relFence = some sc → sc < 3
  let released (k : Core) : Core := { k with relFence := none }
  let free1 (s : State) (v : Line) : Prop := free s v 1 ∧ s.now.stepArm = false
  let idle (s : State) : Prop := s.now.accNow = none ∧ s.now.stepArm = false
  let lines (s : State) (v : Line) : Prop := (scalarOf v).toNat < 2 ^ 19 ∧
    ∀ j, j < 160 → s.allotted s.focus (s.env s.focus).ctx (bits (scalarOf v) 4 15 + j) = true
  let item (s : State) (id : Nat) (m : BitVec 4) (l : Line) : Item := { trigItem s id m 4 0 0 [(0x840, l)] with kind := .res }
  TriggersIf 0x841 .accrd
    (fun s f v => f.m.toNat < 2 ∧ free1 s v ∧ whole s v (accRow f.m (scalarOf v)).1 (accRow f.m (scalarOf v)).2 ∧
      (scalarOf v).toNat < 2 ^ 24 ∧
      (f.m = 0 → (scalarOf v).getLsbD 10 = false) ∧
      ((scalarOf v).getLsbD 23 = true → (s.env s.focus).svOk (bits (scalarOf v) 11 12) = true))
    (fun s f v k => (k.modEng fun e => { e with acc := some (op s 0x841 f.m v 1) }).withItem
      { item s 0x841 f.m (accLine s.now f.m (scalarOf v)) with
        fx := if (scalarOf v).getLsbD 23 then .note (dieOf s.focus) (bits (scalarOf v) 11 12) f.m.toNat (if f.m = 0 then 64 else 32)
          else .none }) ∧
  (∀ add : Bool, TriggersIf (if add then 0x843 else 0x842) (if add then .accadd else .accwr)
    (fun s f v => f.m.toNat < 2 ∧ free1 s v ∧ narrow s ∧ s.NoAwait ∧ (scalarOf v).toNat < 2 ^ 11 ∧
      (f.m = 0 → (scalarOf v).getLsbD 10 = false) ∧
      (add = true → whole s v (accRow f.m (scalarOf v)).1 (accRow f.m (scalarOf v)).2))
    (fun s f v k =>
      let x := bits (scalarOf v) 0 4
      let first := 64 * bits (scalarOf v) 4 6 + (if f.m = 0 then 0 else 32 * bits (scalarOf v) 10 1)
      ((released k).modEng fun e => { e with acc := some (op s (if add then 0x843 else 0x842) f.m v 1) }).setAccs x
        ((List.range (if f.m = 0 then 64 else 32)).map fun q =>
          let y := if f.m = 0 then bf16 (lane (s.now.regs.port 0x840) q) else fp32 (lane32 (s.now.regs.port 0x840) q)
          (first + q, if add then ((a40 (s.now.acc x (first + q))).add y).toA40 else y.toA40)))) ∧
  TriggersIf 0x844 .accz (fun s f v => f.m = 0 ∧ free s v 16 ∧ narrow s ∧ (scalarOf v).toNat < 16)
    (fun s f v k => (released k).modEng fun e => { e with acc := some (op s 0x844 f.m v 16) }) ∧
  TriggersIf 0x845 .accspill (fun s f v => f.m = 0 ∧ free s v 160 ∧ whole s v 0 4096 ∧ lines s v)
    (fun s f v k => k.modEng fun e =>
      { e with acc := some { op s 0x845 f.m v 160 with sums := s.now.tile (bits (scalarOf v) 0 4) } }) ∧
  TriggersIf 0x846 .accfill
    (fun s f v => f.m = 0 ∧ free s v 160 ∧ narrow s ∧ lines s v ∧ s.engineLines s.focus [bits (scalarOf v) 4 15] = none)
    (fun s f v k => (released k).modEng fun e => { e with acc := some ((op s 0x846 f.m v 160).fillRead s.now) }) ∧
  TriggersIf 0x847 (fun f => .acctsStatus ⟨f.g, f.s⟩) (fun s _ v => scalarOf v = 0 ∧ idle s)
    (fun s _ v k => (k.modEng fun e => { e with acc := some (op s 0x847 0 v 1) }).withItem
      (item s 0x847 0 (lineOf (word s.now.slots.word)))) ∧
  TriggersIf 0x847 (fun f => .acctsRewind ⟨f.g, f.s⟩)
    (fun s _ v => scalarOf v = 0 ∧ idle s ∧ s.now.slots.adm = none)
    (fun s _ v k =>
      let x : SlotTab := { s.now.slots with ptr := 0, done := s.now.slots.done && s.now.slots.entries.isEmpty }
      ({ k with slots := x }.modEng fun e => { e with acc := some (op s 0x847 2 v 1) }).withItem
        (item s 0x847 2 (lineOf (word x.word)))) ∧
  (∀ x, TriggersIf 0x847 (fun f => .acctsLoad ⟨f.g, f.s⟩)
    (fun s _ v =>
      let f := (scalarOf v).toNat
      let n := bits (s.now.line f) 0 9
      let all := (List.range ((n + 31) / 32 + 1)).map (f + ·)
      f < 2 ^ 15 ∧ idle s ∧ s.now.slots.adm = none ∧ 1 ≤ n ∧ n ≤ 256 ∧
      (∀ ln ∈ all, readCheck s s.focus (s.env s.focus) false 1 0x847 ln = none ∧ s.now.present ln = true) ∧
      slotImage (all.map s.now.line) = some x)
    (fun s _ v k => ({ k with slots := x }.modEng fun e => { e with acc := some (op s 0x847 1 v 1) }).withItem
      (item s 0x847 1 (lineOf (word x.word)))))

/-- The steps of the whole-tile operations: ACCZ ends with every word of its tile +0; a spill writes its next line; a fill reads
its next line, and ends with the tile of the image read; where no AWAITGE waits for the tile's words (08 R196). -/
def Obligations.TileSteps : Prop :=
  ∀ (s : State) (c : Nat) (o : EngineOp),
    let k := s.core c
    let alone (t : State) : Prop := t.dies = s.dies ∧ t.mem = s.mem ∧ t.pkg = s.pkg ∧
      (∀ e, e ≠ c → t.core e = s.core e) ∧ (t.core c).regs = k.regs ∧
      ∀ x i, x ≠ bits o.trig 0 4 → i < 4096 → (t.core c).acc x i = k.acc x i
    k.eng.acc = some o → o.stepped = false → s.NoAwait →
    (o.id = 0x844 → o.u + o.dc ≤ k.pipe.run → ∃ t, exec (.acczDone c) s = .next t ∧ alone t ∧
      (t.core c).eng.acc = none ∧ (t.core c).vrf = k.vrf ∧ ∀ i, i < 4096 → (t.core c).acc (bits o.trig 0 4) i = 0) ∧
    (o.id = 0x845 → o.u + o.step + 1 ≤ k.pipe.run → o.step < 160 →
      s.lineRight c c (k.ctx.getD 0) (o.firstLine + o.step) .own = true →
      ∃ t, exec (.accspillLine c) s = .next t ∧ alone t ∧ (t.core c).accw = k.accw ∧
        (t.core c).line (o.firstLine + o.step) = imageLine o.sums o.step ∧
        (∀ ln, ln ≠ o.firstLine + o.step → (t.core c).line ln = k.line ln) ∧
        (t.core c).eng.acc = if o.step = 159 then none else some { o with step := o.step + 1 }) ∧
    (o.id = 0x846 → o.behind k.pipe.run = true → s.engineLines c [o.firstLine + o.step] = none →
      ∃ t, exec (.accfillLineRead c) s = .next t ∧ alone t ∧ (t.core c).accw = k.accw ∧ (t.core c).vrf = k.vrf ∧
        (t.core c).eng.acc = some (o.fillRead k)) ∧
    (o.id = 0x846 → o.step = 160 → o.u + o.dc ≤ k.pipe.run → ∃ t, exec (.accfillDone c) s = .next t ∧ alone t ∧
      (t.core c).eng.acc = none ∧ (t.core c).vrf = k.vrf ∧
      ∀ i, i < 4096 → (t.core c).acc (bits o.trig 0 4) i = Tab.get 0 (imageTile o.buf) i)

/-- A spill's image read back is the tile, all 40 bits of every word (08 R197). -/
def Obligations.SpillFillRestores : Prop :=
  ∀ l : Tab Acc40, Tab.wf 0 l = true → (∀ e ∈ l, e.1 < 4096) → ∀ i, i < 4096 →
    Tab.get 0 (imageTile ((List.range 160).map fun q => (q, imageLine l q))) i = Tab.get 0 l i

/-! ### The crossbar (09) -/

/-- The crossbar operations of a core-bound task on a pair that its context owns: with legal fields, surveys in range, lines in
the allotment, the controller and the pair free, the pair in a mode that the operation allows and settled, and the
reservation covering its weight, the operation starts in its bundle's run cycle with the times of R207, its ports captured
and its first lines read; XSTAT gives its view after two run cycles. A task that is not core-bound
takes an ENGINE_FAULT (09 R206..R212, R221; 15 R337). -/
def Obligations.CrossbarStarts : Prop :=
  let op (s : State) (id : Nat) (v : Line) : EngineOp :=
    let o : EngineOp := { id := id, trig := scalarOf v, ports := (List.range 14).map fun i => s.now.regs.portW (0x880 + i)
                          seq := s.now.pipe.seq, u := s.now.pipe.run, dc := 0, dt := 0, due := some s.now.pipe.run
                          bpc := word s.now.pcAddr, stepped := s.now.stepArm }
    { o with dc := o.xbTimes.1, dt := o.xbTimes.2 }
  let legal (s : State) (f : Slot) (o : EngineOp) : Prop :=
    (s.env s.focus).bound = true ∧ f.m = 0 ∧ o.xbFieldsOk (s.now.pair o.pair).tp = true ∧
    s.ownsPair s.focus (s.env s.focus).ctx o.pair = true ∧ (∀ n ∈ o.xbSurveys, (s.env s.focus).svOk n = true) ∧
    (∀ ln ∈ o.xbLines, s.allotted s.focus (s.env s.focus).ctx ln = true) ∧ s.now.xbTaken o = false
  (∀ p ∈ [(0x890, Instr.xmode), (0x891, .xfwd), (0x892, .xbwd), (0x893, .xupd), (0x894, .xfer), (0x895, .xgamma),
          (0x896, .xspw), (0x897, .xspr), (0x898, .xseed), (0x899, .xrdavg), (0x89a, .xprg), (0x89b, .xrst)],
    TriggersIf p.1 p.2
      (fun s f v =>
        let o := op s p.1 v
        legal s f o ∧
        (xbModes p.1 ≠ [] → (s.now.pair o.pair).mode ∈ xbModes p.1 ∧ (s.now.pair o.pair).settle ≤ s.clk) ∧
        (xbDraws p.1 = true → (s.die (dieOf s.focus)).wxb (clusterOf s.focus) ≤ s.now.ctl.res) ∧
        s.engineLines s.focus (((o.xbBegin s s.focus).readsDue s.now.pipe.run).map (·.1)) = none)
      (fun s _ v k =>
        let o := (op s p.1 v).xbBegin s s.focus
        let k1 := if xbDraws p.1 then k.modCtl fun r => { r with res := r.res - (s.die (dieOf s.focus)).wxb (clusterOf s.focus) }
          else k
        k1.modEng fun e => { e with xb := e.xb ++ [o.takeReads s.now (o.readsDue s.now.pipe.run)] }) ∧
    TrapsIf p.1 p.2 (fun s _ _ => (s.env s.focus).bound = false) (fun _ _ _ => engineFault 1 p.1)) ∧
  TriggersIf 0x89c .xstat (fun s f v => legal s f (op s 0x89c v))
    (fun s _ v k =>
      let o := op s 0x89c v
      (k.modEng fun e => { e with xb := e.xb ++ [o.xbBegin s s.focus] }).withItem
        { trigItem s 0x89c 0 2 0 0 [(0x880, lineOf (s.now.xbView o.pair (bits (scalarOf v) 0 2) s.clk))] with kind := .res })

/-- The steps of a started crossbar operation on its pair under the nominal device model of 09 R227, whose results the model
computes (log 88; the deviations of R228 are not shown), each in the run cycle that the spec gives: lines read into its
buffer; MODE and the settle time; symmetry registers from bytes; F of a window reset to its rest states; a slot of an
update moves F of the cells whose row and column fire by one step; a slot of a transfer moves C of column TP, which PSET has set
from its port; a column
programmed in C, or read out as FP32 weights; output lines of reads and of XSPR; at the end the pair's seeds and constants and
the status word. Nothing but the core changes (09 R209, R211, R213..R224). -/
def Obligations.CrossbarSteps : Prop :=
  ∀ (s : State) (c p : Nat) (o : EngineOp),
    let k := s.core c
    let x := k.pair p
    let run := k.pipe.run
    let inWin (i j : Nat) : Prop := o.row0 ≤ i ∧ i < o.row0 + o.rows ∧ o.col0 ≤ j ∧ j < o.col0 + o.cols
    let fits : Prop := o.row0 + o.rows ≤ 1024 ∧ o.col0 + o.cols ≤ 1024
    let does (e : Instr) (q : Core → Prop) : Prop := ∃ t, exec e s = .next t ∧ OnlyCore s t c ∧ q (t.core c)
    let mine (ln : Nat) : Prop := s.lineRight c c (k.ctx.getD 0) ln .own = true
    (x.settle ≠ 0 → x.settle ≤ s.clk → does (.xbSettleEnd c p) fun k' => k' = k.setPair p { x with settle := 0 }) ∧
    (k.xbOn p = some o → o.stepped = false →
      (o.behind run = true → s.engineLines c ((o.readsDue run).map (·.1)) = none →
        does (.xbLineRead c p) fun k' => k' = k.putXb o (some (o.takeReads k (o.readsDue run)))) ∧
      (o.id = 0x890 → o.u + 2 ≤ run →
        let m := bits o.trig 0 3
        let two (a : Nat) : Prop := a = 2 ∨ a = 3
        does (.xbModeTake c p) fun k' => k' = (k.setPair p
          (if m = x.mode then x else { x with mode := m, prev := x.mode, unsettled := false
                                              settle := s.clk + if (m ≤ 1 ∧ x.mode ≤ 1) ∨ (two m ∧ two x.mode) then 160 else 1600 })).putXb
          o none) ∧
      (o.id = 0x896 → o.step = o.xbReads.length → o.u + 12 ≤ run →
        does (.xspwApply c p) fun k' => k'.eng = (k.putXb o none).eng ∧ (k'.pair p).nF = x.nF ∧ (k'.pair p).nC = x.nC ∧
          k'.regs = k.regs ∧ k'.vrf = k.vrf ∧
          ∀ q, q < o.spCount → (if o.spCol then (k'.pair p).col (o.spFirst + q) else (k'.pair p).row (o.spFirst + q)) =
            sext 8 (lineBytes (Tab.get 0 o.buf (q / 128)) (q % 128) 1)) ∧
      (o.id = 0x89b → o.outs = 0 → o.u + 24 ≤ run → fits →
        does (.xrstApply c p) fun k' => k'.regs = k.regs ∧ k'.vrf = k.vrf ∧ (k'.pair p).nC = x.nC ∧
          ∀ i j, i < 1024 → j < 1024 → (inWin i j → (k'.pair p).f i j = clampInt (-127) 127 (x.row i + x.col j)) ∧
            (¬ inWin i j → (k'.pair p).f i j = x.f i j)) ∧
      (o.id = 0x893 → o.outs < o.slotsL → o.step = o.xbReads.length → o.u + 24 + 16 * o.outs ≤ run → fits →
        let rc (i : Nat) : BitVec 16 := lane (Tab.get 0 o.buf ((i - o.row0) / 64)) ((i - o.row0) % 64)
        let cc (j : Nat) : BitVec 16 := lane (Tab.get 0 o.buf (64 + (j - o.col0) / 64)) ((j - o.col0) % 64)
        let fires (i j : Nat) : Prop := inWin i j ∧ dice x.seedR.toNat i o.outs < codeMag (rc i) ∧
          dice x.seedC.toNat j o.outs < codeMag (cc j)
        let sg (i j : Nat) : Int := if o.trig.getLsbD 8 then -(codeSgn (rc i) * codeSgn (cc j)) else codeSgn (rc i) * codeSgn (cc j)
        does (.xupdSlot c p) fun k' => k'.regs = k.regs ∧ k'.vrf = k.vrf ∧ (k'.pair p).nC = x.nC ∧
          ∀ i j, i < 1024 → j < 1024 →
            (fires i j → (k'.pair p).f i j = clampInt (-127) 127 (x.f i j + sg i j)) ∧
            (¬ fires i j → (k'.pair p).f i j = x.f i j)) ∧
      (o.id = 0x894 → o.outs < o.slotsL → o.step = 0 → o.u + 120 + 16 * o.outs ≤ run → o.row0 + o.rows ≤ 1024 →
        let tp := if o.trig.getLsbD 1 then bits (o.port 13) 0 10 else x.tp
        let code (i : Nat) : BitVec 16 := (transferCode x o i tp).1
        let fires (i j : Nat) : Prop := o.row0 ≤ i ∧ i < o.row0 + o.rows ∧ j = tp ∧
          dice x.seedR.toNat i o.outs < codeMag (code i)
        does (.xferSlot c p) fun k' => k'.regs = k.regs ∧ k'.vrf = k.vrf ∧ (k'.pair p).nF = x.nF ∧ (k'.pair p).tp = tp ∧
          ∀ i j, i < 1024 → j < 1024 → tp < 1024 →
            (fires i j → (k'.pair p).c i j = clampInt (-1023) 1023 (x.c i j + codeSgn (code i))) ∧
            (¬ fires i j → (k'.pair p).c i j = x.c i j)) ∧
      (o.id = 0x89a → o.outs < o.cols → o.u + 272 + 256 * o.outs ≤ run → fits →
        let elem (a : Nat) : BitVec 32 := fpElem o.buf (fun l => 64 * o.outs + (l - o.outs * o.rows / 32)) (o.outs * o.rows + a)
        does (.xprgColumn c p) fun k' => k'.regs = k.regs ∧ k'.vrf = k.vrf ∧ (k'.pair p).nF = x.nF ∧
          ∀ i j, i < 1024 → j < 1024 →
            (j = o.col0 + o.outs → ∀ a, a < o.rows → i = o.row0 + a →
              (k'.pair p).c i j = (programCell x.wstepNum (fp32 (elem a))).1) ∧
            (¬ (j = o.col0 + o.outs ∧ o.row0 ≤ i ∧ i < o.row0 + o.rows) → (k'.pair p).c i j = x.c i j)) ∧
      (o.id = 0x899 → o.outs < o.cols → o.u + 16 + 12 * 2 ^ bits o.trig 0 3 * (o.outs + 1) ≤ run →
        (∀ ln, mine ln) →
        does (.xrdavgColumn c p) fun k' => k'.regs = k.regs ∧ k'.pairs = k.pairs ∧
          ∀ e, (o.outs * o.rows ≤ e → e < (o.outs + 1) * o.rows →
              lane32 (k'.line (o.outb + e / 32)) (e % 32) = (x.weight (o.row0 + (e - o.outs * o.rows)) (o.col0 + o.outs)).toFP32) ∧
            (¬ (o.outs * o.rows ≤ e ∧ e < (o.outs + 1) * o.rows) →
              lane32 (k'.line (o.outb + e / 32)) (e % 32) = lane32 (k.line (o.outb + e / 32)) (e % 32))) ∧
      (o.id = 0x891 ∨ o.id = 0x892 → o.step = o.xbReads.length → o.outs < ceilDiv o.nOut 64 → mine (o.outb + o.outs) →
        o.u + 93 + o.outs / 4 ≤ run →
        does (.xbOutputWrite c p) fun k' =>
          k' = (k.setLine (o.outb + o.outs) (outLine (arrayRead x o).1 o.outs)).putXb o (some { o with outs := o.outs + 1 })) ∧
      (o.id = 0x897 → o.outs < ceilDiv o.spCount 128 → mine (o.outb + o.outs) → o.u + 9 + o.outs / 4 ≤ run →
        does (.xsprOutputWrite c p) fun k' =>
          k' = (k.setLine (o.outb + o.outs) (symLine x o o.outs)).putXb o (some { o with outs := o.outs + 1 })) ∧
      (o.xbReady = true → o.u + o.dt ≤ run → k.eng.xb.all (fun y => decide (y.id ≠ 0x89c)) = true →
        does (.xbStatus c p) fun k' => k'.eng = (k.putXb o none).eng ∧ k'.pair p = o.endPair x ∧ k'.vrf = k.vrf ∧
          k'.regs = (match o.xbStatus x with | some v => k.regs.setResult 0x881 (lineOf v) | none => k.regs) ∧
          (o.id = 0x893 → (k'.pair p).seedR = x.seedR + BitVec.ofNat 16 (o.slotsL * 0x7F4B) ∧
            (k'.pair p).seedC = x.seedC + BitVec.ofNat 16 (o.slotsL * 0x7F4B)) ∧
          (o.id = 0x898 → (k'.pair p).seedR = o.trig.extractLsb' 0 16 ∧ (k'.pair p).seedC = o.trig.extractLsb' 16 16)))

/-! ### The cp unit and the copy channels (04) -/

/-- TPLW loads three present, whole lines of the core's own as template n and gives its verdict after eight run cycles; CPGO and its
resume give the channel's ticket and their start to the commit buffer, GQPUSH its index; CPWAIT goes on when every channel of
its mask is IDLE or FAULT, CPSTAT gives the status word, CPABORT gives an abort for each channel of its mask that is not IDLE and names every such channel of the core;
absent lines, a full channel or index queue and a wait hold the bundle, and reserved bits are an ENGINE_FAULT (04 R111..R114; 13 R303).
A resume's result says that the channel was not in FAULT also when a resume or an abort of the channel is on its way.
How a copy starts: the aperture of an enabled core puts a start word or a resume at its channel, and a store to OFFS behind a
start takes effect after it; an accepted start is a snapshot that claims its
destination lines, active at once on a free channel, else queued; a resume goes on from FAULT; the activation checks
let the copy go on or put the channel into FAULT with their cause, an invalid template being cause 1; the acquire, the
admission at a reduce copy's home and an index for a gather row (04 R91, R92, R99..R105, R111; 05 R125; 08 R199).
That a start on its way makes a channel busy is log 16, the hold reasons 8 of CPWAIT and 5 of CPGO and GQPUSH are log 50. -/
def Obligations.CopyCommands : Prop :=
  (
    let item (s : State) (id : Nat) (m : BitVec 4) (lat n : Nat) : Item :=
      { trigItem s id m lat 0 0 [(0x8c0, lineOf (word n))] with kind := .res }
    let out (s : State) (k : Core) (x : Out) : Core := { k with cbuf := k.cbuf ++ [(s.clk, x)] }
    let o (s : State) : Word := s.now.regs.portW 0x8c0
    let line (s : State) (i : Nat) : Nat := (o s).toNat + i
    let mask (f : Nat → Bool) : Nat := (List.range 8).foldl (fun a i => a + b2n (f i) * 2 ^ i) 0
    let start (s : State) (x : Word) (res : Bool) : Start :=
      { v := x, offs := o s, resume := res, priv := (s.env s.focus).priv, svFirst := (s.env s.focus).svFirst
        svCount := (s.env s.focus).svCount, bpc := word s.now.pcAddr, seq := s.now.pipe.seq, stepped := s.now.stepArm
        tid := s.now.tid }
    let gone (s : State) (ch : Nat) : Bool :=
      (s.now.chan ch).pend.any (·.resume) || s.now.cbuf.any fun e =>
        match e.2 with | .cpgo j y => decide (j = ch) && y.resume | .cpabort j => decide (j = ch) | _ => false
    let fits (s : State) (f : Slot) (v : Line) : Prop := f.m = 0 ∧ (scalarOf v).toNat < 64 ∧ (o s).toNat < 2 ^ 15 ∧
      ∀ i, i < 3 → readCheck s s.focus (s.env s.focus) false 1 0x8c1 (line s i) = none
    let coming (s : State) (ch : Nat) : Nat :=
      (s.now.cbuf.filter fun e => match e.2 with | .gqpush j _ => decide (j = ch) | _ => false).length
    TriggersIf 0x8c1 .tplw (fun s f v => fits s f v ∧ ∀ i, i < 3 → s.now.present (line s i) = true)
      (fun s _ v k =>
        let img : BitVec 3072 := s.now.line (line s 2) ++ s.now.line (line s 1) ++ s.now.line (line s 0)
        (k.modCp fun e => { e with tpl := Tab.put 0 e.tpl (scalarOf v).toNat img }).withItem (item s 0x8c1 0 8 (Tpl.verdict img))) ∧
    HoldsIf 0x8c1 .tplw (fun s f v => fits s f v ∧ ∃ i, i < 3 ∧ s.now.present (line s i) = false) 3 ∧
    (∀ c : BitVec 3,
      TriggersIf 0x8c2 (fun f => .cpgo ⟨f.g, f.s⟩ c) (fun s _ v => (scalarOf v).toNat < 64 ∧ s.now.startsUsed c.toNat < 4)
        (fun s _ v k =>
          let n := ((s.now.chan c.toNat).ticket + s.now.startsComing c.toNat + 1) % 65536
          (out s { k with running := k.running.map fun r => { r with cmds := r.cmds ++ [(s.focus, c.toNat, n)] } }
            (.cpgo c.toNat (start s (scalarOf v) false))).withItem (item s 0x8c2 (c.zeroExtend 4) 4 n)) ∧
      TriggersIf 0x8c2 (fun f => .cpgoResume ⟨f.g, f.s⟩ c) (fun _ _ _ => True)
        (fun s _ v k =>
          let q := s.now.chan c.toNat
          (out s k (.cpgo c.toNat (start s (scalarOf v) true))).withItem (item s 0x8c2 (8 + c.zeroExtend 4) 4
            ((q.ticket + s.now.startsComing c.toNat) % 65536 + if q.st = 4 ∧ gone s c.toNat = false then 0 else 2 ^ 63))) ∧
      TrapsIf 0x8c2 (fun f => .cpgo ⟨f.g, f.s⟩ c) (fun _ _ v => 64 ≤ (scalarOf v).toNat) (fun _ _ _ => engineFault 1 0x8c2) ∧
      HoldsIf 0x8c2 (fun f => .cpgo ⟨f.g, f.s⟩ c) (fun s _ v => (scalarOf v).toNat < 64 ∧ 4 ≤ s.now.startsUsed c.toNat) 5) ∧
    TriggersIf 0x8c3 .gqpush
      (fun s f v => f.m.toNat < 8 ∧ (scalarOf v).toNat < 2 ^ 32 ∧
        (s.now.chan f.m.toNat).indices.length + coming s f.m.toNat < 64)
      (fun s f v k => out s k (.gqpush f.m.toNat (scalarOf v))) ∧
    HoldsIf 0x8c3 .gqpush
      (fun s f v => f.m.toNat < 8 ∧ (scalarOf v).toNat < 2 ^ 32 ∧
        64 ≤ (s.now.chan f.m.toNat).indices.length + coming s f.m.toNat) 5 ∧
    TriggersIf 0x8c4 .cpwait
      (fun s f v => f.m = 0 ∧ (scalarOf v).toNat < 2 ^ 8 ∧
        ∀ i, i < 8 → (scalarOf v).getLsbD i = true → s.now.chanBusy i = false)
      (fun s _ _ k => k.withItem (item s 0x8c4 0 4 (mask fun i => decide ((s.now.chan i).st = 4)))) ∧
    HoldsIf 0x8c4 .cpwait
      (fun s f v => f.m = 0 ∧ (scalarOf v).toNat < 2 ^ 8 ∧
        ∃ i, i < 8 ∧ (scalarOf v).getLsbD i = true ∧ s.now.chanBusy i = true) 8 ∧
    TriggersIf 0x8c5 .cpstat (fun _ f v => f.m = 0 ∧ (scalarOf v).toNat < 8)
      (fun s _ v k => k.withItem (item s 0x8c5 0 4 (s.now.chan (scalarOf v).toNat).status.toNat)) ∧
    TriggersIf 0x8c6 .cpabort (fun _ f v => f.m = 0 ∧ (scalarOf v).toNat < 2 ^ 8)
      (fun s _ v k =>
        let busy (i : Nat) : Bool := s.now.chanBusy i || decide ((s.now.chan i).st = 4)
        let hit (i : Nat) : Bool := (scalarOf v).getLsbD i && busy i
        ({ k with cbuf := k.cbuf ++ (((List.range 8).filter hit).map fun i => (s.clk, Out.cpabort i)) }).withItem
          (item s 0x8c6 0 4 (mask busy))) ∧
    TrapsIf 0x8c1 .tplw (fun s f v => f.m ≠ 0 ∨ 64 ≤ (scalarOf v).toNat ∨ 2 ^ 15 ≤ (o s).toNat) (fun _ _ _ => engineFault 1 0x8c1) ∧
    TrapsIf 0x8c3 .gqpush (fun _ f v => 8 ≤ f.m.toNat ∨ 2 ^ 32 ≤ (scalarOf v).toNat) (fun _ _ _ => engineFault 1 0x8c3) ∧
    TrapsIf 0x8c4 .cpwait (fun _ f v => f.m ≠ 0 ∨ 2 ^ 8 ≤ (scalarOf v).toNat) (fun _ _ _ => engineFault 1 0x8c4) ∧
    TrapsIf 0x8c5 .cpstat (fun _ f v => f.m ≠ 0 ∨ 8 ≤ (scalarOf v).toNat) (fun _ _ _ => engineFault 1 0x8c5) ∧
    TrapsIf 0x8c6 .cpabort (fun _ f v => f.m ≠ 0 ∨ 2 ^ 8 ≤ (scalarOf v).toNat) (fun _ _ _ => engineFault 1 0x8c6)
  ) ∧
  (
    ∀ (s : State) (c ch : Nat), ch < 8 →
      let k := s.core c
      let q := k.chan ch
      let chan (t : State) : Channel := (t.core c).chan ch
      let does (e : Instr) (q' : Channel) : Prop := ∃ t, exec e s = .next t ∧ OnlyCore s t c ∧ t.core c = k.setChan ch q'
      (∀ v : Word, s.coreEnabled c = true → v.getLsbD 6 = false →
        does (.apertureStart c ch v) { q with pend := q.pend ++ [{ v := v, offs := q.offs, ap := true }] }) ∧
      (∀ v : Word, s.coreEnabled c = true → v.getLsbD 6 = true →
        does (.apertureResume c ch v) { q with pend := q.pend ++ [{ v := v, offs := q.offs, ap := true, resume := true }] }) ∧
      (∀ x l, q.st ≠ 5 → q.nextStart = some (x, l) → x.set = true → does (.copyAccept c ch) { q with offs := x.v, pend := l }) ∧
      (∀ x l, q.st ≠ 5 → q.nextStart = some (x, l) → x.set = false → x.resume = false →
        let y := s.snapshot c ch x
        let cl := if s.cause1Ok y then s.claimSet c y else []
        let y' : Copy := { y with claims := cl, ticket := (q.ticket + 1) % 65536, wake := s.clk + 16 }
        s.claimsFit cl = true →
        ∃ t, exec (.copyAccept c ch) s = .next t ∧ t.mem = s.mem ∧ t.dies = s.dies ∧ t.pkg = s.pkg ∧
          (∀ e, (t.core e).vrf = (s.core e).vrf ∧ (t.core e).regs = (s.core e).regs ∧ (e ≠ c → (t.core e).cp = (s.core e).cp)) ∧
          (chan t).ticket = (q.ticket + 1) % 65536 ∧ (chan t).cause = 0 ∧ (chan t).pend = l ∧
          (q.act = none → (chan t).act = some y' ∧ (chan t).st = y.first ∧ (chan t).rprog = 0 ∧ (chan t).queue = q.queue) ∧
          (∀ a, q.act = some a → (chan t).act = some a ∧ (chan t).st = q.st ∧ (chan t).queue = q.queue ++ [y']) ∧
          ∀ e ∈ cl, (t.core (e.1 / 32768)).present (e.1 % 32768) = false ∧
            Tab.get 0 (t.core (e.1 / 32768)).claims (e.1 % 32768) = Tab.get 0 (s.core (e.1 / 32768)).claims (e.1 % 32768) + 1) ∧
      (∀ x l a, q.nextStart = some (x, l) → x.set = false → x.resume = true → q.act = some a → q.st = 4 →
        x.ap = false ∨ bits x.v 7 57 = 0 →
        ∃ t, exec (.copyAccept c ch) s = .next t ∧ t.mem = s.mem ∧ t.dies = s.dies ∧ t.pkg = s.pkg ∧
          chan t = { q with pend := l, act := some (a.resumed q.rprog), st := a.first, cause := 0 } ∧
          (a.words = [] → OnlyCore s t c) ∧
          ((a.words.map fun e => (e.1, e.2.1)).Nodup → ∀ e ∈ a.words,
            (t.core e.1).acc (e.2.1 / 4096) (e.2.1 % 4096) = e.2.2)) ∧
      (∀ x, q.act = some x → x.checked = false → q.st ≠ 4 → q.st ≠ 5 → s.activation c x = none →
        (x.claims ≠ [] ∨ s.claimSet c x = []) → s.copyFar x = none →
        does (.copyActivate c ch) { q with act := some { x with checked := true } }) ∧
      (∀ x n y, q.act = some x → x.checked = false → q.st ≠ 4 → q.st ≠ 5 → s.activation c x = some (n, y) →
        x.claims = [] → x.stepped = false →
        let q' : Channel := { q with st := 4, cause := n, act := some x }
        ∃ t, exec (.copyActivate c ch) s = .next t ∧ OnlyCore s t c ∧ chan t = q' ∧
          (ch, { y with i1 := q'.info ch, i2 := word x.tpl }) ∈ (t.core c).pipe.attr) ∧
      (∀ x : Copy, Tpl.valid x.img = false → s.activation c x = some (1, { code := 9, sub := 1, i0 := 0x8c2 })) ∧
      (∀ x o i, q.act = some x → x.checked = true → q.st = 1 → k.chanHalt = false →
        s.syncPlace x.ctx (Tpl.async x.img) = some (.inl (o, i)) → s.accWaits o x.ctx (i / 4096) = false →
        s.frozen c (dieOf o) x.ctx = false →
        let old : BitVec 32 := ((s.core o).acc (i / 4096) (i % 4096)).truncate 32
        (((x.img.extractLsb' 256 32).sle old = true →
          ∃ t, exec (.copyAcquireDone c ch) s = .next t ∧ t.mem = s.mem ∧ t.pkg = s.pkg ∧ (∀ e, e ≠ c → t.core e = s.core e) ∧
            t.core c = k.setChan ch { q with st := 2, act := some { x with acqDone := true } }) ∧
         ((x.img.extractLsb' 256 32).sle old = false → exec (.copyAcquireDone c ch) s = .next s))) ∧
      (∀ o n x, (s.core o).slots.adm = none → (n, c, ch) ∈ s.slotWaiters o →
        (∀ y ∈ s.slotWaiters o, y ≠ (n, c, ch) → n < y.1) → q.act = some x →
        (∀ a, s.slotAsk o = some a → x.since ≤ a.since) →
        ∃ t, exec (.reduceAdmit o) s = .next t ∧ t.mem = s.mem ∧ t.dies = s.dies ∧ t.pkg = s.pkg ∧
          (t.core o).slots = { (s.core o).slots with adm := some (c, ch) } ∧
          chan t = { q with act := some { x with admitted := true }, st := ({ x with admitted := true } : Copy).first }) ∧
      (∀ x i l, q.act = some x → q.indices = i :: l → x.checked = true → q.st = 2 → Tpl.gather x.img = true →
        x.front < Tpl.total x.img → x.indexed x.front = false →
        does (.gatherIndexTake c ch) { q with act := some { x with idx := x.idx ++ [i] }, indices := l })
  )

/-- How a copy moves its elements: the request server takes elements of one line from the copy's next one on, whose HBM lines
become requests, and sends one request in a clock cycle; the controller admits a request, whose bytes then reach the elements
or memory, and completes it; the elements read are converted and written, a line of own lines byte for byte, HBM by a request;
the last write of them moves the progress on and gives back the claims of finished lines, and a copy with NOTE notes them; a finished copy's release adds to
its sync word and the next copy becomes active; a follow-on is handed to the core and starts its engine; that a pseudo-channel admits and completes one request in each clock
cycle is log 22 (03 R74, R75; 04 R93,
R96, R98, R99, R105). -/
def Obligations.CopyMoves : Prop :=
  ∀ (s : State) (c ch : Nat), c < 1024 → ch < 8 →
    let k := s.core c
    let q := k.chan ch
    let chan (t : State) : Channel := (t.core c).chan ch
    let does (e : Instr) (f : State → Prop) : Prop := ∃ t, exec e s = .next t ∧ f t
    let ask (t : State) (r : HbmReq) : Prop := r ∈ Tab.get [] (t.die (stackOf (128 * r.line))).mc.waiting (pcOf (128 * r.line))
    let dst (x : Copy) : Nat := Tpl.dsize x.img
    let inHand (x : Copy) : Prop := q.act = some x ∧ x.landed q.st s.clk = true ∧ (W.of s).writable c ch x = true ∧
      s.tileBusy c x = false
    let free (x : Copy) : Prop := q.act = some x ∧ x.checked = true ∧ q.st = 2 ∧ Tpl.total x.img ≤ x.done ∧ x.reading = [] ∧
      k.chanHalt = false ∧ q.follow = none ∧ x.stepped = false
    let served : Prop := (W.of s).nextChan c = some ch ∧ (∀ i, i < 8 → (W.of s).askXlate c i = W.of s) ∧
      ∀ i, i < 8 → k.lowChan i = true → (W.of s).chanReady c i = false
    -- the request server
    (∀ x, served → k.asking ch = none → k.moving ch = some x →
      let r := (W.of s).gatherElems c ch x x.front 128 x.front
      let lines := linesOf (r.1.map fun e => e.src.map (·.2)).flatten
      let req (ln : Nat) : HbmReq := { src := c * 8 + ch, line := ln, write := false }
      does (.copyRequestIssue c) fun t => r.1 ≠ [] ∧ (t.core c).cp.rr = ch ∧ t.mem = s.mem ∧
        ((W.of s).gazOnly r.2 c ch x.ctx = true → (chan t).act = some { x with wake := s.clk + 24 }) ∧
        ((W.of s).gazOnly r.2 c ch x.ctx = false →
          (chan t).act = some { x with reading := x.reading ++ r.1, reads := x.reads + lines.length, land := s.clk
                                       ask := (lines.map req).drop 1 } ∧
          ∀ ln, lines.head? = some ln → ask t (req ln))) ∧
    (∀ x r, served → k.asking ch = some (x, r) →
      does (.copyRequestIssue c) fun t => t.mem = s.mem ∧ (chan t).act = some { x with ask := x.ask.drop 1 } ∧ ask t r) ∧
    -- the controller
    (∀ d pc r, Tab.get [] (s.die d).mc.waiting pc = [r] → (Tab.get [] (s.die d).mc.queues pc).length < 32 →
      does (.hbmAdmit d { n := pc }) fun t =>
        Tab.get [] (t.die d).mc.queues pc = Tab.get [] (s.die d).mc.queues pc ++ [{ r with age := s.ts }] ∧
        (s.poisoned (128 * r.line) = false → Tab.get [] (t.die d).mc.waiting pc = []) ∧
        (r.who = .agent → r.whole = false → r.write = true → (r.data.map (·.1)).Nodup →
          (∀ e ∈ r.data, e.1 < Config.hbmBytes) → t.cores = s.cores ∧
          (∀ e ∈ r.data, t.hbm e.1 = e.2) ∧ ∀ a, (∀ e ∈ r.data, e.1 ≠ a) → t.hbm a = s.hbm a) ∧
        (r.who = .agent → r.write = false → r.src = c * 8 + ch → s.poisoned (128 * r.line) = false →
          ∀ (x : Copy) (i : Nat) (e : Elem) (l : List Nat), q.act = some x → x.reading[i]? = some e → e.val = 0 →
            e.src = (List.range l.length).zip l → (∀ a ∈ l, a / 128 = r.line) → t.mem = s.mem ∧
            ∃ x', (chan t).act = some x' ∧ x'.reading[i]? = some { e with src := [], val := leNat (l.map s.hbm) })) ∧
    (∀ d pc r x, (s.die d).mc.pick s.ts pc = some r → r.src = c * 8 + ch → q.act = some x →
      does (.hbmComplete d pc) fun t => t.mem = s.mem ∧
        Tab.get [] (t.die d).mc.queues pc = (Tab.get [] (s.die d).mc.queues pc).erase r ∧
        Tab.get none (t.die d).mc.openRow (bankKey (128 * r.line)) = some (rowOf (128 * r.line)) ∧
        (r.write = false → t.core c = k.setChan ch { q with act := some { x with reads := x.reads - 1, land := s.clkOf (dieOf c) + 10 } }) ∧
        (r.write = true → 1 < x.writes ∨ x.ask ≠ [] →
          t.core c = k.setChan ch { q with act := some { x with writes := x.writes - 1 } }) ∧
        (r.write = true → x.writes = 1 → x.ask = [] → x.reading ≠ [] → q.st = 2 → Tpl.wadd x.img = false →
          (x.claims.map (·.1)).Nodup →
          let n := x.done + x.reading.length
          (chan t).rprog = n / Tpl.rowLen x.img ∧
          (chan t).act = some { x with writes := 0, done := n, reading := [], crc := []
                                       claims := x.claims.filter fun e => decide (n ≤ e.2) } ∧
          ∀ e ∈ x.claims, e.2 < n →
            Tab.get 0 (t.core (e.1 / 32768)).claims (e.1 % 32768) = Tab.get 0 (s.core (e.1 / 32768)).claims (e.1 % 32768) - 1 ∧
            (Tab.get 0 (s.core (e.1 / 32768)).claims (e.1 % 32768) ≤ 1 → (t.core (e.1 / 32768)).present (e.1 % 32768) = true))) ∧
    -- the landing
    (∀ x e ln bs, inHand x → x.reading = [e] → e.dst = .hbm bs → bs ≠ [] → bs.length ≤ dst x → (∀ a ∈ bs, a / 128 = ln) →
      does (.copyLineDone c ch) fun t => OnlyCore s t c ∧ t.core c = k.setChan ch { q with act := some { x with
        writes := 1
        ask := [{ src := c * 8 + ch, line := ln, write := true, data := bs.zip (toBytes (dst x) (x.convert e.val).1) }] } }) ∧
    (∀ x e a o off, inHand x → x.reading = [e] → e.dst = .here a → atlasLoc a = some (.vrf o off) → off % 128 + dst x ≤ 128 →
      x.keeps o (off / 128) = false → Tpl.wadd x.img = false → s.NoAwait →
      does (.copyLineDone c ch) fun t => t.mem = s.mem ∧
        (∀ ln, ln ≠ off / 128 → (t.core o).line ln = (s.core o).line ln) ∧
        (∀ i, i < 128 → lineBytes ((t.core o).line (off / 128)) i 1 =
          if off % 128 ≤ i ∧ i < off % 128 + dst x then (x.convert e.val).1 / 256 ^ (i - off % 128) % 256
          else lineBytes ((s.core o).line (off / 128)) i 1) ∧
        (let d := dieOf c
        let r := s.survey d (Tpl.svid x.img)
        Tpl.note x.img = true → Tpl.conv x.img ≠ 3 → Tpl.conv x.img ≠ 4 → SvRec.fwd r = false →
          t.survey d (Tpl.svid x.img) = SvRec.notes r (s.legend d (SvRec.legid r)) [(x.convert e.val).2.1]) ∧
        ∃ x', (chan t).act = some x' ∧ x'.done = x.done + 1 ∧ x'.reading = []) ∧
    -- the end
    (∀ x, free x → Tpl.rel x.img = false → Tpl.fid x.img = 0 →
      does (.copyFinish c ch) fun t => OnlyCore s t c ∧ t.core c = k.setChan ch
        (match q.queue with
         | [] => { q with st := 0, act := none, follow := none }
         | y :: l => { q with st := y.first, act := some y, queue := l, rprog := 0, follow := none })) ∧
    (∀ x o i, free x → Tpl.rel x.img = true → x.relDone = false → Tpl.fid x.img = 0 → k.late = [] →
      s.syncPlace x.ctx (Tpl.rsync x.img) = some (.inl (o, i)) → s.accWaits o x.ctx (i / 4096) = false →
      s.frozen c (dieOf o) x.ctx = false → s.writesOpen c x.seq (s.boundTo c x.tid o x.ctx (word (accAtlas o i))) = false →
      s.copyFar x = none → s.NoAwait →
      does (.copyFinish c ch) fun t => t.mem = s.mem ∧ (chan t).act = q.queue.head? ∧
        (t.core o).acc (i / 4096) (i % 4096) =
          ((((s.core o).acc (i / 4096) (i % 4096)).truncate 32 + x.img.extractLsb' 288 32 : BitVec 32)).signExtend 40) ∧
    (∀ x, free x → Tpl.rel x.img = false → Tpl.fid x.img ≠ 0 → x.folDone = false →
      does (.copyFinish c ch) fun t => OnlyCore s t c ∧ t.core c = k.setChan ch
        { q with act := some { x with folDone := true }
                 follow := some (Tpl.fid x.img, (x.img.extractLsb' 480 32).zeroExtend 64, x.img.extractLsb' 460 4) }) ∧
    -- follow-ons
    (∀ x fid v m, q.act = some x → x.stepped = false → x.folDone = true → q.follow = some (fid, v, m) → q.st = 2 →
      k.chanHalt = false → k.replayUse.1 < 48 → k.replayUse.2 + b2n (isMma fid) ≤ 30 →
      does (.followOnHandover c ch) fun t => OnlyCore s t c ∧ (t.core c).pipe.seq = k.pipe.seq + 1 ∧
        (t.core c).cp.follows = k.cp.follows ++
          [{ id := fid, val := v, m := m, ch := ch, seq := k.pipe.seq, info := q.info ch, tpl := word x.tpl, bpc := x.bpc }] ∧
        chan t = if x.relDone = true ∨ Tpl.rel x.img = false then q.next else { q with follow := none }) ∧
    (∀ f, k.cp.follows = [f] → isMma f.id = true → f.val = 0 → f.m = 0 → k.pipe.pre = 0 →
      let op : EngineOp := { id := f.id, ports := k.mxPorts, seq := 0, u := k.pipe.run, dc := 0, dt := 0 }
      let n := 128 * op.steps + 16
      let o : EngineOp := { op with
        seq := f.seq, dc := n, dt := n, due := some k.pipe.run, stepped := k.stepArm, agent := some (f.ch, f.info, f.tpl)
        legs := if op.nar then op.legIds.map fun i => s.legend (dieOf c) i else [] }
      op.mxFieldsOk c = true →
      (op.nar = true → ∀ i ∈ op.legIds, s.legendInRange (dieOf c) (s.env c).ctx i = true ∧
        Legend.usable (s.legend (dieOf c) i) = true) →
      (∀ n, op.noteSv = some n → (s.env c).svOk n = true) →
      k.eng.mx = none → k.eng.mxWait = none → k.accMeets op.mxTile k.pipe.run n = false →
      op.badLine s c (s.env c).ctx = none → s.engineLines c (op.stepLines 0) = none →
      s.TileQuiet c op.mxTile → op.softC k = none → (s.die (dieOf c)).wmx (clusterOf c) ≤ k.ctl.res →
      does (.followOnIssue c) fun t => t.mem = s.mem ∧ (∀ e, e ≠ c → t.core e = s.core e) ∧ (t.core c).regs = k.regs ∧
        (t.core c).cp = { k.cp with follows := [] } ∧ (t.core c).eng.mx = some ((o.begin_ k).stepped' k) ∧
        (t.core c).ctl.res = k.ctl.res - (s.die (dieOf c)).wmx (clusterOf c))

/-- How a copy stops: its next element's fault, or an uncorrectable line that it read, puts the channel into FAULT with the cause
and the trap pending at the core; an aborted channel whose requests are over is IDLE with cause 8 and its claims
withdrawn; the first CRC mismatch of a landing's line reads that line again, other lines in hand staying as they are, and a
request writes its record into the landing die's error ring; a second mismatch of the line stops the copy with cause 7; an uncorrectable
line that a copy reads marks the copy, which then stops (03 R77, R78, R81; 04 R102..R106). -/
def Obligations.CopyStops : Prop :=
  ∀ (s : State) (c ch : Nat) (x : Copy), ch < 8 →
    let k := s.core c
    let q := k.chan ch
    let chan (t : State) : Channel := (t.core c).chan ch
    let faults (n : Nat) (y : Cause) : Prop := ∃ t, exec (.copyFault c ch) s = .next t ∧ (chan t).st = 4 ∧ (chan t).cause = n ∧
      (chan t).rprog = q.rprog ∧ (chan t).ticket = q.ticket ∧
      (ch, { y with i1 := (chan t).info ch, i2 := word x.tpl }) ∈ (t.core c).pipe.attr
    q.act = some x → x.stepped = false →
    (∀ n y, k.moving ch = some x → x.reading = [] → (W.of s).element c ch x x.done = .fault (n, y) → k.readBad ch = none →
      faults n y) ∧
    (∀ ln, x.bad = some ln → q.st = 2 → x.reads = 0 → x.writes = 0 → x.ask = [] →
      faults 7 { code := 10, sub := 2, i0 := word (128 * ln) }) ∧
    (q.st = 5 → x.reads = 0 → x.writes = 0 → q.dropped = [] → Tpl.dsp x.img = 2 → Tpl.wadd x.img = false →
      ∃ t, exec (.copyAbortDrain c ch) s = .next t ∧ t.mem = s.mem ∧ t.dies = s.dies ∧ t.pkg = s.pkg ∧
        chan t = { q with st := 0, cause := 8, act := none } ∧
        ((x.claims.map (·.1)).Nodup → ∀ e ∈ x.claims.map (·.1),
          Tab.get 0 (t.core (e / 32768)).claims (e % 32768) = Tab.get 0 (s.core (e / 32768)).claims (e % 32768) - 1)) ∧
    (∀ (n : Nat) (el : Elem) (syn : Word), x.landed q.st s.clk = true → x.reading[n]? = some el →
      let ln := (x.srcSpan (x.done + n)).1
      let d := el.landDie c
      let m := (s.die d).mc
      let a := m.ehbase.toNat + 32 * m.ehhead.toNat
      let recorded (t : State) (kind : Nat) : Prop :=
        (t.die d).mc.ehhead.toNat = (if m.ehhead.toNat + 1 < m.ehcount.toNat then m.ehhead.toNat + 1 else 0) ∧
        (a % 128 ≤ 96 → ∃ r ∈ Tab.get [] (t.die (stackOf (a / 128 * 128))).mc.waiting (pcOf (a / 128 * 128)),
          r.src = agentPort 2 d ∧ r.line = a / 128 ∧ r.write = true ∧ (a + 13, BitVec.ofNat 8 (16 + kind)) ∈ r.data ∧
          ∀ i, i < 8 → (a + i, (word s.ts).extractLsb' (8 * i) 8) ∈ r.data ∧ (a + 16 + i, syn.extractLsb' (8 * i) 8) ∈ r.data)
      (x.crc.contains ln = false →
        ∃ t y, exec (.landingCrcRetry c ch { n := n, syn := syn }) s = .next t ∧ t.mem = s.mem ∧ (∀ e, e ≠ c → t.core e = s.core e) ∧
          t.core c = k.setChan ch { q with act := some y } ∧ y.crc = ln :: x.crc ∧ y.done = x.done ∧ y.claims = x.claims ∧
          (∀ i e, x.reading[i]? = some e → (x.srcSpan (x.done + i)).1 ≠ ln → (x.srcSpan (x.done + i)).2 ≠ ln →
            y.reading = [] ∨ y.reading[i]? = some e) ∧
          (y.reading ≠ [] → y.reads = y.ask.length ∧
            y.ask.map (·.line) = linesOf (y.reading.map fun e => e.src.map (·.2)).flatten) ∧ recorded t 4) ∧
      (x.crc.contains ln = true →
        ∃ t, exec (.landingCrcRetry c ch { n := n, syn := syn }) s = .next t ∧ (chan t).st = 4 ∧ (chan t).cause = 7 ∧
          (chan t).rprog = q.rprog ∧ recorded t 5)) ∧
    (∀ d pc r, Tab.get [] (s.die d).mc.waiting pc = [r] → (Tab.get [] (s.die d).mc.queues pc).length < 32 → r.write = false →
      r.who = .agent → r.src = c * 8 + ch → c < 1024 → ∀ ev, (ev = none ∧ s.poisoned (128 * r.line) = true ∨ ∃ syn, ev = some (.uncorrectable syn)) →
      ∃ t, exec (.hbmAdmit d { n := pc, ev := ev }) s = .next t ∧ chan t = { q with act := some { x with bad := some r.line } })

/-! ### Main memory (03, 13) -/

/-- A translation walks three levels of 4,096 entries from the table root: an entry that is not valid is a PAGE_FAULT of subcode
0, a leaf gives its page; a walk first asks the controllers for the lines of its entries, and once they are admitted the
gazetteer of the die keeps its page, and a kept one is not walked again (log 101). An idle bank without a queued hit and a refreshed bank are closed; the scrubber asks
for the lines of its row and, once they are admitted, goes on to the next one, and an uncorrectable line that it finds is
poisoned; EHCOUNT and EHBASE take their fields and return the head to 0, a count of 0 being ignored (03 R73, R77..R79;
13 R311..R313). -/
def Obligations.MainMemory : Prop :=
  ∀ (s : State) (d : Nat),
    let x := s.die d
    let m := x.mc
    let ent (a : Nat) : BitVec 64 := BitVec.ofNat 64 (leNat ((List.range 8).map fun i => s.hbm (a + i)))
    let next (e : BitVec 64) : Nat := bits e 15 24 * 2 ^ 15
    let fine (a : Nat) : Prop := a < Config.hbmBytes ∧ s.poisoned a = false ∧ leafReserved (ent a) = false
    let asks (t : State) : Prop := t.mem = s.mem ∧ t.cores = s.cores ∧ t.pkg = s.pkg ∧ t.clk = s.clk ∧ t.ts = s.ts ∧
      (∀ e, (t.die e).mc = { (s.die e).mc with waiting := (t.die e).mc.waiting }) ∧
      ∀ e, e ≠ d → t.die e = { s.die e with mc := (t.die e).mc }
    let mc (e : Instr) (m' : MemCtl) : Prop := ∃ t, exec e s = .next t ∧ OnlyDie s t d ∧ t.die d = { x with mc := m' }
    (∀ root va : Nat, root ≠ 0 → va < 2 ^ 51 →
      let a1 := root + 8 * (va / 2 ^ 39 % 4096)
      let a2 := next (ent a1) + 8 * (va / 2 ^ 27 % 4096)
      let a3 := next (ent a2) + 8 * (va / 2 ^ 15 % 4096)
      (a1 < Config.hbmBytes → s.poisoned a1 = false → (ent a1).getLsbD 0 = false → (W.of s).walk root va = .error (.page 0)) ∧
      (fine a1 → bits (ent a1) 0 2 = 3 → (ent a1).getLsbD 4 = false → next (ent a1) % 2 ^ 39 = 0 →
        next (ent a1) + va % 2 ^ 39 < Config.hbmBytes →
        (W.of s).walk root va = .ok { va := va / 2 ^ 39 * 2 ^ 39, size := 2 ^ 39, leaf := ent a1 }) ∧
      (fine a1 → fine a2 → fine a3 → bits (ent a1) 0 2 = 1 → bits (ent a2) 0 2 = 1 → (ent a1).getLsbD 4 = false →
        (ent a2).getLsbD 4 = false → bits (ent a3) 0 2 = 3 → (ent a3).getLsbD 4 = false →
        next (ent a3) + va % 2 ^ 15 < Config.hbmBytes →
        (W.of s).walk root va = .ok { va := va / 2 ^ 15 * 2 ^ 15, size := 2 ^ 15, leaf := ent a3 })) ∧
    (∀ (ctx va : Nat), (∃ e ∈ x.gaz, e.1 = ctx ∧ e.2.covers va = true) → exec (.tableWalk d ctx va) s = .next s) ∧
    (∀ (ctx va : Nat), (∀ e ∈ x.gaz, e.1 = ctx → e.2.covers va = false) →
      let l := (W.of s).walkReads d (s.ptroot d ctx) va
      let walked : Except XErr HeldPage := ((W.of s).takeReads l).walk (s.ptroot d ctx) va
      let only (t : State) : Prop := t.mem = s.mem ∧ t.cores = s.cores ∧ t.pkg = s.pkg ∧ t.clk = s.clk ∧ t.ts = s.ts ∧
        ∀ e, (t.die e).mc = { (s.die e).mc with turns := (t.die e).mc.turns } ∧
          (e ≠ d → t.die e = { s.die e with mc := (t.die e).mc })
      (s.admitted l = false →
        ∃ t, exec (.tableWalk d ctx va) s = .next t ∧ asks t ∧ t.die d = { x with mc := (t.die d).mc } ∧
          ∀ e ∈ l, (t.turn e).isSome = true ∨ t.askedHbm e.1 (128 * e.2) 128 = true) ∧
      (∀ p, s.admitted l = true → walked = .ok p →
        ∃ t, exec (.tableWalk d ctx va) s = .next t ∧ only t ∧ (ctx, p) ∈ (t.die d).gaz ∧
          t.die d = { x with gaz := (t.die d).gaz, mc := (t.die d).mc }) ∧
      (∀ e, s.admitted l = true → walked = .error e →
        ∃ t, exec (.tableWalk d ctx va) s = .next t ∧ only t ∧ t.die d = { x with mc := (t.die d).mc })) ∧
    (∀ bk r, Tab.get none m.openRow bk = some r → Tab.get 0 m.lastUse bk + (Tab.get 32 m.idle bk).toNat ≤ 2 * s.ts →
      m.queuedHit bk = false → mc (.bankIdlePrecharge d bk) { m with openRow := Tab.put none m.openRow bk none }) ∧
    (∀ bk, mc (.hbmRefresh d bk) { m with openRow := Tab.put none m.openRow bk none }) ∧
    (m.scrub = true → m.scrubAsked = false → d < 8 → ∀ ev, ∃ t, exec (.scrubRow d ev) s = .next t ∧ OnlyDie s t d ∧
      t.die d = { x with mc := { m with
        scrubAsked := true, waiting := (t.die d).mc.waiting
        scrubDue := Nat.max m.scrubDue (s.ts * (98304 * 512)) + m.period.toNat * 3600000000000 } } ∧
      ∃ r ∈ Tab.get [] (t.die d).mc.waiting (pcOf (s.scrubBase d)), r.line = s.scrubBase d / 128 ∧ r.write = false) ∧
    (m.scrub = true → m.scrubAsked = true → s.askedHbm (agentPort 1 d) (s.scrubBase d) 1024 = true →
      ∀ ev, exec (.scrubRow d ev) s = .next s) ∧
    (m.scrub = true → m.scrubAsked = true → s.askedHbm (agentPort 1 d) (s.scrubBase d) 1024 = false →
      (∀ a ∈ lineAddrs (s.scrubBase d) 1024, s.poisoned a = false) →
      mc (.scrubRow d []) { m with scrubRow := (m.scrubRow + 1) % (98304 * 512), scrubAsked := false }) ∧
    (m.scrub = false → ∀ ev, exec (.scrubRow d ev) s = .next s) ∧
    (∀ a syn, m.scrub = true → m.scrubAsked = true → s.askedHbm (agentPort 1 d) (s.scrubBase d) 1024 = false →
      a / 1024 = rowAddr d (m.scrubRow % 512) (m.scrubRow / 512) / 1024 → stackOf a = d →
      ∃ t, exec (.scrubRow d [(a, true, syn)]) s = .next t ∧ t.cores = s.cores ∧ t.pkg = s.pkg ∧ t.poisoned a = true ∧
        (t.die d).mc.scrubRow = (m.scrubRow + 1) % (98304 * 512)) ∧
    (∀ v : Word, bits v 0 20 ≠ 0 →
      mc (.ehringWrite d true v) { m with ehcount := v.extractLsb' 0 20, ehhead := 0, ehfill := 0 }) ∧
    (∀ v : Word, mc (.ehringWrite d false v) { m with ehbase := v.extractLsb' 0 39, ehhead := 0, ehfill := 0 }) ∧
    (∀ v : Word, bits v 0 20 = 0 → mc (.ehringWrite d true v) m)

/-! ### The memory tier (03 R82..R89) -/

/-- PUSHT, POPT, LEASE, UNLEASE and LSTAT of a context with a memory-tier grant, with legal operands and, for a tensor in own
lines, lines that are allotted and the core's own, leave a command for the engine and an item that waits for its status, due 24
run cycles later; without the grant they are an ILLEGAL_PORT, and reserved bits are an ENGINE_FAULT (01 R34; 03 R83,
R84, R88).
The engine accepts a core's oldest command and forms its status: LSTAT's word; a push that R84 refuses, or a new
entry on top; a pop that R84 refuses, or the top entry detached and its lines claimed; a lease slot taken, none free, or a
lender that is no other rank; a slot given back. A push writes its next line into its entry's lines by a request, a pop reads its
next line and copies it, and its last line frees the entry; above HIGH the oldest entry moves line by line to the deep tier,
and the entry that a pop waits for comes back line by line (03 R83..R88). Where an entry lies in its segment is log 24; the
range checks that raise ENGINE_FAULT are log 107, that agents' reads wait for their admission log 101. -/
def Obligations.TierCommands : Prop :=
  (
    let o (s : State) : Word := s.now.regs.portW 0x900
    let eff (id : Nat) (m : Slot → BitVec 4) (s : State) (f : Slot) (v : Line) (k : Core) : Core :=
      let k1 := k.withItem { trigItem s id (m f) 24 (o s) 0 [] with kind := .atr, await := .agent }
      { k1 with
        tier := k.tier ++ [{ seq := s.now.pipe.seq, op := id, o := o s, t := scalarOf v, m := m f, bpc := word s.now.pcAddr
                             stepped := s.now.stepArm }]
        running := k.running.map fun r => { r with cmds := r.cmds ++ [(s.focus, 8, s.now.pipe.seq)] } }
    let may (s : State) : Prop := (s.env s.focus).tier = true
    (∀ p ∈ [(0x901, Instr.pusht), (0x902, .popt)],
      TriggersIf p.1 p.2
        (fun s f v =>
          let len := (scalarOf v).toNat
          may s ∧ 1 ≤ len ∧
          (f.m = 0 ∧ bits (o s) 15 33 = 0 ∧ bits (o s) 0 15 + len ≤ 32768 ∧
              (∀ i, i < len → s.allotted s.focus (s.env s.focus).ctx (bits (o s) 0 15 + i) = true ∧
                s.lineRight s.focus s.focus (s.env s.focus).ctx (bits (o s) 0 15 + i) .own = true) ∨
            f.m = 1 ∧ bits (o s) 44 4 = 0 ∧ len ≤ 2 ^ 24))
        (eff p.1 Slot.m) ∧
      TrapsIf p.1 p.2 (fun s _ v => may s ∧ scalarOf v = 0) (fun _ _ _ => engineFault 1 p.1)) ∧
    TriggersIf 0x903 .lease
      (fun s f v => may s ∧ f.m.toNat < 2 ∧ (o s).toNat < 1024 ∧ 1 ≤ (scalarOf v).toNat ∧ (scalarOf v).toNat ≤ 1024) (eff 0x903 Slot.m) ∧
    TriggersIf 0x904 .unlease (fun s f v => may s ∧ f.m = 0 ∧ (scalarOf v).toNat < 16) (eff 0x904 Slot.m) ∧
    TriggersIf 0x905 (fun f => .lstatSlot ⟨f.g, f.s⟩) (fun s _ v => may s ∧ (scalarOf v).toNat < 16) (eff 0x905 fun _ => 0) ∧
    TriggersIf 0x905 (fun f => .lstatDeadline ⟨f.g, f.s⟩) (fun s _ v => may s ∧ (scalarOf v).toNat < 16) (eff 0x905 fun _ => 2) ∧
    TriggersIf 0x905 (fun f => .lstatStack ⟨f.g, f.s⟩) (fun s _ v => may s ∧ scalarOf v = 0) (eff 0x905 fun _ => 1) ∧
    TrapsIf 0x901 .pusht (fun s _ _ => (s.env s.focus).tier = false) (fun _ _ _ => illegalPort 1 2 0x901) ∧
    TrapsIf 0x905 (fun f => .lstatSlot ⟨f.g, f.s⟩) (fun s _ v => may s ∧ 16 ≤ (scalarOf v).toNat) (fun _ _ _ => engineFault 1 0x905)
  ) ∧
  (
    ∀ (s : State) (c : Nat),
      let k := s.core c
      let d := dieOf c
      let ctx := k.ctx.getD 0
      let st := s.stack d ctx
      (∀ x, k.tier.find? (fun y => !y.accepted) = some x → k.chanHalt = false → k.pipe.pre = 0 → x.stepped = false →
        let len := bits x.t 0 25
        let need := (len + 1) * 128
        let status (n : Nat) (more : State → Prop) : Prop := ∃ t, exec (.tierAccept c) s = .next t ∧
          (t.mem = s.mem ∨ x.op = 0x902 ∧ x.m.getLsbD 0 = true) ∧ (t.core c).regs = k.regs ∧ more t ∧
          ∀ it ∈ k.pipe.items, it.seq = x.seq → it.await ≠ .ready →
            { it with
              await := .ready, wr := [(0x900, lineOf (word n))]
              kind := if 0x901 ≤ it.id ∧ it.id ≤ 0x905 then .res else it.kind } ∈ (t.core c).pipe.items
        let same (t : State) : Prop := t.stack d ctx = st ∧ (t.core c).tier = k.tier.filter fun y => decide (y.seq ≠ x.seq)
        (x.op = 0x905 → status (s.lstat d ctx x) same) ∧
        (x.op = 0x901 → s.ssize d ctx = 0 → status 9 same) ∧
        (x.op = 0x901 → s.ssize d ctx ≠ 0 → s.ssize d ctx < need → status 2 same) ∧
        (x.op = 0x901 → s.ssize d ctx ≠ 0 → st.resident + need ≤ s.ssize d ctx →
          status 0 fun t => (t.stack d ctx).nextKey = st.nextKey + 1 ∧
            (t.stack d ctx).jobs = st.jobs ++ [{ core := c, seq := x.seq, op := 0x901, o := x.o, m := x.m, len := len, key := st.nextKey }] ∧
            ((∀ e ∈ st.all, e.key < st.nextKey ∧ (e.resident = true → e.runs ≠ [])) →
              ∀ r, st.room (s.ssize d ctx / 128) (len + 1) = some r → (t.stack d ctx).entries =
                { key := st.nextKey, tag := x.o.extractLsb' 48 16, len := len, runs := r } :: st.entries)) ∧
        (x.op = 0x902 → s.popWaits c x = false → s.ssize d ctx ≠ 0 →
          (st.entries = [] → status 3 same) ∧
          ∀ e l, st.entries = e :: l →
            (e.tag ≠ x.o.extractLsb' 48 16 → status 4 same) ∧
            (e.tag = x.o.extractLsb' 48 16 → e.len ≠ len → status 5 same) ∧
            (e.tag = x.o.extractLsb' 48 16 → e.len = len →
              status 0 fun t => (t.stack d ctx).entries = l ∧
                (t.stack d ctx).jobs = st.jobs ++ [{ core := c, seq := x.seq, op := 0x902, o := x.o, m := x.m, len := len, key := e.key }] ∧
                (x.m.getLsbD 0 = false → ∀ i, i < len → (t.core c).present (bits x.o 0 15 + i) = false))) ∧
        (x.op = 0x903 →
          ((∀ i, i < 16 → (st.lease i).st ≠ 0) → status 6 same) ∧
          ∀ i, i < 16 → (st.lease i).st = 0 → (∀ j, j < i → (st.lease j).st ≠ 0) →
            (bits x.o 0 10 = s.pkg.rank.toNat → status 8 same) ∧
            (bits x.o 0 10 ≠ s.pkg.rank.toNat → bits x.o 0 10 < s.pkg.dsize.toNat → s.pkg.linkUp ≠ 0 →
              status (i * 256) fun t => (t.stack d ctx).lease i =
                { st := 1, lender := bits x.o 0 10, asked := bits x.t 0 11, part := x.m.getLsbD 0 })) ∧
        (x.op = 0x904 →
          let l := st.lease (bits x.t 0 4)
          (l.st = 1 ∨ l.st = 3 ∨ l.st = 5 → status 0 fun t => (t.stack d ctx).lease (bits x.t 0 4) = {}) ∧
          (l.st = 2 ∨ l.st = 4 → status 0 fun t => (t.stack d ctx).lease (bits x.t 0 4) = { l with st := 6 }) ∧
          (l.st = 0 ∨ l.st = 6 → status 7 same))) ∧
      (∀ n j, st.jobs[n]? = some j → (s.core j.core).chanHalt = false →
        let y := s.core j.core
        let ln := bits j.o 0 15 + j.n
        let on (x : TierJob) : TierJob :=
          if x.core = j.core ∧ x.seq = j.seq then { x with n := j.n + 1, crc := false } else x
        let req (t : State) (a : Nat) (write : Bool) (p : HbmReq → Prop) : Prop :=
          ∃ r ∈ Tab.get [] (t.die (stackOf a)).mc.waiting (pcOf a), r.src = agentPort 0 d ∧ r.line = a / 128 ∧ r.write = write ∧ p r
        (∀ e, j.op = 0x901 → j.m.getLsbD 0 = false → y.present ln = true → y.soft.contains ln = false →
          st.entry j.key = some e → e.runs ≠ [] → s.sbase d ctx % 128 = 0 →
          ∃ t, exec (.tierPushData d ctx { n := n }) s = .next t ∧ t.mem = s.mem ∧
            (let a := s.stackAddr d ctx e j.n
             req t a true fun r => ∀ i, i < 128 → (a + i, (y.line ln).extractLsb' (8 * i) 8) ∈ r.data) ∧
            (t.stack d ctx).entry j.key = some { e with wrote := j.n + 1 } ∧
            (j.n + 1 ≠ j.len → t.cores = s.cores ∧ (t.stack d ctx).jobs = st.jobs.map on) ∧
            (j.n + 1 = j.len → (t.core j.core).tier = y.tier.filter fun z => decide (z.seq ≠ j.seq))) ∧
        (∀ e, j.op = 0x902 → j.m.getLsbD 0 = false → st.popReady j = some e →
          let a := s.stackAddr d ctx e j.n
          let rd := (agentPort 0 d, a / 128)
          (s.turn rd = none → s.askedHbm rd.1 (128 * rd.2) 128 = false →
            ∃ t, exec (.tierPopData d ctx { n := n }) s = .next t ∧ t.mem = s.mem ∧ t.cores = s.cores ∧
              t.stack d ctx = st ∧ req t (a / 128 * 128) false fun _ => True) ∧
          (s.turn rd = some true → s.poisoned a = false →
            ∃ t, exec (.tierPopData d ctx { n := n }) s = .next t ∧ t.mem = s.mem ∧
              (∀ i, i < 128 → ((t.core j.core).line ln).extractLsb' (8 * i) 8 = s.hbm (a + i)) ∧
              (∀ i, i ≠ ln → (t.core j.core).line i = y.line i) ∧
              (Tab.get 0 y.claims ln ≤ 1 → (t.core j.core).present ln = true) ∧
              (j.n + 1 = j.len → (t.stack d ctx).entry j.key = none)))) ∧
      (let spill (P : State → Prop) : Prop :=
         ∃ t, exec (.spillEntry d ctx) s = .next t ∧ t.mem = s.mem ∧ t.cores = s.cores ∧ t.pkg = s.pkg ∧ P t
       (∀ e l, st.moving = none → st.movable = e :: l → s.highMark d ctx < st.resident → e.size ≤ s.deepSize d ctx - st.spilled →
         spill fun t => t.stack d ctx = { st with spilling := true, moving := some (e.key, 0, false) }) ∧
       (∀ e n, st.moving = some (e.key, n, false) → st.entry e.key = some e →
         let a := s.stackLine d ctx e n
         s.turn (agentPort 0 d, a / 128) = some true → s.poisoned a = false →
         spill fun t =>
           (∀ i, i < 128 → (Tab.get 0 (t.stack d ctx).data (stackKey e.key n)).extractLsb' (8 * i) 8 = s.hbm (a + i)) ∧
           (n < e.len → (t.stack d ctx).moving = some (e.key, n + 1, false) ∧ (t.stack d ctx).entries = st.entries) ∧
           (e.len ≤ n → (t.stack d ctx).moving = none ∧ (t.stack d ctx).entry e.key = some { e with resident := false, runs := [] }))) ∧
      (let back (P : State → Prop) : Prop :=
         ∃ t, exec (.returnEntry d { ctx := ctx }) s = .next t ∧ t.mem = s.mem ∧ t.cores = s.cores ∧ t.pkg = s.pkg ∧ P t
       (∀ e r, st.moving = none → st.wanted = some e → st.resident + e.size ≤ s.ssize d ctx →
         st.room (s.ssize d ctx / 128) (e.len + 1) = some r → r ≠ [] →
         back fun t => (t.stack d ctx).moving = some (e.key, 0, true) ∧ (t.stack d ctx).entries = (st.modEntry e.key fun e => { e with runs := r }).entries ∧
           (t.stack d ctx).leaving = (st.modEntry e.key fun e => { e with runs := r }).leaving) ∧
       (∀ e n, st.moving = some (e.key, n, true) → st.entry e.key = some e →
         let a := s.stackLine d ctx e n
         back fun t =>
           (∃ r ∈ Tab.get [] (t.die (stackOf (a / 128 * 128))).mc.waiting (pcOf (a / 128 * 128)), r.src = agentPort 0 d ∧ r.line = a / 128 ∧ r.write = true ∧
             ∀ i, i < 128 → (a + i, (Tab.get 0 st.data (stackKey e.key n)).extractLsb' (8 * i) 8) ∈ r.data) ∧
           (n < e.len → (t.stack d ctx).moving = some (e.key, n + 1, true)) ∧
           (e.len ≤ n → (t.stack d ctx).moving = none ∧ (t.stack d ctx).entry e.key = some { e with resident := true })))
  )

/-- A lease slot follows R88: a grant of enough units makes PENDING ACTIVE, too few or a refusal REFUSED; a revocation makes
ACTIVE NOTICE with its deadline, the deadline REVOKED; a release is FREE once the lender has completed the accesses that it
admitted, which a free value says (log 31); each entry into ACTIVE, REFUSED, NOTICE and
REVOKED adds 1 to the word LEVW. An answer to a request that was withdrawn changes no slot. The lender zeroes a range of free
units, lends it and takes it from its pool, or refuses; it revokes a range with its notice, and a range that comes back is
zeroed and lendable again (03 R88, R89). Which range a lender gives is log 91, the lender's deadline log 107. -/
def Obligations.Leases : Prop :=
  ∀ (s : State) (d ctx i : Nat),
    let l := (s.stack d ctx).lease i
    let a := bits (s.levw d ctx) 0 48
    let fresh : Prop := (s.stack d ctx).isStale i l.lender = false
    let becomes (e : Instr) (l' : LeaseSlot) (event : Bool) : Prop :=
      ∃ t, exec e s = .next t ∧ t.mem = s.mem ∧ (t.stack d ctx).lease i = l' ∧ (∀ j, j ≠ i → (t.stack d ctx).lease j = (s.stack d ctx).lease j) ∧
        (event = false → t.cores = s.cores) ∧
        (event = true → (s.levw d ctx).getLsbD 58 = false → ∀ b o off, s.target ctx a 5 = some (.here b (.acc o off)) → off % 5 = 0 →
          (t.core o).ats = (s.core o).ats ++
            [{ seq := 0, op := 0x284, addr := word b, x := 1, m := 0, live := false, mute := true, ctx := ctx, src := ctx * 8 + d
               num := s.count }])
    (∀ units base, fresh → l.st = 1 → (l.asked ≤ units ∨ (l.part = true ∧ 1 ≤ units)) →
      becomes (.leaseGrant d ctx ⟨i, l.lender⟩ units base) { l with st := 2, units := units, base := base } true) ∧
    (∀ units base, fresh → l.st = 1 → ¬ (l.asked ≤ units ∨ (l.part = true ∧ 1 ≤ units)) →
      becomes (.leaseGrant d ctx ⟨i, l.lender⟩ units base) { l with st := 3 } true) ∧
    (∀ n units base, l.st ≠ 1 ∨ n ≠ l.lender ∨ (s.stack d ctx).isStale i n = true →
      becomes (.leaseGrant d ctx ⟨i, n⟩ units base) l false ∧ becomes (.leaseRefuse d ctx ⟨i, n⟩) l false) ∧
    (fresh → l.st = 1 → becomes (.leaseRefuse d ctx ⟨i, l.lender⟩) { l with st := 3 } true) ∧
    (∀ n, l.st = 2 → becomes (.leaseRevoke d ctx i n) { l with st := 4, deadline := s.ts + n * 1000 } true) ∧
    (l.st = 4 → l.deadline ≤ s.ts → becomes (.leaseDeadline d ctx i) { l with st := 5 } true) ∧
    (l.st = 4 → s.ts < l.deadline → exec (.leaseDeadline d ctx i) s = .next s) ∧
    (l.st = 6 → ∃ l', (l' = l ∨ l' = {}) ∧ becomes (.leaseDrained d ctx i) l' false) ∧
    (l.st ≠ 6 → exec (.leaseDrained d ctx i) s = .next s) ∧
    (∀ rank slot n b, (∀ e ∈ s.pkg.lent, ∀ u, e.2.2.2.2.2 = some u → s.ts < u) →
      0 < n → poolRange s.pkg.pool n = some b → (b + n) * 2 ^ 27 ≤ Config.hbmBytes →
      ∃ t, exec (.leaseRequestArrive rank ctx slot (.ask n) false) s = .next t ∧ t.cores = s.cores ∧
        (∀ e, t.die e = { s.die e with mc := { (s.die e).mc with poison := (s.die e).mc.poison.filter fun ln =>
          !(decide (b * 2 ^ 27 ≤ 128 * ln) && decide (128 * ln + 128 ≤ b * 2 ^ 27 + n * 2 ^ 27)) } }) ∧
        (∀ x, b * 2 ^ 27 ≤ x → x < (b + n) * 2 ^ 27 → t.hbm x = 0) ∧
        (∀ x, (x < b * 2 ^ 27 ∨ (b + n) * 2 ^ 27 ≤ x) → t.hbm x = s.hbm x) ∧
        t.pkg.pool = s.pkg.pool.filter (fun x => !(decide (b ≤ x) && decide (x < b + n))) ∧
        t.pkg.lent = s.pkg.lent ++ [(rank, ctx, slot, b, n, none)]) ∧
    (∀ rank slot n, (∀ e ∈ s.pkg.lent, ∀ u, e.2.2.2.2.2 = some u → s.ts < u) → poolRange s.pkg.pool n = none →
      ∃ t, exec (.leaseRequestArrive rank ctx slot (.ask n) false) s = .next t ∧ t.cores = s.cores ∧ t.dies = s.dies ∧
        t.mem = s.mem ∧ t.pkg.pool = s.pkg.pool ∧ t.pkg.lent = s.pkg.lent) ∧
    (∀ rank slot b n part, (rank, ctx, slot, b, n, none) ∈ s.pkg.lent →
      ∃ t, exec (.leaseRequestArrive rank ctx slot .revoke part) s = .next t ∧ t.cores = s.cores ∧ t.dies = s.dies ∧ t.mem = s.mem ∧
        t.pkg.pool = s.pkg.pool ∧ (rank, ctx, slot, b, n, some (s.ts + s.pkg.leaseN.toNat * 1000)) ∈ t.pkg.lent) ∧
    (∀ rank slot b n o part, s.pkg.lent = [(rank, ctx, slot, b, n, o)] → (b + n) * 2 ^ 27 ≤ Config.hbmBytes →
      ∃ t, exec (.leaseRequestArrive rank ctx slot .back part) s = .next t ∧ t.cores = s.cores ∧ t.pkg.lent = [] ∧
        t.pkg.pool = s.pkg.pool ++ (List.range n).map (b + ·) ∧
        (∀ x, b * 2 ^ 27 ≤ x → x < (b + n) * 2 ^ 27 → t.hbm x = 0) ∧
        ∀ x, (x < b * 2 ^ 27 ∨ (b + n) * 2 ^ 27 ≤ x) → t.hbm x = s.hbm x)

/-! ### The call board (12) -/

/-- A launch request whose header and tables have been read is refused with 1 where one of them is not translated, with the
status of the first check that fails, and otherwise takes the lowest free slot: the slot holds the request's fields, the header
and the tables, the legends and surveys named are loaded; the status goes to STATW as an AST, nothing where STATW is 0. A header
that does not begin with FVKL, a version out of 1..3 and work-id fields of more than 64 bits give 2, 3 and 5. Until its reads
are admitted the request waits at its port (12 R272, R273). The order of the checks is log 26, the wait log 101; that a context
which closes refuses with 1 is log 117. -/
def Obligations.Launches : Prop :=
  ∀ (s : State) (d ctx : Nat) (req : BitVec 256) (grant : BitVec 2),
    let b := (s.die d).board
    let v := reqStatw req
    let x : LaunchReq := { ctx := ctx, req := req, priv := grant.getLsbD 0, tier := grant.getLsbD 1 }
    let asked : W := (W.of s).modBoard d fun b => { b with ports := b.ports ++ [x] }
    let w : W := (asked.takeReads (asked.launchReads d x)).modBoard d fun b => { b with ports := b.ports.erase x }
    let read := w.vread d ctx (reqHdr req) 128
    let early (h : BitVec 1024) := launchEarly req h (grant.getLsbD 0) (grant.getLsbD 1)
    let status (st : Nat) : Prop := ∃ t, exec (.launchRequest d ctx req grant) s = .next t ∧ t.mem = s.mem ∧
      (v = 0 → t.cores = s.cores ∧ t.pkg = s.pkg ∧ ∀ e, t.die e = { s.die e with mc := (t.die e).mc }) ∧
      (∀ a o off, v ≠ 0 → v.getLsbD 58 = false → s.atTarget d ctx false v = .ok (.here a (.acc o off)) →
        s.target ctx (bits v 0 48) 5 = some (.here a (.acc o off)) → off % 5 = 0 →
        (t.core o).ats = (s.core o).ats ++
          [{ seq := 0, op := 0x283, addr := word a, x := word st, m := 0, live := false, mute := true, ctx := ctx
             src := ctx * 8 + d, num := s.count }])
    (∀ x ∈ b.ports, x.ctx ≠ ctx) →
      (s.isClosing d ctx = true → status 1) ∧
      (s.isClosing d ctx = false → s.admitted (asked.launchReads d x) = false →
        ∃ t, exec (.launchRequest d ctx req grant) s = .next t ∧ t.mem = s.mem ∧ t.cores = s.cores ∧ t.pkg = s.pkg ∧
          (t.die d).board = { b with ports := b.ports ++ [x] } ∧
          ∀ e ∈ asked.launchReads d x, (t.turn e).isSome = true ∨ t.askedHbm e.1 (128 * e.2) 128 = true) ∧
      (s.isClosing d ctx = false → s.admitted (asked.launchReads d x) = true →
      (read = none → status 1) ∧
      (∀ l, read = some l →
        let h : BitVec 1024 := ofBytes 1024 l
        let begins : Prop := h.extractLsb' 0 32 = 0x464C564B ∧ h.extractLsb' 48 16 = 128
        (h.extractLsb' 0 32 ≠ 0x464C564B → status 2) ∧
        (begins → (h.extractLsb' 32 16 = 0 ∨ 3 < (h.extractLsb' 32 16).toNat) → status 3) ∧
        (begins → h.extractLsb' 32 16 ≠ 0 → (h.extractLsb' 32 16).toNat ≤ 3 → hdrEntry h < hdrSize h → hdrEntry h % 32 = 0 →
          64 < hdrField h 0x20 1 + hdrField h 0x21 1 + hdrField h 0x22 1 + hdrField h 0x23 1 + hdrField h 0x24 1 + hdrField h 0x25 1 →
          status 5) ∧
        (∀ n, early h = some n → status n) ∧
        (early h = none → w.launchTabs d ctx h = none → status 1) ∧
        ∀ g, early h = none → w.launchTabs d ctx h = some g →
          (∀ n, w.launchLate d ctx req h g = some n → status n) ∧
          (w.launchLate d ctx req h g = none → v = 0 → ∃ t, exec (.launchRequest d ctx req grant) s = .next t ∧
            t.mem = s.mem ∧ t.cores = s.cores ∧ t.pkg = s.pkg ∧ (t.die d).board.recs = b.recs ∧
            (t.die d).board.launch (freeIdx b.launches 0) =
              { ctx := ctx, hdr := h, prio := bits req 96 3, group := bits req 99 3, aff := bits req 102 7, todo := bits req 64 32
                acceptedAt := s.clk, code := g.code, slotimg := bytesToLines g.slot, units := g.units
                tpl := (List.range (hdrTpls h)).map fun i => ofBytes 3072 ((g.tpl.drop (384 * i)).take 384) } ∧
            (∀ i, i ≠ freeIdx b.launches 0 → (t.die d).board.launch i = b.launch i) ∧
            (∀ i, i < hdrField h 0x30 2 →
              t.legend d (hdrField h 0x32 2 + i) = ofBytes 128 ((g.legs.drop (16 * i)).take 16)) ∧
            (∀ i, hdrField h 0x32 2 + hdrField h 0x30 2 ≤ i → t.legend d i = s.legend d i) ∧
            ((s.die d).deltas = [] → ∀ i, i < hdrField h 0x36 2 → bits (t.survey d (hdrField h 0x34 2 + i)) 0 32 = 0))))

/-- A launch places its records one by one, each at the lowest free index of the board, its image made of the header and the
request, ready since the launch was accepted; a launch without records left to place leaves everything as it is. A
waiting record becomes ready when its condition holds, a TIMER's when the timestamp is reached, and not before; an ENGINE wait's
mask selects the kinds of commands that it waits for; a token adds 1 to its counter, which a request of the board writes to HBM
at TKBASE as well (12 R271, R273, R274, R283, R284; when the board writes it: log 56). -/
def Obligations.Records : Prop :=
  ∀ (s : State) (d : Nat),
    let b := (s.die d).board
    (∀ i, let l := b.launch i
      let h := l.hdr
      let n := freeIdx b.recs 0
      let cs := s.launchCores d l.ctx l.aff
      let aff : BitVec 7 := if hdrFlag h 0 then BitVec.ofNat 7 (cs.getD (l.next % Nat.max 1 cs.length) 0) else 0
      let img : BitVec 512 :=
        (0 : BitVec 20) ++ BitVec.ofNat 12 i ++ (0 : BitVec 1) ++ h.extractLsb' 970 1 ++ h.extractLsb' 969 1 ++
          BitVec.ofNat 3 l.group ++ h.extractLsb' 32 2 ++ aff ++ h.extractLsb' 968 1 ++ BitVec.ofNat 3 l.prio ++
          (0 : BitVec 4) ++ h.extractLsb' 992 12 ++ h.extractLsb' 976 15 ++
          BitVec.ofNat 46 (((h.extractLsb' 64 64).toNat + (h.extractLsb' 160 32).toNat) / 32) ++
          (0 : BitVec 320) ++ (h.extractLsb' 192 64 + BitVec.ofNat 64 l.next)
      (l.todo ≠ 0 → n < 16384 → ∃ t, exec (.recordCreate d i) s = .next t ∧ OnlyDie s t d ∧
        (t.die d).board.entry n =
          some { ctx := l.ctx, img := img, ready := true, readyAt := l.acceptedAt, fresh := true, tid := s.count + 1 } ∧
        (∀ j, j ≠ n → (t.die d).board.entry j = b.entry j) ∧
        (t.die d).board.launch i = { l with todo := l.todo - 1, next := l.next + 1, live := l.live + 1 } ∧
        (∀ j, j ≠ i → (t.die d).board.launch j = b.launch j)) ∧
      (l.todo = 0 → exec (.recordCreate d i) s = .next s)) ∧
    (∀ i r, b.entry i = some r → r.ready = false → r.run = false → s.performed r.after = true →
      let readied (e : Instr) : Prop := ∃ t, exec e s = .next t ∧ t.mem = s.mem ∧ t.cores = s.cores ∧
        (t.die d).board.entry i = some { r with ready := true, readyAt := s.clk, after := [] } ∧
        ∀ j, j ≠ i → (t.die d).board.entry j = b.entry j
      let waits (e : Instr) : Prop := exec e s = .next s
      (r.wait = .always → readied (.recordReady d i)) ∧
      (∀ k h, r.wait = .token k h →
        ((Tab.get 0 b.tokens (r.ctx * 65536 + k) - h).toNat < 2 ^ 31 → readied (.recordReady d i)) ∧
        (2 ^ 31 ≤ (Tab.get 0 b.tokens (r.ctx * 65536 + k) - h).toNat → waits (.recordReady d i))) ∧
      (∀ x g, r.wait = .barrier x g →
        let q := if r.bound then r.aff / 16 else 0
        ((s.releasedCount d r.ctx x q - g).toNat < 2 ^ 31 → readied (.recordReady d i)) ∧
        (2 ^ 31 ≤ (s.releasedCount d r.ctx x q - g).toNat → waits (.recordReady d i))) ∧
      (∀ m, r.wait = .engine m →
        let ended : Prop := ∀ e ∈ r.cmds, m.getLsbD (if e.2.1 = 8 then 5 else 4) = true → s.cmdOver r.ctx e = true
        (ended → (∀ c, r.reg = some c → (s.layer c r.ctx).late = []) → readied (.recordReady d i)) ∧
        (¬ ended → waits (.recordReady d i))) ∧
      (∀ n, r.wait = .timer n → (n ≤ s.ts → readied (.timerWaitExpire d i)) ∧ (s.ts < n → waits (.timerWaitExpire d i))) ∧
      (r.wait = .never → waits (.recordReady d i))) ∧
    (∀ i r, b.entry i = some r → s.performed r.after = false →
      exec (.recordReady d i) s = .next s ∧ exec (.timerWaitExpire d i) s = .next s) ∧
    (∀ ctx k x, s.nextToken b.intok ctx k = some x → x.far = none → (∀ c, x.src = some c → (s.core c).late = []) →
      let n := Tab.get 0 b.tokens (ctx * 65536 + k) + 1
      let a := (Tab.get 0 b.tkbase ctx).toNat + 4 * k
      a % 128 ≤ 124 → ∃ t, exec (.tokenArrive d ctx k) s = .next t ∧ t.cores = s.cores ∧ t.mem = s.mem ∧
        Tab.get 0 (t.die d).board.tokens (ctx * 65536 + k) = n ∧
        (∀ j, j ≠ ctx * 65536 + k → Tab.get 0 (t.die d).board.tokens j = Tab.get 0 b.tokens j) ∧
        (t.die d).board.intok = b.intok.erase x ∧
        ∃ r ∈ Tab.get [] (t.die (stackOf a)).mc.waiting (pcOf a), r.src = agentPort 5 d ∧ r.line = a / 128 ∧ r.write = true ∧
          ∀ q, q < 4 → (a + q, n.extractLsb' (8 * q) 8) ∈ r.data)
/-- SUSPEND and YIELD end the task's run where a bundle of their class can issue, no operation of the task runs on the core's units
and the commit buffer is empty: the core is idle, the record holds s1..s5, the resume point, the window base, the newest
legend and the wait kind, and the wait that the condition registers give; it is ready at once when the wait is met. DONE frees
the record. While an operation of the task runs, they are wait cycles; a wait kind above 5, SYNC with n = 63, and both in
a handler are ILLEGAL_CONTROL (06 R147; 12 R274, R275). -/
def Obligations.Suspends : Prop :=
  ∀ (s : State) (e : BitVec 4) (r : Running) (x0 : Record),
    let c := s.focus
    let d := dieOf c
    let b := (s.die d).board
    CanIssue s e.toNat → s.now.running = some r → s.now.cbuf = [] → s.now.ats = [] → r.cmds = [] → r.idx < 16384 →
      b.entry r.idx = some x0 → s.now.late = [] → s.openOps c false = [] →
      let img (rpc : BitVec 46) (kind : BitVec 4) : BitVec 512 :=
        r.img.extractLsb' 461 51 ++ kind ++ BitVec.ofNat 12 (newestLegend (fmtShift s.now.ctl.fmt)) ++
          s.now.ctl.win.extractLsb' 0 15 ++ rpc ++ s.now.regs.sreg 5 ++ s.now.regs.sreg 4 ++ s.now.regs.sreg 3 ++
          s.now.regs.sreg 2 ++ s.now.regs.sreg 1 ++ r.img.extractLsb' 0 64
      let left (t : State) : Prop := t.mem = s.mem ∧ (t.core c).mode = .idle ∧ (t.core c).running = none ∧
        (t.core c).regs = s.now.regs ∧ (t.core c).vrf = s.now.vrf ∧ (t.core c).accw = s.now.accw
      let waitsFor (i : Instr) (x : BitVec 512) (wait : Wait) : Prop :=
        let y : Record := { x0 with img := x, wait := wait, after := [], cmds := [], run := false, ready := false, reg := some c }
        ∃ t, exec i s = .next t ∧ left t ∧ (∀ o, o ≠ c → t.core o = s.core o) ∧
          (t.die d).board.entry r.idx =
            some (if s.waitMet d y || (match wait with | .timer n => decide (n ≤ s.ts) | _ => false) then { y with ready := true, readyAt := s.clk } else y) ∧
          ∀ j, j ≠ r.idx → (t.die d).board.entry j = b.entry j
      (s.now.mode = .task → s.now.taskBusy = false →
        (waitsFor (.yield e) (r.img.extractLsb' 461 51 ++ r.img.extractLsb' 457 4 ++
          (img (s.now.pc + 1) 0).extractLsb' 0 457) .always) ∧
        ∀ (n : BitVec 6) (f : BitVec 12),
          let a := s.now.regs.sreg n.toNat
          let h := s.now.regs.sreg (n + 1).toNat
          let rpc := s.now.pc + f.signExtend 46
          (∃ t, exec (.suspend e 0 n f) s = .next t ∧ left t ∧ (t.die d).board.entry r.idx = none ∧
            (1 < (b.launch (recLaunch r.img)).live →
              ((t.die d).board.launch (recLaunch r.img)).live = (b.launch (recLaunch r.img)).live - 1)) ∧
          (bits a 48 16 = 0 → waitsFor (.suspend e 1 n f) (img rpc 1) (.token (bits a 0 16) (a.extractLsb' 16 32))) ∧
          (∀ q l, n ≠ 63 → s.atTarget d (s.env c).ctx (s.env c).priv a = .ok (.here q l) →
            waitsFor (.suspend e 2 n f) (img rpc 2) (.sync a (h.extractLsb' 0 32))) ∧
          (a.toNat < 64 → waitsFor (.suspend e 3 n f) (img rpc 3) (.engine a)) ∧
          waitsFor (.suspend e 4 n f) (img rpc 4) (.timer a.toNat) ∧
          (bits a 6 26 = 0 → barValid (s.bar d (s.env c).ctx (bits a 0 6)) = true →
            waitsFor (.suspend e 5 n f) (img rpc 5) (.barrier (bits a 0 6) (a.extractLsb' 32 32)))) ∧
      (s.now.mode = .task → s.now.taskBusy = true → exec (.yield e) s = .next (waited s) ∧
        ∀ (n : BitVec 6) (f : BitVec 12), exec (.suspend e 4 n f) s = .next (waited s)) ∧
      (∀ (k : BitVec 4) (n : BitVec 6) (f : BitVec 12), (s.now.mode = .handler ∨ 5 < k.toNat ∨ (k = 2 ∧ n = 63)) →
        exec (.suspend e k n f) s = .next (trapped s ((encode (.suspend e k n f)).getD 0)
          { code := 2, slot := 0, sub := 1, i0 := word (controlWord e 15 (k ++ n ++ f)).toNat })) ∧
      (s.now.mode = .handler → exec (.yield e) s = .next (trapped s ((encode (.yield e)).getD 0)
        { code := 2, slot := 0, sub := 0, i0 := word (controlWord e 16 0).toNat }))

/-- An idle core is given the eligible record that comes first in the order of effective priority, ready time and index; the task
starts at the record's RPC with s1..s5 of the record and every other register 0, its window base and legend, at the
priority it was dispatched with; its ports, accumulators and lines are as they were. A record ready for 256 clock cycles with
no idle core for it prompts a core. At the deadline of a prompt the task is saved: requests write the frame to the save slot in
HBM, the record is ready and bound to the core; NOSLOT is set where no slot is free, and the save follows when one is
(12 R276, R278..R280; 13 R306). That a core-bound task resumes with its newest legend alone is log 103, that a forced save
writes the frame lines too is log 68. -/
def Obligations.Dispatching : Prop :=
  ∀ (s : State) (c : Nat),
    let d := dieOf c
    let k := s.core c
    let b := (s.die d).board
    (∀ i r, s.idleCore c = true → s.nextRecord c = some (i, r) →
      ((i, r) ∈ b.recs ∧ s.eligible c r = true ∧
        ∀ x ∈ b.recs, s.eligible c x.2 = true → s.before d x (i, r) = false) ∧
      (b.entry i = some r → k.ctx = some r.ctx → r.frame = none → r.fresh = false → k.lastLaunch = some (recLaunch r.img) →
        ∃ t, exec (.dispatch c) s = .next t ∧ t.mem = s.mem ∧ (∀ o, o ≠ c → t.core o = s.core o) ∧
          (let k' := t.core c
          k'.mode = .task ∧
            k'.running = some { img := r.img, e := s.effPrio d r, since := s.clk, cmds := r.cmds, idx := i, tid := r.tid } ∧
            k'.pc = r.img.extractLsb' 384 46 ∧ (∀ j, 1 ≤ j → j ≤ 5 → k'.regs.sreg j = r.img.extractLsb' (64 * j) 64) ∧
            (∀ j, 5 < j → k'.regs.sreg j = 0) ∧ k'.regs.p = 0 ∧ k'.regs.lit = 0 ∧ k'.regs.op = k.regs.op ∧
            k'.regs.res = k.regs.res ∧ k'.ctl.win = (r.img.extractLsb' 430 15).zeroExtend 64 ∧
            k'.ctl.fmt = (r.img.extractLsb' 445 12).zeroExtend 64 ∧ k'.seq = {} ∧ k'.vrf = k.vrf ∧ k'.accw = k.accw) ∧
          (t.die d).board.entry i = some { r with run := true, ready := false, after := [], prompting := none } ∧
          ∀ j, j ≠ i → (t.die d).board.entry j = b.entry j)) ∧
    (s.idleCore c = false ∨ s.nextRecord c = none → exec (.dispatch c) s = .next s) ∧
    (∀ x, s.nextRecord c = some x → s.mayResume c x.2 = false → exec (.dispatch c) s = .next s) ∧
    (∀ i r, b.entry i = some r → r.ready = true → r.run = false → s.promptOut r = false →
      (s.clk < r.readyAt + 256 → exec (.prompt d i) s = .next s) ∧
      (r.readyAt + 256 ≤ s.clk → s.promptCore d r = some c →
        (∀ o, dieOf o = d → s.idleCore o = true → s.eligible o r = false) →
        ∃ t, exec (.prompt d i) s = .next t ∧ t.mem = s.mem ∧ (∀ o, o ≠ c → t.core o = s.core o) ∧
          t.core c = { k with ctl := { k.ctl with prompt := some (k.ctl.prompt.getD s.clk) } } ∧
          (t.die d).board.entry i = some { r with prompting := some c } ∧
          ∀ j, j ≠ i → (t.die d).board.entry j = b.entry j)) ∧
    (let ctx := k.ctx.getD 0
    let blk := Tab.get 0 (s.die d).cctl ctx
    let saved (i : Instr) : Prop := ∀ n r x0 p, s.saveSlot d ctx = some n → k.running = some r → b.entry r.idx = some x0 →
      r.idx < 16384 → k.cbuf = [] → k.pipe.items = [] → k.late = [] → k.Room → k.stepArm = false → k.ctl.prompt = some p →
      let base := bits blk 160 39 + 8192 * n
      base % 128 = 0 → ∃ t, exec i s = .next t ∧ t.mem = s.mem ∧
        (t.core c).mode = .idle ∧ (t.core c).running = none ∧
        ((t.core c).line 32704).extractLsb' 64 8 = 11 ∧ ((t.core c).line 32704).getLsbD 91 = true ∧
        ((t.core c).line 32704).extractLsb' 128 64 = word (s.clk - p) ∧
        (∀ j, j < 64 → let a := base + 128 * j
          ∃ r ∈ Tab.get [] (t.die (stackOf a)).mc.waiting (pcOf a), r.src = agentPort 5 d ∧ r.line = a / 128 ∧ r.write = true ∧
            ∀ q, q < 128 → (a + q, ((t.core c).line (32704 + j)).extractLsb' (8 * q) 8) ∈ r.data) ∧
        Tab.get false (t.die d).saves (ctx * 65536 + n) = true ∧
        ∃ x sh, (t.die d).board.entry r.idx = some x ∧ x.ready = true ∧ x.run = false ∧ x.readyAt = s.clk ∧
          x.frame = some (n, sh) ∧
          x.img = r.img.extractLsb' 472 40 ++ BitVec.ofNat 7 (onDie c) ++ (1 : BitVec 1) ++ r.img.extractLsb' 0 464
    (s.preemptNow c = true → k.ctl.noslot = false → s.saveSlot d ctx = none →
      ∃ t, exec (.preemptForced c) s = .next t ∧ OnlyCore s t c ∧ t.core c = { k with ctl := { k.ctl with noslot := true } }) ∧
    (s.preemptNow c = true → k.ctl.noslot = false → saved (.preemptForced c)) ∧
    (s.preemptNow c = true → k.ctl.noslot = true → saved (.forcedSaveRetry c)) ∧
    (s.preemptNow c = false → exec (.preemptForced c) s = .next s ∧ exec (.forcedSaveRetry c) s = .next s))
/-- An arrival at a barrier's home takes the generation that follows the count of closed ones: before the last it only counts; the
last empties the count, closes the generation and sends its notice with the release timestamp LEAD nanoseconds on. A notice
reaches every die whose descriptor is valid, with the die's own release timestamp, and counts as late where that has passed;
X is the clock cycle in which the timestamp is reached; cluster q releases at X + q CSK: its released count becomes the
generation, cluster 0 sets GEN, and waiting arrivals land. A descriptor is written whole but for ARR and GEN where its fields
are legal and no arrival is counted (12 R287..R289; 14 R324). That the home counts its closed generations apart is log 25. -/
def Obligations.Barriers : Prop :=
  ∀ (s : State) (d ctx b : Nat),
    let y := (s.die d).board
    let x := s.bar d ctx b
    let i := ctx * 64 + b
    let g := Tab.get 0 y.gens i + 1
    (∀ a l, y.arrivals = a :: l → a.ctx = ctx → a.b = b → s.performed a.after = true → barRank x = s.pkg.rank.toNat →
      (∀ c, a.core = some c → (s.core c).late = []) →
      let arrives (x' : BitVec 512) (g' : BitVec 32) (sent : List (Nat × Nat × BitVec 32 × Nat)) : Prop :=
        ∃ t, exec (.barrierArrival d ctx b) s = .next t ∧ t.mem = s.mem ∧ (t.die d).board.arrivals = l ∧ t.bar d ctx b = x' ∧
          (∀ j, j ≠ i → Tab.get barReset (t.die d).board.bars j = Tab.get barReset y.bars j) ∧
          Tab.get 0 (t.die d).board.gens i = g' ∧ t.pkg.sent = sent ∧
          (a.core = none → t.cores = s.cores) ∧
          (∀ c, a.core = some c → a.wait = true → (t.die (dieOf c)).board.waits =
            (s.die (dieOf c)).board.waits ++ [{ core := c, seq := a.seq, ctx := ctx, b := b, t := g }]) ∧
          (∀ c, a.core = some c → a.wait = false → ∀ it ∈ (s.core c).pipe.items, it.seq = a.seq → it.await ≠ .ready → it.id < 0x900 →
            { it with await := .ready, wr := [(0x2c0, lineOf (g.zeroExtend 64))] } ∈ (t.core c).pipe.items)
      (barArr x + 1 < barNpart x → arrives (setBits x 128 32 (barArr x + 1)) (Tab.get 0 y.gens i) s.pkg.sent) ∧
      (barNpart x ≤ barArr x + 1 →
        arrives (setBits x 128 32 0) g (s.pkg.sent ++ [(ctx, b, g, s.ts + barLead x)]))) ∧
    (y.arrivals = [] → s.pkg.dsize.toNat ≤ 1 → exec (.barrierArrival d ctx b) s = .next s) ∧
    (∀ gen trel, (ctx, b, BitVec.ofNat 32 gen, trel) ∈ s.pkg.sent →
      let late := ∃ e, e < 8 ∧ barValid (s.bar e ctx b) = true ∧ s.releaseTs e ctx b trel ≤ s.ts
      ∃ t, exec (.barrierNoticeArrive ctx b gen trel) s = .next t ∧ t.mem = s.mem ∧ t.cores = s.cores ∧
        t.pkg.sent = s.pkg.sent.erase (ctx, b, BitVec.ofNat 32 gen, trel) ∧
        (late → t.pkg.late = s.pkg.late + 1) ∧ (¬ late → t.pkg.late = s.pkg.late) ∧
        ∀ e, e < 8 →
          (barValid (s.bar e ctx b) = true → (t.die e).board.notices = (s.die e).board.notices ++
            [{ ctx := ctx, b := b, gen := BitVec.ofNat 32 gen, at_ := s.releaseTs e ctx b trel
               x := if s.releaseTs e ctx b trel ≤ s.ts then some (s.clkOf e) else none }]) ∧
          (barValid (s.bar e ctx b) = false → t.die e = s.die e)) ∧
    (∀ gen trel, (ctx, b, BitVec.ofNat 32 gen, trel) ∉ s.pkg.sent → s.pkg.dsize.toNat ≤ 1 →
      exec (.barrierNoticeArrive ctx b gen trel) s = .next s) ∧
    (∃ t, exec (.packageRelease ctx b) s = .next t ∧ t.mem = s.mem ∧ t.cores = s.cores ∧ t.pkg = s.pkg ∧
      ∀ e, e < 8 → (t.die e).board.notices = (s.die e).board.notices.map fun n =>
        if n.ctx = ctx ∧ n.b = b ∧ n.x = none ∧ n.at_ ≤ s.ts then { n with x := some (s.clkOf e) } else n) ∧
    (∀ q n v, q < 8 → y.notices = [n] → n.ctx = ctx → n.b = b → n.x = some v → q ∉ n.done →
      (s.clk < v + q * barCsk x → exec (.clusterRelease d ctx b q) s = .next s) ∧
      (v + q * barCsk x ≤ s.clk → ∃ t, exec (.clusterRelease d ctx b q) s = .next t ∧ t.mem = s.mem ∧ t.pkg = s.pkg ∧
        t.releasedCount d ctx b q = n.gen ∧
        (∀ p, p ≠ q → t.releasedCount d ctx b p = s.releasedCount d ctx b p) ∧
        (q = 0 → (t.bar d ctx b).extractLsb' 96 32 = n.gen) ∧ (q ≠ 0 → t.bar d ctx b = x) ∧
        ((∃ p, p < 8 ∧ s.clusterEnabled d p = true ∧ p ≠ q ∧ p ∉ n.done) →
          (t.die d).board.notices = [{ n with done := q :: n.done }]) ∧
        ((∀ p, p < 8 → s.clusterEnabled d p = true → p ≠ q → p ∈ n.done) → (t.die d).board.notices = []) ∧
        (y.waits = [] → t.cores = s.cores) ∧
        (∀ a, y.waits = [a] → a.ctx = ctx → a.b = b → clusterOf a.core = q → (n.gen - a.t).toNat < 2 ^ 31 →
          (t.die d).board.waits = [] ∧ ∀ it ∈ (s.core a.core).pipe.items, it.seq = a.seq → it.await ≠ .ready → it.id < 0x900 →
            { it with await := .ready, wr := [(0x2c0, lineOf (a.t.zeroExtend 64))] } ∈ (t.core a.core).pipe.items))) ∧
    (∀ img : BitVec 512,
      let legal := 1 ≤ bits img 0 32 ∧ 3 ≤ bits img 45 3 ∧ 3000 ≤ bits img 80 16 ∧ bits img 32 10 < s.pkg.dsize.toNat
      (barArr x = 0 → legal → ∃ t, exec (.barrierDescriptorWrite d i img) s = .next t ∧ OnlyDie s t d ∧
        t.bar d ctx b = (0 : BitVec 351) ++ img.extractLsb' 160 1 ++ (0 : BitVec 32) ++ x.extractLsb' 96 32 ++ img.extractLsb' 0 96 ∧
        (∀ j, j ≠ i → Tab.get barReset (t.die d).board.bars j = Tab.get barReset y.bars j)) ∧
      (barArr x ≠ 0 ∨ ¬ legal → exec (.barrierDescriptorWrite d i img) s = .next s))
/-! ### Traps (13) -/

/-- TRAP raises SW_TRAP with its code and BKPT raises DEBUG, both precisely. Entry with a usable handler range leaves handler mode
at TVEC, the cause in `ctl.tcause`, the window at the frame, the sequencer off, nothing unfinished, every line but the frame's
and every accumulator and main memory as they were; the frame's first line holds the bundle's address, the cause with its
slot, subcode and infos, the rights, the timestamp and the bundle, the next lines the registers, control registers and ports;
an unfinished digital operation stands in the replay queue with its remaining run cycles. In a handler, or without a usable range,
it is a double trap: the core stops, its reservation goes, the control block and the stage manager are told. BKPT of a context
with its BKEN bit halts the context instead: its cores stop, and their channels send no further reads. A pending cause is taken at a boundary,
completion causes first; an idle core takes an attributed one of a context that is neither halted nor closing, with NOTASK (01 R35; 13 R293..R298, R304, R305; 17 R357). ALSO of a frame is log 61. -/
def Obligations.TrapEntry : Prop :=
  ∀ s : State,
    let c := s.focus
    let d := dieOf c
    let k := s.now
    let ctx := k.ctx.getD 0
    let h := s.handlerRange d ctx
    (∀ (e : BitVec 4) (n : BitVec 16), CanIssue s e.toNat → exec (.trap e n) s =
      .next (trapped s ((encode (.trap e n)).getD 0) { code := 14, slot := 0, i0 := n.zeroExtend 64 })) ∧
    (∀ e : BitVec 4, CanIssue s e.toNat →
      exec (.bkpt e) s = .next (trapped s ((encode (.bkpt e)).getD 0) { code := 13, slot := 0 })) ∧
    (∀ (b : BitVec 256) (x : Cause), k.stepArm = false → k.mode ≠ .handler → h.1 ≠ h.2 →
      (x.code = 13 → (s.die d).dbg.bken.toNat.testBit ctx = false) →
      let t := trapped s b x
      let k' := t.core c
      let line (i : Nat) : Line := k'.line (32704 + i)
      k'.mode = .handler ∧ k'.pc = BitVec.ofNat 46 (h.1 / 32) ∧ k'.ctl.tcause = BitVec.ofNat 8 x.code ∧
        k'.ctl.win = 32704 ∧ k'.seq.on = false ∧ { k' with tier := [] }.Quiet ∧ k'.running = k.running ∧ k'.ctx = k.ctx ∧ k'.accw = k.accw ∧
        t.mem = s.mem ∧ (∀ i, i < 32704 → k'.line i = k.line i) ∧ (∀ i, i < 64 → k'.present (32704 + i) = true) ∧
        (k.Quiet →
          (∀ i, i < 16 → (line 0).getLsbD (96 + i) =
            decide (i ∈ k.pipe.causes.map (·.code) ∨ i ∈ k.pipe.attr.map (·.2.code) ∨
              i = 11 ∧ x.code ≠ 11 ∧ s.preemptDue c = true ∧ (s.saveSlot d ctx).isSome = true)) ∧
          (k.pipe.causes = [] → k.pipe.attr = [] → s.preemptDue c = false → line 0 =
            (0 : BitVec 256) ++ b ++ (0 : BitVec 128) ++ BitVec.ofNat 64 s.ts ++ x.i2 ++ x.i1 ++ x.i0 ++
              (0 : BitVec 37) ++ BitVec.ofBool k.notask ++ BitVec.ofBool (s.env c).priv ++ (0 : BitVec 1) ++
              BitVec.ofNat 8 x.sub ++ (0 : BitVec 4) ++ BitVec.ofNat 4 x.slot ++ BitVec.ofNat 8 x.code ++
              BitVec.ofNat 64 k.pcAddr) ∧
          (∀ i, i < 64 → (line (1 + i / 16)).extractLsb' (64 * (i % 16)) 64 = k.regs.sreg i) ∧
          (line 5).extractLsb' 0 640 =
            (if k.acqPending then (1 : BitVec 64) else 0) ++ k.wid ++ k.ctl.lix ++ k.ctl.ltc ++ k.ctl.lsq ++ k.ctl.lpc ++
              k.ctl.fmt ++ k.ctl.win ++ k.regs.lit ++ (0 : BitVec 56) ++ k.regs.p.extractLsb' 1 7 ++ (1 : BitVec 1) ∧
          (∀ i p, framePorts[i]? = some p → (line (6 + i / 16)).extractLsb' (64 * (i % 16)) 64 = k.regs.portW p) ∧
          (∀ i p, frameResults[i]? = some p →
            (line (6 + (33 + i) / 16)).extractLsb' (64 * ((33 + i) % 16)) 64 = scalarOf (k.regs.result p)) ∧
          (∀ i p, frameWide[i]? = some p → line (9 + i) = k.regs.port p) ∧
          (∀ i p, frameWideResults[i]? = some p → line (13 + i) = k.regs.result p)) ∧
        (∀ it : Item, { k with pipe := { k.pipe with items := [] } }.Quiet → k.pipe.items = [it] → it.kind = .dig →
          it.await = .ready → isLoad it.id = false → it.id ≠ 0x89c → it.lines.length ≤ 7 → k.pipe.run + k.pipe.pre < it.due →
          it.due < k.pipe.run + k.pipe.pre + 2 ^ 32 →
          (line 0).extractLsb' 112 13 = BitVec.ofNat 5 it.lines.length ++ (1 : BitVec 8) ∧
          (line 22).extractLsb' 0 256 = it.b ++ it.a ++ (0 : BitVec 64) ++
            BitVec.ofNat 32 (it.due - (k.pipe.run + k.pipe.pre)) ++ BitVec.ofNat 3 it.lines.length ++ (0 : BitVec 9) ++ it.m ++
            BitVec.ofNat 12 it.id ++ (1 : BitVec 4) ∧
          ∀ i l, it.lines[i]? = some l → line (34 + i) = l)) ∧
    (∀ (b : BitVec 256) (x : Cause), k.stepArm = false → (k.mode = .handler ∨ (h.1 = h.2 ∧ x.code ≠ 13)) →
      let t := trapped s b x
      let blk := Tab.get 0 (t.die d).cctl ctx
      (t.core c) = { k with mode := .stopped, ctl := { k.ctl with res := 0 } } ∧ t.mem = s.mem ∧ t.pkg.notes = (c, x.code) :: s.pkg.notes ∧
        blk.extractLsb' 320 8 = BitVec.ofNat 8 x.code ∧ blk.extractLsb' 328 7 = BitVec.ofNat 7 (onDie c) ∧
        blk.getLsbD 335 = true) ∧
    (∀ b : BitVec 256, k.stepArm = false → k.mode = .task → k.halted = false → k.ctx = some ctx → c < 1024 → ctx < 64 →
      (s.die d).dbg.bken.toNat.testBit ctx = true →
      let t := trapped s b { code := 13, slot := 0 }
      (t.core c) = { k with
        halted := true, chanHalt := true, bkpt := true, ctl := { k.ctl with halts := k.ctl.halts + 1 }
        cp := { k.cp with ch := k.cp.ch.map fun (e : Nat × Channel) => (e.1, { e.2 with act := e.2.act.map Copy.halt }) } } ∧
        (∀ o, o < 1024 → (s.core o).ctx = some ctx → (t.core o).halted = true) ∧
        (∀ o, (s.core o).ctx ≠ some ctx → t.core o = s.core o) ∧
        ∀ e, e < 8 → (t.die e).dbg.stop.toNat.testBit ctx = true) ∧
    (∀ (o : Nat) (x : Cause),
      let y := s.core o
      let r := s.handlerRange (dieOf o) (y.ctx.getD 0)
      let entered (i : Instr) (notask : Bool) : Prop := ∃ t, exec i s = .next t ∧ t.mem = s.mem ∧
        (t.core o).mode = .handler ∧ (t.core o).pc = BitVec.ofNat 46 (r.1 / 32) ∧
        (t.core o).ctl.tcause = BitVec.ofNat 8 x.code ∧ ((t.core o).line 32704).extractLsb' 64 8 = BitVec.ofNat 8 x.code ∧
        ((t.core o).line 32704).getLsbD 90 = notask
      y.Quiet → y.cbuf = [] → y.stepArm = false → r.1 ≠ r.2 →
        (∀ l, y.runs = true → y.mode = .task → y.notask = false → y.pipe.causes = x :: l →
          entered (.trapEntry o) false) ∧
        (∀ n l, y.runs = true → y.mode = .task → y.notask = false → y.pipe.causes = [] → y.pipe.attr = (n, x) :: l →
          entered (.trapEntry o) false) ∧
        (∀ n l, y.mode = .idle → y.halted = false → y.ctx.isSome = true → s.barred (dieOf o) (y.ctx.getD 0) = false → y.pipe.causes = [] →
          y.pipe.attr = (n, x) :: l → entered (.notaskEntry o) true)) ∧
    (∀ o, (s.core o).runs = false ∨ ((s.core o).pipe.causes = [] ∧ (s.core o).pipe.attr = []) →
      exec (.trapEntry o) s = .next s) ∧
    (∀ o, (s.core o).mode ≠ .idle → exec (.notaskEntry o) s = .next s)
/-- RTRAP in a handler, with nothing unfinished on the core's units and an empty commit buffer, reads the frame: the task goes on at
the frame's address after PRE wait cycles with the registers, control registers, ports and streams of the frame, and an entry
that is unchanged is unfinished again at its distance; one whose kind is 0 is discarded; one changed otherwise writes free values
(log 15). A frame that R301 refuses is a double trap of cause 2; unfinished operations make wait cycles, the commit buffer
a hold; a handler entered with NOTASK leaves the core idle; outside a handler RTRAP is ILLEGAL_CONTROL. When the restart
bundle is due, a load put back reads its line, an ACCSPILL goes on with the tile as it stands (13 R300..R302). A frame whose loop
word is 0 is log 70, the hold reason of the wait for the commit buffer log 71. -/
def Obligations.TrapReturn : Prop :=
  (∀ (s : State) (e : BitVec 4), CanIssue s e.toNat →
    let c := s.focus
    let d := dieOf c
    let k := s.now
    let line (i : Nat) : Line := k.line (32704 + i)
    let pre := bits (line 0) 384 32
    let r := k.pipe.run + 1 + pre
    let code := s.taskRange c
    (k.mode = .task → exec (.rtrap e) s = .next (trapped s ((encode (.rtrap e)).getD 0)
      { code := 2, slot := 0, sub := 3, i0 := word (controlWord e 18 0).toNat })) ∧
    (k.mode = .handler → k.unitsBusy = true → exec (.rtrap e) s = .next (waited s)) ∧
    (k.mode = .handler → k.unitsBusy = false → k.cbuf ≠ [] → k.pipe.held < bits k.ctl.wdg 0 32 →
      exec (.rtrap e) s = .next (heldFor s 9)) ∧
    (k.mode = .handler → k.unitsBusy = false → k.cbuf = [] → k.notask = true → ∃ t, exec (.rtrap e) s = .next t ∧
      t.mem = s.mem ∧ (t.core c).mode = .idle ∧ (t.core c).running = none ∧ (t.core c).notask = false ∧
      (t.core c).vrf = k.vrf ∧ ∀ o, o ≠ c → t.core o = s.core o) ∧
    (k.mode = .handler → k.unitsBusy = false → k.cbuf = [] → k.notask = false →
      (rtrapOk k code.1 code.2 = false → ∃ t, exec (.rtrap e) s = .next t ∧ t.mem = s.mem ∧ (t.core c).mode = .stopped ∧
        t.pkg.notes = (c, 2) :: s.pkg.notes ∧
        (Tab.get 0 (t.die d).cctl (k.ctx.getD 0)).extractLsb' 320 8 = 2) ∧
      (rtrapOk k code.1 code.2 = true → (line 0).getLsbD 88 = false →
        let returns (items : List Item → Prop) : Prop := ∃ t, exec (.rtrap e) s = .next t ∧
          t.mem = s.mem ∧ t.pkg = s.pkg ∧ (∀ o, o ≠ c → t.core o = s.core o) ∧
          (let k' := t.core c
          k'.mode = .task ∧ k'.pc = (line 0).extractLsb' 5 46 ∧ k'.pipe.run = k.pipe.run + 1 ∧ k'.pipe.pre = pre ∧
            (∀ i, 1 ≤ i → i < 64 → k'.regs.sreg i = (line (1 + i / 16)).extractLsb' (64 * (i % 16)) 64) ∧
            k'.regs.p = (line 5).extractLsb' 0 8 ∧ k'.regs.lit = (line 5).extractLsb' 64 64 ∧
            k'.ctl.win = ((line 5).extractLsb' 128 22).zeroExtend 64 ∧
            k'.ctl.fmt = (0 : BitVec 12) ++ (line 5).extractLsb' 208 36 ++ (0 : BitVec 1) ++ (line 5).extractLsb' 192 15 ∧
            k'.ctl.lpc = (0 : BitVec 13) ++ (line 5).extractLsb' 261 46 ++ (0 : BitVec 5) ∧
            k'.ctl.lsq = (0 : BitVec 45) ++ (line 5).extractLsb' 321 18 ++ (0 : BitVec 1) ∧
            k'.ctl.ltc = (line 5).extractLsb' 384 64 ∧ k'.ctl.lix = ((line 5).extractLsb' 448 40).zeroExtend 64 ∧ k'.seq = {} ∧
            (∀ i p, framePorts[i]? = some p →
              k'.regs.portW p = (line (6 + i / 16)).extractLsb' (64 * (i % 16)) 64) ∧
            (∀ i p, frameResults[i]? = some p →
              scalarOf (k'.regs.result p) = (line (6 + (33 + i) / 16)).extractLsb' (64 * ((33 + i) % 16)) 64) ∧
            (∀ i p, frameWide[i]? = some p → k'.regs.port p = line (9 + i)) ∧
            (∀ i p, frameWideResults[i]? = some p → k'.regs.result p = line (13 + i)) ∧
            (∀ i, i < 8 → k'.stream i = Stream.ofFrame (k.frameNat 19 3 >>> (320 * i)) r) ∧
            k'.vrf = k.vrf ∧ k'.accw = k.accw ∧ k'.shadow = {} ∧
            (k'.running = k.running.map fun x => { x with img := x.img.extractLsb' 64 448 ++ (line 5).extractLsb' 512 64 }) ∧
            items k'.pipe.items)
        (k.shadow.behind = [] → returns fun l => l = []) ∧
        (∀ it en, k.shadow.behind = [.item it] → k.shadow.entries = [en] → it.fx = .none →
          ((k.frameEntry 0).1.extractLsb' 0 4 = 0 ∨ (line 0).extractLsb' 112 8 = 0 → returns fun l => l = []) ∧
          ((k.frameEntry 0).1.extractLsb' 0 4 ≠ 0 → (line 0).extractLsb' 112 8 ≠ 0 →
            (k.frameEntry 0 = en → returns fun l => l = [{ it with due := r + it.due }]) ∧
            (k.frameEntry 0 ≠ en → returns fun l => ∃ w, w.map (·.1) = it.outPorts ∧
              l = [{ it with kind := .res, due := r + ((k.frameEntry 0).1.extractLsb' 32 32).toNat, await := .ready, wr := w }])))))) ∧
  (∀ (s : State) (c : Nat),
    let k := s.core c
    k.eng.mx = none → k.eng.acc = none →
      (k.pipe.pre ≠ 0 ∨ k.pipe.items = [] →
        ∃ t, exec (.replayEntryEffect c) s = .next t ∧ OnlyCore s t c ∧ t.core c = k) ∧
      (∀ it ln, k.pipe.pre = 0 → k.pipe.items = [it] → it.await = .again → isLoad it.id = true → it.id ≠ 0x191 →
        ln = it.a.toNat / 128 → k.present ln = true → ∃ t, exec (.replayEntryEffect c) s = .next t ∧ OnlyCore s t c ∧
          ∃ it', (t.core c).pipe.items = [it'] ∧ it'.await = .ready ∧ it'.due = it.due ∧
            it'.wr = loadWrites it.id it.m it.a.toNat (k.line ln) true)) ∧
  (∀ (s : State) (c : Nat) (o : EngineOp),
    let k := s.core c
    k.pipe.items = [] → k.eng.mx = none → k.eng.acc = some o → o.again = true → o.started = false →
      o.behind k.pipe.run = true → o.id = 0x845 →
      ∃ t, exec (.replayEntryEffect c) s = .next t ∧ OnlyCore s t c ∧
        (t.core c).eng.acc = some { o with started := true, again := false, due := none, sums := k.tile (bits o.trig 0 4) })
/-! ### Clock cycles of a core (05, 06, 13) -/

/-- WAITE and FENCE pass where what they name is over: a lock-step engine makes wait cycles, a detached one, and operations
of the task that are not performed, those it issued on another core among them (11 R248), hold. After WAITE of the tier the bytes that `:va` pops wrote are those of the tensor (03 R85); a
release fence leaves the wider of its scope and a pending one's for the next write to a sync word, and an acquire fence of
scope die or wider takes the mirrors of the die's surveys anew (10 R236). A mask above 63 and a kind above 3 are
ILLEGAL_CONTROL (06 R153; 11 R262; 01 R36). -/
def Obligations.ControlWaits : Prop :=
  ∀ (s : State) (e : BitVec 4), CanIssue s e.toNat → InRange s →
    let k := s.now
    let quiet := k.pipe.held < bits k.ctl.wdg 0 32
    (∀ m : BitVec 8,
      let units := ∃ i, i < 4 ∧ m.getLsbD i = true ∧ k.engineBusy i = true
      let agents := (m.getLsbD 4 = true ∧ k.detachedBusy 4 = true) ∨ (m.getLsbD 5 = true ∧ k.detachedBusy 5 = true)
      (m.toNat < 64 → ¬ units → ¬ agents → m.getLsbD 5 = false ∨ k.late = [] →
        exec (.waite e m) s = .next (issued s e.toNat k.nextBundle)) ∧
      (m.toNat < 64 → ¬ units → ¬ agents → m.getLsbD 5 = true →
        ∃ t, exec (.waite e m) s = .next t ∧ { t with mem := s.mem } = issued s e.toNat { k.nextBundle with late := [] } ∧
          (∀ a, (∀ x ∈ k.late, a < x.1 ∨ x.1 + 128 ≤ a) → t.hbm a = s.hbm a) ∧
          ∀ l x l' i, k.late = l ++ x :: l' → i < 128 → x.1 + i < Config.hbmBytes →
            (∀ y ∈ l', x.1 + i < y.1 ∨ y.1 + 128 ≤ x.1 + i) → (t.hbm (x.1 + i)).toNat = lineByte x.2 i) ∧
      (m.toNat < 64 → units → exec (.waite e m) s = .next (waited s)) ∧
      (m.toNat < 64 → ¬ units → agents → quiet → exec (.waite e m) s = .next (heldFor s 8)) ∧
      (64 ≤ m.toNat → exec (.waite e m) s = .next (trapped s ((encode (.waite e m)).getD 0)
        { code := 2, slot := 0, sub := 1, i0 := word (controlWord e 13 ((0 : BitVec 14) ++ m)).toNat }))) ∧
    (∀ (v n : BitVec 3),
      let units := k.enginesOpen (n ≠ 1) = true
      let open_ := k.atsOpen (n ≠ 1) = true ∨ k.loadsOpen = true ∨ s.atsLeft s.focus (n ≠ 1) = true
      let acquired (x : State) : State :=
        if n.toNat ≤ 1 ∧ 3 ≤ v.toNat then { x with dies := ((W.of s).refreshMirrors (dieOf s.focus)).dies } else x
      (n = 0 ∨ n = 2 → ¬ units → ¬ open_ → exec (.fence e v n) s = .next (acquired (issued s e.toNat
        { k.nextBundle with relFence := some (Nat.max v.toNat (k.relFence.getD 0)) }))) ∧
      (n = 1 → ¬ units → ¬ open_ → exec (.fence e v n) s = .next (acquired (issued s e.toNat k.nextBundle))) ∧
      (n.toNat < 3 → units → exec (.fence e v n) s = .next (waited s)) ∧
      (n.toNat < 3 → ¬ units → open_ → quiet → exec (.fence e v n) s = .next (heldFor s 9)) ∧
      (n = 3 → k.cmdsOpen = false → exec (.fence e v n) s = .next (issued s e.toNat k.nextBundle)) ∧
      (n = 3 → k.cmdsOpen = true → quiet → exec (.fence e v n) s = .next (heldFor s 9)) ∧
      (3 < n.toNat → exec (.fence e v n) s = .next (trapped s ((encode (.fence e v n)).getD 0)
        { code := 2, slot := 0, sub := 1, i0 := word (controlWord e 14 (v ++ n ++ (0 : BitVec 16))).toNat })))

/-- A held bundle issues when nothing holds it any more and stays held while something does, the watchdog counting; at the limit
it raises TIMEOUT with the hold reason and the clock cycles held. Results and landings that are due take their ports, the
others wait, and one that a later trigger on its port outdoes leaves no value; a landing whose line has become present takes
the line. The oldest effect of the commit buffer leaves two clock
cycles after its bundle, not before. A timing error adds the clock cycles of its replay to `ctl.terr` (05 R126, R128..R131;
06 R145, R147, R163; 13 R303, R305). -/
def Obligations.HoldsAndResults : Prop :=
  (∀ (s : State) (b : BitVec 256),
    let c := s.focus
    let k := s.now
    k.runs = true → k.seq.on = false → s.fetchAt c = some b →
      (0 < k.pipe.held → exec (.holdRelease c) s = exec (.bundleIssue b) s) ∧
      (∀ e : BitVec 4, 0 < k.pipe.held → CanIssue s e.toNat → InRange s → b = (encode (.cnop e)).getD 0 →
        exec (.holdRelease c) s = .next (issued s e.toNat k.nextBundle)) ∧
      (∀ r, 0 < k.pipe.held → k.bkpt = false → k.gate s.clk = some r → k.pipe.held < bits k.ctl.wdg 0 32 →
        exec (.holdRelease c) s = .next (heldFor s r)) ∧
      (∀ r, k.bkpt = false → k.gate s.clk = some r → bits k.ctl.wdg 0 32 ≤ k.pipe.held →
        exec (.watchdogTimeout c) s = .next (trapped s b { code := 12, i0 := word r, i1 := word k.pipe.held }))) ∧
  (∀ (s : State) (c : Nat),
    let k := s.core c
    (k.runs = false ∨ k.pipe.held = 0 → exec (.holdRelease c) s = .next s) ∧
    (k.runs = false ∨ k.pipe.held < bits k.ctl.wdg 0 32 → exec (.watchdogTimeout c) s = .next s) ∧
    (let lands (sel : Item → Bool) : Core :=
      let l := (k.dueItems s.clk).filter sel
      { k with regs := l.foldl (fun r it => if it.lost then r else r.place it.wr) k.regs
               pipe := { k.pipe with items := (k.pipe.items.filter fun it => !(l.contains it)).map fun it =>
                 if !it.lost && l.any it.outdone then { it with lost := true } else it } }
    ((∀ it ∈ k.pipe.items, it.fx = .none) →
      (∃ t, exec (.resultCompletion c) s = .next t ∧ OnlyCore s t c ∧ t.core c = lands fun it => !(isLoad it.id)) ∧
      ((∀ it ∈ k.pipe.items, it.await = .ready) →
        ∃ t, exec (.loadLanding c) s = .next t ∧ OnlyCore s t c ∧ t.core c = lands fun it => isLoad it.id))) ∧
    (∀ it o ln, k.pipe.items = [it] → it.fx = .none → it.lost = false → isLoad it.id = true → it.await = .line o ln →
      (s.core o).present ln = true → it.due ≤ k.pipe.run → it.rdy ≤ s.clk →
      ∃ t, exec (.loadLanding c) s = .next t ∧ OnlyCore s t c ∧
        t.core c = { k with regs := k.regs.place (loadWrites it.id it.m it.a.toNat ((s.core o).line ln) true)
                            pipe := { k.pipe with items := [] } }) ∧
    (∀ n, ∃ t, exec (.timingErrorReplay c n) s = .next t ∧ OnlyCore s t c ∧
      t.core c = { k with ctl := { k.ctl with terr := k.ctl.terr + BitVec.ofNat 64 n }
                          pipe := { k.pipe with replay := k.pipe.replay + n } }) ∧
    (∀ n x l, k.cbuf = (n, x) :: l → k.tlbWaits = [] →
      (s.clk < n + 2 → exec (.commitBufferDrain c) s = .next s) ∧
      (∀ i g u, n + 2 ≤ s.clk → x = .unit i g u → i ∈ (s.die (dieOf c)).board.launches.map (·.1) →
        ∃ t, exec (.commitBufferDrain c) s = .next t ∧ t.mem = s.mem ∧ (∀ o, o ≠ c → t.core o = s.core o) ∧
          t.core c = { k with cbuf := l } ∧
          (let y := (s.die (dieOf c)).board.launch i
          (t.die (dieOf c)).board.launch i = { y with done := Tab.put 0 y.done g (Tab.get 0 y.done g + u) })) ∧
      (∀ q dest tok sc, n + 2 ≤ s.clk → x = .token q dest tok sc → dest.getLsbD 13 = false →
        ∃ t, exec (.commitBufferDrain c) s = .next t ∧ t.mem = s.mem ∧ (∀ o, o ≠ c → t.core o = s.core o) ∧
          t.core c = { k with cbuf := l } ∧
          (t.die (bits dest 0 3)).board.intok = (s.die (bits dest 0 3)).board.intok ++
            [{ die := bits dest 0 3, ctx := k.ctx.getD 0, tok := tok, src := some c, after := s.openBefore c q, scope := sc,
               tid := k.tid }])) ∧
    (k.cbuf = [] → k.tlbWaits = [] → exec (.commitBufferDrain c) s = .next s))

/-! ### The modulo sequencer (06) -/

/-- LOOPM fetches and checks its body: with T = 0 the body is skipped, else the sequencer starts with the loop registers set; T
of 2^32 or more and a body that R155 refuses trap. A merged issue executes what the contributing bundles hold, each in its own
iteration, and one without contributors is a wait cycle; LOOPX with p7 lets the loop end with its own iteration, and is illegal
outside a loop. After each the index rises, and past the last one the core goes on behind the body (06 R154..R157; LOOPX
alone is part of the merged issue that is due: the model's reading, log 6). -/
def Obligations.Loops : Prop :=
  let adv (k : Core) : Core :=
    let n := bits k.ctl.lix 0 40 + 1
    let ii := bits k.ctl.lsq 7 6
    let lb := bits k.ctl.lsq 1 6 + 1
    let teff := bits k.ctl.ltc 32 32
    let k1 := k.modCtl fun r => { r with lix := word n }
    if n + ii < teff * ii + lb ∧ 0 < teff then k1
    else ({ k1 with seq := {} }.setPc (bits k.ctl.lpc 0 51 + 32 * (lb + 1))).modCtl fun r => { r with lsq := setBits r.lsq 0 1 0 }
  let committed (k : Core) : Core := k.modCtl fun r => { r with fmt := fmtShift r.fmt }
  ∀ (s : State) (e : BitVec 4), CanIssue s e.toNat →
    let c := s.focus
    let k := s.now
    (∀ l t n : BitVec 6, t ≠ 0 →
      let lb := l.toNat + 1
      let pc := k.pcAddr
      let env := s.env c
      let w := controlWord e 6 (l ++ t ++ n ++ (0 : BitVec 4))
      let body := (List.range lb).map fun i => (W.of s).fetch env.pages (pc + 32 * (i + 1))
      let T := (k.regs.sreg n.toNat).toNat
      (bodyCause w env pc lb t.toNat body = none → T < 2 ^ 32 →
        exec (.loopm e l t n) s = .next (issued s e.toNat
          (({ k.nextBundle with seq := if 0 < T then { on := true, body := body.map fun (b : Option (BitVec 256)) => b.getD 0 } else {} }.setPc
            (pc + 32 * (lb + 1))).modCtl fun r =>
              { r with lpc := word pc
                       lsq := word ((if 0 < T then 1 else 0) + l.toNat * 2 + t.toNat * 2 ^ 7 + n.toNat * 2 ^ 13)
                       ltc := word (T + T * 2 ^ 32), lix := 0 }))) ∧
      (bodyCause w env pc lb t.toNat body = none → 2 ^ 32 ≤ T →
        exec (.loopm e l t n) s = .next (trapped s ((encode (.loopm e l t n)).getD 0)
          { code := 2, slot := 0, sub := 1, i0 := word w.toNat })) ∧
      (∀ x, bodyCause w env pc lb t.toNat body = some x →
        exec (.loopm e l t n) s = .next (trapped s ((encode (.loopm e l t n)).getD 0) x))) ∧
    (k.seq.on = true → contributors k = [] → exec (.mergedIssue c) s =
      .next { s with cores := Tab.set s.cores c (adv (k.waited s.clk)) }) ∧
    (∀ j it, k.seq.on = true → contributors k = [(j, it, (encode (.cnop e)).getD 0)] →
      exec (.mergedIssue c) s = .next (issued s e.toNat (adv (committed k)))) ∧
    (∀ (j it n : Nat) (g : BitVec 4) (d sid : BitVec 12) (m : BitVec 4), e = 0 → k.seq.on = true →
      contributors k = [(j, it, (encode (.move g d sid m)).getD 0)] → guardOn k.regs g = true →
      destOf (s.env c).ver d.toNat = some (.sreg n) → srcOf (s.env c).ver sid.toNat = some .seqi →
      exec (.mergedIssue c) s = .next (issued s 0 (adv ((committed k).modRegs fun r =>
        r.setS n (viewWord m (r.sreg n) (word it)))))) ∧
    (k.seq.on = true → exec (.loopx e) s = .next (issued s e.toNat (adv ((committed k).modCtl fun r =>
      if k.regs.pred 7 then
        { r with ltc := setBits r.ltc 32 32 (Nat.min (bits r.ltc 32 32) ((loopxBundle k ((encode (.loopx e)).getD 0)).ctlIt + 1)) }
      else r)))) ∧
    (k.seq.on = false → exec (.loopx e) s = .next (trapped s ((encode (.loopx e)).getD 0)
      { code := 2, slot := 0, sub := 0, i0 := word (controlWord e 7 0).toNat }))
/-! ### Registers that stores write (00 R7) -/

/-- A store to a register replaces the bits that it can write and no other: the words of a context control block; a tile-owner
entry, where an owned pair keeps its context and a pair that is not cleared, or is not fit for use, takes no owner; a fabric context, where a DCID
valid for another context is refused; the telemetry word whose EN starts a sequence at 0; FTGT from 32 to 76; the ramp
table, which stays non-decreasing; board, window, range and package registers. The frequency follows FTGT; the
limiter's step moves in clock cycles that are multiples of 4 and grants what fits, and marks its die in the telemetry periods
that run where a request still waits (09 R205; 12 R280; 13 R308; 14 R318, R321, R327; 15 R333, R338, R342, R343; 17 R356,
R361). That an owner store which finds the pair holding an operation is ignored is log 104, that TVEC's low and high bits stay
zero log 33, the addresses at which BAR0 and the lease-notice register are named log 78. -/
def Obligations.RegisterWrites : Prop :=
  (∀ (s : State) (d ctx : Nat) (v : Word),
    let b : BitVec 512 := Tab.get 0 (s.die d).cctl ctx
    (∀ off mask, (off, mask) ∈ [(0, 0x7FFFFFFFFFFE0#64), (8, -1), (16, 0xFFFFFFFF0000007F), (24, 0xFFFF0000007F), (32, 0x7FFFFFFFFF)] →
      ∃ t, exec (.contextControlWrite d ctx off v) s = .next t ∧ t.mem = s.mem ∧ t.cores = s.cores ∧ t.pkg = s.pkg ∧
        (16 ≤ off → OnlyDie s t d) ∧
        (let b' : BitVec 512 := Tab.get 0 (t.die d).cctl ctx
        b'.extractLsb' (8 * off) 64 = (b.extractLsb' (8 * off) 64 &&& ~~~mask) ||| (v &&& mask) ∧
          ∀ j, j < 8 → 8 * j ≠ off → b'.extractLsb' (64 * j) 64 = b.extractLsb' (64 * j) 64)) ∧
    (∃ t, exec (.contextControlWrite d ctx 40 v) s = .next t ∧ OnlyDie s t d ∧
      (let b' : BitVec 512 := Tab.get 0 (t.die d).cctl ctx
      b'.getLsbD 335 = (b.getLsbD 335 && v.getLsbD 15) ∧ ∀ i, i ≠ 335 → b'.getLsbD i = b.getLsbD i))) ∧
  (∀ (s : State) (d i : Nat) (v : Word), i < 128 →
    let c := d * 128 + i
    let old (k : Nat) : BitVec 8 := (Tab.get 0 (s.die d).owner i).extractLsb' (8 * k) 8
    let new (k : Nat) : BitVec 8 := v.extractLsb' (8 * k) 8 &&& 0xBF
    let own (x : BitVec 8) : Bool := x.getLsbD 7
    let keeps (k : Nat) : Prop := (own (old k) = true ∧ (new k).extractLsb' 0 6 ≠ (old k).extractLsb' 0 6) ∨
      (own (old k) = true ∧ own (new k) = false ∧ ∃ x ∈ (s.core c).eng.xb, x.pair = k) ∨
      (own (old k) = false ∧ own (new k) = true ∧ (((s.core c).pair k).cleared = false ∨ ((s.core c).pair k).bad = true))
    ∃ t, exec (.tileOwnerWrite d i v) s = .next t ∧ t.mem = s.mem ∧ (∀ o, o ≠ c → t.core o = s.core o) ∧
      ∀ k, k < 8 →
        let x : BitVec 8 := (Tab.get 0 (t.die d).owner i).extractLsb' (8 * k) 8
        (keeps k → x = old k ∧ (t.core c).pair k = (s.core c).pair k) ∧
        (¬ keeps k → x = new k ∧ (t.core c).pair k =
          if own (new k) = true ∧ own (old k) = false then { (s.core c).pair k with cleared := false }
          else if own (new k) = false ∧ own (old k) = true then ((s.core c).pair k).clear
          else (s.core c).pair k)) ∧
  (∀ (s : State) (g ctx : Nat) (v : Word),
    let b : BitVec 2048 := Tab.get 0 s.pkg.fab (g * 64 + ctx)
    let clash := v.getLsbD 16 = true ∧ ∃ j, j < 64 ∧ j ≠ ctx ∧ s.dcidValid g j (bits v 0 16) = true
    (clash → exec (.fabricContextWrite g ctx 0 v) s = .next s) ∧
    (¬ clash → ∃ t, exec (.fabricContextWrite g ctx 0 v) s = .next t ∧ OnlyPkg s t ∧
      Tab.get 0 t.pkg.fab (g * 64 + ctx) = b.extractLsb' 17 2031 ++ v.extractLsb' 0 17 ∧
      ∀ j, j ≠ g * 64 + ctx → Tab.get 0 t.pkg.fab j = Tab.get 0 s.pkg.fab j)) ∧
  (∀ (s : State) (ctx : Nat) (v : Word),
    let b : BitVec 512 := Tab.get 0 s.pkg.tele ctx
    ∃ t, exec (.telemetryEnableWrite ctx v) s = .next t ∧ OnlyPkg s t ∧
      Tab.get 0 t.pkg.tele ctx = b.extractLsb' 106 406 ++ (if v.getLsbD 40 then 0 else b.extractLsb' 105 1) ++
        v.extractLsb' 0 41 ++ b.extractLsb' 0 64 ∧
      Tab.get 0 t.pkg.teleSeq ctx = if v.getLsbD 40 ∧ b.getLsbD 104 = false then 0 else Tab.get 0 s.pkg.teleSeq ctx) ∧
  (∀ (s : State) (d q : Nat) (v : Word), q < 8 →
    let x := s.die d
    (32 ≤ bits v 0 7 → bits v 0 7 ≤ 76 → ∃ t, exec (.ftgtWrite d v) s = .next t ∧ OnlyDie s t d ∧
      t.die d = { x with ftgt := v.extractLsb' 0 7 }) ∧
    (¬ (32 ≤ bits v 0 7 ∧ bits v 0 7 ≤ 76) → exec (.ftgtWrite d v) s = .next s) ∧
    (∃ t, exec (.frequencyChangeDone d) s = .next t ∧ OnlyDie s t d ∧ t.die d = { x with fcur := x.ftgt }) ∧
    (∀ j, j < 4 → (∀ p, p < 8 → p ≠ q → rampRises (x.rampBlk p) = true) →
      let new (k : Nat) : Nat := if k / 4 = j then bits v (16 * (k % 4)) 16 else x.rampAt q k
      let rising := ∀ k, k < 15 → new k ≤ new (k + 1)
      (rising → ∃ t, exec (.rampTableWrite d q (8 * j) v) s = .next t ∧ OnlyDie s t d ∧
        (∀ k, k < 16 → (t.die d).rampAt q k = new k) ∧ (t.die d).wmx q = x.wmx q ∧ (t.die d).wxb q = x.wxb q ∧
        (t.die d).wst q = x.wst q ∧ ∀ p, p ≠ q → (t.die d).rampBlk p = x.rampBlk p) ∧
      (¬ rising → exec (.rampTableWrite d q (8 * j) v) s = .next s)) ∧
    ((∀ p, p < 8 → rampRises (x.rampBlk p) = true) → ∃ t, exec (.rampTableWrite d q 32 v) s = .next t ∧ OnlyDie s t d ∧
      (t.die d).wmx q = bits v 0 16 ∧ (t.die d).wxb q = bits v 16 16 ∧ (t.die d).wst q = bits v 32 16 ∧
      ∀ k, k < 16 → (t.die d).rampAt q k = x.rampAt q k) ∧
    (let l := x.limiter q
    let fits (st : Nat) (r : SlewReq) : Prop :=
      s.dsum d q - r.own + r.w ≤ x.rampAt q st ∨ (s.dsum d q ≤ r.own ∧ st = 15)
    let becomes (i : Instr) (l' : Slew) : Prop := ∃ t, exec i s = .next t ∧ OnlyDie s t d ∧ (t.die d).limiter q = l'
    let waits (i : Instr) (l' : Slew) : Prop := ∃ t, exec i s = .next t ∧ t.mem = s.mem ∧ t.cores = s.cores ∧
      t.pkg = { s.pkg with teleHeld := t.pkg.teleHeld } ∧ (∀ e ∈ s.pkg.tele, d < 8 → (Tab.get 0 t.pkg.teleHeld e.1).getLsbD (8 + d) = true) ∧
      (∀ e, e ≠ d → t.die e = s.die e) ∧ (t.die d).limiter q = l'
    (s.clk % 4 ≠ 0 → exec (.slewStepBoundary d q) s = .next s) ∧
    (s.clk % 4 = 0 → l.waiting = [] →
      becomes (.slewStepBoundary d q) { l with step := x.stepFor q (s.dsum d q), last := s.clk }) ∧
    (∀ r, s.clk % 4 = 0 → l.waiting = [r] →
      let st := if r.since < s.clk then Nat.min 15 (l.step + 1) else x.stepFor q (s.dsum d q)
      (fits st r → becomes (.slewStepBoundary d q)
        { l with step := st, last := s.clk, waiting := [], granted := l.granted ++ [{ r with got := s.clk }] }) ∧
      (¬ fits st r → waits (.slewStepBoundary d q) { l with step := st, last := s.clk })) ∧
    (l.waiting = [] → becomes (.slewGrant d q) l) ∧
    (∀ r, l.waiting = [r] →
      (fits l.step r → becomes (.slewGrant d q) { l with waiting := [], granted := l.granted ++ [{ r with got := s.clk }] }) ∧
      (¬ fits l.step r → waits (.slewGrant d q) l)))) ∧
  (∀ (s : State) (a : Nat) (v : Word), a % 8 = 0 →
    let die (d : Nat) (x : Die) : Prop := ∃ t, exec (.registerWrite a v) s = .next t ∧ OnlyDie s t d ∧ t.die d = x
    let pkg (p : Pkg) : Prop := ∃ t, exec (.registerWrite a v) s = .next t ∧ OnlyPkg s t ∧ t.pkg = p
    let h := s.pkg.host
    (a = 2 ^ 48 + 2 ^ 26 → bits v 0 16 ≠ 0 → pkg { s.pkg with leaseN := v.extractLsb' 0 16 }) ∧
    (a = 2 ^ 48 + 0x10 → pkg { s.pkg with host := { h with wbase := v &&& 0x7FC0000000 } }) ∧
    (a = 2 ^ 48 + 0x18 → pkg { s.pkg with host := { h with cmdbase := v } }) ∧
    (a = 2 ^ 48 + 0x20 → pkg { s.pkg with host := { h with cplbase := v } }) ∧
    (atlasLoc a = some (.wing 0) → 1 ≤ bits v 15 11 → bits v 15 11 ≤ 1024 → a < 2 ^ 48 →
      pkg { s.pkg with rank := v.extractLsb' 0 10, dsize := v.extractLsb' 15 11 }) ∧
    (∀ d, atlasLoc a = some (.board d 0) → a < 2 ^ 48 →
      die d { s.die d with board := { (s.die d).board with cap := v.extractLsb' 0 3 } }) ∧
    (∀ d, atlasLoc a = some (.board d 8) → a < 2 ^ 48 →
      die d { s.die d with board := { (s.die d).board with ovbase := v.extractLsb' 0 39 } }) ∧
    (∀ d, atlasLoc a = some (.debug d 0x10) → a < 2 ^ 48 → die d { s.die d with dbg := { (s.die d).dbg with bken := v } })) ∧
  (∀ (s : State) (c : Nat), ∃ t, exec (.evcountWrite c) s = .next t ∧ OnlyCore s t c ∧ t.core c = { s.core c with stepq := [] })
/-! ### The fabric, firmware and the host (14, 17) -/

/-- Flit replays count, a link that goes down leaves its register, the timestamp's rate is corrected by at most 100 ppm. An access of
another package whose DCID is not in force or that the window table refuses changes nothing here and is answered with the
cause; an atomic on a sync word that the window table admits joins the operations of its home. An access to HBM makes a request
for each of its lines, and its admission decides: a line that is not lent to the rank is refused, a write's bytes land, a
read's are sent back with their place. A BAR2 access in READY makes requests too, in the order received: a write lands at
WBASE + offset, a read returns its bytes; outside READY, or beyond the 2^36 bytes, an access completes as Unsupported Request
(14 R317, R318, R322, R323, R327; 03 R74, R75, R89). The rights of an access that
arrives, those of the context whose DCID it carries, are log 79, the limit of the rate's correction log 86. -/
def Obligations.Fabric : Prop :=
  ∀ s : State,
    let pkg (i : Instr) (p : Pkg) : Prop := ∃ t, exec i s = .next t ∧ OnlyPkg s t ∧ t.pkg = p
    (∀ n good, pkg (.flitReplay { link := n, good := good }) { s.pkg with
      retry := s.pkg.retry + 1
      fails := Tab.put 0 s.pkg.fails n (if good then 0 else Tab.get 0 s.pkg.fails n + 1) }) ∧
    (∀ n, n < 12 → Tab.get 0 s.pkg.fails n < 8 → exec (.linkDown n) s = .next s) ∧
    (∀ n, n < 12 → 8 ≤ Tab.get 0 s.pkg.fails n →
      ∃ t, exec (.linkDown n) s = .next t ∧ OnlyPkg s t ∧ t.pkg = { s.pkg with ringUp := t.pkg.ringUp } ∧
      ∀ i, i < 12 → t.pkg.ringUp.getLsbD i = (s.pkg.ringUp.getLsbD i && decide (i ≠ n))) ∧
    (∀ n, n < 16 → ∃ t, exec (.linkDown (12 + n)) s = .next t ∧ OnlyPkg s t ∧ t.pkg = { s.pkg with linkUp := t.pkg.linkUp } ∧
      ∀ i, i < 16 → t.pkg.linkUp.getLsbD i = (s.pkg.linkUp.getLsbD i && decide (i ≠ n))) ∧
    (∀ x : Int, pkg (.timestampAlign x) { s.pkg with ppm := if x < -100 then -100 else if 100 < x then 100 else x }) ∧
    (let answered (x : FabricAccess) (kind v : Nat) (l : List Byte) : Pkg := { s.pkg with
        outbox := s.pkg.outbox ++ [{ rank := x.rank, kind := kind, body := [x.dcid.zeroExtend 64, word x.agent, word v], bytes := l }] }
    let refused (x : FabricAccess) (cause : Nat) : Prop := pkg (.fabricAccessArrive x) (answered x 9 cause [])
    let part (a : Nat) (l : List Byte) (ln : Nat) : List (Nat × Byte) :=
      (((List.range l.length).zip l).map fun e => (a + e.1, e.2)).filter fun e => decide (e.1 / 128 = ln)
    let asks (x : FabricAccess) (n : Nat) (write : Bool) (l : List Byte) : Prop := ∃ t, exec (.fabricAccessArrive x) s = .next t ∧
      t.mem = s.mem ∧ t.cores = s.cores ∧ t.pkg = s.pkg ∧
      (∀ e, t.die e = { s.die e with mc := { (s.die e).mc with waiting := (t.die e).mc.waiting } }) ∧
      ∀ b ∈ lineAddrs x.addr n, { src := agentPort 3 (stackOf b), line := b / 128, write := write, who := .far x, data := part x.addr l (b / 128) } ∈
        Tab.get [] (t.die (stackOf b)).mc.waiting (pcOf b)
    let admitted (r : HbmReq) (post : State → Prop) : Prop := ∀ d pc, Tab.get [] (s.die d).mc.waiting pc = [r] →
      (Tab.get [] (s.die d).mc.queues pc).length < 32 →
      ∃ t, exec (.hbmAdmit d { n := pc, ev := none }) s = .next t ∧ t.cores = s.cores ∧ Tab.get [] (t.die d).mc.waiting pc = [] ∧ post t
    let stored (a : Nat) (l : List Byte) (ln : Nat) (t : State) : Prop := t.pkg = s.pkg ∧
      (∀ q b, l[q]? = some b → (a + q) / 128 = ln → t.hbm (a + q) = b) ∧
      ∀ z, (z < a ∨ a + l.length ≤ z ∨ z / 128 ≠ ln) → t.hbm z = s.hbm z
    (∀ x : FabricAccess, (∀ j, j < 64 → s.dcidValid x.wing j x.dcid.toNat = false) → refused x 6) ∧
    (∀ (x : FabricAccess) (ctx : Nat), s.dcidCtx x.wing x.dcid.toNat = some ctx → x.hbm = true →
      (∀ l, x.op = .write l → asks x l.length true l) ∧ (∀ n, x.op = .read n → asks x n false []) ∧
      (∀ op p q, x.op = .atomic op p q → refused x 9)) ∧
    (∀ (x : FabricAccess) (src ln : Nat),
      let cut (n : Nat) : Nat × Nat := lineCut x.addr n ln
      (∀ l, x.op = .write l → x.addr + l.length ≤ Config.hbmBytes →
        let r : HbmReq := { src := src, line := ln, write := true, who := .far x, data := part x.addr l ln }
        (s.lentTo x.rank (cut l.length).1 (cut l.length).2 = true → admitted r (stored x.addr l ln)) ∧
        (s.lentTo x.rank (cut l.length).1 (cut l.length).2 = false → admitted r fun t => t.mem = s.mem ∧ t.pkg = answered x 9 7 [])) ∧
      (∀ n, x.op = .read n →
        let r : HbmReq := { src := src, line := ln, write := false, who := .far x }
        (s.lentTo x.rank (cut n).1 (cut n).2 = true → s.poisoned (cut n).1 = false → admitted r fun t => t.mem = s.mem ∧
          t.pkg = answered x 8 ((cut n).1 - x.addr) ((List.range (cut n).2).map fun i => s.hbm ((cut n).1 + i))) ∧
        (s.lentTo x.rank (cut n).1 (cut n).2 = false → admitted r fun t => t.mem = s.mem ∧ t.pkg = answered x 9 7 []))) ∧
    (∀ (x : FabricAccess) (op : Nat) (p q : Word) (ctx o off : Nat), s.dcidCtx x.wing x.dcid.toNat = some ctx → x.hbm = false →
      x.op = .atomic op p q → s.atlasHere x.addr 1 = some (.acc o off) →
      (0x282 ≤ op → op ≤ 0x28b → off % 5 = 0 → s.atTarget (dieOf o) ctx false (word x.addr) = .ok (.here x.addr (.acc o off)) →
        ∃ t, exec (.fabricAccessArrive x) s = .next t ∧
          OnlyCore s t o ∧ t.core o = { s.core o with ats := (s.core o).ats ++
            [{ seq := 0, op := op, addr := word x.addr, x := p, y := q, m := 0, live := false, mute := true, ctx := ctx
               src := 8192 * (x.rank + 1) + x.agent, num := s.count }] }) ∧
      (s.atTarget (dieOf o) ctx false (word x.addr) = .error .window → refused x 6)) ∧
    (let h := s.pkg.host
    let done (x : Option (List Byte)) : Pkg := { s.pkg with host := { h with reads := x :: h.reads } }
    let req (a : Nat) (write : Bool) (l : List Byte) (ln : Nat) : HbmReq :=
      { src := agentPort 7 0, line := ln, write := write, who := .host a l.length, data := if write then part a l ln else [] }
    (∀ write off l, h.phase = 4 → off + l.length ≤ 2 ^ 36 → h.wbase.toNat + off + l.length ≤ Config.hbmBytes →
      let a := h.wbase.toNat + off
      pkg (.bar2Access write off l) { s.pkg with host := { h with
        posted := h.posted ++ (lineAddrs a l.length).map fun b => req a write l (b / 128) } }) ∧
    (∀ (a ln : Nat) (l : List Byte), a + l.length ≤ Config.hbmBytes →
      admitted (req a true l ln) (stored a l ln) ∧
      (s.poisoned (lineCut a l.length ln).1 = false → admitted (req a false l ln) fun t => t.mem = s.mem ∧
        t.pkg = done (some ((List.range (lineCut a l.length ln).2).map fun i => s.hbm ((lineCut a l.length ln).1 + i))))) ∧
    (∀ write off (l : List Byte), h.phase ≠ 4 ∨ 2 ^ 36 < off + l.length → pkg (.bar2Access write off l) (done none))))

/-- Power-up gives the state of reset in the part's form. GO starts the verification of a waiting image, which ends in REFUSED with the number of the
first check that fails, the buffer cleared, or in STARTING with the image's digest and version; bring-up's first failure gives
FAILED with its number, 1 to 6; all its steps done, HBM reads zero, rank, domain, links and timestamp are set, the pairs that no context
owns are as calibrated and the part is READY. CALTS is TS at the end of calibration; in READY calibration is repeated for the
pairs that no context owns and nothing else happens (14 R329..R331; 17 R359..R361). When the ring counts as
connected is log 82, which image GO verifies log 84; digest and signature are functions that the model leaves open (log 9). -/
def Obligations.Firmware : Prop :=
  ∀ s : State,
    let h := s.pkg.host
    let host (i : Instr) (h' : HostBlk) : Prop := ∃ t, exec i s = .next t ∧ OnlyPkg s t ∧ t.pkg = { s.pkg with host := h' }
    (∃ t, exec .powerUp s = .next t ∧ t.cores = [] ∧ t.dies = [] ∧ t.mem = [] ∧ t.pkg = { off := s.pkg.off } ∧ t.clk = 0 ∧ t.ts = 0) ∧
    (h.phase = 0 → host .imageGo { h with phase := 1, go := true }) ∧
    (h.phase ≠ 0 → host .imageGo { h with go := true }) ∧
    (h.phase ≠ 1 → exec .imageVerifyDone s = .next s) ∧
    (h.phase = 1 →
      (leNat (h.bytes 0 4) ≠ 0x46574B46 → host .imageVerifyDone { h with phase := 2, err := 1, image := [] }) ∧
      host .imageVerifyDone (match h.imageError with
        | some e => { h with phase := 2, err := e, image := [] }
        | none => { h with phase := 3, err := 0, digest := h.imageDigest, svn := BitVec.ofNat 32 (leNat (h.bytes 4 4)) })) ∧
    (∀ r : BringUpReport,
      let owned (c k : Nat) : Bool := (Tab.get 0 (s.die (dieOf c)).owner (onDie c)).getLsbD (8 * k + 7)
      let calibrated (t : State) : Prop :=
        (∀ d, d < 8 → (t.die d).dbg.idrec.extractLsb' 80 80 = BitVec.ofNat 64 s.ts ++ r.calver) ∧
        (∀ c k, k < 8 → owned c k = true → (t.core c).pair k = (s.core c).pair k) ∧
        (r.sym = [] → r.bad = [] → ∀ c, t.core c = { s.core c with pairs := (s.core c).pairs.filter fun p => owned c p.1 })
      let fails (n : Nat) : Prop := ∃ t, exec (.bringUp r) s = .next t ∧ t.pkg.host = { h with phase := 5, err := n } ∧
        ∀ a, a < Config.hbmBytes → t.hbm a = 0
      (h.phase ≠ 3 → h.phase ≠ 4 → exec (.bringUp r) s = .next s) ∧
      (h.phase = 4 → ∃ t, exec (.bringUp r) s = .next t ∧ t.mem = s.mem ∧ t.pkg = s.pkg ∧ t.clk = s.clk ∧ t.ts = s.ts ∧ calibrated t) ∧
      (h.phase = 3 →
        (ringConnected r.ringUp = false →
          ∃ t, exec (.bringUp r) s = .next t ∧ OnlyPkg s t ∧
            t.pkg = { s.pkg with ringUp := r.ringUp, host := { h with phase := 5, err := 1 } }) ∧
        (ringConnected r.ringUp = true → r.hbmOk = false →
          ∃ t, exec (.bringUp r) s = .next t ∧ OnlyPkg s t ∧
            t.pkg = { s.pkg with ringUp := r.ringUp, host := { h with phase := 5, err := 2 } }) ∧
        (ringConnected r.ringUp = true → r.hbmOk = true → r.fuseOk = false → fails 3) ∧
        (ringConnected r.ringUp = true → r.hbmOk = true → r.fuseOk = true → r.calOk = false → fails 4) ∧
        (ringConnected r.ringUp = true → r.hbmOk = true → r.fuseOk = true → r.calOk = true → r.cxlOk = false → fails 5) ∧
        (ringConnected r.ringUp = true → r.hbmOk = true → r.fuseOk = true → r.calOk = true → r.cxlOk = true → r.fabricOk = false →
          fails 6) ∧
        (ringConnected r.ringUp = true → r.hbmOk = true → r.fuseOk = true → r.calOk = true → r.cxlOk = true →
          r.fabricOk = true → ∃ t, exec (.bringUp r) s = .next t ∧
            t.pkg = { s.pkg with
              ringUp := r.ringUp, cxl := r.cxl, linkUp := r.linkUp, rank := r.rank, dsize := if r.dsize = 0 then 1 else r.dsize
              pool := r.pool, host := { h with phase := 4, err := 0 } } ∧
            t.ts = (if r.rank = 0 then 0 else Nat.max s.ts r.ts.toNat) ∧ (∀ a, a < Config.hbmBytes → t.hbm a = 0) ∧
            (∀ d, d < 8 → (t.die d).mc.scrub = true ∧ (t.die d).mc.poison = []) ∧ calibrated t)))
/-- A host command is executed in READY as the oldest of the ring, once the BAR2 accesses received before it are performed; it then
leaves the ring, CMDHEAD moves on, its completion holds tag, status and value, and its message is signalled. HOST_LAUNCH stores
to the launch port, SIGNAL writes a sync word, READSYNC reads one, both after a tile that is held or a core that is halted,
ATTEST writes the report. OPEN reads its plan by requests and takes one whose entries are legal, empties what the context has
and marks it open, or completes with 2. CLOSE stops the context on its dies, frees its records, and completes when nothing of it
remains in flight; an unknown opcode completes with 1. A function level reset closes every open context. The doorbell takes the
commands up to the new tail (14 R327, R328, R331, R332). The places of the commands' operands are log 72, the completion
slot log 73, the free status of operands that name nothing log 74, the host's rights to sync words log 75, the grants of its
launches log 76, what a reset leaves log 77; a plan with an uncorrectable line is log 106, one whose windows reach beyond the
context's ranges log 108, what CLOSE discards that can no longer complete log 117. -/
def Obligations.HostCommands : Prop :=
  (∀ (s : State) (cmd : BitVec 512),
    let h := s.pkg.host
    let opc := bits cmd 0 8
    let ended (st : Nat) (v : Word) (h : HostBlk) : HostBlk :=
      { h with ring := h.ring.tail, head := h.head + 1
               cpl := (h.head.toNat, v ++ (0 : BitVec 32) ++ BitVec.ofNat 16 st ++ cmd.extractLsb' 16 16) :: h.cpl
               msix := bits cmd 16 11 :: h.msix }
    let next : Prop := h.phase = 4 ∧ h.ring.head? = some cmd ∧ h.posted = [] ∧ s.hostAsks = false
    let ready (n : Nat) : Prop := next ∧ opc = n
    let done (i : Instr) (st : Nat) (v : Word) (h : HostBlk) : Prop := ∃ t, exec i s = .next t ∧ OnlyPkg s t ∧
      t.pkg = { s.pkg with host := ended st v h }
    let addr := cmd.extractLsb' 64 64
    (¬ next →
      exec (.hostLaunch cmd) s = .next s ∧ exec (.signal cmd) s = .next s ∧ exec (.readsync cmd) s = .next s ∧
      exec (.attest cmd) s = .next s ∧ exec (.openCtx cmd) s = .next s ∧ exec (.closeCtx cmd) s = .next s ∧
      exec (.unknownHostCommand cmd) s = .next s) ∧
    (next → opc = 0 ∨ 6 < opc → done (.unknownHostCommand cmd) 1 0 h) ∧
    (ready 1 → bits cmd 64 8 < 8 → bits cmd 72 8 < 64 →
      ∃ t, exec (.hostLaunch cmd) s = .next t ∧ t.mem = s.mem ∧ t.cores = s.cores ∧ t.pkg = { s.pkg with host := ended 0 0 h } ∧
        (t.die (bits cmd 64 8)).board.ports = (s.die (bits cmd 64 8)).board.ports ++
          [{ ctx := bits cmd 72 8, req := cmd.extractLsb' 128 256, priv := true, tier := true }]) ∧
    (ready 1 → 8 ≤ bits cmd 64 8 ∨ 64 ≤ bits cmd 72 8 → ∃ n, done (.hostLaunch cmd) n 0 h) ∧
    (ready 2 →
      (s.hostWord addr = none → ∃ n, done (.signal cmd) n 0 h) ∧
      (∀ o i, s.hostWord addr = some (.inl (o, i)) → (s.core o).tileHeld (i / 4096) = false →
        (s.core o).halted = false → s.NoAwait →
        ∃ t, exec (.signal cmd) s = .next t ∧ t.mem = s.mem ∧ t.dies = s.dies ∧ t.pkg = { s.pkg with host := ended 0 0 h } ∧
          (∀ c, c ≠ o → t.core c = s.core c) ∧
          t.core o = (s.core o).setAcc (i / 4096) (i % 4096) ((cmd.extractLsb' 128 32).signExtend 40)) ∧
      (∀ o i, s.hostWord addr = some (.inl (o, i)) → (s.core o).tileHeld (i / 4096) = true ∨ (s.core o).halted = true →
        exec (.signal cmd) s = .next s)) ∧
    (ready 3 → ∀ o i, s.hostWord addr = some (.inl (o, i)) →
      ((s.core o).tileHeld (i / 4096) = false → (s.core o).halted = false → done (.readsync cmd) 0
        ((((s.core o).acc (i / 4096) (i % 4096)).extractLsb' 0 32).signExtend 64) h) ∧
      ((s.core o).tileHeld (i / 4096) = true ∨ (s.core o).halted = true → exec (.readsync cmd) s = .next s)) ∧
    (ready 4 → ∃ out : List Byte, out.take 156 = s.reportHead (toBytes 32 (bits cmd 64 256)) ∧ out.length ≤ 4096 ∧
      done (.attest cmd) 0 0 { h with dma := (bits cmd 320 64, out) :: h.dma }) ∧
    (ready 5 →
      let ctx := bits cmd 64 8
      let dies := maskDies (bits cmd 72 8)
      let plan := bits cmd 128 64
      let reads := (W.of s).planReads plan
      let w := (W.of s).takeReads reads
      let n := w.hbmNat plan 4
      let es := w.planEntries plan n
      let u := es.foldl (fun w e => w.registerWrite e.1 e.2) w
      let refused : Prop := ∃ t, exec (.openCtx cmd) s = .next t ∧ t.mem = s.mem ∧ t.cores = s.cores ∧
        t.pkg = { s.pkg with host := ended 2 0 h } ∧
        ∀ e, t.die e = { s.die e with mc := { (s.die e).mc with turns := (t.die e).mc.turns } }
      (s.admitted reads = false → ∃ t, exec (.openCtx cmd) s = .next t ∧ t.mem = s.mem ∧ t.cores = s.cores ∧ t.pkg = s.pkg ∧
        (∀ e, t.die e = { s.die e with mc := { (s.die e).mc with waiting := (t.die e).mc.waiting } }) ∧
        ∀ e ∈ reads, (t.turn e).isSome = true ∨ t.askedHbm e.1 (128 * e.2) 128 = true) ∧
      (s.admitted reads = true → w.badLine plan = false → (∀ a ∈ lineAddrs (plan + 128) (16 * n), w.badLine a = false) →
        (64 ≤ ctx ∨ plan % 128 ≠ 0 ∨ n = 0 ∨ 65536 < n ∨ (∃ d ∈ dies, s.isOpen d ctx = true) → refused) ∧
        (ctx < 64 → plan % 128 = 0 → 1 ≤ n → n ≤ 65536 → plan + 128 + 16 * n ≤ Config.hbmBytes → w.hbmNat (plan + 6) 1 < 2 →
          w.hbmNat (plan + 7) 121 = 0 → (∀ d ∈ dies, s.isOpen d ctx = false) →
          ((∃ e ∈ es, s.planOk ctx (bits cmd 72 8) e = false) → refused) ∧
          ((∀ e ∈ es, s.planOk ctx (bits cmd 72 8) e = true) → (∀ d ∈ dies, u.rangesFree d ctx = true ∧ u.windowsFit d ctx = true) →
            ∃ t, exec (.openCtx cmd) s = .next t ∧ t.mem = s.mem ∧
              t.pkg.opens = s.pkg.opens ++ dies.map (· * 64 + ctx) ∧ t.pkg.host = ended 0 0 h ∧
              ∀ d ∈ dies,
                (∀ i, i < 128 → s.coreEnabled (d * 128 + i) = true → ∀ ln, (t.allotment (d * 128 + i) ctx).1 ≤ ln →
                  ln < (t.allotment (d * 128 + i) ctx).1 + (t.allotment (d * 128 + i) ctx).2 →
                  (t.core (d * 128 + i)).line ln = 0 ∧ (t.core (d * 128 + i)).present ln = true) ∧
                (∀ k, k < 65536 → Tab.get 0 (t.die d).board.tokens (ctx * 65536 + k) = 0) ∧
                (∀ x ∈ (t.die d).bind, x.ctx ≠ ctx) ∧ t.stack d ctx = {})))) ∧
    (ready 6 → ∀ d, d < 8 → bits cmd 72 8 = 2 ^ d → bits cmd 64 8 < 64 →
      let ctx := bits cmd 64 8
      let w := ((W.of s).closeBegin d ctx).closeLost d ctx
      (h.begun = false → s.pkg.closing = [] → w.closeOver d ctx = true →
        ∃ t, exec (.closeCtx cmd) s = .next t ∧ t.isOpen d ctx = false ∧ t.pkg.closing = [] ∧
          (∀ e ∈ (t.die d).board.recs, e.2.ctx ≠ ctx) ∧ (∀ e ∈ (t.die d).board.launches, e.2.ctx ≠ ctx) ∧
          (∀ i, i < 64 → Tab.get 0 (t.die d).windows (ctx * 64 + i) = 0) ∧ (∀ i, i < 128 → t.allotment (d * 128 + i) ctx = (0, 0)) ∧
          Tab.get 0 (t.die d).cctl ctx = 0 ∧ t.stack d ctx = {} ∧
          (t.pkg.host.cpl.head?.map fun x => x.2.extractLsb' 16 16) = some 0) ∧
      (h.begun = false → s.pkg.closing = [] → w.closeOver d ctx = false →
        ∃ t, exec (.closeCtx cmd) s = .next t ∧ t.isClosing d ctx = true ∧ t.pkg.host.begun = true ∧
          ∀ e ∈ (t.die d).board.recs, e.2.ctx ≠ ctx) ∧
      (h.begun = true → s.pkg.closing = [] → done (.closeCtx cmd) 0 0 { h with begun := false }))) ∧
  (∀ s : State,
    (s.pkg.opens = [] → s.pkg.closing = [] → exec .functionLevelReset s = .next s) ∧
    (∀ d ctx, d < 8 → ctx < 64 → s.pkg.opens = [d * 64 + ctx] → s.pkg.closing = [] →
      let w := ((W.of s).closeBegin d ctx).closeLost d ctx
      ∃ t, exec .functionLevelReset s = .next t ∧ (∀ e ∈ (t.die d).board.recs, e.2.ctx ≠ ctx) ∧
        (w.closeOver d ctx = true → t.isOpen d ctx = false ∧ Tab.get 0 (t.die d).cctl ctx = 0) ∧
        (w.closeOver d ctx = false → t.isClosing d ctx = true))) ∧
  (∀ (s : State) (tail : BitVec 12) (cmds : List (BitVec 512)),
    let h := s.pkg.host
    (cmds.length = (tail - h.tail).toNat → ∃ t, exec (.cmdDoorbell tail cmds) s = .next t ∧ OnlyPkg s t ∧
      t.pkg = { s.pkg with host := { h with tail := tail, ring := h.ring ++ cmds } }) ∧
    (cmds.length ≠ (tail - h.tail).toNat → exec (.cmdDoorbell tail cmds) s = .next s))
/-! ### Debug and telemetry (15, 17) -/

/-- HALT stops every core of the context on the die, or on every die, with its channels and commands, and counts in HALTS; a
channel's reads that have not left are taken back, and the halt is noted when its channels' requests have completed. RESUME lets
the cores go on, and its channels once the accesses that the halt held have drained; STEP lets a halted core issue one bundle,
PASS alone goes on past a BKPT, RELEASE makes a core that a double trap stopped idle, with nothing of its task left on it, and
frees the task's record if it is not bound to the core. A step event enters the queue of 16 when it has room. A telemetry period
makes the write request of one record at HEAD and moves HEAD and the sequence number on; a failed translation sets FLT and clears
EN (15 R342, R343; 17 R353..R358). A bound record that RELEASE leaves waits until its context closes (log 115); the
translation of a record's address, whose reads nothing waits for, is log 101. -/
def Obligations.DebugAndTelemetry : Prop :=
  (∀ (s : State) (d ctx : Nat), d < 8 → ctx < 64 →
    let mine (pkg : Bool) (c : Nat) : Prop := c < 1024 ∧ (s.core c).ctx = some ctx ∧ (pkg = true ∨ dieOf c = d)
    let bit (x : BitVec 64) : Bool := x.getLsbD ctx
    let acts (i : Instr) (pkg : Bool) (f : Core → Core) (more : State → Prop) : Prop := ∃ t, exec i s = .next t ∧
      t.mem = s.mem ∧ t.pkg = s.pkg ∧ (∀ c, mine pkg c → t.core c = f (s.core c)) ∧ (∀ c, ¬ mine pkg c → t.core c = s.core c) ∧
      more t
    let still (k : Core) : Core :=
      { k with cp := { k.cp with ch := k.cp.ch.map fun (e : Nat × Channel) => (e.1, { e.2 with act := e.2.act.map Copy.halt }) } }
    (∀ pkg, acts (.debugHalt d ctx pkg) pkg
      (fun k => if k.halted then { still k with stepArm := false, chanHalt := true }
        else { still k with halted := true, stepArm := false, chanHalt := true, ctl := { k.ctl with halts := k.ctl.halts + 1 } })
      fun t => bit (t.die d).dbg.stop = true ∧ bit (t.die d).dbg.drain = false) ∧
    (∀ pkg, acts (.debugResume d ctx pkg) pkg
      (fun k => { k with halted := false, bkpt := false, stepArm := false })
      fun t => bit (t.die d).dbg.stop = false ∧ bit (t.die d).dbg.halted = false ∧ bit (t.die d).dbg.drain = true) ∧
    (∀ pkg, acts (.debugPass ⟨d, pkg⟩ ctx) pkg (fun k => { k with halted := false, stepArm := false })
      (fun t => bit (t.die d).dbg.stop = false ∧ bit (t.die d).dbg.halted = false ∧ bit (t.die d).dbg.drain = true)) ∧
    (∀ (core : Nat) (all : Bool),
      ∃ t, exec (.debugStep d ctx core all) s = .next t ∧ t.mem = s.mem ∧ t.pkg = s.pkg ∧ (∀ e, e ≠ d → t.die e = s.die e) ∧
        (∀ i, i < 64 → i ≠ ctx → (t.die d).dbg.halted.getLsbD i = (s.die d).dbg.halted.getLsbD i) ∧
        ((∃ c, mine false c ∧ (all = true ∨ onDie c = core) ∧ (s.core c).halted = true) → bit (t.die d).dbg.halted = false) ∧
        ∀ c, t.core c = if mine false c ∧ (all = true ∨ onDie c = core) ∧ (s.core c).halted = true then
          { s.core c with stepArm := true, chanHalt := false, bkpt := false } else s.core c) ∧
    (∀ c, dieOf c = d → mine false c →
      ((s.core c).mode = .stopped → ∃ t, exec (.debugRelease d ctx (onDie c) false) s = .next t ∧ t.mem = s.mem ∧
        t.pkg = s.pkg ∧ (t.core c).mode = .idle ∧ (t.core c).running = none ∧ (t.core c).vrf = (s.core c).vrf ∧
        (t.core c).pipe.items = [] ∧ (t.core c).eng.mx = none ∧ (t.core c).eng.xb = [] ∧ (t.core c).shadow = {} ∧
        ∀ r, (s.core c).running = some r →
          (r.img.getLsbD 464 = false → (t.die d).board.entry r.idx = none) ∧
          (∀ e, r.img.getLsbD 464 = true → (s.die d).board.entry r.idx = some e →
            ∃ e', (t.die d).board.entry r.idx = some e' ∧ e'.run = false ∧ e'.ready = false ∧ e'.wait = .never ∧ e'.img = e.img)) ∧
      ((s.core c).mode ≠ .stopped → exec (.debugRelease d ctx (onDie c) false) s = .next s)) ∧
    (let idle := ∀ c, mine false c → (s.core c).halted = true ∧ (s.core c).stepArm = false ∧ (s.core c).quiet = true
    (bit (s.die d).dbg.stop = true → idle → ∃ t, exec (.haltDrainDone d ctx) s = .next t ∧ OnlyDie s t d ∧
      ∀ i, i < 64 → (t.die d).dbg.halted.getLsbD i = ((s.die d).dbg.halted.getLsbD i || decide (i = ctx))) ∧
    (bit (s.die d).dbg.stop = true → ¬ idle → exec (.haltDrainDone d ctx) s = .next s) ∧
    (bit (s.die d).dbg.stop = false → bit (s.die d).dbg.drain = false → exec (.haltDrainDone d ctx) s = .next s) ∧
    (bit (s.die d).dbg.stop = false → bit (s.die d).dbg.drain = true → (∀ c, (s.core c).ats = []) →
      acts (.haltDrainDone d ctx) false (fun k => { k with chanHalt := false }) fun t => bit (t.die d).dbg.drain = false))) ∧
  (∀ (s : State) (c : Nat) (ev : BitVec 128),
    let k := s.core c
    ∃ t, exec (.stepEvent c ev) s = .next t ∧ OnlyCore s t c ∧
      (k.stepPend.head? = some ev → k.stepq.length < 16 →
        t.core c = { k with stepq := k.stepq ++ [ev], stepPend := k.stepPend.tail }) ∧
      (k.stepPend.head? ≠ some ev ∨ 16 ≤ k.stepq.length → t.core c = k)) ∧
  (∀ (s : State) (ctx : Nat) (sample : BitVec 512),
    let b : BitVec 512 := Tab.get 0 s.pkg.tele ctx
    let head := bits b 128 24
    let va := bits b 0 64 + 64 * head
    let en := b.getLsbD 104
    (en = false ∨ s.ts < Tab.get 0 s.pkg.teleDue ctx → exec (.telemetryPeriod ctx sample) s = .next s) ∧
    let flt : BitVec 512 := b.extractLsb' 106 406 ++ (1 : BitVec 1) ++ (0 : BitVec 1) ++ b.extractLsb' 0 104
    let page : Option HeldPage := ((W.of s).telePage ctx va).toOption.map (·.1)
    (en = true → Tab.get 0 s.pkg.teleDue ctx ≤ s.ts → page = none → ∃ t, exec (.telemetryPeriod ctx sample) s = .next t ∧
      OnlyPkg s t ∧ Tab.get 0 t.pkg.tele ctx = flt) ∧
    (∀ p, en = true → Tab.get 0 s.pkg.teleDue ctx ≤ s.ts → page = some p → p.wr = false →
      ∃ t, exec (.telemetryPeriod ctx sample) s = .next t ∧ t.mem = s.mem ∧ t.cores = s.cores ∧ Tab.get 0 t.pkg.tele ctx = flt) ∧
    (∀ p, en = true → Tab.get 0 s.pkg.teleDue ctx ≤ s.ts → page = some p → p.wr = true → p.remote = none → bits b 192 64 = 0 →
      p.pa va % 64 = 0 → ∃ t, exec (.telemetryPeriod ctx sample) s = .next t ∧ t.mem = s.mem ∧ t.cores = s.cores ∧
        Tab.get 0 t.pkg.tele ctx = b.extractLsb' 152 360 ++
          BitVec.ofNat 24 ((head + 1) % bits b 64 24) ++ b.extractLsb' 0 128 ∧
        Tab.get 0 t.pkg.teleSeq ctx = Tab.get 0 s.pkg.teleSeq ctx + 1 ∧
        Tab.get 0 t.pkg.teleDue ctx = Tab.get 0 s.pkg.teleDue ctx + 1000 * bits b 88 16 ∧
        Tab.get 0 t.pkg.teleHeld ctx = 0 ∧
        ∃ q ∈ Tab.get [] (t.die (stackOf (p.pa va))).mc.waiting (pcOf (p.pa va)),
          q.src = agentPort 6 0 ∧ q.line = p.pa va / 128 ∧ q.write = true ∧ q.who = .agent ∧
          q.data = (List.range 64).map fun i => (p.pa va + i,
            if i < 8 then (BitVec.ofNat 64 s.ts).extractLsb' (8 * i) 8
            else if i < 12 then (Tab.get 0 s.pkg.teleSeq ctx).extractLsb' (8 * (i - 8)) 8
            else if 16 ≤ i ∧ i < 48 ∧ i % 4 = 3 then (s.die ((i - 16) / 4)).fcur.zeroExtend 8
            else if i = 56 ∨ i = 57 then (Tab.get 0 s.pkg.teleHeld ctx).extractLsb' (8 * (i - 56)) 8
            else if i = 51 ∨ i = 55 ∨ 58 ≤ i then 0
            else sample.extractLsb' (8 * i) 8)))
end

