-- ==== Sys2Proof/Laws/State.lean ====
section
/-!
SUPPORT. One lemma per field per update of the state, true by computation, so that no later proof unfolds a record update.
-/

namespace Sys2Proof.Machine

/-! ### Parts of a core -/

section
variable (k : Core)

@[simp] theorem Core.modPipe_mode (f : Pipe → Pipe) : (k.modPipe f).mode = k.mode := rfl
@[simp] theorem Core.modPipe_halted (f : Pipe → Pipe) : (k.modPipe f).halted = k.halted := rfl
@[simp] theorem Core.modPipe_bkpt (f : Pipe → Pipe) : (k.modPipe f).bkpt = k.bkpt := rfl
@[simp] theorem Core.modPipe_stepArm (f : Pipe → Pipe) : (k.modPipe f).stepArm = k.stepArm := rfl
@[simp] theorem Core.modPipe_chanHalt (f : Pipe → Pipe) : (k.modPipe f).chanHalt = k.chanHalt := rfl
@[simp] theorem Core.modPipe_notask (f : Pipe → Pipe) : (k.modPipe f).notask = k.notask := rfl
@[simp] theorem Core.modPipe_ctx (f : Pipe → Pipe) : (k.modPipe f).ctx = k.ctx := rfl
@[simp] theorem Core.modPipe_running (f : Pipe → Pipe) : (k.modPipe f).running = k.running := rfl
@[simp] theorem Core.modPipe_pc (f : Pipe → Pipe) : (k.modPipe f).pc = k.pc := rfl
@[simp] theorem Core.modPipe_regs (f : Pipe → Pipe) : (k.modPipe f).regs = k.regs := rfl
@[simp] theorem Core.modPipe_ctl (f : Pipe → Pipe) : (k.modPipe f).ctl = k.ctl := rfl
@[simp] theorem Core.modPipe_seq (f : Pipe → Pipe) : (k.modPipe f).seq = k.seq := rfl
@[simp] theorem Core.modPipe_pipe (f : Pipe → Pipe) : (k.modPipe f).pipe = f k.pipe := rfl
@[simp] theorem Core.modPipe_eng (f : Pipe → Pipe) : (k.modPipe f).eng = k.eng := rfl
@[simp] theorem Core.modPipe_vrf (f : Pipe → Pipe) : (k.modPipe f).vrf = k.vrf := rfl
@[simp] theorem Core.modPipe_absent (f : Pipe → Pipe) : (k.modPipe f).absent = k.absent := rfl
@[simp] theorem Core.modPipe_claims (f : Pipe → Pipe) : (k.modPipe f).claims = k.claims := rfl
@[simp] theorem Core.modPipe_soft (f : Pipe → Pipe) : (k.modPipe f).soft = k.soft := rfl
@[simp] theorem Core.modPipe_softAcc (f : Pipe → Pipe) : (k.modPipe f).softAcc = k.softAcc := rfl
@[simp] theorem Core.modPipe_accw (f : Pipe → Pipe) : (k.modPipe f).accw = k.accw := rfl
@[simp] theorem Core.modPipe_slots (f : Pipe → Pipe) : (k.modPipe f).slots = k.slots := rfl
@[simp] theorem Core.modPipe_slotAsks (f : Pipe → Pipe) : (k.modPipe f).slotAsks = k.slotAsks := rfl
@[simp] theorem Core.modPipe_bufs (f : Pipe → Pipe) : (k.modPipe f).bufs = k.bufs := rfl
@[simp] theorem Core.modPipe_pairs (f : Pipe → Pipe) : (k.modPipe f).pairs = k.pairs := rfl
@[simp] theorem Core.modPipe_cbuf (f : Pipe → Pipe) : (k.modPipe f).cbuf = k.cbuf := rfl
@[simp] theorem Core.modPipe_relFence (f : Pipe → Pipe) : (k.modPipe f).relFence = k.relFence := rfl
@[simp] theorem Core.modPipe_ats (f : Pipe → Pipe) : (k.modPipe f).ats = k.ats := rfl
@[simp] theorem Core.modPipe_shadow (f : Pipe → Pipe) : (k.modPipe f).shadow = k.shadow := rfl
@[simp] theorem Core.modPipe_stopped (f : Pipe → Pipe) : (k.modPipe f).stopped = k.stopped := rfl
@[simp] theorem Core.modPipe_lastLaunch (f : Pipe → Pipe) : (k.modPipe f).lastLaunch = k.lastLaunch := rfl
@[simp] theorem Core.modPipe_tally (f : Pipe → Pipe) : (k.modPipe f).tally = k.tally := rfl
@[simp] theorem Core.modPipe_cp (f : Pipe → Pipe) : (k.modPipe f).cp = k.cp := rfl
@[simp] theorem Core.modPipe_tier (f : Pipe → Pipe) : (k.modPipe f).tier = k.tier := rfl
@[simp] theorem Core.modPipe_tlbWaits (f : Pipe → Pipe) : (k.modPipe f).tlbWaits = k.tlbWaits := rfl
@[simp] theorem Core.modPipe_late (f : Pipe → Pipe) : (k.modPipe f).late = k.late := rfl
@[simp] theorem Core.modPipe_stepq (f : Pipe → Pipe) : (k.modPipe f).stepq = k.stepq := rfl
@[simp] theorem Core.modPipe_stepPend (f : Pipe → Pipe) : (k.modPipe f).stepPend = k.stepPend := rfl

@[simp] theorem Core.modRegs_mode (f : Regs → Regs) : (k.modRegs f).mode = k.mode := rfl
@[simp] theorem Core.modRegs_halted (f : Regs → Regs) : (k.modRegs f).halted = k.halted := rfl
@[simp] theorem Core.modRegs_bkpt (f : Regs → Regs) : (k.modRegs f).bkpt = k.bkpt := rfl
@[simp] theorem Core.modRegs_stepArm (f : Regs → Regs) : (k.modRegs f).stepArm = k.stepArm := rfl
@[simp] theorem Core.modRegs_chanHalt (f : Regs → Regs) : (k.modRegs f).chanHalt = k.chanHalt := rfl
@[simp] theorem Core.modRegs_notask (f : Regs → Regs) : (k.modRegs f).notask = k.notask := rfl
@[simp] theorem Core.modRegs_ctx (f : Regs → Regs) : (k.modRegs f).ctx = k.ctx := rfl
@[simp] theorem Core.modRegs_running (f : Regs → Regs) : (k.modRegs f).running = k.running := rfl
@[simp] theorem Core.modRegs_pc (f : Regs → Regs) : (k.modRegs f).pc = k.pc := rfl
@[simp] theorem Core.modRegs_regs (f : Regs → Regs) : (k.modRegs f).regs = f k.regs := rfl
@[simp] theorem Core.modRegs_ctl (f : Regs → Regs) : (k.modRegs f).ctl = k.ctl := rfl
@[simp] theorem Core.modRegs_seq (f : Regs → Regs) : (k.modRegs f).seq = k.seq := rfl
@[simp] theorem Core.modRegs_pipe (f : Regs → Regs) : (k.modRegs f).pipe = k.pipe := rfl
@[simp] theorem Core.modRegs_eng (f : Regs → Regs) : (k.modRegs f).eng = k.eng := rfl
@[simp] theorem Core.modRegs_vrf (f : Regs → Regs) : (k.modRegs f).vrf = k.vrf := rfl
@[simp] theorem Core.modRegs_absent (f : Regs → Regs) : (k.modRegs f).absent = k.absent := rfl
@[simp] theorem Core.modRegs_claims (f : Regs → Regs) : (k.modRegs f).claims = k.claims := rfl
@[simp] theorem Core.modRegs_soft (f : Regs → Regs) : (k.modRegs f).soft = k.soft := rfl
@[simp] theorem Core.modRegs_softAcc (f : Regs → Regs) : (k.modRegs f).softAcc = k.softAcc := rfl
@[simp] theorem Core.modRegs_accw (f : Regs → Regs) : (k.modRegs f).accw = k.accw := rfl
@[simp] theorem Core.modRegs_slots (f : Regs → Regs) : (k.modRegs f).slots = k.slots := rfl
@[simp] theorem Core.modRegs_slotAsks (f : Regs → Regs) : (k.modRegs f).slotAsks = k.slotAsks := rfl
@[simp] theorem Core.modRegs_bufs (f : Regs → Regs) : (k.modRegs f).bufs = k.bufs := rfl
@[simp] theorem Core.modRegs_pairs (f : Regs → Regs) : (k.modRegs f).pairs = k.pairs := rfl
@[simp] theorem Core.modRegs_cbuf (f : Regs → Regs) : (k.modRegs f).cbuf = k.cbuf := rfl
@[simp] theorem Core.modRegs_relFence (f : Regs → Regs) : (k.modRegs f).relFence = k.relFence := rfl
@[simp] theorem Core.modRegs_ats (f : Regs → Regs) : (k.modRegs f).ats = k.ats := rfl
@[simp] theorem Core.modRegs_shadow (f : Regs → Regs) : (k.modRegs f).shadow = k.shadow := rfl
@[simp] theorem Core.modRegs_stopped (f : Regs → Regs) : (k.modRegs f).stopped = k.stopped := rfl
@[simp] theorem Core.modRegs_lastLaunch (f : Regs → Regs) : (k.modRegs f).lastLaunch = k.lastLaunch := rfl
@[simp] theorem Core.modRegs_tally (f : Regs → Regs) : (k.modRegs f).tally = k.tally := rfl
@[simp] theorem Core.modRegs_cp (f : Regs → Regs) : (k.modRegs f).cp = k.cp := rfl
@[simp] theorem Core.modRegs_tier (f : Regs → Regs) : (k.modRegs f).tier = k.tier := rfl
@[simp] theorem Core.modRegs_tlbWaits (f : Regs → Regs) : (k.modRegs f).tlbWaits = k.tlbWaits := rfl
@[simp] theorem Core.modRegs_late (f : Regs → Regs) : (k.modRegs f).late = k.late := rfl
@[simp] theorem Core.modRegs_stepq (f : Regs → Regs) : (k.modRegs f).stepq = k.stepq := rfl
@[simp] theorem Core.modRegs_stepPend (f : Regs → Regs) : (k.modRegs f).stepPend = k.stepPend := rfl

@[simp] theorem Core.modCtl_mode (f : CtlRegs → CtlRegs) : (k.modCtl f).mode = k.mode := rfl
@[simp] theorem Core.modCtl_halted (f : CtlRegs → CtlRegs) : (k.modCtl f).halted = k.halted := rfl
@[simp] theorem Core.modCtl_bkpt (f : CtlRegs → CtlRegs) : (k.modCtl f).bkpt = k.bkpt := rfl
@[simp] theorem Core.modCtl_stepArm (f : CtlRegs → CtlRegs) : (k.modCtl f).stepArm = k.stepArm := rfl
@[simp] theorem Core.modCtl_chanHalt (f : CtlRegs → CtlRegs) : (k.modCtl f).chanHalt = k.chanHalt := rfl
@[simp] theorem Core.modCtl_notask (f : CtlRegs → CtlRegs) : (k.modCtl f).notask = k.notask := rfl
@[simp] theorem Core.modCtl_ctx (f : CtlRegs → CtlRegs) : (k.modCtl f).ctx = k.ctx := rfl
@[simp] theorem Core.modCtl_running (f : CtlRegs → CtlRegs) : (k.modCtl f).running = k.running := rfl
@[simp] theorem Core.modCtl_pc (f : CtlRegs → CtlRegs) : (k.modCtl f).pc = k.pc := rfl
@[simp] theorem Core.modCtl_regs (f : CtlRegs → CtlRegs) : (k.modCtl f).regs = k.regs := rfl
@[simp] theorem Core.modCtl_ctl (f : CtlRegs → CtlRegs) : (k.modCtl f).ctl = f k.ctl := rfl
@[simp] theorem Core.modCtl_seq (f : CtlRegs → CtlRegs) : (k.modCtl f).seq = k.seq := rfl
@[simp] theorem Core.modCtl_pipe (f : CtlRegs → CtlRegs) : (k.modCtl f).pipe = k.pipe := rfl
@[simp] theorem Core.modCtl_eng (f : CtlRegs → CtlRegs) : (k.modCtl f).eng = k.eng := rfl
@[simp] theorem Core.modCtl_vrf (f : CtlRegs → CtlRegs) : (k.modCtl f).vrf = k.vrf := rfl
@[simp] theorem Core.modCtl_absent (f : CtlRegs → CtlRegs) : (k.modCtl f).absent = k.absent := rfl
@[simp] theorem Core.modCtl_claims (f : CtlRegs → CtlRegs) : (k.modCtl f).claims = k.claims := rfl
@[simp] theorem Core.modCtl_soft (f : CtlRegs → CtlRegs) : (k.modCtl f).soft = k.soft := rfl
@[simp] theorem Core.modCtl_softAcc (f : CtlRegs → CtlRegs) : (k.modCtl f).softAcc = k.softAcc := rfl
@[simp] theorem Core.modCtl_accw (f : CtlRegs → CtlRegs) : (k.modCtl f).accw = k.accw := rfl
@[simp] theorem Core.modCtl_slots (f : CtlRegs → CtlRegs) : (k.modCtl f).slots = k.slots := rfl
@[simp] theorem Core.modCtl_slotAsks (f : CtlRegs → CtlRegs) : (k.modCtl f).slotAsks = k.slotAsks := rfl
@[simp] theorem Core.modCtl_bufs (f : CtlRegs → CtlRegs) : (k.modCtl f).bufs = k.bufs := rfl
@[simp] theorem Core.modCtl_pairs (f : CtlRegs → CtlRegs) : (k.modCtl f).pairs = k.pairs := rfl
@[simp] theorem Core.modCtl_cbuf (f : CtlRegs → CtlRegs) : (k.modCtl f).cbuf = k.cbuf := rfl
@[simp] theorem Core.modCtl_relFence (f : CtlRegs → CtlRegs) : (k.modCtl f).relFence = k.relFence := rfl
@[simp] theorem Core.modCtl_ats (f : CtlRegs → CtlRegs) : (k.modCtl f).ats = k.ats := rfl
@[simp] theorem Core.modCtl_shadow (f : CtlRegs → CtlRegs) : (k.modCtl f).shadow = k.shadow := rfl
@[simp] theorem Core.modCtl_stopped (f : CtlRegs → CtlRegs) : (k.modCtl f).stopped = k.stopped := rfl
@[simp] theorem Core.modCtl_lastLaunch (f : CtlRegs → CtlRegs) : (k.modCtl f).lastLaunch = k.lastLaunch := rfl
@[simp] theorem Core.modCtl_tally (f : CtlRegs → CtlRegs) : (k.modCtl f).tally = k.tally := rfl
@[simp] theorem Core.modCtl_cp (f : CtlRegs → CtlRegs) : (k.modCtl f).cp = k.cp := rfl
@[simp] theorem Core.modCtl_tier (f : CtlRegs → CtlRegs) : (k.modCtl f).tier = k.tier := rfl
@[simp] theorem Core.modCtl_tlbWaits (f : CtlRegs → CtlRegs) : (k.modCtl f).tlbWaits = k.tlbWaits := rfl
@[simp] theorem Core.modCtl_late (f : CtlRegs → CtlRegs) : (k.modCtl f).late = k.late := rfl
@[simp] theorem Core.modCtl_stepq (f : CtlRegs → CtlRegs) : (k.modCtl f).stepq = k.stepq := rfl
@[simp] theorem Core.modCtl_stepPend (f : CtlRegs → CtlRegs) : (k.modCtl f).stepPend = k.stepPend := rfl

@[simp] theorem Core.modEng_mode (f : Engines → Engines) : (k.modEng f).mode = k.mode := rfl
@[simp] theorem Core.modEng_halted (f : Engines → Engines) : (k.modEng f).halted = k.halted := rfl
@[simp] theorem Core.modEng_bkpt (f : Engines → Engines) : (k.modEng f).bkpt = k.bkpt := rfl
@[simp] theorem Core.modEng_stepArm (f : Engines → Engines) : (k.modEng f).stepArm = k.stepArm := rfl
@[simp] theorem Core.modEng_chanHalt (f : Engines → Engines) : (k.modEng f).chanHalt = k.chanHalt := rfl
@[simp] theorem Core.modEng_notask (f : Engines → Engines) : (k.modEng f).notask = k.notask := rfl
@[simp] theorem Core.modEng_ctx (f : Engines → Engines) : (k.modEng f).ctx = k.ctx := rfl
@[simp] theorem Core.modEng_running (f : Engines → Engines) : (k.modEng f).running = k.running := rfl
@[simp] theorem Core.modEng_pc (f : Engines → Engines) : (k.modEng f).pc = k.pc := rfl
@[simp] theorem Core.modEng_regs (f : Engines → Engines) : (k.modEng f).regs = k.regs := rfl
@[simp] theorem Core.modEng_ctl (f : Engines → Engines) : (k.modEng f).ctl = k.ctl := rfl
@[simp] theorem Core.modEng_seq (f : Engines → Engines) : (k.modEng f).seq = k.seq := rfl
@[simp] theorem Core.modEng_pipe (f : Engines → Engines) : (k.modEng f).pipe = k.pipe := rfl
@[simp] theorem Core.modEng_eng (f : Engines → Engines) : (k.modEng f).eng = f k.eng := rfl
@[simp] theorem Core.modEng_vrf (f : Engines → Engines) : (k.modEng f).vrf = k.vrf := rfl
@[simp] theorem Core.modEng_absent (f : Engines → Engines) : (k.modEng f).absent = k.absent := rfl
@[simp] theorem Core.modEng_claims (f : Engines → Engines) : (k.modEng f).claims = k.claims := rfl
@[simp] theorem Core.modEng_soft (f : Engines → Engines) : (k.modEng f).soft = k.soft := rfl
@[simp] theorem Core.modEng_softAcc (f : Engines → Engines) : (k.modEng f).softAcc = k.softAcc := rfl
@[simp] theorem Core.modEng_accw (f : Engines → Engines) : (k.modEng f).accw = k.accw := rfl
@[simp] theorem Core.modEng_slots (f : Engines → Engines) : (k.modEng f).slots = k.slots := rfl
@[simp] theorem Core.modEng_slotAsks (f : Engines → Engines) : (k.modEng f).slotAsks = k.slotAsks := rfl
@[simp] theorem Core.modEng_bufs (f : Engines → Engines) : (k.modEng f).bufs = k.bufs := rfl
@[simp] theorem Core.modEng_pairs (f : Engines → Engines) : (k.modEng f).pairs = k.pairs := rfl
@[simp] theorem Core.modEng_cbuf (f : Engines → Engines) : (k.modEng f).cbuf = k.cbuf := rfl
@[simp] theorem Core.modEng_relFence (f : Engines → Engines) : (k.modEng f).relFence = k.relFence := rfl
@[simp] theorem Core.modEng_ats (f : Engines → Engines) : (k.modEng f).ats = k.ats := rfl
@[simp] theorem Core.modEng_shadow (f : Engines → Engines) : (k.modEng f).shadow = k.shadow := rfl
@[simp] theorem Core.modEng_stopped (f : Engines → Engines) : (k.modEng f).stopped = k.stopped := rfl
@[simp] theorem Core.modEng_lastLaunch (f : Engines → Engines) : (k.modEng f).lastLaunch = k.lastLaunch := rfl
@[simp] theorem Core.modEng_tally (f : Engines → Engines) : (k.modEng f).tally = k.tally := rfl
@[simp] theorem Core.modEng_cp (f : Engines → Engines) : (k.modEng f).cp = k.cp := rfl
@[simp] theorem Core.modEng_tier (f : Engines → Engines) : (k.modEng f).tier = k.tier := rfl
@[simp] theorem Core.modEng_tlbWaits (f : Engines → Engines) : (k.modEng f).tlbWaits = k.tlbWaits := rfl
@[simp] theorem Core.modEng_late (f : Engines → Engines) : (k.modEng f).late = k.late := rfl
@[simp] theorem Core.modEng_stepq (f : Engines → Engines) : (k.modEng f).stepq = k.stepq := rfl
@[simp] theorem Core.modEng_stepPend (f : Engines → Engines) : (k.modEng f).stepPend = k.stepPend := rfl

@[simp] theorem Core.modCp_mode (f : CopyEngine → CopyEngine) : (k.modCp f).mode = k.mode := rfl
@[simp] theorem Core.modCp_halted (f : CopyEngine → CopyEngine) : (k.modCp f).halted = k.halted := rfl
@[simp] theorem Core.modCp_bkpt (f : CopyEngine → CopyEngine) : (k.modCp f).bkpt = k.bkpt := rfl
@[simp] theorem Core.modCp_stepArm (f : CopyEngine → CopyEngine) : (k.modCp f).stepArm = k.stepArm := rfl
@[simp] theorem Core.modCp_chanHalt (f : CopyEngine → CopyEngine) : (k.modCp f).chanHalt = k.chanHalt := rfl
@[simp] theorem Core.modCp_notask (f : CopyEngine → CopyEngine) : (k.modCp f).notask = k.notask := rfl
@[simp] theorem Core.modCp_ctx (f : CopyEngine → CopyEngine) : (k.modCp f).ctx = k.ctx := rfl
@[simp] theorem Core.modCp_running (f : CopyEngine → CopyEngine) : (k.modCp f).running = k.running := rfl
@[simp] theorem Core.modCp_pc (f : CopyEngine → CopyEngine) : (k.modCp f).pc = k.pc := rfl
@[simp] theorem Core.modCp_regs (f : CopyEngine → CopyEngine) : (k.modCp f).regs = k.regs := rfl
@[simp] theorem Core.modCp_ctl (f : CopyEngine → CopyEngine) : (k.modCp f).ctl = k.ctl := rfl
@[simp] theorem Core.modCp_seq (f : CopyEngine → CopyEngine) : (k.modCp f).seq = k.seq := rfl
@[simp] theorem Core.modCp_pipe (f : CopyEngine → CopyEngine) : (k.modCp f).pipe = k.pipe := rfl
@[simp] theorem Core.modCp_eng (f : CopyEngine → CopyEngine) : (k.modCp f).eng = k.eng := rfl
@[simp] theorem Core.modCp_vrf (f : CopyEngine → CopyEngine) : (k.modCp f).vrf = k.vrf := rfl
@[simp] theorem Core.modCp_absent (f : CopyEngine → CopyEngine) : (k.modCp f).absent = k.absent := rfl
@[simp] theorem Core.modCp_claims (f : CopyEngine → CopyEngine) : (k.modCp f).claims = k.claims := rfl
@[simp] theorem Core.modCp_soft (f : CopyEngine → CopyEngine) : (k.modCp f).soft = k.soft := rfl
@[simp] theorem Core.modCp_softAcc (f : CopyEngine → CopyEngine) : (k.modCp f).softAcc = k.softAcc := rfl
@[simp] theorem Core.modCp_accw (f : CopyEngine → CopyEngine) : (k.modCp f).accw = k.accw := rfl
@[simp] theorem Core.modCp_slots (f : CopyEngine → CopyEngine) : (k.modCp f).slots = k.slots := rfl
@[simp] theorem Core.modCp_slotAsks (f : CopyEngine → CopyEngine) : (k.modCp f).slotAsks = k.slotAsks := rfl
@[simp] theorem Core.modCp_bufs (f : CopyEngine → CopyEngine) : (k.modCp f).bufs = k.bufs := rfl
@[simp] theorem Core.modCp_pairs (f : CopyEngine → CopyEngine) : (k.modCp f).pairs = k.pairs := rfl
@[simp] theorem Core.modCp_cbuf (f : CopyEngine → CopyEngine) : (k.modCp f).cbuf = k.cbuf := rfl
@[simp] theorem Core.modCp_relFence (f : CopyEngine → CopyEngine) : (k.modCp f).relFence = k.relFence := rfl
@[simp] theorem Core.modCp_ats (f : CopyEngine → CopyEngine) : (k.modCp f).ats = k.ats := rfl
@[simp] theorem Core.modCp_shadow (f : CopyEngine → CopyEngine) : (k.modCp f).shadow = k.shadow := rfl
@[simp] theorem Core.modCp_stopped (f : CopyEngine → CopyEngine) : (k.modCp f).stopped = k.stopped := rfl
@[simp] theorem Core.modCp_lastLaunch (f : CopyEngine → CopyEngine) : (k.modCp f).lastLaunch = k.lastLaunch := rfl
@[simp] theorem Core.modCp_tally (f : CopyEngine → CopyEngine) : (k.modCp f).tally = k.tally := rfl
@[simp] theorem Core.modCp_cp (f : CopyEngine → CopyEngine) : (k.modCp f).cp = f k.cp := rfl
@[simp] theorem Core.modCp_tier (f : CopyEngine → CopyEngine) : (k.modCp f).tier = k.tier := rfl
@[simp] theorem Core.modCp_tlbWaits (f : CopyEngine → CopyEngine) : (k.modCp f).tlbWaits = k.tlbWaits := rfl
@[simp] theorem Core.modCp_late (f : CopyEngine → CopyEngine) : (k.modCp f).late = k.late := rfl
@[simp] theorem Core.modCp_stepq (f : CopyEngine → CopyEngine) : (k.modCp f).stepq = k.stepq := rfl
@[simp] theorem Core.modCp_stepPend (f : CopyEngine → CopyEngine) : (k.modCp f).stepPend = k.stepPend := rfl

@[simp] theorem Core.setPc_mode (a : Nat) : (k.setPc a).mode = k.mode := rfl
@[simp] theorem Core.setPc_halted (a : Nat) : (k.setPc a).halted = k.halted := rfl
@[simp] theorem Core.setPc_bkpt (a : Nat) : (k.setPc a).bkpt = k.bkpt := rfl
@[simp] theorem Core.setPc_stepArm (a : Nat) : (k.setPc a).stepArm = k.stepArm := rfl
@[simp] theorem Core.setPc_chanHalt (a : Nat) : (k.setPc a).chanHalt = k.chanHalt := rfl
@[simp] theorem Core.setPc_notask (a : Nat) : (k.setPc a).notask = k.notask := rfl
@[simp] theorem Core.setPc_ctx (a : Nat) : (k.setPc a).ctx = k.ctx := rfl
@[simp] theorem Core.setPc_running (a : Nat) : (k.setPc a).running = k.running := rfl
@[simp] theorem Core.setPc_pc (a : Nat) : (k.setPc a).pc = BitVec.ofNat 46 (a / 32) := rfl
@[simp] theorem Core.setPc_regs (a : Nat) : (k.setPc a).regs = k.regs := rfl
@[simp] theorem Core.setPc_ctl (a : Nat) : (k.setPc a).ctl = k.ctl := rfl
@[simp] theorem Core.setPc_seq (a : Nat) : (k.setPc a).seq = k.seq := rfl
@[simp] theorem Core.setPc_pipe (a : Nat) : (k.setPc a).pipe = k.pipe := rfl
@[simp] theorem Core.setPc_eng (a : Nat) : (k.setPc a).eng = k.eng := rfl
@[simp] theorem Core.setPc_vrf (a : Nat) : (k.setPc a).vrf = k.vrf := rfl
@[simp] theorem Core.setPc_absent (a : Nat) : (k.setPc a).absent = k.absent := rfl
@[simp] theorem Core.setPc_claims (a : Nat) : (k.setPc a).claims = k.claims := rfl
@[simp] theorem Core.setPc_soft (a : Nat) : (k.setPc a).soft = k.soft := rfl
@[simp] theorem Core.setPc_softAcc (a : Nat) : (k.setPc a).softAcc = k.softAcc := rfl
@[simp] theorem Core.setPc_accw (a : Nat) : (k.setPc a).accw = k.accw := rfl
@[simp] theorem Core.setPc_slots (a : Nat) : (k.setPc a).slots = k.slots := rfl
@[simp] theorem Core.setPc_slotAsks (a : Nat) : (k.setPc a).slotAsks = k.slotAsks := rfl
@[simp] theorem Core.setPc_bufs (a : Nat) : (k.setPc a).bufs = k.bufs := rfl
@[simp] theorem Core.setPc_pairs (a : Nat) : (k.setPc a).pairs = k.pairs := rfl
@[simp] theorem Core.setPc_cbuf (a : Nat) : (k.setPc a).cbuf = k.cbuf := rfl
@[simp] theorem Core.setPc_relFence (a : Nat) : (k.setPc a).relFence = k.relFence := rfl
@[simp] theorem Core.setPc_ats (a : Nat) : (k.setPc a).ats = k.ats := rfl
@[simp] theorem Core.setPc_shadow (a : Nat) : (k.setPc a).shadow = k.shadow := rfl
@[simp] theorem Core.setPc_stopped (a : Nat) : (k.setPc a).stopped = k.stopped := rfl
@[simp] theorem Core.setPc_lastLaunch (a : Nat) : (k.setPc a).lastLaunch = k.lastLaunch := rfl
@[simp] theorem Core.setPc_tally (a : Nat) : (k.setPc a).tally = k.tally := rfl
@[simp] theorem Core.setPc_cp (a : Nat) : (k.setPc a).cp = k.cp := rfl
@[simp] theorem Core.setPc_tier (a : Nat) : (k.setPc a).tier = k.tier := rfl
@[simp] theorem Core.setPc_tlbWaits (a : Nat) : (k.setPc a).tlbWaits = k.tlbWaits := rfl
@[simp] theorem Core.setPc_late (a : Nat) : (k.setPc a).late = k.late := rfl
@[simp] theorem Core.setPc_stepq (a : Nat) : (k.setPc a).stepq = k.stepq := rfl
@[simp] theorem Core.setPc_stepPend (a : Nat) : (k.setPc a).stepPend = k.stepPend := rfl

@[simp] theorem Core.setLine_mode (ln : Nat) (v : Line) : (k.setLine ln v).mode = k.mode := rfl
@[simp] theorem Core.setLine_halted (ln : Nat) (v : Line) : (k.setLine ln v).halted = k.halted := rfl
@[simp] theorem Core.setLine_bkpt (ln : Nat) (v : Line) : (k.setLine ln v).bkpt = k.bkpt := rfl
@[simp] theorem Core.setLine_stepArm (ln : Nat) (v : Line) : (k.setLine ln v).stepArm = k.stepArm := rfl
@[simp] theorem Core.setLine_chanHalt (ln : Nat) (v : Line) : (k.setLine ln v).chanHalt = k.chanHalt := rfl
@[simp] theorem Core.setLine_notask (ln : Nat) (v : Line) : (k.setLine ln v).notask = k.notask := rfl
@[simp] theorem Core.setLine_ctx (ln : Nat) (v : Line) : (k.setLine ln v).ctx = k.ctx := rfl
@[simp] theorem Core.setLine_running (ln : Nat) (v : Line) : (k.setLine ln v).running = k.running := rfl
@[simp] theorem Core.setLine_pc (ln : Nat) (v : Line) : (k.setLine ln v).pc = k.pc := rfl
@[simp] theorem Core.setLine_regs (ln : Nat) (v : Line) : (k.setLine ln v).regs = k.regs := rfl
@[simp] theorem Core.setLine_ctl (ln : Nat) (v : Line) : (k.setLine ln v).ctl = k.ctl := rfl
@[simp] theorem Core.setLine_seq (ln : Nat) (v : Line) : (k.setLine ln v).seq = k.seq := rfl
@[simp] theorem Core.setLine_pipe (ln : Nat) (v : Line) : (k.setLine ln v).pipe = k.pipe := rfl
@[simp] theorem Core.setLine_eng (ln : Nat) (v : Line) : (k.setLine ln v).eng = k.eng := rfl
@[simp] theorem Core.setLine_vrf (ln : Nat) (v : Line) : (k.setLine ln v).vrf = Tab.put 0 k.vrf ln v := rfl
@[simp] theorem Core.setLine_absent (ln : Nat) (v : Line) : (k.setLine ln v).absent = k.absent := rfl
@[simp] theorem Core.setLine_claims (ln : Nat) (v : Line) : (k.setLine ln v).claims = k.claims := rfl
@[simp] theorem Core.setLine_soft (ln : Nat) (v : Line) : (k.setLine ln v).soft = k.soft.filter (· ≠ ln) := rfl
@[simp] theorem Core.setLine_softAcc (ln : Nat) (v : Line) : (k.setLine ln v).softAcc = k.softAcc := rfl
@[simp] theorem Core.setLine_accw (ln : Nat) (v : Line) : (k.setLine ln v).accw = k.accw := rfl
@[simp] theorem Core.setLine_slots (ln : Nat) (v : Line) : (k.setLine ln v).slots = k.slots := rfl
@[simp] theorem Core.setLine_slotAsks (ln : Nat) (v : Line) : (k.setLine ln v).slotAsks = k.slotAsks := rfl
@[simp] theorem Core.setLine_bufs (ln : Nat) (v : Line) : (k.setLine ln v).bufs = k.bufs := rfl
@[simp] theorem Core.setLine_pairs (ln : Nat) (v : Line) : (k.setLine ln v).pairs = k.pairs := rfl
@[simp] theorem Core.setLine_cbuf (ln : Nat) (v : Line) : (k.setLine ln v).cbuf = k.cbuf := rfl
@[simp] theorem Core.setLine_relFence (ln : Nat) (v : Line) : (k.setLine ln v).relFence = k.relFence := rfl
@[simp] theorem Core.setLine_ats (ln : Nat) (v : Line) : (k.setLine ln v).ats = k.ats := rfl
@[simp] theorem Core.setLine_shadow (ln : Nat) (v : Line) : (k.setLine ln v).shadow = k.shadow := rfl
@[simp] theorem Core.setLine_stopped (ln : Nat) (v : Line) : (k.setLine ln v).stopped = k.stopped := rfl
@[simp] theorem Core.setLine_lastLaunch (ln : Nat) (v : Line) : (k.setLine ln v).lastLaunch = k.lastLaunch := rfl
@[simp] theorem Core.setLine_tally (ln : Nat) (v : Line) : (k.setLine ln v).tally = k.tally := rfl
@[simp] theorem Core.setLine_cp (ln : Nat) (v : Line) : (k.setLine ln v).cp = k.cp := rfl
@[simp] theorem Core.setLine_tier (ln : Nat) (v : Line) : (k.setLine ln v).tier = k.tier := rfl
@[simp] theorem Core.setLine_tlbWaits (ln : Nat) (v : Line) : (k.setLine ln v).tlbWaits = k.tlbWaits := rfl
@[simp] theorem Core.setLine_late (ln : Nat) (v : Line) : (k.setLine ln v).late = k.late := rfl
@[simp] theorem Core.setLine_stepq (ln : Nat) (v : Line) : (k.setLine ln v).stepq = k.stepq := rfl
@[simp] theorem Core.setLine_stepPend (ln : Nat) (v : Line) : (k.setLine ln v).stepPend = k.stepPend := rfl

@[simp] theorem Core.setAcc_mode (t i : Nat) (v : Acc40) : (k.setAcc t i v).mode = k.mode := rfl
@[simp] theorem Core.setAcc_halted (t i : Nat) (v : Acc40) : (k.setAcc t i v).halted = k.halted := rfl
@[simp] theorem Core.setAcc_bkpt (t i : Nat) (v : Acc40) : (k.setAcc t i v).bkpt = k.bkpt := rfl
@[simp] theorem Core.setAcc_stepArm (t i : Nat) (v : Acc40) : (k.setAcc t i v).stepArm = k.stepArm := rfl
@[simp] theorem Core.setAcc_chanHalt (t i : Nat) (v : Acc40) : (k.setAcc t i v).chanHalt = k.chanHalt := rfl
@[simp] theorem Core.setAcc_notask (t i : Nat) (v : Acc40) : (k.setAcc t i v).notask = k.notask := rfl
@[simp] theorem Core.setAcc_ctx (t i : Nat) (v : Acc40) : (k.setAcc t i v).ctx = k.ctx := rfl
@[simp] theorem Core.setAcc_running (t i : Nat) (v : Acc40) : (k.setAcc t i v).running = k.running := rfl
@[simp] theorem Core.setAcc_pc (t i : Nat) (v : Acc40) : (k.setAcc t i v).pc = k.pc := rfl
@[simp] theorem Core.setAcc_regs (t i : Nat) (v : Acc40) : (k.setAcc t i v).regs = k.regs := rfl
@[simp] theorem Core.setAcc_ctl (t i : Nat) (v : Acc40) : (k.setAcc t i v).ctl = k.ctl := rfl
@[simp] theorem Core.setAcc_seq (t i : Nat) (v : Acc40) : (k.setAcc t i v).seq = k.seq := rfl
@[simp] theorem Core.setAcc_pipe (t i : Nat) (v : Acc40) : (k.setAcc t i v).pipe = k.pipe := rfl
@[simp] theorem Core.setAcc_eng (t i : Nat) (v : Acc40) : (k.setAcc t i v).eng = k.eng := rfl
@[simp] theorem Core.setAcc_vrf (t i : Nat) (v : Acc40) : (k.setAcc t i v).vrf = k.vrf := rfl
@[simp] theorem Core.setAcc_absent (t i : Nat) (v : Acc40) : (k.setAcc t i v).absent = k.absent := rfl
@[simp] theorem Core.setAcc_claims (t i : Nat) (v : Acc40) : (k.setAcc t i v).claims = k.claims := rfl
@[simp] theorem Core.setAcc_soft (t i : Nat) (v : Acc40) : (k.setAcc t i v).soft = k.soft := rfl
@[simp] theorem Core.setAcc_softAcc (t i : Nat) (v : Acc40) : (k.setAcc t i v).softAcc = k.softAcc.filter (· ≠ t * 4096 + i) := rfl
@[simp] theorem Core.setAcc_accw (t i : Nat) (v : Acc40) : (k.setAcc t i v).accw = Tab.put 0 k.accw (t * 4096 + i) v := rfl
@[simp] theorem Core.setAcc_slots (t i : Nat) (v : Acc40) : (k.setAcc t i v).slots = k.slots := rfl
@[simp] theorem Core.setAcc_slotAsks (t i : Nat) (v : Acc40) : (k.setAcc t i v).slotAsks = k.slotAsks := rfl
@[simp] theorem Core.setAcc_bufs (t i : Nat) (v : Acc40) : (k.setAcc t i v).bufs = k.bufs := rfl
@[simp] theorem Core.setAcc_pairs (t i : Nat) (v : Acc40) : (k.setAcc t i v).pairs = k.pairs := rfl
@[simp] theorem Core.setAcc_cbuf (t i : Nat) (v : Acc40) : (k.setAcc t i v).cbuf = k.cbuf := rfl
@[simp] theorem Core.setAcc_relFence (t i : Nat) (v : Acc40) : (k.setAcc t i v).relFence = k.relFence := rfl
@[simp] theorem Core.setAcc_ats (t i : Nat) (v : Acc40) : (k.setAcc t i v).ats = k.ats := rfl
@[simp] theorem Core.setAcc_shadow (t i : Nat) (v : Acc40) : (k.setAcc t i v).shadow = k.shadow := rfl
@[simp] theorem Core.setAcc_stopped (t i : Nat) (v : Acc40) : (k.setAcc t i v).stopped = k.stopped := rfl
@[simp] theorem Core.setAcc_lastLaunch (t i : Nat) (v : Acc40) : (k.setAcc t i v).lastLaunch = k.lastLaunch := rfl
@[simp] theorem Core.setAcc_tally (t i : Nat) (v : Acc40) : (k.setAcc t i v).tally = k.tally := rfl
@[simp] theorem Core.setAcc_cp (t i : Nat) (v : Acc40) : (k.setAcc t i v).cp = k.cp := rfl
@[simp] theorem Core.setAcc_tier (t i : Nat) (v : Acc40) : (k.setAcc t i v).tier = k.tier := rfl
@[simp] theorem Core.setAcc_tlbWaits (t i : Nat) (v : Acc40) : (k.setAcc t i v).tlbWaits = k.tlbWaits := rfl
@[simp] theorem Core.setAcc_late (t i : Nat) (v : Acc40) : (k.setAcc t i v).late = k.late := rfl
@[simp] theorem Core.setAcc_stepq (t i : Nat) (v : Acc40) : (k.setAcc t i v).stepq = k.stepq := rfl
@[simp] theorem Core.setAcc_stepPend (t i : Nat) (v : Acc40) : (k.setAcc t i v).stepPend = k.stepPend := rfl

end

/-! ### The working machine -/

section
variable (w : W)

@[simp] theorem W.modCore_clk (c : Nat) (f : Core → Core) : (w.modCore c f).clk = w.clk := rfl
@[simp] theorem W.modCore_clocks (c : Nat) (f : Core → Core) : (w.modCore c f).clocks = w.clocks := rfl
@[simp] theorem W.modCore_edges (c : Nat) (f : Core → Core) : (w.modCore c f).edges = w.edges := rfl
@[simp] theorem W.modCore_ts (c : Nat) (f : Core → Core) : (w.modCore c f).ts = w.ts := rfl
@[simp] theorem W.modCore_tsFrac (c : Nat) (f : Core → Core) : (w.modCore c f).tsFrac = w.tsFrac := rfl
@[simp] theorem W.modCore_mem (c : Nat) (f : Core → Core) : (w.modCore c f).mem = w.mem := rfl
@[simp] theorem W.modCore_cores (c : Nat) (f : Core → Core) : (w.modCore c f).cores = Tab.set w.cores c (f (w.core c)) := rfl
@[simp] theorem W.modCore_dies (c : Nat) (f : Core → Core) : (w.modCore c f).dies = w.dies := rfl
@[simp] theorem W.modCore_pkg (c : Nat) (f : Core → Core) : (w.modCore c f).pkg = w.pkg := rfl
@[simp] theorem W.modCore_agenda (c : Nat) (f : Core → Core) : (w.modCore c f).agenda = w.agenda := rfl
@[simp] theorem W.modCore_focus (c : Nat) (f : Core → Core) : (w.modCore c f).focus = w.focus := rfl
@[simp] theorem W.modCore_todo (c : Nat) (f : Core → Core) : (w.modCore c f).todo = w.todo := rfl
@[simp] theorem W.modCore_agents (c : Nat) (f : Core → Core) : (w.modCore c f).agents = w.agents := rfl
@[simp] theorem W.modCore_laid (c : Nat) (f : Core → Core) : (w.modCore c f).laid = w.laid := rfl
@[simp] theorem W.modCore_free (c : Nat) (f : Core → Core) : (w.modCore c f).free = w.free := rfl
@[simp] theorem W.modCore_count (c : Nat) (f : Core → Core) : (w.modCore c f).count = w.count := rfl
@[simp] theorem W.modCore_out (c : Nat) (f : Core → Core) : (w.modCore c f).out = w.out := rfl
@[simp] theorem W.modCore_zeroed (c : Nat) (f : Core → Core) : (w.modCore c f).zeroed = w.zeroed := rfl
@[simp] theorem W.modCore_took (c : Nat) (f : Core → Core) : (w.modCore c f).took = w.took := rfl
@[simp] theorem W.modCore_bad (c : Nat) (f : Core → Core) : (w.modCore c f).bad = w.bad := rfl

@[simp] theorem W.modDie_clk (d : Nat) (f : Die → Die) : (w.modDie d f).clk = w.clk := rfl
@[simp] theorem W.modDie_clocks (d : Nat) (f : Die → Die) : (w.modDie d f).clocks = w.clocks := rfl
@[simp] theorem W.modDie_edges (d : Nat) (f : Die → Die) : (w.modDie d f).edges = w.edges := rfl
@[simp] theorem W.modDie_ts (d : Nat) (f : Die → Die) : (w.modDie d f).ts = w.ts := rfl
@[simp] theorem W.modDie_tsFrac (d : Nat) (f : Die → Die) : (w.modDie d f).tsFrac = w.tsFrac := rfl
@[simp] theorem W.modDie_mem (d : Nat) (f : Die → Die) : (w.modDie d f).mem = w.mem := rfl
@[simp] theorem W.modDie_cores (d : Nat) (f : Die → Die) : (w.modDie d f).cores = w.cores := rfl
@[simp] theorem W.modDie_dies (d : Nat) (f : Die → Die) : (w.modDie d f).dies = Tab.set w.dies d (f (w.die d)) := rfl
@[simp] theorem W.modDie_pkg (d : Nat) (f : Die → Die) : (w.modDie d f).pkg = w.pkg := rfl
@[simp] theorem W.modDie_agenda (d : Nat) (f : Die → Die) : (w.modDie d f).agenda = w.agenda := rfl
@[simp] theorem W.modDie_focus (d : Nat) (f : Die → Die) : (w.modDie d f).focus = w.focus := rfl
@[simp] theorem W.modDie_todo (d : Nat) (f : Die → Die) : (w.modDie d f).todo = w.todo := rfl
@[simp] theorem W.modDie_agents (d : Nat) (f : Die → Die) : (w.modDie d f).agents = w.agents := rfl
@[simp] theorem W.modDie_laid (d : Nat) (f : Die → Die) : (w.modDie d f).laid = w.laid := rfl
@[simp] theorem W.modDie_free (d : Nat) (f : Die → Die) : (w.modDie d f).free = w.free := rfl
@[simp] theorem W.modDie_count (d : Nat) (f : Die → Die) : (w.modDie d f).count = w.count := rfl
@[simp] theorem W.modDie_out (d : Nat) (f : Die → Die) : (w.modDie d f).out = w.out := rfl
@[simp] theorem W.modDie_zeroed (d : Nat) (f : Die → Die) : (w.modDie d f).zeroed = w.zeroed := rfl
@[simp] theorem W.modDie_took (d : Nat) (f : Die → Die) : (w.modDie d f).took = w.took := rfl
@[simp] theorem W.modDie_bad (d : Nat) (f : Die → Die) : (w.modDie d f).bad = w.bad := rfl

@[simp] theorem W.modPkg_clk (f : Pkg → Pkg) : (w.modPkg f).clk = w.clk := rfl
@[simp] theorem W.modPkg_clocks (f : Pkg → Pkg) : (w.modPkg f).clocks = w.clocks := rfl
@[simp] theorem W.modPkg_edges (f : Pkg → Pkg) : (w.modPkg f).edges = w.edges := rfl
@[simp] theorem W.modPkg_ts (f : Pkg → Pkg) : (w.modPkg f).ts = w.ts := rfl
@[simp] theorem W.modPkg_tsFrac (f : Pkg → Pkg) : (w.modPkg f).tsFrac = w.tsFrac := rfl
@[simp] theorem W.modPkg_mem (f : Pkg → Pkg) : (w.modPkg f).mem = w.mem := rfl
@[simp] theorem W.modPkg_cores (f : Pkg → Pkg) : (w.modPkg f).cores = w.cores := rfl
@[simp] theorem W.modPkg_dies (f : Pkg → Pkg) : (w.modPkg f).dies = w.dies := rfl
@[simp] theorem W.modPkg_pkg (f : Pkg → Pkg) : (w.modPkg f).pkg = f w.pkg := rfl
@[simp] theorem W.modPkg_agenda (f : Pkg → Pkg) : (w.modPkg f).agenda = w.agenda := rfl
@[simp] theorem W.modPkg_focus (f : Pkg → Pkg) : (w.modPkg f).focus = w.focus := rfl
@[simp] theorem W.modPkg_todo (f : Pkg → Pkg) : (w.modPkg f).todo = w.todo := rfl
@[simp] theorem W.modPkg_agents (f : Pkg → Pkg) : (w.modPkg f).agents = w.agents := rfl
@[simp] theorem W.modPkg_laid (f : Pkg → Pkg) : (w.modPkg f).laid = w.laid := rfl
@[simp] theorem W.modPkg_free (f : Pkg → Pkg) : (w.modPkg f).free = w.free := rfl
@[simp] theorem W.modPkg_count (f : Pkg → Pkg) : (w.modPkg f).count = w.count := rfl
@[simp] theorem W.modPkg_out (f : Pkg → Pkg) : (w.modPkg f).out = w.out := rfl
@[simp] theorem W.modPkg_zeroed (f : Pkg → Pkg) : (w.modPkg f).zeroed = w.zeroed := rfl
@[simp] theorem W.modPkg_took (f : Pkg → Pkg) : (w.modPkg f).took = w.took := rfl
@[simp] theorem W.modPkg_bad (f : Pkg → Pkg) : (w.modPkg f).bad = w.bad := rfl

end

section
variable (s : State)

@[simp] theorem W.of_clk : (W.of s).clk = s.clk := rfl
@[simp] theorem W.of_clocks : (W.of s).clocks = s.clocks := rfl
@[simp] theorem W.of_edges : (W.of s).edges = s.edges := rfl
@[simp] theorem W.of_ts : (W.of s).ts = s.ts := rfl
@[simp] theorem W.of_tsFrac : (W.of s).tsFrac = s.tsFrac := rfl
@[simp] theorem W.of_mem : (W.of s).mem = s.mem := rfl
@[simp] theorem W.of_cores : (W.of s).cores = s.cores := rfl
@[simp] theorem W.of_dies : (W.of s).dies = s.dies := rfl
@[simp] theorem W.of_pkg : (W.of s).pkg = s.pkg := rfl
@[simp] theorem W.of_agenda : (W.of s).agenda = s.agenda := rfl
@[simp] theorem W.of_focus : (W.of s).focus = s.focus := rfl
@[simp] theorem W.of_todo : (W.of s).todo = s.todo := rfl
@[simp] theorem W.of_agents : (W.of s).agents = s.agents := rfl
@[simp] theorem W.of_laid : (W.of s).laid = s.laid := rfl
@[simp] theorem W.of_free : (W.of s).free = s.free := rfl
@[simp] theorem W.of_count : (W.of s).count = s.count := rfl
@[simp] theorem W.of_out : (W.of s).out = [] := rfl
@[simp] theorem W.of_zeroed : (W.of s).zeroed = [] := rfl
@[simp] theorem W.of_took : (W.of s).took = [] := rfl
@[simp] theorem W.of_bad : (W.of s).bad = [] := rfl
@[simp] theorem W.of_toState : (W.of s).toState = s := rfl
end

section
variable (w : W) (s : State)

@[simp] theorem W.commit_clk : (w.commit s).clk = w.clk := rfl
@[simp] theorem W.commit_clocks : (w.commit s).clocks = w.clocks := rfl
@[simp] theorem W.commit_edges : (w.commit s).edges = w.edges := rfl
@[simp] theorem W.commit_ts : (w.commit s).ts = w.ts := rfl
@[simp] theorem W.commit_tsFrac : (w.commit s).tsFrac = w.tsFrac := rfl
@[simp] theorem W.commit_cores : (w.commit s).cores = w.cores := rfl
@[simp] theorem W.commit_dies : (w.commit s).dies = w.dies := rfl
@[simp] theorem W.commit_pkg : (w.commit s).pkg = w.pkg := rfl
@[simp] theorem W.commit_agenda : (w.commit s).agenda = w.agenda := rfl
@[simp] theorem W.commit_focus : (w.commit s).focus = w.focus := rfl
@[simp] theorem W.commit_todo : (w.commit s).todo = w.todo := rfl
@[simp] theorem W.commit_agents : (w.commit s).agents = w.agents := rfl
@[simp] theorem W.commit_laid : (w.commit s).laid = w.laid := rfl
@[simp] theorem W.commit_free : (w.commit s).free = w.free := rfl
@[simp] theorem W.commit_count : (w.commit s).count = w.count := rfl
end

end Sys2Proof.Machine
end

