-- ==== Sys2Proof/Laws/Tab.lean ====
section
/-!
SUPPORT. What a sparse table reads as after an update, and that `put` keeps the canonical form.
-/

namespace Sys2Proof.Machine

section
variable {α : Type} (d : α)

@[simp] theorem Tab.get_nil (k : Nat) : Tab.get d [] k = d := rfl

@[simp] theorem Tab.get_set_same (t : Tab α) (k : Nat) (v : α) : Tab.get d (Tab.set t k v) k = v := by
  induction t with
  | nil => simp [Tab.set, Tab.get]
  | cons e t ih => obtain ⟨j, x⟩ := e; simp only [Tab.set]; split <;> [simp [Tab.get]; split] <;> simp_all [Tab.get]; omega

theorem Tab.get_set_ne (t : Tab α) {j k : Nat} (v : α) (h : j ≠ k) : Tab.get d (Tab.set t k v) j = Tab.get d t j := by
  induction t with
  | nil => simp [Tab.set, Tab.get, Ne.symm h]
  | cons e t ih =>
    obtain ⟨i, x⟩ := e
    simp only [Tab.set]
    split
    · simp [Tab.get, Ne.symm h]
    · split
      · subst_vars; simp [Tab.get, Ne.symm h]
      · simp [Tab.get, ih]

theorem Tab.get_set (t : Tab α) (j k : Nat) (v : α) :
    Tab.get d (Tab.set t k v) j = if j = k then v else Tab.get d t j := by
  split
  · subst_vars; simp
  · exact Tab.get_set_ne d t v ‹_›

@[simp] theorem Tab.set_set (t : Tab α) (k : Nat) (u v : α) : Tab.set (Tab.set t k u) k v = Tab.set t k v := by
  induction t with
  | nil => simp [Tab.set]
  | cons e t ih =>
    obtain ⟨i, x⟩ := e
    simp only [Tab.set]
    split
    · simp [Tab.set]
    · split
      · simp [Tab.set]
      · simp [Tab.set, *]

@[simp] theorem Tab.get_erase_same (t : Tab α) (k : Nat) : Tab.get d (Tab.erase t k) k = d := by
  induction t with
  | nil => rfl
  | cons e t ih =>
    obtain ⟨j, x⟩ := e
    by_cases h : j = k <;> simp_all [Tab.erase, Tab.get]

theorem Tab.get_erase_ne (t : Tab α) {j k : Nat} (h : j ≠ k) : Tab.get d (Tab.erase t k) j = Tab.get d t j := by
  induction t with
  | nil => rfl
  | cons e t ih =>
    obtain ⟨i, x⟩ := e
    by_cases hi : i = k
    · subst hi; simpa [Tab.erase, Tab.get, List.filter_cons, Ne.symm h] using ih
    · simp only [Tab.erase, List.filter_cons, ne_eq, hi, not_false_eq_true, decide_true, if_true, Tab.get]
      rw [← ih]; rfl

end

section
variable {α : Type} [DecidableEq α] (d : α)

/-- A read after a put: the value put, or what was there. -/
theorem Tab.get_put (t : Tab α) (j k : Nat) (v : α) :
    Tab.get d (Tab.put d t k v) j = if j = k then v else Tab.get d t j := by
  unfold Tab.put
  by_cases hv : v = d <;> by_cases hj : j = k <;> simp_all [Tab.get_set, Tab.get_erase_ne]

@[simp] theorem Tab.get_put_same (t : Tab α) (k : Nat) (v : α) : Tab.get d (Tab.put d t k v) k = v := by
  simp [Tab.get_put]

theorem Tab.get_put_ne (t : Tab α) {j k : Nat} (v : α) (h : j ≠ k) : Tab.get d (Tab.put d t k v) j = Tab.get d t j := by
  simp [Tab.get_put, h]

theorem Tab.wfFrom_mono {lo hi : Nat} (t : Tab α) (h : lo ≤ hi) (w : Tab.wfFrom d hi t = true) : Tab.wfFrom d lo t = true := by
  cases t with
  | nil => rfl
  | cons e t => obtain ⟨k, v⟩ := e; simp_all [Tab.wfFrom]; omega

theorem Tab.wfFrom_filter (p : Nat × α → Bool) (t : Tab α) :
    ∀ lo, Tab.wfFrom d lo t = true → Tab.wfFrom d lo (t.filter p) = true := by
  induction t with
  | nil => intro lo _; rfl
  | cons e t ih =>
    obtain ⟨k, v⟩ := e
    intro lo w
    simp only [Tab.wfFrom, Bool.and_eq_true, decide_eq_true_eq] at w
    by_cases hp : p (k, v) = true
    · simp [hp, Tab.wfFrom, w.1.1, w.1.2, ih _ w.2]
    · simp only [List.filter_cons, hp]
      exact Tab.wfFrom_mono d _ (by omega) (ih _ w.2)

theorem Tab.wfFrom_set {v : α} (hv : v ≠ d) (k : Nat) (t : Tab α) :
    ∀ lo, lo ≤ k → Tab.wfFrom d lo t = true → Tab.wfFrom d lo (Tab.set t k v) = true := by
  induction t with
  | nil => intro lo h _; simp [Tab.set, Tab.wfFrom, h, hv]
  | cons e t ih =>
    obtain ⟨j, x⟩ := e
    intro lo h w
    simp only [Tab.wfFrom, Bool.and_eq_true, decide_eq_true_eq] at w
    simp only [Tab.set]
    split
    · simp only [Tab.wfFrom, Bool.and_eq_true, decide_eq_true_eq]
      exact ⟨⟨h, hv⟩, ⟨by omega, w.1.2⟩, w.2⟩
    · split
      · subst_vars
        simp only [Tab.wfFrom, Bool.and_eq_true, decide_eq_true_eq]
        exact ⟨⟨h, hv⟩, w.2⟩
      · simp only [Tab.wfFrom, Bool.and_eq_true, decide_eq_true_eq]
        exact ⟨w.1, ih _ (by omega) w.2⟩

/-- A put keeps the canonical form. -/
theorem Tab.wf_put (t : Tab α) (k : Nat) (v : α) (w : Tab.wf d t = true) : Tab.wf d (Tab.put d t k v) = true := by
  unfold Tab.wf Tab.put at *
  split
  · exact Tab.wfFrom_filter d _ t 0 w
  · exact Tab.wfFrom_set d ‹_› k t 0 (Nat.zero_le k) w

/-- Leaving entries out keeps the canonical form. -/
theorem Tab.wf_filter (p : Nat × α → Bool) (t : Tab α) (w : Tab.wf d t = true) : Tab.wf d (t.filter p) = true :=
  Tab.wfFrom_filter d p t 0 w

end

end Sys2Proof.Machine
end

