-- ==== Sys2Proof/Laws/Mem.lean ====
section
/-!
SUPPORT. HBM: every operation over memory keeps the canonical form; what a byte reads as after a write; what a committed step
leaves of the memory.
-/

namespace Sys2Proof.Machine

/-- A byte read after a byte was put. -/
theorem Mem.get_put (m : List Host.Cell) (a b : Nat) (v : Byte) :
    Mem.get (Mem.put m a v) b = if b = a ∧ a < Config.hbmBytes then v else Mem.get m b := by
  unfold Mem.put Mem.get
  by_cases h : a < Config.hbmBytes <;> simp [h, Tab.get_put]

theorem Mem.wf_put (m : List Host.Cell) (a : Nat) (v : Byte) (w : Mem.wf m = true) : Mem.wf (Mem.put m a v) = true := by
  unfold Mem.put
  split
  · rename_i h
    simp only [Mem.wf, Bool.and_eq_true, List.all_eq_true, decide_eq_true_eq] at *
    refine ⟨Tab.wf_put _ _ _ _ w.1, fun e he => ?_⟩
    unfold Tab.put at he
    split at he
    · exact w.2 e (List.mem_filter.mp he).1
    · have : ∀ t : List Host.Cell, e ∈ Tab.set t a v → e ∈ t ∨ e = (a, v) := by
        intro t
        induction t with
        | nil => simp [Tab.set]
        | cons x t ih =>
          obtain ⟨j, y⟩ := x
          simp only [Tab.set]
          split
          · simp; tauto
          · split
            · simp; tauto
            · simp only [List.mem_cons]; tauto
      rcases this m he with h' | rfl
      · exact w.2 e h'
      · exact h
  · exact w

theorem Mem.wf_writes (l : List Host.Cell) : ∀ m, Mem.wf m = true → Mem.wf (Mem.writes m l) = true := by
  induction l with
  | nil => intro m w; exact w
  | cons e l ih => intro m w; exact ih _ (Mem.wf_put m e.1 e.2 w)

theorem Mem.wf_clear (m : List Host.Cell) (a n : Nat) (w : Mem.wf m = true) : Mem.wf (Mem.clear m a n) = true := by
  simp only [Mem.wf, Mem.clear, Bool.and_eq_true, List.all_eq_true, decide_eq_true_eq] at *
  exact ⟨Tab.wf_filter _ _ _ w.1, fun e he => w.2 e (List.mem_filter.mp he).1⟩

/-- A step that commits keeps memory canonical, whatever its working copy is. -/
theorem W.wf_commit (w : W) (s : State) (h : Mem.wf s.mem = true) : Mem.wf (w.commit s).mem = true := by
  refine Mem.wf_writes _ _ ?_
  induction w.zeroed with
  | nil => exact h
  | cons r l ih => exact Mem.wf_clear _ _ _ ih

theorem go_wf {w : W} {s t : State} (h : Mem.wf s.mem = true) (e : go s w = .next t) : Mem.wf t.mem = true := by
  simp only [go, Host.Outcome.next.injEq] at e
  exact e ▸ w.wf_commit s h

/-- A working copy that has written and zeroed nothing leaves memory as it was. -/
theorem W.commit_mem_same (w : W) (s : State) (h : w.out = []) (z : w.zeroed = []) : (w.commit s).mem = s.mem := by
  simp [W.commit, h, z, Mem.writes]

theorem W.commit_eq (w : W) (s : State) (h : w.out = []) (z : w.zeroed = []) : w.commit s = { w.toState with mem := s.mem } := by
  simp [W.commit, h, z, Mem.writes]

end Sys2Proof.Machine
end

