-- ==== Sys2Proof/Laws/Core.lean ====
section
/-!
SUPPORT. Cores and dies read after one of them was changed; two changes of one core are one change.
-/

namespace Sys2Proof.Machine

section
variable (w : W) (c : Nat)

@[simp] theorem W.core_modCore_same (f : Core → Core) : (w.modCore c f).core c = f (w.core c) := by
  simp [State.core]
theorem W.core_modCore_ne {d : Nat} (f : Core → Core) (h : d ≠ c) : (w.modCore c f).core d = w.core d := by
  simp [State.core, Tab.get_set_ne, h]
theorem W.core_modCore (d : Nat) (f : Core → Core) :
    (w.modCore c f).core d = if d = c then f (w.core c) else w.core d := by
  split
  · subst_vars; simp
  · exact W.core_modCore_ne w c f ‹_›
@[simp] theorem W.die_modCore (d : Nat) (f : Core → Core) : (w.modCore c f).die d = w.die d := rfl
@[simp] theorem W.core_modDie (d : Nat) (f : Die → Die) : (w.modDie d f).core c = w.core c := rfl
@[simp] theorem W.die_modDie_same (d : Nat) (f : Die → Die) : (w.modDie d f).die d = f (w.die d) := by
  simp [State.die]
theorem W.die_modDie_ne {d e : Nat} (f : Die → Die) (h : e ≠ d) : (w.modDie d f).die e = w.die e := by
  simp [State.die, Tab.get_set_ne, h]
@[simp] theorem W.core_modPkg (f : Pkg → Pkg) : (w.modPkg f).core c = w.core c := rfl
@[simp] theorem W.die_modPkg (d : Nat) (f : Pkg → Pkg) : (w.modPkg f).die d = w.die d := rfl

@[simp] theorem W.modCore_modCore (f g : Core → Core) : (w.modCore c f).modCore c g = w.modCore c fun k => g (f k) := by
  rw [W.modCore, W.core_modCore_same]
  simp [W.modCore]

theorem W.modCore_congr {f g : Core → Core} (h : f (w.core c) = g (w.core c)) : w.modCore c f = w.modCore c g := by
  simp [W.modCore, h]

@[simp] theorem W.of_core (s : State) : (W.of s).core c = s.core c := rfl
@[simp] theorem W.of_die (s : State) (d : Nat) : (W.of s).die d = s.die d := rfl

/-- One core changed and committed. -/
theorem W.commit_modCore (s : State) (f : Core → Core) :
    ((W.of s).modCore c f).commit s = { s with cores := Tab.set s.cores c (f (s.core c)) } := by
  rw [W.commit_eq] <;> rfl
end

/-- A core of a state in which one core was replaced. -/
@[simp] theorem State.core_set_same (s : State) (c : Nat) (k : Core) :
    State.core { s with cores := Tab.set s.cores c k } c = k := by simp [State.core]
theorem State.core_set_ne (s : State) {c d : Nat} (k : Core) (h : d ≠ c) :
    State.core { s with cores := Tab.set s.cores c k } d = s.core d := by simp [State.core, Tab.get_set_ne, h]

end Sys2Proof.Machine
end

