-- ==== Sys2Proof/Laws/Decode.lean ====
section
/-!
SUPPORT. The fields of an encoded slot word, and the slots of a bundle that holds one slot alone (01 R10..R12).
-/

namespace Sys2Proof

section
variable (g m : BitVec 4) (d s : BitVec 12)

theorem getLsbD_moveWord (i : Nat) : (moveWord g d s m).getLsbD i =
    if i < 4 then m.getLsbD i else if i < 16 then s.getLsbD (i - 4) else if i < 28 then d.getLsbD (i - 16)
    else g.getLsbD (i - 28) := by
  show (((g ++ d : BitVec (4 + 12)) ++ s : BitVec (4 + 12 + 12)) ++ m : BitVec (4 + 12 + 12 + 4)).getLsbD i = _
  rw [BitVec.getLsbD_append, BitVec.getLsbD_append, BitVec.getLsbD_append]
  by_cases h : i < 4
  · simp [h]
  · by_cases h2 : i < 16
    · simp [h, h2, show i - 4 < 12 by omega]
    · by_cases h3 : i < 28
      · simp [h, h2, h3, show ¬ i - 4 < 12 by omega, show i - 16 < 12 by omega, show i - 4 - 12 = i - 16 by omega]
      · simp [h, h2, h3, show ¬ i - 4 < 12 by omega, show ¬ i - 4 - 12 < 12 by omega,
          show i - 4 - 12 - 12 = i - 28 by omega]

@[simp] theorem slotG_moveWord : slotG (moveWord g d s m) = g := by
  apply BitVec.eq_of_getLsbD_eq; intro i hi
  simp [slotG, getLsbD_moveWord, hi, show ¬ 28 + i < 4 by omega, show ¬ 28 + i < 16 by omega]
@[simp] theorem slotD_moveWord : slotD (moveWord g d s m) = d := by
  apply BitVec.eq_of_getLsbD_eq; intro i hi
  simp [slotD, getLsbD_moveWord, hi, show ¬ 16 + i < 4 by omega, show 16 + i < 28 by omega]
@[simp] theorem slotS_moveWord : slotS (moveWord g d s m) = s := by
  apply BitVec.eq_of_getLsbD_eq; intro i hi
  simp [slotS, getLsbD_moveWord, hi, show 4 + i < 16 by omega]
@[simp] theorem slotM_moveWord : slotM (moveWord g d s m) = m := by
  apply BitVec.eq_of_getLsbD_eq; intro i hi
  simp [slotM, getLsbD_moveWord, hi]
end

section
variable (e : BitVec 4) (o : BitVec 6) (x : BitVec 22)

theorem getLsbD_controlWord (i : Nat) : (controlWord e o x).getLsbD i =
    if i < 22 then x.getLsbD i else if i < 28 then o.getLsbD (i - 22) else e.getLsbD (i - 28) := by
  show ((e ++ o : BitVec (4 + 6)) ++ x : BitVec (4 + 6 + 22)).getLsbD i = _
  rw [BitVec.getLsbD_append, BitVec.getLsbD_append]
  by_cases h : i < 22
  · simp [h]
  · by_cases h2 : i < 28
    · simp [h, h2, show i - 22 < 6 by omega]
    · simp [h, h2, show ¬ i - 22 < 6 by omega, show i - 22 - 6 = i - 28 by omega]

@[simp] theorem ctlE_controlWord : ctlE (controlWord e o x) = e := by
  apply BitVec.eq_of_getLsbD_eq; intro i hi
  simp [ctlE, getLsbD_controlWord, hi, show ¬ 28 + i < 22 by omega]
@[simp] theorem ctlOpc_controlWord : ctlOpc (controlWord e o x) = o := by
  apply BitVec.eq_of_getLsbD_eq; intro i hi
  simp [ctlOpc, getLsbD_controlWord, hi, show 22 + i < 28 by omega]
@[simp] theorem ctlOpd_controlWord : ctlOpd (controlWord e o x) = x := by
  apply BitVec.eq_of_getLsbD_eq; intro i hi
  simp [ctlOpd, getLsbD_controlWord, hi]
end

section
variable (w : BitVec 32)

@[simp] theorem bundleSlot_control (k : Nat) :
    bundleSlot (Encoded.control w).bundle k = if k = 0 then w else 0 := by
  apply BitVec.eq_of_getLsbD_eq; intro i hi
  have e : (bundleSlot (Encoded.control w).bundle k).getLsbD i = (decide (32 * k + i < 256) && w.getLsbD (32 * k + i)) := by
    simp [bundleSlot, Encoded.bundle, hi]
  rw [e]
  by_cases h : k = 0
  · subst h; simp [show i < 256 by omega]
  · rw [if_neg h, BitVec.getLsbD_of_ge w _ (by omega)]; simp

@[simp] theorem bundleSlot_moveSlot (k : Nat) :
    bundleSlot (Encoded.moveSlot w).bundle k = if k = 1 then w else 0 := by
  apply BitVec.eq_of_getLsbD_eq; intro i hi
  have e : (bundleSlot (Encoded.moveSlot w).bundle k).getLsbD i =
      (decide (32 * k + i < 256) && !decide (32 * k + i < 32) && w.getLsbD (32 * k + i - 32)) := by
    simp only [bundleSlot, Encoded.bundle, BitVec.getLsbD_extractLsb', hi, decide_true, Bool.true_and,
      BitVec.getLsbD_shiftLeft, BitVec.truncate_eq_setWidth, BitVec.getLsbD_setWidth]
    by_cases h : 32 * k + i < 256 <;> simp [h]
    simp [show 32 * k + i - 32 < 256 by omega]
  rw [e]
  by_cases h : k = 1
  · subst h; simp; omega
  · rw [if_neg h]
    by_cases h0 : 32 * k + i < 32
    · simp [h0]
    · rw [BitVec.getLsbD_of_ge w _ (by omega)]; simp
end

end Sys2Proof
end

