-- ==== Sys2Proof/Laws/Issue.lean ====
section
/-!
SUPPORT. What the issue of a bundle that holds one slot alone does (log 6): one lemma for a control operation, one for a
trigger, one for a plain move, one for a slot whose guard is false.
-/

namespace Sys2Proof.Machine

/-! ### The bundle of one slot -/

theorem range7 : (List.range 7).map (fun i => i + 1) = [1, 2, 3, 4, 5, 6, 7] := rfl

theorem Bundle.ofBits_control (pc : Nat) (w : BitVec 32) :
    Bundle.ofBits pc (Encoded.control w).bundle =
      { bpc := pc, moves := [], ctl := w, ctlIt := 0, ctlPc := pc, cls := (ctlE w).toNat, inBody := false
        img := (Encoded.control w).bundle } := by
  simp [Bundle.ofBits, List.range, List.range.loop]

/-- The bundle of one move slot. -/
def oneMove (pc : Nat) (w : BitVec 32) : Bundle :=
  { bpc := pc, moves := [{ slot := 1, w := w, it := 0 }], ctl := 0#32, ctlIt := 0, ctlPc := pc, cls := 0, inBody := false
    img := (Encoded.moveSlot w).bundle }

theorem Bundle.ofBits_moveSlot (pc : Nat) {w : BitVec 32} (h : w ≠ 0) :
    Bundle.ofBits pc (Encoded.moveSlot w).bundle = oneMove pc w := by
  simp [Bundle.ofBits, oneMove, List.range, List.range.loop, List.filter_cons, ctlE]
  simpa using h

/-! ### A control operation alone -/

/-- What a control operation alone knows. -/
def ctlCtx (s : State) (w : BitVec 32) : CCtx :=
  { c := s.focus, word := w, pre := s, env := s.env s.focus, bpc := s.now.pcAddr, inBody := false, it := 0, ctlw := none
    seq := s.now.pipe.seq }

/-- The working copy that a control operation alone acts on. -/
def ctlStart (s : State) (w : BitVec 32) : W := (W.of s).modCore s.focus (Core.nextAfter w)

/-- Only FENCE leaves a release fence. -/
theorem fenceAfter_other {w : BitVec 32} (h : ctlOpc w ≠ 0x0e) (old : Option Nat) : fenceAfter w old = old :=
  if_neg fun h' => h h'.1
theorem fenceAfter_zero (old : Option Nat) : fenceAfter 0#32 old = old := fenceAfter_other (by decide) old
theorem Core.nextAfter_other {w : BitVec 32} (h : ctlOpc w ≠ 0x0e) (k : Core) : k.nextAfter w = k.nextBundle := by
  simp [Core.nextAfter, fenceAfter_other h, Core.nextBundle, Core.setPc, Core.modCtl]

theorem tryBundle_control (s : State) (w : BitVec 32) (b : BitVec 256) (tbl : Nat → TrigFn) (cf : CtlFn)
    (bd : Bundle) (hb : bd = { bpc := s.now.pcAddr, moves := [], ctl := w, ctlIt := 0, ctlPc := s.now.pcAddr
                               cls := (ctlE w).toNat, inBody := false, img := b }) :
    tryBundle s.focus bd tbl cf (W.of s) =
      Work.join { w := ctlStart s w } (cf (ctlCtx s w) (ctlStart s w)) := by
  subst hb
  have ha : acqTouches (s.env s.focus) (s.core s.focus).regs [] = false := rfl
  have h0 (seq : Nat) : ctlBase s.focus { bpc := s.now.pcAddr, moves := [], ctl := w, ctlIt := 0, ctlPc := s.now.pcAddr
                                          cls := (ctlE w).toNat, inBody := false, img := b } s seq
      = { ctlCtx s w with seq := seq } := rfl
  have hw : (W.of s).modCore s.focus (Core.succeed
      { bpc := s.now.pcAddr, moves := [], ctl := w, ctlIt := 0, ctlPc := s.now.pcAddr
        cls := (ctlE w).toNat, inBody := false, img := b }) = ctlStart s w := W.modCore_congr _ _ rfl
  have hs : ((ctlStart s w).core s.focus).pipe.seq = s.now.pipe.seq := by simp [ctlStart, Core.nextAfter, Core.nextBundle]
  simp [tryBundle, runBundle, Work.start, Bundle.acqHeld, decodeCauses, ha, runMoves, runTrigs, h0, hw, hs, Work.room, ctlCtx]

theorem firstCause_one (x : Cause) : firstCause [x] = some x := by
  by_cases h : x.code ≤ 3 <;> simp [firstCause, h]
@[simp] theorem Bundle.decodeFirst_nil (b : Bundle) : b.decodeFirst [] = none := rfl
/-- One cause alone is found as the bundle is decoded, or as it commits. -/
theorem Bundle.decodeFirst_one (b : Bundle) (x : Cause) :
    b.decodeFirst [x] = if x.code ≤ 3 ∧ lateTarget b x = false then some x else none := by
  by_cases h : x.code ≤ 3 <;> cases h2 : lateTarget b x <;> simp [Bundle.decodeFirst, h, h2, firstCause]
@[simp] theorem W.slewLeft_nil (w : W) (c : Nat) : w.slewLeft c [] [] = w := rfl

theorem CanIssue.runs {s : State} {n : Nat} (h : CanIssue s n) : (s.core s.focus).runs = true := h.1

/-- A control operation alone that takes effect. -/
theorem issueOne_control {s : State} {w : BitVec 32} {tbl : Nat → TrigFn} {cf : CtlFn} {w' : W}
    (h : CanIssue s (ctlE w).toNat) (hk : cf (ctlCtx s w) (ctlStart s w) = .ok w') :
    issueOne (Encoded.control w).bundle tbl cf s =
      w'.modCore s.focus fun k => k.cycled s.clk (s.now.weight (ctlE w).toNat) := by
  obtain ⟨h1, h2, h3, h4, h5⟩ := h
  simp only [State.now] at h1 h2 h3 h4 h5
  have hc : (W.of s).clk = s.clk := rfl
  simp only [issueOne, W.of_core, h1, if_true, Bundle.ofBits_control, issue, Bundle.passed, h4, hc, h2, h3, h5,
    Bool.false_eq_true, if_false, Nat.lt_irrefl]
  rw [tryBundle_control s w _ tbl cf _ rfl, hk]
  simp [Work.join, firstCause, State.now, Core.cycled]

/-- A control operation alone that raises a precise trap. -/
theorem issueOne_control_trap {s : State} {w : BitVec 32} {tbl : Nat → TrigFn} {cf : CtlFn} {x : Cause}
    (h : CanIssue s (ctlE w).toNat) (hk : cf (ctlCtx s w) (ctlStart s w) = .trap x) :
    (issueOne (Encoded.control w).bundle tbl cf s).commit s = trapped s (Encoded.control w).bundle x := by
  obtain ⟨h1, h2, h3, h4, h5⟩ := h
  have hc : (W.of s).clk = s.clk := rfl
  simp only [issueOne, W.of_core, h1, if_true, trapped, Bundle.ofBits_control, issue, Bundle.passed, h4, hc, h2, h3, h5,
    Bool.false_eq_true, if_false, Nat.lt_irrefl]
  rw [tryBundle_control s w _ tbl cf _ rfl, hk]
  simp only [Work.join, Work.fault, List.nil_append, Bundle.decodeFirst_one, firstCause_one]
  split <;> simp_all

/-- A control operation alone that passes a wait cycle. -/
theorem issueOne_control_wait {s : State} {w : BitVec 32} {tbl : Nat → TrigFn} {cf : CtlFn}
    (h : CanIssue s (ctlE w).toNat) (hk : cf (ctlCtx s w) (ctlStart s w) = .wait) :
    (issueOne (Encoded.control w).bundle tbl cf s).commit s = waited s := by
  obtain ⟨h1, h2, h3, h4, h5⟩ := h
  have hc : (W.of s).clk = s.clk := rfl
  simp only [issueOne, W.of_core, h1, if_true, Bundle.ofBits_control, issue, Bundle.passed, h4, hc, h2, h3, h5,
    Bool.false_eq_true, if_false, Nat.lt_irrefl]
  rw [tryBundle_control s w _ tbl cf _ rfl, hk]
  simp [Work.join, W.waitCycle, W.commit_modCore, waited, Core.waited]

/-- A control operation alone that holds, the watchdog's limit not reached. -/
theorem issueOne_control_hold {s : State} {w : BitVec 32} {tbl : Nat → TrigFn} {cf : CtlFn} {r : Nat}
    (h : CanIssue s (ctlE w).toNat) (hl : s.now.pipe.held < bits s.now.ctl.wdg 0 32)
    (hk : cf (ctlCtx s w) (ctlStart s w) = .hold r none) :
    (issueOne (Encoded.control w).bundle tbl cf s).commit s = heldFor s r := by
  obtain ⟨h1, h2, h3, h4, h5⟩ := h
  have hc : (W.of s).clk = s.clk := rfl
  simp only [issueOne, W.of_core, h1, if_true, Bundle.ofBits_control, issue, Bundle.passed, h4, hc, h2, h3, h5,
    Bool.false_eq_true, if_false, Nat.lt_irrefl]
  rw [tryBundle_control s w _ tbl cf _ rfl, hk]
  simp [Work.join, W.holdOr, Nat.not_le.mpr hl, W.heldCycle, W.commit_modCore, heldFor, Core.heldFor, ctlStart]

/-! ### A trigger alone -/

/-- What a trigger alone knows. -/
def trigCtx (s : State) (id : Nat) (m : BitVec 4) (v : Line) : TCtx :=
  { c := s.focus, id := id, slot := 1, m := m, val := trigValue id v, pre := s, env := s.env s.focus
    seq := s.now.pipe.seq, bpc := s.now.pcAddr, dmx := 0, dxb := 0, dst := 0 }

/-- The working copy that a trigger alone acts on. -/
def trigStart (s : State) (src : Src) : W := (W.of s).modCore s.focus fun k => k.fired src

theorem destOf_trigger {ver d : Nat} (h : trigPort d = true) (hv : canonId ver d = some d) :
    destOf ver d = some (.trigger d) := by
  have hr : 0x101 ≤ d ∧ d ≤ 0x905 := by
    simp [trigPort, trigRanges] at h
    omega
  have h1 : ¬ d < 0x40 := by omega
  have h2 : ¬ d < 0x80 := by omega
  have h3 : ¬ d < 0x88 := by omega
  have h4 : ¬ d < 0x90 := by omega
  have h5 : ¬ 0xF00 ≤ d := by omega
  simp [destOf, h1, h2, h3, h4, h5, hv, h]

theorem lineCheck_none {s : State} {c : Nat} {e : Env} {fr : Bool} {sl id sl' id' ln : Nat}
    (h : lineCheck s c e fr sl id ln = none) : lineCheck s c e fr sl' id' ln = none := by
  unfold lineCheck at *
  repeat' split at h
  all_goals simp_all

/-- Which slot or id reads a line does not matter to a line that may be read and is whole. -/
theorem readCheck_none {s : State} {c : Nat} {e : Env} {fr : Bool} {sl id sl' id' ln : Nat}
    (h : readCheck s c e fr sl id ln = none) : readCheck s c e fr sl' id' ln = none := by
  rw [readCheck, Option.or_eq_none_iff] at h ⊢
  refine ⟨lineCheck_none h.1, ?_⟩
  have := h.2
  unfold softCheck at this ⊢
  split at this <;> simp_all

theorem readSrc_plain {c : Nat} {pre : State} {e : Env} {b : Bundle} {sl : SlotWork} {src : Src} {v : Line}
    (hb : b.inBody = false) (h : readSrc c pre e plainBundle plainSlot src = .ok v) : readSrc c pre e b sl src = .ok v := by
  have hp : plainBundle.inBody = false := rfl
  cases src <;> simp only [readSrc, hb, hp, windowLine, Bool.false_eq_true, if_false] at h ⊢ <;> try exact h
  · split at h
    · cases h
    · rename_i hl; rw [readCheck_none hl]; exact h
  · split at h
    · cases h
    · split at h
      · cases h
      · split at h
        · cases h
        · split at h
          · cases h
          · rename_i h1 h2 h3 _ hl
            rw [if_neg h1, if_neg h2, if_neg h3, readCheck_none hl]
            exact h

theorem advanceSrc_modCore (c : Nat) (src : Src) (w : W) (f : Core → Core) :
    (advanceSrc c src w).modCore c f = w.modCore c fun k => f (k.took src) := by
  cases src <;> simp [advanceSrc, Core.took]

theorem moveIllegal_trigger {e : Env} {g m : BitVec 4} {d sid : BitVec 12} {src : Src}
    (hd : trigPort d.toNat = true) (hv : canonId e.ver d.toNat = some d.toNat) (hs : srcOf e.ver sid.toNat = some src) (hm : ctlModifier d.toNat m = false)
    (hp : needsPriv d.toNat = true → e.priv = true) (ht : needsTier d.toNat = true → e.tier = true) :
    moveIllegal e { slot := 1, w := moveWord g d sid m, it := 0 } = none := by
  simp only [moveIllegal, slotD_moveWord, slotS_moveWord, slotM_moveWord, destOf_trigger hd hv, hs, hm]
  rw [if_neg Bool.false_ne_true, if_neg]
  simp only [Bool.not_eq_true']
  rintro (⟨h1, h2⟩ | ⟨h1, h2⟩)
  · simp [hp h1] at h2
  · simp [ht h1] at h2

theorem slotConflict_one (ver : Nat) (x : SlotWork) : slotConflict ver [x] x = none := by
  simp [slotConflict]

theorem Core.took_regs (k : Core) (src : Src) : (k.took src).regs = k.regs := by cases src <;> rfl
theorem Core.took_pcAddr (k : Core) (src : Src) : (k.took src).pcAddr = k.pcAddr := by cases src <;> rfl
theorem Core.took_pipe (k : Core) (src : Src) : (k.took src).pipe = k.pipe := by cases src <;> rfl

theorem ctlCause_zero (ver : Nat) (h : Bool) : ctlCause ver h false 0#32 = none := by
  simp [ctlCause, decodeControl, ctlOpc, ctlOpd, ctlE, fieldCause]

/-- CNOP in the control slot of a bundle in range goes on to the next bundle. -/
theorem ctlNop_zero {t : CCtx} {w : W} (hw : t.word = 0#32) (hb : t.inBody = false)
    (hr : t.env.lo ≤ t.bpc + 32 ∧ t.bpc + 32 < t.env.hi) : ctlNop t w = .ok w := by
  simp [ctlNop, checked, hw, hb, ctlCause_zero, CCtx.fall, hr]

/-- The bundle of one trigger that fires, tried: what the trigger answers decides, and the room in the replay queue. -/
theorem tryBundle_trigger {s : State} {g m : BitVec 4} {d sid : BitVec 12} {src : Src} {v : Line} {tf : TrigFn} (r : Res)
    (h : Fires s g sid d.toNat src v) (hd : trigPort d.toNat = true)
    (hm : ctlModifier d.toNat m = false) (hp : needsPriv d.toNat = true → (s.env s.focus).priv = true)
    (ht : needsTier d.toNat = true → (s.env s.focus).tier = true)
    (hk : tf (trigCtx s d.toNat m v) (trigStart s src) = r) :
    tryBundle s.focus (oneMove (s.core s.focus).pcAddr (moveWord g d sid m)) (fun _ => tf) ctlNop (W.of s) =
      (Work.join { w := trigStart s src } r).room s.focus true := by
  obtain ⟨-, hin, hv, hg, ⟨hs, hread⟩, hfree⟩ := h
  have hdest := destOf_trigger hd hv
  have hill := moveIllegal_trigger (g := g) (m := m) hd hv hs hm hp ht
  have hacq : (s.now.acqPending &&
      acqTouches (s.env s.focus) s.now.regs [{ slot := 1, w := moveWord g d sid m, it := 0 }]) = false := by
    cases ha : s.now.acqPending with
    | false => rfl
    | true =>
      obtain ⟨h6, h7⟩ := hfree ha
      simp only [Bool.true_and, acqTouches, List.any_cons, List.any_nil, Bool.or_false, slotG_moveWord, slotD_moveWord,
        slotS_moveWord, hdest, hs, h6, Bool.false_or, hg]
      cases src <;> simp_all
  have hdc : decodeCauses (s.env s.focus) [{ slot := 1, w := moveWord g d sid m, it := 0 }] = [] := by
    simp [decodeCauses, hill, slotConflict_one]
  have hst : Work.start s.focus (oneMove (s.core s.focus).pcAddr (moveWord g d sid m)) (W.of s) = { w := W.of s } := by
    simp only [Work.start, Bundle.acqHeld, oneMove, W.of_toState, hdc, hacq]; rfl
  have hw : ((W.of s).modCore s.focus fun k =>
        (k.took src).succeed (oneMove (s.core s.focus).pcAddr (moveWord g d sid m))).modCore s.focus
      (fun k => k.modPipe fun p => { p with seq := p.seq + 1 }) = trigStart s src := by
    rw [W.modCore_modCore]
    apply W.modCore_congr
    simp [Core.succeed, oneMove, Core.fired, Core.nextBundle, Core.took_pcAddr, fenceAfter_zero, Core.modCtl, Core.setPc, Core.modPipe]
  have hsq : (((W.of s).modCore s.focus fun k =>
      (k.took src).succeed (oneMove (s.core s.focus).pcAddr (moveWord g d sid m))).core s.focus).pipe.seq =
        s.now.pipe.seq := by
    simp [Core.succeed, oneMove, Core.took_pipe]
  have hnop (q : Nat) (x : W) :
      ctlNop (ctlBase s.focus (oneMove (s.core s.focus).pcAddr (moveWord g d sid m)) s q) x = .ok x := ctlNop_zero rfl rfl hin
  have hbase : trigBase s.focus (oneMove (s.core s.focus).pcAddr (moveWord g d sid m)) s =
      { c := s.focus, id := 0, slot := 0, m := 0, val := 0, pre := s, env := s.env s.focus, seq := 0
        bpc := (s.core s.focus).pcAddr, dmx := 0, dxb := 0, dst := 0 } := by
    simp [trigBase, oneMove, startDelays, ctlOpc]
  have hm : (oneMove (s.core s.focus).pcAddr (moveWord g d sid m)).moves =
    [{ slot := 1, w := moveWord g d sid m, it := 0 }] := rfl
  simp only [tryBundle, runBundle, Option.isSome_none, Bool.or_false, Bool.false_eq_true, if_false, W.of_toState, hst, hm, runMoves, slotG_moveWord, slotD_moveWord,
    slotS_moveWord, hg, hdest, hs, Bool.not_true, Bool.false_eq_true, if_false]
  rw [readSrc_plain (by rfl) hread]
  simp only [runTrigs, advanceSrc_modCore, slotM_moveWord, hbase, Option.getD_none]
  simp only [trigCtx, trigValue] at hk
  rw [hw, hsq, hk, hnop]
  cases r <;> rfl

/-- With room in the replay queue nothing holds. -/
theorem Work.room_eq {a : Work} {c : Nat} {b : Bool} (h : (a.w.core c).Room) : a.room c b = a := by
  have h1 : decide (48 < (a.w.core c).replayUse.1) = false := by simpa using h.1
  have h2 : decide (30 < (a.w.core c).replayUse.2) = false := by simpa using h.2
  simp only [Work.room, h1, h2, Bool.or_false, Bool.and_false, Bool.false_eq_true, if_false]

theorem moveWord_trigger {g m : BitVec 4} {d sid : BitVec 12} (hd : trigPort d.toNat = true) : moveWord g d sid m ≠ 0 := by
  intro h0
  have : slotD (moveWord g d sid m) = 0 := by rw [h0]; rfl
  rw [slotD_moveWord] at this
  rw [this] at hd
  exact absurd hd (by decide)

/-- A trigger operation alone that takes effect. -/
theorem issueOne_trigger {s : State} {g m : BitVec 4} {d sid : BitVec 12} {src : Src} {v : Line} {tf : TrigFn} {w' : W}
    (h : Fires s g sid d.toNat src v) (hd : trigPort d.toNat = true)
    (hm : ctlModifier d.toNat m = false) (hp : needsPriv d.toNat = true → (s.env s.focus).priv = true)
    (ht : needsTier d.toNat = true → (s.env s.focus).tier = true)
    (hk : tf (trigCtx s d.toNat m v) (trigStart s src) = .ok w') (hr : (w'.core s.focus).Room) :
    issueOne (Encoded.moveSlot (moveWord g d sid m)).bundle (fun _ => tf) ctlNop s =
      w'.modCore s.focus fun k => k.cycled s.clk (s.now.weight 0) := by
  have hwork := tryBundle_trigger _ h hd hm hp ht hk
  obtain ⟨⟨h1, h2, h3, h4, h5⟩, -⟩ := h
  have hc : (W.of s).clk = s.clk := rfl
  have hroom : (Work.join { w := trigStart s src } (.ok w')).room s.focus true = { w := w' } := Work.room_eq hr
  rw [hroom] at hwork
  simp only [issueOne, W.of_core, h1, if_true, Bundle.ofBits_moveSlot _ (moveWord_trigger hd), issue, Bundle.passed, h4, hc,
    h2, h3, Bool.false_eq_true, if_false, Nat.lt_irrefl, hwork]
  simp [firstCause, Core.cycled, oneMove, h5]

/-- A trigger operation alone that raises a precise trap. -/
theorem issueOne_trigger_trap {s : State} {g m : BitVec 4} {d sid : BitVec 12} {src : Src} {v : Line} {tf : TrigFn}
    {x : Cause} (h : Fires s g sid d.toNat src v) (hd : trigPort d.toNat = true)
    (hm : ctlModifier d.toNat m = false) (hp : needsPriv d.toNat = true → (s.env s.focus).priv = true)
    (ht : needsTier d.toNat = true → (s.env s.focus).tier = true)
    (hk : tf (trigCtx s d.toNat m v) (trigStart s src) = .trap x) (hr : (s.now.fired src).Room) :
    (issueOne (Encoded.moveSlot (moveWord g d sid m)).bundle (fun _ => tf) ctlNop s).commit s =
      trapped s (Encoded.moveSlot (moveWord g d sid m)).bundle x := by
  have hwork := tryBundle_trigger _ h hd hm hp ht hk
  obtain ⟨⟨h1, h2, h3, h4, h5⟩, -⟩ := h
  have hc : (W.of s).clk = s.clk := rfl
  have hr' : ((trigStart s src).core s.focus).Room := by simpa [trigStart] using hr
  have hroom : (Work.join { w := trigStart s src } (.trap x)).room s.focus true =
      { w := trigStart s src, causes := [x] } := Work.room_eq hr'
  rw [hroom] at hwork
  simp only [issueOne, W.of_core, h1, if_true, trapped, Bundle.ofBits_moveSlot _ (moveWord_trigger hd), issue,
    Bundle.passed, h4, hc, h2, h3, Bool.false_eq_true, if_false, Nat.lt_irrefl, hwork]
  simp only [Bundle.decodeFirst_one, firstCause_one, oneMove, h5]
  split <;> simp_all

/-- A trigger operation alone that holds, the watchdog's limit not reached and no slew request made. -/
theorem issueOne_trigger_hold {s : State} {g m : BitVec 4} {d sid : BitVec 12} {src : Src} {v : Line} {tf : TrigFn}
    {n : Nat} (h : Fires s g sid d.toNat src v) (hd : trigPort d.toNat = true)
    (hm : ctlModifier d.toNat m = false) (hp : needsPriv d.toNat = true → (s.env s.focus).priv = true)
    (ht : needsTier d.toNat = true → (s.env s.focus).tier = true)
    (hl : s.now.pipe.held < bits s.now.ctl.wdg 0 32)
    (hk : tf (trigCtx s d.toNat m v) (trigStart s src) = .hold n none) :
    (issueOne (Encoded.moveSlot (moveWord g d sid m)).bundle (fun _ => tf) ctlNop s).commit s = heldFor s n := by
  have hwork := tryBundle_trigger _ h hd hm hp ht hk
  obtain ⟨⟨h1, h2, h3, h4, h5⟩, -⟩ := h
  have hc : (W.of s).clk = s.clk := rfl
  have hroom : (Work.join { w := trigStart s src } (.hold n none)).room s.focus true =
      { w := trigStart s src, hold := some n } := by
    simp [Work.join, Work.room]
  rw [hroom] at hwork
  simp only [issueOne, W.of_core, h1, if_true, Bundle.ofBits_moveSlot _ (moveWord_trigger hd), issue,
    Bundle.passed, h4, hc, h2, h3, Bool.false_eq_true, if_false, Nat.lt_irrefl, hwork]
  simp [W.holdOr, Nat.not_le.mpr hl, W.heldCycle, W.commit_modCore, heldFor, Core.heldFor, trigStart]

/-- A trigger operation alone that takes effect on the issuing core only. -/
theorem execTrigger_mod {s : State} {i : Instr} {g m : BitVec 4} {d sid : BitVec 12} {src : Src} {v : Line} {tf : TrigFn}
    (f : Core → Core) (hi : encode i = some (Encoded.moveSlot (moveWord g d sid m)).bundle)
    (h : Fires s g sid d.toNat src v) (hd : trigPort d.toNat = true)
    (hm : ctlModifier d.toNat m = false) (hp : needsPriv d.toNat = true → (s.env s.focus).priv = true)
    (ht : needsTier d.toNat = true → (s.env s.focus).tier = true)
    (hk : tf (trigCtx s d.toNat m v) (trigStart s src) = .ok ((trigStart s src).modCore s.focus f))
    (hr : (f (s.now.fired src)).Room) : execTrigger i tf s = .next (issued s 0 (f (s.now.fired src))) := by
  have hr' : (((trigStart s src).modCore s.focus f).core s.focus).Room := by simpa [trigStart] using hr
  rw [execTrigger, hi, Option.getD_some, go, issueOne_trigger h hd hm hp ht hk hr', trigStart, W.modCore_modCore,
    W.modCore_modCore]
  simp [W.commit_modCore, issued]

/-! ### A plain move alone -/

/-- A move alone whose destination is no trigger and changes the issuing core by `f`. -/
theorem execMove_mod {s : State} {g m : BitVec 4} {d sid : BitVec 12} {src : Src} {v : Line} {dst : Dest} (f : Core → Core)
    (h : Fires s g sid 0 src v) (hd : destOf (s.env s.focus).ver d.toNat = some dst)
    (hn : dst ≠ .hint ∧ ∀ id, dst ≠ .trigger id) (hw0 : moveWord g d sid m ≠ 0)
    (hk : ∀ x : W, writeDest s.focus s (s.env s.focus) (oneMove s.now.pcAddr (moveWord g d sid m))
      { slot := 1, w := moveWord g d sid m, it := 0 } dst v { w := x } = { w := x.modCore s.focus f }) :
    execMove g d sid m s = .next (issued s 0
      (Core.succeed (oneMove s.now.pcAddr (moveWord g d sid m)) (f (s.now.took src)))) := by
  obtain ⟨⟨h1, h2, h3, h4, h5⟩, hin, -, hg, ⟨hs, hread⟩, hfree⟩ := h
  have hc : (W.of s).clk = s.clk := rfl
  have hill : moveIllegal (s.env s.focus) { slot := 1, w := moveWord g d sid m, it := 0 } = none := by
    simp only [moveIllegal, slotD_moveWord, slotS_moveWord, hd, hs]
    cases dst <;> simp_all
  have hacq : (s.now.acqPending &&
      acqTouches (s.env s.focus) s.now.regs [{ slot := 1, w := moveWord g d sid m, it := 0 }]) = false := by
    cases ha : s.now.acqPending with
    | false => rfl
    | true =>
      obtain ⟨-, h7⟩ := hfree ha
      simp only [Bool.true_and, acqTouches, List.any_cons, List.any_nil, Bool.or_false, slotG_moveWord, slotD_moveWord,
        slotS_moveWord, hd, hs, hg]
      cases src <;> cases dst <;> simp_all
  have hdc : decodeCauses (s.env s.focus) [{ slot := 1, w := moveWord g d sid m, it := 0 }] = [] := by
    simp [decodeCauses, hill, slotConflict_one]
  have hst : Work.start s.focus (oneMove (s.core s.focus).pcAddr (moveWord g d sid m)) (W.of s) = { w := W.of s } := by
    simp only [Work.start, Bundle.acqHeld, oneMove, W.of_toState, hdc, hacq]; rfl
  have hnop (q : Nat) (x : W) :
      ctlNop (ctlBase s.focus (oneMove (s.core s.focus).pcAddr (moveWord g d sid m)) s q) x = .ok x := ctlNop_zero rfl rfl hin
  have hm : (oneMove (s.core s.focus).pcAddr (moveWord g d sid m)).moves =
    [{ slot := 1, w := moveWord g d sid m, it := 0 }] := rfl
  have hrun (x : W) : runMoves s.focus s (s.env s.focus) (oneMove (s.core s.focus).pcAddr (moveWord g d sid m))
      [{ slot := 1, w := moveWord g d sid m, it := 0 }] { w := x } =
        ({ w := (advanceSrc s.focus src x).modCore s.focus f }, []) := by
    simp only [runMoves, slotG_moveWord, slotD_moveWord, slotS_moveWord, hg, hd, hs, Bool.not_true, Bool.false_eq_true,
      if_false]
    obtain ⟨hn1, hn2⟩ := hn
    have hr := readSrc_plain (sl := { slot := 1, w := moveWord g d sid m, it := 0 })
      (b := oneMove (s.core s.focus).pcAddr (moveWord g d sid m)) rfl hread
    cases dst with
    | hint => exact absurd rfl hn1
    | trigger id => exact absurd rfl (hn2 id)
    | _ => simp only [hr, hk]
  have hwork : tryBundle s.focus (oneMove (s.core s.focus).pcAddr (moveWord g d sid m)) noTrig ctlNop (W.of s) =
      { w := (W.of s).modCore s.focus fun k =>
          Core.succeed (oneMove (s.core s.focus).pcAddr (moveWord g d sid m)) (f (k.took src)) } := by
    simp only [tryBundle, runBundle, Option.isSome_none, Bool.or_false, Bool.false_eq_true, if_false, W.of_toState, hst, hm, hrun, runTrigs, advanceSrc_modCore]
    rw [hnop]
    simp [Work.join, Work.room]
  rw [execMove, show encode (.move g d sid m) = some (Encoded.moveSlot (moveWord g d sid m)).bundle from rfl,
    Option.getD_some, go]
  simp only [issueOne, W.of_core, h1, if_true, Bundle.ofBits_moveSlot _ hw0, issue, Bundle.passed, h4, hc, h2, h3,
    Bool.false_eq_true, if_false, Nat.lt_irrefl, hwork]
  simp [firstCause, Core.cycled, oneMove, h5, W.commit_modCore, issued]

/-- A trigger operation alone that raises a precise trap. -/
theorem execTrigger_trap {s : State} {i : Instr} {g m : BitVec 4} {d sid : BitVec 12} {src : Src} {v : Line} {tf : TrigFn}
    {x : Cause} (hi : encode i = some (Encoded.moveSlot (moveWord g d sid m)).bundle)
    (h : Fires s g sid d.toNat src v) (hd : trigPort d.toNat = true)
    (hm : ctlModifier d.toNat m = false) (hp : needsPriv d.toNat = true → (s.env s.focus).priv = true)
    (ht : needsTier d.toNat = true → (s.env s.focus).tier = true)
    (hk : tf (trigCtx s d.toNat m v) (trigStart s src) = .trap x) (hr : (s.now.fired src).Room) :
    execTrigger i tf s = .next (trapped s ((encode i).getD 0) x) := by
  rw [execTrigger, hi, Option.getD_some, go, issueOne_trigger_trap h hd hm hp ht hk hr]

/-- A trigger operation alone that takes effect, whatever it changes. -/
theorem execTrigger_ok {s : State} {i : Instr} {g m : BitVec 4} {d sid : BitVec 12} {src : Src} {v : Line} {tf : TrigFn}
    {w' : W} (hi : encode i = some (Encoded.moveSlot (moveWord g d sid m)).bundle)
    (h : Fires s g sid d.toNat src v) (hd : trigPort d.toNat = true)
    (hm : ctlModifier d.toNat m = false) (hp : needsPriv d.toNat = true → (s.env s.focus).priv = true)
    (ht : needsTier d.toNat = true → (s.env s.focus).tier = true)
    (hk : tf (trigCtx s d.toNat m v) (trigStart s src) = .ok w') (hr : (w'.core s.focus).Room) :
    execTrigger i tf s = .next ((w'.modCore s.focus fun k => k.cycled s.clk (s.now.weight 0)).commit s) := by
  rw [execTrigger, hi, Option.getD_some, go, issueOne_trigger h hd hm hp ht hk hr]

end Sys2Proof.Machine
end

