-- ==== Sys2Proof/Laws/Control.lean ====
section
/-!
SUPPORT. Every encoded control word decodes to its operation (01 R35), and the words that pass the checks of a control slot.
-/

namespace Sys2Proof

theorem and_high_zero {x k c : Nat} (h : x < 2 ^ k) : x &&& (c <<< k) = 0 := by
  apply Nat.eq_of_testBit_eq
  intro i
  by_cases hi : i < k
  · simp [Nat.testBit_shiftLeft, Nat.not_le.mpr hi]
  · simp [Nat.testBit_lt_two_pow (Nat.lt_of_lt_of_le h (Nat.pow_le_pow_right (by decide) (Nat.le_of_not_lt hi)))]

theorem and_low_zero {x k c : Nat} (h : x % 2 ^ k = 0) (hc : c < 2 ^ k) : x &&& c = 0 := by
  apply Nat.eq_of_testBit_eq
  intro i
  by_cases hi : i < k
  · have : (x % 2 ^ k).testBit i = x.testBit i := by simp [Nat.testBit_mod_two_pow, hi]
    simp [← this, h]
  · simp [Nat.testBit_lt_two_pow (Nat.lt_of_lt_of_le hc (Nat.pow_le_pow_right (by decide) (Nat.le_of_not_lt hi)))]

section
variable {a b c d : Nat} (x : BitVec a) (y : BitVec b) (z : BitVec c) (u : BitVec d)

theorem extract_hi2 : (x ++ y).extractLsb' b a = x := BitVec.extractLsb'_append_eq_left
theorem extract_lo2 : (x ++ y).extractLsb' 0 b = y := BitVec.extractLsb'_append_eq_right
theorem extract_hi3 : (x ++ y ++ z).extractLsb' (c + b) a = x := by
  rw [BitVec.extractLsb'_append_eq_of_le (Nat.le_add_right c b), Nat.add_sub_cancel_left, extract_hi2]
theorem extract_mid3 : (x ++ y ++ z).extractLsb' c b = y := by
  rw [BitVec.extractLsb'_append_eq_of_le (Nat.le_refl c), Nat.sub_self, extract_lo2]
theorem extract_lo3 : (x ++ y ++ z).extractLsb' 0 c = z := BitVec.extractLsb'_append_eq_right
theorem extract_one4 : (x ++ y ++ z ++ u).extractLsb' (d + (c + b)) a = x := by
  rw [BitVec.extractLsb'_append_eq_of_le (Nat.le_add_right d _), Nat.add_sub_cancel_left, extract_hi3]
theorem extract_two4 : (x ++ y ++ z ++ u).extractLsb' (d + c) b = y := by
  rw [BitVec.extractLsb'_append_eq_of_le (Nat.le_add_right d c), Nat.add_sub_cancel_left, extract_mid3]
theorem extract_three4 : (x ++ y ++ z ++ u).extractLsb' d c = z := by
  rw [BitVec.extractLsb'_append_eq_of_le (Nat.le_refl d), Nat.sub_self, extract_lo3]
theorem append_zero_mod : (x ++ 0#b).toNat % 2 ^ b = 0 := by
  simp [BitVec.toNat_append, Nat.shiftLeft_eq]
theorem zero_append_lt : (0#a ++ y).toNat < 2 ^ b := by simp [BitVec.toNat_append, y.isLt]
end

section
variable (e : BitVec 4)

@[simp] theorem decodeControl_cnop : decodeControl (controlWord e 0#6 0#22) = .ok (.cnop e) := by simp [decodeControl]
@[simp] theorem decodeControl_br (d : BitVec 22) : decodeControl (controlWord e 1#6 d) = .ok (.br e d) := by
  simp [decodeControl]
@[simp] theorem decodeControl_brp (v : BitVec 1) (p : BitVec 3) (d : BitVec 18) :
    decodeControl (controlWord e 2#6 (v ++ p ++ d)) = .ok (.brp e v p d) := by
  simp [decodeControl]
  exact ⟨extract_hi3 v p d, extract_mid3 v p d, extract_lo3 v p d⟩
@[simp] theorem decodeControl_call (d : BitVec 22) : decodeControl (controlWord e 3#6 d) = .ok (.call e d) := by
  simp [decodeControl]
@[simp] theorem decodeControl_ret : decodeControl (controlWord e 4#6 0#22) = .ok (.ret e) := by simp [decodeControl]
@[simp] theorem decodeControl_jr (n : BitVec 6) :
    decodeControl (controlWord e 5#6 (0#16 ++ n)) = .ok (.jr e n) := by
  have h : @BitVec.toNat 22 (0#16 ++ n) &&& 4194240 = 0 := and_high_zero (c := 0xffff) (zero_append_lt n)
  simp [decodeControl, h]
  exact extract_lo2 0#16 n
@[simp] theorem decodeControl_loopm (l t n : BitVec 6) :
    decodeControl (controlWord e 6#6 (l ++ t ++ n ++ 0#4)) = .ok (.loopm e l t n) := by
  have h : @BitVec.toNat 22 (l ++ t ++ n ++ 0#4) &&& 15 = 0 :=
    and_low_zero (k := 4) (append_zero_mod (l ++ t ++ n)) (by decide)
  simp [decodeControl, h]
  exact ⟨extract_one4 l t n 0#4, extract_two4 l t n 0#4, extract_three4 l t n 0#4⟩
@[simp] theorem decodeControl_loopx : decodeControl (controlWord e 7#6 0#22) = .ok (.loopx e) := by simp [decodeControl]
@[simp] theorem decodeControl_lit (v : BitVec 22) : decodeControl (controlWord e 8#6 v) = .ok (.lit e v) := by
  simp [decodeControl]
@[simp] theorem decodeControl_lith (v : BitVec 22) : decodeControl (controlWord e 9#6 v) = .ok (.lith e v) := by
  simp [decodeControl]
@[simp] theorem decodeControl_setfmt (f : BitVec 12) :
    decodeControl (controlWord e 10#6 (0#10 ++ f)) = .ok (.setfmt e f) := by
  have h : @BitVec.toNat 22 (0#10 ++ f) &&& 4190208 = 0 := and_high_zero (c := 0x3ff) (zero_append_lt f)
  simp [decodeControl, h]
  exact extract_lo2 0#10 f
@[simp] theorem decodeControl_setwin (r : BitVec 7) (b : BitVec 15) :
    decodeControl (controlWord e 11#6 (r ++ b)) = .ok (.setwin e r b) := by
  simp [decodeControl]
  exact ⟨extract_hi2 r b, extract_lo2 r b⟩
@[simp] theorem decodeControl_start (x y z : BitVec 6) :
    decodeControl (controlWord e 12#6 (x ++ y ++ z ++ 0#4)) = .ok (.start e x y z) := by
  have h : @BitVec.toNat 22 (x ++ y ++ z ++ 0#4) &&& 15 = 0 :=
    and_low_zero (k := 4) (append_zero_mod (x ++ y ++ z)) (by decide)
  simp [decodeControl, h]
  exact ⟨extract_one4 x y z 0#4, extract_two4 x y z 0#4, extract_three4 x y z 0#4⟩
@[simp] theorem decodeControl_waite (m : BitVec 8) :
    decodeControl (controlWord e 13#6 (0#14 ++ m)) = .ok (.waite e m) := by
  have h : @BitVec.toNat 22 (0#14 ++ m) &&& 4194048 = 0 := and_high_zero (c := 0x3fff) (zero_append_lt m)
  simp [decodeControl, h]
  exact extract_lo2 0#14 m
@[simp] theorem decodeControl_fence (s k : BitVec 3) :
    decodeControl (controlWord e 14#6 (s ++ k ++ 0#16)) = .ok (.fence e s k) := by
  have h : @BitVec.toNat 22 (s ++ k ++ 0#16) &&& 65535 = 0 :=
    and_low_zero (k := 16) (append_zero_mod (s ++ k)) (by decide)
  simp [decodeControl, h]
  exact ⟨extract_hi3 s k 0#16, extract_mid3 s k 0#16⟩
@[simp] theorem decodeControl_suspend (k : BitVec 4) (n : BitVec 6) (d : BitVec 12) :
    decodeControl (controlWord e 15#6 (k ++ n ++ d)) = .ok (.suspend e k n d) := by
  simp [decodeControl]
  exact ⟨extract_hi3 k n d, extract_mid3 k n d, extract_lo3 k n d⟩
@[simp] theorem decodeControl_yield : decodeControl (controlWord e 16#6 0#22) = .ok (.yield e) := by simp [decodeControl]
@[simp] theorem decodeControl_trap (c : BitVec 16) :
    decodeControl (controlWord e 17#6 (0#6 ++ c)) = .ok (.trap e c) := by
  have h : @BitVec.toNat 22 (0#6 ++ c) &&& 4128768 = 0 := and_high_zero (c := 0x3f) (zero_append_lt c)
  simp [decodeControl, h]
  exact extract_lo2 0#6 c
@[simp] theorem decodeControl_rtrap : decodeControl (controlWord e 18#6 0#22) = .ok (.rtrap e) := by simp [decodeControl]
@[simp] theorem decodeControl_bkpt : decodeControl (controlWord e 19#6 0#22) = .ok (.bkpt e) := by simp [decodeControl]
@[simp] theorem decodeControl_chint (h : BitVec 4) (v : BitVec 22) :
    decodeControl (controlWord e (3#2 ++ h) v) = .ok (.chint e h v) := by
  have h1 : 48 ≤ @BitVec.toNat 6 (3#2 ++ h) := by
    show 48 ≤ (3#2 ++ h).toNat
    have := BitVec.toNat_append (3#2) h
    rw [this]
    exact Nat.le_trans (by decide) (Nat.left_le_or (n := (3#2).toNat <<< 4) (m := h.toNat))
  simp [decodeControl, h1]
  exact extract_lo2 3#2 h
end

namespace Machine

/-- A control operation alone that takes effect on the issuing core only. -/
theorem execControl_ok {s : State} {i : Instr} {e : BitVec 4} {o : BitVec 6} {x : BitVec 22} {cf : CtlFn} {w : W} {k : Core}
    (hi : encode i = some (Encoded.control (controlWord e o x)).bundle) (h : CanIssue s e.toNat)
    (hk : cf (ctlCtx s (controlWord e o x)) (ctlStart s (controlWord e o x)) = .ok w) (hw : w = (W.of s).modCore s.focus fun _ => k) :
    execControl i cf s = .next (issued s e.toNat k) := by
  rw [execControl, hi, Option.getD_some, go, issueOne_control (by simpa using h) hk, hw]
  simp [W.commit_modCore, issued]

/-- A control operation alone that changes the issuing core by `f`. -/
theorem execControl_mod {s : State} {i : Instr} {e : BitVec 4} {o : BitVec 6} {x : BitVec 22} {cf : CtlFn} (f : Core → Core)
    (hi : encode i = some (Encoded.control (controlWord e o x)).bundle) (h : CanIssue s e.toNat)
    (hk : cf (ctlCtx s (controlWord e o x)) (ctlStart s (controlWord e o x)) = .ok ((ctlStart s (controlWord e o x)).modCore s.focus f)) :
    execControl i cf s = .next (issued s e.toNat (f (s.now.nextAfter (controlWord e o x)))) := by
  refine execControl_ok hi h hk ?_
  rw [ctlStart, W.modCore_modCore]; exact W.modCore_congr _ _ rfl

/-- A control operation alone that raises a precise trap. -/
theorem execControl_trap {s : State} {i : Instr} {e : BitVec 4} {o : BitVec 6} {x : BitVec 22} {cf : CtlFn} {c : Cause}
    (hi : encode i = some (Encoded.control (controlWord e o x)).bundle) (h : CanIssue s e.toNat)
    (hk : cf (ctlCtx s (controlWord e o x)) (ctlStart s (controlWord e o x)) = .trap c) :
    execControl i cf s = .next (trapped s ((encode i).getD 0) c) := by
  rw [execControl, hi, Option.getD_some, go, issueOne_control_trap (by simpa using h) hk]

/-- A control operation alone that passes a wait cycle. -/
theorem execControl_wait {s : State} {i : Instr} {e : BitVec 4} {o : BitVec 6} {x : BitVec 22} {cf : CtlFn}
    (hi : encode i = some (Encoded.control (controlWord e o x)).bundle) (h : CanIssue s e.toNat)
    (hk : cf (ctlCtx s (controlWord e o x)) (ctlStart s (controlWord e o x)) = .wait) : execControl i cf s = .next (waited s) := by
  rw [execControl, hi, Option.getD_some, go, issueOne_control_wait (by simpa using h) hk]

section
variable (s : State) (w : BitVec 32)
@[simp] theorem ctlCtx_word : (ctlCtx s w).word = w := rfl
@[simp] theorem ctlCtx_c : (ctlCtx s w).c = s.focus := rfl
@[simp] theorem ctlCtx_pre : (ctlCtx s w).pre = s := rfl
@[simp] theorem ctlCtx_env : (ctlCtx s w).env = s.env s.focus := rfl
@[simp] theorem ctlCtx_bpc : (ctlCtx s w).bpc = s.now.pcAddr := rfl
@[simp] theorem ctlCtx_k : (ctlCtx s w).k = s.now := rfl
@[simp] theorem ctlCtx_inBody : (ctlCtx s w).inBody = false := rfl
@[simp] theorem ctlCtx_ctlw : (ctlCtx s w).ctlw = none := rfl
@[simp] theorem ctlCtx_it : (ctlCtx s w).it = 0 := rfl
@[simp] theorem ctlCtx_handler : (ctlCtx s w).handler = decide (s.now.mode = .handler) := rfl
end

/-- A control word whose checks pass has its effect. -/
theorem checked_ok {f : CtlFn} {s : State} {w : BitVec 32} {v : W} {i : Instr} (hd : decodeControl w = .ok i)
    (hc : fieldCause (s.env s.focus).ver (decide (s.now.mode = .handler)) false w i = none) :
    checked f (ctlCtx s w) v = f (ctlCtx s w) v := by
  have h : ctlCause (s.env s.focus).ver (ctlCtx s w).handler false w = none := by simp only [ctlCause, hd]; exact hc
  show (match ctlCause (s.env s.focus).ver (ctlCtx s w).handler false w with | some x => _ | none => _) = _
  rw [h]

theorem ctlStart_eq (s : State) (w : BitVec 32) :
    ctlStart s w = (W.of s).modCore s.focus fun _ => s.now.nextAfter w :=
  W.modCore_congr _ _ rfl
theorem ctlStart_modCore (s : State) (w : BitVec 32) (f : Core → Core) :
    (ctlStart s w).modCore s.focus f = (W.of s).modCore s.focus fun _ => f (s.now.nextAfter w) := by
  rw [ctlStart, W.modCore_modCore]; exact W.modCore_congr _ _ rfl

/-- The next bundle in program order follows when it is in range. -/
theorem fall_ok {s : State} {w : BitVec 32} {v : W} (h : InRange s) : (ctlCtx s w).fall v = .ok v :=
  if_pos (Or.inr h)
theorem fall_trap {s : State} {w : BitVec 32} {v : W} (h : ¬ InRange s) :
    (ctlCtx s w).fall v = .trap (illegalControl w 2 (s.now.pcAddr + 32)) :=
  if_neg (by rintro (h' | h'); exacts [Bool.false_ne_true h', h h'])
/-- A target in range is jumped to. -/
theorem jump_ok {s : State} {w : BitVec 32} {v : W} {x : Int} (h : Reachable s x) :
    (ctlCtx s w).jump x v = .ok (v.modCore s.focus fun k => k.setPc x.toNat) := if_pos h
theorem jump_trap {s : State} {w : BitVec 32} {v : W} {x : Int} (h : ¬ Reachable s x) :
    (ctlCtx s w).jump x v = .trap (illegalControl w 2 (target64 x)) := if_neg h

end Machine

end Sys2Proof
end

