-- ==== Sys2Proof/Laws/Int.lean ====
section
/-!
SUPPORT. What a trigger of the integer units does: one lemma for all of them.
-/

namespace Sys2Proof.Machine

@[simp] theorem scalarOf_lineOf (x : Word) : scalarOf (lineOf x) = x := by simp [scalarOf, lineOf]
@[simp] theorem Core.fired_regs (k : Core) (src : Src) : (k.fired src).regs = k.regs := by
  simp [Core.fired, Core.nextBundle, Core.took_regs]

/-- The destination id of operation `k` of integer unit `u`. -/
theorem intId_toNat (u : BitVec 1) (k : BitVec 6) :
    BitVec.toNat (w := 12) ((2 : BitVec 5) ++ u ++ k) = intPort u + k.toNat := by
  show ((2 : BitVec 5) ++ u ++ k).toNat = _
  rw [BitVec.toNat_append, BitVec.toNat_append, ← Nat.shiftLeft_add_eq_or_of_lt k.isLt,
    ← Nat.shiftLeft_add_eq_or_of_lt u.isLt, Nat.shiftLeft_eq, Nat.shiftLeft_eq]
  simp [intPort]
  omega

/-- What an integer trigger does to the core on which it fires. -/
theorem trigInt_eq (s : State) (u : BitVec 1) (op : Nat) (m : BitVec 4) (src : Src) (v : Line) (hop : op < 64) :
    trigInt (trigCtx s (intPort u + op) m v) (trigStart s src) = .ok ((trigStart s src).modCore s.focus fun k =>
      k.withItem (trigItem s (intPort u + op) m (intLatency op) (s.now.regs.portW (intPort u)) (scalarOf v)
        [(intPort u, lineOf (intResult op (s.now.regs.portW (intPort u)) (scalarOf v) m))])) := by
  have hu := u.isLt
  have h1 : (intPort u + op) / 64 * 64 = intPort u := by simp only [intPort]; omega
  have h2 : (intPort u + op) % 64 = op := by simp only [intPort]; omega
  have h4 : intPort u + op < 0x180 := by simp only [intPort]; omega
  have h3 : lineTrig (intPort u + op) = false := by simp [lineTrig]; omega
  simp only [trigInt, trigCtx, h1, h2, W.addItem]
  congr 1
  apply W.modCore_congr
  simp [Core.withItem, trigItem, trigStart, TCtx.run, TCtx.v, TCtx.k, trigValue, h3]

/-- An integer operation: its encoding, its meaning and its result give what it does. -/
theorem IntegerOp.of {u : BitVec 1} {i : BitVec 1 → Slot → Instr} {k : BitVec 6} {op lat : Nat}
    {r : Word → Word → BitVec 4 → Word}
    (he : ∀ f, encode (i u f) = some (Encoded.moveSlot (moveWord f.g ((2 : BitVec 5) ++ u ++ k) f.s f.m)).bundle)
    (hx : ∀ f s, exec (i u f) s = execTrigger (i u f) trigInt s) (ho : k.toNat = op) (hl : intLatency op = lat)
    (hr : ∀ a b m, intResult op a b m = r a b m) (ht : trigPort (intPort u + op) = true) : IntegerOp u i op lat r := by
  subst ho
  intro s f src v hf _ hroom
  rw [hx]
  have hid := intId_toNat u k
  have hu := u.isLt
  have hop := k.isLt
  have hp : intPort u = 0x100 + 0x40 * u.toNat := rfl
  refine execTrigger_mod (src := src) (v := v) (fun c => c.withItem (trigItem s (intPort u + k.toNat) f.m lat
    (s.now.regs.portW (intPort u)) (scalarOf v)
      [(intPort u, lineOf (r (s.now.regs.portW (intPort u)) (scalarOf v) f.m))]))
    (he f) (by rw [hid]; exact hf) (by rw [hid]; exact ht) ?_ ?_ ?_ ?_ hroom
  · rw [hid]; simp [ctlModifier]; omega
  · rw [hid]; intro h; simp [needsPriv] at h; omega
  · rw [hid]; intro h; simp [needsTier] at h; omega
  · rw [hid, trigInt_eq s u k.toNat f.m src v hop, hl, hr]

end Sys2Proof.Machine
end

