-- ==== Sys2Proof/Tests/Slice0.lean ====
section
/-!
SUPPORT. The model's own tests: one word for each encoding, an ill-formed term for each check, and for each statement a
state and operands that meet its hypotheses.
-/

namespace Sys2Proof.Tests

open Sys2Proof Sys2Proof.Machine

-- one thread: each thread of the compiler reserves its stack
set_option Elab.async false

/-! ### Decoding: every word is written from the fields of the encoding tables (01 R11, R12, R30..R36) -/

/-- The decoder reads the instruction from the word. -/
abbrev reads (w : Nat) (i : Instr) : Prop := decodeTableWord 32 w = some i

/-- The decoder reads the instruction from the word in the control slot. -/
abbrev readsControl (w : Nat) (i : Instr) : Prop := decodeBundle (BitVec.ofNat 256 w) = i
/-- Why the decoder refuses. -/
def why {α : Type} : Except DecodeError α → Option DecodeError
  | .error e => some e
  | .ok _ => none

theorem test_decode_control :
    reads 0b1_110_1111_01111010_011111111111_1110 (.hint 14 122 0x7ff 14) ∧
    readsControl 0b0000_0000000000000000000000000000 (.cnop 0) ∧
    readsControl 0b1110_000001_1100011010100101001111 (.br 14 3254607) ∧
    readsControl 0b0001_000010_0_001_010111110010111000 (.brp 1 0 1 97464) ∧
    readsControl 0b0111_000011_0110000101111001010111 (.call 7 1597015) ∧
    readsControl 0b0011_0001000000000000000000000000 (.ret 3) ∧
    readsControl 0b0111_0001010000000000000000_000001 (.jr 7 1) ∧
    readsControl 0b0110_000110_011011_010010_001100_0000 (.loopm 6 27 18 12) ∧
    readsControl 0b1100_0001110000000000000000000000 (.loopx 12) ∧
    readsControl 0b0010_001000_0010001110000110010001 (.lit 2 582033) ∧
    readsControl 0b1110_001001_0010000001101111011000 (.lith 14 531416) ∧
    readsControl 0b0000_0010100000000000_111110001111 (.setfmt 0 3983) ∧
    readsControl 0b0000_001011_0011011_110001100000110 (.setwin 0 27 25350) ∧
    readsControl 0b0101_001100_111000_001011_010011_0000 (.start 5 56 11 19) ∧
    readsControl 0b0110_00110100000000000000_00011010 (.waite 6 26) ∧
    readsControl 0b0110_001110_101_010_0000000000000000 (.fence 6 5 2) ∧
    readsControl 0b1011_001111_0101_001011_111011111010 (.suspend 11 5 11 3834) ∧
    readsControl 0b1000_0100000000000000000000000000 (.yield 8) ∧
    readsControl 0b1010_010001000000_0100110100100110 (.trap 10 19750) ∧
    readsControl 0b0000_0100100000000000000000000000 (.rtrap 0) ∧
    readsControl 0b1010_0100110000000000000000000000 (.bkpt 10) ∧
    readsControl 0b1001_11_0110_1101000110001010011010 (.chint 9 6 3433114) := by decide +kernel

theorem test_decode_int_1 :
    reads 0b1_100_00010_1_000001_000110001010_1000 (.add 1 ⟨12, 0x18a, 8⟩) ∧
    reads 0b0_001_00010_1_000010_000000000001_1100 (.sub 1 ⟨1, 0x1, 12⟩) ∧
    reads 0b1_111_00010_1_000011_010000000000_1101 (.mul 1 ⟨15, 0x400, 13⟩) ∧
    reads 0b1_011_00010_1_000100_000000111011_0001 (.mulh 1 ⟨11, 0x3b, 1⟩) ∧
    reads 0b1_001_00010_0_000101_000000111111_0010 (.mulhu 0 ⟨9, 0x3f, 2⟩) ∧
    reads 0b0_111_00010_1_000110_010000000000_0110 (.div 1 ⟨7, 0x400, 6⟩) ∧
    reads 0b1_111_00010_1_000111_010000000000_1100 (.divu 1 ⟨15, 0x400, 12⟩) ∧
    reads 0b1_111_00010_1_001000_000110001010_0010 (.rem 1 ⟨15, 0x18a, 2⟩) ∧
    reads 0b0_011_00010_1_001001_000000111111_0110 (.remu 1 ⟨3, 0x3f, 6⟩) ∧
    reads 0b1_110_00010_0_001010_011111111111_0110 (.and 0 ⟨14, 0x7ff, 6⟩) ∧
    reads 0b1_010_00010_0_001011_000000111111_1100 (.or 0 ⟨10, 0x3f, 12⟩) ∧
    reads 0b1_100_00010_0_001100_000000000001_0010 (.xor 0 ⟨12, 0x1, 2⟩) ∧
    reads 0b1_001_00010_0_001101_010000000000_0110 (.andn 0 ⟨9, 0x400, 6⟩) ∧
    reads 0b1_100_00010_1_001110_000000000001_1111 (.orn 1 ⟨12, 0x1, 15⟩) ∧
    reads 0b0_111_00010_1_001111_000000111011_0100 (.shl 1 ⟨7, 0x3b, 4⟩) ∧
    reads 0b0_110_00010_0_010000_000000111011_0111 (.shr 0 ⟨6, 0x3b, 7⟩) ∧
    reads 0b0_010_00010_1_010001_000000111111_0001 (.sar 1 ⟨2, 0x3f, 1⟩) ∧
    reads 0b1_011_00010_0_010010_010000000000_1110 (.rol 0 ⟨11, 0x400, 14⟩) ∧
    reads 0b0_101_00010_1_010011_000110001010_1100 (.min 1 ⟨5, 0x18a, 12⟩) ∧
    reads 0b1_100_00010_1_010100_000110001010_0111 (.max 1 ⟨12, 0x18a, 7⟩) ∧
    reads 0b0_001_00010_1_010101_010000000000_0011 (.minu 1 ⟨1, 0x400, 3⟩) ∧
    reads 0b1_111_00010_1_010110_000000000001_1000 (.maxu 1 ⟨15, 0x1, 8⟩) ∧
    reads 0b1_101_00010_1_010111_000000111011_1101 (.clz 1 ⟨13, 0x3b, 13⟩) ∧
    reads 0b1_110_00010_0_011000_000100000111_0110 (.ctz 0 ⟨14, 0x107, 6⟩) := by decide +kernel

theorem test_decode_int_2 :
    reads 0b1_111_00010_1_011001_000000111011_1100 (.popc 1 ⟨15, 0x3b, 12⟩) ∧
    reads 0b1_011_00010_0_011010_000000111011_0001 (.bswap 0 ⟨11, 0x3b, 1⟩) ∧
    reads 0b1_101_00010_1_011011_011111111111_0101 (.sext 1 ⟨13, 0x7ff, 5⟩) ∧
    reads 0b1_011_00010_1_011100_000100000111_1011 (.zext 1 ⟨11, 0x107, 11⟩) ∧
    reads 0b1_110_00010_1_011101_000000111011_0011 (.bext 1 ⟨14, 0x3b, 3⟩) ∧
    reads 0b1_011_00010_1_011110_000000111111_1001 (.ceq 1 ⟨11, 0x3f, 9⟩) ∧
    reads 0b0_010_00010_1_011111_000000111011_1000 (.cne 1 ⟨2, 0x3b, 8⟩) ∧
    reads 0b1_110_00010_0_100000_011111111111_1100 (.clt 0 ⟨14, 0x7ff, 12⟩) ∧
    reads 0b1_010_00010_1_100001_010000000000_1001 (.cltu 1 ⟨10, 0x400, 9⟩) ∧
    reads 0b1_110_00010_0_100010_000000111111_1010 (.cle 0 ⟨14, 0x3f, 10⟩) ∧
    reads 0b1_101_00010_0_100011_000000111011_1011 (.cleu 0 ⟨13, 0x3b, 11⟩) ∧
    reads 0b0_110_00010_0_100100_000110001010_0100 (.clmull 0 ⟨6, 0x18a, 4⟩) ∧
    reads 0b0_001_00010_0_100101_000100000111_0011 (.clmulh 0 ⟨1, 0x107, 3⟩) ∧
    reads 0b1_010_00010_0_100110_000110001010_0110 (.pass 0 ⟨10, 0x18a, 6⟩) ∧
    reads 0b1_110_00010_0_100111_000000111111_0100 (.lea 0 ⟨14, 0x3f, 4⟩) := by decide +kernel

theorem test_decode_ls :
    reads 0b1_001_000110000010_000110001010_0101 (.ldl ⟨9, 0x18a, 5⟩) ∧
    reads 0b1_111_000110000011_011111111111_1110 (.ldsB ⟨15, 0x7ff, 14⟩) ∧
    reads 0b1_001_000110000100_010000000000_0101 (.ldsH ⟨9, 0x400, 5⟩) ∧
    reads 0b0_011_000110000101_010000000000_0110 (.ldsW ⟨3, 0x400, 6⟩) ∧
    reads 0b1_011_000110000110_000000111111_0111 (.ldsD ⟨11, 0x3f, 7⟩) ∧
    reads 0b1_111_000110000111_011111111111_1001 (.ldsxB ⟨15, 0x7ff, 9⟩) ∧
    reads 0b1_100_000110001000_000000111111_1010 (.ldsxH ⟨12, 0x3f, 10⟩) ∧
    reads 0b1_101_000110001001_000000111111_0011 (.ldsxW ⟨13, 0x3f, 3⟩) ∧
    reads 0b0_011_000110001010_011111111111_0001 (.stl ⟨3, 0x7ff, 1⟩) ∧
    reads 0b1_001_000110001011_010000000000_1111 (.stln ⟨9, 0x400, 15⟩) ∧
    reads 0b0_011_000110001100_010000000000_0111 (.stlm ⟨3, 0x400, 7⟩) ∧
    reads 0b1_100_000110001101_000000111111_1000 (.stsB ⟨12, 0x3f, 8⟩) ∧
    reads 0b1_100_000110001110_011111111111_0111 (.stsH ⟨12, 0x7ff, 7⟩) ∧
    reads 0b1_111_000110001111_000000111111_1010 (.stsW ⟨15, 0x3f, 10⟩) ∧
    reads 0b1_110_000110010000_000100000111_1000 (.stsD ⟨14, 0x107, 8⟩) ∧
    reads 0b1_100_000110010001_000100000111_0101 (.lda ⟨12, 0x107, 5⟩) ∧
    reads 0b1_011_000110010010_000110001010_0001 (.sta ⟨11, 0x18a, 1⟩) ∧
    reads 0b0_110_000110010011_000110001010_0100 (.hmake ⟨6, 0x18a, 4⟩) ∧
    reads 0b1_001_000110010100_000000111111_1110 (.hgive ⟨9, 0x3f, 14⟩) ∧
    reads 0b1_001_000110010101_010000000000_1001 (.htake ⟨9, 0x400, 9⟩) ∧
    reads 0b1_010_000110010110_000110001010_1101 (.hrel ⟨10, 0x18a, 13⟩) := by decide +kernel

theorem test_decode_vec_1 :
    reads 0b0_010_000111000010_000100000111_1110 (.vadd ⟨2, 0x107, 14⟩) ∧
    reads 0b0_110_000111000011_000100000111_0101 (.vsub ⟨6, 0x107, 5⟩) ∧
    reads 0b1_101_000111000100_000110001010_1001 (.vmul ⟨13, 0x18a, 9⟩) ∧
    reads 0b0_001_000111000101_000000111111_0101 (.vfma ⟨1, 0x3f, 5⟩) ∧
    reads 0b1_101_000111000110_000100000111_1010 (.vfms ⟨13, 0x107, 10⟩) ∧
    reads 0b1_110_000111000111_000000000001_1000 (.vnfma ⟨14, 0x1, 8⟩) ∧
    reads 0b1_011_000111001000_011111111111_1110 (.vmin ⟨11, 0x7ff, 14⟩) ∧
    reads 0b0_001_000111001001_000100000111_1001 (.vmax ⟨1, 0x107, 9⟩) ∧
    reads 0b1_110_000111001010_000000000001_1111 (.vabs ⟨14, 0x1, 15⟩) ∧
    reads 0b0_001_000111001011_000000111011_1101 (.vneg ⟨1, 0x3b, 13⟩) ∧
    reads 0b1_101_000111001100_011111111111_1100 (.vclamp ⟨13, 0x7ff, 12⟩) ∧
    reads 0b1_111_000111001101_000000111011_0111 (.vscale ⟨15, 0x3b, 7⟩) ∧
    reads 0b1_100_000111001110_000000111011_1100 (.vcmplt ⟨12, 0x3b, 12⟩) ∧
    reads 0b0_011_000111001111_000000111011_1101 (.vcmple ⟨3, 0x3b, 13⟩) ∧
    reads 0b0_011_000111010000_000000000001_1100 (.vcmpeq ⟨3, 0x1, 12⟩) ∧
    reads 0b1_101_000111010001_011111111111_1101 (.vsel ⟨13, 0x7ff, 13⟩) ∧
    reads 0b1_011_000111010010_000000111111_1000 (.vsum ⟨11, 0x3f, 8⟩) ∧
    reads 0b1_011_000111010011_000000111111_0111 (.vmaxr ⟨11, 0x3f, 7⟩) ∧
    reads 0b0_001_000111010100_000000111111_0101 (.vdot ⟨1, 0x3f, 5⟩) ∧
    reads 0b0_111_000111010101_011111111111_0001 (.vstat ⟨7, 0x7ff, 1⟩) ∧
    reads 0b1_110_000111010110_000000000001_0111 (.vbcast ⟨14, 0x1, 7⟩) ∧
    reads 0b1_001_000111010111_000000111011_0010 (.vshuf ⟨9, 0x3b, 2⟩) ∧
    reads 0b0_101_000111011000_000000111011_0010 (.vwidenl ⟨5, 0x3b, 2⟩) ∧
    reads 0b0_011_000111011001_000110001010_0011 (.vwidenh ⟨3, 0x18a, 3⟩) := by decide +kernel

theorem test_decode_vec_2 :
    reads 0b0_101_000111011010_000110001010_1101 (.vnarrow ⟨5, 0x18a, 13⟩) ∧
    reads 0b0_001_000111011011_000000111111_0001 (.vcvtif ⟨1, 0x3f, 1⟩) ∧
    reads 0b0_110_000111011100_011111111111_0010 (.vcvtfi ⟨6, 0x7ff, 2⟩) ∧
    reads 0b1_001_000111011101_010000000000_0010 (.pprob ⟨9, 0x400, 2⟩) ∧
    reads 0b1_101_000111011110_000000000001_0111 (.qnt ⟨13, 0x1, 7⟩) ∧
    reads 0b0_011_000111011111_010000000000_1000 (.dqnt ⟨3, 0x400, 8⟩) ∧
    reads 0b1_011_000111100000_011111111111_0110 (.qscale ⟨11, 0x7ff, 6⟩) := by decide +kernel

theorem test_decode_sfn :
    reads 0b0_010_001000000001_000100000111_0011 (.exp ⟨2, 0x107, 3⟩) ∧
    reads 0b1_101_001000000010_010000000000_0100 (.exp2 ⟨13, 0x400, 4⟩) ∧
    reads 0b1_001_001000000011_000000111111_0101 (.ln ⟨9, 0x3f, 5⟩) ∧
    reads 0b1_101_001000000100_000000111111_1101 (.log2 ⟨13, 0x3f, 13⟩) ∧
    reads 0b0_111_001000000101_000110001010_1100 (.rcp ⟨7, 0x18a, 12⟩) ∧
    reads 0b1_010_001000000110_011111111111_0001 (.rsqrt ⟨10, 0x7ff, 1⟩) ∧
    reads 0b1_001_001000000111_011111111111_0001 (.sqrt ⟨9, 0x7ff, 1⟩) ∧
    reads 0b0_111_001000001000_010000000000_1010 (.tanh ⟨7, 0x400, 10⟩) ∧
    reads 0b1_010_001000001001_000110001010_1000 (.sigm ⟨10, 0x18a, 8⟩) ∧
    reads 0b1_001_001000001010_010000000000_0001 (.gelu ⟨9, 0x400, 1⟩) ∧
    reads 0b1_001_001000001011_000000111111_0111 (.silu ⟨9, 0x3f, 7⟩) ∧
    reads 0b0_110_001000001100_000000000001_1111 (.erf ⟨6, 0x1, 15⟩) := by decide +kernel

theorem test_decode_sv :
    reads 0b1_111_001001000001_000000111111_1100 (.svrst ⟨15, 0x3f, 12⟩) ∧
    reads 0b1_011_001001000010_000000111111_0101 (.svrd ⟨11, 0x3f, 5⟩) ∧
    reads 0b1_101_001001000011_000100000111_1101 (.svnote ⟨13, 0x107, 13⟩) ∧
    reads 0b1_100_001001000100_011111111111_1110 (.svmerge ⟨12, 0x7ff, 14⟩) ∧
    reads 0b1_110_001001000101_000000111011_1011 (.svtrap ⟨14, 0x3b, 11⟩) := by decide +kernel

theorem test_decode_at :
    reads 0b1_111_001010000010_010000000000_0001 (.ald ⟨15, 0x400, 1⟩) ∧
    reads 0b0_110_001010000011_000110001010_0010 (.ast ⟨6, 0x18a, 2⟩) ∧
    reads 0b0_001_001010000100_000000111111_0100 (.aadd ⟨1, 0x3f, 4⟩) ∧
    reads 0b0_001_001010000101_000110001010_1011 (.amax ⟨1, 0x18a, 11⟩) ∧
    reads 0b1_001_001010000110_000110001010_0101 (.amin ⟨9, 0x18a, 5⟩) ∧
    reads 0b1_011_001010000111_000110001010_0010 (.aswap ⟨11, 0x18a, 2⟩) ∧
    reads 0b0_010_001010001000_000000111111_0010 (.acas ⟨2, 0x3f, 2⟩) ∧
    reads 0b1_111_001010001001_000000111011_1111 (.abind ⟨15, 0x3b, 15⟩) ∧
    reads 0b1_010_001010001010_000100000111_0010 (.aunbind ⟨10, 0x107, 2⟩) ∧
    reads 0b1_111_001010001011_000000111011_0101 (.awaitge ⟨15, 0x3b, 5⟩) := by decide +kernel

theorem test_decode_task :
    reads 0b0_001_001011000001_000000000001_0110 (.spawn ⟨1, 0x1, 6⟩) ∧
    reads 0b1_011_001011000010_000000000001_1100 (.toksend ⟨11, 0x1, 12⟩) ∧
    reads 0b0_110_001011000011_000110001010_0000 (.widfExtractWid ⟨6, 0x18a⟩) ∧
    reads 0b0_001_001011000011_011111111111_0001 (.widfExtractOperand ⟨1, 0x7ff⟩) ∧
    reads 0b1_011_001011000011_011111111111_0010 (.widfInsert ⟨11, 0x7ff⟩) ∧
    reads 0b0_110_001011000100_000000111111_0000 (.phaseUnit ⟨6, 0x3f⟩) ∧
    reads 0b0_010_001011000100_000000000001_0001 (.phaseBound ⟨2, 0x1⟩) ∧
    reads 0b0_110_001011000101_010000000000_0111 (.barc ⟨6, 0x400, 7⟩) ∧
    reads 0b1_110_001011000110_000000111111_1000 (.barq ⟨14, 0x3f, 8⟩) := by decide +kernel

theorem test_decode_ctl :
    reads 0b1_011_001100000001_011111111111_1100 (.ctlr ⟨11, 0x7ff, 12⟩) ∧
    reads 0b1_010_001100000010_000000111111_0011 (.ctlw ⟨10, 0x3f, 3⟩) ∧
    reads 0b0_001_001100000011_010000000000_0111 (.tlbinv ⟨1, 0x400, 7⟩) ∧
    reads 0b1_001_001100000100_000000000001_1000 (.slewreq ⟨9, 0x1, 8⟩) ∧
    reads 0b1_010_001100000101_000000000001_1001 (.filler ⟨10, 0x1, 9⟩) := by decide +kernel

theorem test_decode_stc :
    reads 0b1_001_001101000001_000000000001_0100 (.stcfg ⟨9, 0x1, 4⟩) ∧
    reads 0b1_001_001101000010_000110001010_0001 (.stgo ⟨9, 0x18a, 1⟩) ∧
    reads 0b0_110_001101000011_000110001010_0111 (.ststop ⟨6, 0x18a, 7⟩) ∧
    reads 0b0_001_001101000100_000000111011_0111 (.ststat ⟨1, 0x3b, 7⟩) := by decide +kernel

theorem test_decode_mx :
    reads 0b1_011_100000010000_000000000001_1111 (.mma ⟨11, 0x1, 15⟩) ∧
    reads 0b0_010_100000010001_011111111111_1001 (.mmaz ⟨2, 0x7ff, 9⟩) ∧
    reads 0b1_010_100000010010_000000111111_0010 (.mmat ⟨10, 0x3f, 2⟩) ∧
    reads 0b1_111_100000010011_000000000001_1001 (.mmatz ⟨15, 0x1, 9⟩) := by decide +kernel

theorem test_decode_acc :
    reads 0b0_101_100001000001_000000111011_1100 (.accrd ⟨5, 0x3b, 12⟩) ∧
    reads 0b0_101_100001000010_000110001010_1001 (.accwr ⟨5, 0x18a, 9⟩) ∧
    reads 0b1_100_100001000011_010000000000_1101 (.accadd ⟨12, 0x400, 13⟩) ∧
    reads 0b1_101_100001000100_000000111111_1100 (.accz ⟨13, 0x3f, 12⟩) ∧
    reads 0b0_111_100001000101_011111111111_1000 (.accspill ⟨7, 0x7ff, 8⟩) ∧
    reads 0b0_101_100001000110_000000111111_0101 (.accfill ⟨5, 0x3f, 5⟩) ∧
    reads 0b1_001_100001000111_000000111011_0000 (.acctsStatus ⟨9, 0x3b⟩) ∧
    reads 0b1_111_100001000111_000100000111_0001 (.acctsLoad ⟨15, 0x107⟩) ∧
    reads 0b0_010_100001000111_000000000001_0010 (.acctsRewind ⟨2, 0x1⟩) := by decide +kernel

theorem test_decode_xb :
    reads 0b1_010_100010010000_000000000001_1101 (.xmode ⟨10, 0x1, 13⟩) ∧
    reads 0b1_101_100010010001_000000111111_0101 (.xfwd ⟨13, 0x3f, 5⟩) ∧
    reads 0b0_100_100010010010_000000111111_0001 (.xbwd ⟨4, 0x3f, 1⟩) ∧
    reads 0b0_111_100010010011_000100000111_1111 (.xupd ⟨7, 0x107, 15⟩) ∧
    reads 0b0_001_100010010100_000000111011_0110 (.xfer ⟨1, 0x3b, 6⟩) ∧
    reads 0b1_111_100010010101_010000000000_0001 (.xgamma ⟨15, 0x400, 1⟩) ∧
    reads 0b1_110_100010010110_000000111011_0011 (.xspw ⟨14, 0x3b, 3⟩) ∧
    reads 0b0_100_100010010111_000000111011_1100 (.xspr ⟨4, 0x3b, 12⟩) ∧
    reads 0b0_110_100010011000_011111111111_0111 (.xseed ⟨6, 0x7ff, 7⟩) ∧
    reads 0b1_001_100010011001_000000111011_0111 (.xrdavg ⟨9, 0x3b, 7⟩) ∧
    reads 0b0_011_100010011010_000100000111_0011 (.xprg ⟨3, 0x107, 3⟩) ∧
    reads 0b0_011_100010011011_011111111111_0110 (.xrst ⟨3, 0x7ff, 6⟩) ∧
    reads 0b1_001_100010011100_010000000000_1101 (.xstat ⟨9, 0x400, 13⟩) := by decide +kernel

theorem test_decode_cp :
    reads 0b0_001_100011000001_000000000001_0011 (.tplw ⟨1, 0x1, 3⟩) ∧
    reads 0b1_100_100011000010_000100000111_0_101 (.cpgo ⟨12, 0x107⟩ 5) ∧
    reads 0b0_010_100011000010_000110001010_1_010 (.cpgoResume ⟨2, 0x18a⟩ 2) ∧
    reads 0b1_010_100011000011_000100000111_0001 (.gqpush ⟨10, 0x107, 1⟩) ∧
    reads 0b0_101_100011000100_000000111011_0011 (.cpwait ⟨5, 0x3b, 3⟩) ∧
    reads 0b0_011_100011000101_010000000000_0011 (.cpstat ⟨3, 0x400, 3⟩) ∧
    reads 0b0_100_100011000110_000110001010_1101 (.cpabort ⟨4, 0x18a, 13⟩) := by decide +kernel

theorem test_decode_tier :
    reads 0b1_001_100100000001_000100000111_1000 (.pusht ⟨9, 0x107, 8⟩) ∧
    reads 0b0_100_100100000010_000110001010_0011 (.popt ⟨4, 0x18a, 3⟩) ∧
    reads 0b1_001_100100000011_011111111111_1111 (.lease ⟨9, 0x7ff, 15⟩) ∧
    reads 0b0_101_100100000100_000110001010_1010 (.unlease ⟨5, 0x18a, 10⟩) ∧
    reads 0b0_001_100100000101_000000111011_0000 (.lstatSlot ⟨1, 0x3b⟩) ∧
    reads 0b1_110_100100000101_000000111111_0010 (.lstatDeadline ⟨14, 0x3f⟩) ∧
    reads 0b0_001_100100000101_010000000000_0001 (.lstatStack ⟨1, 0x400⟩) := by decide +kernel

/-- A plain move; a hint keeps its field; a reserved control opcode, a reserved operand bit and an undefined form are no
instruction of one slot, and neither is a word of another length (01 R24, R26, R35, R37; 12 R270). -/
theorem test_decode_plain :
    reads 0b1_010_000000111111_000001000001_1110 (.move 10 0x03f 0x041 14) ∧
    reads 0b0_000_111111111111_111111111111_1111 (.hint 0 255 0xfff 15) ∧
    why (decodeControl 0b0000_010100_0000000000000000000000) = some (.reservedOpcode 0x14) ∧
    why (decodeControl 0b0000_000000_1000000000000000000000) = some (.reservedOperand 0) ∧
    why (decodeControl 0b0000_000110_000000_000000_000000_1000) = some (.reservedOperand 6) ∧
    why (decodeMove 0b0_000_001011000011_000000000001_0011) = some (.noSuchForm 0x2c3 3) ∧
    why (decodeMove 0b0_000_100100000101_000000000001_0011) = some (.noSuchForm 0x905 3) ∧
    decodeTableWord 24 0 = none ∧ why (decode [0, 0, 0]) = some .short := by decide +kernel

/-- Bit 0 of slot k is bit 32k of the bundle, and bit 8j of the bundle is bit 0 of byte j (01 R10). -/
theorem test_bundle_layout :
    bundleSlot (BitVec.ofNat 256 (2 ^ 32 * 5 + 2 ^ 224 * 7)) 1 = 5 ∧ bundleSlot (BitVec.ofNat 256 (2 ^ 32 * 5 + 2 ^ 224 * 7)) 7 = 7 ∧
    (decode ((List.replicate 4 0) ++ [0x30, 0x80, 0x02, 0x00] ++ List.replicate 25 0)).toOption =
      some (.move 0 0x002 0x803 0, [0]) := by decide +kernel

/-! ### Well-formedness: an ill-formed term for each check -/

/-- Each check refuses a term; the last line's terms it admits. -/
theorem test_ill_formed :
    ([.bundleIssue (BitVec.ofNat 256 0),
      .holdRelease 1024,
      .mergedIssue 1024,
      .watchdogTimeout 1024,
      .resultCompletion 1024,
      .loadLanding 1024,
      .engineStartCycle 0 3,
      .engineStartCycle 1024 0,
      .streamRun 0 8,
      .streamRun 1024 0,
      .streamWriteDrain 0 8,
      .registerWrite (2 ^ 48 + 2 ^ 26 + 8) 0,
      .move 0 0x101 1 0,
      .move 0 0xf00 1 0,
      .move 0 0 0 0,
      .loopm 0 1 0 1,
      .waite 0 64,
      .fence 0 0 4,
      .suspend 0 6 0 0,
      .suspend 0 2 63 0,
      .tableWalk 0 0 (2 ^ 51),
      .tableWalk 0 64 0,
      .tableWalk 8 0 0,
      .hbmAdmit 0 { n := 32 },
      .bankIdlePrecharge 0 512,
      .leaseGrant 0 0 ⟨16, 0⟩ 1 0,
      .leaseRequestArrive 0 0 0 (.ask 0) true,
      .leaseRequestArrive 1024 0 0 (.ask 1) true,
      .surveyDeltaSend 0 4096,
      .recordCreate 0 4096,
      .tokenArrive 0 0 65536,
      .barrierArrival 0 0 64,
      .barrierNoticeArrive 0 64 0 0,
      .clusterRelease 0 0 0 8,
      .barrierDescriptorWrite 0 4096 0,
      .contextControlWrite 0 0 64 0,
      .tileOwnerWrite 0 128 0,
      .fabricContextWrite 2 0 0 0,
      .fabricContextWrite 0 0 256 0,
      .flitReplay { link := 28, good := true },
      .linkDown 28,
      .bar2Access true 0 (List.replicate 129 0),
      .cmdDoorbell 0 (List.replicate 4096 0),
      .rampTableWrite 0 8 0 0,
      .rampTableWrite 0 0 64 0,
      .slewGrant 0 8,
      .debugStep 0 0 128 true,
      .scrubRow 8 [],
      .telemetryPeriod 64 0,
      .xbStatus 0 8,
      .copyAccept 0 8,
      .reduceAdmit 1024] : List Instr).all (fun i => !i.wf) = true ∧
    ([.bundleIssue (BitVec.ofNat 256 (2 ^ 32 + 2 ^ 64)), .move 0 0x010 1 0, .hint 0 0 0 0, .loopm 0 1 1 1, .waite 0 63, .fence 0 7 3, .suspend 0 2 62 0, .suspend 0 5 63 0, .tableWalk 7 63 (2 ^ 51 - 1), .registerWrite (2 ^ 48 + 2 ^ 26 + 7) 0, .streamRun 1023 7] : List Instr).all Instr.wf = true := by decide +kernel


/-! ### A state for the witnesses: core 0 of die 0 runs a task of context 0 -/

/-- The core of the witnesses: registers, window, legend, ports and loop registers that differ from their reset values. -/
def demoCore (k : Core) : Core := { k with
  regs := { k.regs with
    s := [(1, 0x11), (2, 0x22), (3, 0x33), (4, 0x44), (5, 0x5555), (6, 0x10007), (7, 0x9), (62, 0x1040), (63, 0x1000)]
    p := 0xA5, lit := 77
    op := [(0x100, lineOf 5), (0x1c0, 12345), (0x280, lineOf 9)]
    res := [(0x100, lineOf 8), (0x1c2, 999), (0x900, lineOf 3)] }
  ctl := { k.ctl with win := 0x10123, fmt := word (5 + 4096 + 7 * 65536 + 8192 + 9 * 2 ^ 28) } }

/-- The task's record: record 0 of the board, encoding version 3, launch slot 0. -/
def demoImg : BitVec 512 := BitVec.ofNat 512 (0xABCD + 3 * 2 ^ 461 + 2 ^ 464 + 3 * 2 ^ 472 + 5 * 2 ^ 474 + 2 ^ 477 + 7 * 2 ^ 457)
/-- The context's control block: a handler range and its save area. -/
def demoBlk : BitVec 512 := BitVec.ofNat 512 (0x2000 + 0x1000 * 2 ^ 64 + 0x400000 * 2 ^ 160 + 2 * 2 ^ 224)

/-- A legend: m = 3, e = 4, signed, bias 7, bound code 126, survey 4, usable. -/
def demoLegend : BitVec 128 := BitVec.ofNat 128 (3 + 4 * 2 ^ 4 + 2 ^ 7 + 7 * 2 ^ 8 + 126 * 2 ^ 16 + 4 * 2 ^ 32 + 2 ^ 48 + 3 * 2 ^ 64)

/-- A window entry with every right over the regions from address `b`. -/
def demoWindow (b : Nat) : BitVec 128 := BitVec.ofNat 128 (b + (2 ^ 24 - 1) * 2 ^ 64 + 15 * 2 ^ 88 + 2 ^ 95)

/-- The die of the witnesses: the running record, an allotment of 200 lines from line 100, a barrier, a handler page. -/
def demoDie (d : Die) : Die := { d with
  cctl := [(0, demoBlk)], handler := [(0, [{ va := 0, size := 32768, leaf := 7 }])]
  ranges := [(0, word (64 * 2 ^ 12 + 32 * 2 ^ 44))], legends := [(5, demoLegend)]
  windows := [(0, demoWindow 0), (1, demoWindow (2 ^ 35)), (2, demoWindow (2 ^ 45))]
  allot := [(0, BitVec.ofNat 32 (100 + 200 * 2 ^ 15)), (1, BitVec.ofNat 32 (100 + 100 * 2 ^ 15))]
  board := { d.board with
    launches := [(0, { ctx := 0, live := 1, code := [loadPage], units := [[1, 2], [3]]
                       hdr := loadHeader + BitVec.ofNat 1024 (3 * 2 ^ (8 * 0x34) + 20 * 2 ^ (8 * 0x36)) })]
    recs := [(0, { ctx := 0, img := demoImg, run := true })]
    bars := [(3, BitVec.ofNat 512 (2 + 4 * 2 ^ 45 + 4000 * 2 ^ 80 + 2 ^ 160))] } }

/-- The state of the witnesses. -/
def demo : State :=
  let s := State.reset.withProgram 0
  { s with
    cores := Tab.set s.cores 0 { demoCore (s.core 0) with running := some { img := demoImg, e := 3, since := 0 } }
    dies := Tab.set s.dies 0 (demoDie (s.die 0)), ts := 12345678, clk := 1000 }

/-- `demo` with its core changed. -/
def onCore (f : Core → Core) : State := { demo with cores := Tab.set demo.cores 0 (f (demo.core 0)) }
/-- `demo` with its die changed. -/
def onDie (f : Die → Die) : State := { demo with dies := Tab.set demo.dies 0 (f (demo.die 0)) }

/-- The test for `CanIssue`. -/
def canB (s : State) (cls : Nat) : Bool :=
  s.now.runs && decide (s.now.gate s.clk = none) && decide (s.now.pipe.pre = 0) && !s.now.bkpt && s.now.admits s.clk cls
theorem can_of {s : State} {cls : Nat} (h : canB s cls = true) : CanIssue s cls := by
  simpa [canB, CanIssue, and_assoc] using h

/-- The test for `Fires`, no acquire pending. -/
def firesB (s : State) (g : BitVec 4) (sid : BitVec 12) (id : Nat) (src : Src) (v : Line) : Bool :=
  canB s 0 && decide ((s.env s.focus).lo ≤ s.now.pcAddr + 32) && decide (s.now.pcAddr + 32 < (s.env s.focus).hi) &&
    decide (canonId (s.env s.focus).ver id = some id) && guardOn s.now.regs g &&
    decide (srcOf (s.env s.focus).ver sid.toNat = some src) &&
    (match readSrc s.focus s (s.env s.focus) plainBundle plainSlot src with | .ok x => decide (x = v) | .error _ => false) &&
    !s.now.acqPending
theorem fires_of {s : State} {g : BitVec 4} {sid : BitVec 12} {id : Nat} {src : Src} {v : Line}
    (h : firesB s g sid id src v = true) : Fires s g sid id src v := by
  simp only [firesB, Bool.and_eq_true, decide_eq_true_eq, Bool.not_eq_true'] at h
  obtain ⟨⟨⟨⟨⟨⟨⟨hc, h1⟩, h2⟩, h3⟩, h4⟩, h5⟩, h6⟩, h7⟩ := h
  refine ⟨can_of hc, ⟨h1, h2⟩, h3, h4, ⟨h5, ?_⟩, fun h => by simp [h7] at h⟩
  split at h6 <;> simp_all

theorem demo_can : ∀ e : BitVec 4, CanIssue demo e.toNat := fun e => can_of (by revert e; decide +kernel)
theorem demo_range : InRange demo := by unfold InRange; decide +kernel

/-- Where nothing is unfinished, one more operation with few data lines finds room in the replay queue. -/
theorem room_withItem {k : Core} (h : k.Quiet) :
    ∀ it : Item, it.lines.length + it.wr.length ≤ 30 → (k.withItem it).Room := by
  obtain ⟨h1, h2, h3, h4, h5, h6, h7⟩ := h
  intro it hl
  have hr : (k.withItem it).restartRun = k.restartRun := rfl
  have hi : (k.withItem it).replayItems = [it.replay k.restartRun] := by
    simp only [Core.replayItems, hr]
    simp [Core.withItem, Core.modPipe, h1, h2, h3, h4, h5, h6, h7, Core.accNow, insertReplay]
  have hf : (k.withItem it).cp.follows = [] := h6
  have hn : (it.replay k.restartRun).lines.length ≤ 30 := by
    have := List.length_filter_le (fun e : Nat × Line => lineResult e.1) it.wr
    unfold Item.replay
    split
    all_goals (try simp) <;> (try split) <;> (try simp) <;> omega
  unfold Core.Room Core.replayUse
  rw [hi, hf]
  simpa using hn

/-- Slot `f` fires with value `v`, condition `p` holds, and the replay queue has room for one operation more. -/
structure Met (s : State) (f : Slot) (id : Nat) (src : Src) (v : Line) (p : Prop) : Prop where
  fires : Fires s f.g f.s id src v
  holds : p
  room : ∀ it : Item, it.lines.length + it.wr.length ≤ 30 → ((s.now.fired src).withItem it).Room
/-- The test for `State.NoAwait`. -/
def noAwaitB (s : State) : Bool := s.cores.all fun e => e.2.ats.all fun a => decide (a.op ≠ 0x28b)
theorem tab_get_cases {α : Type} (d : α) (t : Tab α) (n : Nat) : Tab.get d t n = d ∨ ∃ e ∈ t, Tab.get d t n = e.2 := by
  induction t with
  | nil => exact .inl rfl
  | cons e t ih =>
    by_cases h : e.1 = n
    · exact .inr ⟨e, by simp, by simp [Tab.get, h]⟩
    · simp only [Tab.get, h, if_false]
      exact ih.imp id fun ⟨x, hx, hy⟩ => ⟨x, by simp [hx], hy⟩
theorem noAwait_of {s : State} (h : noAwaitB s = true) : s.NoAwait := by
  intro c a ha
  obtain hd | ⟨e, he, hd⟩ := tab_get_cases Core.reset s.cores c
  · rw [State.core, hd] at ha
    simp [Core.reset] at ha
  · simp only [noAwaitB, List.all_eq_true, decide_eq_true_eq] at h
    exact h e he a (by rwa [State.core, hd] at ha)
/-- The test for `Core.Quiet`. -/
def quietB (k : Core) : Bool :=
  decide (k.pipe.items = []) && decide (k.eng.mx = none) && decide (k.eng.mxWait = none) && decide (k.eng.acc = none) &&
    decide (k.eng.xb = []) && decide (k.cp.follows = []) && decide (k.tier = [])
theorem met_of {s : State} {f : Slot} {id : Nat} {src : Src} {v : Line} {p : Prop}
    (h : firesB s f.g f.s id src v = true) (hq : quietB (s.now.fired src) = true) (hp : p) : Met s f id src v p :=
  ⟨fires_of h, hp, room_withItem (by simpa [quietB, Core.Quiet, and_assoc] using hq)⟩

/-- Tests for an `Except` value, which has no decidable equality of its own. -/
theorem ok_of {ε α : Type} {e : Except ε α} {a : α} (h : e.toOption = some a) : e = .ok a := by
  cases e <;> simp_all [Except.toOption]
def errOf {ε α : Type} : Except ε α → Option ε
  | .error x => some x
  | .ok _ => none
theorem error_of {ε α : Type} {e : Except ε α} {x : ε} (h : errOf e = some x) : e = .error x := by
  cases e <;> simp_all [errOf]

/-! ### Witnesses

For each clause of an obligation: a state and operands that meet its hypotheses together, at a boundary of their range
where it has one. Where a clause asks that the replay queue has room for what its operation leaves, the witness shows room for
one operation more. The operands are the spec's ids and fields; no result stands here. -/

theorem witness_EncodeDecode :
    (Instr.add 0 ⟨15, 0xfff, 15⟩).wf = true ∧ (encode (.add 0 ⟨15, 0xfff, 15⟩)).isSome = true ∧
    (Instr.suspend 15 5 63 0xfff).wf = true ∧ (encode (.suspend 15 5 63 0xfff)).isSome = true := by decide +kernel

theorem witness_StepRunsDecoded_1 :
    demo.agenda = [] ∧ demo.todo = [] ∧ demo.agents = false ∧ demo.laid = true ∧ demo.now.runs = true ∧ demo.now.pipe.held = 0 ∧
    demo.now.pipe.replay = 0 ∧ demo.now.seq.on = false ∧ (demo.env demo.focus).ver = 3 ∧
    heldAddr (demo.env demo.focus).pages demo.now.pcAddr = some (4096, true) ∧
    (decode ((List.range 32).map fun j => demo.hbm (4096 + j))).toOption = some (.cnop 0, []) := by decide +kernel

/-- No held page covers the program counter. -/
def demoUnheld : State := onCore fun k => { k with pc := 0x3FFFFFFFFFFF }
theorem witness_StepRunsDecoded_2 :
    demoUnheld.agenda = [] ∧ demoUnheld.todo = [] ∧ demoUnheld.agents = false ∧ demoUnheld.laid = true ∧
    demoUnheld.now.runs = true ∧ demoUnheld.now.pipe.held = 0 ∧ demoUnheld.now.pipe.replay = 0 ∧ demoUnheld.now.seq.on = false ∧
    heldAddr (demoUnheld.env demoUnheld.focus).pages demoUnheld.now.pcAddr = none := by decide +kernel

theorem witness_StepKeepsMemoryCanonical : MemWf State.reset ∧ MemWf demo ∧ (match step demo with | .next _ => true | _ => false) = true := by
  unfold MemWf; decide +kernel

theorem witness_IntegerUnit : ∀ u : BitVec 1, ∀ op ∈ List.range' 1 39,
    Fires demo 0 5 (intPort u + op) (.sreg 5) (lineOf 0x5555) ∧
    ∀ it : Item, it.lines.length + it.wr.length ≤ 30 → ((demo.now.fired (.sreg 5)).withItem it).Room := by
  have h : ∀ u : BitVec 1, ∀ op ∈ List.range' 1 39, firesB demo 0 5 (intPort u + op) (.sreg 5) (lineOf 0x5555) = true := by
    decide +kernel
  exact fun u op ho => ⟨fires_of (h u op ho), room_withItem (by unfold Core.Quiet; decide +kernel)⟩

/-! #### Witnesses: PlainControls, Branches, BadTargets -/

namespace S1

def demoEnd : State := onCore fun k => { k with pc := 1023 }

theorem witness_PlainControls_1 :
    (CanIssue demo 3 ∧ InRange demo ∧ ((demo.env demo.focus).ver = 1 → 3#6 = 0#6)) ∧
    (CanIssue demo 15 ∧ InRange demo ∧ demo.legendInRange (dieOf demo.focus) (demo.env demo.focus).ctx 63 = true) :=
  ⟨⟨can_of (by decide +kernel), by (unfold InRange; decide +kernel), by decide +kernel⟩, ⟨can_of (by decide +kernel),
    by (unfold InRange; decide +kernel), by decide +kernel⟩⟩
theorem witness_Branches_1 :
    (CanIssue demo 1 ∧ Reachable demo (↑demo.now.pcAddr + 32 * (3#22).toInt)) ∧
    (CanIssue demo 1 ∧ Reachable demo (↑demo.now.pcAddr + 32 * (-3#22).toInt)) ∧
    (CanIssue demo 1 ∧ Reachable demo (↑demo.now.pcAddr + 32 * (3#18).toInt) ∧ demo.now.regs.pred 1 ≠ decide (1#1 = 1#1)) ∧
    (CanIssue demo 1 ∧ InRange demo ∧ demo.now.regs.pred 2 = decide (1#1 = 1#1)) ∧
    (CanIssue demo 1 ∧ Reachable demo (↑demo.now.pcAddr + 32 * (5#22).toInt)) ∧
    (CanIssue demo 1 ∧ Reachable demo ↑(BitVec.toNat (demo.now.regs.sreg 63))) ∧
    (CanIssue demo 1 ∧ Reachable demo ↑(BitVec.toNat (demo.now.regs.sreg 62))) :=
  ⟨⟨can_of (by decide +kernel), by (unfold Reachable; decide +kernel)⟩, ⟨can_of (by decide +kernel),
    by (unfold Reachable; decide +kernel)⟩, ⟨can_of (by decide +kernel), by (unfold Reachable; decide +kernel),
    by decide +kernel⟩, ⟨can_of (by decide +kernel), by (unfold InRange; decide +kernel), by decide +kernel⟩,
    ⟨can_of (by decide +kernel), by (unfold Reachable; decide +kernel)⟩, ⟨can_of (by decide +kernel),
    by (unfold Reachable; decide +kernel)⟩, ⟨can_of (by decide +kernel), by (unfold Reachable; decide +kernel)⟩⟩
theorem witness_BadTargets_1 :
    (CanIssue demo 1 ∧ ¬Reachable demo (↑demo.now.pcAddr + 32 * (896#22).toInt)) ∧
    (CanIssue demo 1 ∧ ¬Reachable demo ↑(BitVec.toNat (demo.now.regs.sreg 1))) ∧
    (CanIssue demoEnd 1 ∧ ¬InRange demoEnd) ∧
    (CanIssue demoEnd 1 ∧ ¬Reachable demoEnd (↑demoEnd.now.pcAddr + 32 * (1#22).toInt)) :=
  ⟨⟨can_of (by decide +kernel), by (unfold Reachable; decide +kernel)⟩, ⟨can_of (by decide +kernel),
    by (unfold Reachable; decide +kernel)⟩, ⟨can_of (by decide +kernel), by (unfold InRange; decide +kernel)⟩,
    ⟨can_of (by decide +kernel), by (unfold Reachable; decide +kernel)⟩⟩

/-- A taken BRP and a CALL out of range, a RET to an address that is no multiple of 32, and each bundle at the range's end. -/
theorem witness_BadTargets_2 :
    (let s := onCore fun k => k.modRegs fun r => { r with s := [(63, 0xfffffffffffffff0)] }
     CanIssue s 1 ∧ ¬ Reachable s (s.now.regs.sreg 63).toNat) ∧
    (CanIssue demo 1 ∧ demo.now.regs.pred 1 ≠ decide ((1 : BitVec 1) = 1) ∧
      ¬ Reachable demo (demo.now.pcAddr + 32 * (896 : BitVec 18).toInt)) ∧
    (CanIssue demoEnd 0 ∧ ¬ InRange demoEnd ∧ (demoEnd.env demoEnd.focus).ver ≠ 1 ∧
      demoEnd.legendInRange (dieOf demoEnd.focus) (demoEnd.env demoEnd.focus).ctx 63 = true ∧
      demoEnd.now.regs.pred 2 = decide ((1 : BitVec 1) = 1)) :=
  ⟨⟨can_of (by decide +kernel), by (unfold Reachable; decide +kernel)⟩,
   ⟨can_of (by decide +kernel), by decide +kernel, by (unfold Reachable; decide +kernel)⟩,
   ⟨can_of (by decide +kernel), by (unfold InRange; decide +kernel), by decide +kernel⟩⟩

end S1

/-! #### Witnesses: Moves, Hints, EmptySlots, PredicateMoves, SlotStops, TwoMoves -/

namespace S2


theorem witness_Moves_1 :
    (Fires demo (0#4) (5#12) 0 (Src.sreg 5) (lineOf 21845#64) ∧ destOf (demo.env demo.focus).ver 6 = some (Dest.sreg 6)) ∧
    (Fires demo (0#4) (3072#12) 0 (Src.imm 0#64) (lineOf 0#64) ∧ destOf (demo.env demo.focus).ver 0 = some (Dest.sreg 0)) ∧
    (Fires demo (0#4) (5#12) 0 (Src.sreg 5) (lineOf 21845#64) ∧ destOf (demo.env demo.focus).ver 131 = some (Dest.pred 3)) ∧
    (Fires demo (0#4) (5#12) 0 (Src.sreg 5) (lineOf 21845#64) ∧
      destOf (demo.env demo.focus).ver 256 = some (Dest.port 256 false)) ∧
    (Fires demo (0#4) (5#12) 0 (Src.sreg 5) (lineOf 21845#64) ∧
      destOf (demo.env demo.focus).ver 448 = some (Dest.port 448 true)) :=
  ⟨⟨fires_of (by decide +kernel), by decide +kernel⟩, ⟨fires_of (by decide +kernel), by decide +kernel⟩,
    ⟨fires_of (by decide +kernel), by decide +kernel⟩, ⟨fires_of (by decide +kernel), by decide +kernel⟩,
    ⟨fires_of (by decide +kernel), by decide +kernel⟩⟩
theorem witness_Hints_1 :
    CanIssue demo 0 ∧ InRange demo :=
  ⟨can_of (by decide +kernel), by (unfold InRange; decide +kernel)⟩
theorem witness_EmptySlots_1 :
    CanIssue demo 0 ∧ InRange demo :=
  ⟨can_of (by decide +kernel), by (unfold InRange; decide +kernel)⟩
theorem witness_PredicateMoves_1 :
    Fires demo (0#4) (5#12) 0 (Src.sreg 5) (lineOf 21845#64) :=
  fires_of (by decide +kernel)
theorem witness_SlotStops_1 :
    CanIssue demo 0 ∧ InRange demo ∧
      encodeSlot (Instr.add 0#1 { g := 1#4, s := 5#12, m := 0#4 : Slot }) = some (Encoded.moveSlot 285278288#32) ∧
      guardOn demo.now.regs (slotG 285278288#32) = false ∧
      moveIllegal (demo.env demo.focus) { slot := 1, w := 285278288#32, it := 0 : SlotWork } = none :=
  ⟨can_of (by decide +kernel), by (unfold InRange; decide +kernel), by decide +kernel⟩
theorem witness_TwoMoves_1 :
    CanIssue demo 0 ∧ InRange demo ∧ (demo.env demo.focus).ver = 3 :=
  ⟨can_of (by decide +kernel), by (unfold InRange; decide +kernel), by decide +kernel⟩

end S2

/-! #### Witnesses: Moves, SlotStops, Loads, Stores, OwnLineTraps, StoreAndNote -/

namespace S3

def dst : State := onCore fun k => { k with eng := { k.eng with streams := [(2, { desc := BitVec.ofNat 256 (110 + 2^15 + 2^64*(5+ 65536 * 2) + 2^112 + 2^160+2^208 ), st := 3, n := 1 })] } }

def drs : State := onCore fun k => { k with eng := { k.eng with streams := [(2, { desc := BitVec.ofNat 256 (110 + 2^64*(5+ 65536 * 2) + 2^112 + 2^160+2^208 ), st := 3, n := 1 })] }, vrf := [(112, 777)] }

def dab : State := onCore fun k => { k with absent := [(294, true)] , vrf := [(295,  (lineOf 9 <<< 100))] }

def dsoft : State := onCore fun k => { k with soft := [294] }

theorem witness_SlotStops_soft :
    CanIssue dsoft 0 ∧ InRange dsoft ∧ guardOn dsoft.now.regs 0 = true ∧ dsoft.now.acqPending = false ∧
      destOf (dsoft.env dsoft.focus).ver 6 = some (.sreg 6) ∧ srcOf (dsoft.env dsoft.focus).ver 67 = some (.window 3) ∧
      lineCheck dsoft dsoft.focus (dsoft.env dsoft.focus) true 1 67 (windowLine dsoft.now false 0 3) = none ∧
      dsoft.now.soft.contains (windowLine dsoft.now false 0 3) = true :=
  ⟨can_of (by decide +kernel), by (unfold InRange; decide +kernel), by decide +kernel⟩

def dout : State := onCore fun k => { k with ctl := { k.ctl with win := 250 + 0x8000 } }

def mem1 : State := onCore fun k => { k with vrf := [(110, BitVec.ofNat 1024 (0x8877665544332211ff + 2^1023))], absent := [(111, true)], regs := { k.regs with s := [(5, 14080), (6, 14080+8), (8, 111*128), (9,99*128), (10, 2^22), (11, 14081)], op := [(0x180, BitVec.ofNat 1024 (3^640)), (0x181, 0)] } }

def mem2 : State := { mem1 with cores := Tab.set mem1.cores 0 ((mem1.core 0).withItem (landing mem1 0x182 0 14080 4 [(0x180, 0)])) }

def mem4 : State := { mem1 with cores := Tab.set mem1.cores 0 ((mem1.core 0).modRegs fun r => { r with op := [(0x180, 0x3f8040003e80c000bf80 <<< 32 )] }) }

def mem3 : State := { mem4 with dies := Tab.set mem1.dies 0 { mem1.die 0 with legends := [(0, demoLegend), (5, demoLegend)], surveys := [(4, 0)] } }

theorem witness_Moves_2 :
    (Fires dab (0#4) (68#12) 0 (Src.window 4) (lineOf 9#64 <<< 100) ∧
      destOf (dab.env dab.focus).ver 67 = some (Dest.window 3) ∧
      lineCheck dab dab.focus (dab.env dab.focus) true 1 67 (windowLine dab.now false 0 3) = none) ∧
    (Fires dab (0#4) (5#12) 0 (Src.sreg 5) (lineOf 21845#64) ∧ destOf (dab.env dab.focus).ver 67 = some (Dest.window 3) ∧
      lineCheck dab dab.focus (dab.env dab.focus) true 1 67 (windowLine dab.now false 0 3) = none) ∧
    (Fires dst (0#4) (5#12) 0 (Src.sreg 5) (lineOf 21845#64) ∧ destOf (dst.env dst.focus).ver 138 = some (Dest.stream 2) ∧
      (dst.now.stream 2).isWrite = true ∧ (dst.now.stream 2).st = 3 ∧ (dst.now.stream 2).wbuf.length < 8 ∧
      0 ≤ (dst.now.stream 2).elem (dst.now.stream 2).n ∧
      lineCheck dst dst.focus (dst.env dst.focus) false 1 138 ((dst.now.stream 2).elem (dst.now.stream 2).n).toNat = none) ∧
    (Fires drs (0#4) (138#12) 0 (Src.stream 2) 777#1024 ∧ destOf (drs.env drs.focus).ver 7 = some (Dest.sreg 7)) :=
  ⟨⟨fires_of (by decide +kernel), by decide +kernel⟩, ⟨fires_of (by decide +kernel), by decide +kernel⟩,
    ⟨fires_of (by decide +kernel), by decide +kernel⟩, ⟨fires_of (by decide +kernel), by decide +kernel⟩⟩
theorem witness_SlotStops_2 :
    (CanIssue demo 0 ∧ InRange demo ∧ guardOn demo.now.regs 0#4 = true ∧ demo.now.acqPending = false ∧
      destOf (demo.env demo.focus).ver 6 = some (Dest.sreg 6) ∧ srcOf (demo.env demo.focus).ver 127 = some (Src.window 63)) ∧
    (CanIssue dab 0 ∧ InRange dab ∧ guardOn dab.now.regs 0#4 = true ∧ dab.now.acqPending = false ∧
      destOf (dab.env dab.focus).ver 6 = some (Dest.sreg 6) ∧ srcOf (dab.env dab.focus).ver 67 = some (Src.window 3) ∧
      lineCheck dab dab.focus (dab.env dab.focus) true 1 67 (windowLine dab.now false 0 3) = none ∧
      dab.now.soft.contains (windowLine dab.now false 0 3) = false ∧
      dab.now.present (windowLine dab.now false 0 3) = false ∧ dab.now.pipe.held < bits dab.now.ctl.wdg 0 32) ∧
    (CanIssue demo 0 ∧ InRange demo ∧ guardOn demo.now.regs 0#4 = true ∧
      destOf (demo.env demo.focus).ver 6 = some (Dest.sreg 6) ∧ srcOf (demo.env demo.focus).ver 139 = some (Src.stream 3) ∧
      ((demo.now.stream 3).isWrite = true ∨ (demo.now.stream 3).st ≠ 2 ∧ (demo.now.stream 3).st ≠ 3)) ∧
    (CanIssue dst 0 ∧ InRange dst ∧ guardOn dst.now.regs 0#4 = true ∧ destOf (dst.env dst.focus).ver 6 = some (Dest.sreg 6) ∧
      srcOf (dst.env dst.focus).ver 138 = some (Src.stream 2) ∧
      ((dst.now.stream 2).isWrite = true ∨ (dst.now.stream 2).st ≠ 2 ∧ (dst.now.stream 2).st ≠ 3)) ∧
    (CanIssue dout 0 ∧ InRange dout ∧ guardOn dout.now.regs 0#4 = true ∧ dout.now.acqPending = false ∧
      destOf (dout.env dout.focus).ver 6 = some (Dest.sreg 6) ∧ srcOf (dout.env dout.focus).ver 127 = some (Src.window 63)) :=
  ⟨⟨can_of (by decide +kernel), by (unfold InRange; decide +kernel), by decide +kernel⟩, ⟨can_of (by decide +kernel),
    by (unfold InRange; decide +kernel), by decide +kernel⟩, ⟨can_of (by decide +kernel), by (unfold InRange; decide +kernel),
    by decide +kernel⟩, ⟨can_of (by decide +kernel), by (unfold InRange; decide +kernel), by decide +kernel⟩,
    ⟨can_of (by decide +kernel), by (unfold InRange; decide +kernel), by decide +kernel⟩⟩
theorem witness_Loads_1 :
    (Fires mem1 (0#4) (5#12) 386 (Src.sreg 5) (lineOf 14080#64) ∧ (OwnAccess mem1 386 128 (lsEa mem1 (lineOf 14080#64)) ∧
      (mem1.now.present (lsEa mem1 (lineOf 14080#64) / 128) = true ∨ (0#4).getLsbD 3 = true) ∧
      mem1.now.landingClash (loadPorts 386 0#4) (mem1.now.pipe.run + landingClass 0#4) = none) ∧
      (∀ (it : Item), it.lines.length + it.wr.length ≤ 30 → ((mem1.now.fired (Src.sreg 5)).withItem it).Room)) ∧
    (Fires mem1 (0#4) (8#12) 386 (Src.sreg 8) (lineOf 14208#64) ∧ (OwnAccess mem1 386 128 (lsEa mem1 (lineOf 14208#64)) ∧
      (mem1.now.present (lsEa mem1 (lineOf 14208#64) / 128) = true ∨ (8#4).getLsbD 3 = true) ∧
      mem1.now.landingClash (loadPorts 386 8#4) (mem1.now.pipe.run + landingClass 8#4) = none) ∧
      (∀ (it : Item), it.lines.length + it.wr.length ≤ 30 → ((mem1.now.fired (Src.sreg 8)).withItem it).Room)) :=
  ⟨⟨fires_of (by decide +kernel), by (simp only [OwnAccess]; decide +kernel),
    room_withItem (by unfold Core.Quiet; decide +kernel)⟩, ⟨fires_of (by decide +kernel),
    by (simp only [OwnAccess]; decide +kernel), room_withItem (by unfold Core.Quiet; decide +kernel)⟩⟩
theorem witness_Stores_1 :
    (Fires mem1 (0#4) (5#12) 394 (Src.sreg 5) (lineOf 14080#64) ∧ OwnAccess mem1 394 128 (lsEa mem1 (lineOf 14080#64)) ∧
      (mem1.now.fired (Src.sreg 5)).replayUse.fst + 1 ≤ 48 ∧ (mem1.now.fired (Src.sreg 5)).replayUse.snd + 4 ≤ 30) ∧
    (Fires mem1 (0#4) (5#12) 396 (Src.sreg 5) (lineOf 14080#64) ∧
      OwnAccess mem1 396 128 (BitVec.toNat (scalarOf (lineOf 14080#64))) ∧
      (mem1.now.fired (Src.sreg 5)).replayUse.fst + 1 ≤ 48 ∧ (mem1.now.fired (Src.sreg 5)).replayUse.snd + 4 ≤ 30) ∧
    (Fires mem1 (0#4) (6#12) 400 (Src.sreg 6) (lineOf 14088#64) ∧ OwnAccess mem1 400 8 (lsEa mem1 (lineOf 14088#64)) ∧
      (mem1.now.fired (Src.sreg 6)).replayUse.fst + 1 ≤ 48 ∧ (mem1.now.fired (Src.sreg 6)).replayUse.snd + 4 ≤ 30) :=
  ⟨⟨fires_of (by decide +kernel), by (unfold OwnAccess; decide +kernel), by decide +kernel⟩, ⟨fires_of (by decide +kernel),
    by (unfold OwnAccess; decide +kernel), by decide +kernel⟩, ⟨fires_of (by decide +kernel),
    by (unfold OwnAccess; decide +kernel), by decide +kernel⟩⟩
def memSoft : State := { mem1 with cores := Tab.set mem1.cores 0 { mem1.core 0 with soft := [110] } }
theorem witness_OwnLineTraps_soft :
    let v := lineOf 14080
    Fires memSoft 0 5 0x182 (.sreg 5) v ∧ (OwnAccess memSoft 0x182 128 (lsEa memSoft v) ∧
      memSoft.now.soft.contains (lsEa memSoft v / 128) = true) ∧ (memSoft.now.fired (.sreg 5)).Room :=
  ⟨fires_of (by decide +kernel), by (simp only [OwnAccess]; decide +kernel), by (unfold Core.Room; decide +kernel)⟩
theorem witness_OwnLineTraps_1 :
    (Fires mem1 (0#4) (10#12) 386 (Src.sreg 10) (lineOf 4194304#64) ∧ 2 ^ 22 ≤ lsEa mem1 (lineOf 4194304#64) ∧
      (mem1.now.fired (Src.sreg 10)).replayUse.fst + 1 ≤ 48 ∧ (mem1.now.fired (Src.sreg 10)).replayUse.snd + 4 ≤ 30) ∧
    (Fires mem1 (0#4) (9#12) 386 (Src.sreg 9) (lineOf (99#64 * 128#64)) ∧ lsEa mem1 (lineOf (99#64 * 128#64)) < 2 ^ 22 ∧
      mem1.now.mode ≠ Mode.handler ∧
      mem1.allotted mem1.focus (mem1.env mem1.focus).ctx (lsEa mem1 (lineOf (99#64 * 128#64)) / 128) = false ∧
      (mem1.now.fired (Src.sreg 9)).replayUse.fst + 1 ≤ 48 ∧ (mem1.now.fired (Src.sreg 9)).replayUse.snd + 4 ≤ 30) ∧
    (Fires mem1 (0#4) (11#12) 389 (Src.sreg 11) (lineOf 14081#64) ∧ lsEa mem1 (lineOf 14081#64) < 2 ^ 22 ∧
      lineCheck mem1 mem1.focus (mem1.env mem1.focus) true 1 389 (lsEa mem1 (lineOf 14081#64) / 128) = none ∧
      lsEa mem1 (lineOf 14081#64) % 4 ≠ 0 ∧ (mem1.now.fired (Src.sreg 11)).replayUse.fst + 1 ≤ 48 ∧
      (mem1.now.fired (Src.sreg 11)).replayUse.snd + 4 ≤ 30) ∧
    (Fires mem1 (0#4) (11#12) 400 (Src.sreg 11) (lineOf 14081#64) ∧ lsEa mem1 (lineOf 14081#64) < 2 ^ 22 ∧
      lineCheck mem1 mem1.focus (mem1.env mem1.focus) true 1 400 (lsEa mem1 (lineOf 14081#64) / 128) = none ∧
      lsEa mem1 (lineOf 14081#64) % 8 ≠ 0 ∧ (mem1.now.fired (Src.sreg 11)).replayUse.fst + 1 ≤ 48 ∧
      (mem1.now.fired (Src.sreg 11)).replayUse.snd + 4 ≤ 30) ∧
    (Fires mem2 (0#4) (5#12) 386 (Src.sreg 5) (lineOf 14080#64) ∧ OwnAccess mem2 386 128 (lsEa mem2 (lineOf 14080#64)) ∧
      mem2.now.soft.contains (lsEa mem2 (lineOf 14080#64) / 128) = false ∧
      mem2.now.landingClash (loadPorts 386 0#4) (mem2.now.pipe.run + landingClass 0#4) = some 384 ∧
      (mem2.now.fired (Src.sreg 5)).replayUse.fst + 1 ≤ 48 ∧ (mem2.now.fired (Src.sreg 5)).replayUse.snd + 4 ≤ 30) :=
  ⟨⟨fires_of (by decide +kernel), by decide +kernel⟩, ⟨fires_of (by decide +kernel), by decide +kernel⟩,
    ⟨fires_of (by decide +kernel), by decide +kernel⟩, ⟨fires_of (by decide +kernel), by decide +kernel⟩,
    ⟨fires_of (by decide +kernel), by (simp only [OwnAccess]; decide +kernel), by decide +kernel⟩⟩
theorem witness_StoreAndNote_1 :
    (Fires mem4 (0#4) (5#12) 395 (Src.sreg 5) (lineOf 14080#64) ∧ OwnAccess mem4 395 128 (lsEa mem4 (lineOf 14080#64)) ∧
      (mem4.legend (dieOf mem4.focus) (bits mem4.now.ctl.fmt 0 12)).usable = true ∧
      (mem4.env mem4.focus).svOk (mem4.legend (dieOf mem4.focus) (bits mem4.now.ctl.fmt 0 12)).svid = true ∧ overCount
      (mem4.legend (dieOf mem4.focus) (bits mem4.now.ctl.fmt 0 12)) (numLanes (bitAt (0#4) 0) (mem4.now.regs.port 384)) = 0 ∧
      (mem4.now.fired (Src.sreg 5)).replayUse.fst + 1 ≤ 48 ∧ (mem4.now.fired (Src.sreg 5)).replayUse.snd + 4 ≤ 30) ∧
    (Fires mem3 (0#4) (5#12) 395 (Src.sreg 5) (lineOf 14080#64) ∧ OwnAccess mem3 395 128 (lsEa mem3 (lineOf 14080#64)) ∧
      (mem3.legend (dieOf mem3.focus) (bits mem3.now.ctl.fmt 0 12)).usable = true ∧
      (mem3.env mem3.focus).svOk (mem3.legend (dieOf mem3.focus) (bits mem3.now.ctl.fmt 0 12)).svid = true ∧ overCount
      (mem3.legend (dieOf mem3.focus) (bits mem3.now.ctl.fmt 0 12)) (numLanes (bitAt (1#4) 0) (mem3.now.regs.port 384)) = 0 ∧
      (mem3.now.fired (Src.sreg 5)).replayUse.fst + 1 ≤ 48 ∧ (mem3.now.fired (Src.sreg 5)).replayUse.snd + 4 ≤ 30) :=
  ⟨⟨fires_of (by decide +kernel), by (unfold OwnAccess; decide +kernel), by decide +kernel⟩, ⟨fires_of (by decide +kernel),
    by (unfold OwnAccess; decide +kernel), by decide +kernel⟩⟩

/-- Survey 4 has TRAP set and the lane to be stored is beyond the legend's limit. -/
def big : State :=
  let s := { mem3 with cores := Tab.set mem3.cores 0 ((mem3.core 0).modRegs fun r => { r with op := [(0x180, 0x7f00)] }) }
  { s with dies := Tab.set s.dies 0 { s.die 0 with surveys := [(4, 2 ^ 40)] } }
/-- The current legend is not usable, or names a survey outside the task's range. -/
def big' (ls : List (Nat × Legend)) : State := { big with dies := Tab.set big.dies 0 { big.die 0 with legends := ls } }
abbrev LegendMine (s : State) : Prop :=
  s.legendInRange (dieOf s.focus) (s.env s.focus).ctx (bits s.now.ctl.fmt 0 12) = true
abbrev stlnLegend (s : State) : Legend := s.legend (dieOf s.focus) (bits s.now.ctl.fmt 0 12)
/-- The current legend's id is outside the context's range. -/
def bigOut : State := { big with dies := Tab.set big.dies 0 { big.die 0 with ranges := [(0, word (5 * 2 ^ 12 + 32 * 2 ^ 44))] } }
theorem witness_StoreAndNote_2 :
    let v : Line := lineOf 14080
    (let s := big
     Fires s 0 5 0x18b (.sreg 5) v ∧ OwnAccess s 0x18b 128 (lsEa s v) ∧ LegendMine s ∧ (stlnLegend s).usable = true ∧
       (s.env s.focus).svOk (stlnLegend s).svid = true ∧
       0 < overCount (stlnLegend s) (numLanes false (s.now.regs.port 0x180)) ∧
       s.svTrap (dieOf s.focus) (stlnLegend s).svid = true ∧ (s.now.fired (.sreg 5)).Room) ∧
    (let s := big' []
     Fires s 0 5 0x18b (.sreg 5) v ∧ OwnAccess s 0x18b 128 (lsEa s v) ∧ LegendMine s ∧ (stlnLegend s).usable = false ∧
       (s.now.fired (.sreg 5)).Room) ∧
    (let s := big' [(5, demoLegend + BitVec.ofNat 128 (26 * 2 ^ 32))]
     Fires s 0 5 0x18b (.sreg 5) v ∧ OwnAccess s 0x18b 128 (lsEa s v) ∧ LegendMine s ∧ (stlnLegend s).usable = true ∧
       (s.env s.focus).svOk (stlnLegend s).svid = false ∧ (s.now.fired (.sreg 5)).Room) ∧
    (let s := bigOut
     Fires s 0 5 0x18b (.sreg 5) v ∧ OwnAccess s 0x18b 128 (lsEa s v) ∧ ¬ LegendMine s ∧ (s.now.fired (.sreg 5)).Room) ∧
    LegendMine mem4 ∧ LegendMine mem3 :=
  ⟨⟨fires_of (by decide +kernel), by (unfold OwnAccess Core.Room; decide +kernel)⟩,
   ⟨fires_of (by decide +kernel), by (unfold OwnAccess Core.Room; decide +kernel)⟩,
   ⟨fires_of (by decide +kernel), by (unfold OwnAccess Core.Room; decide +kernel)⟩,
   ⟨fires_of (by decide +kernel), by (unfold OwnAccess Core.Room; decide +kernel)⟩, by decide +kernel⟩
/-- A load of an absent line without probe. -/
theorem witness_Loads_2 :
    let s := mem1
    let v : Line := lineOf 14208
    Met s ⟨0, 8, 0⟩ 0x182 (.sreg 8) v (OwnAccess s 0x182 128 (lsEa s v) ∧ s.now.soft.contains (lsEa s v / 128) = false ∧
      s.now.present (lsEa s v / 128) = false ∧ (0 : BitVec 4).getLsbD 3 = false ∧
      s.now.landingClash (loadPorts 0x182 0) (s.now.pipe.run + landingClass 0) = none) :=
  met_of (by decide +kernel) (by decide +kernel) (by (simp only [OwnAccess]; decide +kernel))
/-- An own-line access to a line that another core's buffer claims. -/
def taken : State := { mem1 with cores := Tab.set mem1.cores 0 { mem1.core 0 with bufs := [(2, { first := 110, cntm1 := 0, holder := 4, st := 1 })] } }
theorem witness_OwnLineTraps_right :
    let s := taken
    let v : Line := lineOf 14080
    Met s ⟨0, 5, 0⟩ 0x182 (.sreg 5) v (lsEa s v < 2 ^ 22 ∧ s.now.mode ≠ .handler ∧
      s.allotted s.focus (s.env s.focus).ctx (lsEa s v / 128) = true ∧
      s.lineRight s.focus s.focus (s.env s.focus).ctx (lsEa s v / 128) .own = false) :=
  met_of (by decide +kernel) (by decide +kernel) (by decide +kernel)

end S3

/-! #### Witnesses: VectorUnit, Quantize, Functions -/

namespace S4

def vec1 : State := onCore fun k => { k with regs := { k.regs with op := [(0x1c0, BitVec.ofNat 1024 (3^640)), (0x1c1, BitVec.ofNat 1024 (7^360))] }, vrf := [(291, BitVec.ofNat 1024 (11^280))] }

def vln : Line := BitVec.ofNat 1024 (11^280)

def vec2 : State := { vec1 with dies := Tab.set vec1.dies 0 { vec1.die 0 with legends := [] } }

def vec3 : State := onCore fun k => { k with vrf := [(291, BitVec.ofNat 1024 (0x3f80 + 0x4000 * 2^48 + 0xbf003f00 * 2^128))] }

def vl3 : Line := BitVec.ofNat 1024 (0x3f80 + 0x4000 * 2^48 + 0xbf003f00 * 2^128)

theorem witness_VectorUnit_1 :
    (Fires vec1 (0#4) (64#12) 450 (Src.window 0) vln ∧
      (∀ (it : Item), it.lines.length + it.wr.length ≤ 30 → ((vec1.now.fired (Src.window 0)).withItem it).Room)) ∧
    (Fires vec1 (0#4) (64#12) 451 (Src.window 0) vln ∧
      (∀ (it : Item), it.lines.length + it.wr.length ≤ 30 → ((vec1.now.fired (Src.window 0)).withItem it).Room)) ∧
    (Fires vec1 (0#4) (64#12) 452 (Src.window 0) vln ∧
      (∀ (it : Item), it.lines.length + it.wr.length ≤ 30 → ((vec1.now.fired (Src.window 0)).withItem it).Room)) ∧
    (Fires vec1 (0#4) (64#12) 453 (Src.window 0) vln ∧
      (∀ (it : Item), it.lines.length + it.wr.length ≤ 30 → ((vec1.now.fired (Src.window 0)).withItem it).Room)) ∧
    (Fires vec1 (0#4) (64#12) 454 (Src.window 0) vln ∧
      (∀ (it : Item), it.lines.length + it.wr.length ≤ 30 → ((vec1.now.fired (Src.window 0)).withItem it).Room)) ∧
    (Fires vec1 (0#4) (64#12) 455 (Src.window 0) vln ∧
      (∀ (it : Item), it.lines.length + it.wr.length ≤ 30 → ((vec1.now.fired (Src.window 0)).withItem it).Room)) ∧
    (Fires vec1 (0#4) (64#12) 456 (Src.window 0) vln ∧
      (∀ (it : Item), it.lines.length + it.wr.length ≤ 30 → ((vec1.now.fired (Src.window 0)).withItem it).Room)) ∧
    (Fires vec1 (0#4) (64#12) 457 (Src.window 0) vln ∧
      (∀ (it : Item), it.lines.length + it.wr.length ≤ 30 → ((vec1.now.fired (Src.window 0)).withItem it).Room)) ∧
    (Fires vec1 (0#4) (64#12) 458 (Src.window 0) vln ∧
      (∀ (it : Item), it.lines.length + it.wr.length ≤ 30 → ((vec1.now.fired (Src.window 0)).withItem it).Room)) ∧
    (Fires vec1 (0#4) (64#12) 459 (Src.window 0) vln ∧
      (∀ (it : Item), it.lines.length + it.wr.length ≤ 30 → ((vec1.now.fired (Src.window 0)).withItem it).Room)) ∧
    (Fires vec1 (0#4) (64#12) 460 (Src.window 0) vln ∧
      (∀ (it : Item), it.lines.length + it.wr.length ≤ 30 → ((vec1.now.fired (Src.window 0)).withItem it).Room)) ∧
    (Fires vec1 (0#4) (64#12) 461 (Src.window 0) vln ∧
      (∀ (it : Item), it.lines.length + it.wr.length ≤ 30 → ((vec1.now.fired (Src.window 0)).withItem it).Room)) :=
  ⟨⟨fires_of (by decide +kernel), room_withItem (by unfold Core.Quiet; decide +kernel)⟩, ⟨fires_of (by decide +kernel),
    room_withItem (by unfold Core.Quiet; decide +kernel)⟩, ⟨fires_of (by decide +kernel),
    room_withItem (by unfold Core.Quiet; decide +kernel)⟩, ⟨fires_of (by decide +kernel),
    room_withItem (by unfold Core.Quiet; decide +kernel)⟩, ⟨fires_of (by decide +kernel),
    room_withItem (by unfold Core.Quiet; decide +kernel)⟩, ⟨fires_of (by decide +kernel),
    room_withItem (by unfold Core.Quiet; decide +kernel)⟩, ⟨fires_of (by decide +kernel),
    room_withItem (by unfold Core.Quiet; decide +kernel)⟩, ⟨fires_of (by decide +kernel),
    room_withItem (by unfold Core.Quiet; decide +kernel)⟩, ⟨fires_of (by decide +kernel),
    room_withItem (by unfold Core.Quiet; decide +kernel)⟩, ⟨fires_of (by decide +kernel),
    room_withItem (by unfold Core.Quiet; decide +kernel)⟩, ⟨fires_of (by decide +kernel),
    room_withItem (by unfold Core.Quiet; decide +kernel)⟩, ⟨fires_of (by decide +kernel),
    room_withItem (by unfold Core.Quiet; decide +kernel)⟩⟩
theorem witness_VectorUnit_2 :
    (Fires vec1 (0#4) (64#12) 462 (Src.window 0) vln ∧
      (∀ (it : Item), it.lines.length + it.wr.length ≤ 30 → ((vec1.now.fired (Src.window 0)).withItem it).Room)) ∧
    (Fires vec1 (0#4) (64#12) 463 (Src.window 0) vln ∧
      (∀ (it : Item), it.lines.length + it.wr.length ≤ 30 → ((vec1.now.fired (Src.window 0)).withItem it).Room)) ∧
    (Fires vec1 (0#4) (64#12) 464 (Src.window 0) vln ∧
      (∀ (it : Item), it.lines.length + it.wr.length ≤ 30 → ((vec1.now.fired (Src.window 0)).withItem it).Room)) ∧
    (Fires vec1 (0#4) (64#12) 465 (Src.window 0) vln ∧
      (∀ (it : Item), it.lines.length + it.wr.length ≤ 30 → ((vec1.now.fired (Src.window 0)).withItem it).Room)) ∧
    (Fires vec1 (0#4) (64#12) 466 (Src.window 0) vln ∧
      (∀ (it : Item), it.lines.length + it.wr.length ≤ 30 → ((vec1.now.fired (Src.window 0)).withItem it).Room)) ∧
    (Fires vec1 (0#4) (64#12) 467 (Src.window 0) vln ∧
      (∀ (it : Item), it.lines.length + it.wr.length ≤ 30 → ((vec1.now.fired (Src.window 0)).withItem it).Room)) ∧
    (Fires vec1 (0#4) (64#12) 468 (Src.window 0) vln ∧
      (∀ (it : Item), it.lines.length + it.wr.length ≤ 30 → ((vec1.now.fired (Src.window 0)).withItem it).Room)) ∧
    (Fires vec1 (0#4) (64#12) 469 (Src.window 0) vln ∧
      (∀ (it : Item), it.lines.length + it.wr.length ≤ 30 → ((vec1.now.fired (Src.window 0)).withItem it).Room)) ∧
    (Fires vec1 (0#4) (64#12) 470 (Src.window 0) vln ∧
      (∀ (it : Item), it.lines.length + it.wr.length ≤ 30 → ((vec1.now.fired (Src.window 0)).withItem it).Room)) ∧
    (Fires vec1 (0#4) (64#12) 471 (Src.window 0) vln ∧
      (∀ (it : Item), it.lines.length + it.wr.length ≤ 30 → ((vec1.now.fired (Src.window 0)).withItem it).Room)) ∧
    (Fires vec1 (0#4) (64#12) 472 (Src.window 0) vln ∧
      (∀ (it : Item), it.lines.length + it.wr.length ≤ 30 → ((vec1.now.fired (Src.window 0)).withItem it).Room)) ∧
    (Fires vec1 (0#4) (64#12) 473 (Src.window 0) vln ∧
      (∀ (it : Item), it.lines.length + it.wr.length ≤ 30 → ((vec1.now.fired (Src.window 0)).withItem it).Room)) :=
  ⟨⟨fires_of (by decide +kernel), room_withItem (by unfold Core.Quiet; decide +kernel)⟩, ⟨fires_of (by decide +kernel),
    room_withItem (by unfold Core.Quiet; decide +kernel)⟩, ⟨fires_of (by decide +kernel),
    room_withItem (by unfold Core.Quiet; decide +kernel)⟩, ⟨fires_of (by decide +kernel),
    room_withItem (by unfold Core.Quiet; decide +kernel)⟩, ⟨fires_of (by decide +kernel),
    room_withItem (by unfold Core.Quiet; decide +kernel)⟩, ⟨fires_of (by decide +kernel),
    room_withItem (by unfold Core.Quiet; decide +kernel)⟩, ⟨fires_of (by decide +kernel),
    room_withItem (by unfold Core.Quiet; decide +kernel)⟩, ⟨fires_of (by decide +kernel),
    room_withItem (by unfold Core.Quiet; decide +kernel)⟩, ⟨fires_of (by decide +kernel),
    room_withItem (by unfold Core.Quiet; decide +kernel)⟩, ⟨fires_of (by decide +kernel),
    room_withItem (by unfold Core.Quiet; decide +kernel)⟩, ⟨fires_of (by decide +kernel),
    room_withItem (by unfold Core.Quiet; decide +kernel)⟩, ⟨fires_of (by decide +kernel),
    room_withItem (by unfold Core.Quiet; decide +kernel)⟩⟩
theorem witness_VectorUnit_3 :
    (Fires vec1 (0#4) (64#12) 474 (Src.window 0) vln ∧
      (∀ (it : Item), it.lines.length + it.wr.length ≤ 30 → ((vec1.now.fired (Src.window 0)).withItem it).Room)) ∧
    (Fires vec1 (0#4) (64#12) 475 (Src.window 0) vln ∧
      (∀ (it : Item), it.lines.length + it.wr.length ≤ 30 → ((vec1.now.fired (Src.window 0)).withItem it).Room)) ∧
    (Fires vec1 (0#4) (64#12) 476 (Src.window 0) vln ∧
      (∀ (it : Item), it.lines.length + it.wr.length ≤ 30 → ((vec1.now.fired (Src.window 0)).withItem it).Room)) ∧
    (Fires vec1 (0#4) (64#12) 477 (Src.window 0) vln ∧
      (∀ (it : Item), it.lines.length + it.wr.length ≤ 30 → ((vec1.now.fired (Src.window 0)).withItem it).Room)) :=
  ⟨⟨fires_of (by decide +kernel), room_withItem (by unfold Core.Quiet; decide +kernel)⟩, ⟨fires_of (by decide +kernel),
    room_withItem (by unfold Core.Quiet; decide +kernel)⟩, ⟨fires_of (by decide +kernel),
    room_withItem (by unfold Core.Quiet; decide +kernel)⟩, ⟨fires_of (by decide +kernel),
    room_withItem (by unfold Core.Quiet; decide +kernel)⟩⟩
theorem witness_Quantize_1 :
    (Fires vec1 (0#4) (64#12) (if true = true then 478 else 480) (Src.window 0) vln ∧
      (∀ (it : Item), it.lines.length + it.wr.length ≤ 30 → ((vec1.now.fired (Src.window 0)).withItem it).Room) ∧
      (vec1.legend (dieOf vec1.focus) (bits vec1.now.ctl.fmt 0 12)).usable = true ∧
      (vec1.env vec1.focus).svOk (vec1.legend (dieOf vec1.focus) (bits vec1.now.ctl.fmt 0 12)).svid = true) ∧
    (Fires vec1 (0#4) (64#12) (if false = true then 478 else 480) (Src.window 0) vln ∧
      (∀ (it : Item), it.lines.length + it.wr.length ≤ 30 → ((vec1.now.fired (Src.window 0)).withItem it).Room) ∧
      (vec1.legend (dieOf vec1.focus) (bits vec1.now.ctl.fmt 0 12)).usable = true ∧
      (vec1.env vec1.focus).svOk (vec1.legend (dieOf vec1.focus) (bits vec1.now.ctl.fmt 0 12)).svid = true) ∧
    (Fires vec1 (0#4) (64#12) 479 (Src.window 0) vln ∧
      (∀ (it : Item), it.lines.length + it.wr.length ≤ 30 → ((vec1.now.fired (Src.window 0)).withItem it).Room) ∧
      (vec1.legend (dieOf vec1.focus) (bits vec1.now.ctl.fmt 0 12)).usable = true) ∧
    (Fires vec2 (0#4) (64#12) (if true = true then 478 else 480) (Src.window 0) vln ∧
      (vec2.legend (dieOf vec2.focus) (bits vec2.now.ctl.fmt 0 12)).usable = false ∧
      (vec2.now.fired (Src.window 0)).replayUse.fst + 1 ≤ 48 ∧ (vec2.now.fired (Src.window 0)).replayUse.snd + 4 ≤ 30) ∧
    (Fires vec2 (0#4) (64#12) (if false = true then 478 else 480) (Src.window 0) vln ∧
      (vec2.legend (dieOf vec2.focus) (bits vec2.now.ctl.fmt 0 12)).usable = false ∧
      (vec2.now.fired (Src.window 0)).replayUse.fst + 1 ≤ 48 ∧ (vec2.now.fired (Src.window 0)).replayUse.snd + 4 ≤ 30) :=
  ⟨⟨fires_of (by decide +kernel), room_withItem (by unfold Core.Quiet; decide +kernel), by decide +kernel⟩,
    ⟨fires_of (by decide +kernel), room_withItem (by unfold Core.Quiet; decide +kernel), by decide +kernel⟩,
    ⟨fires_of (by decide +kernel), room_withItem (by unfold Core.Quiet; decide +kernel), by decide +kernel⟩,
    ⟨fires_of (by decide +kernel), by decide +kernel⟩, ⟨fires_of (by decide +kernel), by decide +kernel⟩⟩
theorem witness_Functions_1 :
    (Fires vec3 (0#4) (64#12) (512 + 1) (Src.window 0) vl3 ∧
      (∀ (it : Item), it.lines.length + it.wr.length ≤ 30 → ((vec3.now.fired (Src.window 0)).withItem it).Room)) ∧
    (Fires vec3 (0#4) (64#12) (512 + 2) (Src.window 0) vl3 ∧
      (∀ (it : Item), it.lines.length + it.wr.length ≤ 30 → ((vec3.now.fired (Src.window 0)).withItem it).Room)) ∧
    (Fires vec3 (0#4) (64#12) (512 + 3) (Src.window 0) vl3 ∧
      (∀ (it : Item), it.lines.length + it.wr.length ≤ 30 → ((vec3.now.fired (Src.window 0)).withItem it).Room)) ∧
    (Fires vec3 (0#4) (64#12) (512 + 4) (Src.window 0) vl3 ∧
      (∀ (it : Item), it.lines.length + it.wr.length ≤ 30 → ((vec3.now.fired (Src.window 0)).withItem it).Room)) ∧
    (Fires vec3 (0#4) (64#12) (512 + 5) (Src.window 0) vl3 ∧
      (∀ (it : Item), it.lines.length + it.wr.length ≤ 30 → ((vec3.now.fired (Src.window 0)).withItem it).Room)) ∧
    (Fires vec3 (0#4) (64#12) (512 + 6) (Src.window 0) vl3 ∧
      (∀ (it : Item), it.lines.length + it.wr.length ≤ 30 → ((vec3.now.fired (Src.window 0)).withItem it).Room)) ∧
    (Fires vec3 (0#4) (64#12) (512 + 7) (Src.window 0) vl3 ∧
      (∀ (it : Item), it.lines.length + it.wr.length ≤ 30 → ((vec3.now.fired (Src.window 0)).withItem it).Room)) ∧
    (Fires vec3 (0#4) (64#12) (512 + 8) (Src.window 0) vl3 ∧
      (∀ (it : Item), it.lines.length + it.wr.length ≤ 30 → ((vec3.now.fired (Src.window 0)).withItem it).Room)) ∧
    (Fires vec3 (0#4) (64#12) (512 + 9) (Src.window 0) vl3 ∧
      (∀ (it : Item), it.lines.length + it.wr.length ≤ 30 → ((vec3.now.fired (Src.window 0)).withItem it).Room)) ∧
    (Fires vec3 (0#4) (64#12) (512 + 10) (Src.window 0) vl3 ∧
      (∀ (it : Item), it.lines.length + it.wr.length ≤ 30 → ((vec3.now.fired (Src.window 0)).withItem it).Room)) ∧
    (Fires vec3 (0#4) (64#12) (512 + 11) (Src.window 0) vl3 ∧
      (∀ (it : Item), it.lines.length + it.wr.length ≤ 30 → ((vec3.now.fired (Src.window 0)).withItem it).Room)) ∧
    (Fires vec3 (0#4) (64#12) (512 + 12) (Src.window 0) vl3 ∧
      (∀ (it : Item), it.lines.length + it.wr.length ≤ 30 → ((vec3.now.fired (Src.window 0)).withItem it).Room)) :=
  ⟨⟨fires_of (by decide +kernel), room_withItem (by unfold Core.Quiet; decide +kernel)⟩, ⟨fires_of (by decide +kernel),
    room_withItem (by unfold Core.Quiet; decide +kernel)⟩, ⟨fires_of (by decide +kernel),
    room_withItem (by unfold Core.Quiet; decide +kernel)⟩, ⟨fires_of (by decide +kernel),
    room_withItem (by unfold Core.Quiet; decide +kernel)⟩, ⟨fires_of (by decide +kernel),
    room_withItem (by unfold Core.Quiet; decide +kernel)⟩, ⟨fires_of (by decide +kernel),
    room_withItem (by unfold Core.Quiet; decide +kernel)⟩, ⟨fires_of (by decide +kernel),
    room_withItem (by unfold Core.Quiet; decide +kernel)⟩, ⟨fires_of (by decide +kernel),
    room_withItem (by unfold Core.Quiet; decide +kernel)⟩, ⟨fires_of (by decide +kernel),
    room_withItem (by unfold Core.Quiet; decide +kernel)⟩, ⟨fires_of (by decide +kernel),
    room_withItem (by unfold Core.Quiet; decide +kernel)⟩, ⟨fires_of (by decide +kernel),
    room_withItem (by unfold Core.Quiet; decide +kernel)⟩, ⟨fires_of (by decide +kernel),
    room_withItem (by unfold Core.Quiet; decide +kernel)⟩⟩
theorem witness_Functions_2 :
    ∀ f ∈ [7, 23], (∀ n ∈ [3, 4, 6, 7], 1 ≤ n ∧ n ≤ 12 ∧ (n = 3 ∨ n = 4 ∨ n = 6 ∨ n = 7)) ∧
      (let x := 255 * 2 ^ f + 1
       x < 2 ^ (f + 9) ∧ x / 2 ^ f % 256 = 255 ∧ x % 2 ^ f ≠ 0) ∧
      255 * 2 ^ f < 2 ^ (f + 9) ∧ 2 ^ (f + 8) + 255 * 2 ^ f < 2 ^ (f + 9) ∧
      (let x := 2 ^ (f + 8)
       x < 2 ^ (f + 9) ∧ x / 2 ^ f % 256 = 0) ∧
      (let x := 2 ^ (f + 8) + 127 * 2 ^ f
       x < 2 ^ (f + 9) ∧ 2 ^ (f + 8) ≤ x ∧ 0 < x / 2 ^ f % 256 ∧ x / 2 ^ f % 256 < 255) := by decide +kernel

/-- The context's legend range ends below the current legend's id. -/
def vecOut : State := { vec1 with dies := Tab.set vec1.dies 0 { vec1.die 0 with ranges := [(0, word (5 * 2 ^ 12 + 32 * 2 ^ 44))] } }
abbrev LegendMine (s : State) : Prop :=
  s.legendInRange (dieOf s.focus) (s.env s.focus).ctx (bits s.now.ctl.fmt 0 12) = true
theorem witness_Quantize_3 :
    (∀ op ∈ [0x1de, 0x1df, 0x1e0], Fires vecOut 0 64 op (.window 0) vln) ∧ ¬ LegendMine vecOut ∧
      (vecOut.now.fired (.window 0)).Room ∧ LegendMine vec1 ∧ LegendMine vec2 := by
  refine ⟨?_, by decide +kernel, by (unfold Core.Room; decide +kernel), by decide +kernel⟩
  simp only [List.forall_mem_cons]
  exact ⟨fires_of (by decide +kernel), fires_of (by decide +kernel), fires_of (by decide +kernel), List.forall_mem_nil _⟩
theorem witness_Quantize_2 :
    Fires vec2 0 64 0x1df (.window 0) vln ∧ (vec2.legend (dieOf vec2.focus) (bits vec2.now.ctl.fmt 0 12)).usable = false ∧
      (vec2.now.fired (.window 0)).Room ∧
      (let it : Item := { trigItem vec2 0x1de 0 6 0 0 [] with lines := [1, 2, 3] }
       it.kind = .dig ∧ it.id = 0x1de ∧ it.m = 0 ∧ it.lines.length = 3 ∧ it.due = vec2.now.pipe.run + 1 + 5) :=
  ⟨fires_of (by decide +kernel), by (unfold Core.Room; decide +kernel)⟩

end S4

/-! #### Witnesses: AtlasAccess, Buffers -/

namespace S5

def sAt : State := onCore fun k => { k with vrf := [(110, BitVec.ofNat 1024 (3^640))], absent := [(112, true)], regs := { k.regs with s := [(5, 110*128), (6, 2^35 + 111*128), (7, 2^35 + 112*128 + 8), (8, 112*128)], op := [(0x180, BitVec.ofNat 1024 (5^440))] } }

def gb : Buf := { first := 111, cntm1 := 4, holder := 0, st := 1, gen := 3 }

def sAu : State := { sAt with cores := Tab.set (Tab.set sAt.cores 0 ((sAt.core 0).modRegs fun r => { r with op := r.op ++ [(0x181, lineOf (word (gb.handle 1 2)))] })) 1 { sAt.core 1 with ctx := some 0, bufs := [(2, gb)] } }

def bf (x : List (Nat × Buf)) (h : Word) : State := onCore fun k => { k with bufs := x, regs := { k.regs with s := [(5, 110 + 3*65536), (6, 99), (7, h), (8, 110), (9, 1), (10, 299 + 65536)], op := [(0x181, h.zeroExtend 1024)] } }

def b0 : Buf := { first := 120, cntm1 := 4, holder := 0, st := 1, gen := 3 }

def full : List (Nat × Buf) := (List.range 64).map fun i => (i, { first := i, st := 1 })

theorem witness_AtlasAccess_1 :
    (Fires sAt (0#4) (5#12) 401 (Src.sreg 5) (lineOf (110#64 * 128#64)) ∧ sAt.atlasTarget (dieOf sAt.focus) (sAt.env
      sAt.focus).ctx (scalarOf (lineOf (110#64 * 128#64))) 128 { rd := true : Need } = Except.ok (Target.here 14080 (Loc.vrf 0
      14080)) ∧ (∀ (it : Item), it.lines.length + it.wr.length ≤ 30 → ((sAt.now.fired (Src.sreg 5)).withItem it).Room) ∧
      sAt.locCheck sAt.focus (sAt.env sAt.focus).ctx (sAt.env sAt.focus).priv (Loc.vrf 0 14080) (Via.handle (BitVec.toNat
      (sAt.now.regs.portW 385))) = none ∧ bits (scalarOf (lineOf (110#64 * 128#64))) 0 48 % 128 = 0 ∧
      (sAt.core 0).soft.contains (14080 / 128) = false ∧
      ((sAt.core 0).present (14080 / 128) = true ∨ (0#4).getLsbD 3 = true) ∧
      sAt.now.landingClash (loadPorts 401 0#4) (sAt.now.pipe.run + landingClass 0#4) = none) ∧
    (Fires sAt (0#4) (8#12) 401 (Src.sreg 8) (lineOf (112#64 * 128#64)) ∧ sAt.atlasTarget (dieOf sAt.focus) (sAt.env
      sAt.focus).ctx (scalarOf (lineOf (112#64 * 128#64))) 128 { rd := true : Need } = Except.ok (Target.here 14336 (Loc.vrf 0
      14336)) ∧ (∀ (it : Item), it.lines.length + it.wr.length ≤ 30 → ((sAt.now.fired (Src.sreg 8)).withItem it).Room) ∧
      sAt.locCheck sAt.focus (sAt.env sAt.focus).ctx (sAt.env sAt.focus).priv (Loc.vrf 0 14336) (Via.handle (BitVec.toNat
      (sAt.now.regs.portW 385))) = none ∧ bits (scalarOf (lineOf (112#64 * 128#64))) 0 48 % 128 = 0 ∧
      (sAt.core 0).soft.contains (14336 / 128) = false ∧
      ((sAt.core 0).present (14336 / 128) = true ∨ (9#4).getLsbD 3 = true) ∧
      sAt.now.landingClash (loadPorts 401 9#4) (sAt.now.pipe.run + landingClass 9#4) = none) ∧
    (Fires sAu (0#4) (6#12) 401 (Src.sreg 6) (lineOf (2#64 ^ 35 + 111#64 * 128#64)) ∧ sAu.atlasTarget (dieOf sAu.focus)
      (sAu.env sAu.focus).ctx (scalarOf (lineOf (2#64 ^ 35 + 111#64 * 128#64))) 128 { rd := true : Need } = Except.ok
      (Target.here (2 ^ 35 + 111 * 128) (Loc.vrf 1 (111 * 128))) ∧
      (∀ (it : Item), it.lines.length + it.wr.length ≤ 30 → ((sAu.now.fired (Src.sreg 6)).withItem it).Room) ∧ sAu.locCheck
      sAu.focus (sAu.env sAu.focus).ctx (sAu.env sAu.focus).priv (Loc.vrf 1 (111 * 128)) (Via.handle (BitVec.toNat
      (sAu.now.regs.portW 385))) = none ∧ bits (scalarOf (lineOf (2#64 ^ 35 + 111#64 * 128#64))) 0 48 % 128 = 0 ∧
      (sAu.core 1).soft.contains (111 * 128 / 128) = false ∧
      ((sAu.core 1).present (111 * 128 / 128) = true ∨ (1#4).getLsbD 3 = true) ∧
      sAu.now.landingClash (loadPorts 401 1#4) (sAu.now.pipe.run + landingClass 1#4) = none) ∧
    (Fires sAu (0#4) (6#12) 402 (Src.sreg 6) (lineOf (2#64 ^ 35 + 111#64 * 128#64)) ∧ sAu.atlasTarget (dieOf sAu.focus)
      (sAu.env sAu.focus).ctx (scalarOf (lineOf (2#64 ^ 35 + 111#64 * 128#64))) (128 / 2 ^ (0 % 8)) { wr := true : Need } =
      Except.ok (Target.here (2 ^ 35 + 111 * 128) (Loc.vrf 1 (111 * 128))) ∧
      atlasLoc (2 ^ 35 + 111 * 128) = some (Loc.vrf 1 (111 * 128)) ∧ sAu.locCheck sAu.focus (sAu.env sAu.focus).ctx (sAu.env
      sAu.focus).priv (Loc.vrf 1 (111 * 128)) (Via.handle (BitVec.toNat (sAu.now.regs.portW 385))) = none ∧
      bits (scalarOf (lineOf (2#64 ^ 35 + 111#64 * 128#64))) 0 48 % (128 / 2 ^ (0 % 8)) = 0 ∧
      sAu.ownMeets sAu.focus true (some (2 ^ 35 + 111 * 128, 128 / 2 ^ (0 % 8))) sAu.now.pipe.seq = false ∧
      sAu.writeWaits sAu.focus (sAu.env sAu.focus).ctx (Loc.vrf 1 (111 * 128)) = false ∧
      (sAu.now.fired (Src.sreg 6)).replayUse.fst + 1 ≤ 48 ∧ (sAu.now.fired (Src.sreg 6)).replayUse.snd + 4 ≤ 30) ∧
    (Fires sAt (0#4) (5#12) 402 (Src.sreg 5) (lineOf (110#64 * 128#64)) ∧ sAt.atlasTarget (dieOf sAt.focus) (sAt.env
      sAt.focus).ctx (scalarOf (lineOf (110#64 * 128#64))) (128 / 2 ^ (3 % 8)) { wr := true : Need } = Except.ok (Target.here
      14080 (Loc.vrf 0 14080)) ∧ atlasLoc 14080 = some (Loc.vrf 0 14080) ∧ sAt.locCheck sAt.focus (sAt.env sAt.focus).ctx
      (sAt.env sAt.focus).priv (Loc.vrf 0 14080) (Via.handle (BitVec.toNat (sAt.now.regs.portW 385))) = none ∧
      bits (scalarOf (lineOf (110#64 * 128#64))) 0 48 % (128 / 2 ^ (3 % 8)) = 0 ∧
      sAt.ownMeets sAt.focus true (some (14080, 128 / 2 ^ (3 % 8))) sAt.now.pipe.seq = false ∧
      sAt.writeWaits sAt.focus (sAt.env sAt.focus).ctx (Loc.vrf 0 14080) = false ∧
      (sAt.now.fired (Src.sreg 5)).replayUse.fst + 1 ≤ 48 ∧ (sAt.now.fired (Src.sreg 5)).replayUse.snd + 4 ≤ 30) ∧
    (Fires sAu (0#4) (7#12) 402 (Src.sreg 7) (lineOf (2#64 ^ 35 + 112#64 * 128#64 + 8#64)) ∧ sAu.atlasTarget (dieOf sAu.focus)
      (sAu.env sAu.focus).ctx (scalarOf (lineOf (2#64 ^ 35 + 112#64 * 128#64 + 8#64))) (128 / 2 ^ (4 % 8))
      { wr := true : Need } = Except.ok (Target.here (2 ^ 35 + 112 * 128 + 8) (Loc.vrf 1 (112 * 128 + 8))) ∧
      atlasLoc (2 ^ 35 + 112 * 128 + 8) = some (Loc.vrf 1 (112 * 128 + 8)) ∧ sAu.locCheck sAu.focus (sAu.env sAu.focus).ctx
      (sAu.env sAu.focus).priv (Loc.vrf 1 (112 * 128 + 8)) (Via.handle (BitVec.toNat (sAu.now.regs.portW 385))) = none ∧
      bits (scalarOf (lineOf (2#64 ^ 35 + 112#64 * 128#64 + 8#64))) 0 48 % (128 / 2 ^ (4 % 8)) = 0 ∧
      sAu.ownMeets sAu.focus true (some (2 ^ 35 + 112 * 128 + 8, 128 / 2 ^ (4 % 8))) sAu.now.pipe.seq = false ∧
      sAu.writeWaits sAu.focus (sAu.env sAu.focus).ctx (Loc.vrf 1 (112 * 128 + 8)) = false ∧
      (sAu.now.fired (Src.sreg 7)).replayUse.fst + 1 ≤ 48 ∧ (sAu.now.fired (Src.sreg 7)).replayUse.snd + 4 ≤ 30) :=
  ⟨⟨fires_of (by decide +kernel), ok_of (by decide +kernel), room_withItem (by unfold Core.Quiet; decide +kernel),
    by decide +kernel⟩, ⟨fires_of (by decide +kernel), ok_of (by decide +kernel),
    room_withItem (by unfold Core.Quiet; decide +kernel), by decide +kernel⟩, ⟨fires_of (by decide +kernel),
    ok_of (by decide +kernel), room_withItem (by unfold Core.Quiet; decide +kernel), by decide +kernel⟩,
    ⟨fires_of (by decide +kernel), ok_of (by decide +kernel), by decide +kernel⟩, ⟨fires_of (by decide +kernel),
    ok_of (by decide +kernel), by decide +kernel⟩, ⟨fires_of (by decide +kernel), ok_of (by decide +kernel),
    by decide +kernel⟩⟩
theorem witness_AtlasAccess_absent :
    let v : Line := lineOf (112 * 128)
    Fires sAt 0 8 0x191 (.sreg 8) v ∧
      sAt.atlasTarget (dieOf sAt.focus) (sAt.env sAt.focus).ctx (scalarOf v) 128 { rd := true } = .ok (.here 14336 (.vrf 0 14336)) ∧
      sAt.locCheck sAt.focus (sAt.env sAt.focus).ctx (sAt.env sAt.focus).priv (.vrf 0 14336)
        (.handle (sAt.now.regs.portW 0x181).toNat) = none ∧ bits (scalarOf v) 0 48 % 128 = 0 ∧
      (sAt.core 0).soft.contains (14336 / 128) = false ∧
      sAt.now.landingClash (loadPorts 0x191 0) (sAt.now.pipe.run + landingClass 0) = none ∧
      (sAt.core 0).present (14336 / 128) = false ∧ (0 : BitVec 4).getLsbD 3 = false ∧ quietB (sAt.now.fired (.sreg 8)) = true :=
  ⟨fires_of (by decide +kernel), ok_of (by decide +kernel), by decide +kernel⟩

/-- Line 110 and three more: what HMAKE asks for. -/
def ask4 : Line := lineOf (110 + 3 * 65536)
/-- The lines of the buffer asked for by `ask4` lie in the allotment. -/
abbrev AskAllotted (s : State) : Prop :=
  ∀ j, j ≤ bits (scalarOf ask4) 16 15 → s.allotted s.focus (s.env s.focus).ctx (bits (scalarOf ask4) 0 15 + j) = true
/-- No live buffer meets those lines. -/
abbrev AskFree (s : State) : Prop :=
  ∀ e ∈ s.now.bufs, e.2.st ≠ 0 → bits (scalarOf ask4) 0 15 + bits (scalarOf ask4) 16 15 < e.2.first ∨
    e.2.first + e.2.cntm1 < bits (scalarOf ask4) 0 15
def near : Buf := { b0 with first := 113, cntm1 := 0 }
theorem witness_Buffers_1 :
    (let s := bf [] 0
     Met s ⟨0, 5, 0⟩ 0x193 (.sreg 5) ask4 (s.now.ctx = some (s.env s.focus).ctx ∧ AskAllotted s ∧ (s.now.buf 0).st = 0 ∧
      (∀ j, j < 0 → (s.now.buf j).st ≠ 0) ∧ AskFree s)) ∧
    (let s := bf [(0, b0)] 0
     Met s ⟨0, 5, 0⟩ 0x193 (.sreg 5) ask4 (s.now.ctx = some (s.env s.focus).ctx ∧ AskAllotted s ∧ (s.now.buf 1).st = 0 ∧
      (∀ j, j < 1 → (s.now.buf j).st ≠ 0) ∧ AskFree s)) ∧
    (let s := bf full 0
     Met s ⟨0, 5, 0⟩ 0x193 (.sreg 5) ask4 (AskAllotted s ∧ ∀ j, j < 64 → (s.now.buf j).st ≠ 0)) ∧
    (let s := bf [(2, near)] 0
     Met s ⟨0, 5, 0⟩ 0x193 (.sreg 5) ask4 (AskAllotted s ∧ (s.now.buf 0).st = 0 ∧ (2, near) ∈ s.now.bufs ∧ near.st ≠ 0 ∧
      near.first ≤ bits (scalarOf ask4) 0 15 + bits (scalarOf ask4) 16 15 ∧
      bits (scalarOf ask4) 0 15 ≤ near.first + near.cntm1)) ∧
    (let s := bf [] 0
     let v : Line := lineOf (299 + 65536)
     Met s ⟨0, 10, 0⟩ 0x193 (.sreg 10) v (1 ≤ bits (scalarOf v) 16 15 ∧
      s.allotted s.focus (s.env s.focus).ctx (bits (scalarOf v) 0 15 + 1) = false ∧
      ∀ i, i < 1 → s.allotted s.focus (s.env s.focus).ctx (bits (scalarOf v) 0 15 + i) = true)) :=
  ⟨met_of (by decide +kernel) (by decide +kernel) (by decide +kernel), met_of (by decide +kernel) (by decide +kernel)
    (by decide +kernel), met_of (by decide +kernel) (by decide +kernel) (by decide +kernel), met_of (by decide +kernel)
    (by decide +kernel) (by decide +kernel), met_of (by decide +kernel) (by decide +kernel) (by decide +kernel)⟩

/-- Slot 2 of this core's buffer table holds `b`; `ls.h` and S7 name its handle of generation 3. -/
def hs (b : Buf) : State := bf [(2, b)] (word (b0.handle 0 2))
def hh : Nat := b0.handle 0 2
/-- The handle is this core's, its context is on the core, and no handle operation or STA of the task is unperformed. -/
abbrev OwnHandle (s : State) : Prop :=
  hh < 65536 ∧ handleOwner s.focus hh = s.focus ∧ s.now.ctx = some (s.env s.focus).ctx ∧
    (∀ a ∈ s.ownOpen s.focus, a.handleOp = false ∧ a.op ≠ 0x192)
/-- The buffer that it names. -/
abbrev named (s : State) : Buf := s.now.buf (handleSlot hh)
def onCore1 : Line := lineOf 1
def hl : Line := lineOf (word hh)
/-- A copy of this core's writes lines 120 on. -/
def copying (s : State) : State := { s with cores := Tab.set s.cores 0 { s.core 0 with cp := { (s.core 0).cp with
  ch := [(2, { st := 2, act := some { img := BitVec.ofNat 3072 (0x1000 + 2^64*120*128 + 2^325 + 2^327 + 2^335 + 2^1024*3 + 2^1056*4 + 2^1104*4), ticket := 4, tpl := 3, soff := 0, doff := 0, ctx := 0 } })] } } }
theorem witness_Buffers_2 :
    (let s := hs b0
     Met s ⟨0, 9, 0⟩ 0x194 (.sreg 9) onCore1 (OwnHandle s ∧ handleLive (named s) hh = true ∧
      hh = (s.now.regs.portW 0x181).toNat % 65536 ∧ (named s).st = 1 ∧ (named s).holder = s.focus % 16 ∧
      s.bufBusy s.focus s.focus (named s) = false ∧ bits (scalarOf onCore1) 0 4 ≠ s.focus % 16 ∧
      s.coreEnabled (s.focus / 16 * 16 + bits (scalarOf onCore1) 0 4) = true)) ∧
    (let s := copying (hs b0)
     Met s ⟨0, 9, 0⟩ 0x194 (.sreg 9) onCore1 (OwnHandle s ∧ handleLive (named s) hh = true ∧
      hh = (s.now.regs.portW 0x181).toNat % 65536 ∧ (named s).st = 1 ∧ (named s).holder = s.focus % 16 ∧
      s.bufBusy s.focus s.focus (named s) = true)) ∧
    (let s := hs b0
     Met s ⟨0, 11, 0⟩ 0x194 (.sreg 11) 0 (OwnHandle s ∧ handleLive (named s) hh = true ∧
      hh = (s.now.regs.portW 0x181).toNat % 65536 ∧ (named s).st = 1 ∧ (named s).holder = s.focus % 16 ∧
      s.bufBusy s.focus s.focus (named s) = false ∧ bits (scalarOf (0 : Line)) 0 4 = s.focus % 16)) ∧
    (∀ b ∈ [{ b0 with holder := 4, st := 2 }, { b0 with target := 4, st := 2 }],
     let s := hs b
     Met s ⟨0, 7, 0⟩ 0x195 (.sreg 7) hl (OwnHandle s ∧ handleLive (named s) hh = true ∧
      hh = (scalarOf hl).toNat % 65536 ∧ (named s).st = 2 ∧
      ((named s).target = s.focus % 16 ∨ (named s).holder = s.focus % 16))) ∧
    (let s := hs { b0 with target := 4 }
     Met s ⟨0, 7, 0⟩ 0x196 (.sreg 7) hl (OwnHandle s ∧ handleLive (named s) hh = true ∧
      hh = (scalarOf hl).toNat % 65536 ∧ (named s).st = 1 ∧ (named s).holder = s.focus % 16 ∧
      s.bufBusy s.focus s.focus (named s) = false)) :=
  ⟨met_of (by decide +kernel) (by decide +kernel) (by decide +kernel), met_of (by decide +kernel) (by decide +kernel)
    (by decide +kernel), met_of (by decide +kernel) (by decide +kernel) (by decide +kernel),
    by simp only [List.forall_mem_cons]
       exact ⟨met_of (by decide +kernel) (by decide +kernel) (by decide +kernel), met_of (by decide +kernel)
        (by decide +kernel) (by decide +kernel), by simp⟩,
    met_of (by decide +kernel) (by decide +kernel) (by decide +kernel)⟩

/-- The answers of HGIVE, HTAKE and HREL that move no right: a dead handle, another holder, another target, a busy buffer. -/
theorem witness_Buffers_3 :
    (let s := hs { b0 with gen := 4 }
     (Met s ⟨0, 9, 0⟩ 0x194 (.sreg 9) onCore1 (OwnHandle s ∧ hh = (s.now.regs.portW 0x181).toNat % 65536 ∧
       handleLive (named s) hh = false)) ∧
     (Met s ⟨0, 7, 0⟩ 0x195 (.sreg 7) hl (OwnHandle s ∧ hh = (scalarOf hl).toNat % 65536 ∧ handleLive (named s) hh = false)) ∧
     Met s ⟨0, 7, 0⟩ 0x196 (.sreg 7) hl (OwnHandle s ∧ hh = (scalarOf hl).toNat % 65536 ∧ handleLive (named s) hh = false)) ∧
    (let s := hs { b0 with holder := 4 }
     (Met s ⟨0, 9, 0⟩ 0x194 (.sreg 9) onCore1 (OwnHandle s ∧ hh = (s.now.regs.portW 0x181).toNat % 65536 ∧
       handleLive (named s) hh = true ∧ ((named s).st ≠ 1 ∨ (named s).holder ≠ s.focus % 16))) ∧
     (Met s ⟨0, 7, 0⟩ 0x195 (.sreg 7) hl (OwnHandle s ∧ hh = (scalarOf hl).toNat % 65536 ∧ handleLive (named s) hh = true ∧
       ((named s).st ≠ 2 ∨ ((named s).target ≠ s.focus % 16 ∧ (named s).holder ≠ s.focus % 16)))) ∧
     Met s ⟨0, 7, 0⟩ 0x196 (.sreg 7) hl (OwnHandle s ∧ hh = (scalarOf hl).toNat % 65536 ∧ handleLive (named s) hh = true ∧
       ((named s).st ≠ 1 ∨ (named s).holder ≠ s.focus % 16))) ∧
    (let s := copying (hs b0)
     Met s ⟨0, 7, 0⟩ 0x196 (.sreg 7) hl (OwnHandle s ∧ hh = (scalarOf hl).toNat % 65536 ∧ handleLive (named s) hh = true ∧
       (named s).st = 1 ∧ (named s).holder = s.focus % 16 ∧ s.bufBusy s.focus s.focus (named s) = true)) :=
  ⟨⟨met_of (by decide +kernel) (by decide +kernel) (by decide +kernel), met_of (by decide +kernel) (by decide +kernel)
    (by decide +kernel), met_of (by decide +kernel) (by decide +kernel) (by decide +kernel)⟩,
   ⟨met_of (by decide +kernel) (by decide +kernel) (by decide +kernel), met_of (by decide +kernel) (by decide +kernel)
    (by decide +kernel), met_of (by decide +kernel) (by decide +kernel) (by decide +kernel)⟩,
   met_of (by decide +kernel) (by decide +kernel) (by decide +kernel)⟩

/-- LDA's other places: tile 3 of the store of core 0, held or not, a survey record of its die, and a line to which an earlier STA pends. -/
def accAddr : Nat := 0x1000000 + 3 * 20480 + 256
def svAddr : Nat := 2 ^ 45 + 0x100000 + 64 * 4
def ldaAt (held : Bool) : State :=
  onCore fun k => { k with
    regs := { k.regs with s := [(5, word accAddr), (6, word svAddr), (7, 110 * 128)] }
    accw := [(3 * 4096 + 60, 0x123456789a)]
    eng := { k.eng with mx := if held then some { id := 0x810, ports := [0, 0, 0, 0, 0, 3], seq := 0, u := 0, dc := 9, dt := 9, started := true } else none } }
def ldaLate : State :=
  let s := ldaAt false
  { s with cores := Tab.set s.cores 0 { s.core 0 with ats := [{ seq := 0, op := 0x192, addr := 110 * 128, x := 128, m := 0 }], pipe := { (s.core 0).pipe with seq := 4 } } }
abbrev LdaMeets (s : State) (a : Nat) (l : Loc) (n : Nat) : Prop :=
  s.locCheck s.focus (s.env s.focus).ctx (s.env s.focus).priv l (.handle (s.now.regs.portW 0x181).toNat) = none ∧ a % 128 = 0 ∧
    s.now.landingClash (loadPorts 0x191 0) (s.now.pipe.run + landingClass 0) = none ∧
    s.ownMeets s.focus false (some (a, 128)) s.now.pipe.seq = decide (n = 1)
theorem witness_AtlasAccess_2 :
    (let s := ldaAt false
     Fires s 0 5 0x191 (.sreg 5) (lineOf (word accAddr)) ∧
       s.atlasTarget 0 (s.env s.focus).ctx (word accAddr) 128 { rd := true } = .ok (.here accAddr (.acc 0 (3 * 20480 + 256))) ∧
       LdaMeets s accAddr (.acc 0 (3 * 20480 + 256)) 0 ∧ (s.core 0).softAcc = [] ∧
       s.accWaits 0 (s.env s.focus).ctx 3 = false ∧ quietB (s.now.fired (.sreg 5)) = true) ∧
    (let s := ldaAt true
     Fires s 0 5 0x191 (.sreg 5) (lineOf (word accAddr)) ∧
       s.atlasTarget 0 (s.env s.focus).ctx (word accAddr) 128 { rd := true } = .ok (.here accAddr (.acc 0 (3 * 20480 + 256))) ∧
       LdaMeets s accAddr (.acc 0 (3 * 20480 + 256)) 0 ∧ (s.core 0).softAcc = [] ∧
       s.accWaits 0 (s.env s.focus).ctx 3 = true ∧
       ((s.now.fired (.sreg 5)).withItem { landing s 0x191 0 accAddr 12 [] with kind := .lreq }).Room) ∧
    (let s := ldaAt false
     Fires s 0 6 0x191 (.sreg 6) (lineOf (word svAddr)) ∧
       s.atlasTarget 0 (s.env s.focus).ctx (word svAddr) 128 { rd := true } = .ok (.here svAddr (.survey 0 256)) ∧
       LdaMeets s svAddr (.survey 0 256) 0 ∧ quietB (s.now.fired (.sreg 6)) = true) ∧
    (let s := ldaLate
     Fires s 0 7 0x191 (.sreg 7) (lineOf (110 * 128)) ∧
       s.atlasTarget 0 (s.env s.focus).ctx (110 * 128) 128 { rd := true } = .ok (.here 14080 (.vrf 0 14080)) ∧
       LdaMeets s 14080 (.vrf 0 14080) 1 ∧ (s.core 0).soft.contains 110 = false ∧ quietB (s.now.fired (.sreg 7)) = true) :=
  ⟨⟨fires_of (by decide +kernel), ok_of (by decide +kernel), by decide +kernel⟩,
   ⟨fires_of (by decide +kernel), ok_of (by decide +kernel), by (unfold Core.Room; decide +kernel)⟩,
   ⟨fires_of (by decide +kernel), ok_of (by decide +kernel), by decide +kernel⟩,
   ⟨fires_of (by decide +kernel), ok_of (by decide +kernel), by decide +kernel⟩⟩
/-- The STAs of `witness_AtlasAccess_1` also come after no read or tile write that waits, and let no AWAITGE be performed. -/
theorem witness_AtlasAccess_sta :
    (let o : AtOp := { seq := sAu.now.pipe.seq, op := 0x192, addr := word (2 ^ 35 + 111 * 128), x := 128, m := 0, ctx := (sAu.env sAu.focus).ctx }
     sAu.ownBefore sAu.focus o = false) ∧ sAu.NoneDue :=
  ⟨by decide +kernel, fun c a ha h => absurd h (noAwait_of (by decide +kernel) c a ha)⟩

/-- Buffer `b` in slot 2 of core 1's table; `ls.h` and S7 name its handle of generation 3. -/
def hs1 (b : Buf) : State :=
  let s := bf [] (word (b0.handle 1 2))
  { s with cores := Tab.set s.cores 1 { s.core 1 with ctx := some 0, bufs := [(2, b)] } }
def hh1 : Nat := b0.handle 1 2
def hl1 : Line := lineOf (word hh1)
abbrev FarHandle (s : State) (b : Buf) : Prop :=
  hh1 < 65536 ∧ handleOwner s.focus hh1 = 1 ∧ handleSlot hh1 = 2 ∧ (s.core 1).ctx = some (s.env s.focus).ctx ∧ (s.core 1).buf 2 = b ∧
    handleLive b hh1 = true ∧ (∀ a ∈ s.ownOpen s.focus, a.handleOp = false ∧ a.op ≠ 0x192) ∧
    hh1 = (s.now.regs.portW 0x181).toNat % 65536 ∧ hh1 = (scalarOf hl1).toNat % 65536
theorem witness_Buffers_4 :
    (let b : Buf := { b0 with holder := 0 }
     let s := hs1 b
     Met s ⟨0, 9, 0⟩ 0x194 (.sreg 9) onCore1 (FarHandle s b ∧ b.st = 1 ∧ b.holder = s.focus % 16 ∧
       s.bufBusy s.focus 1 b = false ∧ bits (scalarOf onCore1) 0 4 ≠ s.focus % 16 ∧
       s.coreEnabled (s.focus / 16 * 16 + bits (scalarOf onCore1) 0 4) = true)) ∧
    (let b : Buf := { b0 with holder := 1, st := 2, target := 0 }
     let s := hs1 b
     Met s ⟨0, 7, 0⟩ 0x195 (.sreg 7) hl1 (FarHandle s b ∧ b.st = 2 ∧ (b.target = s.focus % 16 ∨ b.holder = s.focus % 16))) ∧
    (let b : Buf := { b0 with holder := 0 }
     let s := hs1 b
     Met s ⟨0, 7, 0⟩ 0x196 (.sreg 7) hl1 (FarHandle s b ∧ b.st = 1 ∧ b.holder = s.focus % 16 ∧ s.bufBusy s.focus 1 b = false)) :=
  ⟨met_of (by decide +kernel) (by decide +kernel) (by decide +kernel), met_of (by decide +kernel) (by decide +kernel)
    (by decide +kernel), met_of (by decide +kernel) (by decide +kernel) (by decide +kernel)⟩

end S5

/-! #### Witnesses: NoteElement, Surveys, SyncOperations -/

namespace S7

def rec1 : BitVec 512 := BitVec.ofNat 512 (0x3f800000 + 5 * 2^32 + 5 * 2^48 + 3 * 2^96 + 7 * 2^140)

def svs (sr : List (Nat × Word)) (lv : Line) : State :=
  let s := onCore fun k => { k with vrf := [(110, lv)], regs := { k.regs with s := sr, op := [(0x240, 4)] } }
  { s with dies := Tab.set s.dies 0 { s.die 0 with surveys := [(4, rec1), (6, rec1)], legends := [(5, demoLegend)] } }

def sv1 := svs [(5, 0), (6, 110 + 3 * 2^17), (7, 110), (8, 3), (9, 0x55 + 0x100 + 5 * 65536), (10, 2)] (BitVec.ofNat 1024 (0x3f80 + 0x7fc1 * 2^16 + 0xff01*2^32 + 0x41234*2^48))

def sv2 := svs [(5, 0), (6, 110 + 2^15 + 3 * 2^17), (7, 110), (8, 3), (9, 0x55 + 0x100 + 5 * 65536)] (rec1.zeroExtend 1024 + 2^300)

def dl : Delta := { sv := 6, home := 1, img := rec1, age := 5 }

def sd : State := { demo with clk := 5000, dies := [(0, { demo.die 0 with deltas := [dl], surveys := [(6, 2^46 + 2^41)] }), (1, { demo.die 1 with inDeltas := [dl, dl], surveys := [(6, BitVec.ofNat 512 (2^41 + 2^100))] })] }

def sat (x y : Word) (rf : Option Nat) : State := onCore fun k => { k with relFence := rf, regs := { k.regs with s := [(5, 0x100000F), (6, BitVec.ofNat 64 (2^35 + 0x1000000 + 20480 + 10))], op := [(0x280, lineOf x), (0x281, lineOf y)] } }

theorem witness_NoteElement_1 :
    (FNum.fin true 3 (-1)).isNan = false ∧
    (FNum.fin false 0 0).isNan = false ∧
    (FNum.fin false 1 200).isNan = false ∧
    (FNum.inf true).isNan = false ∧
    FNum.nan.isNan = true := by decide +kernel
theorem witness_Surveys_1 :
    (Fires sv1 (0#4) (5#12) 578 (Src.sreg 5) (lineOf 0#64) ∧
      (∀ (it : Item), it.lines.length + it.wr.length ≤ 30 → ((sv1.now.fired (Src.sreg 5)).withItem it).Room) ∧
      sv1.focus < 1024 ∧ sv1.now.regs.portW 576 = word 4 ∧ (sv1.env sv1.focus).svOk 4 = true ∧
      (sv1.survey (dieOf sv1.focus) 4).fwd = false ∧ scalarOf (lineOf 0#64) = 0#64) ∧
    (Fires sv1 (0#4) (6#12) 579 (Src.sreg 6) (lineOf (110#64 + 3#64 * 2#64 ^ 17)) ∧
      (∀ (it : Item), it.lines.length + it.wr.length ≤ 30 → ((sv1.now.fired (Src.sreg 6)).withItem it).Room) ∧
      sv1.focus < 1024 ∧ sv1.now.regs.portW 576 = word 4 ∧ (sv1.env sv1.focus).svOk 4 = true ∧
      (sv1.survey (dieOf sv1.focus) 4).fwd = false ∧ svnoteOk (scalarOf (lineOf (110#64 + 3#64 * 2#64 ^ 17))) = true ∧
      readCheck sv1 sv1.focus (sv1.env sv1.focus) false 1 579 (bits (scalarOf (lineOf (110#64 + 3#64 * 2#64 ^ 17))) 0 15) =
      none ∧ sv1.now.present (bits (scalarOf (lineOf (110#64 + 3#64 * 2#64 ^ 17))) 0 15) = true ∧
      bitAt (sv1.survey (dieOf sv1.focus) 4) 40 = false) ∧
    (Fires sv1 (0#4) (7#12) 580 (Src.sreg 7) (lineOf 110#64) ∧
      (∀ (it : Item), it.lines.length + it.wr.length ≤ 30 → ((sv1.now.fired (Src.sreg 7)).withItem it).Room) ∧
      sv1.focus < 1024 ∧ sv1.now.regs.portW 576 = word 4 ∧ (sv1.env sv1.focus).svOk 4 = true ∧
      (sv1.survey (dieOf sv1.focus) 4).fwd = false ∧ bits (scalarOf (lineOf 110#64)) 15 49 = 0 ∧
      readCheck sv1 sv1.focus (sv1.env sv1.focus) false 1 580 (bits (scalarOf (lineOf 110#64)) 0 15) = none ∧
      sv1.now.present (bits (scalarOf (lineOf 110#64)) 0 15) = true) ∧
    (Fires sv1 (0#4) (8#12) 581 (Src.sreg 8) (lineOf 3#64) ∧
      (∀ (it : Item), it.lines.length + it.wr.length ≤ 30 → ((sv1.now.fired (Src.sreg 8)).withItem it).Room) ∧
      sv1.focus < 1024 ∧ sv1.now.regs.portW 576 = word 4 ∧ (sv1.env sv1.focus).svOk 4 = true ∧
      (sv1.survey (dieOf sv1.focus) 4).fwd = false ∧ bits (scalarOf (lineOf 3#64)) 2 62 = 0) ∧
    (Fires sv1 (0#4) (9#12) 577 (Src.sreg 9) (lineOf (85#64 + 256#64 + 5#64 * 65536#64)) ∧
      (∀ (it : Item), it.lines.length + it.wr.length ≤ 30 → ((sv1.now.fired (Src.sreg 9)).withItem it).Room) ∧
      sv1.focus < 1024 ∧ sv1.now.regs.portW 576 = word 4 ∧ (sv1.env sv1.focus).svOk 4 = true ∧
      (sv1.survey (dieOf sv1.focus) 4).fwd = false ∧
      svrstOk (dieOf sv1.focus) (scalarOf (lineOf (85#64 + 256#64 + 5#64 * 65536#64))) = true ∧ sv1.legendInRange (dieOf
      sv1.focus) (sv1.env sv1.focus).ctx (bits (scalarOf (lineOf (85#64 + 256#64 + 5#64 * 65536#64))) 16 12) = true ∧
      BitVec.getLsbD (scalarOf (lineOf (85#64 + 256#64 + 5#64 * 65536#64))) 14 = false) ∧
    (Fires sv2 (0#4) (5#12) 578 (Src.sreg 5) (lineOf 0#64) ∧
      (∀ (it : Item), it.lines.length + it.wr.length ≤ 30 → ((sv2.now.fired (Src.sreg 5)).withItem it).Room) ∧
      sv2.focus < 1024 ∧ sv2.now.regs.portW 576 = word 4 ∧ (sv2.env sv2.focus).svOk 4 = true ∧
      (sv2.survey (dieOf sv2.focus) 4).fwd = false ∧ scalarOf (lineOf 0#64) = 0#64) ∧
    (Fires sv2 (0#4) (6#12) 579 (Src.sreg 6) (lineOf (110#64 + 2#64 ^ 15 + 3#64 * 2#64 ^ 17)) ∧
      (∀ (it : Item), it.lines.length + it.wr.length ≤ 30 → ((sv2.now.fired (Src.sreg 6)).withItem it).Room) ∧
      sv2.focus < 1024 ∧ sv2.now.regs.portW 576 = word 4 ∧ (sv2.env sv2.focus).svOk 4 = true ∧
      (sv2.survey (dieOf sv2.focus) 4).fwd = false ∧
      svnoteOk (scalarOf (lineOf (110#64 + 2#64 ^ 15 + 3#64 * 2#64 ^ 17))) = true ∧ readCheck sv2 sv2.focus (sv2.env
      sv2.focus) false 1 579 (bits (scalarOf (lineOf (110#64 + 2#64 ^ 15 + 3#64 * 2#64 ^ 17))) 0 15) = none ∧
      sv2.now.present (bits (scalarOf (lineOf (110#64 + 2#64 ^ 15 + 3#64 * 2#64 ^ 17))) 0 15) = true ∧
      bitAt (sv2.survey (dieOf sv2.focus) 4) 40 = false) ∧
    (Fires sv2 (0#4) (7#12) 580 (Src.sreg 7) (lineOf 110#64) ∧
      (∀ (it : Item), it.lines.length + it.wr.length ≤ 30 → ((sv2.now.fired (Src.sreg 7)).withItem it).Room) ∧
      sv2.focus < 1024 ∧ sv2.now.regs.portW 576 = word 4 ∧ (sv2.env sv2.focus).svOk 4 = true ∧
      (sv2.survey (dieOf sv2.focus) 4).fwd = false ∧ bits (scalarOf (lineOf 110#64)) 15 49 = 0 ∧
      readCheck sv2 sv2.focus (sv2.env sv2.focus) false 1 580 (bits (scalarOf (lineOf 110#64)) 0 15) = none ∧
      sv2.now.present (bits (scalarOf (lineOf 110#64)) 0 15) = true) ∧
    (Fires sv2 (0#4) (8#12) 581 (Src.sreg 8) (lineOf 3#64) ∧
      (∀ (it : Item), it.lines.length + it.wr.length ≤ 30 → ((sv2.now.fired (Src.sreg 8)).withItem it).Room) ∧
      sv2.focus < 1024 ∧ sv2.now.regs.portW 576 = word 4 ∧ (sv2.env sv2.focus).svOk 4 = true ∧
      (sv2.survey (dieOf sv2.focus) 4).fwd = false ∧ bits (scalarOf (lineOf 3#64)) 2 62 = 0) ∧
    (Fires sv2 (0#4) (9#12) 577 (Src.sreg 9) (lineOf (85#64 + 256#64 + 5#64 * 65536#64)) ∧
      (∀ (it : Item), it.lines.length + it.wr.length ≤ 30 → ((sv2.now.fired (Src.sreg 9)).withItem it).Room) ∧
      sv2.focus < 1024 ∧ sv2.now.regs.portW 576 = word 4 ∧ (sv2.env sv2.focus).svOk 4 = true ∧
      (sv2.survey (dieOf sv2.focus) 4).fwd = false ∧
      svrstOk (dieOf sv2.focus) (scalarOf (lineOf (85#64 + 256#64 + 5#64 * 65536#64))) = true ∧ sv2.legendInRange (dieOf
      sv2.focus) (sv2.env sv2.focus).ctx (bits (scalarOf (lineOf (85#64 + 256#64 + 5#64 * 65536#64))) 16 12) = true ∧
      BitVec.getLsbD (scalarOf (lineOf (85#64 + 256#64 + 5#64 * 65536#64))) 14 = false) ∧
    ((sd.die 0).deltas = [dl] ∧ dl.sv = 6 ∧ dl.age + 4096 ≤ sd.clk ∧ dl.home ≠ 0) ∧
    ((sd.die 1).inDeltas = [dl, dl] ∧ dl.home = 1 ∧ (sd.survey 1 dl.sv).fwd = false) :=
  ⟨⟨fires_of (by decide +kernel), room_withItem (by unfold Core.Quiet; decide +kernel), by decide +kernel⟩,
    ⟨fires_of (by decide +kernel), room_withItem (by unfold Core.Quiet; decide +kernel), by decide +kernel⟩,
    ⟨fires_of (by decide +kernel), room_withItem (by unfold Core.Quiet; decide +kernel), by decide +kernel⟩,
    ⟨fires_of (by decide +kernel), room_withItem (by unfold Core.Quiet; decide +kernel), by decide +kernel⟩,
    ⟨fires_of (by decide +kernel), room_withItem (by unfold Core.Quiet; decide +kernel), by decide +kernel⟩,
    ⟨fires_of (by decide +kernel), room_withItem (by unfold Core.Quiet; decide +kernel), by decide +kernel⟩,
    ⟨fires_of (by decide +kernel), room_withItem (by unfold Core.Quiet; decide +kernel), by decide +kernel⟩,
    ⟨fires_of (by decide +kernel), room_withItem (by unfold Core.Quiet; decide +kernel), by decide +kernel⟩,
    ⟨fires_of (by decide +kernel), room_withItem (by unfold Core.Quiet; decide +kernel), by decide +kernel⟩,
    ⟨fires_of (by decide +kernel), room_withItem (by unfold Core.Quiet; decide +kernel), by decide +kernel⟩,
    by decide +kernel⟩
theorem witness_Surveys_2 :
    (sd.survey 0 6).fwd = true ∧
    ((sd.survey 1 6).fwd = false ∧ bits (BitVec.ofNat 512 (2 ^ 41 + 3 * 2 ^ 64 + 77 * 2 ^ 140)) 41 3 = 1) := by decide +kernel
/-- Operation `op` fires with the address in S[sid] of a word of an accumulator store on this package. -/
def AtMet (s : State) (op sid m : Nat) (v : Line) (b o off : Nat) : Prop :=
  Met s ⟨0, BitVec.ofNat 12 sid, BitVec.ofNat 4 m⟩ op (.sreg sid) v
    (s.atTarget (dieOf s.focus) (s.env s.focus).ctx (s.env s.focus).priv (scalarOf v) = .ok (.here b (.acc o off)) ∧
      bits (scalarOf v) 59 5 = 0 ∧
      (op = 0x289 ∨ op = 0x28a → (BitVec.ofNat 4 m).getLsbD 3 = false ∧
        bindOk op (s.now.regs.portW 0x280) (s.now.regs.portW 0x281) = true))
def atMetB (s : State) (op sid m : Nat) (v : Line) (b o off : Nat) : Bool :=
  firesB s 0 (BitVec.ofNat 12 sid) op (.sreg sid) v && quietB (s.now.fired (.sreg sid)) &&
    decide ((s.atTarget (dieOf s.focus) (s.env s.focus).ctx (s.env s.focus).priv (scalarOf v)).toOption =
      some (.here b (.acc o off))) && decide (bits (scalarOf v) 59 5 = 0) &&
    decide (op = 0x289 ∨ op = 0x28a → (BitVec.ofNat 4 m).getLsbD 3 = false ∧
        bindOk op (s.now.regs.portW 0x280) (s.now.regs.portW 0x281) = true)
theorem atMet_of {s : State} {op sid m : Nat} {v : Line} {b o off : Nat} (h : atMetB s op sid m v b o off = true) :
    AtMet s op sid m v b o off := by
  simp only [atMetB, Bool.and_eq_true, decide_eq_true_eq] at h
  obtain ⟨⟨⟨⟨h1, h2⟩, h3⟩, h4⟩, h5⟩ := h
  exact met_of h1 h2 ⟨ok_of h3, h4, h5⟩
def nearWord : Line := lineOf 0x100000F
def farWord : Line := lineOf (BitVec.ofNat 64 (2 ^ 35 + 0x1000000 + 20490))
/-- Every operation of a word, plain and as a release, on the first word of a line of its own store and on a word of the next core's. -/
theorem witness_SyncOperations_1 :
    ∀ op ∈ [0x282, 0x283, 0x284, 0x285, 0x286, 0x287, 0x288, 0x28b], ∀ m ∈ [0, 15], ∀ r ∈ [none, some 2, some 7],
      AtMet (sat 5 7 r) op 5 m nearWord 0x100000F 0 15 ∧
      AtMet (sat 5 7 r) op 6 m farWord (2 ^ 35 + 0x1000000 + 20490) 1 20490 := by
  intro op ho m hm r hr
  have h : ([0x282, 0x283, 0x284, 0x285, 0x286, 0x287, 0x288, 0x28b].all fun op => [0, 15].all fun m =>
      [none, some 2, some 7].all fun r => atMetB (sat 5 7 r) op 5 m nearWord 0x100000F 0 15 &&
        atMetB (sat 5 7 r) op 6 m farWord (2 ^ 35 + 0x1000000 + 20490) 1 20490) = true := by decide +kernel
  simp only [List.all_eq_true, Bool.and_eq_true] at h
  exact ⟨atMet_of (h op ho m hm r hr).1, atMet_of (h op ho m hm r hr).2⟩

/-- ABIND and AUNBIND, at the lowest and the highest scope. -/
theorem witness_SyncOperations_2 :
    ∀ op ∈ [0x289, 0x28a], ∀ m ∈ [0, 7],
      AtMet (sat (128 * 3) 128 none) op 5 m nearWord 0x100000F 0 15 ∧
      AtMet (sat (128 * 3) 128 none) op 6 m farWord (2 ^ 35 + 0x1000000 + 20490) 1 20490 := by
  intro op ho m hm
  have h : ([0x289, 0x28a].all fun op => [0, 7].all fun m => atMetB (sat (128 * 3) 128 none) op 5 m nearWord 0x100000F 0 15 &&
        atMetB (sat (128 * 3) 128 none) op 6 m farWord (2 ^ 35 + 0x1000000 + 20490) 1 20490) = true := by decide +kernel
  simp only [List.all_eq_true, Bool.and_eq_true] at h
  exact ⟨atMet_of (h op ho m hm).1, atMet_of (h op ho m hm).2⟩

end S7

/-! #### Witnesses: SyncOperations, TaskOperations -/

namespace S8

def at1 (op : Nat) (x y : Word) (rel : Option Nat) (v : Acc40) : State :=
  let s := onCore fun k => { k with ats := [{ seq := 3, op := op, addr := 0x100000F, x := x, y := y, m := 0, rel := rel },{ seq := 4, op := 0x282, addr := 0x1000014, x := x, y := y, m := 0 }], accw := [(3, v), (4, 44)], pipe := { k.pipe with items := [{ kind := .atr, id := op, m := 0, seq := 3, due := 50, await := .agent }] } }
  s

def tk (sr : List (Nat × Word)) (o : Word) : State := onCore fun k => { k with regs := { k.regs with s := sr, op := [(0x2c0, lineOf o)] } }

def tk1 := tk [(1,1),(2,2),(3,3),(4,4),(5, 5), (6, 2 + 3*256), (7, 0), (8, 129 + 2^46*5+2^49*3+2^57*7), (9, 3)] 0x123456789abc

def tk2 := tk [(1,1),(2,2),(3,3),(4,4),(5, 5), (6, 1), (7, 0), (8, 129 + 2^46*5+2^49*3+2^57*7)] 0x1fff

/-- An operation on word 3 of this core's store has reached its home and may be performed. -/
abbrev AtReady (s : State) (a : AtOp) : Prop :=
  (s.core 0).ats[0]? = some a ∧ s.atFree 0 0 a = true ∧ ((0x282 ≤ a.op ∧ a.op ≤ 0x288) ∨ a.op = 0x28b) ∧ a.far = false ∧
    (a.mute = false ∨ a.src < 8192) ∧ s.atHome a.ctx a.addr = some (0, 3)
def atA (op : Nat) (x y : Word) (rel : Option Nat) : AtOp :=
  { seq := 3, op := op, addr := 0x100000F, x := x, y := y, m := 0, rel := rel }
/-- A binding of word 3 covers lines 110 and 111, and an earlier AST of this core there is not performed. -/
def covering : State :=
  let s := at1 0x283 5 7 (some 3) 7
  { s with
    cores := Tab.set s.cores 0 { s.core 0 with ats := [atA 0x283 5 7 (some 3), { seq := 1, op := 0x283, addr := 0x1000014, x := 9, m := 0 }] }
    dies := Tab.set s.dies 0 { s.die 0 with bind := [{ ctx := 0, word := 0x100000F, base := 2 ^ 63 + 0x1000014, len := 128, scope := 5, core := 0 }] } }
theorem witness_SyncOperations_3 :
    (∀ op ∈ [0x282, 0x283, 0x284, 0x285, 0x286, 0x287],
      AtReady (at1 op 5 7 none 7) (atA op 5 7 none) ∧
      AtReady (at1 op 5 7 (some 3) 7) (atA op 5 7 (some 3)) ∧
        (at1 op 5 7 (some 3) 7).coverOpen 0 0 (atA op 5 7 (some 3)) = false ∧ ((at1 op 5 7 (some 3) 7).core 0).late = []) ∧
    (∀ v ∈ [1, 2], AtReady (at1 0x288 3 1 none v) (atA 0x288 3 1 none)) ∧
    (∀ x ∈ [((5 : Word), (7 : Acc40)), (5, 5)], AtReady (at1 0x28b x.1 0 none x.2) (atA 0x28b x.1 0 none) ∧
      (x.1.truncate 32 : BitVec 32).sle (((at1 0x28b x.1 0 none x.2).core 0).acc 0 3 |>.truncate 32) = true) ∧
    (∀ x ∈ [((5 : Word), (4 : Acc40)), (0, 0xffffffffff)], AtReady (at1 0x28b x.1 0 none x.2) (atA 0x28b x.1 0 none) ∧
      (x.1.truncate 32 : BitVec 32).sle (((at1 0x28b x.1 0 none x.2).core 0).acc 0 3 |>.truncate 32) = false) ∧
    (AtReady covering (atA 0x283 5 7 (some 3)) ∧ covering.coverOpen 0 0 (atA 0x283 5 7 (some 3)) = true) := by
  simp only [List.forall_mem_cons]
  and_intros <;> first | exact List.forall_mem_nil _ | decide +kernel

/-- No AWAITGE is registered in the package where another operation is performed. -/
theorem witness_SyncOperations_4 :
    (∀ op ∈ [0x282, 0x283, 0x284, 0x285, 0x286, 0x287], (at1 op 5 7 none 7).NoAwait ∧ (at1 op 5 7 (some 3) 7).NoAwait) ∧
    ∀ v ∈ [1, 2], (at1 0x288 3 1 none v).NoAwait := by
  simp only [List.forall_mem_cons]
  and_intros <;> first | exact List.forall_mem_nil _ | exact noAwait_of (by decide +kernel)

/-- TOKSEND to die 1 of rank 5 of a domain of six packages. -/
def tk3 : State :=
  let s := tk [(5, 0xffff)] (BitVec.ofNat 64 (1 + 5 * 8 + 2 ^ 13))
  { s with pkg := { s.pkg with dsize := 6 } }
theorem witness_TaskOperations_toksend :
    Met tk3 ⟨0, 5, 7⟩ 0x2c2 (.sreg 5) (lineOf 0xffff) ((scalarOf (lineOf 0xffff)).toNat < 2 ^ 16 ∧
      (tk3.now.regs.portW 0x2c0).toNat < 2 ^ 14 ∧ 4 ≤ (7 : BitVec 4).toNat ∧ (7 : BitVec 4).toNat < 8 ∧
      ((tk3.now.regs.portW 0x2c0).getLsbD 13 = true → 6 ≤ (7 : BitVec 4).toNat ∧
        bits (tk3.now.regs.portW 0x2c0) 3 10 < tk3.pkg.dsize.toNat)) :=
  met_of (by decide +kernel) (by decide +kernel) (by decide +kernel)

theorem witness_TaskOperations_1 :
    (Fires tk1 (0#4) (5#12) 707 (Src.sreg 5) (lineOf 5#64) ∧
      (∀ (it : Item), it.lines.length + it.wr.length ≤ 30 → ((tk1.now.fired (Src.sreg 5)).withItem it).Room) ∧
      BitVec.toNat (scalarOf (lineOf 5#64)) < 6) ∧
    (Fires tk1 (0#4) (6#12) 707 (Src.sreg 6) (lineOf (2#64 + 3#64 * 256#64)) ∧
      (∀ (it : Item), it.lines.length + it.wr.length ≤ 30 → ((tk1.now.fired (Src.sreg 6)).withItem it).Room) ∧
      bits (scalarOf (lineOf (2#64 + 3#64 * 256#64))) 0 3 < 6 ∧ bits (scalarOf (lineOf (2#64 + 3#64 * 256#64))) 3 5 = 0 ∧
      (widField (tk1.taskLaunch tk1.focus).hdr (bits (scalarOf (lineOf (2#64 + 3#64 * 256#64))) 0 3)).snd ≤ 56) ∧
    (Fires tk2 (0#4) (5#12) 706 (Src.sreg 5) (lineOf 5#64) ∧ BitVec.toNat (scalarOf (lineOf 5#64)) < 2 ^ 16 ∧
      BitVec.toNat (tk2.now.regs.portW 704) < 2 ^ 14 ∧ 4 ≤ 4 ∧ 4 < 8 ∧
      (BitVec.getLsbD (tk2.now.regs.portW 704) 13 = true → 6 ≤ 4 ∧ bits (tk2.now.regs.portW 704) 3 10 < tk2.pkg.dsize.toNat) ∧ (tk2.now.fired (Src.sreg 5)).replayUse.fst + 1 ≤ 48 ∧
      (tk2.now.fired (Src.sreg 5)).replayUse.snd + 4 ≤ 30) ∧
    (Fires tk2 (0#4) (5#12) 708 (Src.sreg 5) (lineOf 5#64) ∧ (tk2.taskLaunch tk2.focus).units ≠ [] ∧
      BitVec.toNat (scalarOf (lineOf 5#64)) < 2 ^ 32 ∧ (tk2.now.fired (Src.sreg 5)).replayUse.fst + 1 ≤ 48 ∧
      (tk2.now.fired (Src.sreg 5)).replayUse.snd + 4 ≤ 30) ∧
    (Fires tk2 (0#4) (7#12) 708 (Src.sreg 7) (lineOf 0#64) ∧ (tk2.taskLaunch tk2.focus).units ≠ [] ∧
      scalarOf (lineOf 0#64) = 0#64 ∧ (tk2.now.fired (Src.sreg 7)).replayUse.fst + 1 ≤ 48 ∧
      (tk2.now.fired (Src.sreg 7)).replayUse.snd + 4 ≤ 30) ∧
    (Fires tk2 (0#4) (8#12) 705 (Src.sreg 8) (lineOf (129#64 + 2#64 ^ 46 * 5#64 + 2#64 ^ 49 * 3#64 + 2#64 ^ 57 * 7#64)) ∧
      0#4 = 0#4 ∧ bits (scalarOf (lineOf (129#64 + 2#64 ^ 46 * 5#64 + 2#64 ^ 49 * 3#64 + 2#64 ^ 57 * 7#64))) 60 4 = 0 ∧
      hdrCode (tk2.taskLaunch tk2.focus).hdr ≤ bits (scalarOf (lineOf (129#64 + 2#64 ^ 46 * 5#64 + 2#64 ^ 49 * 3#64 + 2#64 ^
      57 * 7#64))) 0 46 * 32 ∧ bits (scalarOf (lineOf (129#64 + 2#64 ^ 46 * 5#64 + 2#64 ^ 49 * 3#64 + 2#64 ^ 57 * 7#64))) 0 46
      * 32 + 32 ≤ hdrCode (tk2.taskLaunch tk2.focus).hdr + hdrSize (tk2.taskLaunch tk2.focus).hdr ∧
      (tk2.now.fired (Src.sreg 8)).replayUse.fst + 1 ≤ 48 ∧ (tk2.now.fired (Src.sreg 8)).replayUse.snd + 4 ≤ 30) ∧
    (Fires tk1 (0#4) (9#12) 709 (Src.sreg 9) (lineOf 3#64) ∧ 1 < 2 ∧ BitVec.toNat (scalarOf (lineOf 3#64)) < 64 ∧
      barValid (tk1.bar (dieOf tk1.focus) (tk1.env tk1.focus).ctx (BitVec.toNat (scalarOf (lineOf 3#64)))) = true ∧
      (tk1.now.fired (Src.sreg 9)).replayUse.fst + 1 ≤ 48 ∧ (tk1.now.fired (Src.sreg 9)).replayUse.snd + 4 ≤ 30) ∧
    (Fires tk1 (0#4) (9#12) 710 (Src.sreg 9) (lineOf 3#64) ∧
      (∀ (it : Item), it.lines.length + it.wr.length ≤ 30 → ((tk1.now.fired (Src.sreg 9)).withItem it).Room) ∧ 0#4 = 0#4 ∧
      BitVec.toNat (scalarOf (lineOf 3#64)) < 64 ∧
      barValid (tk1.bar (dieOf tk1.focus) (tk1.env tk1.focus).ctx (BitVec.toNat (scalarOf (lineOf 3#64)))) = true) :=
  ⟨⟨fires_of (by decide +kernel), room_withItem (by unfold Core.Quiet; decide +kernel), by decide +kernel⟩,
    ⟨fires_of (by decide +kernel), room_withItem (by unfold Core.Quiet; decide +kernel), by decide +kernel⟩,
    ⟨fires_of (by decide +kernel), by decide +kernel⟩, ⟨fires_of (by decide +kernel), by decide +kernel⟩,
    ⟨fires_of (by decide +kernel), by decide +kernel⟩, ⟨fires_of (by decide +kernel), by decide +kernel⟩,
    ⟨fires_of (by decide +kernel), by decide +kernel⟩, ⟨fires_of (by decide +kernel),
    room_withItem (by unfold Core.Quiet; decide +kernel), by decide +kernel⟩⟩

end S8

/-! #### Witnesses: ControlRegisters, SlewAndFiller, Streams -/

namespace S9

def ct (idx : Word) (o : Word) (f : Core → Core := id) : State := onCore fun k => f { k with regs := { k.regs with s := [(5, idx)], op := [(0x300, lineOf o), (0x340, lineOf o)] }, ctl := { k.ctl with res := 500 }, vrf := [(110, BitVec.ofNat 1024 (105 + 2^15 + 2^64*(5+ 65536 * 2) + 2^112 + 2^160+2^208 ))] }

def unpriv (s : State) : State := { s with cores := Tab.set s.cores 0 { s.core 0 with running := some { img := BitVec.ofNat 512 (3*2^472), e := 3, since := 0 } } }

def fl (k j : Nat) : State := onCore fun c => { c with pipe := { c.pipe with run := 100 }, eng := { c.eng with mx := some { id := 0x305, trig := word k, seq := 9, u := 60, dc := 4*(k+1), dt := 4*(k+1), started := true, step := j } } }

def stm (x : Stream) (k : Core) : Core := { k with eng := { k.eng with streams := [(3, x), (7, x)] } }

def ds1 : BitVec 256 := BitVec.ofNat 256 (110 + 2^15 + 2^64*(5+ 65536 * 2) + 2^112 + 2^160+2^208 )

theorem witness_ControlRegisters_1 :
    (Fires (ct 0#64 17361396579511605948#64) (0#4) (5#12) 769 (Src.sreg 5) (lineOf 0#64) ∧ (∀ (it : Item), it.lines.length +
      it.wr.length ≤ 30 → (((ct 0#64 17361396579511605948#64).now.fired (Src.sreg 5)).withItem it).Room) ∧
      BitVec.toNat (scalarOf (lineOf 0#64)) < 2 ^ 12) ∧
    (Fires (ct 0#64 17361396579511605948#64) (0#4) (5#12) 770 (Src.sreg 5) (lineOf 0#64) ∧
      ((ct 0#64 17361396579511605948#64).env (ct 0#64 17361396579511605948#64).focus).priv = true ∧
      BitVec.toNat (scalarOf (lineOf 0#64)) < 2 ^ 12 ∧ (ct 0#64 17361396579511605948#64).now.seq.on = false ∧
      ((ct 0#64 17361396579511605948#64).now.fired (Src.sreg 5)).replayUse.fst + 1 ≤ 48 ∧
      ((ct 0#64 17361396579511605948#64).now.fired (Src.sreg 5)).replayUse.snd + 4 ≤ 30) ∧
    (Fires (ct 192#64 17361396579511605948#64) (0#4) (5#12) 769 (Src.sreg 5) (lineOf 192#64) ∧ (∀ (it : Item), it.lines.length
      + it.wr.length ≤ 30 → (((ct 192#64 17361396579511605948#64).now.fired (Src.sreg 5)).withItem it).Room) ∧
      BitVec.toNat (scalarOf (lineOf 192#64)) < 2 ^ 12) ∧
    (Fires (ct 192#64 17361396579511605948#64) (0#4) (5#12) 770 (Src.sreg 5) (lineOf 192#64) ∧
      ((ct 192#64 17361396579511605948#64).env (ct 192#64 17361396579511605948#64).focus).priv = true ∧
      BitVec.toNat (scalarOf (lineOf 192#64)) < 2 ^ 12 ∧ (ct 192#64 17361396579511605948#64).now.seq.on = false ∧
      ((ct 192#64 17361396579511605948#64).now.fired (Src.sreg 5)).replayUse.fst + 1 ≤ 48 ∧
      ((ct 192#64 17361396579511605948#64).now.fired (Src.sreg 5)).replayUse.snd + 4 ≤ 30) ∧
    (Fires (ct 1#64 2251799813685247#64) (0#4) (5#12) 771 (Src.sreg 5) (lineOf 1#64) ∧
      ((ct 1#64 2251799813685247#64).env (ct 1#64 2251799813685247#64).focus).priv = true ∧
      BitVec.toNat (scalarOf (lineOf 1#64)) < 8 ∧ bits (scalarOf (lineOf 1#64)) 0 2 < 3 ∧
      (bits (scalarOf (lineOf 1#64)) 0 2 = 1 → bits ((ct 1#64 2251799813685247#64).now.regs.portW 768) 51 13 = 0) ∧
      ((ct 1#64 2251799813685247#64).now.fired (Src.sreg 5)).replayUse.fst + 1 ≤ 48 ∧
      ((ct 1#64 2251799813685247#64).now.fired (Src.sreg 5)).replayUse.snd + 4 ≤ 30) ∧
    (Fires (ct 6#64 2251799813685247#64) (0#4) (5#12) 771 (Src.sreg 5) (lineOf 6#64) ∧
      ((ct 6#64 2251799813685247#64).env (ct 6#64 2251799813685247#64).focus).priv = true ∧
      BitVec.toNat (scalarOf (lineOf 6#64)) < 8 ∧ bits (scalarOf (lineOf 6#64)) 0 2 < 3 ∧
      (bits (scalarOf (lineOf 6#64)) 0 2 = 1 → bits ((ct 6#64 2251799813685247#64).now.regs.portW 768) 51 13 = 0) ∧
      ((ct 6#64 2251799813685247#64).now.fired (Src.sreg 5)).replayUse.fst + 1 ≤ 48 ∧
      ((ct 6#64 2251799813685247#64).now.fired (Src.sreg 5)).replayUse.snd + 4 ≤ 30) ∧
    (Fires (ct 3#64 0#64) (0#4) (5#12) 769 (Src.sreg 5) (lineOf 3#64) ∧ 0#4 = 0#4 ∧
      BitVec.toNat (scalarOf (lineOf 3#64)) < 2 ^ 12 ∧
      (ct 3#64 0#64).ctlReg (ct 3#64 0#64).focus (BitVec.toNat (scalarOf (lineOf 3#64))) = none ∧
      ((ct 3#64 0#64).now.fired (Src.sreg 5)).replayUse.fst + 1 ≤ 48 ∧
      ((ct 3#64 0#64).now.fired (Src.sreg 5)).replayUse.snd + 4 ≤ 30) ∧
    (Fires (unpriv (ct 3#64 0#64)) (0#4) (5#12) 770 (Src.sreg 5) (lineOf 3#64) ∧ 0#4 = 0#4 ∧
      ((unpriv (ct 3#64 0#64)).env (unpriv (ct 3#64 0#64)).focus).priv = false ∧
      ((unpriv (ct 3#64 0#64)).now.fired (Src.sreg 5)).replayUse.fst + 1 ≤ 48 ∧
      ((unpriv (ct 3#64 0#64)).now.fired (Src.sreg 5)).replayUse.snd + 4 ≤ 30) ∧
    (Fires (unpriv (ct 3#64 0#64)) (0#4) (5#12) 771 (Src.sreg 5) (lineOf 3#64) ∧ 0#4 = 0#4 ∧
      ((unpriv (ct 3#64 0#64)).env (unpriv (ct 3#64 0#64)).focus).priv = false ∧
      ((unpriv (ct 3#64 0#64)).now.fired (Src.sreg 5)).replayUse.fst + 1 ≤ 48 ∧
      ((unpriv (ct 3#64 0#64)).now.fired (Src.sreg 5)).replayUse.snd + 4 ≤ 30) ∧
    (demo.core 0).mode ≠ Mode.handler ∧
    (((onCore fun k => { k with mode := Mode.handler : Core }).core 0).mode = Mode.handler) :=
  ⟨⟨fires_of (by decide +kernel), room_withItem (by unfold Core.Quiet; decide +kernel), by decide +kernel⟩,
    ⟨fires_of (by decide +kernel), by decide +kernel⟩, ⟨fires_of (by decide +kernel),
    room_withItem (by unfold Core.Quiet; decide +kernel), by decide +kernel⟩, ⟨fires_of (by decide +kernel),
    by decide +kernel⟩, ⟨fires_of (by decide +kernel), by decide +kernel⟩, ⟨fires_of (by decide +kernel), by decide +kernel⟩,
    ⟨fires_of (by decide +kernel), by decide +kernel⟩, ⟨fires_of (by decide +kernel), by decide +kernel⟩,
    ⟨fires_of (by decide +kernel), by decide +kernel⟩, by decide +kernel⟩
theorem witness_SlewAndFiller_1 :
    (Fires (ct 77#64 0#64) (0#4) (5#12) 772 (Src.sreg 5) (lineOf 77#64) ∧ 0#4 = 0#4 ∧
      BitVec.toNat (scalarOf (lineOf 77#64)) < 2 ^ 16 ∧ BitVec.toNat (scalarOf (lineOf 77#64)) ≤ (ct 77#64 0#64).now.ctl.res ∧
      ((ct 77#64 0#64).now.fired (Src.sreg 5)).replayUse.fst + 1 ≤ 48 ∧
      ((ct 77#64 0#64).now.fired (Src.sreg 5)).replayUse.snd + 4 ≤ 30) ∧
    (Fires (ct 500#64 0#64) (0#4) (5#12) 772 (Src.sreg 5) (lineOf 500#64) ∧ 0#4 = 0#4 ∧
      BitVec.toNat (scalarOf (lineOf 500#64)) < 2 ^ 16 ∧
      BitVec.toNat (scalarOf (lineOf 500#64)) ≤ (ct 500#64 0#64).now.ctl.res ∧
      ((ct 500#64 0#64).now.fired (Src.sreg 5)).replayUse.fst + 1 ≤ 48 ∧
      ((ct 500#64 0#64).now.fired (Src.sreg 5)).replayUse.snd + 4 ≤ 30) ∧
    ((Fires (ct 15#64 0#64 fun k => { k with ctl := let __src := k.ctl; { __src with res := 60000 : CtlRegs } : Core }) (0#4)
      (5#12) 773 (Src.sreg 5) (lineOf 15#64)) ∧ (0#4 = 0#4 ∧ BitVec.toNat (scalarOf (lineOf 15#64)) < 16 ∧ (ct 15#64 0#64 fun
      k => { k with ctl := let __src := k.ctl; { __src with res := 60000 : CtlRegs } : Core }).now.eng.mx = none ∧ (ct 15#64
      0#64 fun k => { k with ctl := let __src := k.ctl; { __src with res := 60000 : CtlRegs } : Core }).now.eng.mxWait = none
      ∧ (ct 15#64 0#64 fun k =>
      { k with ctl := let __src := k.ctl; { __src with res := 60000 : CtlRegs } : Core }).now.eng.mxEnd.fst ≠ (ct 15#64 0#64
      fun k => { k with ctl := let __src := k.ctl; { __src with res := 60000 : CtlRegs } : Core }).clk ∧ ((ct 15#64 0#64 fun k
      => { k with ctl := let __src := k.ctl; { __src with res := 60000 : CtlRegs } : Core }).die (dieOf (ct 15#64 0#64 fun k
      => { k with ctl := let __src := k.ctl; { __src with res := 60000 : CtlRegs } : Core }).focus)).fw (clusterOf (ct 15#64
      0#64 fun k => { k with ctl := let __src := k.ctl; { __src with res := 60000 : CtlRegs } : Core }).focus) (BitVec.toNat
      (scalarOf (lineOf 15#64))) ≤ (ct 15#64 0#64 fun k =>
      { k with ctl := let __src := k.ctl; { __src with res := 60000 : CtlRegs } : Core }).now.ctl.res) ∧ (((ct 15#64 0#64 fun
      k => { k with ctl := let __src := k.ctl; { __src with res := 60000 : CtlRegs } : Core }).now.fired (Src.sreg
      5)).replayUse.fst + 1 ≤ 48 ∧ ((ct 15#64 0#64 fun k =>
      { k with ctl := let __src := k.ctl; { __src with res := 60000 : CtlRegs } : Core }).now.fired (Src.sreg
      5)).replayUse.snd + 4 ≤ 30)) ∧
    ((Fires (ct 0#64 0#64 fun k => { k with ctl := let __src := k.ctl; { __src with res := 60000 : CtlRegs } : Core }) (0#4)
      (5#12) 773 (Src.sreg 5) (lineOf 0#64)) ∧ (0#4 = 0#4 ∧ BitVec.toNat (scalarOf (lineOf 0#64)) < 16 ∧ (ct 0#64 0#64 fun k
      => { k with ctl := let __src := k.ctl; { __src with res := 60000 : CtlRegs } : Core }).now.eng.mx = none ∧ (ct 0#64 0#64
      fun k => { k with ctl := let __src := k.ctl; { __src with res := 60000 : CtlRegs } : Core }).now.eng.mxWait = none ∧ (ct
      0#64 0#64 fun k => { k with ctl := let __src := k.ctl; { __src with res := 60000 : CtlRegs } : Core }).now.eng.mxEnd.fst
      ≠ (ct 0#64 0#64 fun k => { k with ctl := let __src := k.ctl; { __src with res := 60000 : CtlRegs } : Core }).clk ∧ ((ct
      0#64 0#64 fun k => { k with ctl := let __src := k.ctl; { __src with res := 60000 : CtlRegs } : Core }).die (dieOf (ct
      0#64 0#64 fun k => { k with ctl := let __src := k.ctl; { __src with res := 60000 : CtlRegs } : Core }).focus)).fw
      (clusterOf (ct 0#64 0#64 fun k =>
      { k with ctl := let __src := k.ctl; { __src with res := 60000 : CtlRegs } : Core }).focus) (BitVec.toNat (scalarOf
      (lineOf 0#64))) ≤ (ct 0#64 0#64 fun k =>
      { k with ctl := let __src := k.ctl; { __src with res := 60000 : CtlRegs } : Core }).now.ctl.res) ∧ (((ct 0#64 0#64 fun k
      => { k with ctl := let __src := k.ctl; { __src with res := 60000 : CtlRegs } : Core }).now.fired (Src.sreg
      5)).replayUse.fst + 1 ≤ 48 ∧ ((ct 0#64 0#64 fun k =>
      { k with ctl := let __src := k.ctl; { __src with res := 60000 : CtlRegs } : Core }).now.fired (Src.sreg
      5)).replayUse.snd + 4 ≤ 30)) ∧
    (((fl 3 2).core 0).eng.mx = some
      { id := 773, m := 0#4, trig := word 3, seq := 9, u := 60, dc := 16, dt := 16, started := true, step := 2, bpc := 0#64 : EngineOp }
      ∧ 60 + 4 * (2 + 1) ≤ ((fl 3 2).core 0).pipe.run) ∧
    (((fl 3 3).core 0).eng.mx = some
      { id := 773, m := 0#4, trig := word 3, seq := 9, u := 60, dc := 16, dt := 16, started := true, step := 3, bpc := 0#64 : EngineOp }
      ∧ 60 + 4 * (3 + 1) ≤ ((fl 3 3).core 0).pipe.run) :=
  ⟨⟨fires_of (by decide +kernel), by decide +kernel⟩, ⟨fires_of (by decide +kernel), by decide +kernel⟩,
    ⟨fires_of (by decide +kernel), by decide +kernel⟩, ⟨fires_of (by decide +kernel), by decide +kernel⟩, by decide +kernel⟩
theorem witness_Streams_1 :
    (Fires (ct (3#64) (110#64) (stm { desc := 0#256, st := 4, n := 9 : Machine.Stream })) (0#4) (5#12) 833 (Src.sreg 5)
      (lineOf 3#64) ∧ scalarOf (lineOf 3#64) = word 3 ∧ BitVec.toNat ((ct (3#64) (110#64) (stm
      { desc := 0#256, st := 4, n := 9 : Machine.Stream })).now.regs.portW 832) < 2 ^ 15 ∧ readCheck (ct (3#64) (110#64) (stm
      { desc := 0#256, st := 4, n := 9 : Machine.Stream })) (ct (3#64) (110#64) (stm
      { desc := 0#256, st := 4, n := 9 : Machine.Stream })).focus ((ct (3#64) (110#64) (stm
      { desc := 0#256, st := 4, n := 9 : Machine.Stream })).env (ct (3#64) (110#64) (stm
      { desc := 0#256, st := 4, n := 9 : Machine.Stream })).focus) false 1 833 (BitVec.toNat ((ct (3#64) (110#64) (stm
      { desc := 0#256, st := 4, n := 9 : Machine.Stream })).now.regs.portW 832)) = none ∧ (ct (3#64) (110#64) (stm
      { desc := 0#256, st := 4, n := 9 : Machine.Stream })).now.present (BitVec.toNat ((ct (3#64) (110#64) (stm
      { desc := 0#256, st := 4, n := 9 : Machine.Stream })).now.regs.portW 832)) = true ∧ descOk (BitVec.truncate 256 ((ct
      (3#64) (110#64) (stm { desc := 0#256, st := 4, n := 9 : Machine.Stream })).now.line (BitVec.toNat ((ct (3#64) (110#64)
      (stm { desc := 0#256, st := 4, n := 9 : Machine.Stream })).now.regs.portW 832)))) = true ∧
      ((ct (3#64) (110#64) (stm { desc := 0#256, st := 4, n := 9 : Machine.Stream })).now.stream 3).st ≠ 2 ∧
      ((ct (3#64) (110#64) (stm { desc := 0#256, st := 4, n := 9 : Machine.Stream })).now.stream 3).st ≠ 3 ∧ ((ct (3#64)
      (110#64) (stm { desc := 0#256, st := 4, n := 9 : Machine.Stream })).now.fired (Src.sreg 5)).replayUse.fst + 1 ≤ 48 ∧
      ((ct (3#64) (110#64) (stm { desc := 0#256, st := 4, n := 9 : Machine.Stream })).now.fired (Src.sreg 5)).replayUse.snd +
      4 ≤ 30) ∧
    (Fires (ct (3#64) (110#64) (stm { desc := ds1, st := 1, n := 9 : Machine.Stream })) (0#4) (5#12) 834 (Src.sreg 5) (lineOf
      3#64) ∧ scalarOf (lineOf 3#64) = word 3 ∧
      ((ct (3#64) (110#64) (stm { desc := ds1, st := 1, n := 9 : Machine.Stream })).now.stream 3).st ≠ 0 ∧ ((ct (3#64)
      (110#64) (stm { desc := ds1, st := 1, n := 9 : Machine.Stream })).die (dieOf (ct (3#64) (110#64) (stm
      { desc := ds1, st := 1, n := 9 : Machine.Stream })).focus)).wst (clusterOf (ct (3#64) (110#64) (stm
      { desc := ds1, st := 1, n := 9 : Machine.Stream })).focus) ≤ (ct (3#64) (110#64) (stm
      { desc := ds1, st := 1, n := 9 : Machine.Stream })).now.ctl.res ∧ ((ct (3#64) (110#64) (stm
      { desc := ds1, st := 1, n := 9 : Machine.Stream })).now.fired (Src.sreg 5)).replayUse.fst + 1 ≤ 48 ∧ ((ct (3#64)
      (110#64) (stm { desc := ds1, st := 1, n := 9 : Machine.Stream })).now.fired (Src.sreg 5)).replayUse.snd + 4 ≤ 30) ∧
    (Fires (ct (3#64) (110#64) (stm { desc := ds1, st := 3, n := 9, wbuf := [110] : Machine.Stream })) (0#4) (5#12) 834
      (Src.sreg 5) (lineOf 3#64) ∧ scalarOf (lineOf 3#64) = word 3 ∧
      ((ct (3#64) (110#64) (stm { desc := ds1, st := 3, n := 9, wbuf := [110] : Machine.Stream })).now.stream 3).st ≠ 0 ∧ ((ct
      (3#64) (110#64) (stm { desc := ds1, st := 3, n := 9, wbuf := [110] : Machine.Stream })).die (dieOf (ct (3#64) (110#64)
      (stm { desc := ds1, st := 3, n := 9, wbuf := [110] : Machine.Stream })).focus)).wst (clusterOf (ct (3#64) (110#64) (stm
      { desc := ds1, st := 3, n := 9, wbuf := [110] : Machine.Stream })).focus) ≤ (ct (3#64) (110#64) (stm
      { desc := ds1, st := 3, n := 9, wbuf := [110] : Machine.Stream })).now.ctl.res ∧ ((ct (3#64) (110#64) (stm
      { desc := ds1, st := 3, n := 9, wbuf := [110] : Machine.Stream })).now.fired (Src.sreg 5)).replayUse.fst + 1 ≤ 48 ∧ ((ct
      (3#64) (110#64) (stm { desc := ds1, st := 3, n := 9, wbuf := [110] : Machine.Stream })).now.fired (Src.sreg
      5)).replayUse.snd + 4 ≤ 30) ∧
    (Fires (ct (3#64) (110#64) (stm { desc := ds1, st := 3, n := 9, wbuf := [110] : Machine.Stream })) (0#4) (5#12) 835
      (Src.sreg 5) (lineOf 3#64) ∧ scalarOf (lineOf 3#64) = word 3 ∧
      ((ct (3#64) (110#64) (stm { desc := ds1, st := 3, n := 9, wbuf := [110] : Machine.Stream })).now.stream 3).st ≠ 0 ∧ ((ct
      (3#64) (110#64) (stm { desc := ds1, st := 3, n := 9, wbuf := [110] : Machine.Stream })).now.fired (Src.sreg
      5)).replayUse.fst + 1 ≤ 48 ∧ ((ct (3#64) (110#64) (stm
      { desc := ds1, st := 3, n := 9, wbuf := [110] : Machine.Stream })).now.fired (Src.sreg 5)).replayUse.snd + 4 ≤ 30) ∧
    (Fires (ct (3#64) (110#64) (stm { desc := ds1, st := 3, n := 9, wbuf := [110] : Machine.Stream })) (0#4) (5#12) 836
      (Src.sreg 5) (lineOf 3#64) ∧ (∀ (it : Item), it.lines.length + it.wr.length ≤ 30 → (((ct (3#64) (110#64) (stm
      { desc := ds1, st := 3, n := 9, wbuf := [110] : Machine.Stream })).now.fired (Src.sreg 5)).withItem it).Room) ∧
      scalarOf (lineOf 3#64) = word 3) ∧
    (Fires (ct 8#64 110#64) (0#4) (5#12) 836 (Src.sreg 5) (lineOf 8#64) ∧ 8 ≤ BitVec.toNat (scalarOf (lineOf 8#64)) ∧
      ((ct 8#64 110#64).now.fired (Src.sreg 5)).replayUse.fst + 1 ≤ 48 ∧
      ((ct 8#64 110#64).now.fired (Src.sreg 5)).replayUse.snd + 4 ≤ 30) ∧
    ((((ct (3#64) (110#64) (stm { desc := ds1, st := 2, wbuf := [110] : Machine.Stream })).core 0).stream 3).st = 2 ∧ (((ct
      (3#64) (110#64) (stm { desc := ds1, st := 2, wbuf := [110] : Machine.Stream })).core 0).stream 3).runAt ≤ ((ct (3#64)
      (110#64) (stm { desc := ds1, st := 2, wbuf := [110] : Machine.Stream })).core 0).pipe.run ∧ ((ct (3#64) (110#64) (stm
      { desc := ds1, st := 2, wbuf := [110] : Machine.Stream })).die (dieOf 0)).wst (clusterOf 0) ≤ ((ct (3#64) (110#64) (stm
      { desc := ds1, st := 2, wbuf := [110] : Machine.Stream })).core 0).ctl.res) ∧
    (Fires (ct (7#64) (110#64) (stm { desc := 0#256, st := 4, n := 9 : Machine.Stream })) (0#4) (5#12) 833 (Src.sreg 5)
      (lineOf 7#64) ∧ scalarOf (lineOf 7#64) = word 7 ∧ BitVec.toNat ((ct (7#64) (110#64) (stm
      { desc := 0#256, st := 4, n := 9 : Machine.Stream })).now.regs.portW 832) < 2 ^ 15 ∧ readCheck (ct (7#64) (110#64) (stm
      { desc := 0#256, st := 4, n := 9 : Machine.Stream })) (ct (7#64) (110#64) (stm
      { desc := 0#256, st := 4, n := 9 : Machine.Stream })).focus ((ct (7#64) (110#64) (stm
      { desc := 0#256, st := 4, n := 9 : Machine.Stream })).env (ct (7#64) (110#64) (stm
      { desc := 0#256, st := 4, n := 9 : Machine.Stream })).focus) false 1 833 (BitVec.toNat ((ct (7#64) (110#64) (stm
      { desc := 0#256, st := 4, n := 9 : Machine.Stream })).now.regs.portW 832)) = none ∧ (ct (7#64) (110#64) (stm
      { desc := 0#256, st := 4, n := 9 : Machine.Stream })).now.present (BitVec.toNat ((ct (7#64) (110#64) (stm
      { desc := 0#256, st := 4, n := 9 : Machine.Stream })).now.regs.portW 832)) = true ∧ descOk (BitVec.truncate 256 ((ct
      (7#64) (110#64) (stm { desc := 0#256, st := 4, n := 9 : Machine.Stream })).now.line (BitVec.toNat ((ct (7#64) (110#64)
      (stm { desc := 0#256, st := 4, n := 9 : Machine.Stream })).now.regs.portW 832)))) = true ∧
      ((ct (7#64) (110#64) (stm { desc := 0#256, st := 4, n := 9 : Machine.Stream })).now.stream 7).st ≠ 2 ∧
      ((ct (7#64) (110#64) (stm { desc := 0#256, st := 4, n := 9 : Machine.Stream })).now.stream 7).st ≠ 3 ∧ ((ct (7#64)
      (110#64) (stm { desc := 0#256, st := 4, n := 9 : Machine.Stream })).now.fired (Src.sreg 5)).replayUse.fst + 1 ≤ 48 ∧
      ((ct (7#64) (110#64) (stm { desc := 0#256, st := 4, n := 9 : Machine.Stream })).now.fired (Src.sreg 5)).replayUse.snd +
      4 ≤ 30) ∧
    (Fires (ct (7#64) (110#64) (stm { desc := ds1, st := 1, n := 9 : Machine.Stream })) (0#4) (5#12) 834 (Src.sreg 5) (lineOf
      7#64) ∧ scalarOf (lineOf 7#64) = word 7 ∧
      ((ct (7#64) (110#64) (stm { desc := ds1, st := 1, n := 9 : Machine.Stream })).now.stream 7).st ≠ 0 ∧ ((ct (7#64)
      (110#64) (stm { desc := ds1, st := 1, n := 9 : Machine.Stream })).die (dieOf (ct (7#64) (110#64) (stm
      { desc := ds1, st := 1, n := 9 : Machine.Stream })).focus)).wst (clusterOf (ct (7#64) (110#64) (stm
      { desc := ds1, st := 1, n := 9 : Machine.Stream })).focus) ≤ (ct (7#64) (110#64) (stm
      { desc := ds1, st := 1, n := 9 : Machine.Stream })).now.ctl.res ∧ ((ct (7#64) (110#64) (stm
      { desc := ds1, st := 1, n := 9 : Machine.Stream })).now.fired (Src.sreg 5)).replayUse.fst + 1 ≤ 48 ∧ ((ct (7#64)
      (110#64) (stm { desc := ds1, st := 1, n := 9 : Machine.Stream })).now.fired (Src.sreg 5)).replayUse.snd + 4 ≤ 30) ∧
    (Fires (ct (7#64) (110#64) (stm { desc := ds1, st := 3, n := 9, wbuf := [110] : Machine.Stream })) (0#4) (5#12) 834
      (Src.sreg 5) (lineOf 7#64) ∧ scalarOf (lineOf 7#64) = word 7 ∧
      ((ct (7#64) (110#64) (stm { desc := ds1, st := 3, n := 9, wbuf := [110] : Machine.Stream })).now.stream 7).st ≠ 0 ∧ ((ct
      (7#64) (110#64) (stm { desc := ds1, st := 3, n := 9, wbuf := [110] : Machine.Stream })).die (dieOf (ct (7#64) (110#64)
      (stm { desc := ds1, st := 3, n := 9, wbuf := [110] : Machine.Stream })).focus)).wst (clusterOf (ct (7#64) (110#64) (stm
      { desc := ds1, st := 3, n := 9, wbuf := [110] : Machine.Stream })).focus) ≤ (ct (7#64) (110#64) (stm
      { desc := ds1, st := 3, n := 9, wbuf := [110] : Machine.Stream })).now.ctl.res ∧ ((ct (7#64) (110#64) (stm
      { desc := ds1, st := 3, n := 9, wbuf := [110] : Machine.Stream })).now.fired (Src.sreg 5)).replayUse.fst + 1 ≤ 48 ∧ ((ct
      (7#64) (110#64) (stm { desc := ds1, st := 3, n := 9, wbuf := [110] : Machine.Stream })).now.fired (Src.sreg
      5)).replayUse.snd + 4 ≤ 30) ∧
    (Fires (ct (7#64) (110#64) (stm { desc := ds1, st := 3, n := 9, wbuf := [110] : Machine.Stream })) (0#4) (5#12) 835
      (Src.sreg 5) (lineOf 7#64) ∧ scalarOf (lineOf 7#64) = word 7 ∧
      ((ct (7#64) (110#64) (stm { desc := ds1, st := 3, n := 9, wbuf := [110] : Machine.Stream })).now.stream 7).st ≠ 0 ∧ ((ct
      (7#64) (110#64) (stm { desc := ds1, st := 3, n := 9, wbuf := [110] : Machine.Stream })).now.fired (Src.sreg
      5)).replayUse.fst + 1 ≤ 48 ∧ ((ct (7#64) (110#64) (stm
      { desc := ds1, st := 3, n := 9, wbuf := [110] : Machine.Stream })).now.fired (Src.sreg 5)).replayUse.snd + 4 ≤ 30) ∧
    (Fires (ct (7#64) (110#64) (stm { desc := ds1, st := 3, n := 9, wbuf := [110] : Machine.Stream })) (0#4) (5#12) 836
      (Src.sreg 5) (lineOf 7#64) ∧ (∀ (it : Item), it.lines.length + it.wr.length ≤ 30 → (((ct (7#64) (110#64) (stm
      { desc := ds1, st := 3, n := 9, wbuf := [110] : Machine.Stream })).now.fired (Src.sreg 5)).withItem it).Room) ∧
      scalarOf (lineOf 7#64) = word 7) :=
  ⟨⟨fires_of (by decide +kernel), by decide +kernel⟩, ⟨fires_of (by decide +kernel), by decide +kernel⟩,
    ⟨fires_of (by decide +kernel), by decide +kernel⟩, ⟨fires_of (by decide +kernel), by decide +kernel⟩,
    ⟨fires_of (by decide +kernel), room_withItem (by unfold Core.Quiet; decide +kernel), by decide +kernel⟩,
    ⟨fires_of (by decide +kernel), by decide +kernel⟩, by decide +kernel, ⟨fires_of (by decide +kernel), by decide +kernel⟩,
    ⟨fires_of (by decide +kernel), by decide +kernel⟩, ⟨fires_of (by decide +kernel), by decide +kernel⟩,
    ⟨fires_of (by decide +kernel), by decide +kernel⟩, ⟨fires_of (by decide +kernel),
    room_withItem (by unfold Core.Quiet; decide +kernel), by decide +kernel⟩⟩
theorem witness_Streams_2 :
    (((ct (7#64) (110#64) (stm { desc := ds1, st := 2, wbuf := [110] : Machine.Stream })).core 0).stream 7).st = 2 ∧ (((ct
      (7#64) (110#64) (stm { desc := ds1, st := 2, wbuf := [110] : Machine.Stream })).core 0).stream 7).runAt ≤ ((ct (7#64)
      (110#64) (stm { desc := ds1, st := 2, wbuf := [110] : Machine.Stream })).core 0).pipe.run ∧ ((ct (7#64) (110#64) (stm
      { desc := ds1, st := 2, wbuf := [110] : Machine.Stream })).die (dieOf 0)).wst (clusterOf 0) ≤ ((ct (7#64) (110#64) (stm
      { desc := ds1, st := 2, wbuf := [110] : Machine.Stream })).core 0).ctl.res :=
  by decide +kernel

/-- A reserved trigger bit and a reserved modifier bit of each stream operation. -/
theorem witness_Streams_3 : ∀ op ∈ [0x341, 0x342, 0x343, 0x344],
    Met (ct 8 0) ⟨0, 5, 0⟩ op (.sreg 5) (lineOf 8) (8 ≤ (scalarOf (lineOf 8)).toNat) ∧
    Met (ct 3 110) ⟨0, 5, 1⟩ op (.sreg 5) (lineOf 3) ((1 : BitVec 4) ≠ 0) := by
  simp only [List.forall_mem_cons]
  and_intros <;> first | exact List.forall_mem_nil _ | exact met_of (by decide +kernel) (by decide +kernel) (by decide +kernel)

end S9

/-! #### Witnesses: MatrixStarts, MatrixSteps, AccumulatorOperations, TileSteps, SpillFillRestores -/

namespace S10

def mxp (a sa b sb k t mo sv : Nat) : State :=
  let s := onCore fun c => { c with vrf := (List.range 60).map fun i => (110 + i, BitVec.ofNat 1024 (3 ^ (100 + 9 * i))), accw := [(t * 4096 + 5, 0x1234567890), (t * 4096 + 4095, 0x4000000000)], regs := { c.regs with s := [(5, 0), (6, 1)], op := [(0x800, lineOf (word a)), (0x801, lineOf (word sa)), (0x802, lineOf (word b)), (0x803, lineOf (word sb)), (0x804, lineOf (word k)), (0x805, lineOf (word t)), (0x806, lineOf (word mo)), (0x807, lineOf (word sv))] }, ctl := { c.ctl with res := 500 } }
  { s with dies := Tab.set s.dies 0 { s.die 0 with legends := [(5, demoLegend)] } }

def m1 := mxp (110*128) 64 (112*128) 128 32 3 0 0

def m2 := mxp (110*128+64) 64 (113*128) 64 64 3 (1 + 5*16 + 5*65536 + 2^28*3 + 2^36*255) (4096+4)

def eo (id : Nat) (st : State) (x : Nat) : EngineOp := { id := id, ports := st.now.mxPorts, seq := 2, u := 7, dc := 144, dt := 144, legs := [demoLegend, demoLegend], started := true, step := x, due := some 7, sums := [(5, 0x1234567890)] }

def mw (f : Core → Core) (st : State) : State := { st with cores := Tab.set st.cores 0 (f (st.core 0)) }

def wst1 : State := mw (fun k => { k with pipe := { k.pipe with run := 200 }, eng := { k.eng with mxWait := some (eo 0x810 m1 0) } }) m1

def wst2 : State := mw (fun k => { k with pipe := { k.pipe with run := 200 }, eng := { k.eng with mx := some (eo 0x813 m2 0) } }) m2

def wst3 : State := mw (fun k => { k with pipe := { k.pipe with run := 200 }, eng := { k.eng with mx := some (eo 0x810 m1 1) } }) m1

def ac (v : Word) (o : Line) (f : Core → Core := id) : State :=
  onCore fun c => f { c with vrf := [(110, BitVec.ofNat 1024 (3 ^ 600))], accw := [(5 * 4096 + 5, 0x1234567890), (5*4096 + 4095, 0x4000000000), (4096, 17)], regs := { c.regs with s := [(5, v)], op := [(0x840, o)] } }

def ol : Line := BitVec.ofNat 1024 (5^440)

def limg : Core → Core := fun k => { k with vrf := [(110, BitVec.ofNat 1024 (3 + 512 )), (111, BitVec.ofNat 1024 (0 + 2^32*(1+ 16*5) + 2^64 * (3*2^13+7)))] }

def wst4 : State := ac 0 ol (fun k => { k with slots := { entries := [5, 6], ptr := 1 } })

def ta (id n st : Nat) : EngineOp := { id := id, trig := word (5 + 110*16), seq := 2, u := 7, dc := n, dt := n, started := true, step := st, sums := [(3, 99), (4095, 0xffffffffff)], buf := (List.range 160).map fun q => (q, imageLine [(3, 99), (4095, 0xffffffffff)] q), due := some 8 }

def ts (o : EngineOp) : State := mw (fun k => { k with pipe := { k.pipe with run := 300 }, eng := { k.eng with acc := some o } }) (ac 110 ol)

/-- The operation that the ports of `s` ask of the matrix unit. -/
def mxAsked (s : State) (id : Nat) : EngineOp :=
  { id := id, ports := s.now.mxPorts, seq := 0, u := s.now.pipe.run, dc := 0, dt := 0 }
/-- What a start of the matrix unit asks of the state. -/
abbrev MxMay (s : State) (o : EngineOp) : Prop :=
  o.mxFieldsOk s.focus = true ∧
    (o.nar = true → ∀ i ∈ o.legIds, s.legendInRange (dieOf s.focus) (s.env s.focus).ctx i = true ∧
      Legend.usable (s.legend (dieOf s.focus) i) = true) ∧
    (∀ n, o.noteSv = some n → (s.env s.focus).svOk n = true) ∧ s.now.eng.mx = none ∧ s.now.eng.mxWait = none ∧
    s.now.accMeets o.mxTile s.now.pipe.run (128 * o.steps + 16) = false ∧ o.badLine s s.focus (s.env s.focus).ctx = none ∧
    s.engineLines s.focus (o.stepLines 0) = none ∧
    (∀ a ∈ s.ownOpen s.focus, overlap (s.atSpan a) (some (s.focus * 2 ^ 35 + 0x1000000 + 20480 * o.mxTile, 20480)) = false) ∧
    o.softC s.now = none ∧ (s.die (dieOf s.focus)).wmx (clusterOf s.focus) ≤ s.now.ctl.res
theorem witness_MatrixStarts_1 :
    (∀ x ∈ [(m1, 0x810), (m1, 0x811), (m2, 0x812), (m2, 0x813)],
      Met x.1 ⟨0, 5, 0⟩ x.2 (.sreg 5) 0 (scalarOf (0 : Line) = 0 ∧ MxMay x.1 (mxAsked x.1 x.2)) ∧
      Met x.1 ⟨0, 6, 0⟩ x.2 (.sreg 6) (lineOf 1) (scalarOf (lineOf 1) ≠ 0)) := by
  simp only [List.forall_mem_cons]
  and_intros <;> first | exact List.forall_mem_nil _ | exact met_of (by decide +kernel) (by decide +kernel) (by decide +kernel)

theorem witness_MatrixSteps_1 :
    (isMma (eo 2064 m1 0).id = true ∧ (wst1.core 0).eng.mxWait = some (eo 2064 m1 0) ∧ (wst1.core 0).eng.mx = none ∧
      (eo 2064 m1 0).behind (wst1.core 0).pipe.run = true ∧ (wst1.die (dieOf 0)).wmx (clusterOf 0) ≤ (wst1.core 0).ctl.res) ∧
    (isMma (eo 2067 m2 0).id = true ∧ (wst2.core 0).eng.mx = some (eo 2067 m2 0) ∧ (eo 2067 m2 0).started = true ∧
      (eo 2067 m2 0).behind (wst2.core 0).pipe.run = true ∧
      wst2.engineLines 0 ((eo 2067 m2 0).stepLines (eo 2067 m2 0).step) = none ∧ (eo 2067 m2 0).step = 0 ∧
      (eo 2067 m2 0).softC (wst2.core 0) = none) ∧
    (isMma (eo 2064 m1 1).id = true ∧ (wst3.core 0).eng.mx = some (eo 2064 m1 1) ∧ (eo 2064 m1 1).started = true ∧
      (eo 2064 m1 1).step = (eo 2064 m1 1).steps ∧ (eo 2064 m1 1).u + (eo 2064 m1 1).dc ≤ (wst3.core 0).pipe.run ∧
      (eo 2064 m1 1).stepped = false ∧ (eo 2064 m1 1).noteSv = none ∧
      (∀ (e : Nat × Acc40), e ∈ (eo 2064 m1 1).sums → e.fst < 4096)) := by decide +kernel
/-- The accumulator engine is free, no block of the matrix unit meets the tile within `n` run cycles, and no at operation or STA
of the task that is not performed touches it. -/
abbrev AccFree (s : State) (v : Line) (n : Nat) : Prop :=
  s.now.accNow = none ∧ s.now.mxMeets (bits (scalarOf v) 0 4) s.now.pipe.run n = false ∧
    ∀ a ∈ s.ownOpen s.focus, overlap (s.atSpan a) (some (s.focus * 2 ^ 35 + 0x1000000 + 20480 * bits (scalarOf v) 0 4, 20480)) = false
/-- No word of these is uncorrectable. -/
abbrev AccWhole (s : State) (v : Line) (first n : Nat) : Prop :=
  ∀ q, q < n → s.now.softAcc.contains (bits (scalarOf v) 0 4 * 4096 + first + q) = false
theorem accWhole_of {s : State} (h : s.now.softAcc = []) (v : Line) (first n : Nat) : AccWhole s v first n := by
  intro q _; simp [h]
/-- A fence that makes the next write a release is at most of cluster scope. -/
abbrev AccNarrow (s : State) : Prop := ∀ sc, s.now.relFence = some sc → sc < 3
/-- Trigger value `v` in S5 with a release fence of scope 2 behind it. -/
def acf (v : Word) : State := ac v ol fun k => { k with relFence := some 2 }
/-- ACCRD of the last row of each kind, and with a survey. -/
theorem witness_AccumulatorOperations_1 :
    (∀ x ∈ [((0 : BitVec 4), (5 : Word)), (1, 1024 + 1013), (0, 1013 + 4 * 2048 + 2 ^ 23), (1, 1013 + 4 * 2048 + 2 ^ 23), (0, 1013)],
      let s := acf x.2
      let v := lineOf x.2
      Met s ⟨0, 5, x.1⟩ 0x841 (.sreg 5) v (x.1.toNat < 2 ∧ AccFree s v 1 ∧
        AccWhole s v (accRow x.1 (scalarOf v)).1 (accRow x.1 (scalarOf v)).2 ∧ (scalarOf v).toNat < 2 ^ 24 ∧
        (x.1 = 0 → (scalarOf v).getLsbD 10 = false) ∧
        ((scalarOf v).getLsbD 23 = true → (s.env s.focus).svOk (bits (scalarOf v) 11 12) = true))) ∧
    (∀ add ∈ [true, false], ∀ x ∈ [((0 : BitVec 4), (5 : Word)), (1, 1024 + 1013), (1, 5)],
      let s := acf x.2
      let v := lineOf x.2
      Met s ⟨0, 5, x.1⟩ (if add then 0x843 else 0x842) (.sreg 5) v (x.1.toNat < 2 ∧ AccFree s v 1 ∧ AccNarrow s ∧
        (scalarOf v).toNat < 2 ^ 11 ∧ (x.1 = 0 → (scalarOf v).getLsbD 10 = false) ∧
        (add = true → AccWhole s v (accRow x.1 (scalarOf v)).1 (accRow x.1 (scalarOf v)).2))) ∧
    (let s := acf 15
     let v := lineOf 15
     Met s ⟨0, 5, 0⟩ 0x844 (.sreg 5) v (AccFree s v 16 ∧ AccNarrow s ∧ (scalarOf v).toNat < 16)) := by
  simp only [List.forall_mem_cons]
  and_intros <;> first
    | exact List.forall_mem_nil _
    | exact met_of (by decide +kernel) (by decide +kernel)
        ⟨by decide +kernel, by decide +kernel, accWhole_of (by decide +kernel) _ _ _, by decide +kernel⟩
    | exact met_of (by decide +kernel) (by decide +kernel)
        ⟨by decide +kernel, by decide +kernel, by decide +kernel, by decide +kernel, by decide +kernel,
         fun _ => accWhole_of (by decide +kernel) _ _ _⟩
    | exact met_of (by decide +kernel) (by decide +kernel) (by decide +kernel)

/-- The 160 lines of a spilled tile are allotted. -/
abbrev AccLines (s : State) (v : Line) : Prop := (scalarOf v).toNat < 2 ^ 19 ∧
  ∀ j, j < 160 → s.allotted s.focus (s.env s.focus).ctx (bits (scalarOf v) 4 15 + j) = true
def tabLines (s : State) : List Nat := (List.range ((bits (s.now.line 110) 0 9 + 31) / 32 + 1)).map (110 + ·)
def limgTab : SlotTab := (slotImage [BitVec.ofNat 1024 (3 + 512), BitVec.ofNat 1024 (2 ^ 32 * (1 + 16 * 5) + 2 ^ 64 * (3 * 2 ^ 13 + 7))]).getD {}
theorem witness_AccumulatorOperations_2 :
    (let s := acf (5 + 110 * 16)
     let v := lineOf (5 + 110 * 16)
     Met s ⟨0, 5, 0⟩ 0x845 (.sreg 5) v (AccFree s v 160 ∧ AccWhole s v 0 4096 ∧ AccLines s v) ∧
     Met s ⟨0, 5, 0⟩ 0x846 (.sreg 5) v (AccFree s v 160 ∧ AccNarrow s ∧ AccLines s v ∧
       s.engineLines s.focus [bits (scalarOf v) 4 15] = none)) ∧
    Met (ac 0 ol) ⟨0, 5, 0⟩ 0x847 (.sreg 5) 0 (scalarOf (0 : Line) = 0 ∧ (ac 0 ol).now.accNow = none) ∧
    Met wst4 ⟨0, 5, 2⟩ 0x847 (.sreg 5) 0 (scalarOf (0 : Line) = 0 ∧ wst4.now.accNow = none ∧ wst4.now.slots.adm = none) ∧
    (let s := ac 110 ol limg
     Met s ⟨0, 5, 1⟩ 0x847 (.sreg 5) (lineOf 110) ((scalarOf (lineOf 110)).toNat < 2 ^ 15 ∧ s.now.accNow = none ∧
       s.now.slots.adm = none ∧ 1 ≤ bits (s.now.line 110) 0 9 ∧ bits (s.now.line 110) 0 9 ≤ 256 ∧
       (∀ ln ∈ tabLines s, readCheck s s.focus (s.env s.focus) false 1 0x847 ln = none ∧ s.now.present ln = true) ∧
       slotImage ((tabLines s).map s.now.line) = some limgTab)) := by
  and_intros <;> first
    | exact met_of (by decide +kernel) (by decide +kernel) ⟨by decide +kernel, accWhole_of (by decide +kernel) _ _ _, by decide +kernel⟩
    | exact met_of (by decide +kernel) (by decide +kernel) (by decide +kernel)

theorem witness_TileSteps_1 :
    (((ts (ta 2116 16 0)).core 0).eng.acc = some (ta 2116 16 0) ∧ (ta 2116 16 0).stepped = false ∧ (ta 2116 16 0).id = 2116 ∧
      (ta 2116 16 0).u + (ta 2116 16 0).dc ≤ ((ts (ta 2116 16 0)).core 0).pipe.run) ∧
    (((ts (ta 2117 160 3)).core 0).eng.acc = some (ta 2117 160 3) ∧ (ta 2117 160 3).stepped = false ∧
      (ta 2117 160 3).id = 2117 ∧ (ta 2117 160 3).u + (ta 2117 160 3).step + 1 ≤ ((ts (ta 2117 160 3)).core 0).pipe.run ∧
      (ta 2117 160 3).step < 160 ∧ (ts (ta 2117 160 3)).lineRight 0 0 (((ts (ta 2117 160 3)).core 0).ctx.getD 0) ((ta 2117 160
      3).firstLine + (ta 2117 160 3).step) Via.own = true) ∧
    (((ts (ta 2117 160 159)).core 0).eng.acc = some (ta 2117 160 159) ∧ (ta 2117 160 159).stepped = false ∧
      (ta 2117 160 159).id = 2117 ∧
      (ta 2117 160 159).u + (ta 2117 160 159).step + 1 ≤ ((ts (ta 2117 160 159)).core 0).pipe.run ∧
      (ta 2117 160 159).step < 160 ∧ (ts (ta 2117 160 159)).lineRight 0 0 (((ts (ta 2117 160 159)).core 0).ctx.getD 0) ((ta
      2117 160 159).firstLine + (ta 2117 160 159).step) Via.own = true) ∧
    (((ts (ta 2118 160 3)).core 0).eng.acc = some (ta 2118 160 3) ∧ (ta 2118 160 3).stepped = false ∧
      (ta 2118 160 3).id = 2118 ∧ (ta 2118 160 3).behind ((ts (ta 2118 160 3)).core 0).pipe.run = true ∧
      (ts (ta 2118 160 3)).engineLines 0 [(ta 2118 160 3).firstLine + (ta 2118 160 3).step] = none) ∧
    (((ts (ta 2118 160 160)).core 0).eng.acc = some (ta 2118 160 160) ∧ (ta 2118 160 160).stepped = false ∧
      (ta 2118 160 160).id = 2118 ∧ (ta 2118 160 160).step = 160 ∧
      (ta 2118 160 160).u + (ta 2118 160 160).dc ≤ ((ts (ta 2118 160 160)).core 0).pipe.run) := by decide +kernel
theorem witness_SpillFillRestores_1 :
    Tab.wf 0#40 [(3, 99#40), (4095, 1099511627775#40)] = true ∧
      (∀ (e : Nat × Acc40), e ∈ [(3, 99#40), (4095, 1099511627775#40)] → e.fst < 4096) :=
  by decide +kernel

theorem witness_MatrixStarts_2 : ∀ x ∈ [(m1, 0x810), (m1, 0x811), (m2, 0x812), (m2, 0x813)],
    Met x.1 ⟨0, 5, 1⟩ x.2 (.sreg 5) 0 ((1 : BitVec 4) ≠ 0) := by
  simp only [List.forall_mem_cons]
  and_intros <;> first | exact List.forall_mem_nil _ | exact met_of (by decide +kernel) (by decide +kernel) (by decide +kernel)
/-- A completion with NOTE in survey 4, TRAP set or not, with a word beyond the legend's limit or none. -/
def noteSum (big : Acc40) : EngineOp := { eo 0x813 m2 (eo 0x813 m2 0).steps with sums := [(5, big), (4095, 0x3f80000000)], bpc := 77 }
def noteDone (trap : Nat) (big : Acc40) : State :=
  let s := mw (fun k => { k with pipe := { k.pipe with run := 200 }, eng := { k.eng with mx := some (noteSum big) } }) m2
  { s with dies := Tab.set s.dies 0 { s.die 0 with surveys := [(4, BitVec.ofNat 512 (trap * 2 ^ 40 + 5 * 2 ^ 48))] } }
def noteXs (big : Acc40) : List FNum := (List.range 4096).map fun i => a40 (Tab.get 0 (noteSum big).sums i)
def noteLegend (s : State) : Legend := s.legend (dieOf 0) (SvRec.legid (s.survey (dieOf 0) 4))
theorem witness_MatrixSteps_note :
    (∀ x ∈ [((1 : Nat), (0x7e00000000 : Acc40)), (0, 0x7e00000000), (1, 0)],
      let s := noteDone x.1 x.2
      let o := noteSum x.2
      (s.core 0).eng.mx = some o ∧ o.started = true ∧ o.step = o.steps ∧ o.u + o.dc ≤ (s.core 0).pipe.run ∧ o.stepped = false ∧
        o.agent = none ∧ o.noteSv = some 4 ∧ (∀ e ∈ o.sums, e.1 < 4096) ∧ SvRec.fwd (s.survey (dieOf 0) 4) = false ∧
        SvRec.trap (s.survey (dieOf 0) 4) = decide (x.1 = 1)) ∧
    (∀ x ∈ [((1 : Nat), (0x7e00000000 : Acc40)), (0, 0x7e00000000), (1, 0)], (noteDone x.1 x.2).NoAwait) ∧
    0 < overCount (noteLegend (noteDone 1 0x7e00000000)) [a40 0x7e00000000] ∧
    overCount (noteLegend (noteDone 1 0)) [a40 0, a40 0x3f80000000] = 0 := by
  refine ⟨by decide +kernel, ?_, by decide +kernel, by decide +kernel⟩
  simp only [List.forall_mem_cons]
  and_intros <;> first | exact List.forall_mem_nil _ | exact noAwait_of (by decide +kernel)
/-- No AWAITGE is registered, and no single step armed, where the writes of the accumulator engine take place. -/
theorem witness_AccumulatorOperations_3 :
    wst3.NoAwait ∧ (∀ x ∈ [(2116, 16, 0), (2117, 160, 3), (2117, 160, 159), (2118, 160, 3), (2118, 160, 160)],
      (ts (ta x.1 x.2.1 x.2.2)).NoAwait) ∧
    (∀ x ∈ [(0 : Word), 5, 15, 1024 + 1013], (acf x).NoAwait ∧ (acf x).now.stepArm = false) ∧
    (ac 0 ol).now.stepArm = false ∧ wst4.now.stepArm = false ∧ (ac 110 ol limg).now.stepArm = false := by
  simp only [List.forall_mem_cons]
  and_intros <;> first | exact List.forall_mem_nil _ | exact noAwait_of (by decide +kernel) | decide +kernel

end S10

/-! #### Witnesses: CrossbarStarts, CrossbarSteps -/

namespace S11

/-- The operation that a crossbar trigger starts, as its statement builds it. -/
def xop (s : State) (id : Nat) (v : Line) : EngineOp :=
  let o : EngineOp := { id := id, trig := scalarOf v, ports := (List.range 14).map fun i => s.now.regs.portW (0x880 + i)
                        seq := s.now.pipe.seq, u := s.now.pipe.run, dc := 0, dt := 0, due := some s.now.pipe.run
                        bpc := word s.now.pcAddr, stepped := s.now.stepArm }
  { o with dc := o.xbTimes.1, dt := o.xbTimes.2 }

def prt : List Nat := [2, 5, 3, 7, 2, 110, 112, 114, 9, 4, 5, 4 + 16*2, 0x3f00, 7]

def ports (cols : Nat := 2) : List Word := (prt.set 4 cols).map fun (x : Nat) => word x

def prx (mode : Nat) : Pair := { nF := [(5*1024+7, 12), (6*1024+8, -127), (7*1024+7, 127)], nC := [(5*1024+8, 1023), (7*1024+7, -1000)], sRow := [(5, 3), (6, -2)], sCol := [(7, 1)], seedR := 0x1234, seedC := 0xabcd, tp := 8, mode := mode, cleared := false }

def xs (trig : Word) (mode : Nat) (f : Core → Core := id) : State :=
  let s := onCore fun c => f { c with vrf := [(110, BitVec.ofNat 1024 (3 ^ 600)), (111, BitVec.ofNat 1024 (7 ^ 300)), (114, BitVec.ofNat 1024 (5 ^ 400))], pairs := [(2, prx mode)], regs := { c.regs with s := [(5, trig)], op := (List.range 14).map fun i => (0x880 + i, lineOf ((ports).getD i 0)) }, ctl := { c.ctl with res := 500 } }
  { s with dies := Tab.set s.dies 0 { s.die 0 with owner := [(0, 0x800000)], surveys := [(4, BitVec.ofNat 512 (0x3fc00000 + 5*2^96))] } }

def unb (s : State) : State := { s with cores := Tab.set s.cores 0 { s.core 0 with running := some { img := BitVec.ofNat 512 (3*2^472), e := 3, since := 0 } } }

def xo (id : Nat) (trig : Word) (step outs : Nat) : EngineOp := { id := id, trig := trig, ports := ports, seq := 9, u := 40, dc := 12, dt := 100, started := true, step := step, outs := outs, ex := 1, buf := [(0, BitVec.ofNat 1024 (3^600)), (1, BitVec.ofNat 1024 (11^220)), (64, BitVec.ofNat 1024 (13 ^ 250)), (65, BitVec.ofNat 1024 (13 ^ 200))], due := some 41 }

def xt (o : EngineOp) (mode : Nat) (run : Nat) : State := xs 0 mode fun k => { k with pipe := { k.pipe with run := run }, eng := { k.eng with xb := [o] } }

def wst1 : State := xs 0 2 fun k => { k with pairs := [(2, { prx 2 with settle := 900 })] }

theorem witness_CrossbarStarts_1 :
    (Fires (xs (3#64) 4) (0#4) (5#12) 2192 (Src.sreg 5) (lineOf 3#64) ∧
      ((((xs (3#64) 4).env (xs (3#64) 4).focus).bound = true ∧ 0#4 = 0#4 ∧
      (have o := { id := 2192, m := 0#4, trig := scalarOf (lineOf 3#64), ports := List.map (fun i => (xs (3#64) 4).now.regs.portW (2176 + i)) (List.range 14), seq := (xs (3#64) 4).now.pipe.seq, u := (xs (3#64) 4).now.pipe.run, dc := 0, dt := 0, due := some (xs (3#64) 4).now.pipe.run, bpc := word (xs (3#64) 4).now.pcAddr, stepped := (xs (3#64) 4).now.stepArm : EngineOp }; { o with dc := o.xbTimes.fst, dt := o.xbTimes.snd : EngineOp }).xbFieldsOk
      ((xs (3#64) 4).now.pair
      (have o := { id := 2192, m := 0#4, trig := scalarOf (lineOf 3#64), ports := List.map (fun i => (xs (3#64) 4).now.regs.portW (2176 + i)) (List.range 14), seq := (xs (3#64) 4).now.pipe.seq, u := (xs (3#64) 4).now.pipe.run, dc := 0, dt := 0, due := some (xs (3#64) 4).now.pipe.run, bpc := word (xs (3#64) 4).now.pcAddr, stepped := (xs (3#64) 4).now.stepArm : EngineOp }; { o with dc := o.xbTimes.fst, dt := o.xbTimes.snd : EngineOp }).pair).tp
      = true ∧ (xs (3#64) 4).ownsPair (xs (3#64) 4).focus ((xs (3#64) 4).env (xs (3#64) 4).focus).ctx
      (have o := { id := 2192, m := 0#4, trig := scalarOf (lineOf 3#64), ports := List.map (fun i => (xs (3#64) 4).now.regs.portW (2176 + i)) (List.range 14), seq := (xs (3#64) 4).now.pipe.seq, u := (xs (3#64) 4).now.pipe.run, dc := 0, dt := 0, due := some (xs (3#64) 4).now.pipe.run, bpc := word (xs (3#64) 4).now.pcAddr, stepped := (xs (3#64) 4).now.stepArm : EngineOp }; { o with dc := o.xbTimes.fst, dt := o.xbTimes.snd : EngineOp }).pair
      = true ∧ (∀ (n : Nat), n ∈
      (have o := { id := 2192, m := 0#4, trig := scalarOf (lineOf 3#64), ports := List.map (fun i => (xs (3#64) 4).now.regs.portW (2176 + i)) (List.range 14), seq := (xs (3#64) 4).now.pipe.seq, u := (xs (3#64) 4).now.pipe.run, dc := 0, dt := 0, due := some (xs (3#64) 4).now.pipe.run, bpc := word (xs (3#64) 4).now.pcAddr, stepped := (xs (3#64) 4).now.stepArm : EngineOp }; { o with dc := o.xbTimes.fst, dt := o.xbTimes.snd : EngineOp }).xbSurveys
      → ((xs (3#64) 4).env (xs (3#64) 4).focus).svOk n = true) ∧ (∀ (ln : Nat), ln ∈
      (have o := { id := 2192, m := 0#4, trig := scalarOf (lineOf 3#64), ports := List.map (fun i => (xs (3#64) 4).now.regs.portW (2176 + i)) (List.range 14), seq := (xs (3#64) 4).now.pipe.seq, u := (xs (3#64) 4).now.pipe.run, dc := 0, dt := 0, due := some (xs (3#64) 4).now.pipe.run, bpc := word (xs (3#64) 4).now.pcAddr, stepped := (xs (3#64) 4).now.stepArm : EngineOp }; { o with dc := o.xbTimes.fst, dt := o.xbTimes.snd : EngineOp }).xbLines
      → (xs (3#64) 4).allotted (xs (3#64) 4).focus ((xs (3#64) 4).env (xs (3#64) 4).focus).ctx ln = true) ∧ (xs (3#64)
      4).now.xbTaken
      (have o := { id := 2192, m := 0#4, trig := scalarOf (lineOf 3#64), ports := List.map (fun i => (xs (3#64) 4).now.regs.portW (2176 + i)) (List.range 14), seq := (xs (3#64) 4).now.pipe.seq, u := (xs (3#64) 4).now.pipe.run, dc := 0, dt := 0, due := some (xs (3#64) 4).now.pipe.run, bpc := word (xs (3#64) 4).now.pcAddr, stepped := (xs (3#64) 4).now.stepArm : EngineOp }; { o with dc := o.xbTimes.fst, dt := o.xbTimes.snd : EngineOp })
      = false) ∧ (xbModes 2192 ≠ [] → ((xs (3#64) 4).now.pair
      (have o := { id := 2192, m := 0#4, trig := scalarOf (lineOf 3#64), ports := List.map (fun i => (xs (3#64) 4).now.regs.portW (2176 + i)) (List.range 14), seq := (xs (3#64) 4).now.pipe.seq, u := (xs (3#64) 4).now.pipe.run, dc := 0, dt := 0, due := some (xs (3#64) 4).now.pipe.run, bpc := word (xs (3#64) 4).now.pcAddr, stepped := (xs (3#64) 4).now.stepArm : EngineOp }; { o with dc := o.xbTimes.fst, dt := o.xbTimes.snd : EngineOp }).pair).mode
      ∈ xbModes 2192 ∧ ((xs (3#64) 4).now.pair
      (have o := { id := 2192, m := 0#4, trig := scalarOf (lineOf 3#64), ports := List.map (fun i => (xs (3#64) 4).now.regs.portW (2176 + i)) (List.range 14), seq := (xs (3#64) 4).now.pipe.seq, u := (xs (3#64) 4).now.pipe.run, dc := 0, dt := 0, due := some (xs (3#64) 4).now.pipe.run, bpc := word (xs (3#64) 4).now.pcAddr, stepped := (xs (3#64) 4).now.stepArm : EngineOp }; { o with dc := o.xbTimes.fst, dt := o.xbTimes.snd : EngineOp }).pair).settle
      ≤ (xs (3#64) 4).clk) ∧ (xbDraws 2192 = true → ((xs (3#64) 4).die (dieOf (xs (3#64) 4).focus)).wxb (clusterOf (xs (3#64)
      4).focus) ≤ (xs (3#64) 4).now.ctl.res) ∧ (xs (3#64) 4).engineLines (xs (3#64) 4).focus (List.map (fun x => x.fst)
      (((have o := { id := 2192, m := 0#4, trig := scalarOf (lineOf 3#64), ports := List.map (fun i => (xs (3#64) 4).now.regs.portW (2176 + i)) (List.range 14), seq := (xs (3#64) 4).now.pipe.seq, u := (xs (3#64) 4).now.pipe.run, dc := 0, dt := 0, due := some (xs (3#64) 4).now.pipe.run, bpc := word (xs (3#64) 4).now.pcAddr, stepped := (xs (3#64) 4).now.stepArm : EngineOp }; { o with dc := o.xbTimes.fst, dt := o.xbTimes.snd : EngineOp }).xbBegin
      (xs (3#64) 4) (xs (3#64) 4).focus).readsDue (xs (3#64) 4).now.pipe.run)) = none) ∧
      ((xs (3#64) 4).now.fired (Src.sreg 5)).replayUse.fst + 1 ≤ 48 ∧
      ((xs (3#64) 4).now.fired (Src.sreg 5)).replayUse.snd + 4 ≤ 30) ∧
    (Fires (unb (xs (3#64) 4)) (0#4) (5#12) 2192 (Src.sreg 5) (lineOf 3#64) ∧
      ((unb (xs (3#64) 4)).env (unb (xs (3#64) 4)).focus).bound = false ∧
      ((unb (xs (3#64) 4)).now.fired (Src.sreg 5)).replayUse.fst + 1 ≤ 48 ∧
      ((unb (xs (3#64) 4)).now.fired (Src.sreg 5)).replayUse.snd + 4 ≤ 30) ∧
    (Fires (xs (0#64) 2) (0#4) (5#12) 2203 (Src.sreg 5) (lineOf 0#64) ∧
      ((((xs (0#64) 2).env (xs (0#64) 2).focus).bound = true ∧ 0#4 = 0#4 ∧
      (have o := { id := 2203, m := 0#4, trig := scalarOf (lineOf 0#64), ports := List.map (fun i => (xs (0#64) 2).now.regs.portW (2176 + i)) (List.range 14), seq := (xs (0#64) 2).now.pipe.seq, u := (xs (0#64) 2).now.pipe.run, dc := 0, dt := 0, due := some (xs (0#64) 2).now.pipe.run, bpc := word (xs (0#64) 2).now.pcAddr, stepped := (xs (0#64) 2).now.stepArm : EngineOp }; { o with dc := o.xbTimes.fst, dt := o.xbTimes.snd : EngineOp }).xbFieldsOk
      ((xs (0#64) 2).now.pair
      (have o := { id := 2203, m := 0#4, trig := scalarOf (lineOf 0#64), ports := List.map (fun i => (xs (0#64) 2).now.regs.portW (2176 + i)) (List.range 14), seq := (xs (0#64) 2).now.pipe.seq, u := (xs (0#64) 2).now.pipe.run, dc := 0, dt := 0, due := some (xs (0#64) 2).now.pipe.run, bpc := word (xs (0#64) 2).now.pcAddr, stepped := (xs (0#64) 2).now.stepArm : EngineOp }; { o with dc := o.xbTimes.fst, dt := o.xbTimes.snd : EngineOp }).pair).tp
      = true ∧ (xs (0#64) 2).ownsPair (xs (0#64) 2).focus ((xs (0#64) 2).env (xs (0#64) 2).focus).ctx
      (have o := { id := 2203, m := 0#4, trig := scalarOf (lineOf 0#64), ports := List.map (fun i => (xs (0#64) 2).now.regs.portW (2176 + i)) (List.range 14), seq := (xs (0#64) 2).now.pipe.seq, u := (xs (0#64) 2).now.pipe.run, dc := 0, dt := 0, due := some (xs (0#64) 2).now.pipe.run, bpc := word (xs (0#64) 2).now.pcAddr, stepped := (xs (0#64) 2).now.stepArm : EngineOp }; { o with dc := o.xbTimes.fst, dt := o.xbTimes.snd : EngineOp }).pair
      = true ∧ (∀ (n : Nat), n ∈
      (have o := { id := 2203, m := 0#4, trig := scalarOf (lineOf 0#64), ports := List.map (fun i => (xs (0#64) 2).now.regs.portW (2176 + i)) (List.range 14), seq := (xs (0#64) 2).now.pipe.seq, u := (xs (0#64) 2).now.pipe.run, dc := 0, dt := 0, due := some (xs (0#64) 2).now.pipe.run, bpc := word (xs (0#64) 2).now.pcAddr, stepped := (xs (0#64) 2).now.stepArm : EngineOp }; { o with dc := o.xbTimes.fst, dt := o.xbTimes.snd : EngineOp }).xbSurveys
      → ((xs (0#64) 2).env (xs (0#64) 2).focus).svOk n = true) ∧ (∀ (ln : Nat), ln ∈
      (have o := { id := 2203, m := 0#4, trig := scalarOf (lineOf 0#64), ports := List.map (fun i => (xs (0#64) 2).now.regs.portW (2176 + i)) (List.range 14), seq := (xs (0#64) 2).now.pipe.seq, u := (xs (0#64) 2).now.pipe.run, dc := 0, dt := 0, due := some (xs (0#64) 2).now.pipe.run, bpc := word (xs (0#64) 2).now.pcAddr, stepped := (xs (0#64) 2).now.stepArm : EngineOp }; { o with dc := o.xbTimes.fst, dt := o.xbTimes.snd : EngineOp }).xbLines
      → (xs (0#64) 2).allotted (xs (0#64) 2).focus ((xs (0#64) 2).env (xs (0#64) 2).focus).ctx ln = true) ∧ (xs (0#64)
      2).now.xbTaken
      (have o := { id := 2203, m := 0#4, trig := scalarOf (lineOf 0#64), ports := List.map (fun i => (xs (0#64) 2).now.regs.portW (2176 + i)) (List.range 14), seq := (xs (0#64) 2).now.pipe.seq, u := (xs (0#64) 2).now.pipe.run, dc := 0, dt := 0, due := some (xs (0#64) 2).now.pipe.run, bpc := word (xs (0#64) 2).now.pcAddr, stepped := (xs (0#64) 2).now.stepArm : EngineOp }; { o with dc := o.xbTimes.fst, dt := o.xbTimes.snd : EngineOp })
      = false) ∧ (xbModes 2203 ≠ [] → ((xs (0#64) 2).now.pair
      (have o := { id := 2203, m := 0#4, trig := scalarOf (lineOf 0#64), ports := List.map (fun i => (xs (0#64) 2).now.regs.portW (2176 + i)) (List.range 14), seq := (xs (0#64) 2).now.pipe.seq, u := (xs (0#64) 2).now.pipe.run, dc := 0, dt := 0, due := some (xs (0#64) 2).now.pipe.run, bpc := word (xs (0#64) 2).now.pcAddr, stepped := (xs (0#64) 2).now.stepArm : EngineOp }; { o with dc := o.xbTimes.fst, dt := o.xbTimes.snd : EngineOp }).pair).mode
      ∈ xbModes 2203 ∧ ((xs (0#64) 2).now.pair
      (have o := { id := 2203, m := 0#4, trig := scalarOf (lineOf 0#64), ports := List.map (fun i => (xs (0#64) 2).now.regs.portW (2176 + i)) (List.range 14), seq := (xs (0#64) 2).now.pipe.seq, u := (xs (0#64) 2).now.pipe.run, dc := 0, dt := 0, due := some (xs (0#64) 2).now.pipe.run, bpc := word (xs (0#64) 2).now.pcAddr, stepped := (xs (0#64) 2).now.stepArm : EngineOp }; { o with dc := o.xbTimes.fst, dt := o.xbTimes.snd : EngineOp }).pair).settle
      ≤ (xs (0#64) 2).clk) ∧ (xbDraws 2203 = true → ((xs (0#64) 2).die (dieOf (xs (0#64) 2).focus)).wxb (clusterOf (xs (0#64)
      2).focus) ≤ (xs (0#64) 2).now.ctl.res) ∧ (xs (0#64) 2).engineLines (xs (0#64) 2).focus (List.map (fun x => x.fst)
      (((have o := { id := 2203, m := 0#4, trig := scalarOf (lineOf 0#64), ports := List.map (fun i => (xs (0#64) 2).now.regs.portW (2176 + i)) (List.range 14), seq := (xs (0#64) 2).now.pipe.seq, u := (xs (0#64) 2).now.pipe.run, dc := 0, dt := 0, due := some (xs (0#64) 2).now.pipe.run, bpc := word (xs (0#64) 2).now.pcAddr, stepped := (xs (0#64) 2).now.stepArm : EngineOp }; { o with dc := o.xbTimes.fst, dt := o.xbTimes.snd : EngineOp }).xbBegin
      (xs (0#64) 2) (xs (0#64) 2).focus).readsDue (xs (0#64) 2).now.pipe.run)) = none) ∧
      ((xs (0#64) 2).now.fired (Src.sreg 5)).replayUse.fst + 1 ≤ 48 ∧
      ((xs (0#64) 2).now.fired (Src.sreg 5)).replayUse.snd + 4 ≤ 30) ∧
    (Fires (unb (xs (0#64) 2)) (0#4) (5#12) 2203 (Src.sreg 5) (lineOf 0#64) ∧
      ((unb (xs (0#64) 2)).env (unb (xs (0#64) 2)).focus).bound = false ∧
      ((unb (xs (0#64) 2)).now.fired (Src.sreg 5)).replayUse.fst + 1 ≤ 48 ∧
      ((unb (xs (0#64) 2)).now.fired (Src.sreg 5)).replayUse.snd + 4 ≤ 30) ∧
    (Fires (xs (0#64) 2) (0#4) (5#12) 2204 (Src.sreg 5) (lineOf 0#64) ∧
      (((xs (0#64) 2).env (xs (0#64) 2).focus).bound = true ∧ 0#4 = 0#4 ∧
      (have o := { id := 2204, m := 0#4, trig := scalarOf (lineOf 0#64), ports := List.map (fun i => (xs (0#64) 2).now.regs.portW (2176 + i)) (List.range 14), seq := (xs (0#64) 2).now.pipe.seq, u := (xs (0#64) 2).now.pipe.run, dc := 0, dt := 0, due := some (xs (0#64) 2).now.pipe.run, bpc := word (xs (0#64) 2).now.pcAddr, stepped := (xs (0#64) 2).now.stepArm : EngineOp }; { o with dc := o.xbTimes.fst, dt := o.xbTimes.snd : EngineOp }).xbFieldsOk
      ((xs (0#64) 2).now.pair
      (have o := { id := 2204, m := 0#4, trig := scalarOf (lineOf 0#64), ports := List.map (fun i => (xs (0#64) 2).now.regs.portW (2176 + i)) (List.range 14), seq := (xs (0#64) 2).now.pipe.seq, u := (xs (0#64) 2).now.pipe.run, dc := 0, dt := 0, due := some (xs (0#64) 2).now.pipe.run, bpc := word (xs (0#64) 2).now.pcAddr, stepped := (xs (0#64) 2).now.stepArm : EngineOp }; { o with dc := o.xbTimes.fst, dt := o.xbTimes.snd : EngineOp }).pair).tp
      = true ∧ (xs (0#64) 2).ownsPair (xs (0#64) 2).focus ((xs (0#64) 2).env (xs (0#64) 2).focus).ctx
      (have o := { id := 2204, m := 0#4, trig := scalarOf (lineOf 0#64), ports := List.map (fun i => (xs (0#64) 2).now.regs.portW (2176 + i)) (List.range 14), seq := (xs (0#64) 2).now.pipe.seq, u := (xs (0#64) 2).now.pipe.run, dc := 0, dt := 0, due := some (xs (0#64) 2).now.pipe.run, bpc := word (xs (0#64) 2).now.pcAddr, stepped := (xs (0#64) 2).now.stepArm : EngineOp }; { o with dc := o.xbTimes.fst, dt := o.xbTimes.snd : EngineOp }).pair
      = true ∧ (∀ (n : Nat), n ∈
      (have o := { id := 2204, m := 0#4, trig := scalarOf (lineOf 0#64), ports := List.map (fun i => (xs (0#64) 2).now.regs.portW (2176 + i)) (List.range 14), seq := (xs (0#64) 2).now.pipe.seq, u := (xs (0#64) 2).now.pipe.run, dc := 0, dt := 0, due := some (xs (0#64) 2).now.pipe.run, bpc := word (xs (0#64) 2).now.pcAddr, stepped := (xs (0#64) 2).now.stepArm : EngineOp }; { o with dc := o.xbTimes.fst, dt := o.xbTimes.snd : EngineOp }).xbSurveys
      → ((xs (0#64) 2).env (xs (0#64) 2).focus).svOk n = true) ∧ (∀ (ln : Nat), ln ∈
      (have o := { id := 2204, m := 0#4, trig := scalarOf (lineOf 0#64), ports := List.map (fun i => (xs (0#64) 2).now.regs.portW (2176 + i)) (List.range 14), seq := (xs (0#64) 2).now.pipe.seq, u := (xs (0#64) 2).now.pipe.run, dc := 0, dt := 0, due := some (xs (0#64) 2).now.pipe.run, bpc := word (xs (0#64) 2).now.pcAddr, stepped := (xs (0#64) 2).now.stepArm : EngineOp }; { o with dc := o.xbTimes.fst, dt := o.xbTimes.snd : EngineOp }).xbLines
      → (xs (0#64) 2).allotted (xs (0#64) 2).focus ((xs (0#64) 2).env (xs (0#64) 2).focus).ctx ln = true) ∧ (xs (0#64)
      2).now.xbTaken
      (have o := { id := 2204, m := 0#4, trig := scalarOf (lineOf 0#64), ports := List.map (fun i => (xs (0#64) 2).now.regs.portW (2176 + i)) (List.range 14), seq := (xs (0#64) 2).now.pipe.seq, u := (xs (0#64) 2).now.pipe.run, dc := 0, dt := 0, due := some (xs (0#64) 2).now.pipe.run, bpc := word (xs (0#64) 2).now.pcAddr, stepped := (xs (0#64) 2).now.stepArm : EngineOp }; { o with dc := o.xbTimes.fst, dt := o.xbTimes.snd : EngineOp })
      = false) ∧ ((xs (0#64) 2).now.fired (Src.sreg 5)).replayUse.fst + 1 ≤ 48 ∧
      ((xs (0#64) 2).now.fired (Src.sreg 5)).replayUse.snd + 4 ≤ 30) ∧
    (Fires (xs (2#64) 2) (0#4) (5#12) 2204 (Src.sreg 5) (lineOf 2#64) ∧
      (((xs (2#64) 2).env (xs (2#64) 2).focus).bound = true ∧ 0#4 = 0#4 ∧
      (have o := { id := 2204, m := 0#4, trig := scalarOf (lineOf 2#64), ports := List.map (fun i => (xs (2#64) 2).now.regs.portW (2176 + i)) (List.range 14), seq := (xs (2#64) 2).now.pipe.seq, u := (xs (2#64) 2).now.pipe.run, dc := 0, dt := 0, due := some (xs (2#64) 2).now.pipe.run, bpc := word (xs (2#64) 2).now.pcAddr, stepped := (xs (2#64) 2).now.stepArm : EngineOp }; { o with dc := o.xbTimes.fst, dt := o.xbTimes.snd : EngineOp }).xbFieldsOk
      ((xs (2#64) 2).now.pair
      (have o := { id := 2204, m := 0#4, trig := scalarOf (lineOf 2#64), ports := List.map (fun i => (xs (2#64) 2).now.regs.portW (2176 + i)) (List.range 14), seq := (xs (2#64) 2).now.pipe.seq, u := (xs (2#64) 2).now.pipe.run, dc := 0, dt := 0, due := some (xs (2#64) 2).now.pipe.run, bpc := word (xs (2#64) 2).now.pcAddr, stepped := (xs (2#64) 2).now.stepArm : EngineOp }; { o with dc := o.xbTimes.fst, dt := o.xbTimes.snd : EngineOp }).pair).tp
      = true ∧ (xs (2#64) 2).ownsPair (xs (2#64) 2).focus ((xs (2#64) 2).env (xs (2#64) 2).focus).ctx
      (have o := { id := 2204, m := 0#4, trig := scalarOf (lineOf 2#64), ports := List.map (fun i => (xs (2#64) 2).now.regs.portW (2176 + i)) (List.range 14), seq := (xs (2#64) 2).now.pipe.seq, u := (xs (2#64) 2).now.pipe.run, dc := 0, dt := 0, due := some (xs (2#64) 2).now.pipe.run, bpc := word (xs (2#64) 2).now.pcAddr, stepped := (xs (2#64) 2).now.stepArm : EngineOp }; { o with dc := o.xbTimes.fst, dt := o.xbTimes.snd : EngineOp }).pair
      = true ∧ (∀ (n : Nat), n ∈
      (have o := { id := 2204, m := 0#4, trig := scalarOf (lineOf 2#64), ports := List.map (fun i => (xs (2#64) 2).now.regs.portW (2176 + i)) (List.range 14), seq := (xs (2#64) 2).now.pipe.seq, u := (xs (2#64) 2).now.pipe.run, dc := 0, dt := 0, due := some (xs (2#64) 2).now.pipe.run, bpc := word (xs (2#64) 2).now.pcAddr, stepped := (xs (2#64) 2).now.stepArm : EngineOp }; { o with dc := o.xbTimes.fst, dt := o.xbTimes.snd : EngineOp }).xbSurveys
      → ((xs (2#64) 2).env (xs (2#64) 2).focus).svOk n = true) ∧ (∀ (ln : Nat), ln ∈
      (have o := { id := 2204, m := 0#4, trig := scalarOf (lineOf 2#64), ports := List.map (fun i => (xs (2#64) 2).now.regs.portW (2176 + i)) (List.range 14), seq := (xs (2#64) 2).now.pipe.seq, u := (xs (2#64) 2).now.pipe.run, dc := 0, dt := 0, due := some (xs (2#64) 2).now.pipe.run, bpc := word (xs (2#64) 2).now.pcAddr, stepped := (xs (2#64) 2).now.stepArm : EngineOp }; { o with dc := o.xbTimes.fst, dt := o.xbTimes.snd : EngineOp }).xbLines
      → (xs (2#64) 2).allotted (xs (2#64) 2).focus ((xs (2#64) 2).env (xs (2#64) 2).focus).ctx ln = true) ∧ (xs (2#64)
      2).now.xbTaken
      (have o := { id := 2204, m := 0#4, trig := scalarOf (lineOf 2#64), ports := List.map (fun i => (xs (2#64) 2).now.regs.portW (2176 + i)) (List.range 14), seq := (xs (2#64) 2).now.pipe.seq, u := (xs (2#64) 2).now.pipe.run, dc := 0, dt := 0, due := some (xs (2#64) 2).now.pipe.run, bpc := word (xs (2#64) 2).now.pcAddr, stepped := (xs (2#64) 2).now.stepArm : EngineOp }; { o with dc := o.xbTimes.fst, dt := o.xbTimes.snd : EngineOp })
      = false) ∧ ((xs (2#64) 2).now.fired (Src.sreg 5)).replayUse.fst + 1 ≤ 48 ∧
      ((xs (2#64) 2).now.fired (Src.sreg 5)).replayUse.snd + 4 ≤ 30) :=
  ⟨⟨fires_of (by decide +kernel), by decide +kernel⟩, ⟨fires_of (by decide +kernel), by decide +kernel⟩,
    ⟨fires_of (by decide +kernel), by decide +kernel⟩, ⟨fires_of (by decide +kernel), by decide +kernel⟩,
    ⟨fires_of (by decide +kernel), by decide +kernel⟩, ⟨fires_of (by decide +kernel), by decide +kernel⟩⟩
theorem witness_CrossbarSteps_1 :
    (((wst1.core 0).pair 2).settle ≠ 0 ∧ ((wst1.core 0).pair 2).settle ≤ wst1.clk) ∧
    (((xt (xo 2193 (0#64) 0 0) 0 60).core 0).xbOn 2 = some (xo 2193 (0#64) 0 0) ∧ (xo 2193 (0#64) 0 0).stepped = false ∧
      (xo 2193 (0#64) 0 0).behind ((xt (xo 2193 (0#64) 0 0) 0 60).core 0).pipe.run = true ∧ ((xt (xo 2193 (0#64) 0 0) 0
      60).engineLines 0 (List.map (fun x => x.fst) ((xo 2193 (0#64) 0 0).readsDue ((xt (xo 2193 (0#64) 0 0) 0 60).core
      0).pipe.run)) = none)) ∧
    (((xt (xo 2202 (0#64) 0 0) 4 560).core 0).xbOn 2 = some (xo 2202 (0#64) 0 0) ∧ (xo 2202 (0#64) 0 0).stepped = false ∧
      (xo 2202 (0#64) 0 0).behind ((xt (xo 2202 (0#64) 0 0) 4 560).core 0).pipe.run = true ∧ ((xt (xo 2202 (0#64) 0 0) 4
      560).engineLines 0 (List.map (fun x => x.fst) ((xo 2202 (0#64) 0 0).readsDue ((xt (xo 2202 (0#64) 0 0) 4 560).core
      0).pipe.run)) = none)) ∧
    (((xt (xo 2192 (2#64) 0 0) 2 60).core 0).xbOn 2 = some (xo 2192 (2#64) 0 0) ∧ (xo 2192 (2#64) 0 0).stepped = false ∧
      (xo 2192 (2#64) 0 0).id = 2192 ∧ (xo 2192 (2#64) 0 0).u + 2 ≤ ((xt (xo 2192 (2#64) 0 0) 2 60).core 0).pipe.run) ∧
    (((xt (xo 2192 (0#64) 0 0) 2 60).core 0).xbOn 2 = some (xo 2192 (0#64) 0 0) ∧ (xo 2192 (0#64) 0 0).stepped = false ∧
      (xo 2192 (0#64) 0 0).id = 2192 ∧ (xo 2192 (0#64) 0 0).u + 2 ≤ ((xt (xo 2192 (0#64) 0 0) 2 60).core 0).pipe.run) ∧
    (((xt (xo 2198 (2053#64) 1 0) 2 60).core 0).xbOn 2 = some (xo 2198 (2053#64) 1 0) ∧
      (xo 2198 (2053#64) 1 0).stepped = false ∧ (xo 2198 (2053#64) 1 0).id = 2198 ∧
      (xo 2198 (2053#64) 1 0).step = (xo 2198 (2053#64) 1 0).xbReads.length ∧
      (xo 2198 (2053#64) 1 0).u + 12 ≤ ((xt (xo 2198 (2053#64) 1 0) 2 60).core 0).pipe.run) ∧
    (((xt (xo 2198 (2099205#64) 1 0) 2 60).core 0).xbOn 2 = some (xo 2198 (2099205#64) 1 0) ∧
      (xo 2198 (2099205#64) 1 0).stepped = false ∧ (xo 2198 (2099205#64) 1 0).id = 2198 ∧
      (xo 2198 (2099205#64) 1 0).step = (xo 2198 (2099205#64) 1 0).xbReads.length ∧
      (xo 2198 (2099205#64) 1 0).u + 12 ≤ ((xt (xo 2198 (2099205#64) 1 0) 2 60).core 0).pipe.run) ∧
    (((xt (xo 2203 (0#64) 0 0) 2 100).core 0).xbOn 2 = some (xo 2203 (0#64) 0 0) ∧ (xo 2203 (0#64) 0 0).stepped = false ∧
      (xo 2203 (0#64) 0 0).id = 2203 ∧ (xo 2203 (0#64) 0 0).outs = 0 ∧
      (xo 2203 (0#64) 0 0).u + 24 ≤ ((xt (xo 2203 (0#64) 0 0) 2 100).core 0).pipe.run ∧
      (xo 2203 (0#64) 0 0).row0 + (xo 2203 (0#64) 0 0).rows ≤ 1024 ∧
      (xo 2203 (0#64) 0 0).col0 + (xo 2203 (0#64) 0 0).cols ≤ 1024) ∧
    (((xt (xo 2195 (256#64 + 9#64) 2 0) 2 200).core 0).xbOn 2 = some (xo 2195 (256#64 + 9#64) 2 0) ∧
      (xo 2195 (256#64 + 9#64) 2 0).stepped = false ∧ (xo 2195 (256#64 + 9#64) 2 0).id = 2195 ∧
      (xo 2195 (256#64 + 9#64) 2 0).outs < (xo 2195 (256#64 + 9#64) 2 0).slotsL ∧
      (xo 2195 (256#64 + 9#64) 2 0).step = (xo 2195 (256#64 + 9#64) 2 0).xbReads.length ∧ (xo 2195 (256#64 + 9#64) 2 0).u + 24
      + 16 * (xo 2195 (256#64 + 9#64) 2 0).outs ≤ ((xt (xo 2195 (256#64 + 9#64) 2 0) 2 200).core 0).pipe.run ∧
      (xo 2195 (256#64 + 9#64) 2 0).row0 + (xo 2195 (256#64 + 9#64) 2 0).rows ≤ 1024 ∧
      (xo 2195 (256#64 + 9#64) 2 0).col0 + (xo 2195 (256#64 + 9#64) 2 0).cols ≤ 1024) ∧
    (((xt (xo 2195 (256#64 + 9#64) 2 3) 2 200).core 0).xbOn 2 = some (xo 2195 (256#64 + 9#64) 2 3) ∧
      (xo 2195 (256#64 + 9#64) 2 3).stepped = false ∧ (xo 2195 (256#64 + 9#64) 2 3).id = 2195 ∧
      (xo 2195 (256#64 + 9#64) 2 3).outs < (xo 2195 (256#64 + 9#64) 2 3).slotsL ∧
      (xo 2195 (256#64 + 9#64) 2 3).step = (xo 2195 (256#64 + 9#64) 2 3).xbReads.length ∧ (xo 2195 (256#64 + 9#64) 2 3).u + 24
      + 16 * (xo 2195 (256#64 + 9#64) 2 3).outs ≤ ((xt (xo 2195 (256#64 + 9#64) 2 3) 2 200).core 0).pipe.run ∧
      (xo 2195 (256#64 + 9#64) 2 3).row0 + (xo 2195 (256#64 + 9#64) 2 3).rows ≤ 1024 ∧
      (xo 2195 (256#64 + 9#64) 2 3).col0 + (xo 2195 (256#64 + 9#64) 2 3).cols ≤ 1024) ∧
    (((xt (xo 2195 (9#64) 2 2) 2 200).core 0).xbOn 2 = some (xo 2195 (9#64) 2 2) ∧ (xo 2195 (9#64) 2 2).stepped = false ∧
      (xo 2195 (9#64) 2 2).id = 2195 ∧ (xo 2195 (9#64) 2 2).outs < (xo 2195 (9#64) 2 2).slotsL ∧
      (xo 2195 (9#64) 2 2).step = (xo 2195 (9#64) 2 2).xbReads.length ∧
      (xo 2195 (9#64) 2 2).u + 24 + 16 * (xo 2195 (9#64) 2 2).outs ≤ ((xt (xo 2195 (9#64) 2 2) 2 200).core 0).pipe.run ∧
      (xo 2195 (9#64) 2 2).row0 + (xo 2195 (9#64) 2 2).rows ≤ 1024 ∧
      (xo 2195 (9#64) 2 2).col0 + (xo 2195 (9#64) 2 2).cols ≤ 1024) ∧
    (((xt (xo 2196 (0#64) 0 0) 3 400).core 0).xbOn 2 = some (xo 2196 (0#64) 0 0) ∧ (xo 2196 (0#64) 0 0).stepped = false ∧
      (xo 2196 (0#64) 0 0).id = 2196 ∧ (xo 2196 (0#64) 0 0).outs < (xo 2196 (0#64) 0 0).slotsL ∧
      (xo 2196 (0#64) 0 0).step = 0 ∧
      (xo 2196 (0#64) 0 0).u + 120 + 16 * (xo 2196 (0#64) 0 0).outs ≤ ((xt (xo 2196 (0#64) 0 0) 3 400).core 0).pipe.run ∧
      (xo 2196 (0#64) 0 0).row0 + (xo 2196 (0#64) 0 0).rows ≤ 1024) := by and_intros <;> decide +kernel
theorem witness_CrossbarSteps_2 :
    (((xt (xo 2196 (0#64) 0 8) 3 400).core 0).xbOn 2 = some (xo 2196 (0#64) 0 8) ∧ (xo 2196 (0#64) 0 8).stepped = false ∧
      (xo 2196 (0#64) 0 8).id = 2196 ∧ (xo 2196 (0#64) 0 8).outs < (xo 2196 (0#64) 0 8).slotsL ∧
      (xo 2196 (0#64) 0 8).step = 0 ∧
      (xo 2196 (0#64) 0 8).u + 120 + 16 * (xo 2196 (0#64) 0 8).outs ≤ ((xt (xo 2196 (0#64) 0 8) 3 400).core 0).pipe.run ∧
      (xo 2196 (0#64) 0 8).row0 + (xo 2196 (0#64) 0 8).rows ≤ 1024) ∧
    (((xt (xo 2202 (0#64) 2 0) 4 800).core 0).xbOn 2 = some (xo 2202 (0#64) 2 0) ∧ (xo 2202 (0#64) 2 0).stepped = false ∧
      (xo 2202 (0#64) 2 0).id = 2202 ∧ (xo 2202 (0#64) 2 0).outs < (xo 2202 (0#64) 2 0).cols ∧
      (xo 2202 (0#64) 2 0).u + 272 + 256 * (xo 2202 (0#64) 2 0).outs ≤ ((xt (xo 2202 (0#64) 2 0) 4 800).core 0).pipe.run ∧
      (xo 2202 (0#64) 2 0).row0 + (xo 2202 (0#64) 2 0).rows ≤ 1024 ∧
      (xo 2202 (0#64) 2 0).col0 + (xo 2202 (0#64) 2 0).cols ≤ 1024) ∧
    (((xt (xo 2202 (0#64) 2 1) 4 800).core 0).xbOn 2 = some (xo 2202 (0#64) 2 1) ∧ (xo 2202 (0#64) 2 1).stepped = false ∧
      (xo 2202 (0#64) 2 1).id = 2202 ∧ (xo 2202 (0#64) 2 1).outs < (xo 2202 (0#64) 2 1).cols ∧
      (xo 2202 (0#64) 2 1).u + 272 + 256 * (xo 2202 (0#64) 2 1).outs ≤ ((xt (xo 2202 (0#64) 2 1) 4 800).core 0).pipe.run ∧
      (xo 2202 (0#64) 2 1).row0 + (xo 2202 (0#64) 2 1).rows ≤ 1024 ∧
      (xo 2202 (0#64) 2 1).col0 + (xo 2202 (0#64) 2 1).cols ≤ 1024) ∧
    (((xt (xo 2201 (2#64) 0 0) 4 400).core 0).xbOn 2 = some (xo 2201 (2#64) 0 0) ∧ (xo 2201 (2#64) 0 0).stepped = false ∧
      (xo 2201 (2#64) 0 0).id = 2201 ∧ (xo 2201 (2#64) 0 0).outs < (xo 2201 (2#64) 0 0).cols ∧ (xo 2201 (2#64) 0 0).u + 16 +
      12 * 2 ^ bits (xo 2201 (2#64) 0 0).trig 0 3 * ((xo 2201 (2#64) 0 0).outs + 1) ≤ ((xt (xo 2201 (2#64) 0 0) 4 400).core
      0).pipe.run) ∧
    (((xt (xo 2201 (2#64) 0 1) 4 400).core 0).xbOn 2 = some (xo 2201 (2#64) 0 1) ∧ (xo 2201 (2#64) 0 1).stepped = false ∧
      (xo 2201 (2#64) 0 1).id = 2201 ∧ (xo 2201 (2#64) 0 1).outs < (xo 2201 (2#64) 0 1).cols ∧ (xo 2201 (2#64) 0 1).u + 16 +
      12 * 2 ^ bits (xo 2201 (2#64) 0 1).trig 0 3 * ((xo 2201 (2#64) 0 1).outs + 1) ≤ ((xt (xo 2201 (2#64) 0 1) 4 400).core
      0).pipe.run) ∧
    (((xt (xo 2193 (0#64) 1 0) 0 200).core 0).xbOn 2 = some (xo 2193 (0#64) 1 0) ∧ (xo 2193 (0#64) 1 0).stepped = false ∧
      ((xo 2193 (0#64) 1 0).id = 2193 ∨ (xo 2193 (0#64) 1 0).id = 2194) ∧
      (xo 2193 (0#64) 1 0).step = (xo 2193 (0#64) 1 0).xbReads.length ∧
      (xo 2193 (0#64) 1 0).outs < ceilDiv (xo 2193 (0#64) 1 0).nOut 64 ∧ (xt (xo 2193 (0#64) 1 0) 0 200).lineRight 0 0 (((xt
      (xo 2193 (0#64) 1 0) 0 200).core 0).ctx.getD 0) ((xo 2193 (0#64) 1 0).outb + (xo 2193 (0#64) 1 0).outs) Via.own = true ∧
      (xo 2193 (0#64) 1 0).u + 93 + (xo 2193 (0#64) 1 0).outs / 4 ≤ ((xt (xo 2193 (0#64) 1 0) 0 200).core 0).pipe.run) ∧
    (((xt (xo 2194 (0#64) 1 0) 1 200).core 0).xbOn 2 = some (xo 2194 (0#64) 1 0) ∧ (xo 2194 (0#64) 1 0).stepped = false ∧
      ((xo 2194 (0#64) 1 0).id = 2193 ∨ (xo 2194 (0#64) 1 0).id = 2194) ∧
      (xo 2194 (0#64) 1 0).step = (xo 2194 (0#64) 1 0).xbReads.length ∧
      (xo 2194 (0#64) 1 0).outs < ceilDiv (xo 2194 (0#64) 1 0).nOut 64 ∧ (xt (xo 2194 (0#64) 1 0) 1 200).lineRight 0 0 (((xt
      (xo 2194 (0#64) 1 0) 1 200).core 0).ctx.getD 0) ((xo 2194 (0#64) 1 0).outb + (xo 2194 (0#64) 1 0).outs) Via.own = true ∧
      (xo 2194 (0#64) 1 0).u + 93 + (xo 2194 (0#64) 1 0).outs / 4 ≤ ((xt (xo 2194 (0#64) 1 0) 1 200).core 0).pipe.run) ∧
    (((xt (xo 2199 (2099205#64) 0 0) 2 60).core 0).xbOn 2 = some (xo 2199 (2099205#64) 0 0) ∧
      (xo 2199 (2099205#64) 0 0).stepped = false ∧ (xo 2199 (2099205#64) 0 0).id = 2199 ∧
      (xo 2199 (2099205#64) 0 0).outs < ceilDiv (xo 2199 (2099205#64) 0 0).spCount 128 ∧ (xt (xo 2199 (2099205#64) 0 0) 2
      60).lineRight 0 0 (((xt (xo 2199 (2099205#64) 0 0) 2 60).core 0).ctx.getD 0) ((xo 2199 (2099205#64) 0 0).outb + (xo 2199
      (2099205#64) 0 0).outs) Via.own = true ∧ (xo 2199 (2099205#64) 0 0).u + 9 + (xo 2199 (2099205#64) 0 0).outs / 4 ≤ ((xt
      (xo 2199 (2099205#64) 0 0) 2 60).core 0).pipe.run) ∧
    (((xt (xo 2193 (0#64) 1 1) 0 200).core 0).xbOn 2 = some (xo 2193 (0#64) 1 1) ∧ (xo 2193 (0#64) 1 1).stepped = false ∧
      (xo 2193 (0#64) 1 1).xbReady = true ∧
      (xo 2193 (0#64) 1 1).u + (xo 2193 (0#64) 1 1).dt ≤ ((xt (xo 2193 (0#64) 1 1) 0 200).core 0).pipe.run ∧
      ((((xt (xo 2193 (0#64) 1 1) 0 200).core 0).eng.xb.all fun y => decide (y.id ≠ 2204)) = true)) ∧
    (((xt (xo 2195 (256#64 + 9#64) 2 9) 2 300).core 0).xbOn 2 = some (xo 2195 (256#64 + 9#64) 2 9) ∧
      (xo 2195 (256#64 + 9#64) 2 9).stepped = false ∧ (xo 2195 (256#64 + 9#64) 2 9).xbReady = true ∧ (xo 2195 (256#64 + 9#64)
      2 9).u + (xo 2195 (256#64 + 9#64) 2 9).dt ≤ ((xt (xo 2195 (256#64 + 9#64) 2 9) 2 300).core 0).pipe.run ∧
      ((((xt (xo 2195 (256#64 + 9#64) 2 9) 2 300).core 0).eng.xb.all fun y => decide (y.id ≠ 2204)) = true)) ∧
    (((xt (xo 2203 (0#64) 0 1) 2 600).core 0).xbOn 2 = some (xo 2203 (0#64) 0 1) ∧ (xo 2203 (0#64) 0 1).stepped = false ∧
      (xo 2203 (0#64) 0 1).xbReady = true ∧
      (xo 2203 (0#64) 0 1).u + (xo 2203 (0#64) 0 1).dt ≤ ((xt (xo 2203 (0#64) 0 1) 2 600).core 0).pipe.run ∧
      ((((xt (xo 2203 (0#64) 0 1) 2 600).core 0).eng.xb.all fun y => decide (y.id ≠ 2204)) = true)) := by and_intros <;> decide +kernel

/-- A transfer whose trigger has PSET: column 7 of its port, at the first and the last slot. -/
theorem witness_CrossbarSteps_pset : ∀ q ∈ [0, 8],
    let s := xt (xo 0x894 2 0 q) 3 400
    let o := xo 0x894 2 0 q
    (s.core 0).xbOn 2 = some o ∧ o.stepped = false ∧ o.id = 0x894 ∧ o.outs < o.slotsL ∧ o.step = 0 ∧
      o.u + 120 + 16 * o.outs ≤ (s.core 0).pipe.run ∧ o.row0 + o.rows ≤ 1024 ∧ o.trig.getLsbD 1 = true ∧
      bits (o.port 13) 0 10 = 7 := by decide +kernel

end S11

/-! #### Witnesses: CopyCommands -/

namespace S12

def tA : BitVec 3072 := BitVec.ofNat 3072 (0x1000 + 2^64*120*128 + 2^325 + 2^327 + 2^335 + 2^1024*3 + 2^1056*4 + 2^1104*4)

def cps (f : CopyEngine → CopyEngine) (g : Core → Core := id) : State :=
  onCore fun c => g { c with cp := f { c.cp with tpl := [(3, tA)] }, regs := { c.regs with s := [(5, 3), (6, 0), (7, 255), (8, 8), (9, 256)], op := [(0x8c0, lineOf 110)] }, vrf := [(110, tA.truncate 1024), (111, (tA >>> 1024).truncate 1024), (112, 5)] }

def F (n : Nat) : Slot := ⟨0, BitVec.ofNat 12 n, 0⟩

def q4 : Channel := { st := 4, cause := 3, ticket := 9, pend := [{ v := 3, offs := 0 },{ v := 3, offs := 0 },{ v := 3, offs := 0 },{ v := 3, offs := 0 }], indices := List.replicate 64 1 }

def c0 := cps id

def c4 := cps fun e => { e with ch := [(2, q4)] }

def wst1 : State := cps id fun k => { k with absent := [(111, true)] }

def wst2 : State := cps fun e => { e with ch := [(2, { ticket := 65535, pend := [{ v := 3, offs := 0 }] })] }

def wst3 : State := cps fun e => { e with ch := [(2, { st := 4 })] }

def wst4 : State := cps fun e => { e with ch := [(7, { st := 2 })] }

def wst5 : State := cps fun e => { e with ch := [(3, { st := 2, cause := 5, ticket := 99, rprog := 7 })] }

def wst6 : State := cps fun e => { e with ch := [(3, { st := 2, cause := 5, ticket := 99, rprog := 7 }), (5, { st := 4 })] }

def cx : Copy := { tpl := 3, img := tA, soff := 0, doff := 0, ctx := 0, ticket := 4, svFirst := 3, svCount := 20 }

def st1 : Start := { v := 3, offs := 0, ap := true }

def sc (q : Channel) (g : Core → Core := id) : State :=
  let s := cps (fun e => { e with ch := [(2, q)] }) g
  s

def cg : Copy := { cx with checked := true, img := setBits (setBits tA 320 4 1) 338 1 1, idx := [5] }

def cq (av : Nat) : Copy := { cx with checked := true, img := setBits (setBits (setBits tA 341 1 1) 128 64 0x100000F) 256 32 av }

def cw : Copy := { cx with checked := true, img := setBits (setBits (setBits (setBits (setBits (setBits (setBits tA 334 2 1) 64 64 0x1000000) 339 1 1) 328 4 8) 384 8 5) 1104 48 5) 1056 48 4}

def wst7 : State := sc { act := some (cq 5), st := 1 } fun k => { k with accw := [(3, 5)] }

def wst8 : State := sc { act := some (cq 5), st := 1 } fun k => { k with accw := [(3, 4)] }

def wst9 : State :=
  { sc { act := some cw, st := 3 } fun k => { k with slots := { entries := [BitVec.ofNat 32 (5*2^20+2^28)], ptr := 0, done := false } } with
    edges := [(0, 1)] }

theorem witness_CopyCommands_1 :
    (Fires c0 (F 5).g (F 5).s 2241 (Src.sreg 5) (lineOf 3#64) ∧ (((F 5).m = 0#4 ∧ BitVec.toNat (scalarOf (lineOf 3#64)) < 64 ∧
      BitVec.toNat (c0.now.regs.portW 2240) < 2 ^ 15 ∧ ∀ (i : Nat), i < 3 → readCheck c0 c0.focus (c0.env c0.focus) false 1
      2241 (BitVec.toNat (c0.now.regs.portW 2240) + i) = none) ∧
      ∀ (i : Nat), i < 3 → c0.now.present (BitVec.toNat (c0.now.regs.portW 2240) + i) = true) ∧
      (c0.now.fired (Src.sreg 5)).replayUse.fst + 1 ≤ 48 ∧ (c0.now.fired (Src.sreg 5)).replayUse.snd + 4 ≤ 30) ∧
    (Fires wst1 (F 5).g (F 5).s 2241 (Src.sreg 5) (lineOf 3#64) ∧ ((F 5).m = 0#4 ∧
      BitVec.toNat (scalarOf (lineOf 3#64)) < 64 ∧ BitVec.toNat (wst1.now.regs.portW 2240) < 2 ^ 15 ∧ ∀ (i : Nat), i < 3 →
      readCheck wst1 wst1.focus (wst1.env wst1.focus) false 1 2241 (BitVec.toNat (wst1.now.regs.portW 2240) + i) = none) ∧
      wst1.now.present (BitVec.toNat (wst1.now.regs.portW 2240) + 1) = false ∧
      wst1.now.pipe.held < bits wst1.now.ctl.wdg 0 32) ∧
    (Fires wst2 (F 5).g (F 5).s 2242 (Src.sreg 5) (lineOf 3#64) ∧ BitVec.toNat (scalarOf (lineOf 3#64)) < 64 ∧
      wst2.now.startsUsed 2 < 4 ∧ (wst2.now.fired (Src.sreg 5)).replayUse.fst + 1 ≤ 48 ∧
      (wst2.now.fired (Src.sreg 5)).replayUse.snd + 4 ≤ 30) ∧
    (Fires c4 (F 5).g (F 5).s 2242 (Src.sreg 5) (lineOf 3#64) ∧ (c4.now.fired (Src.sreg 5)).replayUse.fst + 1 ≤ 48 ∧
      (c4.now.fired (Src.sreg 5)).replayUse.snd + 4 ≤ 30) ∧
    (Fires c4 (F 5).g (F 5).s 2242 (Src.sreg 5) (lineOf 3#64) ∧ BitVec.toNat (scalarOf (lineOf 3#64)) < 64 ∧
      4 ≤ c4.now.startsUsed 2 ∧ c4.now.pipe.held < bits c4.now.ctl.wdg 0 32) ∧
    (Fires c0 (0#4) (5#12) 2243 (Src.sreg 5) (lineOf 3#64) ∧ (2 < 8 ∧ BitVec.toNat (scalarOf (lineOf 3#64)) < 2 ^ 32 ∧
      (c0.now.chan 2).indices.length + (List.filter
      (fun e => match e.snd with | Out.gqpush j _ => decide (j = 2) | _ => false) c0.now.cbuf).length < 64) ∧
      (c0.now.fired (Src.sreg 5)).replayUse.fst + 1 ≤ 48 ∧ (c0.now.fired (Src.sreg 5)).replayUse.snd + 4 ≤ 30) ∧
    (Fires c4 (0#4) (5#12) 2243 (Src.sreg 5) (lineOf 3#64) ∧ (2 < 8 ∧ BitVec.toNat (scalarOf (lineOf 3#64)) < 2 ^ 32 ∧ 64 ≤
      (c4.now.chan 2).indices.length + (List.filter
      (fun e => match e.snd with | Out.gqpush j _ => decide (j = 2) | _ => false) c4.now.cbuf).length) ∧
      c4.now.pipe.held < bits c4.now.ctl.wdg 0 32) ∧
    (Fires wst3 (F 7).g (F 7).s 2244 (Src.sreg 7) (lineOf 255#64) ∧
      (∀ (it : Item), it.lines.length + it.wr.length ≤ 30 → ((wst3.now.fired (Src.sreg 7)).withItem it).Room) ∧
      ((F 7).m = 0#4 ∧ BitVec.toNat (scalarOf (lineOf 255#64)) < 2 ^ 8 ∧
      ∀ (i : Nat), i < 8 → BitVec.getLsbD (scalarOf (lineOf 255#64)) i = true → wst3.now.chanBusy i = false)) ∧
    (Fires wst4 (F 7).g (F 7).s 2244 (Src.sreg 7) (lineOf 255#64) ∧ (F 7).m = 0#4 ∧
      BitVec.toNat (scalarOf (lineOf 255#64)) < 2 ^ 8 ∧ BitVec.getLsbD (scalarOf (lineOf 255#64)) 7 = true ∧
      wst4.now.chanBusy 7 = true ∧ wst4.now.pipe.held < bits wst4.now.ctl.wdg 0 32) ∧
    (Fires wst5 (F 5).g (F 5).s 2245 (Src.sreg 5) (lineOf 3#64) ∧
      (∀ (it : Item), it.lines.length + it.wr.length ≤ 30 → ((wst5.now.fired (Src.sreg 5)).withItem it).Room) ∧
      (F 5).m = 0#4 ∧ BitVec.toNat (scalarOf (lineOf 3#64)) < 8) ∧
    (Fires wst6 (F 7).g (F 7).s 2246 (Src.sreg 7) (lineOf 255#64) ∧ (F 7).m = 0#4 ∧
      BitVec.toNat (scalarOf (lineOf 255#64)) < 2 ^ 8 ∧ (wst6.now.fired (Src.sreg 7)).replayUse.fst + 1 ≤ 48 ∧
      (wst6.now.fired (Src.sreg 7)).replayUse.snd + 4 ≤ 30) ∧
    (Fires c0 (F 8).g (F 8).s 2245 (Src.sreg 8) (lineOf 8#64) ∧ 8 ≤ BitVec.toNat (scalarOf (lineOf 8#64)) ∧
      (c0.now.fired (Src.sreg 8)).replayUse.fst + 1 ≤ 48 ∧ (c0.now.fired (Src.sreg 8)).replayUse.snd + 4 ≤ 30) :=
  ⟨⟨fires_of (by decide +kernel), by decide +kernel⟩, ⟨fires_of (by decide +kernel), by decide +kernel⟩,
    ⟨fires_of (by decide +kernel), by decide +kernel⟩, ⟨fires_of (by decide +kernel), by decide +kernel⟩,
    ⟨fires_of (by decide +kernel), by decide +kernel⟩, ⟨fires_of (by decide +kernel), by decide +kernel⟩,
    ⟨fires_of (by decide +kernel), by decide +kernel⟩, ⟨fires_of (by decide +kernel),
    room_withItem (by unfold Core.Quiet; decide +kernel), by decide +kernel⟩, ⟨fires_of (by decide +kernel),
    by decide +kernel⟩, ⟨fires_of (by decide +kernel), room_withItem (by unfold Core.Quiet; decide +kernel),
    by decide +kernel⟩, ⟨fires_of (by decide +kernel), by decide +kernel⟩, ⟨fires_of (by decide +kernel), by decide +kernel⟩⟩
/-- A channel with two starts of template 3 that wait. -/
def idleQ : Channel := { ticket := 65535, pend := [st1, st1] }
def busyQ : Channel := { st := 2, ticket := 65535, act := some cx, pend := [st1, st1] }
/-- The claims that accepting `st1` places in a state. -/
abbrev newClaims (s : State) : Tab Nat := if s.cause1Ok (s.snapshot 0 2 st1) then s.claimSet 0 (s.snapshot 0 2 st1) else []
def offsStore : Start := { v := 0x7000, offs := 0, ap := true, set := true }
def resume1 : Start := { st1 with resume := true }
/-- A stopped copy, and a stopped reduce copy that had added to two words. -/
def stopQ (x : Copy) : Channel := { st := 4, cause := 3, ticket := 65535, act := some x, pend := [resume1, st1] }
def cwords : Copy := { cx with words := [(0, 3, 17), (1, 70000 % 65536, 5)] }
def cclaim : Copy := { cx with claims := [(120, 3)] }
def cbadRm : Copy := { cx with img := setBits tA 332 2 3 }
theorem witness_CopyCommands_2 :
    Met c0 (F 9) 0x8c4 (.sreg 9) (lineOf 256) ((F 9).m ≠ 0 ∨ 2 ^ 8 ≤ (scalarOf (lineOf 256)).toNat) ∧
    Met c0 ⟨0, 9, 1⟩ 0x8c1 (.sreg 9) (lineOf 256) ((1 : BitVec 4) ≠ 0 ∨ 64 ≤ (scalarOf (lineOf 256)).toNat ∨
      2 ^ 15 ≤ (c0.now.regs.portW 0x8c0).toNat) ∧
    Met c0 (F 9) 0x8c2 (.sreg 9) (lineOf 256) (64 ≤ (scalarOf (lineOf 256)).toNat) ∧
    Met c0 ⟨0, 5, 8⟩ 0x8c3 (.sreg 5) (lineOf 3) (8 ≤ (8 : BitVec 4).toNat ∨ 2 ^ 32 ≤ (scalarOf (lineOf 3)).toNat) ∧
    Met c0 (F 8) 0x8c5 (.sreg 8) (lineOf 8) ((F 8).m ≠ 0 ∨ 8 ≤ (scalarOf (lineOf 8)).toNat) ∧
    Met c0 (F 9) 0x8c6 (.sreg 9) (lineOf 256) ((F 9).m ≠ 0 ∨ 2 ^ 8 ≤ (scalarOf (lineOf 256)).toNat) ∧
    (c0.coreEnabled 0 = true ∧ (5 : Word).getLsbD 6 = false ∧ (69 : Word).getLsbD 6 = true) ∧
    (((sc { pend := [offsStore, st1] }).core 0).chan 2).st ≠ 5 ∧
      (((sc { pend := [offsStore, st1] }).core 0).chan 2).nextStart = some (offsStore, [st1]) ∧ offsStore.set = true ∧
    (∀ q ∈ [idleQ, busyQ], (((sc q).core 0).chan 2).st ≠ 5 ∧ (((sc q).core 0).chan 2).nextStart = some (st1, [st1]) ∧
      st1.set = false ∧ st1.resume = false ∧ (sc q).claimsFit (newClaims (sc q)) = true) ∧
    (∀ x ∈ [cx, cwords], (((sc (stopQ x)).core 0).chan 2).nextStart = some (resume1, [st1]) ∧ resume1.set = false ∧
      resume1.resume = true ∧ (((sc (stopQ x)).core 0).chan 2).act = some x ∧ (((sc (stopQ x)).core 0).chan 2).st = 4 ∧
      bits resume1.v 7 57 = 0 ∧ (x.words.map fun e => (e.1, e.2.1)).Nodup) ∧
    (let s := sc { st := 2, act := some cclaim }
     ((s.core 0).chan 2).act = some cclaim ∧ cclaim.checked = false ∧ ((s.core 0).chan 2).st ≠ 4 ∧
      ((s.core 0).chan 2).st ≠ 5 ∧ s.activation 0 cclaim = none ∧ (cclaim.claims ≠ [] ∨ s.claimSet 0 cclaim = []) ∧
      s.copyFar cclaim = none) ∧
    (let s := sc { st := 2, act := some cbadRm }
     ((s.core 0).chan 2).act = some cbadRm ∧ cbadRm.checked = false ∧ ((s.core 0).chan 2).st ≠ 4 ∧
      ((s.core 0).chan 2).st ≠ 5 ∧ s.activation 0 cbadRm = some (1, { code := 9, sub := 1, i0 := 0x8c2 }) ∧
      cbadRm.claims = [] ∧ cbadRm.stepped = false) ∧
    Tpl.valid (setBits tA 327 1 0) = false ∧
    (∀ s ∈ [wst7, wst8], ((s.core 0).chan 2).act = some (cq 5) ∧ (cq 5).checked = true ∧ ((s.core 0).chan 2).st = 1 ∧
      (s.core 0).chanHalt = false ∧ s.syncPlace (cq 5).ctx (Tpl.async (cq 5).img) = some (.inl (0, 3)) ∧
      s.accWaits 0 (cq 5).ctx (3 / 4096) = false ∧ s.frozen 0 (dieOf 0) (cq 5).ctx = false) ∧
    ((wst9.core 0).slots.adm = none ∧ (0, 0, 2) ∈ wst9.slotWaiters 0 ∧
      (∀ y ∈ wst9.slotWaiters 0, y ≠ (0, 0, 2) → 0 < y.1) ∧ ((wst9.core 0).chan 2).act = some cw ∧ wst9.slotAsk 0 = none) := by
  refine ⟨met_of (by decide +kernel) (by decide +kernel) (by decide +kernel),
    met_of (by decide +kernel) (by decide +kernel) (by decide +kernel),
    met_of (by decide +kernel) (by decide +kernel) (by decide +kernel),
    met_of (by decide +kernel) (by decide +kernel) (by decide +kernel),
    met_of (by decide +kernel) (by decide +kernel) (by decide +kernel),
    met_of (by decide +kernel) (by decide +kernel) (by decide +kernel), ?_⟩
  and_intros <;> decide +kernel

def cgi : Copy := { cg with idx := [] }
def gatherQ : Channel := { st := 2, act := some cgi, indices := [7, 8] }
theorem witness_CopyCommands_3 :
    ((sc gatherQ).core 0).chan 2 = gatherQ ∧ cgi.checked = true ∧ Tpl.gather cgi.img = true ∧
      cgi.front < Tpl.total cgi.img ∧ cgi.indexed cgi.front = false := by decide +kernel

end S12

/-! #### Witnesses: CopyMoves, CopyStops -/

namespace S14

def tA : BitVec 3072 := BitVec.ofNat 3072 (0x1000 + 2^64*120*128 + 2^325 + 2^327 + 2^335 + 2^1024*3 + 2^1056*4 + 2^1104*4)

def pgA : HeldPage := { va := 0, size := 32768, leaf := 15 }

def cps (f : CopyEngine → CopyEngine) (g : Core → Core := id) : State :=
  onCore fun c => g { c with cp := f { c.cp with tpl := [(3, tA)] }, regs := { c.regs with s := [(5, 3), (6, 0), (7, 255), (8, 8), (9, 256)], op := [(0x8c0, lineOf 110)] }, vrf := [(110, tA.truncate 1024), (111, (tA >>> 1024).truncate 1024), (112, 5)] }

def cx : Copy := { tpl := 3, img := tA, soff := 0, doff := 0, ctx := 0, ticket := 4, svFirst := 3, svCount := 20 }

def sc (q : Channel) (g : Core → Core := id) : State :=
  let s := cps (fun e => { e with ch := [(2, q)] }) g
  s

def ck : Copy := { cx with checked := true }

def elA : List Elem := (List.range 4).map fun i => { src := (List.range 4).map fun j => (j, 0x1000 + 4*i + j), dst := .here (120*128 + 4*i) }

def mm (s : State) (l : List (Nat × Nat)) : State := { s with mem := l.map fun e => (e.1, BitVec.ofNat 8 e.2) }

def chn (x : Copy) : Channel := { act := some x, st := 2, tlb := [pgA] }

def s1c : State := mm (sc (chn ck)) [(0x1000, 17), (0x1005, 18), (0x2000, 3)]

def mcS (s : State) (d : Nat) (f : MemCtl → MemCtl) : State := { s with dies := Tab.set s.dies d { s.die d with mc := f (s.die d).mc } }

def rq : HbmReq := { src := 2, line := 32, write := false }

def rw : HbmReq := { src := 2, line := 32, write := true, data := [(0x1000, 5), (0x1003, 0), (0x107f, 255)] }

def s2c (r : HbmReq) (x : Copy) : State := mcS (mm (sc (chn x)) [(0x1000, 17), (0x1003, 4), (0x1005, 18), (0x2000, 3)]) (stackOf 0x1000) fun m => { m with waiting := [(pcOf 0x1000, [r])] }

def s3c (r : HbmReq) (x : Copy) : State := mcS (mm (sc (chn x) fun k => { k with claims := [(120, 1), (121, 2)], absent := [(120, true), (121, true)] }) [(0x1000, 17), (0x1003, 4), (0x1005, 18), (0x2000, 3)]) (stackOf 0x1000) fun m => { m with queues := [(pcOf 0x1000, [r])] }

def ckR0 : Copy := { ck with reading := elA.map fun e => { e with val := 0 } , reads := 0 }

def ckR : Copy := { ck with reading := elA.map fun e => { e with val := 0 }, reads := 2 }

def ckW : Copy := { ck with reading := elA, writes := 1, done := 0, claims := [(120, 3), (121, 7)], crc := [32] }

def thA : BitVec 3072 := setBits tA 334 2 0

def ckH : Copy := { ck with img := thA, done := 3, reading := [{ val := 0xdeadbeef, dst := .hbm [0x2010, 0x2011, 0x2012, 0x2013] }] }

def ckV : Copy := { ck with done := 3, reading := [{ val := 0xdeadbeef, dst := .here (120*128+4) }], claims := [(120, 3)] }

def fin : Copy := { ck with done := 4 }

def finR : Copy := { fin with img := setBits (setBits (setBits tA 342 1 1) 192 64 0x100000F) 288 32 0xffffffff }

def finF : Copy := { fin with img := setBits (setBits (setBits tA 448 12 0x810) 480 32 0x12345678) 460 4 9 }

def fol (q : Channel) : State := sc q fun k => { k with pipe := { k.pipe with seq := 7 } }

def mxq : State :=
  let s := onCore fun c => { c with vrf := (List.range 60).map fun i => (110 + i, BitVec.ofNat 1024 (3 ^ (100 + 9 * i))), accw := [(3 * 4096 + 5, 0x1234567890)], regs := { c.regs with op := [(0x800, lineOf 14080), (0x801, lineOf 64), (0x802, lineOf 14336), (0x803, lineOf 128), (0x804, lineOf 32), (0x805, lineOf 3), (0x806, lineOf 0), (0x807, lineOf 0)] }, ctl := { c.ctl with res := 500 }, cp := { c.cp with follows := [{ id := 0x810, val := 0, m := 0, ch := 2, seq := 6 }] } }
  s

def wst1 : State := sc (chn ckV) fun k => { k with absent := [(120,true)], claims := [(120,1)] }

def wst2 : State := sc { chn finR with queue := [cx, ck] } fun k => { k with accw := [(3, 5)] }

def bd : Copy := { ck with bad := some 32 }

def wst3 : State := sc { chn { cx with claims := [(120, 3), (121, 4)] } with st := 5 } fun k => { k with claims := [(120, 1), (121, 2), (122, 1)], absent := [(120,true)] }

/-- A channel needs no table entry to translate its next element. -/
def noWalk (w : W) (c ch : Nat) : Bool :=
  match (w.core c).moving ch with
  | none => true
  | some x =>
    let need (va : Int) : List AgentRead :=
      if ((w.core c).chan ch).tlb.any fun p => decide (0 ≤ va) && p.covers va.toNat then [] else w.xlateReads (dieOf c) x.ctx va
    let side (sp : Nat) (a : Int) (n : Nat) : List AgentRead := if sp = 0 then need a ++ need (a + (n : Int) - 1) else []
    (side (Tpl.ssp x.img) (x.srcAddr x.front) (Tpl.esize x.img) ++
      side (Tpl.dsp x.img) (x.dstAddr x.front) (Tpl.dsize x.img)).isEmpty
theorem askXlate_eq {w : W} {c ch : Nat} (h : noWalk w c ch = true) : w.askXlate c ch = w := by
  unfold noWalk at h
  unfold W.askXlate
  split
  · rfl
  · next x hx =>
    rw [hx] at h
    rw [List.isEmpty_iff] at h
    exact (congrArg w.askReads h).trans rfl
/-- The request server of core 0 serves channel 2. -/
abbrev Served (s : State) : Prop :=
  (W.of s).nextChan 0 = some 2 ∧ (∀ i, i < 8 → noWalk (W.of s) 0 i = true) ∧
    ∀ i, i < 8 → (s.core 0).lowChan i = true → (W.of s).chanReady 0 i = false
/-- What the taking of elements in hand gives. -/
abbrev taken (s : State) : List Elem × W := (W.of s).gatherElems 0 2 ck ck.front 128 ck.front
/-- The same copy with its page in the gazetteer alone, and with a request of its elements in hand to send. -/
def s1g : State :=
  let s := mm (sc { act := some ck, st := 2 }) [(0x1000, 17)]
  { s with dies := Tab.set s.dies 0 { s.die 0 with gaz := [(0, pgA)] } }
def ckAsk : Copy := { ck with reading := elA, reads := 2, ask := [{ src := 2, line := 33, write := false }, rq] }
theorem witness_CopyMoves_1 :
    (Served s1c ∧ (s1c.core 0).asking 2 = none ∧ (s1c.core 0).moving 2 = some ck ∧ (W.of s1c).gazOnly (taken s1c).2 0 2 ck.ctx = false) ∧
    (Served s1g ∧ (s1g.core 0).asking 2 = none ∧ (s1g.core 0).moving 2 = some ck ∧ (W.of s1g).gazOnly (taken s1g).2 0 2 ck.ctx = true) ∧
    (Served (sc (chn ckAsk)) ∧ ((sc (chn ckAsk)).core 0).asking 2 = some (ckAsk, { src := 2, line := 33, write := false })) ∧
    (∀ q ∈ [rw, rq], Tab.get [] ((s2c q ckR).die (stackOf 4096)).mc.waiting (pcOf 4096) = [q] ∧
      (Tab.get [] ((s2c q ckR).die (stackOf 4096)).mc.queues (pcOf 4096)).length < 32 ∧
      (s2c q ckR).poisoned (128 * q.line) = false) ∧
    (rw.who = .agent ∧ rw.whole = false ∧ rw.write = true ∧ (rw.data.map (·.1)).Nodup ∧ ∀ e ∈ rw.data, e.1 < Config.hbmBytes) ∧
    (rq.who = .agent ∧ rq.write = false ∧ rq.src = 0 * 8 + 2 ∧ (((s2c rq ckR).core 0).chan 2).act = some ckR ∧
      (let l := [0x100c, 0x100d, 0x100e, 0x100f]
       ckR.reading[3]? = some { src := (List.range l.length).zip l, val := 0, dst := .here (120 * 128 + 12) } ∧
         ∀ a ∈ l, a / 128 = rq.line)) ∧
    (((s3c rq ckR).die (stackOf 4096)).mc.pick (s3c rq ckR).ts (pcOf 4096) = some rq ∧
      (((s3c rq ckR).core 0).chan 2).act = some ckR) ∧
    (∀ x ∈ [{ ckW with writes := 3 }, { ckW with ask := [rw] }], ((s3c rw x).die (stackOf 4096)).mc.pick (s3c rw x).ts (pcOf 4096) = some rw ∧
      rw.src = 0 * 8 + 2 ∧ (((s3c rw x).core 0).chan 2).act = some x ∧ rw.write = true ∧ (1 < x.writes ∨ x.ask ≠ [])) ∧
    (((s3c rw ckW).die (stackOf 4096)).mc.pick (s3c rw ckW).ts (pcOf 4096) = some rw ∧
      (((s3c rw ckW).core 0).chan 2).act = some ckW ∧ ckW.writes = 1 ∧ ckW.ask = [] ∧ ckW.reading ≠ [] ∧
      (((s3c rw ckW).core 0).chan 2).st = 2 ∧ Tpl.wadd ckW.img = false ∧ (ckW.claims.map (·.1)).Nodup) := by
  and_intros <;> decide +kernel
/-- A copy that converts binary32 by legend 5 with NOTE to survey 4. -/
def ckN : Copy :=
  { ck with img := setBits (setBits (setBits (setBits tA 328 4 2) 364 12 5) 340 1 1) 352 12 4, done := 3
            reading := [{ val := 0x3f800000, dst := .here (120 * 128 + 4) }], claims := [(120, 3)] }
def noted : State :=
  let s := sc (chn ckN) fun k => { k with absent := [(120, true)], claims := [(120, 1)] }
  { s with dies := Tab.set s.dies 0 { s.die 0 with surveys := [(4, 5)] } }
/-- The elements in hand of copy `x` may be written. -/
abbrev InHand (s : State) (x : Copy) : Prop :=
  ((s.core 0).chan 2).act = some x ∧ x.landed ((s.core 0).chan 2).st s.clk = true ∧ (W.of s).writable 0 2 x = true ∧
    s.tileBusy 0 x = false
/-- Copy `x` has moved all its elements. -/
abbrev AllMoved (s : State) (x : Copy) : Prop :=
  ((s.core 0).chan 2).act = some x ∧ x.checked = true ∧ ((s.core 0).chan 2).st = 2 ∧ Tpl.total x.img ≤ x.done ∧
    x.reading = [] ∧ (s.core 0).chanHalt = false ∧ ((s.core 0).chan 2).follow = none ∧ x.stepped = false
theorem witness_CopyMoves_ends :
    (let bs := [0x2010, 0x2011, 0x2012, 0x2013]
     InHand (sc (chn ckH)) ckH ∧ ckH.reading = [{ val := 0xdeadbeef, dst := .hbm bs }] ∧ bs ≠ [] ∧
      bs.length ≤ Tpl.dsize ckH.img ∧ ∀ a ∈ bs, a / 128 = 64) ∧
    (InHand wst1 ckV ∧ ckV.reading = [{ val := 0xdeadbeef, dst := .here (120 * 128 + 4) }] ∧
      atlasLoc (120 * 128 + 4) = some (.vrf 0 (120 * 128 + 4)) ∧ (120 * 128 + 4) % 128 + Tpl.dsize ckV.img ≤ 128 ∧
      ckV.keeps 0 ((120 * 128 + 4) / 128) = false ∧ Tpl.wadd ckV.img = false ∧ wst1.NoAwait) ∧
    (InHand noted ckN ∧ ckN.reading = [{ val := 0x3f800000, dst := .here (120 * 128 + 4) }] ∧
      (120 * 128 + 4) % 128 + Tpl.dsize ckN.img ≤ 128 ∧ ckN.keeps 0 ((120 * 128 + 4) / 128) = false ∧
      Tpl.wadd ckN.img = false ∧ noted.NoAwait ∧ Tpl.note ckN.img = true ∧ Tpl.conv ckN.img ≠ 3 ∧ Tpl.conv ckN.img ≠ 4 ∧
      SvRec.fwd (noted.survey (dieOf 0) (Tpl.svid ckN.img)) = false) ∧
    (∀ q ∈ [chn fin, { chn fin with queue := [cx, ck] }], AllMoved (sc q) fin ∧ Tpl.rel fin.img = false ∧ Tpl.fid fin.img = 0) ∧
    (AllMoved wst2 finR ∧ Tpl.rel finR.img = true ∧ finR.relDone = false ∧ Tpl.fid finR.img = 0 ∧ (wst2.core 0).late = [] ∧
      wst2.syncPlace finR.ctx (Tpl.rsync finR.img) = some (.inl (0, 3)) ∧ wst2.accWaits 0 finR.ctx (3 / 4096) = false ∧
      wst2.frozen 0 (dieOf 0) finR.ctx = false ∧
      wst2.writesOpen 0 finR.seq (wst2.boundTo 0 finR.tid 0 finR.ctx (word (accAtlas 0 3))) = false ∧
      wst2.copyFar finR = none ∧ wst2.NoAwait) ∧
    (AllMoved (sc (chn finF)) finF ∧ Tpl.rel finF.img = false ∧ Tpl.fid finF.img ≠ 0 ∧ finF.folDone = false) := by
  and_intros <;> first | exact noAwait_of (by decide +kernel) | decide +kernel

/-- A channel whose follow-on has been formed. -/
def formed : Copy := { finF with folDone := true }
def formedQ : Channel := { chn formed with queue := [cx], follow := some (0x810, 5, 3) }
def folOp : EngineOp := { id := 0x810, ports := (mxq.core 0).mxPorts, seq := 0, u := (mxq.core 0).pipe.run, dc := 0, dt := 0 }
theorem witness_CopyMoves_2 :
    (let s := fol formedQ
     ((s.core 0).chan 2).act = some formed ∧ formed.stepped = false ∧ formed.folDone = true ∧
      ((s.core 0).chan 2).follow = some (0x810, 5, 3) ∧ ((s.core 0).chan 2).st = 2 ∧ (s.core 0).chanHalt = false ∧
      (s.core 0).replayUse.1 < 48 ∧ (s.core 0).replayUse.2 + b2n (isMma 0x810) ≤ 30) ∧
    ((mxq.core 0).cp.follows = [{ id := 0x810, val := 0, m := 0, ch := 2, seq := 6 }] ∧ isMma 0x810 = true ∧
      (mxq.core 0).pipe.pre = 0 ∧ folOp.mxFieldsOk 0 = true ∧
      (folOp.nar = true → ∀ i ∈ folOp.legIds, mxq.legendInRange (dieOf 0) (mxq.env 0).ctx i = true ∧
        Legend.usable (mxq.legend (dieOf 0) i) = true) ∧
      (∀ n, folOp.noteSv = some n → (mxq.env 0).svOk n = true) ∧ (mxq.core 0).eng.mx = none ∧
      (mxq.core 0).eng.mxWait = none ∧ (mxq.core 0).accMeets folOp.mxTile (mxq.core 0).pipe.run (128 * folOp.steps + 16) = false ∧
      folOp.badLine mxq 0 (mxq.env 0).ctx = none ∧ mxq.engineLines 0 (folOp.stepLines 0) = none ∧
      (∀ a ∈ mxq.ownOpen 0, overlap (mxq.atSpan a) (some (0 * 2 ^ 35 + 0x1000000 + 20480 * folOp.mxTile, 20480)) = false) ∧
      folOp.softC (mxq.core 0) = none ∧ (mxq.die (dieOf 0)).wmx (clusterOf 0) ≤ (mxq.core 0).ctl.res) := by
  decide +kernel

/-- The fault that an element of a copy meets. -/
def gotFault : Got → Option (Nat × Cause)
  | .fault f => some f
  | _ => none
theorem fault_of {g : Got} {f : Nat × Cause} (h : gotFault g = some f) : g = .fault f := by
  cases g <;> simp_all [gotFault]
/-- A copy whose source, HBM address 0x9000, lies on a page that is not mapped (13 R305). -/
def astray : Copy := { ck with soff := 0x8000 }
def drained : Copy := { cx with claims := [(120, 3), (121, 4)] }
def crcS (head : BitVec 20) : State := mcS (sc (chn ckR0)) 0 fun m => { m with ehbase := 16384, ehcount := 8, ehhead := head }
def poisonedLine : State :=
  mcS (s2c rq ckR) (stackOf 4096) fun m => { m with poison := [32] }
theorem witness_CopyStops_1 :
    (((sc (chn astray)).core 0).chan 2).act = some astray ∧ astray.stepped = false ∧
      ((sc (chn astray)).core 0).moving 2 = some astray ∧ astray.reading = [] ∧
      (W.of (sc (chn astray))).element 0 2 astray astray.done = .fault (4, { code := 7, slot := 8, i0 := 0x9000 }) ∧
      ((sc (chn astray)).core 0).readBad 2 = none ∧
    ((((sc (chn bd)).core 0).chan 2).act = some bd ∧ bd.stepped = false ∧ bd.bad = some 32 ∧
      (((sc (chn bd)).core 0).chan 2).st = 2 ∧ bd.reads = 0 ∧ bd.writes = 0 ∧ bd.ask = []) ∧
    (((wst3.core 0).chan 2).act = some drained ∧ drained.stepped = false ∧ ((wst3.core 0).chan 2).st = 5 ∧
      drained.reads = 0 ∧ drained.writes = 0 ∧ ((wst3.core 0).chan 2).dropped = [] ∧ Tpl.dsp drained.img = 2 ∧
      Tpl.wadd drained.img = false ∧ (drained.claims.map (·.1)).Nodup) ∧
    (∀ h ∈ [7, 3], (((crcS h).core 0).chan 2).act = some ckR0 ∧ ckR0.stepped = false ∧
      ckR0.landed (((crcS h).core 0).chan 2).st (crcS h).clk = true ∧ ckR0.reading[3]?.map (·.landDie 0) = some 0 ∧
      (((crcS h).die 0).mc.ehbase.toNat + 32 * ((crcS h).die 0).mc.ehhead.toNat) % 128 ≤ 96 ∧
      ckR0.crc.contains (ckR0.srcSpan (ckR0.done + 3)).1 = false ∧
      { ckR0 with crc := [32] }.crc.contains (ckR0.srcSpan (ckR0.done + 3)).1 = true) ∧
    (∀ s ∈ [poisonedLine, s2c rq ckR], ((s.core 0).chan 2).act = some ckR ∧ ckR.stepped = false ∧
      Tab.get [] (s.die (stackOf 4096)).mc.waiting (pcOf 4096) = [rq] ∧
      (Tab.get [] (s.die (stackOf 4096)).mc.queues (pcOf 4096)).length < 32 ∧ rq.write = false ∧ rq.who = .agent ∧
      rq.src = 0 * 8 + 2) ∧
    poisonedLine.poisoned (128 * rq.line) = true := by
  simp only [List.forall_mem_cons]
  and_intros <;> first | exact List.forall_mem_nil _ | decide +kernel | exact fault_of (by decide +kernel)

end S14

/-! #### Witnesses: MainMemory -/

namespace S16

def mm (s : State) (l : List (Nat × Nat)) : State := { s with mem := l.map fun e => (e.1, BitVec.ofNat 8 e.2) }

def pt1 : State := mm demo [(0x8000, 1), (0x8002, 1), (0x8008, 15), (0x8010, 1), (0x8011, 0x80), (0x10000, 1), (0x10001, 0x80), (0x10002, 1), (0x18000, 15), (0x18001, 0x80)]

def rt (g : List (Nat × HeldPage) := []) : State := { pt1 with dies := Tab.set pt1.dies 0 { pt1.die 0 with gaz := g, cctl := [(0, BitVec.ofNat 512 (0x8000 * 2^96))], mc := { (pt1.die 0).mc with openRow := [(3, some 7), (4, some 9)], scrubRow := 98304 * 512 - 1 } } }

def mo (b : Bool) (n : Nat) : State := { rt with dies := Tab.set (rt).dies 0 { (rt).die 0 with mc := { ((rt).die 0).mc with scrub := b, scrubRow := n } } }

/-- The table entry at an HBM address of `pt1`, and where it leads. -/
def ptEnt (a : Nat) : BitVec 64 := BitVec.ofNat 64 (leNat ((List.range 8).map fun i => pt1.hbm (a + i)))
def ptNext (e : BitVec 64) : Nat := bits e 15 24 * 2 ^ 15
abbrev PtFine (a : Nat) : Prop := a < Config.hbmBytes ∧ pt1.poisoned a = false ∧ leafReserved (ptEnt a) = false
abbrev pt1a (va : Nat) : Nat := 0x8000 + 8 * (va / 2 ^ 39 % 4096)
abbrev pt2a (va : Nat) : Nat := ptNext (ptEnt (pt1a va)) + 8 * (va / 2 ^ 27 % 4096)
abbrev pt3a (va : Nat) : Nat := ptNext (ptEnt (pt2a va)) + 8 * (va / 2 ^ 15 % 4096)
/-- Die 0's scrub has made its requests, or not, with row `n` next. -/
def scrubbing (asked : Bool) (n : Nat) : State :=
  let s := mo true n
  { s with dies := Tab.set s.dies 0 { s.die 0 with mc := { (s.die 0).mc with scrubAsked := asked } } }
/-- One of them is not admitted. -/
def scrubWaits : State :=
  let s := scrubbing true 17
  { s with dies := Tab.set s.dies 0 { s.die 0 with mc := { (s.die 0).mc with
    waiting := [(pcOf (s.scrubBase 0), [{ src := agentPort 1 0, line := s.scrubBase 0 / 128, write := false }])] } } }
/-- The reads of a walk of `rt`, and `rt` once they have been admitted. -/
def rtReads (va : Nat) : List AgentRead := (W.of rt).walkReads 0 (rt.ptroot 0 0) (va : Int)
def rtDone (va : Nat) : State :=
  { rt with dies := (List.range 8).map fun d => (d, { rt.die d with mc := { (rt.die d).mc with
    turns := (rtReads va).map fun e => (e.1, e.2, 0, true) } }) }
theorem witness_MainMemory_1 :
    (let va := 3 * 2 ^ 39 + 5
     va < 2 ^ 51 ∧ pt1a va < Config.hbmBytes ∧ pt1.poisoned (pt1a va) = false ∧ (ptEnt (pt1a va)).getLsbD 0 = false) ∧
    (let va := 2 ^ 39 + 5
     va < 2 ^ 51 ∧ PtFine (pt1a va) ∧ bits (ptEnt (pt1a va)) 0 2 = 3 ∧ (ptEnt (pt1a va)).getLsbD 4 = false ∧
      ptNext (ptEnt (pt1a va)) % 2 ^ 39 = 0 ∧ ptNext (ptEnt (pt1a va)) + va % 2 ^ 39 < Config.hbmBytes) ∧
    (let va := 5
     va < 2 ^ 51 ∧ PtFine (pt1a va) ∧ PtFine (pt2a va) ∧ PtFine (pt3a va) ∧ bits (ptEnt (pt1a va)) 0 2 = 1 ∧
      bits (ptEnt (pt2a va)) 0 2 = 1 ∧ (ptEnt (pt1a va)).getLsbD 4 = false ∧ (ptEnt (pt2a va)).getLsbD 4 = false ∧
      bits (ptEnt (pt3a va)) 0 2 = 3 ∧ (ptEnt (pt3a va)).getLsbD 4 = false ∧
      ptNext (ptEnt (pt3a va)) + va % 2 ^ 15 < Config.hbmBytes) ∧
    (rt.admitted (rtReads 5) = false ∧ ∀ e ∈ (rt.die 0).gaz, e.1 = 0 → e.2.covers 5 = false) ∧
    ((rtDone 5).admitted ((W.of (rtDone 5)).walkReads 0 ((rtDone 5).ptroot 0 0) 5) = true ∧
      ((W.of (rtDone 5)).takeReads ((W.of (rtDone 5)).walkReads 0 ((rtDone 5).ptroot 0 0) 5)).walk ((rtDone 5).ptroot 0 0) 5 =
        .ok { va := 0, size := 32768, leaf := 32783 } ∧
      ∀ e ∈ ((rtDone 5).die 0).gaz, e.1 = 0 → e.2.covers 5 = false) ∧
    (∃ e ∈ ((rt [(0, { va := 0, size := 32768, leaf := 7 })]).die 0).gaz, e.1 = 0 ∧ e.2.covers 5 = true) ∧
    (let va := 3 * 2 ^ 39
     let s := rtDone va
     s.admitted ((W.of s).walkReads 0 (s.ptroot 0 0) (va : Int)) = true ∧
      ((W.of s).takeReads ((W.of s).walkReads 0 (s.ptroot 0 0) (va : Int))).walk (s.ptroot 0 0) (va : Int) = .error (.page 0) ∧
      ∀ e ∈ (s.die 0).gaz, e.1 = 0 → e.2.covers va = false) ∧
    (Tab.get none (rt.die 0).mc.openRow 3 = some 7 ∧
      Tab.get 0 (rt.die 0).mc.lastUse 3 + (Tab.get (32 : BitVec 16) (rt.die 0).mc.idle 3).toNat ≤ 2 * rt.ts ∧
      (rt.die 0).mc.queuedHit 3 = false) ∧
    (((scrubbing false 17).die 0).mc.scrub = true ∧ ((scrubbing false 17).die 0).mc.scrubAsked = false) ∧
    ((scrubWaits.die 0).mc.scrub = true ∧ (scrubWaits.die 0).mc.scrubAsked = true ∧
      scrubWaits.askedHbm (agentPort 1 0) (scrubWaits.scrubBase 0) 1024 = true) ∧
    (let s := scrubbing true 17
     (s.die 0).mc.scrub = true ∧ (s.die 0).mc.scrubAsked = true ∧ s.askedHbm (agentPort 1 0) (s.scrubBase 0) 1024 = false ∧
      rowAddr 0 17 0 / 1024 = rowAddr 0 ((s.die 0).mc.scrubRow % 512) ((s.die 0).mc.scrubRow / 512) / 1024 ∧
      stackOf (rowAddr 0 17 0) = 0 ∧ ∀ a ∈ lineAddrs (s.scrubBase 0) 1024, s.poisoned a = false) ∧
    ((mo false 4).die 0).mc.scrub = false ∧ bits (0x1fffff : Word) 0 20 ≠ 0 ∧ bits (0x100000 : Word) 0 20 = 0 := by
  and_intros <;> decide +kernel

end S16

/-! #### Witnesses: TierCommands, Leases -/

namespace S17

def F (n : Nat) (m : Nat := 0) : Slot := ⟨0, BitVec.ofNat 12 n, BitVec.ofNat 4 m⟩

def ti (v o : Word) (x : Stack) (tier : List TierCmd) (blk : Nat := 65536*2^64 + 0x100000F * 2^136 + 12*2^128 + 4*2^132 + 64*2^96) (f : Core → Core := id) : State :=
  let s := onCore fun c => f { c with running := some { img := demoImg + BitVec.ofNat 512 (2^478), e := 3, since := 0 }, vrf := [(110, 77), (111, 88)], tier := tier, regs := { c.regs with s := [(5, v)], op := [(0x900, lineOf o)] }, pipe := { c.pipe with items := tier.map fun t => { kind := .atr, id := t.op, m := t.m, seq := t.seq, due := 90, await := .agent } } }
  { s with dies := Tab.set s.dies 0 { s.die 0 with tier := [(0, x)], tierBlk := [(0, BitVec.ofNat 256 blk)] }, pkg := { s.pkg with dsize := 8, linkUp := 1, cxl := true, pool := [4,5,6,8] } }

def untier (s : State) : State := { s with cores := Tab.set s.cores 0 { s.core 0 with running := some { img := demoImg, e := 3, since := 0 } } }

def tc (op : Nat) (o t : Word) (m : Nat := 0) : TierCmd := { seq := 5, op := op, o := o, t := t, m := BitVec.ofNat 4 m }

/-- An entry pushed whole, in the segment's lines from `first` on. -/
def en (key tag len : Nat) (first : Nat := 0) : StackEntry :=
  { key := key, tag := BitVec.ofNat 16 tag, len := len, wrote := len, runs := [(first, len + 1)] }

def sk : Stack := { entries := [en 2 7 3 6, en 1 8 5], nextKey := 3, leases := [(0, { st := 2, units := 4 }), (1, { st := 1, asked := 3 }), (3, { st := 6 }), (4, { st := 4, deadline := 5 })], data := [(5 * 2^25, 55), (5*2^25+3, 66)] }

def sk0 : Stack := { sk with leases := (List.range 16).map fun i => (i, { st := 3 }) }

def jb (op n m : Nat) : TierJob := { core := 0, seq := 5, op := op, o := 110 + 2^48*7, m := BitVec.ofNat 4 m, len := 3, key := 2, n := n }

def skj (op n m w : Nat) : Stack := { sk with entries := [en 1 8 5], leaving := [{ en 2 7 3 6 with wrote := w }], jobs := [jb op n m] }

def skp (n : Nat) : Stack := { sk with entries := [{ en 2 7 3 6 with wrote := n }], jobs := [jb 0x901 n 0] }

def big : Stack := { sk with entries := [en 2 7 3 400, en 1 8 390] }

/-- A spilled entry that a pop waits for. -/
def away : StackEntry := { en 5 8 3 with resident := false, runs := [] }
def ret : Stack := { sk with leaving := [away] }

def ls (x : LeaseSlot) : State := ti 0 0 { leases := [(3, x), (4, { st := 2 })] } []

/-- A core with the tier block free, `v` in S5 and `o` on `tier.o`. -/
def tq (v o : Word) : State := ti v o {} []
/-- The lines of a push or pop are allotted and this core's. -/
abbrev TierLines (s : State) (len : Nat) : Prop := ∀ i, i < len →
  s.allotted s.focus (s.env s.focus).ctx (bits (s.now.regs.portW 0x900) 0 15 + i) = true ∧
    s.lineRight s.focus s.focus (s.env s.focus).ctx (bits (s.now.regs.portW 0x900) 0 15 + i) .own = true
theorem witness_TierCommands_1 :
    (∀ id ∈ [0x901, 0x902],
      (let s := tq 3 (110 + 7 * 2 ^ 48)
       let v := lineOf 3
       Met s (F 5) id (.sreg 5) v ((s.env s.focus).tier = true ∧ 1 ≤ (scalarOf v).toNat ∧ (F 5).m = 0 ∧
         bits (s.now.regs.portW 0x900) 15 33 = 0 ∧ bits (s.now.regs.portW 0x900) 0 15 + (scalarOf v).toNat ≤ 32768 ∧
         TierLines s (scalarOf v).toNat)) ∧
      (let s := tq 0x1000000 (32768 + 7 * 2 ^ 48)
       let v := lineOf 0x1000000
       Met s (F 5 1) id (.sreg 5) v ((s.env s.focus).tier = true ∧ 1 ≤ (scalarOf v).toNat ∧ (F 5 1).m = 1 ∧
         bits (s.now.regs.portW 0x900) 44 4 = 0 ∧ (scalarOf v).toNat ≤ 2 ^ 24)) ∧
      (let s := tq 0 0
       Met s (F 5 1) id (.sreg 5) 0 ((s.env s.focus).tier = true ∧ scalarOf (0 : Line) = 0))) ∧
    (let s := tq 1024 1023
     Met s (F 5 1) 0x903 (.sreg 5) (lineOf 1024) ((s.env s.focus).tier = true ∧ (F 5 1).m.toNat < 2 ∧
       (s.now.regs.portW 0x900).toNat < 1024 ∧ 1 ≤ (scalarOf (lineOf 1024)).toNat ∧ (scalarOf (lineOf 1024)).toNat ≤ 1024)) ∧
    (∀ id ∈ [0x904, 0x905], Met (tq 15 1023) (F 5) id (.sreg 5) (lineOf 15)
      (((tq 15 1023).env (tq 15 1023).focus).tier = true ∧ (F 5).m = 0 ∧ (scalarOf (lineOf 15)).toNat < 16)) ∧
    Met (tq 0 1023) (F 5) 0x905 (.sreg 5) 0 (((tq 0 1023).env (tq 0 1023).focus).tier = true ∧ scalarOf (0 : Line) = 0) ∧
    Met (untier (tq 4 0)) (F 5) 0x901 (.sreg 5) (lineOf 4) (((untier (tq 4 0)).env (untier (tq 4 0)).focus).tier = false) ∧
    Met (tq 16 0) (F 5) 0x905 (.sreg 5) (lineOf 16)
      (((tq 16 0).env (tq 16 0).focus).tier = true ∧ 16 ≤ (scalarOf (lineOf 16)).toNat) := by
  simp only [List.forall_mem_cons]
  and_intros <;> first | exact List.forall_mem_nil _ | exact met_of (by decide +kernel) (by decide +kernel) (by decide +kernel)

/-- The tier engine is to accept command `x` of core 0, whose context has the stack `st`. -/
def tx (st : Stack) (x : TierCmd) : State := ti 0 0 st [x]
abbrev Accepts (s : State) (x : TierCmd) : Prop :=
  (s.core 0).tier.find? (fun y => !y.accepted) = some x ∧ (s.core 0).chanHalt = false ∧ (s.core 0).pipe.pre = 0 ∧
    x.stepped = false ∧ (s.core 0).ctx.getD 0 = 0
def pushBig : TierCmd := tc 0x901 32768 2000 1
def push2 : TierCmd := tc 0x901 (110 + 2 ^ 48 * 9) 2
def pop (tag len : Nat) : TierCmd := tc 0x902 (BitVec.ofNat 64 (110 + 2 ^ 48 * tag)) (BitVec.ofNat 64 len)
def lease (o m : Nat) : TierCmd := tc 0x903 (BitVec.ofNat 64 o) 3 m
def unlease (n : Nat) : TierCmd := tc 0x904 0 (BitVec.ofNat 64 n)
theorem witness_TierCommands_2 :
    (∀ x ∈ [tc 0x905 0 3, tc 0x905 0 0 1, tc 0x905 0 4 2], Accepts (tx sk x) x ∧ x.op = 0x905) ∧
    (let s := ti 0 0 sk [pushBig] (12 * 2 ^ 128)
     Accepts s pushBig ∧ pushBig.op = 0x901 ∧ s.ssize 0 0 = 0) ∧
    (let s := tx sk pushBig
     Accepts s pushBig ∧ s.ssize 0 0 ≠ 0 ∧ s.ssize 0 0 < (bits pushBig.t 0 25 + 1) * 128) ∧
    (let s := tx sk push2
     Accepts s push2 ∧ push2.op = 0x901 ∧ s.ssize 0 0 ≠ 0 ∧
      (s.stack 0 0).resident + (bits push2.t 0 25 + 1) * 128 ≤ s.ssize 0 0 ∧
      (∀ e ∈ (s.stack 0 0).all, e.key < (s.stack 0 0).nextKey ∧ (e.resident = true → e.runs ≠ [])) ∧
      (s.stack 0 0).room (s.ssize 0 0 / 128) (bits push2.t 0 25 + 1) = some [(10, 3)]) ∧
    (let s := tx {} (pop 7 3)
     Accepts s (pop 7 3) ∧ (pop 7 3).op = 0x902 ∧ s.popWaits 0 (pop 7 3) = false ∧ s.ssize 0 0 ≠ 0 ∧ (s.stack 0 0).entries = []) ∧
    (∀ x ∈ [pop 9 3, pop 7 4, pop 7 3], Accepts (tx sk x) x ∧ x.op = 0x902 ∧ (tx sk x).popWaits 0 x = false ∧
      (tx sk x).ssize 0 0 ≠ 0 ∧ ((tx sk x).stack 0 0).entries = [en 2 7 3 6, en 1 8 5]) ∧
    ((en 2 7 3 6).tag ≠ (pop 9 3).o.extractLsb' 48 16 ∧ (en 2 7 3 6).tag = (pop 7 4).o.extractLsb' 48 16 ∧
      (en 2 7 3 6).len ≠ bits (pop 7 4).t 0 25 ∧ (en 2 7 3 6).tag = (pop 7 3).o.extractLsb' 48 16 ∧
      (en 2 7 3 6).len = bits (pop 7 3).t 0 25) ∧
    (let s := tx sk0 (lease 5 0)
     Accepts s (lease 5 0) ∧ (lease 5 0).op = 0x903 ∧ ∀ i, i < 16 → ((s.stack 0 0).lease i).st ≠ 0) ∧
    (∀ x ∈ [lease 0 0, lease 5 1], Accepts (tx sk x) x ∧ x.op = 0x903 ∧ (((tx sk x).stack 0 0).lease 2).st = 0 ∧
      ∀ j, j < 2 → (((tx sk x).stack 0 0).lease j).st ≠ 0) ∧
    (bits (lease 0 0).o 0 10 = (tx sk (lease 0 0)).pkg.rank.toNat ∧ bits (lease 5 1).o 0 10 ≠ (tx sk (lease 5 1)).pkg.rank.toNat ∧
      bits (lease 5 1).o 0 10 < (tx sk (lease 5 1)).pkg.dsize.toNat ∧ (tx sk (lease 5 1)).pkg.linkUp ≠ 0) ∧
    (∀ x ∈ [(unlease 1, 1), (unlease 0, 2), (unlease 3, 6), (unlease 4, 4), (unlease 9, 0)],
      Accepts (tx sk x.1) x.1 ∧ x.1.op = 0x904 ∧ (((tx sk x.1).stack 0 0).lease (bits x.1.t 0 4)).st = x.2) := by
  simp only [List.forall_mem_cons]
  and_intros <;> first | exact List.forall_mem_nil _ | decide +kernel

/-- The stack of context 0 has job `j` first. -/
abbrev HasJob (s : State) (j : TierJob) : Prop :=
  (s.stack 0 0).jobs[0]? = some j ∧ (s.core j.core).chanHalt = false ∧ j.m.getLsbD 0 = false
def pushJ (n : Nat) : State := ti 0 0 (skp n) []
def popJ (n : Nat) : State := ti 0 0 (skj 0x902 n 0 3) []
/-- The reads of these lines by die 0's tier engine have been admitted. -/
def withReads (s : State) (l : List Nat) : State :=
  { s with dies := (List.range 8).map fun d => (d, { s.die d with mc := { (s.die d).mc with
    turns := l.map fun ln => (agentPort 0 0, ln, 0, true) } }) }
/-- An entry on its way to the deep tier, and one on its way back, before their lines 0 and 3. -/
def spills (n : Nat) : State := ti 0 0 { sk with moving := some (1, n, false) } []
def returns (n : Nat) : State := ti 0 0 { ret with leaving := [{ away with runs := [(10, 4)] }], moving := some (5, n, true) } []
theorem witness_TierCommands_3 :
    (∀ n ∈ [0, 2],
      let s := pushJ n
      let j := jb 0x901 n 0
      let e := { en 2 7 3 6 with wrote := n }
      HasJob s j ∧ j.op = 0x901 ∧ (s.core j.core).present (bits j.o 0 15 + j.n) = true ∧
        (s.core j.core).soft.contains (bits j.o 0 15 + j.n) = false ∧ (s.stack 0 0).entry j.key = some e ∧ e.runs ≠ [] ∧
        s.sbase 0 0 % 128 = 0 ∧ (j.n + 1 = j.len ↔ n = 2)) ∧
    (∀ n ∈ [0, 2],
      let j := jb 0x902 n 0
      let e := { en 2 7 3 6 with wrote := 3 }
      let a := (popJ n).stackAddr 0 0 e j.n
      let s := withReads (popJ n) [a / 128]
      HasJob (popJ n) j ∧ HasJob s j ∧ j.op = 0x902 ∧ ((popJ n).stack 0 0).popReady j = some e ∧
        (s.stack 0 0).popReady j = some e ∧ (popJ n).turn (agentPort 0 0, a / 128) = none ∧
        (popJ n).askedHbm (agentPort 0 0) (128 * (a / 128)) 128 = false ∧ s.turn (agentPort 0 0, a / 128) = some true ∧
        s.poisoned a = false ∧ (j.n + 1 = j.len ↔ n = 2)) ∧
    (let s := ti 0 0 big []
     (s.stack 0 0).moving = none ∧ (s.stack 0 0).movable = [en 1 8 390, en 2 7 3 400] ∧
      s.highMark 0 0 < (s.stack 0 0).resident ∧ (en 1 8 390).size ≤ s.deepSize 0 0 - (s.stack 0 0).spilled) ∧
    (∀ n ∈ [0, 5],
      let e := en 1 8 5
      let a := (spills n).stackLine 0 0 e n
      let s := withReads (spills n) [a / 128]
      (s.stack 0 0).moving = some (e.key, n, false) ∧ (s.stack 0 0).entry e.key = some e ∧
        s.turn (agentPort 0 0, a / 128) = some true ∧ s.poisoned a = false ∧ (e.len ≤ n ↔ n = 5)) ∧
    (let s := ti 0 0 ret []
     (s.stack 0 0).moving = none ∧ (s.stack 0 0).wanted = some away ∧ (s.stack 0 0).resident + away.size ≤ s.ssize 0 0 ∧
      (s.stack 0 0).room (s.ssize 0 0 / 128) (away.len + 1) = some [(10, 4)]) ∧
    (∀ n ∈ [0, 3],
      let e := { away with runs := [(10, 4)] }
      ((returns n).stack 0 0).moving = some (e.key, n, true) ∧ ((returns n).stack 0 0).entry e.key = some e ∧
        (e.len ≤ n ↔ n = 3)) := by
  simp only [List.forall_mem_cons]
  and_intros <;> first | exact List.forall_mem_nil _ | decide +kernel

def pend (part : Bool) : LeaseSlot := { st := 1, asked := 4, part := part }
/-- Slot 3 has a withdrawn request behind it. -/
def lsStale : State := ti 0 0 { leases := [(3, pend false)], stale := [(3, 0)] } []
/-- This package has lent units 20 and 21, with the deadline `u`. -/
def lending (u : Option Nat) : State :=
  let s := ls {}
  { s with pkg := { s.pkg with lent := [(5, 0, 3, 20, 2, u)] } }
theorem witness_Leases_1 :
    (∀ x ∈ [(false, 4), (true, 1)],
      ((ls (pend x.1)).stack 0 0).isStale 3 0 = false ∧ (((ls (pend x.1)).stack 0 0).lease 3) = pend x.1 ∧ (pend x.1).st = 1 ∧
        ((pend x.1).asked ≤ x.2 ∨ ((pend x.1).part = true ∧ 1 ≤ x.2))) ∧
    (∀ x ∈ [(false, 3), (true, 0)], ¬ ((pend x.1).asked ≤ x.2 ∨ ((pend x.1).part = true ∧ 1 ≤ x.2))) ∧
    ((((ls { st := 2 }).levw 0 0).getLsbD 58 = false) ∧
      (ls { st := 2 }).target 0 (bits ((ls { st := 2 }).levw 0 0) 0 48) 5 = some (.here 0x100000F (.acc 0 15))) ∧
    (((ls { st := 2 }).stack 0 0).lease 3).st = 2 ∧ (lsStale.stack 0 0).isStale 3 0 = true ∧
    (let s := ls { st := 4, deadline := 12345678 }
     (((s.stack 0 0).lease 3).st = 4 ∧ ((s.stack 0 0).lease 3).deadline ≤ s.ts)) ∧
    (let s := ls { st := 4, deadline := 12345679 }
     (((s.stack 0 0).lease 3).st = 4 ∧ s.ts < ((s.stack 0 0).lease 3).deadline)) ∧
    (((ls { st := 6 }).stack 0 0).lease 3).st = 6 ∧
    (∀ s ∈ [ls {}, lending none, lending (some 12345679)], (∀ e ∈ s.pkg.lent, ∀ u, e.2.2.2.2.2 = some u → s.ts < u) ∧
      poolRange s.pkg.pool 3 = some 4 ∧ (4 + 3) * 2 ^ 27 ≤ Config.hbmBytes ∧ poolRange s.pkg.pool 4 = none) ∧
    (5, 0, 3, 20, 2, none) ∈ (lending none).pkg.lent ∧
    ((lending (some 12345678)).pkg.lent = [(5, 0, 3, 20, 2, some 12345678)] ∧ (20 + 2) * 2 ^ 27 ≤ Config.hbmBytes) := by
  simp only [List.forall_mem_cons]
  and_intros <;> first | exact List.forall_mem_nil _ | decide +kernel

end S17

/-! #### Witnesses: Launches, Records -/

namespace S20

def hd (magic ver entry wid leg lf svn sched : Nat) : Nat := magic + ver * 2^32 + 128 * 2^48 + 0x1000 * 2^64 + 0x8000 * 2^128 + entry * 2^160 + 5 * 2^192 + wid * 2^256 + (0x30000 * 2^(8*0x28)) + leg * 2^(8*0x30) + lf * 2^(8*0x32) + 3 * 2^(8*0x34) + svn * 2^(8*0x36) + sched*2^(8*0x78) + 1 * 2^(8*0x70) * 0

def natBytes (a n v : Nat) : List (Nat × BitVec 8) := ((List.range n).map fun i => (a + i, BitVec.ofNat 8 (v / 256^i))).filter fun e => e.2 ≠ 0

def lau (h : Nat) : State :=
  let s := demo
  { s with mem := natBytes 0x8000 8 7 ++ natBytes 0x20000 128 h ++ natBytes 0x30000 64 (0x1122334455667788 + 2^130 + 2^256*(5 + 7*2^16) + 2^(8*36)), dies := Tab.set s.dies 0 { s.die 0 with cctl := [(0, BitVec.ofNat 512 (0x8000 * 2^96))] } }

def rqN (statw : Nat) (n : Nat := 3) (hd : Nat := 0x20000) : BitVec 256 := BitVec.ofNat 256 (hd + n * 2^64 + 5*2^96 + 2 * 2^99 + 4*2^102 + statw * 2^128)

def good := hd 0x464C564B 3 0x40 0 2 7 0 0

def bytes (h : Nat) : List (BitVec 8) := (List.range 128).map fun i => BitVec.ofNat 8 (h / 256^i)

def none2 : LaunchTabs := { legs := [], words := [], tpl := [], slot := [], units := [], code := [] }

def tg (h : Nat) : LaunchTabs := ((W.of (lau h)).launchTabs 0 0 (BitVec.ofNat 1024 h)).getD none2

def hh : BitVec 1024 := BitVec.ofNat 1024 (0x464C564B + 3 * 2^32 + 128 * 2^48 + 0x123456780 * 2^64 + 0x8000 * 2^128 + 0x40 * 2^160 + 0xFFFFFFFFFFFFFFFF * 2^192 + 7 * 2^968 + 0x1234*2^976 + 0xABC * 2^992)

def l0 : Launch := { ctx := 2, hdr := hh, prio := 5, group := 3, aff := 4, todo := 3, next := 2, acceptedAt := 9, live := 1 }

def rs (l : List (Nat × Record)) (f : Board → Board := id) : State := onDie fun d => { d with allot := [(2*128+1, 0x8001), (2*128+7, 0x8001), (2*128+9, 0x8001)], board := f { d.board with launches := [(6, l0)], recs := l, tokens := [(5, 10)], released := [((0 * 64 + 4) * 8, 7)], tkbase := [(0, 0x5000)] } }

def r0 (w : Wait) : Record := { ctx := 0, img := BitVec.ofNat 512 (2^464), wait := w }

def tk0 : Token := { die := 0, ctx := 0, tok := 5 }

def wst1 : State := rs [] fun b => { b with intok := [tk0, { tk0 with tok := 6 }] }

/-- The request at its port, and the reads that it waits for. -/
def lreq (req : BitVec 256) : LaunchReq := { ctx := 0, req := req, priv := true, tier := true }
def asked (s : State) (req : BitVec 256) : W := (W.of s).modBoard 0 fun b => { b with ports := b.ports ++ [lreq req] }
def lreads (s : State) (req : BitVec 256) : List AgentRead := (asked s req).launchReads 0 (lreq req)
/-- These reads have been admitted. -/
def given (s : State) (l : List AgentRead) : State :=
  { s with dies := (List.range 8).map fun d => (d, { s.die d with mc := { (s.die d).mc with
    turns := l.map fun e => (e.1, e.2, 0, true) } }) }
/-- A launch whose header, and then whose tables, have been read. -/
def hdrRead (h : Nat) (req : BitVec 256) : State := given (lau h) (lreads (lau h) req)
def allRead (h : Nat) (req : BitVec 256) : State := given (hdrRead h req) (lreads (hdrRead h req) req)
def lw (s : State) (req : BitVec 256) : W :=
  ((asked s req).takeReads (lreads s req)).modBoard 0 fun b => { b with ports := b.ports.erase (lreq req) }
/-- The request's reads have been admitted and give the header `h`. -/
def Read (h : Nat) (req : BitVec 256) : Prop :=
  (∀ x ∈ ((allRead h req).die 0).board.ports, x.ctx ≠ 0) ∧ (allRead h req).isClosing 0 0 = false ∧
    (allRead h req).admitted (lreads (allRead h req) req) = true ∧
    (lw (allRead h req) req).vread 0 0 (reqHdr req) 128 = some (bytes h)
/-- A header whose code page is not mapped. -/
def lost : Nat := good + 2 ^ (8 * 73) * 2 ^ 48
def oneSv : Nat := hd 0x464C564B 3 0x40 0 2 7 1 0
def badMagic : Nat := hd 5 3 0x40 0 2 7 0 0
def badVer : Nat := hd 0x464C564B 4 0x40 0 2 7 0 0
def wide : Nat := hd 0x464C564B 3 0x40 65 2 7 0 0
def badEntry : Nat := hd 0x464C564B 3 0x8000 0 2 7 0 0
def lh (h : Nat) : BitVec 1024 := ofBytes 1024 (bytes h)
def closingS : State := { lau good with pkg := { (lau good).pkg with closing := [0] } }
theorem witness_Launches_1 :
    ((∀ x ∈ (closingS.die 0).board.ports, x.ctx ≠ 0) ∧ closingS.isClosing 0 0 = true) ∧
    ((∀ x ∈ ((lau good).die 0).board.ports, x.ctx ≠ 0) ∧ (lau good).isClosing 0 0 = false ∧
      (lau good).admitted (lreads (lau good) (rqN 0)) = false) ∧
    (let q := rqN 0 3 (2 ^ 50)
     let s := allRead good q
     (∀ x ∈ (s.die 0).board.ports, x.ctx ≠ 0) ∧ s.isClosing 0 0 = false ∧ s.admitted (lreads s q) = true ∧
      (lw s q).vread 0 0 (reqHdr q) 128 = none) ∧
    (∀ v ∈ [0, 0x100000F], Read badMagic (rqN v) ∧ (lh badMagic).extractLsb' 0 32 ≠ 0x464C564B) ∧
    (Read badVer (rqN 0) ∧ (lh badVer).extractLsb' 0 32 = 0x464C564B ∧ (lh badVer).extractLsb' 48 16 = 128 ∧
      3 < ((lh badVer).extractLsb' 32 16).toNat) ∧
    (let h := lh wide
     Read wide (rqN 0) ∧ h.extractLsb' 0 32 = 0x464C564B ∧ h.extractLsb' 48 16 = 128 ∧ h.extractLsb' 32 16 ≠ 0 ∧
      (h.extractLsb' 32 16).toNat ≤ 3 ∧ hdrEntry h < hdrSize h ∧ hdrEntry h % 32 = 0 ∧
      64 < hdrField h 0x20 1 + hdrField h 0x21 1 + hdrField h 0x22 1 + hdrField h 0x23 1 + hdrField h 0x24 1 +
        hdrField h 0x25 1) ∧
    (Read badEntry (rqN 0) ∧ launchEarly (rqN 0) (lh badEntry) true true = some 4) ∧
    (reqStatw (rqN 0) = 0 ∧ reqStatw (rqN 0x100000F) ≠ 0 ∧ (reqStatw (rqN 0x100000F)).getLsbD 58 = false ∧
      (allRead badMagic (rqN 0x100000F)).target 0 (bits (reqStatw (rqN 0x100000F)) 0 48) 5 = some (.here 0x100000F (.acc 0 15)) ∧
      ((allRead badMagic (rqN 0x100000F)).atTarget 0 0 false (reqStatw (rqN 0x100000F))).toOption =
        some (.here 0x100000F (.acc 0 15))) := by
  unfold Read
  simp only [List.forall_mem_cons]
  and_intros <;> first | exact List.forall_mem_nil _ | decide +kernel
/-- The tables of launch `h` as they are read. -/
def ltabs (h : Nat) (req : BitVec 256) : LaunchTabs := ((lw (allRead h req) req).launchTabs 0 0 (lh h)).getD none2
theorem witness_Launches_2 :
    (Read lost (rqN 0) ∧ launchEarly (rqN 0) (lh lost) true true = none ∧
      (lw (allRead lost (rqN 0)) (rqN 0)).launchTabs 0 0 (lh lost) = none) ∧
    (let q := rqN 0 0
     Read good q ∧ launchEarly q (lh good) true true = none ∧
      (lw (allRead good q) q).launchTabs 0 0 (lh good) = some (ltabs good q) ∧
      (lw (allRead good q) q).launchLate 0 0 q (lh good) (ltabs good q) = some 10) ∧
    (∀ h ∈ [good, oneSv],
      let q := rqN 0
      Read h q ∧ launchEarly q (lh h) true true = none ∧
        (lw (allRead h q) q).launchTabs 0 0 (lh h) = some (ltabs h q) ∧
        (lw (allRead h q) q).launchLate 0 0 q (lh h) (ltabs h q) = none ∧ ((allRead h q).die 0).deltas = []) := by
  unfold Read
  simp only [List.forall_mem_cons]
  and_intros <;> first | exact List.forall_mem_nil _ | decide +kernel
theorem witness_Records_1 :
    ((((rs []).die 0).board.launch 6).todo ≠ 0 ∧ freeIdx ((rs []).die 0).board.recs 0 < 16384) ∧
    ((((rs [(0, r0 Wait.never), (1, r0 Wait.never), (5, r0 Wait.never)]).die 0).board.launch 6).todo ≠ 0 ∧
      freeIdx ((rs [(0, r0 Wait.never), (1, r0 Wait.never), (5, r0 Wait.never)]).die 0).board.recs 0 < 16384) ∧
    (((rs []).die 0).board.launch 5).todo = 0 ∧
    (((rs [(3, r0 Wait.always)]).die 0).board.entry 3 = some (r0 Wait.always) ∧ (r0 Wait.always).ready = false ∧
      (r0 Wait.always).run = false ∧ (rs [(3, r0 Wait.always)]).performed (r0 Wait.always).after = true ∧
      (r0 Wait.always).wait = Wait.always) ∧
    (((rs [(3, r0 (Wait.token 5 10#32))]).die 0).board.entry 3 = some (r0 (Wait.token 5 10#32)) ∧
      (r0 (Wait.token 5 10#32)).ready = false ∧ (r0 (Wait.token 5 10#32)).run = false ∧
      (rs [(3, r0 (Wait.token 5 10#32))]).performed (r0 (Wait.token 5 10#32)).after = true ∧
      (r0 (Wait.token 5 10#32)).wait = Wait.token 5 10#32 ∧ (Tab.get (0#32) ((rs [(3, r0 (Wait.token 5 10#32))]).die
      0).board.tokens ((r0 (Wait.token 5 10#32)).ctx * 65536 + 5) - 10#32).toNat < 2 ^ 31) ∧
    (((rs [(3, r0 (Wait.token 5 11#32))]).die 0).board.entry 3 = some (r0 (Wait.token 5 11#32)) ∧
      (r0 (Wait.token 5 11#32)).ready = false ∧ (r0 (Wait.token 5 11#32)).run = false ∧
      (rs [(3, r0 (Wait.token 5 11#32))]).performed (r0 (Wait.token 5 11#32)).after = true ∧
      (r0 (Wait.token 5 11#32)).wait = Wait.token 5 11#32 ∧ 2 ^ 31 ≤ (Tab.get (0#32) ((rs [(3, r0 (Wait.token 5 11#32))]).die
      0).board.tokens ((r0 (Wait.token 5 11#32)).ctx * 65536 + 5) - 11#32).toNat) ∧
    (((rs [(3, r0 (Wait.barrier 4 7#32))]).die 0).board.entry 3 = some (r0 (Wait.barrier 4 7#32)) ∧
      (r0 (Wait.barrier 4 7#32)).ready = false ∧ (r0 (Wait.barrier 4 7#32)).run = false ∧
      (rs [(3, r0 (Wait.barrier 4 7#32))]).performed (r0 (Wait.barrier 4 7#32)).after = true ∧
      (r0 (Wait.barrier 4 7#32)).wait = Wait.barrier 4 7#32 ∧ (r0 (Wait.barrier 4 7#32)).bound = true ∧ ((rs [(3, r0
      (Wait.barrier 4 7#32))]).releasedCount 0 (r0 (Wait.barrier 4 7#32)).ctx 4 ((r0 (Wait.barrier 4 7#32)).aff / 16) -
      7#32).toNat < 2 ^ 31) ∧
    (((rs [(3, r0 (Wait.barrier 4 8#32))]).die 0).board.entry 3 = some (r0 (Wait.barrier 4 8#32)) ∧
      (r0 (Wait.barrier 4 8#32)).ready = false ∧ (r0 (Wait.barrier 4 8#32)).run = false ∧
      (rs [(3, r0 (Wait.barrier 4 8#32))]).performed (r0 (Wait.barrier 4 8#32)).after = true ∧
      (r0 (Wait.barrier 4 8#32)).wait = Wait.barrier 4 8#32 ∧ (r0 (Wait.barrier 4 8#32)).bound = true ∧ 2 ^ 31 ≤ ((rs [(3, r0
      (Wait.barrier 4 8#32))]).releasedCount 0 (r0 (Wait.barrier 4 8#32)).ctx 4 ((r0 (Wait.barrier 4 8#32)).aff / 16) -
      8#32).toNat) ∧
    (let r := { r0 (.engine 0x10) with cmds := [(0, 8, 3)], reg := some 0 }
     let s := rs [(3, r)]
     (s.die 0).board.entry 3 = some r ∧ s.performed r.after = true ∧
      (∀ e ∈ r.cmds, (0x10 : Word).getLsbD (if e.2.1 = 8 then 5 else 4) = true → s.cmdOver r.ctx e = true) ∧
      ∀ c ∈ r.reg, (s.layer c r.ctx).late = []) ∧
    (let r := { r0 (.engine 0x20) with cmds := [(0, 8, 3)] }
     let s0 := rs [(3, r)]
     let s := { s0 with cores := Tab.set s0.cores 0 { s0.core 0 with tier := [{ seq := 3, op := 0x901, o := 0, t := 1, m := 0 }] } }
     (s.die 0).board.entry 3 = some r ∧ s.performed r.after = true ∧
      ∃ e ∈ r.cmds, (0x20 : Word).getLsbD (if e.2.1 = 8 then 5 else 4) = true ∧ s.cmdOver r.ctx e = false) ∧
    (((rs [(3, r0 (Wait.timer 12345678))]).die 0).board.entry 3 = some (r0 (Wait.timer 12345678)) ∧
      (r0 (Wait.timer 12345678)).ready = false ∧ (r0 (Wait.timer 12345678)).run = false ∧
      (rs [(3, r0 (Wait.timer 12345678))]).performed (r0 (Wait.timer 12345678)).after = true ∧
      (r0 (Wait.timer 12345678)).wait = Wait.timer 12345678 ∧ 12345678 ≤ (rs [(3, r0 (Wait.timer 12345678))]).ts) ∧
    (((rs [(3, r0 (Wait.timer 12345679))]).die 0).board.entry 3 = some (r0 (Wait.timer 12345679)) ∧
      (r0 (Wait.timer 12345679)).ready = false ∧ (r0 (Wait.timer 12345679)).run = false ∧
      (rs [(3, r0 (Wait.timer 12345679))]).performed (r0 (Wait.timer 12345679)).after = true ∧
      (r0 (Wait.timer 12345679)).wait = Wait.timer 12345679 ∧ (rs [(3, r0 (Wait.timer 12345679))]).ts < 12345679) ∧
    (((rs [(3, r0 Wait.never)]).die 0).board.entry 3 = some (r0 Wait.never) ∧ (r0 Wait.never).ready = false ∧
      (r0 Wait.never).run = false ∧ (rs [(3, r0 Wait.never)]).performed (r0 Wait.never).after = true ∧
      (r0 Wait.never).wait = Wait.never) ∧
    (let r := { r0 .always with after := [(0, 0)] }
     let s0 := rs [(3, r)]
     let s := { s0 with cores := Tab.set s0.cores 0 { s0.core 0 with ats := [{ seq := 0, op := 0x283, addr := 5, x := 0, m := 0 }] } }
     (s.die 0).board.entry 3 = some r ∧ s.performed r.after = false) := by
  and_intros <;> decide +kernel
theorem witness_Records_2 :
    wst1.nextToken (wst1.die 0).board.intok 0 5 = some tk0 ∧ tk0.far = none ∧
      (∀ c ∈ tk0.src, (wst1.core c).late = []) ∧
      ((Tab.get (0#39) (wst1.die 0).board.tkbase 0).toNat + 4 * 5) % 128 ≤ 124 := by decide +kernel

end S20

/-! #### Witnesses: Suspends -/

namespace S20b

def demoRun : Running := { img := demoImg, e := 3, since := 0 }

def demoRec : Record := { ctx := 0, img := demoImg, run := true }

def susp : State := onCore fun k => { k with regs := { k.regs with s := [(1, 0x11), (2, 0x22), (3, BitVec.ofNat 64 (3 + 7 * 2 ^ 32)), (4, 0x44), (5, 0x100000F), (6, 0x10007), (62, 9), (63, 0x1000)] } }

def suspBusy : State := onCore fun k => { k with pipe := { k.pipe with items := [{ kind := .dig, id := 0x101, m := 0, seq := 0, due := 9 }] } }

def suspHandler : State := onCore fun k => { k with mode := .handler }

/-- The launch of the task has two live records. -/
def live2 : State :=
  { susp with dies := Tab.set susp.dies 0 { susp.die 0 with board := { (susp.die 0).board with
    launches := (susp.die 0).board.launches.map fun e => (e.1, { e.2 with live := 2 }) } } }
theorem witness_Suspends_2 :
    CanIssue live2 3 ∧ live2.now.running = some demoRun ∧ live2.now.cbuf = [] ∧ live2.now.ats = [] ∧ demoRun.cmds = [] ∧
      (live2.die (dieOf live2.focus)).board.entry demoRun.idx = some demoRec ∧ live2.now.late = [] ∧
      live2.openOps live2.focus false = [] ∧ live2.now.mode = .task ∧ live2.now.taskBusy = false ∧
      1 < ((live2.die (dieOf live2.focus)).board.launch (recLaunch demoRun.img)).live :=
  ⟨can_of (by decide +kernel), by decide +kernel⟩
theorem witness_Suspends_1 :
    (CanIssue susp 3 ∧ susp.now.running = some demoRun ∧ susp.now.cbuf = [] ∧ susp.now.ats = [] ∧ demoRun.cmds = [] ∧
      demoRun.idx < 16384 ∧ (susp.die (dieOf susp.focus)).board.entry demoRun.idx = some demoRec ∧ susp.now.late = [] ∧
      susp.openOps susp.focus false = [] ∧ susp.now.mode = Mode.task ∧
      susp.now.taskBusy = false ∧ bits (susp.now.regs.sreg 6) 48 16 = 0) ∧
    (CanIssue susp 15 ∧ susp.atTarget (dieOf susp.focus) (susp.env susp.focus).ctx (susp.env susp.focus).priv
      (susp.now.regs.sreg 5) = Except.ok (Target.here 16777231 (Loc.acc 0 15)) ∧ susp.now.running = some demoRun ∧
      susp.now.cbuf = [] ∧ susp.now.ats = [] ∧ demoRun.cmds = [] ∧ demoRun.idx < 16384 ∧
      (susp.die (dieOf susp.focus)).board.entry demoRun.idx = some demoRec ∧ susp.now.late = [] ∧
      susp.openOps susp.focus false = [] ∧ susp.now.mode = Mode.task ∧
      susp.now.taskBusy = false ∧ 5#6 ≠ 63#6) ∧
    (CanIssue susp 3 ∧ susp.now.running = some demoRun ∧ susp.now.cbuf = [] ∧ susp.now.ats = [] ∧ demoRun.cmds = [] ∧
      demoRun.idx < 16384 ∧ (susp.die (dieOf susp.focus)).board.entry demoRun.idx = some demoRec ∧ susp.now.late = [] ∧
      susp.openOps susp.focus false = [] ∧ susp.now.mode = Mode.task ∧
      susp.now.taskBusy = false ∧ BitVec.toNat (susp.now.regs.sreg 62) < 64) ∧
    (CanIssue susp 3 ∧ susp.now.running = some demoRun ∧ susp.now.cbuf = [] ∧ susp.now.ats = [] ∧ demoRun.cmds = [] ∧
      demoRun.idx < 16384 ∧ (susp.die (dieOf susp.focus)).board.entry demoRun.idx = some demoRec ∧ susp.now.late = [] ∧
      susp.openOps susp.focus false = [] ∧ susp.now.mode = Mode.task ∧
      susp.now.taskBusy = false ∧ BitVec.toNat (susp.now.regs.sreg 0) < 64) ∧
    (CanIssue susp 3 ∧ susp.now.running = some demoRun ∧ susp.now.cbuf = [] ∧ susp.now.ats = [] ∧ demoRun.cmds = [] ∧
      demoRun.idx < 16384 ∧ (susp.die (dieOf susp.focus)).board.entry demoRun.idx = some demoRec ∧ susp.now.late = [] ∧
      susp.openOps susp.focus false = [] ∧ susp.now.mode = Mode.task ∧
      susp.now.taskBusy = false ∧ bits (susp.now.regs.sreg 3) 6 26 = 0 ∧
      barValid (susp.bar (dieOf susp.focus) (susp.env susp.focus).ctx (bits (susp.now.regs.sreg 3) 0 6)) = true) ∧
    (CanIssue suspBusy 3 ∧ suspBusy.now.running = some demoRun ∧ suspBusy.now.cbuf = [] ∧ suspBusy.now.ats = [] ∧
      demoRun.cmds = [] ∧ demoRun.idx < 16384 ∧ (suspBusy.die (dieOf suspBusy.focus)).board.entry demoRun.idx = some demoRec ∧ suspBusy.now.late = [] ∧
      suspBusy.openOps suspBusy.focus false = [] ∧
      suspBusy.now.mode = Mode.task ∧ suspBusy.now.taskBusy = true) ∧
    (CanIssue susp 3 ∧ susp.now.running = some demoRun ∧ susp.now.cbuf = [] ∧ susp.now.ats = [] ∧ demoRun.cmds = [] ∧
      demoRun.idx < 16384 ∧ (susp.die (dieOf susp.focus)).board.entry demoRun.idx = some demoRec ∧ susp.now.late = [] ∧
      susp.openOps susp.focus false = [] ∧
      (susp.now.mode = Mode.handler ∨ 5 < 6 ∨ 6#4 = 2#4 ∧ 2#6 = 63#6)) ∧
    (CanIssue susp 3 ∧ susp.now.running = some demoRun ∧ susp.now.cbuf = [] ∧ susp.now.ats = [] ∧ demoRun.cmds = [] ∧
      demoRun.idx < 16384 ∧ (susp.die (dieOf susp.focus)).board.entry demoRun.idx = some demoRec ∧ susp.now.late = [] ∧
      susp.openOps susp.focus false = [] ∧
      (susp.now.mode = Mode.handler ∨ 5 < 2 ∨ 2#4 = 2#4 ∧ 63#6 = 63#6)) ∧
    (CanIssue suspHandler 3 ∧ suspHandler.now.running = some demoRun ∧ suspHandler.now.cbuf = [] ∧ suspHandler.now.ats = [] ∧
      demoRun.cmds = [] ∧ demoRun.idx < 16384 ∧
      (suspHandler.die (dieOf suspHandler.focus)).board.entry demoRun.idx = some demoRec ∧ suspHandler.now.late = [] ∧
      suspHandler.openOps suspHandler.focus false = [] ∧
      (suspHandler.now.mode = Mode.handler ∨ 5 < 0 ∨ 0#4 = 2#4 ∧ 1#6 = 63#6)) ∧
    (CanIssue suspHandler 3 ∧ suspHandler.now.running = some demoRun ∧ suspHandler.now.cbuf = [] ∧ suspHandler.now.ats = [] ∧
      demoRun.cmds = [] ∧ demoRun.idx < 16384 ∧
      (suspHandler.die (dieOf suspHandler.focus)).board.entry demoRun.idx = some demoRec ∧ suspHandler.now.late = [] ∧
      suspHandler.openOps suspHandler.focus false = [] ∧
      suspHandler.now.mode = Mode.handler) :=
  ⟨⟨can_of (by decide +kernel), by decide +kernel⟩, ⟨can_of (by decide +kernel), ok_of (by decide +kernel),
    by decide +kernel⟩, ⟨can_of (by decide +kernel), by decide +kernel⟩, ⟨can_of (by decide +kernel), by decide +kernel⟩,
    ⟨can_of (by decide +kernel), by decide +kernel⟩, ⟨can_of (by decide +kernel), by decide +kernel⟩,
    ⟨can_of (by decide +kernel), by decide +kernel⟩, ⟨can_of (by decide +kernel), by decide +kernel⟩,
    ⟨can_of (by decide +kernel), by decide +kernel⟩, ⟨can_of (by decide +kernel), by decide +kernel⟩⟩

end S20b

/-! #### Witnesses: Dispatching -/

namespace S21

def demoRun : Running := { img := demoImg, e := 3, since := 0 }

def demoRec : Record := { ctx := 0, img := demoImg, run := true }

def readyImg : BitVec 512 := demoImg ^^^ BitVec.ofNat 512 (2 ^ 464 + 0x77 * 2 ^ 64 + 0x88 * 2 ^ 128 + 0x1234567890abcdef * 2 ^ 320 + 0x300 * 2 ^ 384 + 0x55 * 2 ^ 430 + 5 * 2 ^ 445)

def ready1 : Record := { ctx := 0, img := readyImg, ready := true, readyAt := 900 }

def dsp : State :=
  let s := onDie fun d => { d with board := { d.board with recs := d.board.recs ++ [(1, { ready1 with readyAt := 950 }), (2, ready1)] } }
  { s with cores := Tab.set s.cores 1 { s.core 1 with ctx := some 0, lastLaunch := some 0 } }

def ready0 : Record := { ctx := 0, img := demoImg, ready := true, readyAt := 700 }

def prm (clk : Nat) : State :=
  let s := onDie fun d => { d with board := { d.board with recs := d.board.recs ++ [(1, ready0)] } }
  { s with clk := clk, cores := Tab.set s.cores 0 { s.core 0 with running := some { img := demoImg, e := 1, since := 0 } } }

def due (ns : Bool) (sv : List (Nat × Bool)) : State :=
  let s := onDie fun d => { d with saves := sv }
  { s with clk := 0x1000A, cores := Tab.set s.cores 0 { s.core 0 with ctl := { (s.core 0).ctl with prompt := some 10, noslot := ns } } }

/-- The record that core 1 is given loads its launch's slot table, and a copy is admitted there. -/
def admitting : State :=
  let s := onDie fun d => { d with board := { d.board with
    recs := d.board.recs ++ [(2, { ready1 with fresh := true })]
    launches := d.board.launches.map fun e => (e.1, { e.2 with slotimg := [1] }) } }
  { s with cores := Tab.set s.cores 1 { s.core 1 with ctx := some 0, slots := { (s.core 1).slots with adm := some (0, 2) } } }
theorem witness_Dispatching_2 :
    admitting.nextRecord 1 = some (2, { ready1 with fresh := true }) ∧
      admitting.mayResume 1 { ready1 with fresh := true } = false := by decide +kernel
theorem witness_Dispatching_1 :
    (dsp.idleCore 1 = true ∧ dsp.nextRecord 1 = some (2, ready1) ∧ (dsp.die (dieOf 1)).board.entry 2 = some ready1 ∧
      (dsp.core 1).ctx = some ready1.ctx ∧ ready1.frame = none ∧ ready1.fresh = false ∧
      (dsp.core 1).lastLaunch = some (recLaunch ready1.img)) ∧
    (demo.idleCore 0 = false ∨ demo.nextRecord 0 = none) ∧
    (demo.idleCore 1 = false ∨ demo.nextRecord 1 = none) ∧
    (((prm 955).die (dieOf 0)).board.entry 1 = some ready0 ∧ ready0.ready = true ∧ ready0.run = false ∧
      (prm 955).promptOut ready0 = false ∧ (prm 955).clk < ready0.readyAt + 256) ∧
    (((prm 956).die (dieOf 0)).board.entry 1 = some ready0 ∧ ready0.ready = true ∧ ready0.run = false ∧
      (prm 956).promptOut ready0 = false ∧ ready0.readyAt + 256 ≤ (prm 956).clk ∧
      (prm 956).promptCore (dieOf 0) ready0 = some 0) ∧
    ((due false [(0, true), (1, true)]).preemptNow 0 = true ∧ ((due false [(0, true), (1, true)]).core 0).ctl.noslot = false ∧
      (due false [(0, true), (1, true)]).saveSlot (dieOf 0) (((due false [(0, true), (1, true)]).core 0).ctx.getD 0) = none) ∧
    (((due false []).core 0).Room ∧ (due false []).preemptNow 0 = true ∧ ((due false []).core 0).ctl.noslot = false ∧
      (due false []).saveSlot (dieOf 0) (((due false []).core 0).ctx.getD 0) = some 0 ∧
      ((due false []).core 0).running = some demoRun ∧ ((due false []).die (dieOf 0)).board.entry demoRun.idx = some demoRec ∧
      demoRun.idx < 16384 ∧ ((due false []).core 0).cbuf = [] ∧ ((due false []).core 0).pipe.items = [] ∧ ((due false []).core 0).late = [] ∧
      ((due false []).core 0).stepArm = false ∧ ((due false []).core 0).ctl.prompt = some 10 ∧ (bits (Tab.get (0#512) ((due false []).die (dieOf 0)).cctl
        (((due false []).core 0).ctx.getD 0)) 160 39 + 8192 * 0) % 128 = 0) ∧
    (((due true [(0, true)]).core 0).Room ∧ (due true [(0, true)]).preemptNow 0 = true ∧
      ((due true [(0, true)]).core 0).ctl.noslot = true ∧
      (due true [(0, true)]).saveSlot (dieOf 0) (((due true [(0, true)]).core 0).ctx.getD 0) = some 1 ∧
      ((due true [(0, true)]).core 0).running = some demoRun ∧
      ((due true [(0, true)]).die (dieOf 0)).board.entry demoRun.idx = some demoRec ∧ demoRun.idx < 16384 ∧
      ((due true [(0, true)]).core 0).cbuf = [] ∧ ((due true [(0, true)]).core 0).pipe.items = [] ∧ ((due true [(0, true)]).core 0).late = [] ∧
      ((due true [(0, true)]).core 0).stepArm = false ∧ ((due true [(0, true)]).core 0).ctl.prompt = some 10 ∧ (bits (Tab.get (0#512) ((due true [(0, true)]).die (dieOf 0)).cctl
        (((due true [(0, true)]).core 0).ctx.getD 0)) 160 39 + 8192 * 1) % 128 = 0) ∧
    demo.preemptNow 0 = false :=
  ⟨by decide +kernel, by decide +kernel, by decide +kernel, by decide +kernel, by decide +kernel, by decide +kernel,
    ⟨by (unfold Core.Room; decide +kernel), by decide +kernel⟩, ⟨by (unfold Core.Room; decide +kernel), by decide +kernel⟩,
    by decide +kernel⟩

end S21

/-! #### Witnesses: Barriers -/

namespace S22

def bar (arr csk : Nat) : BitVec 512 := BitVec.ofNat 512 (2 + 4 * 2 ^ 45 + csk * 2 ^ 64 + 4000 * 2 ^ 80 + 5 * 2 ^ 96 + arr * 2 ^ 128 + 2 ^ 160)

def waitItem (s : State) : State := { s with cores := Tab.set s.cores 0 { s.core 0 with pipe := { (s.core 0).pipe with items := [{ kind := .atr, id := 0x2c5, m := 1, seq := 4, due := 9, await := .agent }] } } }

def arrv (arr : Nat) (a : Arrival) : State := waitItem (onDie fun d => { d with board := { d.board with bars := [(3, bar arr 0), (9, bar 1 1)], gens := [(3, 0xffffffff)], arrivals := [a, { a with b := 9 }] } })

def nts (ns : List Notice) (ws : List BarWait) : State := waitItem (onDie fun d => { d with board := { d.board with bars := [(3, bar 0 7)], notices := ns, waits := ws } })

def snt : State :=
  let s := onDie fun d => { d with board := { d.board with bars := [(3, bar 0 7)], notices := [{ ctx := 0, b := 3, gen := 5, at_ := 12345600 }, { ctx := 0, b := 4, gen := 5, at_ := 12345600 }, { ctx := 0, b := 3, gen := 6, at_ := 12345679 }] } }
  { s with pkg := { s.pkg with sent := [(0, 3, 4, 12345678), (0, 3, 5, 12345679)], late := 2 } }

def a1 : Arrival := { core := some 0, seq := 4, ctx := 0, b := 3, wait := true }

def n1 (done : List Nat) : Notice := { ctx := 0, b := 3, gen := 0, at_ := 5, x := some 986, done := done }

/-- The premises that an arrival of R289 is counted on, in `arrv`. -/
def Arrives (arr : Nat) (a : Arrival) : Prop :=
  ((arrv arr a).die 0).board.arrivals = [a, { a with b := 9 }] ∧ a.ctx = 0 ∧ a.b = 3 ∧ (arrv arr a).performed a.after = true ∧
    barRank ((arrv arr a).bar 0 0 3) = (arrv arr a).pkg.rank.toNat ∧ ∀ c ∈ a.core.toList, ((arrv arr a).core c).late = []

/-- The premises that a cluster's copy of R290 is due on, in `nts`. -/
def Due (q : Nat) (n : Notice) (ws : List BarWait) : Prop :=
  ((nts [n] ws).die 0).board.notices = [n] ∧ n.ctx = 0 ∧ n.b = 3 ∧ n.x = some 986 ∧ q ∉ n.done ∧ 986 + q * barCsk ((nts [n] ws).bar 0 0 3) ≤ (nts [n] ws).clk

theorem witness_Barriers_1 :
    (Arrives 0 a1 ∧ barArr ((arrv 0 a1).bar 0 0 3) + 1 < barNpart ((arrv 0 a1).bar 0 0 3)) ∧
    (Arrives 1 a1 ∧ barNpart ((arrv 1 a1).bar 0 0 3) ≤ barArr ((arrv 1 a1).bar 0 0 3) + 1) ∧
    (Arrives 0 { a1 with wait := false } ∧
      barArr ((arrv 0 { a1 with wait := false }).bar 0 0 3) + 1 < barNpart ((arrv 0 { a1 with wait := false }).bar 0 0 3)) ∧
    (Arrives 1 { a1 with core := none } ∧
      barNpart ((arrv 1 { a1 with core := none }).bar 0 0 3) ≤ barArr ((arrv 1 { a1 with core := none }).bar 0 0 3) + 1) ∧
    ((demo.die 0).board.arrivals = [] ∧ demo.pkg.dsize.toNat ≤ 1) ∧
    (0, 3, 4#32, 12345678) ∈ snt.pkg.sent ∧ (0, 3, 5#32, 12345679) ∈ snt.pkg.sent ∧
    ((0, 3, 5#32, 12345678) ∉ snt.pkg.sent ∧ snt.pkg.dsize.toNat ≤ 1) ∧
    (Due 2 (n1 []) [] ∧ (∃ p < 8, (nts [n1 []] []).clusterEnabled 0 p = true ∧ p ≠ 2 ∧ p ∉ (n1 []).done)) ∧
    (((nts [n1 []] []).die 0).board.notices = [n1 []] ∧ (nts [n1 []] []).clk < 986 + 3 * barCsk ((nts [n1 []] []).bar 0 0 3)) ∧
    (Due 0 (n1 [1, 2, 3, 4, 5, 6, 7]) [{ core := 0, seq := 4, ctx := 0, b := 3, t := 4294967295#32 }] ∧
      ∀ p < 8, p ≠ 0 → p ∈ (n1 [1, 2, 3, 4, 5, 6, 7]).done) ∧
    (barArr (demo.bar 0 0 3) = 0 ∧ 1 ≤ bits (bar 77 7) 0 32 ∧ 3 ≤ bits (bar 77 7) 45 3 ∧ 3000 ≤ bits (bar 77 7) 80 16 ∧
      bits (bar 77 7) 32 10 < demo.pkg.dsize.toNat) := by
  unfold Arrives Due
  and_intros <;> decide +kernel
theorem witness_Barriers_2 :
    (barArr (demo.bar 0 0 3) ≠ 0 ∨ ¬(1 ≤ bits (bar 77 7 - 2#512) 0 32 ∧ 3 ≤ bits (bar 77 7 - 2#512) 45 3 ∧
      3000 ≤ bits (bar 77 7 - 2#512) 80 16 ∧ bits (bar 77 7 - 2#512) 32 10 < demo.pkg.dsize.toNat)) ∧
    (barArr ((arrv 1 a1).bar 0 0 3) ≠ 0 ∨ ¬(1 ≤ bits (bar 0 7) 0 32 ∧ 3 ≤ bits (bar 0 7) 45 3 ∧ 3000 ≤ bits (bar 0 7) 80 16 ∧
      bits (bar 0 7) 32 10 < (arrv 1 a1).pkg.dsize.toNat)) := by decide +kernel

end S22

/-! #### Witnesses: TrapEntry -/

namespace S23

def trapX : Cause := { code := 9, slot := 5, sub := 3, i0 := 1, i1 := 2, i2 := 3 }

def withItems (l : List Item) : State := onCore fun k => { k with pipe := { k.pipe with items := l } }

def anItem (n : Nat) : Item := { kind := .dig, id := 0x101, m := 3, seq := 0, due := 9, a := 5, b := 6, lines := (List.range n).map fun i => lineOf (word (i + 1)), wr := [(0x100, lineOf 7)] }

def inHandler : State := onCore fun k => { k with mode := .handler }

def noRange : State := onDie fun d => { d with handler := [] }

def broken : State := onDie fun d => { d with dbg := { d.dbg with bken := 1 } }

def idleAttr : State := { demo with cores := Tab.set demo.cores 1 { demo.core 1 with ctx := some 0, pipe := { (demo.core 1).pipe with attr := [(5, trapX)] } } }

def wst1 : State := onCore fun k => { k with pipe := { k.pipe with causes := [trapX, trapX], attr := [(3, trapX)] } }

def wst2 : State := onCore fun k => { k with pipe := { k.pipe with causes := [], attr := [(3, trapX)] } }

/-- The core with no item in its pipeline. -/
def alone (k : Core) : Core := { k with pipe := { k.pipe with items := [] } }

theorem witness_TrapEntry_1 :
    CanIssue demo 3 ∧
    CanIssue demo 15 ∧
    (demo.now.Quiet ∧ demo.now.stepArm = false ∧ demo.now.mode ≠ Mode.handler ∧ (demo.handlerRange (dieOf demo.focus)
      (demo.now.ctx.getD 0)).fst ≠ (demo.handlerRange (dieOf demo.focus) (demo.now.ctx.getD 0)).snd ∧
      (trapX.code = 13 → (demo.die (dieOf demo.focus)).dbg.bken.toNat.testBit (demo.now.ctx.getD 0) = false) ∧
      demo.now.pipe.causes = [] ∧ demo.now.pipe.attr = [] ∧ demo.preemptDue demo.focus = false) ∧
    ((alone (withItems [anItem 0]).now).Quiet
      ∧ (withItems [anItem 0]).now.stepArm = false ∧ (withItems [anItem 0]).now.mode ≠ Mode.handler ∧ ((withItems [anItem
      0]).handlerRange (dieOf (withItems [anItem 0]).focus) ((withItems [anItem 0]).now.ctx.getD 0)).fst ≠ ((withItems [anItem
      0]).handlerRange (dieOf (withItems [anItem 0]).focus) ((withItems [anItem 0]).now.ctx.getD 0)).snd ∧ (trapX.code = 13 →
      ((withItems [anItem 0]).die (dieOf (withItems [anItem 0]).focus)).dbg.bken.toNat.testBit ((withItems [anItem
      0]).now.ctx.getD 0) = false) ∧ (withItems [anItem 0]).now.pipe.items = [anItem 0] ∧ (anItem 0).kind = ItemKind.dig ∧
      (anItem 0).await = Await.ready ∧ isLoad (anItem 0).id = false ∧ (anItem 0).id ≠ 2204 ∧ (anItem 0).lines.length ≤ 7 ∧
      (withItems [anItem 0]).now.pipe.run + (withItems [anItem 0]).now.pipe.pre < (anItem 0).due ∧
      (anItem 0).due < (withItems [anItem 0]).now.pipe.run + (withItems [anItem 0]).now.pipe.pre + 2 ^ 32) ∧
    ((alone (withItems [anItem 7]).now).Quiet
      ∧ (withItems [anItem 7]).now.stepArm = false ∧ (withItems [anItem 7]).now.mode ≠ Mode.handler ∧ ((withItems [anItem
      7]).handlerRange (dieOf (withItems [anItem 7]).focus) ((withItems [anItem 7]).now.ctx.getD 0)).fst ≠ ((withItems [anItem
      7]).handlerRange (dieOf (withItems [anItem 7]).focus) ((withItems [anItem 7]).now.ctx.getD 0)).snd ∧ (trapX.code = 13 →
      ((withItems [anItem 7]).die (dieOf (withItems [anItem 7]).focus)).dbg.bken.toNat.testBit ((withItems [anItem
      7]).now.ctx.getD 0) = false) ∧ (withItems [anItem 7]).now.pipe.items = [anItem 7] ∧ (anItem 7).kind = ItemKind.dig ∧
      (anItem 7).await = Await.ready ∧ isLoad (anItem 7).id = false ∧ (anItem 7).id ≠ 2204 ∧ (anItem 7).lines.length ≤ 7 ∧
      (withItems [anItem 7]).now.pipe.run + (withItems [anItem 7]).now.pipe.pre < (anItem 7).due ∧
      (anItem 7).due < (withItems [anItem 7]).now.pipe.run + (withItems [anItem 7]).now.pipe.pre + 2 ^ 32) ∧
    (inHandler.now.stepArm = false ∧ (inHandler.now.mode = Mode.handler ∨ (inHandler.handlerRange (dieOf inHandler.focus)
      (inHandler.now.ctx.getD 0)).fst = (inHandler.handlerRange (dieOf inHandler.focus) (inHandler.now.ctx.getD 0)).snd ∧
      trapX.code ≠ 13)) ∧
    (noRange.now.stepArm = false ∧ (noRange.now.mode = Mode.handler ∨ (noRange.handlerRange (dieOf noRange.focus)
      (noRange.now.ctx.getD 0)).fst = (noRange.handlerRange (dieOf noRange.focus) (noRange.now.ctx.getD 0)).snd ∧
      trapX.code ≠ 13)) ∧
    (broken.now.stepArm = false ∧ broken.now.mode = Mode.task ∧ broken.now.halted = false ∧
      broken.now.ctx = some (broken.now.ctx.getD 0) ∧ broken.focus < 1024 ∧ broken.now.ctx.getD 0 < 64 ∧
      (broken.die (dieOf broken.focus)).dbg.bken.toNat.testBit (broken.now.ctx.getD 0) = true) ∧
    ((wst1.core 0).Quiet ∧ (wst1.core 0).cbuf = [] ∧ (wst1.core 0).stepArm = false ∧ (wst1.handlerRange (dieOf 0) ((wst1.core
      0).ctx.getD 0)).fst ≠ (wst1.handlerRange (dieOf 0) ((wst1.core 0).ctx.getD 0)).snd ∧ (wst1.core 0).runs = true ∧
      (wst1.core 0).mode = Mode.task ∧ (wst1.core 0).notask = false ∧ (wst1.core 0).pipe.causes = [trapX, trapX]) ∧
    ((wst2.core 0).Quiet ∧ (wst2.core 0).cbuf = [] ∧ (wst2.core 0).stepArm = false ∧ (wst2.handlerRange (dieOf 0) ((wst2.core
      0).ctx.getD 0)).fst ≠ (wst2.handlerRange (dieOf 0) ((wst2.core 0).ctx.getD 0)).snd ∧ (wst2.core 0).runs = true ∧
      (wst2.core 0).mode = Mode.task ∧ (wst2.core 0).notask = false ∧ (wst2.core 0).pipe.causes = [] ∧
      (wst2.core 0).pipe.attr = [(3, trapX)]) ∧
    ((idleAttr.core 1).Quiet ∧ (idleAttr.core 1).cbuf = [] ∧ (idleAttr.core 1).stepArm = false ∧ (idleAttr.handlerRange (dieOf
      1) ((idleAttr.core 1).ctx.getD 0)).fst ≠ (idleAttr.handlerRange (dieOf 1) ((idleAttr.core 1).ctx.getD 0)).snd ∧
      (idleAttr.core 1).mode = Mode.idle ∧ (idleAttr.core 1).halted = false ∧ (idleAttr.core 1).ctx.isSome = true ∧
      idleAttr.barred (dieOf 1) ((idleAttr.core 1).ctx.getD 0) = false ∧
      (idleAttr.core 1).pipe.causes = [] ∧ (idleAttr.core 1).pipe.attr = [(5, trapX)]) ∧
    ((demo.core 0).runs = false ∨ (demo.core 0).pipe.causes = [] ∧ (demo.core 0).pipe.attr = []) := by
  unfold Core.Quiet
  and_intros <;> first | exact can_of (by decide +kernel) | decide +kernel
theorem witness_TrapEntry_2 :
    ((demo.core 1).runs = false ∨ (demo.core 1).pipe.causes = [] ∧ (demo.core 1).pipe.attr = []) ∧
    (demo.core 0).mode ≠ Mode.idle := by decide +kernel

end S23

/-! #### Witnesses: TrapReturn -/

namespace S24

def trapB : BitVec 256 := (encode (.trap 3 0xBEEF)).getD 0

def trapX : Cause := { code := 9, slot := 5, sub := 3, i0 := 1, i1 := 2, i2 := 3 }

def withItems (l : List Item) : State := onCore fun k => { k with pipe := { k.pipe with items := l } }

def anItem (n : Nat) : Item := { kind := .dig, id := 0x101, m := 3, seq := 0, due := 9, a := 5, b := 6, lines := (List.range n).map fun i => lineOf (word (i + 1)), wr := [(0x100, lineOf 7)] }

/-- In the handler, the frame of `s`'s trap in its lines. -/
def framed (s : State) : State := trapped s trapB trapX

def fset (s : State) (f : Core → Core) : State := { s with cores := Tab.set s.cores 0 (f (s.core 0)) }

def entryOf (n : Nat) : BitVec 256 × List Line := ((framed (withItems [anItem n])).now.shadow.entries)[0]!

def killed : State := fset (framed (withItems [anItem 2])) fun k => k.setLine 32726 (k.line 32726 &&& ~~~ 15)

def changed : State := fset (framed (withItems [anItem 2])) fun k => k.setLine 32726 (k.line 32726 + BitVec.ofNat 1024 (2 ^ 64))

def noEntries : State := fset (framed (withItems [anItem 2])) fun k => k.setLine 32704 (k.line 32704 &&& ~~~ (BitVec.ofNat 1024 (0x1fff * 2 ^ 112)))

def badFrame : State := fset (framed demo) fun k => k.setLine 32704 (k.line 32704 ||| BitVec.ofNat 1024 (2 ^ 126))

def withPre : State := fset (framed (withItems [anItem 2])) fun k => k.setLine 32704 (k.line 32704 ||| BitVec.ofNat 1024 (3 * 2 ^ 384))

def loadBack (pre : Nat) (id : Nat) (m : BitVec 4) (due : Nat) : State := onCore fun k => { k with vrf := [(110, lineOf 0x1122334455667788)], pipe := { k.pipe with pre := pre, items := [{ kind := .dig, id := id, m := m, seq := 1, due := due, a := word (110 * 128), await := .again }] } }

def lb : Item := { kind := .dig, id := 0x182, m := 1, seq := 1, due := 9, a := word (110 * 128), await := .again }

def lbW : Item := { lb with id := 0x183, m := 0, a := word (110 * 128 + 4) }

def spillO : EngineOp := { id := 0x845, trig := word (5 + 110*16), seq := 2, u := 0, dc := 160, dt := 160, due := some 3, again := true, sums := [(3,4)] }

def spillAgain : State := onCore fun k => { k with accw := [(5 * 4096 + 5, 0x1234567890), (5*4096 + 4095, 0x4000000000), (4096, 17)], eng := { k.eng with acc := some spillO }, pipe := { k.pipe with run := 3 } }

def wst1 : State := fset (framed demo) fun k => { k with pipe := { k.pipe with items := [anItem 0] } }

def wst2 : State := fset (framed demo) fun k => { k with cbuf := [(1000, .token 1 3 4 5)] }

def wst3 : State := fset (framed demo) fun k => { k with notask := true }

def wst4 : State := onCore fun k => { k with vrf := [(110, lineOf 0x1122334455667788)], pipe := { k.pipe with items := [lb] } }

def wst5 : State := onCore fun k => { k with vrf := [(110, lineOf 0x1122334455667788)], pipe := { k.pipe with items := [lbW] } }

theorem witness_TrapReturn_1 :
    (CanIssue demo 5 ∧ demo.now.mode = Mode.task) ∧
    (CanIssue wst1 5 ∧ wst1.now.mode = Mode.handler ∧ wst1.now.unitsBusy = true) ∧
    (CanIssue wst2 5 ∧ wst2.now.mode = Mode.handler ∧ wst2.now.unitsBusy = false ∧ wst2.now.cbuf ≠ [] ∧
      wst2.now.pipe.held < bits wst2.now.ctl.wdg 0 32) ∧
    (CanIssue wst3 5 ∧ wst3.now.mode = Mode.handler ∧ wst3.now.unitsBusy = false ∧ wst3.now.cbuf = [] ∧
      wst3.now.notask = true) ∧
    (CanIssue badFrame 5 ∧ badFrame.now.mode = Mode.handler ∧ badFrame.now.unitsBusy = false ∧ badFrame.now.cbuf = [] ∧
      badFrame.now.notask = false ∧
      rtrapOk badFrame.now (badFrame.taskRange badFrame.focus).fst (badFrame.taskRange badFrame.focus).snd = false) ∧
    (CanIssue (framed demo) 5 ∧ (framed demo).now.mode = Mode.handler ∧ (framed demo).now.unitsBusy = false ∧
      (framed demo).now.cbuf = [] ∧ (framed demo).now.notask = false ∧ rtrapOk (framed demo).now ((framed demo).taskRange
      (framed demo).focus).fst ((framed demo).taskRange (framed demo).focus).snd = true ∧
      BitVec.getLsbD ((framed demo).now.line (32704 + 0)) 88 = false ∧ (framed demo).now.shadow.behind = []) ∧
    (CanIssue killed 5 ∧ killed.now.mode = Mode.handler ∧ killed.now.unitsBusy = false ∧ killed.now.cbuf = [] ∧
      killed.now.notask = false ∧
      rtrapOk killed.now (killed.taskRange killed.focus).fst (killed.taskRange killed.focus).snd = true ∧
      BitVec.getLsbD (killed.now.line (32704 + 0)) 88 = false ∧
      killed.now.shadow.behind = [Behind.item (anItem 2)] ∧
      killed.now.shadow.entries = [entryOf 2] ∧ (anItem 2).fx = Fx.none ∧
      (BitVec.extractLsb' 0 4 (killed.now.frameEntry 0).fst = 0#4 ∨ BitVec.extractLsb' 112 8 (killed.now.line (32704 + 0)) =
      0#8)) ∧
    (CanIssue noEntries 5 ∧ noEntries.now.mode = Mode.handler ∧ noEntries.now.unitsBusy = false ∧ noEntries.now.cbuf = [] ∧
      noEntries.now.notask = false ∧
      rtrapOk noEntries.now (noEntries.taskRange noEntries.focus).fst (noEntries.taskRange noEntries.focus).snd = true ∧
      BitVec.getLsbD (noEntries.now.line (32704 + 0)) 88 = false ∧
      noEntries.now.shadow.behind = [Behind.item (anItem 2)] ∧
      noEntries.now.shadow.entries = [entryOf 2] ∧ (anItem 2).fx = Fx.none ∧
      (BitVec.extractLsb' 0 4 (noEntries.now.frameEntry 0).fst = 0#4 ∨ BitVec.extractLsb' 112 8 (noEntries.now.line (32704 +
      0)) = 0#8)) ∧
    (CanIssue withPre 5 ∧ withPre.now.mode = Mode.handler ∧ withPre.now.unitsBusy = false ∧ withPre.now.cbuf = [] ∧
      withPre.now.notask = false ∧
      rtrapOk withPre.now (withPre.taskRange withPre.focus).fst (withPre.taskRange withPre.focus).snd = true ∧
      BitVec.getLsbD (withPre.now.line (32704 + 0)) 88 = false ∧
      withPre.now.shadow.behind = [Behind.item (anItem 2)] ∧
      withPre.now.shadow.entries = [entryOf 2] ∧ (anItem 2).fx = Fx.none ∧
      BitVec.extractLsb' 0 4 (withPre.now.frameEntry 0).fst ≠ 0#4 ∧
      BitVec.extractLsb' 112 8 (withPre.now.line (32704 + 0)) ≠ 0#8 ∧ withPre.now.frameEntry 0 = entryOf 2) ∧
    (CanIssue changed 5 ∧ changed.now.mode = Mode.handler ∧ changed.now.unitsBusy = false ∧ changed.now.cbuf = [] ∧
      changed.now.notask = false ∧
      rtrapOk changed.now (changed.taskRange changed.focus).fst (changed.taskRange changed.focus).snd = true ∧
      BitVec.getLsbD (changed.now.line (32704 + 0)) 88 = false ∧
      changed.now.shadow.behind = [Behind.item (anItem 2)] ∧
      changed.now.shadow.entries = [entryOf 2] ∧ (anItem 2).fx = Fx.none ∧
      BitVec.extractLsb' 0 4 (changed.now.frameEntry 0).fst ≠ 0#4 ∧
      BitVec.extractLsb' 112 8 (changed.now.line (32704 + 0)) ≠ 0#8 ∧ changed.now.frameEntry 0 ≠ entryOf 2) ∧
    (((loadBack 1 385 (0#4) 9).core 0).eng.mx = none ∧ ((loadBack 1 385 (0#4) 9).core 0).eng.acc = none ∧
      (((loadBack 1 385 (0#4) 9).core 0).pipe.pre ≠ 0 ∨ ((loadBack 1 385 (0#4) 9).core 0).pipe.items = [])) ∧
    ((demo.core 0).eng.mx = none ∧ (demo.core 0).eng.acc = none ∧
      ((demo.core 0).pipe.pre ≠ 0 ∨ (demo.core 0).pipe.items = [])) := by
  and_intros <;> first | exact can_of (by decide +kernel) | decide +kernel
theorem witness_TrapReturn_2 :
    ((wst4.core 0).eng.mx = none ∧ (wst4.core 0).eng.acc = none ∧ (wst4.core 0).pipe.pre = 0 ∧
      (wst4.core 0).pipe.items = [lb] ∧ lb.await = Await.again ∧ isLoad lb.id = true ∧ lb.id ≠ 401 ∧
      110 = BitVec.toNat lb.a / 128 ∧ (wst4.core 0).present 110 = true) ∧
    ((wst5.core 0).eng.mx = none ∧ (wst5.core 0).eng.acc = none ∧ (wst5.core 0).pipe.pre = 0 ∧
      (wst5.core 0).pipe.items = [lbW] ∧ lbW.await = Await.again ∧ isLoad lbW.id = true ∧ lbW.id ≠ 401 ∧
      110 = BitVec.toNat lbW.a / 128 ∧ (wst5.core 0).present 110 = true) ∧
    ((spillAgain.core 0).pipe.items = [] ∧ (spillAgain.core 0).eng.mx = none ∧ (spillAgain.core 0).eng.acc = some spillO ∧
      spillO.again = true ∧ spillO.started = false ∧ spillO.behind (spillAgain.core 0).pipe.run = true ∧ spillO.id = 2117) := by decide +kernel

end S24

/-! #### Witnesses: ControlWaits, HoldsAndResults -/

namespace S25

def mxOn : Core → Core := fun k => { k with eng := { k.eng with mx := some { id := 0x810, seq := 0, u := 0, dc := 9, dt := 9, started := true } } }

def chOn : Core → Core := fun k => { k with cp := { k.cp with ch := [(2, { pend := [{ v := 3, offs := 0 }] })] } }

def atOn : Core → Core := fun k => { k with ats := [{ seq := 3, op := 642, addr := 0x100000F, x := 5, y := 7, m := 0 }] }

def ldItem : Item := { kind := .dig, id := 0x182, m := 0, seq := 0, due := 9, a := word (110 * 128), await := .line 1 110 }

def ldOn : Core → Core := fun k => { k with pipe := { k.pipe with items := [ldItem] } }

def fetchB (b : BitVec 256) (f : Core → Core) : State := let s := onCore f; { s with mem := (State.reset.withProgram b).mem }

def cn5 : BitVec 256 := (encode (.cnop 5)).getD 0

def held (n : Nat) : Core → Core := fun k => { k with pipe := { k.pipe with held := n } }

def late (n w : Nat) : Core → Core := fun k => { k with ctl := { k.ctl with wdg := word w }, pipe := { k.pipe with held := n, items := [{ ldItem with due := 0 }] } }

def landIts : List Item := [{ kind := .dig, id := 0x101, m := 0, seq := 0, due := 0, wr := [(0x100, lineOf 7)] }, { kind := .dig, id := 0x182, m := 0, seq := 1, due := 0, wr := [(0x180, lineOf 8)] }, { kind := .dig, id := 0x102, m := 0, seq := 2, due := 9, wr := [(0x100, lineOf 9)] }]

def landing1 : State := onCore fun k => { k with pipe := { k.pipe with items := landIts } }

def ldReady : State :=
  let s := onCore fun k => { k with pipe := { k.pipe with items := [{ ldItem with due := 0 }] } }
  { s with cores := Tab.set s.cores 1 { s.core 1 with vrf := [(110, lineOf 0xabcdef)] } }

def cb (n : Nat) (x : Out) : State := onCore fun k => { k with cbuf := [(n, x), (1001, .token 1 3 4 5)] }

/-- Two save lines of the core's slot still due to main memory: the second covers half of the first, the last lies past its end. -/
def lateOn : Core → Core := fun k => { k with late := [(0x2000000, lineOf 0x1122), (0x2000040, lineOf 0x3344), (Config.hbmBytes - 64, lineOf 5)] }

/-- WAITE with mask `m` has nothing to wait for. -/
def Free (s : State) (m : BitVec 8) : Prop :=
  CanIssue s 15 ∧ InRange s ∧ (¬∃ i, i < 4 ∧ m.getLsbD i = true ∧ s.now.engineBusy i = true) ∧
    ¬((m.getLsbD 4 = true ∧ s.now.detachedBusy 4 = true) ∨ (m.getLsbD 5 = true ∧ s.now.detachedBusy 5 = true))

/-- FENCE of kind `n` has nothing to wait for. -/
def FenceFree (s : State) (n : BitVec 3) : Prop :=
  CanIssue s 5 ∧ InRange s ∧ ¬s.now.enginesOpen (n ≠ 1) = true ∧
    ¬(s.now.atsOpen (n ≠ 1) = true ∨ s.now.loadsOpen = true ∨ s.atsLeft s.focus (n ≠ 1) = true)

/-- The task has an operation open on core 1, where it ran before. -/
def leftOn : State :=
  let s := onCore fun k => { k with running := some { img := demoImg, e := 3, since := 0, tid := 7 } }
  { s with cores := Tab.set s.cores 1 { s.core 1 with ats := [{ seq := 3, op := 642, addr := 0x100000F, x := 5, y := 7, m := 0, tid := 7 }] } }
theorem witness_ControlWaits_2 :
    CanIssue leftOn 5 ∧ InRange leftOn ∧ (¬leftOn.now.enginesOpen ((0 : BitVec 3) ≠ 1) = true) ∧
      leftOn.now.atsOpen ((0 : BitVec 3) ≠ 1) = false ∧ leftOn.now.loadsOpen = false ∧
      leftOn.atsLeft leftOn.focus ((0 : BitVec 3) ≠ 1) = true ∧ leftOn.now.pipe.held < bits leftOn.now.ctl.wdg 0 32 := by
  unfold InRange
  and_intros <;> first | exact can_of (by decide +kernel) | decide +kernel
theorem witness_ControlWaits_1 :
    (Free demo 63 ∧ ((63#8).getLsbD 5 = false ∨ demo.now.late = [])) ∧ (Free demo 63 ∧ (63#8).getLsbD 5 = true) ∧
    (Free (onCore mxOn) 14 ∧ ((14#8).getLsbD 5 = false ∨ (onCore mxOn).now.late = [])) ∧
    (Free (onCore chOn) 15 ∧ ((15#8).getLsbD 5 = false ∨ (onCore chOn).now.late = [])) ∧
    (Free (onCore lateOn) 32 ∧ (32#8).getLsbD 5 = true ∧ (∀ x ∈ (onCore lateOn).now.late, 0 < x.1 ∨ x.1 + 128 ≤ 0) ∧
      (onCore lateOn).now.late = [] ++ (0x2000000, lineOf 0x1122) :: [(0x2000040, lineOf 0x3344), (Config.hbmBytes - 64, lineOf 5)] ∧
      0x2000000 + 63 < Config.hbmBytes ∧
      ∀ y ∈ [(0x2000040, lineOf 0x3344), (Config.hbmBytes - 64, lineOf 5)], 0x2000000 + 63 < y.1 ∨ y.1 + 128 ≤ 0x2000000 + 63) ∧
    (CanIssue (onCore mxOn) 5 ∧ InRange (onCore mxOn) ∧ (∃ i, i < 4 ∧ (1#8).getLsbD i = true ∧ (onCore mxOn).now.engineBusy i = true)) ∧
    (CanIssue (onCore chOn) 5 ∧ InRange (onCore chOn) ∧ (¬∃ i, i < 4 ∧ (16#8).getLsbD i = true ∧
      (onCore chOn).now.engineBusy i = true) ∧ ((16#8).getLsbD 4 = true ∧
      (onCore chOn).now.detachedBusy 4 = true ∨ (16#8).getLsbD 5 = true ∧ (onCore chOn).now.detachedBusy 5 = true) ∧
      (onCore chOn).now.pipe.held < bits (onCore chOn).now.ctl.wdg 0 32) ∧
    FenceFree demo 0 ∧ FenceFree (onCore chOn) 2 ∧ FenceFree demo 1 ∧
    (CanIssue (onCore mxOn) 5 ∧ InRange (onCore mxOn) ∧ (onCore mxOn).now.enginesOpen ((2 : BitVec 3) ≠ 1) = true) ∧
    (CanIssue (onCore atOn) 5 ∧ InRange (onCore atOn) ∧ (¬(onCore atOn).now.enginesOpen ((0 : BitVec 3) ≠ 1) = true) ∧
      ((onCore atOn).now.atsOpen ((0 : BitVec 3) ≠ 1) = true ∨ (onCore atOn).now.loadsOpen = true) ∧
      (onCore atOn).now.pipe.held < bits (onCore atOn).now.ctl.wdg 0 32) ∧
    (CanIssue (onCore ldOn) 5 ∧ InRange (onCore ldOn) ∧ (¬(onCore ldOn).now.enginesOpen ((1 : BitVec 3) ≠ 1) = true) ∧
      ((onCore ldOn).now.atsOpen ((1 : BitVec 3) ≠ 1) = true ∨ (onCore ldOn).now.loadsOpen = true) ∧
      (onCore ldOn).now.pipe.held < bits (onCore ldOn).now.ctl.wdg 0 32) ∧
    (CanIssue demo 5 ∧ InRange demo ∧ demo.now.cmdsOpen = false) ∧
    (CanIssue (onCore chOn) 5 ∧ InRange (onCore chOn) ∧ (onCore chOn).now.cmdsOpen = true ∧
      (onCore chOn).now.pipe.held < bits (onCore chOn).now.ctl.wdg 0 32) := by
  unfold Free FenceFree InRange
  and_intros <;> first | exact can_of (by decide +kernel) | decide +kernel
def ldDue : Item := { ldItem with due := 0 }

theorem witness_HoldsAndResults_1 :
    ((onCore (held 1)).now.runs = true ∧ (onCore (held 1)).now.seq.on = false ∧
      (onCore (held 1)).fetchAt (onCore (held 1)).focus = some 0#256 ∧ 0 < (onCore (held 1)).now.pipe.held) ∧
    (CanIssue (fetchB cn5 (held 1)) 5 ∧ InRange (fetchB cn5 (held 1)) ∧ (fetchB cn5 (held 1)).now.runs = true ∧
      (fetchB cn5 (held 1)).now.seq.on = false ∧ (fetchB cn5 (held 1)).fetchAt (fetchB cn5 (held 1)).focus = some cn5 ∧
      0 < (fetchB cn5 (held 1)).now.pipe.held ∧ cn5 = (encode (Instr.cnop 5#4)).getD 0#256) ∧
    ((onCore (late 1 5)).now.runs = true ∧ (onCore (late 1 5)).now.seq.on = false ∧
      (onCore (late 1 5)).fetchAt (onCore (late 1 5)).focus = some 0#256 ∧ 0 < (onCore (late 1 5)).now.pipe.held ∧
      (onCore (late 1 5)).now.bkpt = false ∧ (onCore (late 1 5)).now.gate (onCore (late 1 5)).clk = some 1 ∧
      (onCore (late 1 5)).now.pipe.held < bits (onCore (late 1 5)).now.ctl.wdg 0 32) ∧
    ((onCore (late 4 5)).now.runs = true ∧ (onCore (late 4 5)).now.seq.on = false ∧
      (onCore (late 4 5)).fetchAt (onCore (late 4 5)).focus = some 0#256 ∧ 0 < (onCore (late 4 5)).now.pipe.held ∧
      (onCore (late 4 5)).now.bkpt = false ∧ (onCore (late 4 5)).now.gate (onCore (late 4 5)).clk = some 1 ∧
      (onCore (late 4 5)).now.pipe.held < bits (onCore (late 4 5)).now.ctl.wdg 0 32) ∧
    ((onCore (late 5 5)).now.runs = true ∧ (onCore (late 5 5)).now.seq.on = false ∧
      (onCore (late 5 5)).fetchAt (onCore (late 5 5)).focus = some 0#256 ∧ (onCore (late 5 5)).now.bkpt = false ∧
      (onCore (late 5 5)).now.gate (onCore (late 5 5)).clk = some 1 ∧
      bits (onCore (late 5 5)).now.ctl.wdg 0 32 ≤ (onCore (late 5 5)).now.pipe.held) ∧
    ((demo.core 0).runs = false ∨ (demo.core 0).pipe.held = 0) ∧
    ((demo.core 1).runs = false ∨ (demo.core 1).pipe.held = 0) ∧
    (((onCore (late 4 5)).core 0).runs = false ∨ ((onCore (late 4 5)).core 0).pipe.held < bits ((onCore (late 4 5)).core
      0).ctl.wdg 0 32) ∧
    ((∀ (it : Item), it ∈ (landing1.core 0).pipe.items → it.fx = Fx.none) ∧
      (∀ (it : Item), it ∈ (landing1.core 0).pipe.items → it.await = Await.ready)) ∧
    ((ldReady.core 0).pipe.items = [ldDue] ∧
      (ldDue).fx = Fx.none ∧ ldDue.lost = false ∧
      isLoad (ldDue).id = true ∧
      (ldDue).await = Await.line 1 110 ∧ (ldReady.core 1).present 110 = true ∧
      (ldDue).due ≤ (ldReady.core 0).pipe.run ∧
      (ldDue).rdy ≤ ldReady.clk) ∧
    (((cb 999 (Out.token 1 (5#64) 4 5)).core 0).tlbWaits = [] ∧ ((cb 999 (Out.token 1 (5#64) 4 5)).core 0).cbuf = [(999, Out.token 1 (5#64) 4 5), (1001, Out.token 1 (3#64) 4 5)] ∧
      (cb 999 (Out.token 1 (5#64) 4 5)).clk < 999 + 2) ∧
    (((cb 998 (Out.unit 0 2 5)).core 0).tlbWaits = [] ∧ ((cb 998 (Out.unit 0 2 5)).core 0).cbuf = [(998, Out.unit 0 2 5), (1001, Out.token 1 (3#64) 4 5)] ∧
      998 + 2 ≤ (cb 998 (Out.unit 0 2 5)).clk ∧
      (0 ∈ List.map (fun x => x.fst) ((cb 998 (Out.unit 0 2 5)).die (dieOf 0)).board.launches)) :=
  ⟨by decide +kernel, ⟨can_of (by decide +kernel), by (unfold InRange; decide +kernel), by decide +kernel⟩, by decide +kernel⟩
/-- An awaited result that a later trigger's result on its port outdoes, and one that is lost already. -/
def landing2 : State := onCore fun k => { k with pipe := { k.pipe with items := [
  { kind := .atr, id := 0x2c5, m := 1, seq := 0, due := 0, await := .agent },
  { kind := .dig, id := 0x2c4, m := 0, seq := 1, due := 0, wr := [(0x2c0, lineOf 5)] },
  { kind := .dig, id := 0x101, m := 0, seq := 2, due := 0, wr := [(0x100, lineOf 9)], lost := true }] } }
theorem witness_HoldsAndResults_3 :
    (∀ it ∈ (landing2.core 0).pipe.items, it.fx = .none) ∧
      ((landing2.core 0).pipe.items.any fun it => ((landing2.core 0).dueItems landing2.clk).any it.outdone) = true := by
  decide +kernel
theorem witness_HoldsAndResults_2 :
    (((cb 998 (Out.token 1 (5#64) 4 5)).core 0).tlbWaits = [] ∧ ((cb 998 (Out.token 1 (5#64) 4 5)).core 0).cbuf = [(998, Out.token 1 (5#64) 4 5), (1001, Out.token 1 (3#64) 4 5)] ∧
      998 + 2 ≤ (cb 998 (Out.token 1 (5#64) 4 5)).clk ∧ (5#64).getLsbD 13 = false) ∧
    ((demo.core 0).tlbWaits = [] ∧ (demo.core 0).cbuf = []) := by decide +kernel

end S25

/-! #### Witnesses: Loops -/

namespace S251

def cn5 : BitVec 256 := (encode (.cnop 5)).getD 0

def badB : BitVec 256 := (encode (.loopm 0 0 1 2)).getD 0

def lp (t : Nat) : State := onCore fun k => { k with regs := { k.regs with s := [(2, word t)] } }

def badBody : State := { lp 3 with mem := ((State.reset.withProgram badB).mem).map fun e => { e with fst := e.1 + 32 } }

def badX : Cause := (bodyCause (controlWord 15 6 ((0:BitVec 6) ++ (1:BitVec 6) ++ (2:BitVec 6) ++ (0 : BitVec 4))) (badBody.env 0) 4096 1 1 [some badB]).getD { code := 0 }

def onLoop (lsq teff lix : Nat) (body : List (BitVec 256)) (p : BitVec 8) : State := onCore fun k => { k with seq := { on := true, body := body }, regs := { k.regs with p := p }, ctl := { k.ctl with lpc := 4096, lsq := word lsq, ltc := word (9 + teff * 2 ^ 32), lix := word lix } }

def mvq : BitVec 256 := (encode (.move 0 5 0xc0 1)).getD 0

theorem witness_Loops_1 :
    (CanIssue (lp 0) 5 ∧ 2#6 ≠ 0#6 ∧ (bodyCause (controlWord (5#4) (6#6) (63#6 ++ 2#6 ++ 2#6 ++ 0#4)) ((lp 0).env (lp
      0).focus) (lp 0).now.pcAddr (63 + 1) 2 (List.map
      (fun i => (W.of (lp 0)).fetch ((lp 0).env (lp 0).focus).pages ((lp 0).now.pcAddr + 32 * (i + 1))) (List.range (63 + 1)))
      = none) ∧ BitVec.toNat ((lp 0).now.regs.sreg 2) < 2 ^ 32) ∧
    (CanIssue (lp 3) 15 ∧ 1#6 ≠ 0#6 ∧ (bodyCause (controlWord (15#4) (6#6) (0#6 ++ 1#6 ++ 2#6 ++ 0#4)) ((lp 3).env (lp
      3).focus) (lp 3).now.pcAddr (0 + 1) 1 (List.map
      (fun i => (W.of (lp 3)).fetch ((lp 3).env (lp 3).focus).pages ((lp 3).now.pcAddr + 32 * (i + 1))) (List.range (0 + 1)))
      = none) ∧ BitVec.toNat ((lp 3).now.regs.sreg 2) < 2 ^ 32) ∧
    (CanIssue (lp (2 ^ 32 - 1)) 15 ∧ 63#6 ≠ 0#6 ∧ (bodyCause (controlWord (15#4) (6#6) (0#6 ++ 63#6 ++ 2#6 ++ 0#4)) ((lp (2 ^
      32 - 1)).env (lp (2 ^ 32 - 1)).focus) (lp (2 ^ 32 - 1)).now.pcAddr (0 + 1) 63 (List.map
      (fun i => (W.of (lp (2 ^ 32 - 1))).fetch ((lp (2 ^ 32 - 1)).env (lp (2 ^ 32 - 1)).focus).pages ((lp (2 ^ 32 - 1)).now.pcAddr + 32 * (i + 1)))
      (List.range (0 + 1))) = none) ∧ BitVec.toNat ((lp (2 ^ 32 - 1)).now.regs.sreg 2) < 2 ^ 32) ∧
    (CanIssue (lp (2 ^ 32)) 15 ∧ 1#6 ≠ 0#6 ∧ (bodyCause (controlWord (15#4) (6#6) (0#6 ++ 1#6 ++ 2#6 ++ 0#4)) ((lp (2 ^
      32)).env (lp (2 ^ 32)).focus) (lp (2 ^ 32)).now.pcAddr (0 + 1) 1 (List.map
      (fun i => (W.of (lp (2 ^ 32))).fetch ((lp (2 ^ 32)).env (lp (2 ^ 32)).focus).pages ((lp (2 ^ 32)).now.pcAddr + 32 * (i + 1)))
      (List.range (0 + 1))) = none) ∧ 2 ^ 32 ≤ BitVec.toNat ((lp (2 ^ 32)).now.regs.sreg 2)) ∧
    (CanIssue (onLoop (1 + 2 * 128) 3 1 [cn5] 1#8) 5 ∧ (onLoop (1 + 2 * 128) 3 1 [cn5] 1#8).now.seq.on = true ∧
      contributors (onLoop (1 + 2 * 128) 3 1 [cn5] 1#8).now = []) ∧
    (CanIssue (onLoop (1 + 2 * 128) 3 2 [cn5] 1#8) 5 ∧ (onLoop (1 + 2 * 128) 3 2 [cn5] 1#8).now.seq.on = true ∧
      contributors (onLoop (1 + 2 * 128) 3 2 [cn5] 1#8).now = [(0, 1, (encode (Instr.cnop 5#4)).getD 0#256)]) ∧
    (CanIssue (onLoop (1 + 128) 3 2 [cn5] 1#8) 5 ∧ (onLoop (1 + 128) 3 2 [cn5] 1#8).now.seq.on = true ∧
      contributors (onLoop (1 + 128) 3 2 [cn5] 1#8).now = [(0, 2, (encode (Instr.cnop 5#4)).getD 0#256)]) ∧
    (CanIssue (onLoop (1 + 128) 3 2 [mvq] 1#8) 0 ∧ (onLoop (1 + 128) 3 2 [mvq] 1#8).now.seq.on = true ∧
      contributors (onLoop (1 + 128) 3 2 [mvq] 1#8).now = [(0, 2, (encode (Instr.move 0#4 5#12 192#12 1#4)).getD 0#256)] ∧
      guardOn (onLoop (1 + 128) 3 2 [mvq] 1#8).now.regs 0#4 = true ∧
      destOf ((onLoop (1 + 128) 3 2 [mvq] 1#8).env (onLoop (1 + 128) 3 2 [mvq] 1#8).focus).ver 5 = some (Dest.sreg 5) ∧
      srcOf ((onLoop (1 + 128) 3 2 [mvq] 1#8).env (onLoop (1 + 128) 3 2 [mvq] 1#8).focus).ver 192 = some Src.seqi) ∧
    (CanIssue (onLoop (1 + 128) 30 2 [0#256] 129#8) 7 ∧ (onLoop (1 + 128) 30 2 [0#256] 129#8).now.seq.on = true) ∧
    (CanIssue (onLoop (3 + 128) 30 5 [0#256, cn5] 1#8) 7 ∧ (onLoop (3 + 128) 30 5 [0#256, cn5] 1#8).now.seq.on = true) ∧
    (CanIssue (onLoop (3 + 128) 30 5 [0#256, cn5] 129#8) 7 ∧ (onLoop (3 + 128) 30 5 [0#256, cn5] 129#8).now.seq.on = true) ∧
    (CanIssue demo 7 ∧ demo.now.seq.on = false) := by
  and_intros <;> first | exact can_of (by decide +kernel) | decide +kernel
theorem witness_Loops_2 :
    CanIssue badBody 15 ∧ 1#6 ≠ 0#6 ∧ (bodyCause (controlWord (15#4) (6#6) (0#6 ++ 1#6 ++ 2#6 ++ 0#4)) (badBody.env
      badBody.focus) badBody.now.pcAddr (0 + 1) 1 (List.map
      (fun i => (W.of badBody).fetch (badBody.env badBody.focus).pages (badBody.now.pcAddr + 32 * (i + 1))) (List.range (0 +
      1))) = some badX) :=
  ⟨can_of (by decide +kernel), by decide +kernel⟩

end S251

/-! #### Witnesses: RegisterWrites -/

namespace S27

def vv : Word := 0x9123456789abcdef

def own : State :=
  let s := onDie fun d => { d with owner := [(0, 0x00_81_3f_bf_80_85_05_00)] }
  { s with cores := Tab.set s.cores 0 { s.core 0 with pairs := [(0, { (s.core 0).pair 0 with cleared := true }), (1, { (s.core 0).pair 1 with cleared := false, tp := 7 }), (5, { (s.core 0).pair 5 with cleared := true })] } }

/-- Pair 7 is not fit for use, and an operation of the crossbar uses pair 3. -/
def own2 : State :=
  { own with cores := Tab.set own.cores 0 { own.core 0 with
    pairs := (own.core 0).pairs ++ [(7, { (own.core 0).pair 7 with cleared := true, bad := true })]
    eng := { (own.core 0).eng with xb := [{ id := 0x892, ports := [3], seq := 0, u := 0, dc := 9, dt := 9 }] } } }
def oldOwner (k : Nat) : BitVec 8 := (Tab.get 0 (own2.die 0).owner 0).extractLsb' (8 * k) 8
def newOwner (v : Word) (k : Nat) : BitVec 8 := v.extractLsb' (8 * k) 8 &&& 0xBF
/-- The store of the owner word `v` leaves pair `k` as it is. -/
def Keeps (v : Word) (k : Nat) : Prop :=
  ((oldOwner k).getLsbD 7 = true ∧ (newOwner v k).extractLsb' 0 6 ≠ (oldOwner k).extractLsb' 0 6) ∨
    ((oldOwner k).getLsbD 7 = true ∧ (newOwner v k).getLsbD 7 = false ∧ ∃ x ∈ (own2.core 0).eng.xb, x.pair = k) ∨
    ((oldOwner k).getLsbD 7 = false ∧ (newOwner v k).getLsbD 7 = true ∧
      (((own2.core 0).pair k).cleared = false ∨ ((own2.core 0).pair k).bad = true))
theorem witness_RegisterWrites_owner :
    Keeps 0x81813fbf00868181 1 ∧ Keeps 0x81813fbf00868181 2 ∧ Keeps 0x81813fbf00868181 3 ∧ Keeps 0x81813fbf00868181 7 ∧
      ¬ Keeps 0x81813fbf00868181 0 ∧ ¬ Keeps 0x81813fbf00868181 4 ∧ ¬ Keeps 0x81813fbf00058181 2 := by
  unfold Keeps
  and_intros <;> decide +kernel

def fb : State := { demo with pkg := { demo.pkg with fab := [(0, BitVec.ofNat 2048 (0x1ABCD + 5 ^ 800 * 2 ^ 64)), (65, 0x1FFFF)] } }

def rq (since : Nat) : SlewReq := { core := 0, eng := 0, seq := 1, w := 100, own := 0, since := since }

def lim (clk step : Nat) (w : List SlewReq) : State :=
  let s := onDie fun d => { d with slew := [(0, { step := step, waiting := w, last := 4, granted := [{ core := 1, eng := 1, seq := 1, w := 27 }] })] }
  { s with clk := clk }

def dieA (off : Nat) : Nat := 2 ^ 45 + off

theorem witness_RegisterWrites_1 :
    (0, 2251799813685216#64) ∈ [(0, 2251799813685216#64), (8, -1#64), (16, 18446744069414584447#64), (24, 281470681743487#64),
      (32, 549755813887#64)] ∧
    (8, -1#64) ∈ [(0, 2251799813685216#64), (8, -1#64), (16, 18446744069414584447#64), (24, 281470681743487#64), (32,
      549755813887#64)] ∧
    (16, 18446744069414584447#64) ∈ [(0, 2251799813685216#64), (8, -1#64), (16, 18446744069414584447#64), (24,
      281470681743487#64), (32, 549755813887#64)] ∧
    (24, 281470681743487#64) ∈ [(0, 2251799813685216#64), (8, -1#64), (16, 18446744069414584447#64), (24, 281470681743487#64),
      (32, 549755813887#64)] ∧
    (32, 549755813887#64) ∈ [(0, 2251799813685216#64), (8, -1#64), (16, 18446744069414584447#64), (24, 281470681743487#64),
      (32, 549755813887#64)] ∧
    ((109517#64).getLsbD 16 = true ∧ ∃ j, j < 64 ∧ j ≠ 3 ∧ fb.dcidValid 0 j (bits (109517#64) 0 16) = true) ∧
    (¬((2576460749#64).getLsbD 16 = true ∧ ∃ j, j < 64 ∧ j ≠ 0 ∧ fb.dcidValid 0 j (bits (2576460749#64) 0 16) = true)) ∧
    (¬((43981#64).getLsbD 16 = true ∧ ∃ j, j < 64 ∧ j ≠ 0 ∧ fb.dcidValid 1 j (bits (43981#64) 0 16) = true)) ∧
    (32 ≤ bits (32#64) 0 7 ∧ bits (32#64) 0 7 ≤ 76) ∧
    (32 ≤ bits (128#64 + 76#64) 0 7 ∧ bits (128#64 + 76#64) 0 7 ≤ 76) ∧
    ¬(32 ≤ bits (31#64) 0 7 ∧ bits (31#64) 0 7 ≤ 76) ∧
    ¬(32 ≤ bits (77#64) 0 7 ∧ bits (77#64) 0 7 ≤ 76) := by decide +kernel
/-- The step the boundary of R338 takes, and whether request `r` fits on step `st`. -/
def stepAt (n st : Nat) (r : SlewReq) : Nat :=
  if r.since < n then Nat.min 15 (st + 1) else ((lim n st [r]).die 0).stepFor 0 ((lim n st [r]).dsum 0 0)
def Fits (n st : Nat) (r : SlewReq) (step : Nat) : Prop :=
  (lim n st [r]).dsum 0 0 - r.own + r.w ≤ ((lim n st [r]).die 0).rampAt 0 step ∨ ((lim n st [r]).dsum 0 0 ≤ r.own ∧ step = 15)

theorem witness_RegisterWrites_2 :
    (∀ p < 8, p ≠ 7 → rampRises ((demo.die 0).rampBlk p) = true) ∧ (∀ p < 8, p ≠ 2 → rampRises ((demo.die 0).rampBlk p) = true) ∧
    (∀ k < 15, (if k / 4 = 0 then bits (36029209340018736#64) (16 * (k % 4)) 16 else (demo.die 0).rampAt 7 k) ≤ if
      (k + 1) / 4 = 0 then bits (36029209340018736#64) (16 * ((k + 1) % 4)) 16 else (demo.die 0).rampAt 7 (k + 1)) ∧
    (∀ k < 15, (if k / 4 = 3 then bits (18446467001141494784#64) (16 * (k % 4)) 16 else (demo.die 0).rampAt 2 k) ≤
      if (k + 1) / 4 = 3 then bits (18446467001141494784#64) (16 * ((k + 1) % 4)) 16 else (demo.die 0).rampAt 2 (k + 1)) ∧
    (¬∀ k < 15, (if k / 4 = 3 then bits (288234778560365568#64) (16 * (k % 4)) 16 else (demo.die 0).rampAt 2 k) ≤
      if (k + 1) / 4 = 3 then bits (288234778560365568#64) (16 * ((k + 1) % 4)) 16 else (demo.die 0).rampAt 2 (k + 1)) ∧
    (∀ p < 8, rampRises ((demo.die 0).rampBlk p) = true) ∧
    (lim 1001 3 [rq 990]).clk % 4 ≠ 0 ∧ ((lim 1000 3 []).clk % 4 = 0 ∧ (((lim 1000 3 []).die 0).limiter 0).waiting = []) ∧
    ((lim 1000 3 [rq 996]).clk % 4 = 0 ∧ (((lim 1000 3 [rq 996]).die 0).limiter 0).waiting = [rq 996] ∧
      Fits 1000 3 (rq 996) (stepAt 1000 3 (rq 996))) ∧
    ((lim 1000 2 [rq 996]).clk % 4 = 0 ∧ (((lim 1000 2 [rq 996]).die 0).limiter 0).waiting = [rq 996] ∧
      ¬Fits 1000 2 (rq 996) (stepAt 1000 2 (rq 996))) ∧
    ((lim 1000 12 [rq 1000]).clk % 4 = 0 ∧ (((lim 1000 12 [rq 1000]).die 0).limiter 0).waiting = [rq 1000] ∧
      ¬Fits 1000 12 (rq 1000) (stepAt 1000 12 (rq 1000))) ∧
    ((((lim 1001 4 [rq 997]).die 0).limiter 0).waiting = [rq 997] ∧ Fits 1001 4 (rq 997) 4) ∧
    ((((lim 1001 3 [rq 997]).die 0).limiter 0).waiting = [rq 997] ∧ ¬Fits 1001 3 (rq 997) 3) ∧
    ((2 ^ 48 + 2 ^ 26) % 8 = 0 ∧ bits vv 0 16 ≠ 0) := by
  unfold Fits
  and_intros <;> decide +kernel
theorem witness_RegisterWrites_3 :
    (2 ^ 48 + 16) % 8 = 0 ∧
    (2 ^ 48 + 24) % 8 = 0 ∧
    (2 ^ 48 + 32) % 8 = 0 ∧
    (2 ^ 46 % 8 = 0 ∧ atlasLoc (2 ^ 46) = some (Loc.wing 0) ∧ 1 ≤ bits (3#64 + 2#64 ^ 15 * 1024#64) 15 11 ∧
      bits (3#64 + 2#64 ^ 15 * 1024#64) 15 11 ≤ 1024 ∧ 2 ^ 46 < 2 ^ 48) ∧
    ((2 ^ 46 + 2 ^ 44) % 8 = 0 ∧ atlasLoc (2 ^ 46 + 2 ^ 44) = some (Loc.wing 0) ∧ 1 ≤ bits (3#64 + 2#64 ^ 15) 15 11 ∧
      bits (3#64 + 2#64 ^ 15) 15 11 ≤ 1024 ∧ 2 ^ 46 + 2 ^ 44 < 2 ^ 48) ∧
    (dieA (2 ^ 42 + 8454144) % 8 = 0 ∧ atlasLoc (dieA (2 ^ 42 + 8454144)) = some (Loc.board 1 0) ∧
      dieA (2 ^ 42 + 8454144) < 2 ^ 48) ∧
    (dieA 8454152 % 8 = 0 ∧ atlasLoc (dieA 8454152) = some (Loc.board 0 8) ∧ dieA 8454152 < 2 ^ 48) ∧
    (dieA (12976144 + 7 * 2 ^ 42) % 8 = 0 ∧ atlasLoc (dieA (12976144 + 7 * 2 ^ 42)) = some (Loc.debug 7 16) ∧
      dieA (12976144 + 7 * 2 ^ 42) < 2 ^ 48) := by decide +kernel

end S27

/-! #### Witnesses: Fabric, Firmware -/

namespace S28

def pkgS (f : Pkg → Pkg) : State := { demo with pkg := f demo.pkg }

def hostS (f : HostBlk → HostBlk) : State := pkgS fun p => { p with host := f p.host }

def fabS : State := pkgS fun p => { p with fab := [(3, 0x1ABCD), (67, 0x1FFFF)], lent := [(5, 0, 0, 2, 1, some 99999999), (6, 0, 0, 3, 1, none)] }

def rdy : State := hostS fun h => { h with phase := 4, wbase := 0x4_0000_0000 }

def wimg (n : Nat) : State := hostS fun h => { h with phase := n, isize := 4096, image := [(0, 0x46), (1, 0x4b), (2, 0x57), (3, 0x46)] }

def rep (ring : BitVec 12) (hb fu : Bool) (ca cx fa : Bool := true) : BringUpReport := { ringUp := ring, hbmOk := hb, fuseOk := fu, calOk := ca, cxlOk := cx, cxl := true, linkUp := 0xffff, fabricOk := fa, rank := 7, dsize := 9, ts := 77, calver := 1, bad := [], sym := [], pool := [] }

def wst4 : State := hostS fun h => { h with phase := 1, image := [(9, 1)] }

/-- READY, with a pair that a context owns. -/
def owned4 : State :=
  { wimg 4 with dies := Tab.set (wimg 4).dies 0 { (wimg 4).die 0 with owner := [(0, 0x830000)] }
                cores := Tab.set (wimg 4).cores 0 { (wimg 4).core 0 with pairs := [(2, { tp := 7 }), (3, { tp := 8 })] } }

def win3 : State := { fabS with dies := Tab.set fabS.dies 0 { fabS.die 0 with windows := [(3 * 64, demoWindow 0)], allot := [(3, BitVec.ofNat 32 (100 + 200 * 2 ^ 15))] } }

/-- An access of another package: to a lent range, to an accumulator word of a context with a window, and to one without. -/
def acc (w : Nat) (id : BitVec 16) (rank : Nat) (hbm : Bool) (a : Nat) (op : FabricOp) : FabricAccess :=
  { wing := w, dcid := id, rank := rank, hbm := hbm, addr := a, op := op, agent := 11 }

/-- Pseudo-channel 0 of stack 0 has one request to admit, for a line of the lent range. -/
def asking (s : State) (r : HbmReq) : State :=
  { s with dies := Tab.set s.dies (stackOf (128 * r.line)) { s.die (stackOf (128 * r.line)) with
    mc := { (s.die (stackOf (128 * r.line))).mc with waiting := [(pcOf (128 * r.line), [r])] } } }
def three : List Byte := [1, 2, 3]
theorem witness_Fabric_1 :
    Tab.get 0 demo.pkg.fails 11 < 8 ∧ 8 ≤ Tab.get 0 (pkgS fun p => { p with fails := [(11, 8)] }).pkg.fails 11 ∧
    (∀ j < 64, fabS.dcidValid (acc 1 43981 5 true 0 (.read 8)).wing j (acc 1 43981 5 true 0 (.read 8)).dcid.toNat = false) ∧
    (fabS.dcidCtx 0 43981 = some 3 ∧ fabS.dcidCtx 1 65535 = some 3) ∧
    -- lines of a lent range and beyond it
    (∀ e ∈ [(5, 2 ^ 28 + 126, 2 ^ 21, true), (5, 2 ^ 28 + 126, 2 ^ 21 + 1, true), (5, 2 ^ 28 + 2 ^ 27 - 2, 3 * 2 ^ 20 - 1, true),
        (5, 2 ^ 28 + 2 ^ 27 - 2, 3 * 2 ^ 20, false), (6, 3 * 2 ^ 27, 3 * 2 ^ 20, true)],
      fabS.lentTo e.1 (lineCut e.2.1 three.length e.2.2.1).1 (lineCut e.2.1 three.length e.2.2.1).2 = e.2.2.2 ∧
        e.2.1 + three.length ≤ Config.hbmBytes ∧ fabS.poisoned (lineCut e.2.1 three.length e.2.2.1).1 = false) ∧
    (let r : HbmReq := { src := 9, line := 2 ^ 21, write := false, who := .far (acc 0 43981 5 true (2 ^ 28) (.read 3)) }
     Tab.get [] ((asking fabS r).die 0).mc.waiting (pcOf (2 ^ 28)) = [r] ∧
      (Tab.get [] ((asking fabS r).die 0).mc.queues (pcOf (2 ^ 28))).length < 32) ∧
    (win3.dcidCtx 0 43981 = some 3 ∧ win3.atlasHere 16777231 1 = some (.acc 0 15) ∧ 15 % 5 = 0 ∧
      win3.atTarget (dieOf 0) 3 false (word 16777231) = Except.ok (Target.here 16777231 (.acc 0 15))) ∧
    (fabS.dcidCtx 0 43981 = some 3 ∧ fabS.atlasHere 16777231 1 = some (.acc 0 15) ∧
      fabS.atTarget (dieOf 0) 3 false (word 16777231) = Except.error .window) ∧
    (rdy.pkg.host.phase = 4 ∧ 2 ^ 36 - 3 + three.length ≤ 2 ^ 36 ∧
      rdy.pkg.host.wbase.toNat + (2 ^ 36 - 3) + three.length ≤ Config.hbmBytes) ∧
    (let r : HbmReq := { src := agentPort 7 0, line := 2 ^ 21, write := true, who := .host (2 ^ 28 + 126) 3, data := [(2 ^ 28 + 126, 1), (2 ^ 28 + 127, 2)] }
     Tab.get [] ((asking rdy r).die 0).mc.waiting (pcOf (2 ^ 28)) = [r] ∧
      (Tab.get [] ((asking rdy r).die 0).mc.queues (pcOf (2 ^ 28))).length < 32 ∧ (2 ^ 28 + 126) + three.length ≤ Config.hbmBytes ∧
      rdy.poisoned (lineCut (2 ^ 28 + 126) three.length (2 ^ 21)).1 = false) ∧
    demo.pkg.host.phase ≠ 4 ∧ 2 ^ 36 < 2 ^ 36 - 2 + three.length := by
  and_intros <;> decide +kernel
theorem witness_Firmware_1 :
    (wimg 0).pkg.host.phase = 0 ∧
    (wimg 2).pkg.host.phase ≠ 0 ∧
    (wimg 1).pkg.host.phase = 1 ∧
    (wst4.pkg.host.phase = 1 ∧ leNat (wst4.pkg.host.bytes 0 4) ≠ 1180126022) ∧
    (wimg 2).pkg.host.phase ≠ 3 ∧
    ((wimg 3).pkg.host.phase = 3 ∧ ringConnected (rep (1023#12) true true).ringUp = false) ∧
    ((wimg 3).pkg.host.phase = 3 ∧ ringConnected (rep (4094#12) false true).ringUp = true ∧
      (rep (4094#12) false true).hbmOk = false) ∧
    ((wimg 3).pkg.host.phase = 3 ∧ ringConnected (rep (1407#12) true false).ringUp = true ∧
      (rep (1407#12) true false).hbmOk = true ∧ (rep (1407#12) true false).fuseOk = false) ∧
    ((wimg 3).pkg.host.phase = 3 ∧ ringConnected (rep (4095#12) true true).ringUp = true ∧
      (rep (4095#12) true true).hbmOk = true ∧ (rep (4095#12) true true).fuseOk = true ∧
      (rep (4095#12) true true).calOk = true ∧ (rep (4095#12) true true).cxlOk = true ∧
      (rep (4095#12) true true).fabricOk = true ∧ (rep (4095#12) true true).sym = [] ∧ (rep (4095#12) true true).bad = []) ∧
    (∀ r ∈ [rep 4095 true true false, rep 4095 true true true false, rep 4095 true true true true false],
      ringConnected r.ringUp = true ∧ r.hbmOk = true ∧ r.fuseOk = true) ∧
    (rep 4095 true true false).calOk = false ∧
    ((rep 4095 true true true false).calOk = true ∧ (rep 4095 true true true false).cxlOk = false) ∧
    ((rep 4095 true true true true false).calOk = true ∧ (rep 4095 true true true true false).cxlOk = true ∧
      (rep 4095 true true true true false).fabricOk = false) ∧
    (wimg 4).pkg.host.phase = 4 ∧
    ((Tab.get 0 (owned4.die 0).owner 0).getLsbD (8 * 2 + 7) = true ∧ owned4.pkg.host.phase = 4) := by decide +kernel

end S28

/-! #### Witnesses: HostCommands -/

namespace S29

def hostS (f : HostBlk → HostBlk) : State := { demo with pkg := { demo.pkg with host := f demo.pkg.host } }

def cmdOf (opc tag : Nat) (rest : Nat) : BitVec 512 := BitVec.ofNat 512 (opc + tag * 2 ^ 16 + rest * 2 ^ 64)

def rdyC (cmd : BitVec 512) : State := hostS fun h => { h with phase := 4, ring := [cmd, 0xff], head := 0xfff }

def heldTile (cmd : BitVec 512) : State :=
  let s := rdyC cmd
  { s with cores := Tab.set s.cores 0 { s.core 0 with eng := { (s.core 0).eng with mx := some { id := 0x810, seq := 0, u := 0, dc := 9, dt := 9, started := true } } } }

/-- Core 0 is halted. -/
def haltedS (cmd : BitVec 512) : State :=
  { rdyC cmd with cores := Tab.set (rdyC cmd).cores 0 { (rdyC cmd).core 0 with halted := true } }

def l1 : BitVec 512 := cmdOf 1 0xBEEF (7 + 63 * 2 ^ 8 + 0x1234567890abcdef * 2 ^ 64)

def l2 : BitVec 512 := cmdOf 1 0xBEEF (8 + 63 * 2 ^ 8)

def sg : BitVec 512 := cmdOf 2 0x1 (0x100000F + 0xfffffffe * 2 ^ 64)

def rs : BitVec 512 := cmdOf 3 0x1 (0x100000F)

def opC (ctx mask plan : Nat) : BitVec 512 := cmdOf 5 0x77 (ctx + mask * 2 ^ 8 + plan * 2 ^ 64)

def plan (n : Nat) (es : List (Nat × Nat)) (s : State) : State :=
  { s with mem := ((es.zip (List.range 9)).foldl (fun m (e : (Nat × Nat) × Nat) => (List.range 8).foldl (fun m k => Mem.put (Mem.put m (0x1000080 + 16 * e.2 + k) (BitVec.ofNat 8 (e.1.1 / 256 ^ k))) (0x1000088 + 16 * e.2 + k) (BitVec.ofNat 8 (e.1.2 / 256 ^ k))) m) (Mem.put s.mem 0x1000000 (BitVec.ofNat 8 n))) }

def full (s : State) : State :=
  { s with dies := Tab.set s.dies 0 { s.die 0 with allot := [(5 * 128, BitVec.ofNat 32 (100 + 7 * 2 ^ 15))], bind := [], board := { (s.die 0).board with tokens := [(5 * 65536 + 9, 3)] } }
           cores := Tab.set s.cores 0 { s.core 0 with vrf := [(100, 5), (106, 6), (107, 7)], absent := [(101, true)] } }

def opS (e : Nat × Nat) : State := full (plan 1 [e] (rdyC (opC 5 1 0x1000000)))

def goodE : Nat × Nat := (2 ^ 45 + 0x810020 + 8 * 5, 16 * 2 ^ 12 + 4 * 2 ^ 44 + 5)

def wst1 : State := hostS fun h => { h with tail := 0xfff, ring := [3] }

/-- A BAR2 access received before the command waits. -/
def waitsBar2 : State :=
  { rdyC l1 with pkg := { (rdyC l1).pkg with host := { (rdyC l1).pkg.host with
    posted := [{ src := agentPort 7 0, line := 5, write := false, who := .host 640 4 }] } } }
theorem witness_HostCommands_1 :
    ¬(demo.pkg.host.phase = 4 ∧ demo.pkg.host.ring.head? = some l1) ∧
    ¬((rdyC l1).pkg.host.phase = 4 ∧ (rdyC l1).pkg.host.ring.head? = some (cmdOf 0 3 4)) ∧
    ((rdyC (cmdOf 0 3 4)).pkg.host.phase = 4 ∧ (rdyC (cmdOf 0 3 4)).pkg.host.ring.head? = some (cmdOf 0 3 4) ∧
      (bits (cmdOf 0 3 4) 0 8 = 0 ∨ 6 < bits (cmdOf 0 3 4) 0 8)) ∧
    ((rdyC (cmdOf 7 3 4)).pkg.host.phase = 4 ∧ (rdyC (cmdOf 7 3 4)).pkg.host.ring.head? = some (cmdOf 7 3 4) ∧
      (bits (cmdOf 7 3 4) 0 8 = 0 ∨ 6 < bits (cmdOf 7 3 4) 0 8)) ∧
    ((rdyC l1).pkg.host.phase = 4 ∧ (rdyC l1).pkg.host.ring.head? = some l1 ∧ bits l1 0 8 = 1 ∧ bits l1 64 8 < 8 ∧
      bits l1 72 8 < 64) ∧
    ((rdyC l2).pkg.host.phase = 4 ∧ (rdyC l2).pkg.host.ring.head? = some l2 ∧ bits l2 0 8 = 1 ∧
      (8 ≤ bits l2 64 8 ∨ 64 ≤ bits l2 72 8)) ∧
    ((rdyC (cmdOf 2 1 0)).pkg.host.phase = 4 ∧ (rdyC (cmdOf 2 1 0)).pkg.host.ring.head? = some (cmdOf 2 1 0) ∧
      bits (cmdOf 2 1 0) 0 8 = 2 ∧ (rdyC (cmdOf 2 1 0)).hostWord (BitVec.extractLsb' 64 64 (cmdOf 2 1 0)) = none) ∧
    ((rdyC sg).pkg.host.phase = 4 ∧ (rdyC sg).pkg.host.ring.head? = some sg ∧ bits sg 0 8 = 2 ∧
      (rdyC sg).hostWord (BitVec.extractLsb' 64 64 sg) = some (Sum.inl (0, 3)) ∧
      ((rdyC sg).core 0).tileHeld (3 / 4096) = false) ∧
    ((heldTile sg).pkg.host.phase = 4 ∧ (heldTile sg).pkg.host.ring.head? = some sg ∧ bits sg 0 8 = 2 ∧
      (heldTile sg).hostWord (BitVec.extractLsb' 64 64 sg) = some (Sum.inl (0, 3)) ∧
      ((heldTile sg).core 0).tileHeld (3 / 4096) = true) ∧
    ((rdyC rs).pkg.host.phase = 4 ∧ (rdyC rs).pkg.host.ring.head? = some rs ∧ bits rs 0 8 = 3 ∧
      (rdyC rs).hostWord (BitVec.extractLsb' 64 64 rs) = some (Sum.inl (0, 3)) ∧
      ((rdyC rs).core 0).tileHeld (3 / 4096) = false) ∧
    ((heldTile rs).pkg.host.phase = 4 ∧ (heldTile rs).pkg.host.ring.head? = some rs ∧ bits rs 0 8 = 3 ∧
      (heldTile rs).hostWord (BitVec.extractLsb' 64 64 rs) = some (Sum.inl (0, 3)) ∧
      ((heldTile rs).core 0).tileHeld (3 / 4096) = true) ∧
    (∀ e ∈ [rdyC l1, rdyC sg, heldTile rs, haltedS sg], e.pkg.host.posted = [] ∧ e.hostAsks = false ∧ e.NoAwait) ∧
    ¬(waitsBar2.pkg.host.phase = 4 ∧ waitsBar2.pkg.host.ring.head? = some l1 ∧ waitsBar2.pkg.host.posted = []) ∧
    ((haltedS sg).pkg.host.ring.head? = some sg ∧ (haltedS sg).hostWord (sg.extractLsb' 64 64) = some (.inl (0, 3)) ∧
      ((haltedS sg).core 0).halted = true) ∧
    ((haltedS rs).pkg.host.ring.head? = some rs ∧ (haltedS rs).hostWord (rs.extractLsb' 64 64) = some (.inl (0, 3))) ∧
    (((rdyC sg).core 0).halted = false ∧ ((rdyC rs).core 0).halted = false) := by
  simp only [List.forall_mem_cons]
  and_intros <;> first | exact List.forall_mem_nil _ | exact noAwait_of (by decide +kernel) | decide +kernel

/-- The reads of an OPEN's plan have been admitted. -/
def given (s : State) (l : List AgentRead) : State :=
  { s with dies := (List.range 8).map fun d => (d, { s.die d with mc := { (s.die d).mc with
    turns := l.map fun e => (e.1, e.2, 0, true) } }) }
def planRead (s : State) (p : Nat) : State :=
  let s1 := given s ((W.of s).planReads p)
  given s1 ((W.of s1).planReads p)
def pw (s : State) (p : Nat) : W := (W.of s).takeReads ((W.of s).planReads p)
/-- Such a state, whose plan has `n` entries and is read without error. -/
def PlanRead (s : State) (p n : Nat) : Prop :=
  s.admitted ((W.of s).planReads p) = true ∧ (pw s p).hbmNat p 4 = n ∧ (pw s p).badLine p = false ∧
    (∀ a ∈ lineAddrs (p + 128) (16 * n), (pw s p).badLine a = false) ∧ s.pkg.host.posted = [] ∧ s.hostAsks = false
def entries (s : State) : List (Nat × Word) := (pw s 0x1000000).planEntries 0x1000000 1
def opR (e : Nat × Nat) : State := planRead (opS e) 0x1000000
def opened (s : State) : W := (entries s).foldl (fun w e => w.registerWrite e.1 e.2) (pw s 0x1000000)
theorem witness_HostCommands_open :
    ((opS goodE).admitted ((W.of (opS goodE)).planReads 0x1000000) = false ∧ (opS goodE).pkg.host.posted = [] ∧
      (opS goodE).hostAsks = false ∧ (opS goodE).pkg.host.phase = 4 ∧ (opS goodE).pkg.host.ring.head? = some (opC 5 1 0x1000000)) ∧
    -- refused: no such context, no entries, an open context
    (PlanRead (planRead (rdyC (opC 64 1 0)) 0) 0 0 ∧ 64 ≤ bits (opC 64 1 0) 64 8 ∧
      (planRead (rdyC (opC 64 1 0)) 0).pkg.host.ring.head? = some (opC 64 1 0)) ∧
    (PlanRead (planRead (rdyC (opC 5 1 128)) 128) 128 0) ∧
    (let s := planRead (plan 1 [goodE] (rdyC (opC 0 1 0x1000000))) 0x1000000
     PlanRead s 0x1000000 1 ∧ ∃ d ∈ maskDies (bits (opC 0 1 0x1000000) 72 8), s.isOpen d (bits (opC 0 1 0x1000000) 64 8) = true) ∧
    (∀ e ∈ [(3, 4), goodE],
      let cmd := opC 5 1 0x1000000
      let s := opR e
      PlanRead s 0x1000000 1 ∧ s.pkg.host.phase = 4 ∧ s.pkg.host.ring.head? = some cmd ∧ bits cmd 0 8 = 5 ∧
        bits cmd 64 8 < 64 ∧ bits cmd 128 64 = 0x1000000 ∧ 0x1000000 + 128 + 16 * 1 ≤ Config.hbmBytes ∧
        (pw s 0x1000000).hbmNat (0x1000000 + 6) 1 < 2 ∧ (pw s 0x1000000).hbmNat (0x1000000 + 7) 121 = 0 ∧
        (∀ d ∈ maskDies (bits cmd 72 8), s.isOpen d (bits cmd 64 8) = false)) ∧
    (∃ e ∈ entries (opR (3, 4)), (opR (3, 4)).planOk 5 1 e = false) ∧
    ((∀ e ∈ entries (opR goodE), (opR goodE).planOk 5 1 e = true) ∧
      ∀ d ∈ maskDies 1, (opened (opR goodE)).rangesFree d 5 = true ∧ (opened (opR goodE)).windowsFit d 5 = true) := by
  unfold PlanRead
  simp only [List.forall_mem_cons]
  and_intros <;> decide +kernel

def clC : BitVec 512 := cmdOf 6 1 (0 + 2 ^ 8)
/-- CLOSE of context 0 on die 0, with a token of it on its way and without, and one that has begun. -/
def closes (busy : Bool) : State :=
  let s := rdyC clC
  { s with dies := Tab.set s.dies 0 { s.die 0 with board := { (s.die 0).board with
    intok := if busy then [{ die := 0, ctx := 0, tok := 5 }] else [] } } }
def closing (s : State) : W := ((W.of s).closeBegin 0 0).closeLost 0 0
def begun : State := { rdyC clC with pkg := { (rdyC clC).pkg with host := { (rdyC clC).pkg.host with begun := true } } }
theorem witness_HostCommands_close :
    (∀ e ∈ [closes false, closes true], e.pkg.host.phase = 4 ∧ e.pkg.host.ring.head? = some clC ∧ e.pkg.host.posted = [] ∧
      e.hostAsks = false ∧ e.pkg.host.begun = false ∧ e.pkg.closing = [] ∧ e.pkg.opens = [0 * 64 + 0]) ∧
    (bits clC 0 8 = 6 ∧ bits clC 72 8 = 2 ^ 0 ∧ bits clC 64 8 < 64) ∧
    (closing (closes false)).closeOver 0 0 = true ∧ (closing (closes true)).closeOver 0 0 = false ∧
    (begun.pkg.host.ring.head? = some clC ∧ begun.pkg.host.begun = true ∧ begun.pkg.closing = [] ∧ begun.pkg.host.posted = [] ∧
      begun.hostAsks = false) ∧
    ((rdyC (cmdOf 6 1 (63 + 2 ^ 15))).pkg.host.ring.head? = some (cmdOf 6 1 (63 + 2 ^ 15)) ∧
      bits (cmdOf 6 1 (63 + 2 ^ 15)) 72 8 = 2 ^ 7 ∧ bits (cmdOf 6 1 (63 + 2 ^ 15)) 64 8 < 64) ∧
    { demo with pkg := { demo.pkg with opens := [] } }.pkg.opens = [] ∧
    [4#512].length = (1#12 - (rdyC 3#512).pkg.host.tail).toNat ∧
    [4#512, 5#512, 6#512].length = (2#12 - wst1.pkg.host.tail).toNat ∧
    [4#512].length ≠ (0#12 - (rdyC 3#512).pkg.host.tail).toNat := by
  simp only [List.forall_mem_cons]
  and_intros <;> first | exact List.forall_mem_nil _ | decide +kernel

end S29

/-! #### Witnesses: DebugAndTelemetry -/

namespace S30

def two (f : Core → Core) : State := { demo with cores := Tab.set (Tab.set (Tab.set demo.cores 0 (f (demo.core 0))) 1 { demo.core 1 with ctx := some 0, halted := true, chanHalt := true }) 200 { demo.core 200 with ctx := some 0, mode := .stopped } }

def stoppedD : State :=
  let s := onDie fun d => { d with dbg := { d.dbg with stop := 1, halted := 0x8000000000000000 } }
  { s with cores := Tab.set s.cores 0 { s.core 0 with halted := true } }

def wst1 : State := two fun k => { k with mode := .stopped }

def tele (g : List (Nat × HeldPage)) (hd en : Nat) : State :=
  let s := onDie fun d => { d with gaz := g }
  { s with pkg := { s.pkg with tele := [(5, BitVec.ofNat 512 (0x1000 + 4 * 2 ^ 64 + en * 2 ^ 104 + hd * 2 ^ 128))], teleSeq := [(5, 0x01020304)] } }

def pg : HeldPage := { va := 0, size := 32768, leaf := 0x1800f }

def notDue : State := let s := tele [] 3 1; { s with pkg := { s.pkg with teleDue := [(5, s.ts + 1)] } }

/-- Core 0, stopped, runs record 0, bound to the core or not. -/
def stoppedRec (bound : Bool) : State :=
  let s := onCore fun k => { k with mode := .stopped, running := some { img := if bound then demoImg else 0x1234, e := 3, since := 0 } }
  { s with dies := Tab.set s.dies 0 { s.die 0 with board := { (s.die 0).board with recs := [(0, { ctx := 0, img := if bound then demoImg else 0x1234, run := true })] } } }

/-- A die without a halt, and one whose RESUME's drain is due. -/
def drainD (on : Bool) : State := onDie fun d => { d with dbg := { d.dbg with stop := 0, drain := if on then 1 else 0 } }

/-- A page without the write right. -/
def roPg : HeldPage := { va := 0, size := 32768, leaf := 0x18003 }

/-- A context whose page table root is 0: no leaf. -/
def noPg : State := tele [] 3 1

/-- Core 0 has a completion event that waits for a full, or a free, event queue. -/
def evS (n : Nat) : State := onCore fun k => { k with stepPend := [7, 8], stepq := List.replicate n 1 }

def pageOf (s : State) : Option HeldPage :=
  let b : BitVec 512 := Tab.get 0 s.pkg.tele 5
  ((W.of s).telePage 5 (bits b 0 64 + 64 * bits b 128 24)).toOption.map (·.1)
def dueB (s : State) : Bool :=
  (Tab.get (0#512) s.pkg.tele 5).getLsbD 104 && decide (Tab.get 0 s.pkg.teleDue 5 ≤ s.ts)
theorem witness_DebugAndTelemetry_1 :
    (dieOf 0 = 0 ∧ (0 < 1024 ∧ (wst1.core 0).ctx = some 0 ∧ (false = true ∨ dieOf 0 = 0)) ∧ (wst1.core 0).mode = Mode.stopped) ∧
    (dieOf 0 = 0 ∧ (0 < 1024 ∧ ((two id).core 0).ctx = some 0 ∧ (false = true ∨ dieOf 0 = 0)) ∧
      ((two id).core 0).mode ≠ Mode.stopped) ∧
    (stoppedD.die 0).dbg.stop.getLsbD 0 = true ∧
    (demo.die 0).dbg.stop.getLsbD 0 = false ∧
    (Tab.get (0#512) demo.pkg.tele 0).getLsbD 104 = false ∧
    (dieOf 0 = 0 ∧ ((stoppedRec true).core 0).mode = .stopped ∧
      ((stoppedRec true).core 0).running.map (·.img.getLsbD 464) = some true ∧
      ((stoppedRec true).die 0).board.entry 0 = some { ctx := 0, img := demoImg, run := true }) ∧
    (((stoppedRec false).core 0).mode = .stopped ∧ ((stoppedRec false).core 0).running.map (·.img.getLsbD 464) = some false) ∧
    (((drainD false).die 0).dbg.stop.getLsbD 0 = false ∧ ((drainD false).die 0).dbg.drain.getLsbD 0 = false) ∧
    (((drainD true).die 0).dbg.stop.getLsbD 0 = false ∧ ((drainD true).die 0).dbg.drain.getLsbD 0 = true ∧
      ∀ e ∈ (drainD true).cores, e.2.ats = []) ∧
    (((evS 15).core 0).stepPend.head? = some 7 ∧ ((evS 15).core 0).stepq.length < 16) ∧
    (((evS 16).core 0).stepPend.head? = some 7 ∧ 16 ≤ ((evS 16).core 0).stepq.length) ∧
    (dueB noPg = true ∧ pageOf noPg = none) ∧
    notDue.ts < Tab.get 0 notDue.pkg.teleDue 5 ∧
    (dueB (tele [(5, roPg)] 3 1) = true ∧ pageOf (tele [(5, roPg)] 3 1) = some roPg ∧ roPg.wr = false) ∧
    (dueB (tele [(5, pg)] 3 1) = true ∧ pageOf (tele [(5, pg)] 3 1) = some pg ∧ pg.wr = true ∧ pg.remote = none ∧
      bits (Tab.get (0#512) (tele [(5, pg)] 3 1).pkg.tele 5) 192 64 = 0 ∧
      pg.pa (bits (Tab.get (0#512) (tele [(5, pg)] 3 1).pkg.tele 5) 0 64 + 64 * 3) % 64 = 0) ∧
    (dueB (tele [(5, pg)] 2 1) = true ∧ pageOf (tele [(5, pg)] 2 1) = some pg ∧
      pg.pa (bits (Tab.get (0#512) (tele [(5, pg)] 2 1).pkg.tele 5) 0 64 + 64 * 2) % 64 = 0) := by
  and_intros <;> decide +kernel

end S30

/-- No other core of the die is idle with a right to the record: the prompt's remaining hypothesis. -/
theorem witness_Dispatching_idle : ∀ o, dieOf o = 0 → (S21.prm 956).idleCore o = true →
    (S21.prm 956).eligible o S21.ready0 = false := by
  have h : ∀ o, o < 128 → (S21.prm 956).idleCore o = true → (S21.prm 956).eligible o S21.ready0 = false := by decide +kernel
  intro o ho
  exact h o (by unfold dieOf at ho; omega)

/-- Every core of the context is halted with nothing in flight: the drain's remaining hypothesis. -/
theorem witness_DebugAndTelemetry_idle : ∀ c, c < 1024 ∧ (S30.stoppedD.core c).ctx = some 0 ∧ (false = true ∨ dieOf c = 0) →
    (S30.stoppedD.core c).halted = true ∧ (S30.stoppedD.core c).stepArm = false ∧ (S30.stoppedD.core c).quiet = true := by
  have h : ∀ c, c < 128 → (S30.stoppedD.core c).ctx = some 0 → (S30.stoppedD.core c).halted = true ∧
      (S30.stoppedD.core c).stepArm = false ∧ (S30.stoppedD.core c).quiet = true := by decide +kernel
  intro c ⟨_, hc, hd⟩
  exact h c (by simp only [Bool.false_eq_true, false_or] at hd; unfold dieOf at hd; omega) hc

/-! ### Worked examples of the spec -/

/-- The examples of 02 and 06: SETFMT 37 and SETWIN 1000, 4, both in energy class 0. -/
theorem test_control_examples :
    decodeBundle 0x02800025 = .setfmt 0 37 ∧ decodeBundle 0x02C203E8 = .setwin 0 4 1000 := by decide +kernel

/-- 03 R71, R72: the example: HBM address 0x24C480. -/
theorem test_hbm_address :
    stackOf 0x24C480 = 1 ∧ pcOf 0x24C480 = 6 ∧ bankOf 0x24C480 = 9 ∧ rowOf 0x24C480 = 0 := by decide +kernel

/-- Legend 37 of 02 R64's example: SG 1, EW 3, MW 4, BIAS 3, BOUND 0x78, usable. -/
def legend37 : Legend := BitVec.ofNat 128 (4 + 3 * 2 ^ 4 + 2 ^ 7 + 3 * 2 ^ 8 + 0x78 * 2 ^ 16 + 2 ^ 48)
theorem test_legend37 :
    (legend37.decode 0x7F).toFP32 = 0x41F80000 ∧ (legend37.decode 0x01).toFP32 = 0x3C800000 ∧
    scaleExp legend37 1 0x40A9999A = (-2, false) ∧
    legend37.encode (fp32 0x3FA66666) (-2) = (0x55, false) ∧ legend37.encode (fp32 0xC0A9999A) (-2) = (0xF5, false) ∧
    legend37.encode (fp32 0x40E00000) (-2) = (0x78, true) ∧ legend37.encode (fp32 0x3B83126F) (-2) = (0x01, false) ∧
    legend37.encode (fp32 0xBA83126F) (-2) = (0x00, false) ∧ (legend37.wide 0x55 (-2)).toBF16 = 0x3FA8 := by
  decide +kernel

/-- 02 R69's example: 2^40, -2^40, 3*2^-16 and C = 2^-20 give 2^-15. -/
theorem test_matrix_step :
    matrixStep [.fin false 1 40, .fin true 1 40, .fin false 3 (-16)] 0x3580000000 = 0x3800000000 := by decide +kernel

/-- 07 R175's examples: 2.5 gives 2, -3.5 gives -4. -/
theorem test_to_integer : (fp32 0x40200000).toIntRne = 2 ∧ (fp32 0xC0600000).toIntRne = -4 := by decide +kernel

/-- 09's forward-read example: a 2 by 2 window gives 0x3D9A and 0xBDBD, one conversion clamped. -/
theorem test_forward_read :
    arrayRead
      { nC := [(0, 100), (1, -20), (1025, 50)], nF := [(0, 3), (1024, -2), (1025, 7)], sRow := [(0, 1)], sCol := [(1, -1)]
        gamma := 0x3F00, wstep := 0x3A80 }
      { id := 0x891, ports := [0, 0, 2, 0, 2, 0, 1, 0, 0, 20, 0x1004, 4, 0, 0], seq := 0, u := 0, dc := 0, dt := 0, ex := 0
        buf := [(0, 0xBFC03F40)] } = ([0x3D9A, 0xBDBD], 0, 1) := by decide +kernel
end Sys2Proof.Tests
end

section
/-!
The decoder inverts the encoder (01 R10..R12): slot by slot, then for the bundle that holds one slot, then for its bytes.
-/

namespace Sys2Proof

/-- What the slot decoders read from an encoded slot. -/
def Encoded.decode : Encoded → Except DecodeError Instr
  | .control w => decodeControl w
  | .moveSlot w => decodeMove w

/-! ### Move slots -/

/-- A destination id below the hint region that starts an operation decodes to it. -/
theorem decodeMove_trigger {g m : BitVec 4} {d s : BitVec 12} {i : Instr}
    (h : triggerInstr d.toNat ⟨g, s, m⟩ = some (.ok i)) (hd : d.toNat < 0xF00 := by decide) :
    decodeMove (moveWord g d s m) = .ok i := by
  simp [decodeMove, Nat.not_le.mpr hd, h]

/-- The ids whose modifier selects a form. -/
theorem formInstr_isSome (d : Nat) (f : Slot) :
    (formInstr d f).isSome = decide (d ∈ [0x2c3, 0x2c4, 0x847, 0x905, 0x8c2]) := by
  simp only [formInstr]
  split_ifs <;> try split
  all_goals simp [*]

/-- Whether a destination id is a trigger does not depend on the other fields of its slot. -/
theorem triggerInstr_isSome (d : Nat) (f f' : Slot) : (triggerInstr d f).isSome = (triggerInstr d f').isSome := by
  have hform : (formInstr d f).isSome = (formInstr d f').isSome := by
    rw [formInstr_isSome, formInstr_isSome]
  unfold triggerInstr
  repeat' split
  all_goals simp_all

theorem decodeMove_plain {g m : BitVec 4} {d s : BitVec 12} (h : plainDest d = true) :
    decodeMove (moveWord g d s m) = .ok (.move g d s m) := by
  simp only [plainDest, Bool.and_eq_true, decide_eq_true_eq, Option.isNone_iff_eq_none] at h
  obtain ⟨hd, ht⟩ := h
  have hn : triggerInstr d.toNat ⟨g, s, m⟩ = none := by
    have := triggerInstr_isSome d.toNat ⟨g, s, m⟩ ⟨0, 0, 0⟩
    rwa [ht, Option.isSome_none, Option.isSome_eq_false_iff, Option.isNone_iff_eq_none] at this
  simp [decodeMove, Nat.not_le.mpr hd, hn]

/-- A hint's destination lies in the hint region (01 R26). -/
theorem hintDest_le (h : BitVec 8) : 0xF00 ≤ @BitVec.toNat 12 ((0xF : BitVec 4) ++ h) := by
  show 0xF00 ≤ ((0xF : BitVec 4) ++ h).toNat
  rw [BitVec.toNat_append]
  exact Nat.left_le_or (n := 0xF00)

theorem decodeMove_hint (g : BitVec 4) (h : BitVec 8) (s : BitVec 12) (m : BitVec 4) :
    decodeMove (moveWord g ((0xF : BitVec 4) ++ h) s m) = .ok (.hint g h s m) := by
  simp only [decodeMove, slotG_moveWord, slotD_moveWord, slotS_moveWord, slotM_moveWord, if_pos (hintDest_le h)]
  exact congrArg (fun x => Except.ok (Instr.hint g x s m)) (extract_lo2 (0xF : BitVec 4) h)

/-- An integer trigger decodes to the operation that the integer table lists at its offset, on its unit (01 R30). -/
theorem decodeMove_int {k : BitVec 6} {i : BitVec 1 → Slot → Instr} (u : BitVec 1) (f : Slot)
    (h : intTable.lookup k.toNat = some i) :
    decodeMove (moveWord f.g ((0b00010 : BitVec 5) ++ u ++ k) f.s f.m) = .ok (i u f) := by
  have hid : @BitVec.toNat 12 ((0b00010 : BitVec 5) ++ u ++ k) = 0x100 + 0x40 * u.toNat + k.toNat := Machine.intId_toNat u k
  have hk := k.isLt
  have hu : u = 0 ∨ u = 1 := (by decide : ∀ u : BitVec 1, u = 0 ∨ u = 1) u
  refine decodeMove_trigger ?_ (by rw [hid]; omega)
  rw [hid]
  rcases hu with rfl | rfl
  · simp only [triggerInstr]
    rw [if_pos (by simp; omega)]
    simp [h]
  · simp only [triggerInstr]
    rw [if_neg (by simp; omega), if_pos (by simp; omega)]
    simp [h]

/-! ### Every encoded slot -/

/-- Every well-formed slot operation is what the decoder reads from its slot word. -/
theorem decode_encodeSlot {i : Instr} {e : Encoded} (hw : i.wf = true) (h : encodeSlot i = some e) :
    e.decode = .ok i := by
  cases i
  case move g d s m =>
    cases h
    simp only [Instr.wf, Bool.and_eq_true] at hw
    exact decodeMove_plain hw.1
  case hint g x s m => cases h; exact decodeMove_hint g x s m
  case cnop e => cases h; exact decodeControl_cnop e
  case br e d => cases h; exact decodeControl_br e d
  case brp e v p d => cases h; exact decodeControl_brp e v p d
  case call e d => cases h; exact decodeControl_call e d
  case ret e => cases h; exact decodeControl_ret e
  case jr e n => cases h; exact decodeControl_jr e n
  case loopm e l t n => cases h; exact decodeControl_loopm e l t n
  case loopx e => cases h; exact decodeControl_loopx e
  case lit e v => cases h; exact decodeControl_lit e v
  case lith e v => cases h; exact decodeControl_lith e v
  case setfmt e f => cases h; exact decodeControl_setfmt e f
  case setwin e r b => cases h; exact decodeControl_setwin e r b
  case start e x y z => cases h; exact decodeControl_start e x y z
  case waite e m => cases h; exact decodeControl_waite e m
  case fence e s k => cases h; exact decodeControl_fence e s k
  case suspend e k n d => cases h; exact decodeControl_suspend e k n d
  case yield e => cases h; exact decodeControl_yield e
  case trap e c => cases h; exact decodeControl_trap e c
  case rtrap e => cases h; exact decodeControl_rtrap e
  case bkpt e => cases h; exact decodeControl_bkpt e
  case chint e h v => cases h; exact decodeControl_chint e h v
  case add u f | sub u f | mul u f | mulh u f | mulhu u f | div u f | divu u f | rem u f | remu u f | and u f | or u f |
      xor u f | andn u f | orn u f | shl u f | shr u f | sar u f | rol u f | min u f | max u f | minu u f | maxu u f |
      clz u f | ctz u f | popc u f | bswap u f | sext u f | zext u f | bext u f | ceq u f | cne u f | clt u f |
      cltu u f | cle u f | cleu u f | clmull u f | clmulh u f | pass u f | lea u f =>
    cases h; exact decodeMove_int u f rfl
  case ldl f | ldsB f | ldsH f | ldsW f | ldsD f | ldsxB f | ldsxH f | ldsxW f | stl f | stln f | stlm f | stsB f |
      stsH f | stsW f | stsD f | lda f | sta f | hmake f | hgive f | htake f | hrel f | vadd f | vsub f | vmul f |
      vfma f | vfms f | vnfma f | vmin f | vmax f | vabs f | vneg f | vclamp f | vscale f | vcmplt f | vcmple f |
      vcmpeq f | vsel f | vsum f | vmaxr f | vdot f | vstat f | vbcast f | vshuf f | vwidenl f | vwidenh f | vnarrow f |
      vcvtif f | vcvtfi f | pprob f | qnt f | dqnt f | qscale f | exp f | exp2 f | ln f | log2 f | rcp f | rsqrt f |
      sqrt f | tanh f | sigm f | gelu f | silu f | erf f | svrst f | svrd f | svnote f | svmerge f | svtrap f | ald f |
      ast f | aadd f | amax f | amin f | aswap f | acas f | abind f | aunbind f | awaitge f | spawn f | toksend f |
      barc f | barq f | ctlr f | ctlw f | tlbinv f | slewreq f | filler f | stcfg f | stgo f | ststop f | ststat f |
      mma f | mmaz f | mmat f | mmatz f | accrd f | accwr f | accadd f | accz f | accspill f | accfill f | xmode f |
      xfwd f | xbwd f | xupd f | xfer f | xgamma f | xspw f | xspr f | xseed f | xrdavg f | xprg f | xrst f | xstat f |
      tplw f | gqpush f | cpwait f | cpstat f | cpabort f | pusht f | popt f | lease f | unlease f =>
    cases h; exact decodeMove_trigger rfl
  case widfExtractWid f | widfExtractOperand f | widfInsert f | phaseUnit f | phaseBound f | acctsStatus f |
      acctsLoad f | acctsRewind f | lstatSlot f | lstatDeadline f | lstatStack f =>
    cases h; exact decodeMove_trigger rfl
  case cpgo f c =>
    cases h
    refine decodeMove_trigger ?_
    have hm : (0#1 ++ c).toNat < 8 := by rw [BitVec.toNat_append]; simpa using c.isLt
    exact congrArg (fun r => some (Except.ok r)) ((if_pos hm).trans (congrArg (Instr.cpgo f) (extract_lo2 0#1 c)))
  case cpgoResume f c =>
    cases h
    refine decodeMove_trigger ?_
    have hm : ¬ (1#1 ++ c).toNat < 8 := by
      rw [BitVec.toNat_append]; exact Nat.not_lt.mpr (Nat.left_le_or (n := 8))
    exact congrArg (fun r => some (Except.ok r)) ((if_neg hm).trans (congrArg (Instr.cpgoResume f) (extract_lo2 1#1 c)))
  all_goals cases h

/-- The word of a well-formed move slot is not the empty slot (01 R13). -/
theorem encodeSlot_ne_zero {i : Instr} {w : BitVec 32} (hw : i.wf = true) (h : encodeSlot i = some (.moveSlot w)) :
    w ≠ 0 := by
  rintro rfl
  have hi : i = .move 0 0 0 0 := Except.ok.inj ((decode_encodeSlot hw h).symm.trans (by rfl : decodeMove 0 = _))
  subst hi
  exact absurd hw (by decide)

/-! ### The bundle of one slot, and its bytes (01 R10) -/

/-- The bundle of a slot that is no empty move decodes as the slot does. -/
theorem decodeBundle_bundle {e : Encoded} {i : Instr} (h0 : e ≠ .moveSlot 0) (h : e.decode = .ok i) :
    decodeBundle e.bundle = i := by
  cases e with
  | control w =>
    have hrest : (Encoded.control w).bundle.extractLsb' 32 224 = 0 := by
      apply BitVec.eq_of_getLsbD_eq
      intro k _
      simp [Encoded.bundle]
    simp only [decodeBundle, hrest, if_true, bundleSlot_control]
    rw [show decodeControl w = .ok i from h]
  | moveSlot w =>
    have hw : w ≠ 0 := fun hw => h0 (congrArg _ hw)
    have hslot : bundleSlot (Encoded.moveSlot w).bundle 1 =
        ((Encoded.moveSlot w).bundle.extractLsb' 32 224).extractLsb' 0 32 := by
      apply BitVec.eq_of_getLsbD_eq
      intro k hk
      simp [bundleSlot, hk, show k < 224 by omega]
    have hrest : (Encoded.moveSlot w).bundle.extractLsb' 32 224 ≠ 0 := by
      intro hz
      rw [hz, bundleSlot_moveSlot] at hslot
      exact hw hslot
    have htop : (Encoded.moveSlot w).bundle.extractLsb' 64 192 = 0 := by
      apply BitVec.eq_of_getLsbD_eq
      intro k hk
      simp [Encoded.bundle, hk, BitVec.getLsbD_of_ge w (64 + k - 32) (by omega)]
    have h01 : (if 0 = 1 then w else 0) = 0 := if_neg (by decide)
    simp only [decodeBundle, hrest, if_false, bundleSlot_moveSlot, htop, h01, if_true, and_self]
    rw [show decodeMove w = .ok i from h]

/-- Bytes `j`, `j + 1`, … of a bundle in little-endian order are its bits from `8 j` on. -/
theorem leNat_bytes (b : BitVec 256) (n : Nat) : ∀ j,
    leNat ((List.range n).map fun k => b.extractLsb' (8 * (j + k)) 8) = (b.toNat >>> (8 * j)) % 2 ^ (8 * n) := by
  induction n with
  | zero => intro j; simp [leNat, Nat.mod_one]
  | succ n ih =>
    intro j
    have hstep : (fun k => b.extractLsb' (8 * (j + (k + 1))) 8) = fun k => b.extractLsb' (8 * (j + 1 + k)) 8 := by
      funext k; rw [show j + (k + 1) = j + 1 + k by omega]
    rw [List.range_succ_eq_map, List.map_cons, List.map_map, leNat]
    simp only [Function.comp_def, Nat.succ_eq_add_one, hstep, ih (j + 1)]
    rw [BitVec.extractLsb'_toNat, show 8 * (j + 1) = 8 * j + 8 by omega, Nat.shiftRight_add,
      show 8 * (n + 1) = 8 + 8 * n by omega, Nat.pow_add, Nat.mod_mul]
    simp [Nat.shiftRight_eq_div_pow]

theorem leNat_bundleBytes (b : BitVec 256) : leNat (bundleBytes b) = b.toNat := by
  have h := leNat_bytes b 32 0
  simp only [Nat.zero_add, Nat.mul_zero, Nat.shiftRight_zero] at h
  rw [bundleBytes, h, Nat.mod_eq_of_lt (by simpa using b.isLt)]

/-- The bytes of a bundle, with others after them, decode as the bundle does. -/
theorem decode_bundleBytes (b : BitVec 256) (l : List (BitVec 8)) :
    decode (bundleBytes b ++ l) = .ok (decodeBundle b, l) := by
  have hlen : (bundleBytes b).length = 32 := by simp [bundleBytes]
  have hb : BitVec.ofNat 256 b.toNat = b := by simp
  rw [decode, if_neg (by simp [hlen]), List.take_left' hlen, List.drop_left' hlen, leNat_bundleBytes, hb]

/-- What encodes to a bundle is a bundle of its own or a slot alone. -/
theorem encode_eq_some {i : Instr} {b : BitVec 256} (h : encode i = some b) :
    i = .bundleIssue b ∨ ∃ e, encodeSlot i = some e ∧ e.bundle = b := by
  unfold encode at h
  split at h
  · exact .inl (by rw [Option.some.inj h])
  · exact .inr (Option.map_eq_some_iff.mp h)

/-- Settles O1: slot by slot over the constructors, then through the bundle of the slot alone and through its bytes. -/
theorem encodeDecode : Obligations.EncodeDecode := by
  intro i b hw he
  have hdec : decodeBundle b = i := by
    rcases encode_eq_some he with rfl | ⟨e, hs, rfl⟩
    · exact of_decide_eq_true hw
    · refine decodeBundle_bundle ?_ (decode_encodeSlot hw hs)
      rintro rfl
      exact encodeSlot_ne_zero hw hs rfl
  exact ⟨hdec, fun l => hdec ▸ decode_bundleBytes b l⟩

end Sys2Proof
end

section
/-!
The plain control operations and the branches (01 R28, R35; 06 R149..R151).
-/

namespace Sys2Proof.Machine

section
variable {s : State} {i : Instr} {e : BitVec 4} {o : BitVec 6} {x : BitVec 22} {cf : CtlFn}

theorem ctlStart_modCore_id (s : State) (w : BitVec 32) : (ctlStart s w).modCore s.focus id = ctlStart s w := by
  rw [ctlStart_modCore, ctlStart_eq]; rfl

/-- A control operation other than FENCE that changes the issuing core by `f` and goes on to the next bundle. -/
theorem execControl_fall (f : Core → Core) (h : CanIssue s e.toNat) (hr : InRange s)
    (hi : encode i = some (Encoded.control (controlWord e o x)).bundle) (ho : o ≠ 0x0e)
    (hk : cf (ctlCtx s (controlWord e o x)) (ctlStart s (controlWord e o x)) =
      (ctlCtx s (controlWord e o x)).fall ((ctlStart s (controlWord e o x)).modCore s.focus f)) :
    execControl i cf s = .next (issued s e.toNat (f s.now.nextBundle)) := by
  rw [fall_ok hr] at hk
  rw [execControl_mod f hi h hk, Core.nextAfter_other (by simpa using ho)]

/-- The same without a change of the core. -/
theorem execControl_next (h : CanIssue s e.toNat) (hr : InRange s)
    (hi : encode i = some (Encoded.control (controlWord e o x)).bundle) (ho : o ≠ 0x0e)
    (hk : cf (ctlCtx s (controlWord e o x)) (ctlStart s (controlWord e o x)) =
      (ctlCtx s (controlWord e o x)).fall (ctlStart s (controlWord e o x))) :
    execControl i cf s = .next (issued s e.toNat s.now.nextBundle) :=
  execControl_fall id h hr hi ho (by rw [hk, ctlStart_modCore_id])

/-- A control operation other than FENCE that changes the issuing core by `f` and jumps to `a`. -/
theorem execControl_jump {a : Int} (f : Core → Core) (h : CanIssue s e.toNat) (ha : Reachable s a)
    (hi : encode i = some (Encoded.control (controlWord e o x)).bundle) (ho : o ≠ 0x0e)
    (hk : cf (ctlCtx s (controlWord e o x)) (ctlStart s (controlWord e o x)) =
      (ctlCtx s (controlWord e o x)).jump a ((ctlStart s (controlWord e o x)).modCore s.focus f)) :
    execControl i cf s = .next (issued s e.toNat ((f s.now.nextBundle).setPc a.toNat)) := by
  rw [jump_ok ha, W.modCore_modCore] at hk
  rw [execControl_mod (fun k => (f k).setPc a.toNat) hi h hk, Core.nextAfter_other (by simpa using ho)]

/-- The same without a further change of the core. -/
theorem execControl_goto {a : Int} (h : CanIssue s e.toNat) (ha : Reachable s a)
    (hi : encode i = some (Encoded.control (controlWord e o x)).bundle) (ho : o ≠ 0x0e)
    (hk : cf (ctlCtx s (controlWord e o x)) (ctlStart s (controlWord e o x)) =
      (ctlCtx s (controlWord e o x)).jump a (ctlStart s (controlWord e o x))) :
    execControl i cf s = .next (issued s e.toNat (s.now.nextBundle.setPc a.toNat)) :=
  execControl_jump id h ha hi ho (by rw [hk, ctlStart_modCore_id])

/-- The same to the address that a register holds. -/
theorem execControl_gotoReg {a : Word} (h : CanIssue s e.toNat) (ha : Reachable s a.toNat)
    (hi : encode i = some (Encoded.control (controlWord e o x)).bundle) (ho : o ≠ 0x0e)
    (hk : cf (ctlCtx s (controlWord e o x)) (ctlStart s (controlWord e o x)) =
      (ctlCtx s (controlWord e o x)).jump a.toNat (ctlStart s (controlWord e o x))) :
    execControl i cf s = .next (issued s e.toNat (s.now.nextBundle.setPc a.toNat)) := by
  rw [execControl_goto h ha hi ho hk, Int.toNat_natCast]

end

/-! ### Operand fields -/

/-- A field of a bit vector as a number is the number of the bits extracted. -/
theorem bits_eq_extract {n : Nat} (w : BitVec n) (lo len : Nat) : bits w lo len = (w.extractLsb' lo len).toNat := by
  simp [bits]

/-- Two's complement as the model reads it is that of bit vectors. -/
theorem sext_toNat {n : Nat} (d : BitVec n) : sext n d.toNat = d.toInt := by
  simp only [sext, Nat.mod_eq_of_lt d.isLt, BitVec.toInt]
  norm_cast

theorem append_toNat {a b : Nat} (x : BitVec a) (y : BitVec b) : (x ++ y).toNat = y.toNat + 2 ^ b * x.toNat := by
  rw [BitVec.toNat_append, ← Nat.shiftLeft_add_eq_or_of_lt y.isLt, Nat.shiftLeft_eq]
  ring

theorem chint_ne_fence (h : BitVec 4) : (3#2 ++ h : BitVec 6) ≠ 0x0e := by
  revert h; decide

/-- Settles O6: each operation passes its checks, changes the one field that it names and falls through. -/
theorem plainControls : Obligations.PlainControls := by
  intro s e h hr
  refine ⟨?_, fun x y z hz => ?_, fun n v => ?_, fun v => ?_, fun v => ?_, fun r b => ?_, fun f hf => ?_⟩
  · exact execControl_next h hr rfl (by decide) (checked_ok (decodeControl_cnop e) rfl)
  · refine execControl_next h hr rfl (by decide) (checked_ok (decodeControl_start e x y z) ?_)
    exact if_neg fun hv => hv.2 (hz hv.1)
  · exact execControl_next h hr rfl (chint_ne_fence n) (checked_ok (decodeControl_chint e n v) rfl)
  · refine execControl_fall (fun k => k.modRegs fun r => { r with lit := v.signExtend 64 }) h hr rfl (by decide) ?_
    refine (checked_ok (decodeControl_lit e v) rfl).trans ?_
    rw [ctlCtx_word, ctlOpd_controlWord]
    rfl
  · refine execControl_fall (fun k => k.modRegs fun r => { r with lit := s.now.regs.lit <<< 22 ||| v.zeroExtend 64 })
      h hr rfl (by decide) ?_
    refine (checked_ok (decodeControl_lith e v) rfl).trans ?_
    rw [ctlCtx_word, ctlOpd_controlWord]
    rfl
  · refine execControl_fall (fun k => k.modCtl fun c => { c with win := word (b.toNat + 2 ^ 15 * r.toNat) })
      h hr rfl (by decide) ?_
    refine (checked_ok (decodeControl_setwin e r b) rfl).trans ?_
    simp only [ctlCtx_word, ctlOpd_controlWord, ctlCtx_ctlw, reduceCtorEq, if_false, ← append_toNat]
    rfl
  · refine execControl_fall (fun k => k.modCtl fun c => { c with fmt := setBits (setBits c.fmt 40 12 f.toNat) 14 1 1 })
      h hr rfl (by decide) ?_
    have hid : bits (0#10 ++ f : BitVec 22) 0 12 = f.toNat := by
      rw [bits_eq_extract]; exact congrArg BitVec.toNat (extract_lo2 0#10 f)
    refine (checked_ok (decodeControl_setfmt e f) rfl).trans ?_
    simp only [ctlCtx_word, ctlOpd_controlWord, ctlCtx_ctlw, ctlCtx_pre, ctlCtx_c, ctlCtx_env, hid, hf, Bool.not_true,
      Bool.false_eq_true, reduceCtorEq, if_false]
    rfl

/-- BRP branches where its predicate, inverted or not, is true. -/
theorem ctlBrp_eq (s : State) (e : BitVec 4) (v : BitVec 1) (p : BitVec 3) (d : BitVec 18) (w : W) :
    ctlBrp (ctlCtx s (controlWord e 2 (v ++ p ++ d))) w =
      if s.now.regs.pred p.toNat ≠ decide (v = 1) then
        (ctlCtx s (controlWord e 2 (v ++ p ++ d))).jump (s.now.pcAddr + 32 * d.toInt) w
      else (ctlCtx s (controlWord e 2 (v ++ p ++ d))).fall w := by
  have hp : bits (v ++ p ++ d : BitVec 22) 18 3 = p.toNat := by
    rw [bits_eq_extract]; exact congrArg BitVec.toNat (extract_mid3 v p d)
  have hd : bits (v ++ p ++ d : BitVec 22) 0 18 = d.toNat := by
    rw [bits_eq_extract]; exact congrArg BitVec.toNat (extract_lo3 v p d)
  have hv : bitAt (v ++ p ++ d : BitVec 22) 21 = decide (v = 1) := by
    have h0 : v.getLsbD 0 = decide (v = 1) := (by decide : ∀ v : BitVec 1, v.getLsbD 0 = decide (v = 1)) v
    rw [← h0]
    exact (BitVec.getLsbD_append (x := v ++ p) (y := d) (i := 21)).trans (BitVec.getLsbD_append (x := v) (y := p) (i := 3))
  refine (checked_ok (decodeControl_brp e v p d) rfl).trans ?_
  simp only [ctlCtx_word, ctlOpd_controlWord, ctlCtx_k, hp, hd, hv, CCtx.rel, sext_toNat, ctlCtx_bpc, bne_iff_ne]
  rfl

/-- Settles O7: a target in range is jumped to. -/
theorem branches : Obligations.Branches := by
  intro s e h
  refine ⟨fun d hd => ?_, fun v p d hp hd => ?_, fun v p d hp hr => ?_, fun d hd => ?_, fun hd => ?_, fun n hd => ?_⟩
  · refine execControl_goto h hd rfl (by decide) ?_
    refine (checked_ok (decodeControl_br e d) rfl).trans ?_
    simp only [CCtx.rel, ctlCtx_word, ctlOpd_controlWord, sext_toNat, ctlCtx_bpc]
    rfl
  · exact execControl_goto h hd rfl (by decide) ((ctlBrp_eq s e v p d _).trans (if_pos hp))
  · exact execControl_next h hr rfl (by decide) ((ctlBrp_eq s e v p d _).trans (if_neg (not_not.mpr hp)))
  · refine execControl_jump (fun k => k.modRegs fun r => r.setS 63 (word (s.now.pcAddr + 32))) h hd rfl (by decide) ?_
    refine (checked_ok (decodeControl_call e d) rfl).trans ?_
    simp only [CCtx.rel, ctlCtx_word, ctlOpd_controlWord, sext_toNat, ctlCtx_bpc, ctlCtx_c]
    rfl
  · exact execControl_gotoReg h hd rfl (by decide) ((checked_ok (decodeControl_ret e) rfl).trans rfl)
  · refine execControl_gotoReg h hd rfl (by decide) ?_
    have hn : bits (0#16 ++ n : BitVec 22) 0 6 = n.toNat := by
      rw [bits_eq_extract]; exact congrArg BitVec.toNat (extract_lo2 0#16 n)
    refine (checked_ok (decodeControl_jr e n) rfl).trans ?_
    simp only [ctlCtx_word, ctlOpd_controlWord, ctlCtx_k, hn]
    rfl

end Sys2Proof.Machine
end

section
/-!
Move slots: a slot that does nothing, a slot that is stopped, a plain move, two scalar moves (01 R13..R27).
-/

namespace Sys2Proof.Machine

/-! ### From what a bundle tries to the state after its issue -/

section
variable {s : State} {f : Core → Core} {bb : BitVec 256} {tbl : Nat → TrigFn} {cf : CtlFn}

/-- The bundle of the bits `bb` on the core whose clock cycle it is, tried. -/
def tried (s : State) (bb : BitVec 256) (tbl : Nat → TrigFn) (cf : CtlFn) : Work :=
  tryBundle s.focus (Bundle.ofBits s.now.pcAddr bb) tbl cf (W.of s)

/-- What comes of a bundle that has been tried: a cause found as it is decoded, a wait cycle, a hold, a cause of execution, or
its effects (01 R19..R23; 13 R293). -/
def outcome (s : State) (bb : BitVec 256) (a : Work) : W :=
  let b := Bundle.ofBits s.now.pcAddr bb
  match b.decodeFirst a.causes with
  | some x => (W.of s).trapAt s.focus b x
  | none =>
    if a.wait then (W.of s).waitCycle s.focus
    else match a.hold with
    | some r => if r = 6 then (W.of s).holdOr s.focus b r else (W.of s).holdOr s.focus b r a.w.took a.reqs
    | none => match firstCause a.causes with
      | some x => (W.of s).trapAt s.focus b x
      | none => a.w.modCore s.focus fun k => k.cycled s.clk (s.now.weight (ctlE (bundleSlot bb 0)).toNat)

/-- A core that can issue goes by what the bundle tries. -/
theorem issueOne_tried (h : CanIssue s (ctlE (bundleSlot bb 0)).toNat) :
    issueOne bb tbl cf s = outcome s bb (tried s bb tbl cf) := by
  obtain ⟨hruns, hgate, hpre, hbkpt, hadmits⟩ := h
  have hcls : (Bundle.ofBits s.now.pcAddr bb).cls = (ctlE (bundleSlot bb 0)).toNat := rfl
  have hclk : (W.of s).clk = s.clk := rfl
  simp only [issueOne, W.of_core, hruns, if_true, issue, Bundle.passed, hbkpt, hclk, hgate, hpre, Bool.false_eq_true,
    if_false, Nat.lt_irrefl, hcls, hadmits, Bool.not_true]
  rfl

/-- A bundle that changes the issuing core by `f` and meets nothing else. -/
theorem issueOne_of_ok (h : CanIssue s (ctlE (bundleSlot bb 0)).toNat)
    (ht : tried s bb tbl cf = { w := (W.of s).modCore s.focus f }) :
    (issueOne bb tbl cf s).commit s = issued s (ctlE (bundleSlot bb 0)).toNat (f s.now) := by
  rw [issueOne_tried h, ht, outcome]
  simp [firstCause, W.commit_modCore, issued]

/-- A bundle that meets one cause and no hold, or a cause that is found as it is decoded. -/
theorem issueOne_of_cause {x : Cause} (h : CanIssue s (ctlE (bundleSlot bb 0)).toNat)
    (ht : (tried s bb tbl cf).causes = [x]) (hh : (tried s bb tbl cf).hold = none) (hw : (tried s bb tbl cf).wait = false) :
    (issueOne bb tbl cf s).commit s = trapped s bb x := by
  rw [issueOne_tried h]
  simp only [outcome, ht, hh, hw, Bundle.decodeFirst_one, firstCause_one, trapped]
  split <;> simp_all

/-- A bundle that meets a hold and no cause, the watchdog's limit not reached. -/
theorem issueOne_of_hold {r : Nat} (h : CanIssue s (ctlE (bundleSlot bb 0)).toNat)
    (ht : tried s bb tbl cf = { w := (W.of s).modCore s.focus f, hold := some r })
    (hl : s.now.pipe.held < bits s.now.ctl.wdg 0 32) : (issueOne bb tbl cf s).commit s = heldFor s r := by
  rw [issueOne_tried h, ht, outcome]
  simp [W.holdOr, Nat.not_le.mpr hl, W.heldCycle, W.commit_modCore, heldFor, Core.heldFor]

/-- A bundle in which a cause is found as it is decoded. -/
theorem issueOne_of_decode {x : Cause} (h : CanIssue s (ctlE (bundleSlot bb 0)).toNat)
    (ht : (Bundle.ofBits s.now.pcAddr bb).decodeFirst (tried s bb tbl cf).causes = some x) :
    (issueOne bb tbl cf s).commit s = trapped s bb x := by
  rw [issueOne_tried h]
  simp only [outcome, ht, trapped]

end

/-! ### One move slot -/

/-- The one slot of a bundle that holds word `w` in a move slot. -/
abbrev moveSlot1 (w : BitVec 32) : SlotWork := { slot := 1, w := w, it := 0 }

section
variable {s : State} {w : BitVec 32}

theorem Core.succeed_oneMove {k : Core} {pc : Nat} (h : k.pcAddr = pc) : Core.succeed (oneMove pc w) k = k.nextBundle := by
  subst h
  simp [Core.succeed, oneMove, Core.nextBundle, fenceAfter_zero, Core.modCtl, Core.setPc]

theorem canIssue_slot (h : CanIssue s 0) : CanIssue s (ctlE (bundleSlot (Encoded.moveSlot w).bundle 0)).toNat := by
  simpa [ctlE] using h

theorem decodeCauses_one (e : Env) : decodeCauses e [moveSlot1 w] = (moveIllegal e (moveSlot1 w)).toList := by
  simp [decodeCauses, slotConflict_one]

/-- A move slot that may issue, starts no trigger and is not held, tried: what its move leaves. -/
theorem tried_slot {tbl : Nat → TrigFn} {a : Work} (hw : w ≠ 0) (hin : InRange s)
    (hacq : (s.now.acqPending && acqTouches (s.env s.focus) s.now.regs [moveSlot1 w]) = false)
    (hill : moveIllegal (s.env s.focus) (moveSlot1 w) = none)
    (hrun : runMoves s.focus s (s.env s.focus) (oneMove s.now.pcAddr w) [moveSlot1 w] { w := W.of s } = (a, [])) :
    tried s (Encoded.moveSlot w).bundle tbl ctlNop =
      { a with w := a.w.modCore s.focus (Core.succeed (oneMove s.now.pcAddr w)) } := by
  have hst : Work.start s.focus (oneMove s.now.pcAddr w) (W.of s) = { w := W.of s } := by
    simp only [Work.start, Bundle.acqHeld, oneMove, W.of_toState, decodeCauses_one, hill, hacq]; rfl
  have hnop (q : Nat) (x : W) : ctlNop (ctlBase s.focus (oneMove s.now.pcAddr w) s q) x = .ok x := ctlNop_zero rfl rfl hin
  have hm : (oneMove s.now.pcAddr w).moves = [moveSlot1 w] := rfl
  rw [tried, Bundle.ofBits_moveSlot _ hw]
  simp only [tryBundle, runBundle, W.of_toState, hst, Option.isSome_none, Bool.or_false, Bool.false_eq_true, if_false, hm,
    hrun, runTrigs, hnop, Work.join, Work.room, List.isEmpty_nil, Bool.not_true, Bool.and_false, Bool.false_and]

/-- A move slot that moves nothing goes on to the next bundle (01 R14, R26). -/
theorem issueOne_inert {tbl : Nat → TrigFn} (hw : w ≠ 0) (h : CanIssue s 0) (hin : InRange s)
    (hacq : acqTouches (s.env s.focus) s.now.regs [moveSlot1 w] = false)
    (hill : moveIllegal (s.env s.focus) (moveSlot1 w) = none)
    (hrun : ∀ a : Work, runMoves s.focus s (s.env s.focus) (oneMove s.now.pcAddr w) [moveSlot1 w] a = (a, [])) :
    (issueOne (Encoded.moveSlot w).bundle tbl ctlNop s).commit s = issued s 0 s.now.nextBundle := by
  rw [issueOne_of_ok (canIssue_slot h) (tried_slot hw hin (by simp [hacq]) hill (hrun _)), Core.succeed_oneMove rfl]
  simp [ctlE]
end

/-! ### Hints and false guards -/

theorem destOf_hint {ver d : Nat} (h : 0xF00 ≤ d) : destOf ver d = some .hint := by
  simp [destOf, h, show ¬ d < 0x40 by omega, show ¬ d < 0x80 by omega, show ¬ d < 0x88 by omega, show ¬ d < 0x90 by omega]

/-- A slot whose destination is a hint moves nothing, whatever its guard and its source. -/
theorem issueOne_hint {s : State} {w : BitVec 32} {tbl : Nat → TrigFn} (hw : w ≠ 0) (h : CanIssue s 0) (hin : InRange s)
    (hd : destOf (s.env s.focus).ver (slotD w).toNat = some .hint) :
    (issueOne (Encoded.moveSlot w).bundle tbl ctlNop s).commit s = issued s 0 s.now.nextBundle := by
  refine issueOne_inert hw h hin ?_ ?_ fun a => ?_
  · simp [acqTouches, hd]
  · simp [moveIllegal, hd]
  · simp only [runMoves, hd]
    split <;> rfl

/-- Settles O11: a hint is decoded before its source and its guard are looked at. -/
theorem hints : Obligations.Hints := by
  intro s h hin g x sr m
  refine congrArg Host.Outcome.next (issueOne_hint (encodeSlot_ne_zero (i := .hint g x sr m) rfl rfl) h hin ?_)
  rw [slotD_moveWord]
  exact destOf_hint (hintDest_le x)

/-- A slot operation alone in a move slot is the issue of that slot (log 6). -/
theorem exec_moveSlot {i : Instr} {w : BitVec 32} (h : encodeSlot i = some (.moveSlot w)) (s : State) :
    ∃ tbl, exec i s = go s (issueOne (Encoded.moveSlot w).bundle tbl ctlNop s) := by
  cases i <;> cases h <;> exact ⟨_, rfl⟩

/-- A false guard moves nothing. -/
theorem exec_guard_false {s : State} {i : Instr} {w : BitVec 32} (h : CanIssue s 0) (hin : InRange s)
    (hi : encodeSlot i = some (.moveSlot w)) (hg : guardOn s.now.regs (slotG w) = false)
    (hill : moveIllegal (s.env s.focus) (moveSlot1 w) = none) : exec i s = .next (issued s 0 s.now.nextBundle) := by
  obtain ⟨tbl, he⟩ := exec_moveSlot hi s
  have hw : w ≠ 0 := by
    rintro rfl
    exact absurd hg (by simp [guardOn, slotG, bits, Regs.pred, bitAt])
  rw [he, go, issueOne_inert hw h hin (by simp [acqTouches, hg]) hill fun a => by simp [runMoves, hg]]

/-! ### A plain move -/

section
variable {s : State} {g m : BitVec 4} {d sid : BitVec 12} {src : Src} {v : Line} {dst : Dest}

/-- A move whose destination is not s0 is not the empty slot. -/
theorem moveWord_ne_zero (h : d ≠ 0) : moveWord g d sid m ≠ 0 := by
  intro h0
  have hd : slotD (moveWord g d sid m) = 0 := by rw [h0]; rfl
  exact h (by rwa [slotD_moveWord] at hd)

theorem moveWord_eq_zero (h : moveWord g d sid m = 0) : g = 0 ∧ d = 0 ∧ sid = 0 ∧ m = 0 := by
  have hg := slotG_moveWord g m d sid
  have hd := slotD_moveWord g m d sid
  have hs := slotS_moveWord g m d sid
  have hm := slotM_moveWord g m d sid
  rw [h] at hg hd hs hm
  exact ⟨hg.symm, hd.symm, hs.symm, hm.symm⟩

theorem Core.took_line (k : Core) (src : Src) (ln : Nat) : (k.took src).line ln = k.line ln := by cases src <;> rfl

theorem destOf_zero (ver : Nat) : destOf ver 0 = some (.sreg 0) := rfl

/-- A plain move whose source is read writes its destination: the core changes by `f`, the next bundle follows. -/
theorem exec_move (f : Core → Core) (h : Fires s g sid 0 src v) (hd : destOf (s.env s.focus).ver d.toNat = some dst)
    (hn : dst ≠ .hint ∧ ∀ id, dst ≠ .trigger id) (h0 : moveWord g d sid m ≠ 0)
    (hk : ∀ x : W, writeDest s.focus s (s.env s.focus) (oneMove s.now.pcAddr (moveWord g d sid m))
      (moveSlot1 (moveWord g d sid m)) dst v { w := x } = { w := x.modCore s.focus f })
    (hpc : ∀ k, (f k).pcAddr = k.pcAddr) :
    exec (.move g d sid m) s = .next (issued s 0 (f (s.now.took src)).nextBundle) := by
  rw [show exec (.move g d sid m) s = execMove g d sid m s from rfl, execMove_mod f h hd hn h0 hk,
    Core.succeed_oneMove (by rw [hpc, Core.took_pcAddr])]

end

/-- A bundle of zeros goes on to the next bundle, whatever it could trigger (01 R13). -/
theorem issueOne_zero {s : State} {tbl : Nat → TrigFn} {cf : CtlFn} (h : CanIssue s 0)
    (hk : cf (ctlCtx s 0#32) (ctlStart s 0#32) = .ok (ctlStart s 0#32)) :
    (issueOne 0 tbl cf s).commit s = issued s 0 s.now.nextBundle := by
  rw [show (0 : BitVec 256) = (Encoded.control 0#32).bundle from rfl, issueOne_control h hk, ctlStart, W.modCore_modCore]
  simp [W.commit_modCore, issued, Core.nextAfter_other (show ctlOpc 0#32 ≠ 0x0e by decide)]
  rfl

theorem ctlNop_ctlStart {s : State} (hin : InRange s) : ctlNop (ctlCtx s 0#32) (ctlStart s 0#32) = .ok (ctlStart s 0#32) :=
  ctlNop_zero rfl rfl hin

theorem exec_emptyMove {s : State} (h : CanIssue s 0) (hin : InRange s) :
    exec (.move 0 0 0 0) s = .next (issued s 0 s.now.nextBundle) :=
  congrArg Host.Outcome.next (issueOne_zero h (ctlNop_ctlStart hin))

/-- Settles O10: one clause per kind of destination. -/
theorem moves : Obligations.Moves := by
  intro s g m d sid src v h
  have hne {dst : Dest} (hd : destOf (s.env s.focus).ver d.toNat = some dst) (hk : ∀ n, dst ≠ .sreg n) :
      moveWord g d sid m ≠ 0 := by
    refine moveWord_ne_zero ?_
    rintro rfl
    exact hk 0 (Option.some.inj (hd.symm.trans (destOf_zero _)))
  refine ⟨fun n hd => ?_, fun n hd => ?_, fun id hd => ?_, fun id hd => ?_, fun n hd hc => ?_, fun n hd hw hst hb hp hc => ?_⟩
  · by_cases h0 : moveWord g d sid m = 0
    · obtain ⟨rfl, rfl, rfl, rfl⟩ := moveWord_eq_zero h0
      obtain rfl : 0 = n := Dest.sreg.inj (Option.some.inj hd)
      obtain rfl : Src.sreg 0 = src := Option.some.inj h.reads.1
      exact exec_emptyMove h.can h.range
    · refine exec_move (fun k => k.modRegs fun r => r.setS n (viewWord m (r.sreg n) (scalarOf v))) h hd (by simp) h0
        (fun x => ?_) fun k => rfl
      simp only [writeDest, slotM_moveWord]
  · refine exec_move (fun k => k.modRegs fun r => r.setP n (bitAt v 0)) h hd (by simp) (hne hd (by simp))
      (fun x => rfl) fun k => rfl
  · refine exec_move (fun k => k.modRegs fun r => r.setPort id (lineOf (viewWord m (r.portW id) (scalarOf v)))) h hd
      (by simp) (hne hd (by simp)) (fun x => ?_) fun k => rfl
    simp only [writeDest, slotM_moveWord]
  · refine exec_move (fun k => k.modRegs fun r => r.setPort id (viewLine m (r.port id) v)) h hd (by simp)
      (hne hd (by simp)) (fun x => ?_) fun k => rfl
    simp only [writeDest, slotM_moveWord]
  · have hl := exec_move (m := m)
      (fun k => k.setLine (windowLine s.now false 0 n) (viewLine m (k.line (windowLine s.now false 0 n)) v)) h hd (by simp)
      (hne hd (by simp)) (fun x => ?_) fun k => rfl
    · rwa [Core.took_line] at hl
    · simp only [writeDest, slotM_moveWord, slotD_moveWord, oneMove, hc]
  · refine exec_move (fun k => (k.setLine ((s.now.stream n).elem (s.now.stream n).n).toNat (viewLine m 0 v)).setStream n
      { (s.now.stream n).advance with
        wbuf := (s.now.stream n).wbuf ++ [((s.now.stream n).elem (s.now.stream n).n).toNat] }) h hd (by simp)
      (hne hd (by simp)) (fun x => ?_) fun k => rfl
    simp only [writeDest, slotM_moveWord, slotD_moveWord, hw, hst, hc, Nat.not_le.mpr hb, Int.not_lt.mpr hp, Bool.not_true,
      Bool.false_eq_true, if_false, false_or]
    simp

/-- The bits of a word whose field was replaced. -/
theorem getLsbD_setBits {n : Nat} (w : BitVec n) {lo len : Nat} (v i : Nat) (h : lo + len ≤ n) :
    (setBits w lo len v).getLsbD i = if lo ≤ i ∧ i < lo + len then v.testBit (i - lo) else w.getLsbD i := by
  have hsplit : w.toNat = 2 ^ lo * (2 ^ len * (w.toNat / 2 ^ lo / 2 ^ len) + bits w lo len) + w.toNat % 2 ^ lo := by
    rw [bits, Nat.shiftRight_eq_div_pow, Nat.div_add_mod, Nat.div_add_mod]
  have hset : w.toNat - bits w lo len * 2 ^ lo + v % 2 ^ len * 2 ^ lo =
      2 ^ lo * (2 ^ len * (w.toNat / 2 ^ lo / 2 ^ len) + v % 2 ^ len) + w.toNat % 2 ^ lo := by
    have hc := Nat.mul_comm (bits w lo len) (2 ^ lo)
    have hv := Nat.mul_comm (v % 2 ^ len) (2 ^ lo)
    rw [Nat.mul_add] at hsplit ⊢
    omega
  have hlo : w.toNat % 2 ^ lo < 2 ^ lo := Nat.mod_lt _ (Nat.two_pow_pos _)
  have hlen : v % 2 ^ len < 2 ^ len := Nat.mod_lt _ (Nat.two_pow_pos _)
  by_cases hi : i < n
  · rw [setBits, BitVec.getLsbD_ofNat, hset, Nat.testBit_two_pow_mul_add _ hlo, Nat.testBit_two_pow_mul_add _ hlen]
    by_cases h1 : i < lo
    · simp [h1, hi, Nat.not_le.mpr h1, BitVec.getLsbD]
    · by_cases h2 : i < lo + len
      · simp [h1, hi, h2, Nat.not_lt.mp h1, show i - lo < len by omega]
      · simp [h1, hi, h2, show ¬ i - lo < len by omega, Nat.testBit_div_two_pow, BitVec.getLsbD,
          show i - lo - len + len + lo = i by omega]
  · rw [BitVec.getLsbD_of_ge _ _ (Nat.not_lt.mp hi), BitVec.getLsbD_of_ge _ _ (Nat.not_lt.mp hi), if_neg (by omega)]

/-- One bit of a predicate register replaced by bit 0 of a line. -/
theorem setBits_bit (p : BitVec 8) (v : Line) {n : Nat} (hn : n < 8) :
    setBits p n 1 (if bitAt v 0 then 1 else 0) = (p &&& ~~~((1 : BitVec 8) <<< n)) ||| ((v.truncate 1).zeroExtend 8 <<< n) := by
  apply BitVec.eq_of_getLsbD_eq
  intro i hi
  rw [getLsbD_setBits _ _ _ (by omega)]
  have hv : bitAt v 0 = v.getLsbD 0 := rfl
  by_cases h : i = n
  · subst h
    cases h0 : v.getLsbD 0 <;> simp_all
  · rw [if_neg (by omega)]
    rcases Nat.lt_or_gt_of_ne h with h | h
    · simp [hi, h]
    · simp [hi, Nat.not_lt.mpr h.le, Nat.sub_ne_zero_of_lt h]

/-- Settles O13: the predicate clause of a move, with bit 0 of the value as the model writes it. -/
theorem predicateMoves : Obligations.PredicateMoves := by
  intro s g m sid src v h
  have hp (n : BitVec 12) (hn : n.toNat < 8) :
      exec (.move g (0x080 + n) sid m) s =
        .next (issued s 0 ((s.now.took src).modRegs fun r => r.setP n.toNat (bitAt v 0)).nextBundle) := by
    refine ((moves s g m (0x080 + n) sid src v h).2.1 n.toNat ?_)
    have hd : (0x080 + n).toNat = 0x080 + n.toNat := by rw [BitVec.toNat_add]; simp; omega
    rw [hd]
    simp [destOf, show 128 + n.toNat < 136 by omega, show 64 ≤ 128 + n.toNat by omega]
  constructor
  · exact hp 0 (by decide)
  · intro n h0 hn
    rw [hp n hn]
    have hr (r : Regs) : r.setP n.toNat (bitAt v 0) =
        { r with p := (r.p &&& ~~~((1 : BitVec 8) <<< n.toNat)) ||| ((v.truncate 1).zeroExtend 8 <<< n.toNat) } := by
      rw [Regs.setP, if_neg (by omega), setBits_bit r.p _ (by omega)]
    simp only [hr]

/-! ### What stops a slot -/

theorem lineCheck_code {s : State} {c : Nat} {e : Env} {fr : Bool} {sl id ln : Nat} {x : Cause}
    (h : lineCheck s c e fr sl id ln = some x) : 3 < x.code := by
  unfold lineCheck at h
  repeat' split at h
  all_goals cases h
  all_goals simp [handleFault, windowFault]

theorem readCheck_code {s : State} {c : Nat} {e : Env} {fr : Bool} {sl id ln : Nat} {x : Cause}
    (h : readCheck s c e fr sl id ln = some x) : 3 < x.code := by
  rw [readCheck, Option.or_eq_some_iff] at h
  rcases h with h | ⟨-, h⟩
  · exact lineCheck_code h
  · unfold softCheck at h
    split at h <;> cases h
    simp [softError]

/-- What reading a source raises is no decode-time cause. -/
theorem readSrc_code {c : Nat} {pre : State} {e : Env} {b : Bundle} {sl : SlotWork} {src : Src} {x : Cause}
    (h : readSrc c pre e b sl src = .error (.inl x)) : 3 < x.code := by
  cases src <;> simp only [readSrc] at h
  case window n =>
    split at h
    · cases h; exact readCheck_code ‹_›
    · split at h <;> cases h
  case stream n =>
    split at h
    · cases h; simp [engineFault]
    · split at h
      · cases h
      · split at h
        · cases h; simp [windowFault]
        · split at h
          · cases h; exact readCheck_code ‹_›
          · split at h <;> cases h
  all_goals cases h

/-- A cause that does not come before one of slot 1 that is found as the bundle is decoded. -/
def Cause.Later (x : Cause) : Prop := 3 < x.code ∨ x.slot = 1

/-- An illegal slot writes nothing: what else it raises comes from reading its source, or from its trigger. -/
theorem runMoves_illegal {c : Nat} {pre : State} {e : Env} {b : Bundle} {sl : SlotWork} {x : Cause}
    (h : moveIllegal e sl = some x) (a : Work) :
    (∃ l, (runMoves c pre e b [sl] a).1.causes = a.causes ++ l ∧ ∀ y ∈ l, y.Later) ∧
      ∀ t ∈ (runMoves c pre e b [sl] a).2, t.1 = sl := by
  have hnone : ∃ l, a.causes = a.causes ++ l ∧ ∀ y ∈ l, y.Later := ⟨[], by simp⟩
  simp only [runMoves]
  split
  · exact ⟨hnone, by simp⟩
  · split
    · exact ⟨hnone, by simp⟩
    · exact ⟨hnone, by simp⟩
    · exact ⟨hnone, by simp⟩
    · rename_i d src hh hd hs
      split
      · rename_i y hr
        exact ⟨⟨[y], rfl, fun z hz => .inl (List.mem_singleton.mp hz ▸ readSrc_code hr)⟩, by simp⟩
      · exact ⟨hnone, by simp⟩
      · cases d with
        | hint => exact absurd rfl hh
        | trigger id => exact ⟨hnone, by simp⟩
        | _ => simp [moveIllegal, hd, hs] at h

/-- A trigger that raises causes of its own slot only. -/
def NamesSlot (tf : TrigFn) : Prop := ∀ t w x, tf t w = .trap x → x.slot = t.slot

theorem namesSlot_noTrig (id : Nat) : NamesSlot (noTrig id) := fun _ _ _ h => by cases h

/-- What the triggers of slot 1 raise. -/
theorem runTrigs_causes {tbl : Nat → TrigFn} (ht : ∀ id, NamesSlot (tbl id)) (base : TCtx)
    (l : List (SlotWork × Nat × Line)) (hl : ∀ t ∈ l, t.1.slot = 1) :
    ∀ a, ∃ l', (runTrigs tbl base l a).causes = a.causes ++ l' ∧ ∀ y ∈ l', y.Later := by
  induction l with
  | nil => intro a; exact ⟨[], by simp [runTrigs], by simp⟩
  | cons x l ih =>
    intro a
    obtain ⟨sl, id, v⟩ := x
    have hsl : sl.slot = 1 := hl _ (List.mem_cons_self ..)
    rw [runTrigs]
    obtain ⟨l', h', hc⟩ := ih (fun t ht => hl t (List.mem_cons_of_mem _ ht)) _
    rw [h']
    generalize hr : tbl id _ _ = r
    cases r with
    | trap y => exact ⟨y :: l', by simp [Work.join, Work.fault], by
        rintro z (_ | ⟨_, hz⟩)
        · exact .inr ((ht id _ _ _ hr).trans hsl)
        · exact hc z hz⟩
    | _ => exact ⟨l', rfl, hc⟩

theorem Work.room_causes (a : Work) (c : Nat) (b : Bool) : (a.room c b).causes = a.causes := by
  simp only [Work.room]
  split <;> rfl

theorem moveIllegal_code {e : Env} {sl : SlotWork} {x : Cause} (h : moveIllegal e sl = some x) :
    x.code = 1 ∧ x.slot = sl.slot := by
  unfold moveIllegal at h
  repeat' split at h
  all_goals cases h
  all_goals exact ⟨rfl, rfl⟩

/-- What is found of slot 1 as the bundle is decoded comes first. -/
theorem Bundle.decodeFirst_cons (b : Bundle) {x : Cause} {l : List Cause} (hx : x.code = 1 ∧ x.slot = 1)
    (hl : ∀ y ∈ l, y.Later) : b.decodeFirst (x :: l) = some x := by
  obtain ⟨hc, hs⟩ := hx
  have hfold : ∀ l : List Cause, (∀ y ∈ l, y.slot = 1) → l.foldl (fun a y => if y.slot < a.slot then y else a) x = x := by
    intro l
    induction l with
    | nil => intro _; rfl
    | cons y l ih =>
      intro h
      rw [List.foldl_cons, if_neg (by rw [h y (List.mem_cons_self ..), hs]; decide)]
      exact ih fun z hz => h z (List.mem_cons_of_mem _ hz)
  have hlate : ∀ y ∈ l.filter (fun y => decide (y.code ≤ 3)), y.slot = 1 := by
    intro y hy
    obtain ⟨hy, hcode⟩ := List.mem_filter.mp hy
    exact (hl y hy).resolve_left (by simpa using hcode)
  simp only [Bundle.decodeFirst, firstCause, List.filter_cons, hc, lateTarget]
  simp [hc, List.filter_filter, hfold _ hlate]

section
variable {s : State} {w : BitVec 32} {x : Cause} {tbl : Nat → TrigFn}

/-- An illegal move slot alone is found as it is decoded. -/
theorem tried_illegal (ht : ∀ id, NamesSlot (tbl id)) (hw : w ≠ 0) (hin : InRange s)
    (h : moveIllegal (s.env s.focus) (moveSlot1 w) = some x) :
    ∃ l, (tried s (Encoded.moveSlot w).bundle tbl ctlNop).causes = x :: l ∧ ∀ y ∈ l, y.Later := by
  have hdc : decodeCauses (s.env s.focus) [moveSlot1 w] = [x] := by rw [decodeCauses_one, h]; rfl
  have hnop (q : Nat) (y : W) : ctlNop (ctlBase s.focus (oneMove s.now.pcAddr w) s q) y = .ok y := ctlNop_zero rfl rfl hin
  have hst : (Work.start s.focus (oneMove s.now.pcAddr w) (W.of s)).causes = [x] := by
    simp only [Work.start, W.of_toState, show (oneMove s.now.pcAddr w).moves = [moveSlot1 w] from rfl, hdc]
    split
    · split <;> rfl
    · rfl
  rw [tried, Bundle.ofBits_moveSlot _ hw]
  simp only [tryBundle, runBundle, W.of_toState, hnop]
  split
  · exact ⟨[], hst, by simp⟩
  · have hmv := runMoves_illegal (c := s.focus) (pre := s) (b := oneMove s.now.pcAddr w) h
      (Work.start s.focus (oneMove s.now.pcAddr w) (W.of s))
    rw [show (oneMove s.now.pcAddr w).moves = [moveSlot1 w] from rfl]
    generalize runMoves s.focus s (s.env s.focus) (oneMove s.now.pcAddr w) [moveSlot1 w]
      (Work.start s.focus (oneMove s.now.pcAddr w) (W.of s)) = mv at hmv ⊢
    obtain ⟨⟨l, hl, hc⟩, hfire⟩ := hmv
    obtain ⟨l', hl', hc'⟩ := runTrigs_causes ht (trigBase s.focus (oneMove s.now.pcAddr w) s) mv.2
      (fun t ht => congrArg SlotWork.slot (hfire t ht))
      { mv.1 with w := mv.1.w.modCore s.focus (Core.succeed (oneMove s.now.pcAddr w)) }
    refine ⟨l ++ l', ?_, fun y hy => (List.mem_append.mp hy).elim (hc y) (hc' y)⟩
    rw [Work.room_causes]
    refine hl'.trans ?_
    rw [hl, hst]
    rfl

/-- An illegal move slot alone raises its ILLEGAL_PORT, whatever else it would raise. -/
theorem issueOne_illegal (ht : ∀ id, NamesSlot (tbl id)) (hw : w ≠ 0) (h : CanIssue s 0) (hin : InRange s)
    (hill : moveIllegal (s.env s.focus) (moveSlot1 w) = some x) :
    (issueOne (Encoded.moveSlot w).bundle tbl ctlNop s).commit s = trapped s (Encoded.moveSlot w).bundle x := by
  obtain ⟨l, hl, hc⟩ := tried_illegal ht hw hin hill
  exact issueOne_of_decode (canIssue_slot h) ((congrArg _ hl).trans (Bundle.decodeFirst_cons _ (moveIllegal_code hill) hc))

/-- A move slot alone whose move raises a cause of execution. -/
theorem issueOne_slot_cause (hw : w ≠ 0) (h : CanIssue s 0) (hin : InRange s)
    (hacq : (s.now.acqPending && acqTouches (s.env s.focus) s.now.regs [moveSlot1 w]) = false)
    (hill : moveIllegal (s.env s.focus) (moveSlot1 w) = none)
    (hrun : runMoves s.focus s (s.env s.focus) (oneMove s.now.pcAddr w) [moveSlot1 w] { w := W.of s } =
      ({ w := W.of s, causes := [x] }, [])) :
    (issueOne (Encoded.moveSlot w).bundle noTrig ctlNop s).commit s = trapped s (Encoded.moveSlot w).bundle x := by
  have ht := tried_slot (tbl := noTrig) hw hin hacq hill hrun
  exact issueOne_of_cause (canIssue_slot h) (by rw [ht]) (by rw [ht]) (by rw [ht])
end

section
variable {s : State} {g m : BitVec 4} {d sid : BitVec 12} {k : Nat} {src : Src}

/-- A move to a scalar register with a true guard is legal, whatever it reads. -/
theorem moveIllegal_sreg (hd : destOf (s.env s.focus).ver d.toNat = some (.sreg k))
    (hs : srcOf (s.env s.focus).ver sid.toNat = some src) :
    moveIllegal (s.env s.focus) (moveSlot1 (moveWord g d sid m)) = none := by
  simp [moveIllegal, hd, hs]

/-- Such a move touches what a pending acquire holds only where it reads a window line. -/
theorem acqTouches_sreg (hd : destOf (s.env s.focus).ver d.toNat = some (.sreg k))
    (hs : srcOf (s.env s.focus).ver sid.toNat = some src) (h : s.now.acqPending = true → ∀ n, src ≠ .window n) :
    (s.now.acqPending && acqTouches (s.env s.focus) s.now.regs [moveSlot1 (moveWord g d sid m)]) = false := by
  cases ha : s.now.acqPending with
  | false => rfl
  | true =>
    have hw := h ha
    simp only [acqTouches, List.any_cons, List.any_nil, slotD_moveWord, slotS_moveWord, hd, hs]
    cases src <;> simp_all

/-- Such a move does what its source says: a cause, or a hold. -/
theorem runMoves_sreg (hg : guardOn s.now.regs g = true) (hd : destOf (s.env s.focus).ver d.toNat = some (.sreg k))
    (hs : srcOf (s.env s.focus).ver sid.toNat = some src) {y : Cause ⊕ Nat} {b : Bundle}
    (hr : readSrc s.focus s (s.env s.focus) b (moveSlot1 (moveWord g d sid m)) src = .error y) (a : Work) :
    runMoves s.focus s (s.env s.focus) b [moveSlot1 (moveWord g d sid m)] a =
      (match y with | .inl x => a.fault x | .inr r => a.held r, []) := by
  simp only [runMoves, slotG_moveWord, slotD_moveWord, slotS_moveWord, hg, hd, hs, hr, Bool.not_true, Bool.false_eq_true,
    if_false]
  cases y <;> rfl

end

/-- A move to a scalar register whose source raises a cause traps. -/
theorem exec_move_sourceCause {s : State} {g m : BitVec 4} {d sid : BitVec 12} {k : Nat} {src : Src} {x : Cause}
    (h : CanIssue s 0) (hin : InRange s) (hg : guardOn s.now.regs g = true)
    (hd : destOf (s.env s.focus).ver d.toNat = some (.sreg k)) (hs : srcOf (s.env s.focus).ver sid.toNat = some src)
    (hw : sid ≠ 0) (hacq : s.now.acqPending = true → ∀ n, src ≠ .window n)
    (hr : readSrc s.focus s (s.env s.focus) (oneMove s.now.pcAddr (moveWord g d sid m)) (moveSlot1 (moveWord g d sid m)) src =
      .error (.inl x)) :
    exec (.move g d sid m) s = .next (trapped s ((encode (.move g d sid m)).getD 0) x) := by
  have hw0 : moveWord g d sid m ≠ 0 := fun h0 => hw (moveWord_eq_zero h0).2.2.1
  exact congrArg Host.Outcome.next (issueOne_slot_cause hw0 h hin (acqTouches_sreg hd hs hacq) (moveIllegal_sreg hd hs)
    (runMoves_sreg hg hd hs hr _))

/-- A move to a scalar register whose source holds is held, the watchdog's limit not reached. -/
theorem exec_move_sourceHold {s : State} {g m : BitVec 4} {d sid : BitVec 12} {k r : Nat} {src : Src}
    (h : CanIssue s 0) (hin : InRange s) (hg : guardOn s.now.regs g = true)
    (hd : destOf (s.env s.focus).ver d.toNat = some (.sreg k)) (hs : srcOf (s.env s.focus).ver sid.toNat = some src)
    (hw : sid ≠ 0) (hacq : s.now.acqPending = true → ∀ n, src ≠ .window n)
    (hr : readSrc s.focus s (s.env s.focus) (oneMove s.now.pcAddr (moveWord g d sid m)) (moveSlot1 (moveWord g d sid m)) src =
      .error (.inr r)) (hl : s.now.pipe.held < bits s.now.ctl.wdg 0 32) :
    exec (.move g d sid m) s = .next (heldFor s r) := by
  have hw0 : moveWord g d sid m ≠ 0 := fun h0 => hw (moveWord_eq_zero h0).2.2.1
  exact congrArg Host.Outcome.next (issueOne_of_hold (canIssue_slot h) (tried_slot hw0 hin (acqTouches_sreg hd hs hacq)
    (moveIllegal_sreg hd hs) (runMoves_sreg hg hd hs hr _)) hl)

/-- Settles O14: a cause that is found as the slot is decoded, or the first thing that its source raises. -/
theorem slotStops : Obligations.SlotStops := by
  intro s g m d sid h hin
  refine ⟨fun i w hi hg hill => exec_guard_false h hin hi hg hill, fun x hx => ?_, fun n k hg hacq hd hs => ?_,
    fun n k hg hd hs hst => ?_⟩
  · have hw : moveWord g d sid m ≠ 0 := by
      intro h0
      rw [h0] at hx
      simp [moveIllegal, slotD, slotS, destOf, srcOf] at hx
    exact congrArg Host.Outcome.next (issueOne_illegal namesSlot_noTrig hw h hin hx)
  · have hw : sid ≠ 0 := by rintro rfl; cases hs
    have hacq' : s.now.acqPending = true → ∀ j, Src.window n ≠ .window j := fun ha => by simp [hacq] at ha
    refine ⟨fun x hx => exec_move_sourceCause h hin hg hd hs hw hacq' ?_, fun hx => ⟨fun hsoft => ?_, fun hsoft hp hl => ?_⟩⟩
    · simp only [readSrc, slotS_moveWord, readCheck, oneMove, hx, Option.some_or]
    · refine exec_move_sourceCause h hin hg hd hs hw hacq' ?_
      simp only [readSrc, slotS_moveWord, readCheck, oneMove, hx, Option.none_or, softCheck, hsoft, if_true, softError]
    · refine exec_move_sourceHold h hin hg hd hs hw hacq' ?_ hl
      simp only [readSrc, slotS_moveWord, readCheck, oneMove, hx, Option.none_or, softCheck, hsoft, hp, Bool.false_eq_true,
        if_false]
  · refine exec_move_sourceCause h hin hg hd hs (by rintro rfl; cases hs) (by simp) ?_
    simp only [readSrc, slotS_moveWord, if_pos hst, engineFault]

/-! ### Whole bundles -/

/-- The control slot of a whole bundle. -/
abbrev ctlSlot : CtlFn := fun t w => ctlOf t.word t w

/-- BUNDLE_ISSUE on the core whose clock cycle it is. -/
theorem exec_bundleIssue (b : BitVec 256) (s : State) : exec (.bundleIssue b) s = go s (issueOne b trigOf ctlSlot s) := by
  show go s _ = go s _
  unfold issueOne
  rfl

theorem ctlSlot_zero {t : CCtx} {w : W} (hw : t.word = 0#32) (hb : t.inBody = false)
    (hr : t.env.lo ≤ t.bpc + 32 ∧ t.bpc + 32 < t.env.hi) : ctlSlot t w = .ok w := by
  have hop : ctlOf 0#32 = ctlNop := by simp [ctlOf, ctlOpc]
  rw [ctlSlot, hw, hop, ctlNop_zero hw hb hr]

/-- Settles O12: the empty slots are words of zeros, and a bundle of zeros holds nothing else. -/
theorem emptySlots : Obligations.EmptySlots := by
  refine ⟨rfl, rfl, rfl, fun s h hin => ⟨exec_emptyMove h hin, ?_, ?_⟩⟩
  · exact congrArg Host.Outcome.next (issueOne_zero h (ctlNop_ctlStart hin))
  · rw [exec_bundleIssue]
    exact congrArg Host.Outcome.next (issueOne_zero h (ctlSlot_zero rfl rfl hin))

/-! ### Scalar moves of one bundle -/

/-- A move of a scalar register to a scalar register, its guard and its view all zeros. -/
structure ScalarMove (w : BitVec 32) : Prop where
  guard : slotG w = 0
  view : slotM w = 0
  dst : (slotD w).toNat < 64
  src : (slotS w).toNat < 64

/-- What the move writes, its source read from `pre`. -/
def scalarMove (pre : Regs) (r : Regs) (x : SlotWork) : Regs := r.setS (slotD x.w).toNat (pre.sreg (slotS x.w).toNat)

theorem scalarMove_zero (pre r : Regs) {x : SlotWork} (h : x.w = 0) : scalarMove pre r x = r := by
  simp [scalarMove, h, slotD, Regs.setS]

section
variable {c : Nat} {pre : State} {e : Env} {b : Bundle}

theorem ScalarMove.destOf {w : BitVec 32} (h : ScalarMove w) (ver : Nat) :
    destOf ver (slotD w).toNat = some (.sreg (slotD w).toNat) := if_pos h.dst
theorem ScalarMove.srcOf {w : BitVec 32} (h : ScalarMove w) (ver : Nat) :
    srcOf ver (slotS w).toNat = some (.sreg (slotS w).toNat) := if_pos h.src

/-- Scalar moves of one bundle read the registers before it and write in slot order. -/
theorem runMoves_scalar (l : List SlotWork) (h : ∀ x ∈ l, ScalarMove x.w) (w : W) :
    runMoves c pre e b l { w := w } =
      ({ w := l.foldl (fun w x => w.modCore c fun k => k.modRegs fun r => scalarMove (pre.core c).regs r x) w }, []) := by
  induction l generalizing w with
  | nil => rfl
  | cons x l ih =>
    have hx := h x (List.mem_cons_self ..)
    have hg : guardOn (pre.core c).regs 0 = true := by simp [guardOn, bits, Regs.pred, bitAt]
    simp only [runMoves, hx.guard, hg, hx.destOf, hx.srcOf, readSrc, writeDest, advanceSrc, hx.view, Bool.not_true,
      Bool.false_eq_true, if_false]
    rw [ih fun y hy => h y (List.mem_cons_of_mem _ hy)]
    simp [viewWord, bits, scalarMove]

theorem foldl_modCore (l : List SlotWork) (f : SlotWork → Core → Core) (g : Core → Core) (w : W) :
    (l.foldl (fun w x => w.modCore c (f x)) w).modCore c g = w.modCore c fun k => g (l.foldl (fun k x => f x k) k) := by
  induction l generalizing w with
  | nil => rfl
  | cons x l ih => rw [List.foldl_cons, ih, W.modCore_modCore]; rfl

theorem foldl_modRegs (l : List SlotWork) (f : Regs → SlotWork → Regs) (k : Core) :
    l.foldl (fun k x => k.modRegs fun r => f r x) k = k.modRegs fun r => l.foldl f r := by
  induction l generalizing k with
  | nil => rfl
  | cons x l ih => rw [List.foldl_cons, ih]; rfl

theorem decodeCauses_scalar (l : List SlotWork) (h : ∀ x ∈ l, ScalarMove x.w) : decodeCauses e l = [] := by
  have huses (x : SlotWork) (hx : x ∈ l) : moveUses e.ver x = [] := by
    simp [moveUses, (h x hx).destOf, (h x hx).srcOf]
  simp only [decodeCauses, List.flatten_eq_nil_iff, List.mem_map]
  rintro _ ⟨x, hx, rfl⟩
  have hc : slotConflict e.ver l x = none := by simp [slotConflict, huses x hx, usesMeet]
  simp [moveIllegal, (h x hx).destOf, (h x hx).srcOf, hc]

theorem acqTouches_scalar (l : List SlotWork) (h : ∀ x ∈ l, ScalarMove x.w) (r : Regs) : acqTouches e r l = false := by
  simp only [acqTouches, List.any_eq_false]
  intro x hx
  simp [(h x hx).destOf, (h x hx).srcOf]
end

/-- A bundle of scalar moves and no control operation writes the registers in slot order (01 R19, R21). -/
theorem exec_scalarBundle {s : State} {bb : BitVec 256} (h : CanIssue s 0) (hin : InRange s) (h0 : bundleSlot bb 0 = 0)
    (hm : ∀ x ∈ (Bundle.ofBits s.now.pcAddr bb).moves, ScalarMove x.w) :
    exec (.bundleIssue bb) s = .next (issued s 0
      ((s.now.modRegs fun r => (Bundle.ofBits s.now.pcAddr bb).moves.foldl (scalarMove s.now.regs) r).nextBundle)) := by
  have hcls : (ctlE (bundleSlot bb 0)).toNat = 0 := by rw [h0]; rfl
  obtain ⟨B, hB⟩ : ∃ B, Bundle.ofBits s.now.pcAddr bb = B := ⟨_, rfl⟩
  have hctl : B.ctl = 0 := by rw [← hB]; exact h0
  have hbody : B.inBody = false := by rw [← hB]; rfl
  have hpc : B.bpc = s.now.pcAddr := by rw [← hB]; rfl
  rw [hB] at hm ⊢
  have hst : Work.start s.focus B (W.of s) = { w := W.of s } := by
    simp only [Work.start, Bundle.acqHeld, decodeCauses_scalar _ hm, acqTouches_scalar _ hm, Bool.and_false,
      Bool.false_eq_true, if_false]
  have hnop (q : Nat) (x : W) : ctlSlot (ctlBase s.focus B s q) x = .ok x := by
    rw [← hB]; exact ctlSlot_zero h0 rfl hin
  have ht : tried s bb trigOf ctlSlot =
      { w := (W.of s).modCore s.focus fun k => Core.succeed B (k.modRegs fun r => B.moves.foldl (scalarMove s.now.regs) r) } := by
    simp only [tried, tryBundle, runBundle, W.of_toState, hB, hst, runMoves_scalar _ hm, runTrigs, hnop, Work.join, foldl_modCore,
      foldl_modRegs, Work.room, Option.isSome_none, Bool.or_false, Bool.false_eq_true, if_false, List.isEmpty_nil,
      Bool.not_true, Bool.and_false, Bool.false_and]
  rw [exec_bundleIssue, go, issueOne_of_ok (by rw [hcls]; exact h) ht, hcls]
  simp [Core.succeed, Core.nextBundle, hctl, hbody, hpc, fenceAfter_zero, Core.modCtl, Core.setPc, Core.modRegs, Core.pcAddr]

theorem bundleSlot_or (x y : BitVec 256) (k : Nat) : bundleSlot (x ||| y) k = bundleSlot x k ||| bundleSlot y k := by
  apply BitVec.eq_of_getLsbD_eq
  intro i hi
  simp [bundleSlot, hi]

/-- The slots of a bundle that holds word `w` in slot `j` alone. -/
theorem bundleSlot_shift (w : BitVec 32) (j k : Nat) (hk : k < 8) :
    bundleSlot (w.zeroExtend 256 <<< (32 * j)) k = if k = j then w else 0 := by
  apply BitVec.eq_of_getLsbD_eq
  intro i hi
  have hb : (bundleSlot (w.zeroExtend 256 <<< (32 * j)) k).getLsbD i =
      (!decide (32 * k + i < 32 * j) && w.getLsbD (32 * k + i - 32 * j)) := by
    simp [bundleSlot, hi, show 32 * k + i < 256 by omega]
  rw [hb]
  rcases Nat.lt_trichotomy k j with h | rfl | h
  · simp [h.ne, show 32 * k + i < 32 * j by omega]
  · simp
  · rw [BitVec.getLsbD_of_ge w _ (by omega), if_neg h.ne']
    simp

theorem scalarMove_moveWord (x a : BitVec 6) : ScalarMove (moveWord 0 (x.zeroExtend 12) (a.zeroExtend 12) 0) := by
  refine ⟨by simp, by simp, ?_, ?_⟩ <;> simp <;> omega

/-- Leaving out the empty slots of scalar moves changes nothing. -/
theorem foldl_scalarMove_filter (pre r : Regs) (l : List SlotWork) :
    (l.filter fun x => decide (x.w ≠ 0)).foldl (scalarMove pre) r = l.foldl (scalarMove pre) r := by
  induction l generalizing r with
  | nil => rfl
  | cons x l ih =>
    by_cases hx : x.w = 0
    · rw [List.filter_cons_of_neg (by simp [hx]), List.foldl_cons, scalarMove_zero pre r hx, ih]
    · rw [List.filter_cons, if_pos (decide_eq_true hx), List.foldl_cons, List.foldl_cons, ih]

/-- Settles O15: the two slots are read from the registers before the bundle and written in slot order. -/
theorem twoMoves : Obligations.TwoMoves := by
  intro s a b x y h hin _
  have hslot (u v : BitVec 32) (k : Nat) (hk : k < 8) :
      bundleSlot (u.zeroExtend 256 <<< 32 ||| v.zeroExtend 256 <<< 64) k =
        (if k = 1 then u else 0) ||| (if k = 2 then v else 0) := by
    rw [bundleSlot_or, ← bundleSlot_shift u 1 k hk, ← bundleSlot_shift v 2 k hk]
  have hmoves (pc : Nat) (u v : BitVec 32) :
      (Bundle.ofBits pc (u.zeroExtend 256 <<< 32 ||| v.zeroExtend 256 <<< 64)).moves =
        ([⟨1, u, 0, none⟩, ⟨2, v, 0, none⟩, ⟨3, 0, 0, none⟩, ⟨4, 0, 0, none⟩, ⟨5, 0, 0, none⟩, ⟨6, 0, 0, none⟩,
          ⟨7, 0, 0, none⟩] : List SlotWork).filter fun x => decide (x.w ≠ 0) := by
    simp only [Bundle.ofBits, List.range, List.range.loop, List.map_cons, List.map_nil]
    simp only [Nat.zero_add, Nat.reduceAdd, hslot u v _ (by decide : 1 < 8), hslot u v _ (by decide : 2 < 8),
      hslot u v _ (by decide : 3 < 8), hslot u v _ (by decide : 4 < 8), hslot u v _ (by decide : 5 < 8),
      hslot u v _ (by decide : 6 < 8), hslot u v _ (by decide : 7 < 8)]
    simp
  have hx := scalarMove_moveWord x a
  have hy := scalarMove_moveWord y b
  rw [exec_scalarBundle h hin]
  · simp only [hmoves, foldl_scalarMove_filter, List.foldl_cons, List.foldl_nil, scalarMove_zero]
    have hmod (z : BitVec 6) : z.toNat % 4096 = z.toNat := Nat.mod_eq_of_lt (by omega)
    simp [scalarMove, hmod, Core.modRegs]
  · simp [hslot]
  · intro z hz
    rw [hmoves, List.mem_filter] at hz
    simp only [List.mem_cons, List.not_mem_nil, or_false] at hz
    obtain ⟨rfl | rfl | rfl | rfl | rfl | rfl | rfl, h0⟩ := hz
    · exact hx
    · exact hy
    all_goals exact absurd h0 (by decide)

end Sys2Proof.Machine
end

section
/-!
The words of the encoding tables, and the step of a core's clock cycle (01 R10..R12, R38; 13 R377).
-/

namespace Sys2Proof.Machine

/-- Settles O2: each word is decoded. -/
theorem decodeWords : Obligations.DecodeWords := by
  unfold Obligations.DecodeWords
  decide +kernel

section
variable {s : State}

/-- With nothing chosen from outside and everything laid out taken, the step is the focused core's clock cycle. -/
theorem step_eq_cycle (ha : s.agenda = []) (ht : s.todo = []) (hg : s.agents = false) (hl : s.laid = true) :
    step s = s.cycle := by
  have hlay : s.lay = s := by simp [State.lay, hg, hl]
  unfold step State.stepOnce
  simp only [ha, hlay, ht]

/-- What an instruction of a clock cycle leaves, the cycle over. -/
def cycleEnded (s : State) (r : Host.Outcome State Fault Refusal) : Host.Outcome State Fault Refusal :=
  match r with
  | .next t => .next (s.endCycle t s.focus)
  | r => r

/-- The clock cycle of a core that runs, no replay in progress, is the instruction that is due. -/
theorem cycle_of_instr {i : Instr} (hr : s.now.runs = true) (hp : s.now.pipe.replay = 0) (hi : s.clockInstr s.focus = some i) :
    s.cycle = cycleEnded s (exec i s) := by
  simp only [State.cycle, hr, hp, hi, if_true, Nat.lt_irrefl, if_false]
  rfl

theorem cycle_of_none (hr : s.now.runs = true) (hp : s.now.pipe.replay = 0) (hi : s.clockInstr s.focus = none) :
    s.cycle = .fault .fetchUnheld := by
  simp only [State.cycle, hr, hp, hi, if_true, Nat.lt_irrefl, if_false]

theorem W.of_bytes (s : State) (a n : Nat) : (W.of s).bytes a n = (List.range n).map fun k => s.hbm (a + k) := rfl

/-- Without a held bundle or a loop the bundle at the program counter is due. -/
theorem clockInstr_fetch (hh : s.now.pipe.held = 0) (hq : s.now.seq.on = false) :
    s.clockInstr s.focus = (s.fetchAt s.focus).map fun b =>
      if (s.env s.focus).ver = 3 then decodeBundle b else .bundleIssue b := by
  simp only [State.clockInstr, hh, hq, Nat.lt_irrefl, if_false, Bool.false_eq_true]

/-- The bundle that a held page of this package's HBM gives. -/
theorem fetchAt_held {pa : Nat} (h : heldAddr (s.env s.focus).pages s.now.pcAddr = some (pa, true)) :
    s.fetchAt s.focus = some (BitVec.ofNat 256 (leNat ((List.range 32).map fun j => s.hbm (pa + j)))) := by
  simp only [State.fetchAt, W.fetch, h, W.of_bytes, ofBytes]

theorem fetchAt_unheld (h : heldAddr (s.env s.focus).pages s.now.pcAddr = none) : s.fetchAt s.focus = none := by
  simp only [State.fetchAt, W.fetch, h]

theorem decode_32 {l : List Byte} {i : Instr} (hl : l.length = 32) (h : decode l = .ok (i, [])) :
    decodeBundle (BitVec.ofNat 256 (leNat l)) = i := by
  rw [decode, if_neg (by omega), List.take_of_length_le hl.le] at h
  exact (Prod.mk.inj (Except.ok.inj h)).1

/-- Settles O3: nothing else is due, so the step is the clock cycle, and that is the instruction fetched. -/
theorem stepRunsDecoded : Obligations.StepRunsDecoded := by
  intro s c k e after ha ht hg hl hr hh hp hq
  have hstep := step_eq_cycle ha ht hg hl
  have hinstr := clockInstr_fetch hh hq
  refine ⟨fun pa i hpa hd => ?_, fun hn => ?_⟩
  · rw [fetchAt_held hpa, Option.map_some] at hinstr
    have hi := decode_32 (by simp) hd
    constructor
    · intro hv
      rw [if_pos hv, hi] at hinstr
      rw [hstep, cycle_of_instr hr hp hinstr]
      rfl
    · intro hv
      rw [if_neg hv] at hinstr
      rw [hstep, cycle_of_instr hr hp hinstr]
      rfl
  · rw [fetchAt_unheld hn, Option.map_none] at hinstr
    rw [hstep, cycle_of_none hr hp hinstr]

end

end Sys2Proof.Machine
end

section
/-!
A trigger slot alone: from what its trigger answers to the statements `TriggersIf` and `TrapsIf` (01 R19, R22, R34).
-/

namespace Sys2Proof.Machine

section
variable {id : Nat} {d : BitVec 12} {i : Slot → Instr} {M : Slot → BitVec 4} {tf : TrigFn} {P : State → Slot → Line → Prop}

/-- How the slot operation `i` is encoded and what it means: the trigger `id` with modifier `M f` and the meaning `tf`. -/
structure IsTrigger (id : Nat) (d : BitVec 12) (i : Slot → Instr) (M : Slot → BitVec 4) (tf : TrigFn) : Prop where
  num : d.toNat = id
  enc : ∀ f, encode (i f) = some (Encoded.moveSlot (moveWord f.g d f.s (M f))).bundle
  exec : ∀ f s, exec (i f) s = execTrigger (i f) tf s
  port : trigPort id = true

/-- The rights and the modifier with which a trigger passes its decode-time checks (01 R18, R34). -/
structure Allowed (s : State) (id : Nat) (m : BitVec 4) : Prop where
  modifier : ctlModifier id m = false
  priv : needsPriv id = true → (s.env s.focus).priv = true
  tier : needsTier id = true → (s.env s.focus).tier = true

/-- A trigger that answers a change of the issuing core. -/
theorem IsTrigger.triggersIf (h : IsTrigger id d i M tf) {eff : State → Slot → Line → Core → Core}
    (ha : ∀ s f v, P s f v → Allowed s id (M f))
    (hk : ∀ s f src v, P s f v →
      tf (trigCtx s id (M f) v) (trigStart s src) = .ok ((trigStart s src).modCore s.focus (eff s f v))) :
    TriggersIf id i P eff := by
  obtain ⟨rfl, henc, hexec, hport⟩ := h
  intro s f src v hf hp hroom
  obtain ⟨hm, hpriv, htier⟩ := ha s f v hp
  rw [hexec]
  exact execTrigger_mod _ (henc f) hf hport hm hpriv htier (hk s f src v hp) hroom

/-- A trigger that answers a precise trap. -/
theorem IsTrigger.trapsIf (h : IsTrigger id d i M tf) {x : State → Slot → Line → Cause}
    (ha : ∀ s f v, P s f v → Allowed s id (M f))
    (hk : ∀ s f src v, P s f v → tf (trigCtx s id (M f) v) (trigStart s src) = .trap (x s f v)) : TrapsIf id i P x := by
  obtain ⟨rfl, henc, hexec, hport⟩ := h
  intro s f src v hf hp hroom
  obtain ⟨hm, hpriv, htier⟩ := ha s f v hp
  rw [hexec]
  exact execTrigger_trap (henc f) hf hport hm hpriv htier (hk s f src v hp) hroom

/-- A trigger that is illegal as it is decoded. -/
theorem IsTrigger.trapsIf_illegal (h : IsTrigger id d i M tf) (hn : NamesSlot tf) {x : State → Slot → Line → Cause}
    (hill : ∀ s f v, canonId (s.env s.focus).ver id = some id → (∃ src, srcOf (s.env s.focus).ver f.s.toNat = some src) →
      P s f v → moveIllegal (s.env s.focus) (moveSlot1 (moveWord f.g d f.s (M f))) = some (x s f v)) :
    TrapsIf id i P x := by
  obtain ⟨rfl, henc, hexec, hport⟩ := h
  intro s f src v hf hp hroom
  rw [hexec, execTrigger, henc, Option.getD_some]
  exact congrArg Host.Outcome.next (issueOne_illegal (fun _ => hn) (moveWord_trigger hport) hf.can hf.range
    (hill s f v hf.ver ⟨src, hf.reads.1⟩ hp))

/-- A trigger without the privilege or the grant that it needs (01 R34). -/
theorem moveIllegal_rights {s : State} {g m : BitVec 4} {sid : BitVec 12} (hv : canonId (s.env s.focus).ver d.toNat = some d.toNat)
    (hs : ∃ src, srcOf (s.env s.focus).ver sid.toNat = some src) (hd : trigPort d.toNat = true) (hm : ctlModifier d.toNat m = false)
    (hr : needsPriv d.toNat = true ∧ (s.env s.focus).priv = false ∨ needsTier d.toNat = true ∧ (s.env s.focus).tier = false) :
    moveIllegal (s.env s.focus) (moveSlot1 (moveWord g d sid m)) = some (illegalPort 1 2 d.toNat) := by
  obtain ⟨src, hs⟩ := hs
  simp only [moveIllegal, slotD_moveWord, slotS_moveWord, slotM_moveWord, destOf_trigger hd hv, hs, hm]
  rw [if_neg Bool.false_ne_true, if_pos]
  simpa using hr

end

/-! ### What a trigger alone knows -/

section
variable (s : State) (id : Nat) (m : BitVec 4) (v : Line)
@[simp] theorem trigCtx_c : (trigCtx s id m v).c = s.focus := rfl
@[simp] theorem trigCtx_id : (trigCtx s id m v).id = id := rfl
@[simp] theorem trigCtx_slot : (trigCtx s id m v).slot = 1 := rfl
@[simp] theorem trigCtx_m : (trigCtx s id m v).m = m := rfl
@[simp] theorem trigCtx_pre : (trigCtx s id m v).pre = s := rfl
@[simp] theorem trigCtx_env : (trigCtx s id m v).env = s.env s.focus := rfl
@[simp] theorem trigCtx_seq : (trigCtx s id m v).seq = s.now.pipe.seq := rfl
@[simp] theorem trigCtx_bpc : (trigCtx s id m v).bpc = s.now.pcAddr := rfl
@[simp] theorem trigCtx_k : (trigCtx s id m v).k = s.now := rfl
@[simp] theorem trigCtx_run : (trigCtx s id m v).run = s.now.pipe.run := rfl
/-- A trigger outside vec and sfn takes a word. -/
theorem trigCtx_v (h : lineTrig id = false) : (trigCtx s id m v).v = scalarOf v := by
  simp [TCtx.v, trigCtx, trigValue, h]
theorem trigStart_core (src : Src) : (trigStart s src).core s.focus = s.now.fired src := W.core_modCore_same ..
end

end Sys2Proof.Machine
end

section
/-!
The ctl unit: what CTLR, CTLW and TLBINV do, what control registers hold, which of their bits a write reaches
(06 R161..R164; 13 R307, R314).
-/

namespace Sys2Proof.Machine

/-! ### Fields of words -/

@[simp] theorem word_toNat (v : Word) : word v.toNat = v := by simp [word]

/-- An operand below 2^n has no bits above. -/
theorem bits_high_eq_zero {w : Word} {n len : Nat} (h : w.toNat < 2 ^ n) : bits w n len = 0 := by
  rw [bits, Nat.shiftRight_eq_div_pow, Nat.div_eq_of_lt h, Nat.zero_mod]

theorem bits_low_eq {w : Word} {n : Nat} (h : w.toNat < 2 ^ n) : bits w 0 n = w.toNat := by
  rw [bits, Nat.shiftRight_zero, Nat.mod_eq_of_lt h]

theorem testBit_bits {n : Nat} (w : BitVec n) (lo len j : Nat) :
    (bits w lo len).testBit j = (decide (j < len) && w.getLsbD (lo + j)) := by
  rw [bits, Nat.testBit_mod_two_pow, Nat.testBit_shiftRight, BitVec.getLsbD]

theorem bits_lt {n : Nat} (w : BitVec n) (lo len : Nat) : bits w lo len < 2 ^ len := Nat.mod_lt _ (Nat.two_pow_pos _)

/-- A field shifted back to its place. -/
theorem getLsbD_word_field (v : Word) (lo len i : Nat) (hi : i < 64) :
    (word (bits v lo len * 2 ^ lo)).getLsbD i = (decide (lo ≤ i ∧ i < lo + len) && v.getLsbD i) := by
  rw [word, BitVec.getLsbD_ofNat, Nat.mul_comm, Nat.testBit_two_pow_mul, testBit_bits]
  by_cases h : lo ≤ i
  · simp [hi, h, show i - lo < len ↔ i < lo + len by omega]
  · simp [h]

/-- A field of a word is the word under the field's mask. -/
theorem word_field_eq_and (v mask : Word) (lo len : Nat)
    (hm : ∀ i, i < 64 → mask.getLsbD i = decide (lo ≤ i ∧ i < lo + len)) : word (bits v lo len * 2 ^ lo) = v &&& mask := by
  apply BitVec.eq_of_getLsbD_eq
  intro i hi
  rw [getLsbD_word_field v lo len i hi, BitVec.getLsbD_and, hm i hi, Bool.and_comm]

theorem word_low_eq_and (v mask : Word) (len : Nat) (hm : ∀ i, i < 64 → mask.getLsbD i = decide (i < len)) :
    word (bits v 0 len) = v &&& mask := by
  have h := word_field_eq_and v mask 0 len (fun i hi => by simp [hm i hi])
  simpa using h

/-- `ctl.fmt` without its reserved bit. -/
theorem word_fmt_eq_and (v : Word) : word (bits v 0 15 + bits v 16 36 * 2 ^ 16) = v &&& 0xFFFFFFFFF7FFF := by
  apply BitVec.eq_of_getLsbD_eq
  intro i hi
  have hmask : ∀ i, i < 64 → (0xFFFFFFFFF7FFF : Word).getLsbD i = decide (i < 52 ∧ i ≠ 15) := by decide
  have hlow : bits v 0 15 < 2 ^ 16 := Nat.lt_trans (bits_lt v 0 15) (by decide)
  rw [BitVec.getLsbD_and, hmask i hi, word, BitVec.getLsbD_ofNat, Nat.add_comm, Nat.mul_comm,
    Nat.testBit_two_pow_mul_add _ hlow]
  by_cases h : i < 16
  · simp [h, hi, testBit_bits, show i < 52 by omega, show i < 15 ↔ i ≠ 15 by omega, Bool.and_comm]
  · simp [h, hi, testBit_bits, show 16 + (i - 16) = i by omega, show i - 16 < 36 ↔ i < 52 by omega, show i ≠ 15 by omega,
      Bool.and_comm]

theorem bits_low_eq_zero_iff (v : Word) : bits v 0 32 = 0 ↔ v &&& 0xFFFFFFFF = 0 := by
  rw [← word_low_eq_and v 0xFFFFFFFF 32 (by decide)]
  have hlt := bits_lt v 0 32
  constructor
  · intro h; rw [h]; rfl
  · intro h
    have h0 : (word (bits v 0 32)).toNat = 0 := by rw [h]; rfl
    simp only [word, BitVec.toNat_ofNat] at h0
    omega

/-! ### The three triggers -/

theorem isTrigger_ctlr : IsTrigger 0x301 0x301 .ctlr Slot.m trigCtlr := ⟨rfl, fun _ => rfl, fun _ _ => rfl, by decide⟩
theorem isTrigger_ctlw : IsTrigger 0x302 0x302 .ctlw Slot.m trigCtlw := ⟨rfl, fun _ => rfl, fun _ _ => rfl, by decide⟩
theorem isTrigger_tlbinv : IsTrigger 0x303 0x303 .tlbinv Slot.m trigTlbinv := ⟨rfl, fun _ => rfl, fun _ _ => rfl, by decide⟩

/-- The ctl block wants a modifier of zero, and the privilege for CTLW and TLBINV. -/
theorem allowed_ctl {s : State} {id : Nat} {m : BitVec 4} (hm : m = 0) (hp : needsPriv id = true → (s.env s.focus).priv = true)
    (ht : needsTier id = false := by decide) : Allowed s id m :=
  ⟨by simp [ctlModifier, hm], hp, by simp [ht]⟩

theorem namesSlot_trigCtlw : NamesSlot trigCtlw := by
  intro t w x h
  simp only [trigCtlw] at h
  repeat' split at h
  all_goals cases h
  all_goals rfl

theorem namesSlot_trigTlbinv : NamesSlot trigTlbinv := by
  intro t w x h
  simp only [trigTlbinv] at h
  repeat' split at h
  all_goals cases h
  all_goals rfl

/-! ### What control registers hold -/

/-- The BUSY bits of `ctl.eng`. -/
theorem word_engBusyBits (k : Core) :
    word k.engBusyBits =
      let b2 (b : Bool) (i : Nat) : Word := if b then word (2 ^ i) else 0
      b2 (k.engineBusy 0) 0 + b2 (k.engineBusy 1) 1 + b2 (k.engineBusy 2) 2 + b2 (k.engineBusy 3) 3 +
        b2 ((List.range 8).any k.chanBusy) 4 + b2 (k.tier.any fun t => t.accepted) 5 := by
  have h4 : k.detachedBusy 4 = (List.range 8).any k.chanBusy := rfl
  have h5 : k.detachedBusy 5 = k.tier.any fun t => t.accepted := rfl
  have hr : List.range 4 = [0, 1, 2, 3] := rfl
  simp only [Core.engBusyBits, h4, h5, hr, List.foldl_cons, List.foldl_nil]
  generalize k.engineBusy 0 = b0
  generalize k.engineBusy 1 = b1
  generalize k.engineBusy 2 = b2
  generalize k.engineBusy 3 = b3
  generalize (List.range 8).any k.chanBusy = b4
  generalize (k.tier.any fun t => t.accepted) = b5
  revert b0 b1 b2 b3 b4 b5
  decide

theorem word_tcause (b : BitVec 8) : word (1 + b.toNat * 2) = 1 + b.zeroExtend 64 * 2 := by
  apply BitVec.eq_of_toNat_eq
  simp [word, BitVec.toNat_add, BitVec.toNat_mul]

theorem word_zeroExtend {n : Nat} (b : BitVec n) : word b.toNat = b.zeroExtend 64 := by
  apply BitVec.eq_of_toNat_eq
  simp [word]

/-- What a write of a control register leaves in its field. -/
theorem CtlRegs.write_fields (r : CtlRegs) (v : Word) :
    (r.write 0x001 v).win = v &&& 0x3FFFFF ∧ (r.write 0x002 v).fmt = v &&& 0xFFFFFFFFF7FFF ∧
      (r.write 0x004 v).lpc = v &&& 0x7FFFFFFFFFFE0 ∧ (r.write 0x005 v).lsq = v &&& 0x7FFFF ∧
      (r.write 0x007 v).lix = v &&& 0xFFFFFFFFFF ∧
      (r.write 0x008 v).wdg = (if v &&& 0xFFFFFFFF = 0 then r.wdg else v &&& 0xFFFFFFFF) ∧
      (r.write 0x040 v).pdl = v &&& 0xFFFFFFFF ∧ (r.write 0x080 v).egr = v &&& 0x7FFFFF := by
  refine ⟨word_low_eq_and v _ 22 (by decide), word_fmt_eq_and v, word_field_eq_and v _ 5 46 (by decide),
    word_low_eq_and v _ 19 (by decide), word_low_eq_and v _ 40 (by decide), ?_, word_low_eq_and v _ 32 (by decide),
    word_low_eq_and v _ 23 (by decide)⟩
  simp only [CtlRegs.write, bits_low_eq_zero_iff]
  split
  · rfl
  · exact word_low_eq_and v _ 32 (by decide)

/-- Settles O30: each trigger passes its checks and answers its item; then register by register. -/
theorem controlRegisters : Obligations.ControlRegisters := by
  refine ⟨⟨fun x => ?_, fun x => ?_, ?_, ?_, ?_, ?_⟩, fun s c r v => ?_⟩
  · refine isTrigger_ctlr.triggersIf (fun s f v h => allowed_ctl h.1 fun h => absurd h (by decide)) fun s f src v h => ?_
    obtain ⟨hm, hlt, hx⟩ := h
    simp only [trigCtlr, trigCtx_m, trigCtx_v _ _ _ _ (show lineTrig 0x301 = false from rfl), hm, bits_high_eq_zero hlt,
      bits_low_eq hlt, trigCtx_pre, trigCtx_c, hx]
    rfl
  · refine isTrigger_ctlw.triggersIf (fun s f v h => allowed_ctl h.2.1 fun _ => h.1) fun s f src v h => ?_
    obtain ⟨-, hm, hlt, hx, hq⟩ := h
    simp only [trigCtlw, trigCtx_m, trigCtx_v _ _ _ _ (show lineTrig 0x302 = false from rfl), hm, bits_high_eq_zero hlt,
      bits_low_eq hlt, trigCtx_pre, trigCtx_c, hx, trigCtx_k, hq]
    rw [if_neg (by simp), if_neg (by simp)]
    simp only [TCtx.ctlItem, W.addItem, trigCtx_c, W.modCore_modCore]
    exact congrArg Res.ok (W.modCore_congr _ _ (by rw [trigStart_core, Core.fired_regs]; rfl))
  · refine isTrigger_tlbinv.triggersIf (fun s f v h => allowed_ctl h.2.1 fun _ => h.1) fun s f src v h => ?_
    obtain ⟨-, hm, hlt, hform, ho⟩ := h
    have hv (m : BitVec 4) := trigCtx_v s 0x303 m v (show lineTrig 0x303 = false from rfl)
    have hp : ((trigStart s src).core s.focus).regs.portW 0x300 = s.now.regs.portW 0x300 := by
      rw [trigStart_core, Core.fired_regs]
    have hlow : bitAt (scalarOf v) 2 = (scalarOf v).getLsbD 2 := rfl
    simp only [trigTlbinv, trigCtx_m, hv, hm, trigCtx_c, hp, bits_high_eq_zero (n := 3) hlt, hlow]
    rw [if_neg (by simp), if_neg (by rintro (h | h | ⟨h, h'⟩) <;> [exact h rfl; omega; exact h' (ho h)])]
    simp only [W.addItem, W.buffer, W.modCore_modCore]
    rfl
  · refine isTrigger_ctlr.trapsIf (fun s f v h => allowed_ctl h.1 fun h => absurd h (by decide)) fun s f src v h => ?_
    obtain ⟨hm, hlt, hx⟩ := h
    simp only [trigCtlr, trigCtx_m, trigCtx_v _ _ _ _ (show lineTrig 0x301 = false from rfl), hm, bits_high_eq_zero hlt,
      bits_low_eq hlt, trigCtx_pre, trigCtx_c, hx]
    rfl
  · exact isTrigger_ctlw.trapsIf_illegal namesSlot_trigCtlw fun s f v hv hs h =>
      moveIllegal_rights hv hs (by decide) (by simp [ctlModifier, h.1]) (.inl ⟨by decide, h.2⟩)
  · exact isTrigger_tlbinv.trapsIf_illegal namesSlot_trigTlbinv fun s f v hv hs h =>
      moveIllegal_rights hv hs (by decide) (by simp [ctlModifier, h.1]) (.inl ⟨by decide, h.2⟩)
  · intro k b2
    obtain ⟨hwin, hfmt, hlpc, hlsq, hlix, hwdg, hpdl, hegr⟩ := r.write_fields v
    refine ⟨rfl, congrArg some (word_engBusyBits k), congrArg some (word_zeroExtend _), fun hk => ?_, fun x hk => ?_,
      rfl, rfl, rfl, rfl, rfl, rfl, rfl, rfl, rfl, rfl, rfl, rfl, fun hk => ?_, fun hk => ?_, rfl, rfl, rfl, hwin, hfmt, hlpc,
      hlsq, rfl, hlix, hwdg, rfl, rfl, hpdl, rfl, hegr, rfl, rfl, rfl, rfl, rfl⟩
    · simp only [State.ctlReg, Core.ctlTsk, State.ctlSch, show (s.core c).running = none from hk, and_self]
    · simp only [State.ctlReg, Core.ctlTsk, State.ctlSch, show (s.core c).running = some x from hk]
      refine ⟨rfl, ?_⟩
      cases ((s.die (dieOf c)).board.launch (recLaunch x.img)).units.isEmpty <;> rfl
    · exact congrArg some (if_neg hk)
    · exact congrArg some ((if_pos hk).trans (word_tcause _))

end Sys2Proof.Machine
end

section
/-!
WAITE of the memory tier: a pop's line that its write completes is no longer poisoned (03 R77, R85).
-/

namespace Sys2Proof.Machine

/-- A core that runs a task, with a line of a `:va` pop that no WAITE has ordered yet, at HBM address 0; that line is marked
uncorrectable. -/
def poisonedPop : State where
  cores := [(0, { mode := .task, late := [(0, 0)] })]
  dies := [(0, { board := { launches := [(0, { ctx := 0, hdr := 64#1024 <<< 128 })] }, mc := { poison := [0] } })]

theorem canIssue_poisonedPop : CanIssue poisonedPop 0 := by
  unfold CanIssue
  decide +kernel

theorem inRange_poisonedPop : InRange poisonedPop := by
  unfold InRange
  decide +kernel

/-- The poison marks of die 0 after an instruction that goes on. -/
def poisonAfter : Host.Outcome State Fault Refusal → List Nat
  | .next t => (t.die 0).mc.poison
  | _ => [0]

/-- WAITE 5 writes the pop's line whole, which ends its poison. -/
theorem poisonAfter_waite : poisonAfter (exec (.waite 0 32) poisonedPop) = [] := by decide +kernel

/-- Refutes O53: where a line that a `:va` pop has written is poisoned, the WAITE of the tier that orders it also takes the
poison mark away, so that the state differs from the one stated in more than memory and the core. -/
theorem not_controlWaits : ¬ Obligations.ControlWaits := by
  intro h
  have hw := (h poisonedPop 0 canIssue_poisonedPop inRange_poisonedPop).1 32
  obtain ⟨t, ht, heq, -, -⟩ := hw.2.1 (by decide) (by decide +kernel) (by decide +kernel) (by decide)
  have hdies : t.dies = poisonedPop.dies := (congrArg State.dies heq :)
  have hpoison := poisonAfter_waite
  rw [ht, poisonAfter, State.die, hdies] at hpoison
  exact absurd hpoison (by decide)

end Sys2Proof.Machine
end
section
/-! The layout of a trap's frame (13 R296, R297): what its words, lines, entries and fields read back as. -/

namespace Sys2Proof.Machine

/-! ### Numbers packed from words, and the lines of a number -/

/-- The number that words of `v` bits make, the first lowest. -/
def packNat (v : Nat) (l : List (BitVec v)) : Nat := l.foldr (fun (x : BitVec v) a => x.toNat + 2 ^ v * a) 0

theorem packWords_eq (l : List Word) : packWords l = packNat 64 l := rfl

/-- Bit `n` of a number packed from words of `v` bits is bit `n % v` of word `n / v`. -/
theorem testBit_packNat {v : Nat} (hv : 0 < v) (l : List (BitVec v)) (n : Nat) :
    (packNat v l).testBit n = (l.getD (n / v) 0).getLsbD (n % v) := by
  induction l generalizing n with
  | nil => simp [packNat]
  | cons x l ih =>
    have hp : packNat v (x :: l) = 2 ^ v * packNat v l + x.toNat := Nat.add_comm _ _
    rw [hp, Nat.testBit_two_pow_mul_add _ x.isLt]
    rcases Nat.lt_or_ge n v with h | h
    · simp [h, Nat.div_eq_of_lt, Nat.mod_eq_of_lt, BitVec.testBit_toNat]
    · obtain ⟨m, rfl⟩ := Nat.exists_eq_add_of_le' h
      simp [ih, hv]

/-- `len` bits of a line of a packed number: they lie in word `i`, from its bit `lo`. -/
theorem extract_packNat {v : Nat} (l : List (BitVec v)) {sh q len i lo : Nat} (hq : sh + q = v * i + lo) (hl : lo + len ≤ v)
    (hn : q + len ≤ 1024) :
    (BitVec.ofNat 1024 (packNat v l >>> sh)).extractLsb' q len = (l.getD i 0).extractLsb' lo len := by
  refine BitVec.eq_of_getLsbD_eq fun b hb => ?_
  have hv : 0 < v := by omega
  have hs : sh + (q + b) = lo + b + v * i := by omega
  have hd : (lo + b + v * i) / v = i := by
    rw [Nat.add_mul_div_left _ _ hv, Nat.div_eq_of_lt (by omega), Nat.zero_add]
  have hm : (lo + b + v * i) % v = lo + b := by
    rw [Nat.add_mul_mod_self_left, Nat.mod_eq_of_lt (by omega)]
  rw [BitVec.getLsbD_extractLsb', BitVec.getLsbD_extractLsb', BitVec.getLsbD_ofNat, Nat.testBit_shiftRight,
    testBit_packNat hv, hs, hd, hm]
  simp [show q + b < 1024 by omega]

@[simp] theorem length_splitLines (n x : Nat) : (splitLines n x).length = n := by simp [splitLines]

theorem getD_splitLines {n i : Nat} (x : Nat) (h : i < n) : (splitLines n x).getD i 0 = BitVec.ofNat 1024 (x >>> (1024 * i)) := by
  simp [splitLines, h]

/-- Word `16 i + j` of packed words stands at place `j` of line `i`. -/
theorem word_of_splitLines (l : List Word) {n i j : Nat} (hi : i < n) (hj : j < 16) :
    ((splitLines n (packWords l)).getD i 0).extractLsb' (64 * j) 64 = l.getD (16 * i + j) 0 := by
  rw [getD_splitLines _ hi, packWords_eq,
    extract_packNat l (i := 16 * i + j) (lo := 0) (by omega) (by omega) (by omega)]
  exact BitVec.extractLsb'_eq_self

/-! ### The parts of a frame -/

/-- The 64-bit operand and result ports in frame order. -/
def framePortWords (r : Regs) : List Word := framePorts.map r.portW ++ frameResults.map fun i => scalarOf (r.result i)

/-- Line 5 of a frame: predicates, LIT and control registers. -/
def Core.frameCtl (k : Core) (a : Bool) : List Word :=
  [word (k.regs.p.toNat / 2 * 2 + 1), k.regs.lit, k.ctl.win, k.ctl.fmt, k.ctl.lpc, k.ctl.lsq, k.ctl.ltc, k.ctl.lix, k.wid,
    word (b2n a)]

/-- Lines 1..21 part by part; the streams make the last three. -/
theorem frameState_split (k : Core) (a : Bool) : ∃ st : Nat, k.frameState a =
    splitLines 4 (packWords ((List.range 64).map k.regs.sreg)) ++ splitLines 1 (packWords (k.frameCtl a)) ++
      splitLines 3 (packWords (framePortWords k.regs)) ++ frameWide.map k.regs.port ++ frameWideResults.map k.regs.result ++
      splitLines 3 st := ⟨_, rfl⟩

theorem length_frameState (k : Core) (a : Bool) : (k.frameState a).length = 21 := by
  obtain ⟨st, hst⟩ := frameState_split k a
  simp [hst, frameWide, frameWideResults]

/-- The scalar registers make the first four lines. -/
theorem frameState_sreg (k : Core) (a : Bool) {i : Nat} (h : i < 64) :
    ((k.frameState a).getD (i / 16) 0).extractLsb' (64 * (i % 16)) 64 = k.regs.sreg i := by
  obtain ⟨st, hst⟩ := frameState_split k a
  have h1 : i / 16 < 4 := by omega
  have hl : (k.frameState a).getD (i / 16) 0 = (splitLines 4 (packWords ((List.range 64).map k.regs.sreg))).getD (i / 16) 0 := by
    simp only [hst, List.append_assoc]
    rw [List.getD_append _ _ _ _ (by simpa using h1)]
  rw [hl, word_of_splitLines _ h1 (Nat.mod_lt _ (by decide)), Nat.div_add_mod]
  simp [h]

theorem frameState_getD_ctl (k : Core) (a : Bool) :
    (k.frameState a).getD 4 0 = (splitLines 1 (packWords (k.frameCtl a))).getD 0 0 := by
  obtain ⟨st, hst⟩ := frameState_split k a
  simp only [hst, List.append_assoc]
  rw [List.getD_append_right _ _ _ _ (by simp), List.getD_append _ _ _ _ (by simp)]
  simp

theorem frameState_getD_ports (k : Core) (a : Bool) {i : Nat} (h : i < 3) :
    (k.frameState a).getD (5 + i) 0 = (splitLines 3 (packWords (framePortWords k.regs))).getD i 0 := by
  obtain ⟨st, hst⟩ := frameState_split k a
  simp only [hst, List.append_assoc]
  rw [List.getD_append_right _ _ _ _ (by simp; omega), List.getD_append_right _ _ _ _ (by simp; omega),
    List.getD_append _ _ _ _ (by simp; omega)]
  congr 1
  simp
  omega

theorem frameState_port (k : Core) (a : Bool) {i : Nat} (h : i < 48) :
    ((k.frameState a).getD (5 + i / 16) 0).extractLsb' (64 * (i % 16)) 64 = (framePortWords k.regs).getD i 0 := by
  rw [frameState_getD_ports k a (by omega), word_of_splitLines _ (by omega) (Nat.mod_lt _ (by decide)), Nat.div_add_mod]

theorem length_framePorts : framePorts.length = 33 := rfl

theorem framePortWords_port (r : Regs) {i p : Nat} (h : framePorts[i]? = some p) :
    i < 33 ∧ (framePortWords r).getD i 0 = r.portW p := by
  obtain ⟨hi, rfl⟩ := List.getElem?_eq_some_iff.mp h
  refine ⟨hi, ?_⟩
  rw [framePortWords, List.getD_append _ _ _ _ (by simpa using hi)]
  simp [hi]

theorem framePortWords_result (r : Regs) {i p : Nat} (h : frameResults[i]? = some p) :
    i < 14 ∧ (framePortWords r).getD (33 + i) 0 = scalarOf (r.result p) := by
  obtain ⟨hi, rfl⟩ := List.getElem?_eq_some_iff.mp h
  refine ⟨hi, ?_⟩
  rw [framePortWords, List.getD_append_right _ _ _ _ (by simp [length_framePorts])]
  simp [hi, length_framePorts]

theorem frameState_wide (k : Core) (a : Bool) {i p : Nat} (h : frameWide[i]? = some p) :
    (k.frameState a).getD (8 + i) 0 = k.regs.port p := by
  obtain ⟨hi, rfl⟩ := List.getElem?_eq_some_iff.mp h
  obtain ⟨st, hst⟩ := frameState_split k a
  have hi4 : i < 4 := hi
  simp only [hst, List.append_assoc]
  rw [List.getD_append_right _ _ _ _ (by simp; omega), List.getD_append_right _ _ _ _ (by simp; omega),
    List.getD_append_right _ _ _ _ (by simp; omega), List.getD_append _ _ _ _ (by simpa using by omega)]
  simp [show 8 + i - 4 - 1 - 3 = i by omega, hi]

theorem frameState_wideResult (k : Core) (a : Bool) {i p : Nat} (h : frameWideResults[i]? = some p) :
    (k.frameState a).getD (12 + i) 0 = k.regs.result p := by
  obtain ⟨hi, rfl⟩ := List.getElem?_eq_some_iff.mp h
  obtain ⟨st, hst⟩ := frameState_split k a
  have hi6 : i < 6 := hi
  have hw : frameWide.length = 4 := rfl
  simp only [hst, List.append_assoc]
  rw [List.getD_append_right _ _ _ _ (by simp; omega), List.getD_append_right _ _ _ _ (by simp; omega),
    List.getD_append_right _ _ _ _ (by simp; omega), List.getD_append_right _ _ _ _ (by simp; omega),
    List.getD_append _ _ _ _ (by simpa using by omega)]
  simp [hw, show 12 + i - 4 - 1 - 3 - 4 = i by omega, hi]

/-! ### Numbers and their fields -/

/-- The low bits of a line that holds a number as long. -/
theorem extract_low_ofNat {n : Nat} (x : BitVec n) (h : n ≤ 1024) : (BitVec.ofNat 1024 x.toNat).extractLsb' 0 n = x := by
  refine BitVec.eq_of_getLsbD_eq fun i hi => ?_
  rw [BitVec.getLsbD_extractLsb', BitVec.getLsbD_ofNat, Nat.zero_add, BitVec.testBit_toNat]
  simp [hi, show i < 1024 by omega]

theorem frameState_ctlWords (k : Core) (a : Bool) : ((k.frameState a).getD 4 0).extractLsb' 0 640 =
    (if a then (1 : BitVec 64) else 0) ++ k.wid ++ k.ctl.lix ++ k.ctl.ltc ++ k.ctl.lsq ++ k.ctl.lpc ++ k.ctl.fmt ++ k.ctl.win ++
      k.regs.lit ++ (0 : BitVec 56) ++ k.regs.p.extractLsb' 1 7 ++ (1 : BitVec 1) := by
  have hp : (word (k.regs.p.toNat / 2 * 2 + 1)).toNat = 1 + 2 * (k.regs.p.extractLsb' 1 7).toNat := by
    have := k.regs.p.isLt
    simp [word]
    omega
  have ha : (word (b2n a)).toNat = (if a then (1 : BitVec 64) else 0).toNat := by cases a <;> rfl
  rw [frameState_getD_ctl, getD_splitLines _ (by decide), packWords_eq]
  refine Eq.trans (congrArg (BitVec.extractLsb' 0 640) (congrArg (BitVec.ofNat 1024) ?_)) (extract_low_ofNat _ (by decide))
  simp only [append_toNat, packNat, Core.frameCtl, List.foldr, hp, ha, Nat.mul_zero, Nat.shiftRight_zero]
  rw [show BitVec.toNat (1 : BitVec 1) = 1 from rfl, show BitVec.toNat (0 : BitVec 56) = 0 from rfl]
  ring

/-! ### Line 0 and the replay entries -/

theorem ofNat_eq_of_toNat {n x : Nat} {y : BitVec n} (h : x = y.toNat) : BitVec.ofNat n x = y := by
  rw [h, BitVec.ofNat_toNat, BitVec.setWidth_eq]

theorem toNat_ofBool_b2n (b : Bool) : (BitVec.ofBool b).toNat = b2n b := by cases b <;> rfl

/-- The fields of frame line 0 (13 R296). -/
def FrameHead.fields (h : FrameHead) :=
  (0 : BitVec 256) ++ h.img ++ (0 : BitVec 96) ++ BitVec.ofNat 32 h.pre ++ BitVec.ofNat 64 h.ts ++ h.cause.i2 ++ h.cause.i1 ++
    h.cause.i0 ++ (0 : BitVec 3) ++ BitVec.ofNat 5 h.ndl ++ BitVec.ofNat 8 h.rqn ++ BitVec.ofNat 16 h.also ++ (0 : BitVec 4) ++
    BitVec.ofBool h.forced ++ BitVec.ofBool h.notask ++ BitVec.ofBool h.tpriv ++ BitVec.ofBool h.loop ++
    BitVec.ofNat 8 h.cause.sub ++ (0 : BitVec 4) ++ BitVec.ofNat 4 h.cause.slot ++ BitVec.ofNat 8 h.cause.code ++
    BitVec.ofNat 64 h.bpc

theorem FrameHead.line_eq (h : FrameHead) : h.line = h.fields := by
  have p0 : (2 : Nat) ^ 320 = 2 ^ 256 * 2 ^ 64 := by rw [← Nat.pow_add]
  have p1 : (2 : Nat) ^ 384 = 2 ^ 256 * 2 ^ 128 := by rw [← Nat.pow_add]
  have p2 : (2 : Nat) ^ 512 = 2 ^ 256 * 2 ^ 256 := by rw [← Nat.pow_add]
  refine ofNat_eq_of_toNat ?_
  simp only [FrameHead.fields, append_toNat, toNat_ofBool_b2n, BitVec.toNat_ofNat, BitVec.ofNat_eq_ofNat, Nat.reducePow,
    Nat.zero_mod, p0, p1, p2]
  ring

theorem decide_add_lt_eq_false {a b : Nat} (h : b ≤ a) (i : Nat) : decide (i + a < b) = false := by
  simp; omega

theorem FrameHead.getLsbD_line (h : FrameHead) (i : Nat) : h.line.getLsbD i = h.fields.getLsbD i :=
  congrArg (BitVec.getLsbD · i) h.line_eq

theorem FrameHead.line_also (h : FrameHead) {i : Nat} (hi : i < 16) : h.line.getLsbD (96 + i) = h.also.testBit i := by
  rw [h.getLsbD_line, Nat.add_comm 96, FrameHead.fields]
  simp only [BitVec.getLsbD_append]
  simp [decide_add_lt_eq_false, hi]
  rw [← BitVec.getLsbD_eq_getElem, BitVec.getLsbD_ofNat, decide_eq_true hi, Bool.true_and]

theorem FrameHead.line_code (h : FrameHead) : h.line.extractLsb' 64 8 = BitVec.ofNat 8 h.cause.code := by
  refine BitVec.eq_of_getLsbD_eq fun i hi => ?_
  rw [BitVec.getLsbD_extractLsb', h.getLsbD_line, Nat.add_comm 64, FrameHead.fields]
  simp only [BitVec.getLsbD_append]
  simp [hi]

theorem FrameHead.line_notask (h : FrameHead) : h.line.getLsbD 90 = h.notask := by
  rw [h.getLsbD_line, FrameHead.fields]
  simp only [BitVec.getLsbD_append]
  simp

/-- The counts of entries and data lines. -/
theorem FrameHead.line_counts (h : FrameHead) : h.line.extractLsb' 112 13 = BitVec.ofNat 5 h.ndl ++ BitVec.ofNat 8 h.rqn := by
  refine BitVec.eq_of_getLsbD_eq fun i hi => ?_
  rw [BitVec.getLsbD_extractLsb', h.getLsbD_line, Nat.add_comm 112, FrameHead.fields]
  simp only [BitVec.getLsbD_append]
  by_cases h8 : i < 8
  · simp [decide_add_lt_eq_false, h8, hi]
  · obtain ⟨j, rfl⟩ := Nat.exists_eq_add_of_le' (Nat.le_of_not_lt h8)
    simp [decide_add_lt_eq_false, hi, show j < 5 by omega, Nat.add_assoc]

/-- Line 0 of a trap outside a loop with nothing unfinished and no other cause. -/
theorem FrameHead.line_plain (h : FrameHead) (hf : h.forced = false) (hl : h.loop = false) (ha : h.also = 0) (hq : h.rqn = 0)
    (hn : h.ndl = 0) (hp : h.pre = 0) : h.line =
      (0 : BitVec 256) ++ h.img ++ (0 : BitVec 128) ++ BitVec.ofNat 64 h.ts ++ h.cause.i2 ++ h.cause.i1 ++ h.cause.i0 ++
        (0 : BitVec 37) ++ BitVec.ofBool h.notask ++ BitVec.ofBool h.tpriv ++ (0 : BitVec 1) ++ BitVec.ofNat 8 h.cause.sub ++
        (0 : BitVec 4) ++ BitVec.ofNat 4 h.cause.slot ++ BitVec.ofNat 8 h.cause.code ++ BitVec.ofNat 64 h.bpc := by
  have p0 : (2 : Nat) ^ 320 = 2 ^ 256 * 2 ^ 64 := by rw [← Nat.pow_add]
  have p1 : (2 : Nat) ^ 384 = 2 ^ 256 * 2 ^ 128 := by rw [← Nat.pow_add]
  have p2 : (2 : Nat) ^ 512 = 2 ^ 256 * 2 ^ 256 := by rw [← Nat.pow_add]
  refine ofNat_eq_of_toNat ?_
  simp only [hf, hl, ha, hq, hn, hp, append_toNat, toNat_ofBool_b2n, BitVec.toNat_ofNat, BitVec.ofNat_eq_ofNat, Nat.reducePow,
    Nat.zero_mod, p0, p1, p2, show b2n false = 0 from rfl]
  ring

/-- The entry of a digital operation, its data lines the first ones (13 R298, R300). -/
theorem Replay.entry_dig (x : Replay) (hk : x.kind = 1) (he : x.el = 0) : x.entry 0 =
    x.b ++ x.a ++ (0 : BitVec 64) ++ BitVec.ofNat 32 x.rem ++ BitVec.ofNat 3 x.lines.length ++ (0 : BitVec 9) ++ x.m ++
      BitVec.ofNat 12 x.id ++ (1 : BitVec 4) := by
  refine ofNat_eq_of_toNat ?_
  simp only [hk, he, append_toNat, BitVec.toNat_ofNat, BitVec.ofNat_eq_ofNat, Nat.reducePow, Nat.zero_mod, Nat.reduceMod]
  ring

/-! ### The lines of a frame -/

section
variable (h : FrameHead) {mid : List Line} (es : List (BitVec 256 × List Line))

theorem frameLines_zero : (frameLines h mid es).getD 0 0 = h.line := by simp [frameLines]

theorem frameLines_mid (hm : mid.length = 21) {i : Nat} (hi : i < 21) :
    (frameLines h mid es).getD (1 + i) 0 = mid.getD i 0 := by
  simp only [frameLines, List.append_assoc]
  rw [List.getD_append_right _ _ _ _ (by simp), List.getD_append _ _ _ _ (by simpa [hm] using hi)]
  simp

/-- The number that the replay entries make. -/
theorem foldr_entries : es.foldr (fun e a => e.1.toNat + 2 ^ 256 * a) 0 = packNat 256 (es.map (·.1)) := by
  rw [packNat, List.foldr_map]

theorem frameLines_entries (hm : mid.length = 21) {i : Nat} (hi : i < 12) :
    (frameLines h mid es).getD (22 + i) 0 = (splitLines 12 (packNat 256 (es.map (·.1)))).getD i 0 := by
  simp only [frameLines, List.append_assoc, foldr_entries]
  rw [← List.append_assoc, List.getD_append_right _ _ _ _ (by simp [hm]), List.getD_append _ _ _ _ (by simp [hm, hi])]
  simp [hm]

theorem frameLines_data (hm : mid.length = 21) {i : Nat} {l : Line} (hi : (es.map (·.2)).flatten[i]? = some l) :
    (frameLines h mid es).getD (34 + i) 0 = l := by
  obtain ⟨hlt, rfl⟩ := List.getElem?_eq_some_iff.mp hi
  simp only [frameLines]
  rw [List.getD_append _ _ _ _ (by simp only [List.length_append, List.length_singleton, hm, length_splitLines]; omega),
    List.getD_append_right _ _ _ _ (by simp [hm])]
  simp only [List.length_append, List.length_singleton, hm, length_splitLines, Nat.reduceAdd, Nat.add_sub_cancel_left]
  exact List.getD_eq_getElem _ _ hlt

theorem length_frameLines (hm : mid.length = 21) : 64 ≤ (frameLines h mid es).length := by
  simp only [frameLines, List.length_append, List.length_singleton, hm, length_splitLines, List.length_replicate]
  omega
end

end Sys2Proof.Machine
end
section
/-! What trap entry leaves of a core (13 R294): the completions before it, the core stopped, the frame written. -/

namespace Sys2Proof.Machine

/-! ### The frame's lines written -/

theorem Tab.get_map {α : Type} {d : α} (f : α → α) (hf : f d = d) (t : Tab α) (k : Nat) :
    Tab.get d (t.map fun e => (e.1, f e.2)) k = f (Tab.get d t k) := by
  induction t with
  | nil => exact hf.symm
  | cons e t ih =>
    simp only [List.map_cons, Tab.get]
    split <;> simp [ih]

/-- A core with a line present. -/
def Core.withPresent (k : Core) (ln : Nat) : Core := { k with absent := Tab.put false k.absent ln false }

/-- A core with one line of its frame written and present. -/
def Core.putLine (k : Core) (e : Nat × Line) : Core := (k.setLine (32704 + e.1) e.2).withPresent (32704 + e.1)

theorem Core.wakeLine_of_items {k : Core} (h : k.pipe.items = []) (o ln : Nat) (l : Line) : k.wakeLine o ln l = k := by
  have hp : { k.pipe with items := [] } = k.pipe := by rw [← h]
  simp [Core.wakeLine, Core.modPipe, h, hp]

/-- A line made present on a core with nothing unfinished. -/
theorem core_setPresent (w : W) (c ln : Nat) (h : (w.core c).pipe.items = []) :
    (w.setPresent c ln).core c = (w.core c).withPresent ln := by
  refine (Tab.get_map (fun k => Core.wakeLine k c ln _) (Core.wakeLine_of_items (k := Core.reset) rfl _ _ _) _ c).trans ?_
  refine (congrArg (Core.wakeLine · _ _ _) (W.core_modCore_same w c _)).trans ?_
  exact Core.wakeLine_of_items (k := (w.core c).withPresent ln) h _ _ _

/-- The frame lines written are the core's lines written one by one. -/
theorem core_writeLines (c : Nat) (q : List (Nat × Line)) : ∀ w : W, (w.core c).pipe.items = [] →
    (q.foldl (fun w e => (w.setLine c (32704 + e.1) e.2).setPresent c (32704 + e.1)) w).core c =
      q.foldl Core.putLine (w.core c) := by
  induction q with
  | nil => exact fun _ _ => rfl
  | cons e q ih =>
    intro w h
    have hs : (w.setLine c (32704 + e.1) e.2).core c = (w.core c).setLine (32704 + e.1) e.2 :=
      W.core_modCore_same w c _
    have h1 : ((w.setLine c (32704 + e.1) e.2).setPresent c (32704 + e.1)).core c = (w.core c).putLine e := by
      rw [core_setPresent _ _ _ (by rw [hs]; exact h), hs]
      rfl
    rw [List.foldl_cons, List.foldl_cons, ih _ (by rw [h1]; exact h), h1]

theorem Core.line_putLine (k : Core) (e : Nat × Line) (ln : Nat) :
    (k.putLine e).line ln = if ln = 32704 + e.1 then e.2 else k.line ln := Tab.get_put _ _ _ _ _

theorem Core.present_putLine (k : Core) (e : Nat × Line) (ln : Nat) :
    (k.putLine e).present ln = (decide (ln = 32704 + e.1) || k.present ln) := by
  simp only [Core.present, Core.putLine, Core.withPresent, Core.setLine, Tab.get_put]
  split <;> simp [*]

/-- Only lines and their marks change. -/
theorem Core.putLines_rest (q : List (Nat × Line)) : ∀ k : Core, ∃ v f a,
    q.foldl Core.putLine k = { k with vrf := v, soft := f, absent := a } := by
  induction q with
  | nil => exact fun k => ⟨_, _, _, rfl⟩
  | cons e q ih =>
    intro k
    obtain ⟨v, f, a, h⟩ := ih (k.putLine e)
    exact ⟨v, f, a, h⟩

theorem Core.putLines_line_other {ln : Nat} (q : List (Nat × Line)) : ∀ k : Core, (∀ e ∈ q, ln ≠ 32704 + e.1) →
    (q.foldl Core.putLine k).line ln = k.line ln := by
  induction q with
  | nil => exact fun _ _ => rfl
  | cons e q ih =>
    intro k h
    obtain ⟨he, hq⟩ := List.forall_mem_cons.mp h
    rw [List.foldl_cons, ih _ hq, Core.line_putLine, if_neg he]

theorem Core.putLines_line (q : List (Nat × Line)) : ∀ k : Core, (q.map (·.1)).Nodup → ∀ e ∈ q,
    (q.foldl Core.putLine k).line (32704 + e.1) = e.2 := by
  induction q with
  | nil => simp
  | cons x q ih =>
    intro k hn e he
    obtain ⟨hx, hq⟩ := List.nodup_cons.mp hn
    rcases List.mem_cons.mp he with rfl | he
    · rw [List.foldl_cons, Core.putLines_line_other, Core.line_putLine, if_pos rfl]
      intro y hy hxy
      exact hx (List.mem_map.mpr ⟨y, hy, (Nat.add_left_cancel hxy).symm⟩)
    · exact ih _ hq e he

theorem Core.putLines_present_mono {ln : Nat} (q : List (Nat × Line)) : ∀ k : Core, k.present ln = true →
    (q.foldl Core.putLine k).present ln = true := by
  induction q with
  | nil => exact fun _ h => h
  | cons e q ih => exact fun k h => ih _ (by rw [Core.present_putLine, h, Bool.or_true])

theorem Core.putLines_present (q : List (Nat × Line)) : ∀ k : Core, ∀ e ∈ q,
    (q.foldl Core.putLine k).present (32704 + e.1) = true := by
  induction q with
  | nil => simp
  | cons x q ih =>
    intro k e he
    rcases List.mem_cons.mp he with rfl | he
    · exact Core.putLines_present_mono q _ (by simp [Core.present_putLine])
    · exact ih _ e he

section
variable {l : List Line} (k : Core)

/-- A core with its frame written. -/
def Core.putFrame (k : Core) (l : List Line) : Core := ((List.range 64).zip l).foldl Core.putLine k

theorem mem_frame_zip (h : 64 ≤ l.length) {i : Nat} (hi : i < 64) : (i, l.getD i 0) ∈ (List.range 64).zip l := by
  have hl : i < l.length := by omega
  refine List.mem_iff_getElem.mpr ⟨i, by simp; omega, ?_⟩
  simp [hl]

theorem Core.line_putFrame (h : 64 ≤ l.length) {i : Nat} (hi : i < 64) : (k.putFrame l).line (32704 + i) = l.getD i 0 := by
  refine Core.putLines_line _ k ?_ _ (mem_frame_zip h hi)
  rw [List.map_fst_zip (by simpa using h)]
  exact List.nodup_range

theorem Core.line_putFrame_low {ln : Nat} (h : ln < 32704) : (k.putFrame l).line ln = k.line ln :=
  Core.putLines_line_other _ k fun _ _ => by omega

theorem Core.present_putFrame (h : 64 ≤ l.length) {i : Nat} (hi : i < 64) : (k.putFrame l).present (32704 + i) = true :=
  Core.putLines_present _ k _ (mem_frame_zip h hi)

theorem core_writeFrame {w : W} {c : Nat} (h : (w.core c).pipe.items = []) :
    (w.writeFrame c l).core c = (w.core c).putFrame l := core_writeLines c _ w h

theorem Core.putFrame_rest : ∃ v f a, k.putFrame l = { k with vrf := v, soft := f, absent := a } := Core.putLines_rest _ k
end

/-! ### The completions before a trap -/

/-- What completions leave alone: main memory, and of core `c` its lines, its accumulators, its task and its context. -/
structure Kept (c : Nat) (w w' : W) : Prop where
  mem : w'.mem = w.mem
  out : w'.out = w.out
  zeroed : w'.zeroed = w.zeroed
  vrf : (w'.core c).vrf = (w.core c).vrf
  accw : (w'.core c).accw = (w.core c).accw
  running : (w'.core c).running = (w.core c).running
  ctx : (w'.core c).ctx = (w.core c).ctx

section
variable {c : Nat} {w w' w'' : W}

theorem Kept.refl : Kept c w w := ⟨rfl, rfl, rfl, rfl, rfl, rfl, rfl⟩

theorem Kept.trans (h : Kept c w w') (h' : Kept c w' w'') : Kept c w w'' :=
  ⟨h'.mem.trans h.mem, h'.out.trans h.out, h'.zeroed.trans h.zeroed, h'.vrf.trans h.vrf, h'.accw.trans h.accw,
    h'.running.trans h.running, h'.ctx.trans h.ctx⟩

theorem kept_modDie (d : Nat) (f : Die → Die) : Kept c w (w.modDie d f) := ⟨rfl, rfl, rfl, rfl, rfl, rfl, rfl⟩

/-- A change of a core that leaves its lines, its accumulators, its task and its context. -/
def KeepsCore (f : Core → Core) : Prop :=
  ∀ k, (f k).vrf = k.vrf ∧ (f k).accw = k.accw ∧ (f k).running = k.running ∧ (f k).ctx = k.ctx

theorem kept_modCore (o : Nat) {f : Core → Core} (hf : KeepsCore f) : Kept c w (w.modCore o f) := by
  by_cases h : c = o
  · subst h
    obtain ⟨hv, ha, hr, hx⟩ := hf (w.core c)
    exact ⟨rfl, rfl, rfl, by simp [hv], by simp [ha], by simp [hr], by simp [hx]⟩
  · refine ⟨rfl, rfl, rfl, ?_, ?_, ?_, ?_⟩ <;> rw [W.core_modCore_ne _ _ _ h]

theorem kept_foldl {α : Type} {f : W → α → W} (h : ∀ w a, Kept c w (f w a)) (l : List α) : ∀ w, Kept c w (l.foldl f w) := by
  induction l with
  | nil => exact fun _ => .refl
  | cons a l ih => exact fun w => (h w a).trans (ih _)

theorem kept_deliver (l : List Delta) : Kept c w (w.deliver l) := kept_foldl (fun _ _ => kept_modDie _ _) l w

theorem kept_svUpdate (d n : Nat) (f : SvRec → SvRec) : Kept c w (w.svUpdate d n f) := by
  unfold W.svUpdate
  dsimp only
  split
  · exact ((kept_modDie _ _).trans (kept_deliver _)).trans (kept_modDie _ _)
  · exact kept_modDie _ _

theorem kept_noteRec (d n : Nat) (xs : List FNum) : Kept c w (w.noteRec d n xs).1 := by
  unfold W.noteRec
  dsimp only
  exact kept_svUpdate _ _ _

theorem kept_clampRec (d n k : Nat) : Kept c w (w.clampRec d n k).1 := by
  unfold W.clampRec
  dsimp only
  split
  · exact .refl
  · exact kept_svUpdate _ _ _

theorem kept_rescaleAt (o d sv seq : Nat) (bpc : Word) : Kept c w (w.rescaleAt o d sv seq bpc) :=
  kept_modCore _ fun _ => ⟨rfl, rfl, rfl, rfl⟩

theorem kept_rescaleQnt (o d sv seq : Nat) (bpc : Word) : Kept c w (w.rescaleQnt o d sv seq bpc) :=
  kept_modCore _ fun _ => ⟨rfl, rfl, rfl, rfl⟩

theorem kept_modLayer (o ctx : Nat) {f : Core → Core} (hf : KeepsCore f) : Kept c w (w.modLayer o ctx f) := by
  unfold W.modLayer
  split
  · exact kept_modCore _ hf
  · split
    · exact kept_modDie _ _
    · exact .refl

theorem kept_itemFx (o : Nat) (it : Item) : Kept c w (w.itemFx o it) := by
  unfold W.itemFx
  split
  · exact .refl
  · dsimp only
    split
    · exact (kept_clampRec _ _ _).trans (kept_rescaleQnt _ _ _ _ _)
    · exact kept_clampRec _ _ _
  · dsimp only
    split
    · exact (kept_noteRec _ _ _).trans (kept_rescaleAt _ _ _ _ _)
    · exact kept_noteRec _ _ _
  · refine kept_modLayer _ _ fun k => ?_
    dsimp only
    split <;> exact ⟨rfl, rfl, rfl, rfl⟩

theorem kept_completeItem (o : Nat) (it : Item) : Kept c w (w.completeItem o it) := by
  unfold W.completeItem
  refine Kept.trans ?_ (kept_itemFx _ _)
  split
  · exact .refl
  · exact kept_modCore _ fun _ => ⟨rfl, rfl, rfl, rfl⟩

theorem kept_completeItems (o : Nat) (sel : Item → Bool) : Kept c w (w.completeItems o sel) := by
  unfold W.completeItems
  dsimp only
  refine Kept.trans (kept_foldl (fun w it => kept_completeItem o it) (((w.core o).dueItems w.clk).filter sel) w) ?_
  exact kept_modCore _ fun _ => ⟨rfl, rfl, rfl, rfl⟩

/-- The core with its completions done and its loads to be read again, as the frame saves it (13 R294). -/
def W.settled (w : W) (c : Nat) : W := (w.completeItems c fun _ => true).unread c

theorem kept_settled (o : Nat) : Kept c w (w.settled o) := by
  refine Kept.trans (kept_completeItems o fun _ => true) ?_
  unfold W.settled W.unread
  exact kept_modCore _ fun _ => ⟨rfl, rfl, rfl, rfl⟩
end

/-- With no item due, completions change nothing. -/
theorem completeItems_eq {w : W} {c : Nat} (hd : (w.core c).dueItems w.clk = []) (sel : Item → Bool) :
    w.completeItems c sel = w.modCore c id := by
  have hf : (w.core c).pipe.items.filter (fun it => !(([] : List Item).contains it)) = (w.core c).pipe.items :=
    List.filter_eq_self.mpr fun _ _ => rfl
  simp only [W.completeItems, hd, List.filter_nil, List.foldl_nil, List.any_nil, Bool.and_false, Bool.false_eq_true,
    if_false, List.map_id']
  refine W.modCore_congr _ _ ?_
  simp only [Core.modPipe, hf, id]

/-- With no item due and no load unread, settling changes nothing. -/
theorem settled_eq {w : W} {c : Nat} (hd : (w.core c).dueItems w.clk = [])
    (hu : ∀ it ∈ (w.core c).pipe.items, it.unread w.clk = it) : w.settled c = w.modCore c id := by
  have hm : (w.core c).pipe.items.map (fun it => it.unread (w.modCore c id).clk) = (w.core c).pipe.items :=
    (List.map_congr_left hu).trans (List.map_id _)
  rw [W.settled, completeItems_eq hd, W.unread, W.modCore_modCore]
  refine W.modCore_congr _ _ ?_
  simp only [Core.modPipe, hm, id]

/-! ### The core stopped, its frame written, the handler begun -/

section
variable (w : W) (c : Nat)

@[simp] theorem slewWithdraw_core (o : Nat) : (w.slewWithdraw c).core o = w.core o := rfl

/-- What a stopped core keeps: its lines, its accumulators, its task and its context. -/
theorem kept_stopCore : Kept c w (w.stopCore c) := by
  unfold W.stopCore W.slewWithdraw
  dsimp only
  refine Kept.trans ?_ (kept_modDie _ _)
  exact kept_modCore c fun _ => ⟨rfl, rfl, rfl, rfl⟩

theorem stopCore_quiet : { (w.stopCore c).core c with tier := [] }.Quiet := by
  simp [Core.Quiet, W.stopCore]

theorem stopCore_items : ((w.stopCore c).core c).pipe.items = [] := by simp [W.stopCore]

theorem writeFrame_mem (l : List Line) : (w.writeFrame c l).mem = w.mem ∧ (w.writeFrame c l).out = w.out ∧
    (w.writeFrame c l).zeroed = w.zeroed := by
  unfold W.writeFrame
  generalize (List.range 64).zip l = q
  induction q generalizing w with
  | nil => exact ⟨rfl, rfl, rfl⟩
  | cons e q ih => exact ih ((w.setLine c (32704 + e.1) e.2).setPresent c (32704 + e.1))

/-- A step that is not armed adds no event. -/
theorem stepTrap_of_not_armed {w : W} {c : Nat} (h : (w.core c).stepArm = false) (code : Nat) : w.stepTrap c code = w := by
  simp [W.stepTrap, h]
end

section
variable {w : W} {c : Nat} (x : Cause) (also : Nat) (img : BitVec 256) (loop : Bool)

/-- The frame of a trap (13 R296). -/
def W.entryFrame (w : W) (c : Nat) (x : Cause) (also : Nat) (img : BitVec 256) (loop : Bool) : List Line × Shadow :=
  (w.settled c).frameOf c x also img loop false

/-- The header of that frame. -/
def W.entryHead (w : W) (c : Nat) (x : Cause) (also : Nat) (img : BitVec 256) (loop : Bool) : FrameHead :=
  let rs := (w.core c).replayItems
  let es := replayEntries rs 0
  { bpc := (w.core c).pcAddr, cause := x, loop := loop, tpriv := (w.env c).priv, notask := (w.core c).notask, forced := false
    also := also, rqn := es.length, ndl := (es.map fun q => q.2.length).foldl (· + ·) 0, ts := w.ts
    pre := rs.foldl (fun a q => Nat.max a q.el) 0, img := img }

theorem entryFrame_eq : (w.entryFrame c x also img loop).1 =
    frameLines ((w.settled c).entryHead c x also img loop) (((w.settled c).core c).frameState ((w.settled c).core c).acqPending)
      (replayEntries ((w.settled c).core c).replayItems 0) := rfl

theorem length_entryFrame : 64 ≤ (w.entryFrame c x also img loop).1.length := by
  rw [entryFrame_eq]
  exact length_frameLines _ _ (length_frameState _ _)

/-- A core whose frame is written as its handler begins at `pc`. -/
def Core.handled (k : Core) (code pc : Nat) (sh : Shadow) : Core :=
  { (k.setPc pc) with
    mode := .handler, bkpt := false
    shadow := sh
    seq := { on := false, body := [] }
    ctl := { k.ctl with win := word 32704, tcause := BitVec.ofNat 8 code } }

section
variable (k : Core) (code pc : Nat) (sh : Shadow)

@[simp] theorem Core.line_handled (ln : Nat) : (k.handled code pc sh).line ln = k.line ln := rfl
@[simp] theorem Core.present_handled (ln : Nat) : (k.handled code pc sh).present ln = k.present ln := rfl

/-- The state in which a handler begins. -/
theorem Core.handled_state : let k' := k.handled code pc sh
    k'.mode = .handler ∧ k'.pc = BitVec.ofNat 46 (pc / 32) ∧ k'.ctl.tcause = BitVec.ofNat 8 code ∧ k'.ctl.win = 32704 ∧
      k'.seq.on = false := ⟨rfl, rfl, rfl, rfl, rfl⟩

/-- What neither the frame nor the handler's beginning touches. -/
theorem Core.handled_putFrame_kept (l : List Line) : let k' := (k.putFrame l).handled code pc sh
    ({ k' with tier := [] }.Quiet ↔ { k with tier := [] }.Quiet) ∧ k'.running = k.running ∧ k'.ctx = k.ctx ∧
      k'.accw = k.accw := by
  obtain ⟨v, f, a, hp⟩ := k.putFrame_rest (l := l)
  dsimp only
  rw [hp]
  exact ⟨Iff.rfl, rfl, rfl, rfl⟩
end

variable (ha : (w.core c).stepArm = false) (hm : (w.core c).mode ≠ .handler)
  (hr : (w.handlerRange (dieOf c) ((w.core c).ctx.getD 0)).1 ≠ (w.handlerRange (dieOf c) ((w.core c).ctx.getD 0)).2)
include ha hm hr

/-- Trap entry with a usable handler range. -/
theorem enterTrap_eq : w.enterTrap c x also img loop =
    (((w.settled c).stopCore c).writeFrame c (w.entryFrame c x also img loop).1).modCore c fun k =>
      k.handled x.code (w.handlerRange (dieOf c) ((w.core c).ctx.getD 0)).1 (w.entryFrame c x also img loop).2 := by
  unfold W.enterTrap
  dsimp only
  rw [stepTrap_of_not_armed ha, if_neg (by simp [hm, hr])]
  rfl

theorem core_enterTrap : (w.enterTrap c x also img loop).core c =
    ((((w.settled c).stopCore c).core c).putFrame (w.entryFrame c x also img loop).1).handled x.code
      (w.handlerRange (dieOf c) ((w.core c).ctx.getD 0)).1 (w.entryFrame c x also img loop).2 := by
  rw [enterTrap_eq x also img loop ha hm hr, W.core_modCore_same, core_writeFrame (stopCore_items _ _)]

theorem enterTrap_mem : (w.enterTrap c x also img loop).mem = w.mem ∧ (w.enterTrap c x also img loop).out = w.out ∧
    (w.enterTrap c x also img loop).zeroed = w.zeroed := by
  obtain ⟨h1, h2, h3⟩ := writeFrame_mem ((w.settled c).stopCore c) c (w.entryFrame c x also img loop).1
  have hk : Kept c w ((w.settled c).stopCore c) := (kept_settled c).trans (kept_stopCore _ _)
  rw [enterTrap_eq x also img loop ha hm hr]
  generalize W.writeFrame _ _ _ = w1 at h1 h2 h3 ⊢
  exact ⟨h1.trans hk.mem, h2.trans hk.out, h3.trans hk.zeroed⟩

theorem enterTrap_line {i : Nat} (hi : i < 64) : ((w.enterTrap c x also img loop).core c).line (32704 + i) =
    (w.entryFrame c x also img loop).1.getD i 0 := by
  rw [core_enterTrap x also img loop ha hm hr, Core.line_handled,
    Core.line_putFrame _ (length_entryFrame x also img loop) hi]

theorem enterTrap_line_low {ln : Nat} (h : ln < 32704) : ((w.enterTrap c x also img loop).core c).line ln = (w.core c).line ln := by
  have hk : Kept c w ((w.settled c).stopCore c) := (kept_settled c).trans (kept_stopCore _ _)
  rw [core_enterTrap x also img loop ha hm hr, Core.line_handled, Core.line_putFrame_low _ h, Core.line, hk.vrf, Core.line]

theorem enterTrap_present {i : Nat} (hi : i < 64) : ((w.enterTrap c x also img loop).core c).present (32704 + i) = true := by
  rw [core_enterTrap x also img loop ha hm hr, Core.present_handled,
    Core.present_putFrame _ (length_entryFrame x also img loop) hi]

theorem enterTrap_state : let k' := (w.enterTrap c x also img loop).core c
    k'.mode = .handler ∧
      k'.pc = BitVec.ofNat 46 ((w.handlerRange (dieOf c) ((w.core c).ctx.getD 0)).1 / 32) ∧
      k'.ctl.tcause = BitVec.ofNat 8 x.code ∧ k'.ctl.win = 32704 ∧ k'.seq.on = false := by
  dsimp only
  rw [core_enterTrap x also img loop ha hm hr]
  exact Core.handled_state _ _ _ _

/-- Nothing is unfinished when the handler begins; the task, its context and the accumulators are as before. -/
theorem enterTrap_kept : let k' := (w.enterTrap c x also img loop).core c
    { k' with tier := [] }.Quiet ∧ k'.running = (w.core c).running ∧ k'.ctx = (w.core c).ctx ∧ k'.accw = (w.core c).accw := by
  have hk : Kept c w ((w.settled c).stopCore c) := (kept_settled c).trans (kept_stopCore _ _)
  obtain ⟨hq, hr', hx, hacc⟩ := Core.handled_putFrame_kept (((w.settled c).stopCore c).core c) x.code
    (w.handlerRange (dieOf c) ((w.core c).ctx.getD 0)).1 (w.entryFrame c x also img loop).2 (w.entryFrame c x also img loop).1
  dsimp only
  rw [core_enterTrap x also img loop ha hm hr]
  exact ⟨hq.mpr (stopCore_quiet _ _), hr'.trans hk.running, hx.trans hk.ctx, hacc.trans hk.accw⟩
end

/-! ### What the frame holds -/

section
variable {w : W} {c : Nat} (x : Cause) (also : Nat) (img : BitVec 256) (loop : Bool)

theorem env_modCore_id (w : W) (c : Nat) : (w.modCore c id).env c = w.env c := by
  simp only [State.env, W.core_modCore_same, W.die_modCore, id]
  rfl

theorem entryHead_modCore_id (w : W) (c : Nat) : (w.modCore c id).entryHead c x also img loop = w.entryHead c x also img loop := by
  simp only [W.entryHead, W.core_modCore_same, env_modCore_id, id]
  rfl

/-- The frame where settling changes nothing. -/
theorem entryFrame_of_settled (hd : (w.core c).dueItems w.clk = []) (hu : ∀ it ∈ (w.core c).pipe.items, it.unread w.clk = it) :
    (w.entryFrame c x also img loop).1 = frameLines (w.entryHead c x also img loop)
      ((w.core c).frameState (w.core c).acqPending) (replayEntries (w.core c).replayItems 0) := by
  rw [entryFrame_eq, settled_eq hd hu, entryHead_modCore_id, W.core_modCore_same]
  rfl
end

theorem Core.Quiet.replayItems {k : Core} (h : k.Quiet) : k.replayItems = [] := by
  obtain ⟨hi, hm, hw, ha, hx, hf, ht⟩ := h
  simp [Core.replayItems, Core.accNow, hi, hm, hw, ha, hx, hf, ht]

theorem Core.Quiet.entryFrame {w : W} {c : Nat} (h : (w.core c).Quiet) (x : Cause) (also : Nat) (img : BitVec 256) (loop : Bool) :
    (w.entryFrame c x also img loop).1 = frameLines (w.entryHead c x also img loop)
      ((w.core c).frameState (w.core c).acqPending) [] := by
  have hi : (w.core c).pipe.items = [] := h.1
  rw [entryFrame_of_settled x also img loop (by simp [Core.dueItems, hi]) (by simp [hi]), h.replayItems]
  rfl

/-! ### One digital operation unfinished -/

/-- A core with one digital operation unfinished. -/
structure OneDig (k : Core) (it : Item) : Prop where
  quiet : { k with pipe := { k.pipe with items := [] } }.Quiet
  items : k.pipe.items = [it]
  kind : it.kind = .dig
  notLoad : isLoad it.id = false
  late : k.pipe.run + k.pipe.pre < it.due

theorem OneDig.replayItems {k : Core} {it : Item} (h : OneDig k it) : k.replayItems = [it.replay (k.pipe.run + k.pipe.pre)] := by
  obtain ⟨-, hm, hw, ha, hx, hf, ht⟩ := h.quiet
  dsimp only at hm hw ha hx hf ht
  simp [Core.replayItems, Core.accNow, h.items, hm, hw, ha, hx, hf, ht, insertReplay, Core.restartRun]

theorem OneDig.entryFrame {w : W} {c : Nat} {it : Item} (h : OneDig (w.core c) it) (x : Cause) (also : Nat) (img : BitVec 256)
    (loop : Bool) : (w.entryFrame c x also img loop).1 = frameLines (w.entryHead c x also img loop)
      ((w.core c).frameState (w.core c).acqPending)
      (replayEntries [it.replay ((w.core c).pipe.run + (w.core c).pipe.pre)] 0) := by
  have hl := h.late
  rw [entryFrame_of_settled x also img loop ?_ ?_, h.replayItems]
  · simp only [Core.dueItems, h.items, List.filter_cons, List.filter_nil, show ¬ it.due ≤ (w.core c).pipe.run by omega,
      decide_false, Bool.false_and, Bool.false_eq_true, if_false]
  · simp [h.items, Item.unread, h.notLoad]

theorem OneDig.replay {k : Core} {it : Item} (h : OneDig k it) : let r := it.replay (k.pipe.run + k.pipe.pre)
    r.kind = 1 ∧ r.id = it.id ∧ r.m = it.m ∧ r.rem = it.due - (k.pipe.run + k.pipe.pre) ∧ r.el = 0 ∧ r.a = it.a ∧ r.b = it.b ∧
      r.lines = it.lines := by
  have hl := h.late
  have hr : Nat.max 1 (it.due - (k.pipe.run + k.pipe.pre)) = it.due - (k.pipe.run + k.pipe.pre) := Nat.max_eq_right (by omega)
  simp only [Item.replay, h.kind, hr, and_self]

/-! ### ALSO -/

theorem testBit_sum_bits (p : Nat → Bool) (n i : Nat) :
    ((List.range n).foldl (fun a i => a + b2n (p i) * 2 ^ i) 0).testBit i = (decide (i < n) && p i) ∧
      (List.range n).foldl (fun a i => a + b2n (p i) * 2 ^ i) 0 < 2 ^ n := by
  induction n with
  | zero => simp
  | succ n ih =>
    obtain ⟨hb, hlt⟩ := ih
    rw [List.range_succ, List.foldl_append, List.foldl_cons, List.foldl_nil]
    generalize (List.range n).foldl (fun a i => a + b2n (p i) * 2 ^ i) 0 = a at hb hlt ⊢
    have h1 : b2n (p n) ≤ 1 := by cases p n <;> decide
    refine ⟨?_, ?_⟩
    · rw [Nat.add_comm, Nat.mul_comm, Nat.testBit_two_pow_mul_add _ hlt, hb]
      rcases Nat.lt_trichotomy i n with h | h | h
      · simp [h, Nat.lt_succ_of_lt h]
      · subst h
        cases hp : p i <;> simp [b2n]
      · have : (b2n (p n)).testBit (i - n) = false := Nat.testBit_lt_two_pow
          (Nat.lt_of_le_of_lt h1 (Nat.one_lt_two_pow (by omega)))
        simp [this, Nat.not_lt_of_lt h, show ¬ i < n + 1 by omega]
    · rw [Nat.pow_succ]
      have := Nat.mul_le_mul_right (2 ^ n) h1
      omega

theorem testBit_also (s : State) (c x : Nat) {i : Nat} (hi : i < 16) : (s.also c x).testBit i =
    decide (i ∈ (s.core c).pipe.causes.map (·.code) ∨ i ∈ (s.core c).pipe.attr.map (·.2.code) ∨
      i = 11 ∧ x ≠ 11 ∧ s.preemptDue c = true ∧ (s.saveSlot (dieOf c) ((s.core c).ctx.getD 0)).isSome = true) := by
  unfold State.also
  refine (testBit_sum_bits _ 16 i).1.trans ?_
  rw [decide_eq_true hi, Bool.true_and, Bool.eq_iff_iff]
  simp only [List.contains_eq_mem, decide_eq_true_eq, List.mem_append, or_assoc]
  refine or_congr Iff.rfl (or_congr Iff.rfl ?_)
  split <;> simp_all

theorem also_eq_zero {s : State} {c : Nat} (hc : (s.core c).pipe.causes = []) (ha : (s.core c).pipe.attr = [])
    (hp : s.preemptDue c = false) (x : Nat) : s.also c x = 0 := by
  simp [State.also, hc, ha, hp, b2n]

end Sys2Proof.Machine
end
section
/-! What taking a trap saves and where it goes (13 R293..R298, R304, R305; 17 R357). -/

namespace Sys2Proof.Machine

/-! ### The frame of a core with nothing unfinished -/

section
variable {k' : Core} {h : FrameHead} {k : Core} {es : List (BitVec 256 × List Line)}

/-- Core `k'` holds, in its frame lines, header `h`, the state of core `k` and the entries `es`. -/
def HoldsFrame (k' : Core) (h : FrameHead) (k : Core) (es : List (BitVec 256 × List Line)) : Prop :=
  ∀ i, i < 64 → k'.line (32704 + i) = (frameLines h (k.frameState k.acqPending) es).getD i 0

theorem HoldsFrame.head (H : HoldsFrame k' h k es) : k'.line 32704 = h.line := (H 0 (by decide)).trans (frameLines_zero h es)

theorem HoldsFrame.mid (H : HoldsFrame k' h k es) {i : Nat} (hi : i < 21) :
    k'.line (32704 + (1 + i)) = (k.frameState k.acqPending).getD i 0 :=
  (H _ (by omega)).trans (frameLines_mid h es (length_frameState _ _) hi)

theorem HoldsFrame.sreg (H : HoldsFrame k' h k es) {i : Nat} (hi : i < 64) :
    (k'.line (32704 + (1 + i / 16))).extractLsb' (64 * (i % 16)) 64 = k.regs.sreg i := by
  rw [H.mid (by omega), frameState_sreg _ _ hi]

theorem HoldsFrame.ctl (H : HoldsFrame k' h k es) : (k'.line (32704 + 5)).extractLsb' 0 640 =
    (if k.acqPending then (1 : BitVec 64) else 0) ++ k.wid ++ k.ctl.lix ++ k.ctl.ltc ++ k.ctl.lsq ++ k.ctl.lpc ++ k.ctl.fmt ++
      k.ctl.win ++ k.regs.lit ++ (0 : BitVec 56) ++ k.regs.p.extractLsb' 1 7 ++ (1 : BitVec 1) :=
  (congrArg (BitVec.extractLsb' 0 640) (H.mid (i := 4) (by decide))).trans (frameState_ctlWords k _)

theorem HoldsFrame.portWord (H : HoldsFrame k' h k es) {i : Nat} (hi : i < 48) :
    (k'.line (32704 + (6 + i / 16))).extractLsb' (64 * (i % 16)) 64 = (framePortWords k.regs).getD i 0 := by
  have := H.mid (i := 5 + i / 16) (by omega)
  rw [← Nat.add_assoc 1 5] at this
  rw [this, frameState_port _ _ hi]

theorem HoldsFrame.port (H : HoldsFrame k' h k es) (i p : Nat) (hp : framePorts[i]? = some p) :
    (k'.line (32704 + (6 + i / 16))).extractLsb' (64 * (i % 16)) 64 = k.regs.portW p := by
  obtain ⟨hi, hw⟩ := framePortWords_port k.regs hp
  rw [H.portWord (by omega), hw]

theorem HoldsFrame.result (H : HoldsFrame k' h k es) (i p : Nat) (hp : frameResults[i]? = some p) :
    (k'.line (32704 + (6 + (33 + i) / 16))).extractLsb' (64 * ((33 + i) % 16)) 64 = scalarOf (k.regs.result p) := by
  obtain ⟨hi, hw⟩ := framePortWords_result k.regs hp
  rw [H.portWord (by omega), hw]

theorem HoldsFrame.wide (H : HoldsFrame k' h k es) (i p : Nat) (hp : frameWide[i]? = some p) :
    k'.line (32704 + (9 + i)) = k.regs.port p := by
  have hi : i < 4 := (List.getElem?_eq_some_iff.mp hp).1
  have := H.mid (i := 8 + i) (by omega)
  rwa [← Nat.add_assoc 1 8, frameState_wide _ _ hp] at this

theorem HoldsFrame.wideResult (H : HoldsFrame k' h k es) (i p : Nat) (hp : frameWideResults[i]? = some p) :
    k'.line (32704 + (13 + i)) = k.regs.result p := by
  have hi : i < 6 := (List.getElem?_eq_some_iff.mp hp).1
  have := H.mid (i := 12 + i) (by omega)
  rwa [← Nat.add_assoc 1 12, frameState_wideResult _ _ hp] at this

/-- The first entry, and the data lines behind it. -/
theorem HoldsFrame.entry {e : BitVec 256 × List Line} (H : HoldsFrame k' h k [e]) :
    (k'.line (32704 + 22)).extractLsb' 0 256 = e.1 := by
  have h0 := H 22 (by decide)
  rw [frameLines_entries h [e] (length_frameState _ _) (i := 0) (by decide), getD_splitLines _ (by decide)] at h0
  rw [h0, extract_packNat _ (i := 0) (lo := 0) (by decide) (by decide) (by decide)]
  exact BitVec.extractLsb'_eq_self

theorem HoldsFrame.data {e : BitVec 256 × List Line} (H : HoldsFrame k' h k [e]) (hl : e.2.length ≤ 30) {i : Nat} {l : Line}
    (hi : e.2[i]? = some l) : k'.line (32704 + (34 + i)) = l := by
  have hlt := (List.getElem?_eq_some_iff.mp hi).1
  exact (H _ (by omega)).trans (frameLines_data h [e] (length_frameState _ _) (by simpa using hi))
end

/-! ### The bundle's trap -/

section
variable {s : State} (b : BitVec 256) (x : Cause)

/-- A trap that is no halt enters the handler, or is a double trap. -/
theorem trapped_eq (h : x.code = 13 → s.now.mode ≠ .handler → bitAt (s.die (dieOf s.focus)).dbg.bken (s.now.ctx.getD 0) = false) :
    trapped s b x = ((W.of s).enterTrap s.focus x (s.also s.focus x.code) b false).commit s := by
  have hn : ¬ (x.code = 13 ∧ s.now.mode ≠ .handler ∧ bitAt (s.die (dieOf s.focus)).dbg.bken (s.now.ctx.getD 0)) := by
    rintro ⟨h1, h2, h3⟩
    simp [h h1 h2] at h3
  unfold trapped W.trapAt
  dsimp only
  exact congrArg (W.commit · s) (if_neg hn)

theorem extract_setBits {n : Nat} (w : BitVec n) {lo len : Nat} (v : Nat) (h : lo + len ≤ n) :
    (setBits w lo len v).extractLsb' lo len = BitVec.ofNat len v := by
  refine BitVec.eq_of_getLsbD_eq fun i hi => ?_
  rw [BitVec.getLsbD_extractLsb', getLsbD_setBits _ _ _ h, BitVec.getLsbD_ofNat]
  simp [hi]

theorem extract_setBits_below {n : Nat} (w : BitVec n) {lo len lo' len' : Nat} (v : Nat) (h : lo + len ≤ n) (hl : lo' + len' ≤ lo) :
    (setBits w lo len v).extractLsb' lo' len' = w.extractLsb' lo' len' := by
  refine BitVec.eq_of_getLsbD_eq fun i hi => ?_
  rw [BitVec.getLsbD_extractLsb', BitVec.getLsbD_extractLsb', getLsbD_setBits _ _ _ h]
  simp [hi, show ¬ lo ≤ lo' + i by omega]

/-- A double trap (13 R295). -/
theorem enterTrap_double {w : W} {c : Nat} (also : Nat) (loop : Bool) (ha : (w.core c).stepArm = false)
    (h : (w.core c).mode = .handler ∨
      (w.handlerRange (dieOf c) ((w.core c).ctx.getD 0)).1 = (w.handlerRange (dieOf c) ((w.core c).ctx.getD 0)).2) :
    w.enterTrap c x also b loop = w.doubleTrap c x.code := by
  unfold W.enterTrap
  dsimp only
  rw [stepTrap_of_not_armed ha, if_pos h]

/-- A control block changed. -/
theorem cctl_modDie (w : W) (d ctx : Nat) (g : BitVec 512 → BitVec 512) :
    Tab.get 0 ((w.modDie d fun x => { x with cctl := Tab.put 0 x.cctl ctx (g (Tab.get 0 x.cctl ctx)) }).die d).cctl ctx =
      g (Tab.get 0 (w.die d).cctl ctx) := by
  rw [W.die_modDie_same, Tab.get_put_same]

theorem cctl_slewWithdraw (w : W) (c : Nat) : ((w.slewWithdraw c).die (dieOf c)).cctl = (w.die (dieOf c)).cctl := by
  rw [W.slewWithdraw, W.die_modDie_same]

/-- What a double trap writes in the control block of the context. -/
def doubleTrapBlock (code o : Nat) (blk : BitVec 512) : BitVec 512 := setBits (setBits (setBits blk 320 8 code) 328 7 o) 335 1 1

theorem doubleTrap_eq (w : W) (c code : Nat) : w.doubleTrap c code =
    (((w.modCore c fun k => { k with mode := .stopped, ctl := { k.ctl with res := 0 } }).slewWithdraw c).modDie (dieOf c) fun x =>
      { x with cctl := Tab.put 0 x.cctl ((w.core c).ctx.getD 0)
                 (doubleTrapBlock code (onDie c) (Tab.get 0 x.cctl ((w.core c).ctx.getD 0))) }).modPkg
        fun p => { p with notes := (c, code) :: p.notes } := by
  unfold W.doubleTrap doubleTrapBlock
  rfl

theorem doubleTrap_block (w : W) (c code : Nat) : Tab.get 0 ((w.doubleTrap c code).die (dieOf c)).cctl ((w.core c).ctx.getD 0) =
    doubleTrapBlock code (onDie c) (Tab.get 0 (w.die (dieOf c)).cctl ((w.core c).ctx.getD 0)) := by
  rw [doubleTrap_eq, W.die_modPkg, cctl_modDie, cctl_slewWithdraw, W.die_modCore]

/-- A double trap's record in a control block. -/
theorem doubleTrap_fields (blk : BitVec 512) (code o : Nat) :
    (doubleTrapBlock code o blk).extractLsb' 320 8 = BitVec.ofNat 8 code ∧
      (doubleTrapBlock code o blk).extractLsb' 328 7 = BitVec.ofNat 7 o ∧ (doubleTrapBlock code o blk).getLsbD 335 = true := by
  unfold doubleTrapBlock
  refine ⟨?_, ?_, ?_⟩
  · rw [extract_setBits_below _ _ (by decide) (by decide), extract_setBits_below _ _ (by decide) (by decide),
      extract_setBits _ _ (by decide)]
  · rw [extract_setBits_below _ _ (by decide) (by decide), extract_setBits _ _ (by decide)]
  · rw [getLsbD_setBits _ _ _ (by decide)]
    rfl

/-- The core stops, its reservation goes, the stage manager is told. -/
theorem doubleTrap_effect (w : W) (c code : Nat) :
    (w.doubleTrap c code).core c = { w.core c with mode := .stopped, ctl := { (w.core c).ctl with res := 0 } } ∧
      (w.doubleTrap c code).out = w.out ∧ (w.doubleTrap c code).zeroed = w.zeroed ∧
      (w.doubleTrap c code).pkg.notes = (c, code) :: w.pkg.notes :=
  ⟨by simp [W.doubleTrap], rfl, rfl, rfl⟩
end

/-! ### The halt of a context -/

section
variable {w : W} {ctx : Nat} {f : Core → Core}

theorem core_foldl_modCore (l : List Nat) (hl : l.Nodup) (o : Nat) : ∀ w : W,
    (l.foldl (fun w c => w.modCore c f) w).core o = if o ∈ l then f (w.core o) else w.core o := by
  induction l with
  | nil => simp
  | cons c l ih =>
    intro w
    obtain ⟨hc, hl⟩ := List.nodup_cons.mp hl
    rw [List.foldl_cons, ih hl]
    by_cases ho : o = c
    · subst ho; simp [hc]
    · simp [ho, W.core_modCore_ne _ _ _ ho]

theorem mem_ctxCores {s : State} {d o : Nat} : o ∈ s.ctxCores d ctx ↔ o / 128 = d ∧ (s.core o).ctx = some ctx := by
  simp only [State.ctxCores, List.mem_filter, List.mem_map, List.mem_range, decide_eq_true_eq]
  refine and_congr_left fun _ => ⟨?_, fun h => ⟨o % 128, by omega, by omega⟩⟩
  rintro ⟨a, ha, rfl⟩
  omega

theorem nodup_ctxCores (s : State) (d ctx : Nat) : (s.ctxCores d ctx).Nodup :=
  (List.nodup_range.map fun a b h => by omega).filter _

/-- A change of every core of a context on some dies. -/
theorem core_modCtx (ds : List Nat) (hd : ds.Nodup) (o : Nat) : ∀ w : W,
    (w.modCtx ds ctx f).core o = if o / 128 ∈ ds ∧ (w.core o).ctx = some ctx then f (w.core o) else w.core o := by
  induction ds with
  | nil => simp [W.modCtx]
  | cons d ds ih =>
    intro w
    obtain ⟨hn, hd⟩ := List.nodup_cons.mp hd
    have h1 := core_foldl_modCore (f := f) (w.ctxCores d ctx) (nodup_ctxCores _ _ _) o w
    refine (ih hd _).trans ?_
    rw [h1]
    by_cases hm : o ∈ w.ctxCores d ctx
    · obtain ⟨rfl, hx⟩ := mem_ctxCores.mp hm
      simp [hm, hn, hx]
    · rw [if_neg hm]
      have : ¬ (o / 128 = d ∧ (w.core o).ctx = some ctx) := fun h => hm (mem_ctxCores.mpr h)
      refine if_congr ?_ rfl rfl
      simp only [List.mem_cons]
      tauto

theorem modCtx_rest (ds : List Nat) : ∀ w : W, (w.modCtx ds ctx f).dies = w.dies ∧ (w.modCtx ds ctx f).out = w.out ∧
    (w.modCtx ds ctx f).zeroed = w.zeroed := by
  have hl : ∀ (l : List Nat) (w : W), (l.foldl (fun w c => w.modCore c f) w).dies = w.dies ∧
      (l.foldl (fun w c => w.modCore c f) w).out = w.out ∧ (l.foldl (fun w c => w.modCore c f) w).zeroed = w.zeroed := by
    intro l
    induction l with
    | nil => exact fun _ => ⟨rfl, rfl, rfl⟩
    | cons c l ihl => exact fun w => ihl (w.modCore c f)
  induction ds with
  | nil => exact fun _ => ⟨rfl, rfl, rfl⟩
  | cons e ds ih =>
    intro w
    obtain ⟨h1, h2, h3⟩ := hl (w.ctxCores e ctx) w
    obtain ⟨g1, g2, g3⟩ := ih ((w.ctxCores e ctx).foldl (fun w c => w.modCore c f) w)
    exact ⟨g1.trans h1, g2.trans h2, g3.trans h3⟩

theorem die_foldl_modDie {g : Die → Die} (l : List Nat) (hl : l.Nodup) (d : Nat) : ∀ w : W,
    (l.foldl (fun w e => w.modDie e g) w).die d = if d ∈ l then g (w.die d) else w.die d := by
  induction l with
  | nil => simp
  | cons e l ih =>
    intro w
    obtain ⟨he, hl⟩ := List.nodup_cons.mp hl
    rw [List.foldl_cons, ih hl]
    by_cases ho : d = e
    · subst ho; simp [he]
    · simp [ho, W.die_modDie_ne _ _ ho]

theorem core_foldl_modDie {g : Die → Die} (l : List Nat) (o : Nat) : ∀ w : W,
    (l.foldl (fun w e => w.modDie e g) w).core o = w.core o := by
  induction l with
  | nil => exact fun _ => rfl
  | cons e l ih => exact fun w => ih (w.modDie e g)
end

/-- A core halted with its context (17 R354). -/
def Core.haltedWith (k0 : Core) : Core :=
  let k := { k0 with cp := { k0.cp with ch := k0.cp.ch.map fun (e : Nat × Channel) => (e.1, { e.2 with act := e.2.act.map Copy.halt }) } }
  if k.halted then { k with stepArm := false, chanHalt := true }
  else { k with halted := true, stepArm := false, chanHalt := true, ctl := { k.ctl with halts := k.ctl.halts + 1 } }

/-- A die told of the halt. -/
def Die.stopped (ctx : Nat) (x : Die) : Die :=
  { x with dbg := { x.dbg with stop := setBits x.dbg.stop ctx 1 1, drain := setBits x.dbg.drain ctx 1 0 } }

theorem haltCtx_eq (w : W) (d ctx : Nat) (pkg : Bool) : w.haltCtx d ctx pkg =
    ((cmdDies d pkg).foldl (fun w e => w.modDie e (Die.stopped ctx)) w).modCtx (cmdDies d pkg) ctx Core.haltedWith := rfl

theorem core_haltCtx (w : W) (d ctx o : Nat) : (w.haltCtx d ctx true).core o =
    if o < 1024 ∧ (w.core o).ctx = some ctx then (w.core o).haltedWith else w.core o := by
  rw [haltCtx_eq, core_modCtx (cmdDies d true) List.nodup_range, core_foldl_modDie]
  refine if_congr (and_congr_left fun _ => ?_) rfl rfl
  simp only [cmdDies, if_true, List.mem_range]
  omega

theorem die_haltCtx (w : W) (d ctx : Nat) {e : Nat} (h : e < 8) : (w.haltCtx d ctx true).die e = (w.die e).stopped ctx := by
  have hd := (modCtx_rest (f := Core.haltedWith) (ctx := ctx) (cmdDies d true)
    ((cmdDies d true).foldl (fun w e => w.modDie e (Die.stopped ctx)) w)).1
  rw [haltCtx_eq, State.die, hd]
  refine (die_foldl_modDie _ List.nodup_range e w).trans (if_pos ?_)
  simpa [cmdDies] using h

theorem Core.haltedWith_halted (k : Core) : k.haltedWith.halted = true := by
  unfold Core.haltedWith
  dsimp only
  split
  · assumption
  · rfl

theorem Die.stopped_stop (x : Die) {ctx : Nat} (h : ctx < 64) : (x.stopped ctx).dbg.stop.toNat.testBit ctx = true := by
  have : (setBits x.dbg.stop ctx 1 1).getLsbD ctx = true := by
    rw [getLsbD_setBits _ _ _ (by omega)]
    simp
  exact this

theorem core_commit (w : W) (s : State) (o : Nat) : (w.commit s).core o = w.core o := rfl
theorem die_commit (w : W) (s : State) (d : Nat) : (w.commit s).die d = w.die d := rfl

/-! ### BKPT of a context with its BKEN bit (17 R357) -/

section
variable {s : State} (b : BitVec 256)

/-- The context of the issuing core halts at its BKPT. -/
structure HaltsHere (s : State) : Prop where
  armed : s.now.stepArm = false
  task : s.now.mode = .task
  running : s.now.halted = false
  core : s.focus < 1024
  ctx : s.now.ctx = some (s.now.ctx.getD 0)
  enabled : (s.die (dieOf s.focus)).dbg.bken.toNat.testBit (s.now.ctx.getD 0) = true

theorem HaltsHere.trapped_eq (h : HaltsHere s) : trapped s b { code := 13, slot := 0 } =
    (((W.of s).haltCtx (dieOf s.focus) (s.now.ctx.getD 0) true).modCore s.focus fun k => { k with bkpt := true }).commit s := by
  have hn : (13 : Nat) = 13 ∧ s.now.mode ≠ .handler ∧ bitAt (s.die (dieOf s.focus)).dbg.bken (s.now.ctx.getD 0) :=
    ⟨rfl, by rw [h.task]; decide, h.enabled⟩
  unfold trapped W.trapAt
  dsimp only
  refine (congrArg (W.commit · s) (if_pos hn)).trans ?_
  rw [stepTrap_of_not_armed h.armed]
  rfl

theorem HaltsHere.core_other (h : HaltsHere s) {o : Nat} (ho : o ≠ s.focus) : (trapped s b { code := 13, slot := 0 }).core o =
    if o < 1024 ∧ (s.core o).ctx = some (s.now.ctx.getD 0) then (s.core o).haltedWith else s.core o := by
  rw [h.trapped_eq, core_commit, W.core_modCore_ne _ _ _ ho, core_haltCtx, W.of_core]

theorem HaltsHere.core_self (h : HaltsHere s) : (trapped s b { code := 13, slot := 0 }).core s.focus =
    { s.now.haltedWith with bkpt := true } := by
  rw [h.trapped_eq, core_commit, W.core_modCore_same, core_haltCtx, W.of_core, if_pos ⟨h.core, h.ctx⟩]

theorem HaltsHere.stop (h : HaltsHere s) (hx : s.now.ctx.getD 0 < 64) {e : Nat} (he : e < 8) :
    ((trapped s b { code := 13, slot := 0 }).die e).dbg.stop.toNat.testBit (s.now.ctx.getD 0) = true := by
  have hd : (trapped s b { code := 13, slot := 0 }).die e = (s.die e).stopped (s.now.ctx.getD 0) := by
    rw [h.trapped_eq, die_commit, W.die_modCore, die_haltCtx _ _ _ he, W.of_die]
  rw [hd]
  exact Die.stopped_stop _ hx
end

/-- A trap taken with a usable handler range, on a core that is not in a handler. -/
theorem holdsFrame_enterTrap {w : W} {c : Nat} {x : Cause} {also : Nat} {img : BitVec 256} {loop : Bool}
    {es : List (BitVec 256 × List Line)} (ha : (w.core c).stepArm = false) (hm : (w.core c).mode ≠ .handler)
    (hr : (w.handlerRange (dieOf c) ((w.core c).ctx.getD 0)).1 ≠ (w.handlerRange (dieOf c) ((w.core c).ctx.getD 0)).2)
    (hf : (w.entryFrame c x also img loop).1 = frameLines (w.entryHead c x also img loop)
      ((w.core c).frameState (w.core c).acqPending) es) :
    HoldsFrame ((w.enterTrap c x also img loop).core c) (w.entryHead c x also img loop) (w.core c) es := fun i hi => by
  rw [enterTrap_line x also img loop ha hm hr hi, hf]

theorem Core.Quiet.entryHead_counts {w : W} {c : Nat} (h : (w.core c).Quiet) (x : Cause) (also : Nat) (img : BitVec 256)
    (loop : Bool) : let e := w.entryHead c x also img loop
    e.rqn = 0 ∧ e.ndl = 0 ∧ e.pre = 0 := by
  simp [W.entryHead, h.replayItems, replayEntries]

theorem OneDig.entryHead_counts {w : W} {c : Nat} {it : Item} (h : OneDig (w.core c) it) (x : Cause) (also : Nat)
    (img : BitVec 256) (loop : Bool) : (w.entryHead c x also img loop).ndl = it.lines.length ∧
      (w.entryHead c x also img loop).rqn = 1 := by
  obtain ⟨-, -, -, -, -, -, -, hl⟩ := h.replay
  simp [W.entryHead, h.replayItems, replayEntries, hl]

/-! ### Entry with a usable handler range -/

section
variable {s : State} {x : Cause} (b : BitVec 256)

/-- A trap of the issuing core's bundle that a handler takes. -/
structure Enters (s : State) (x : Cause) : Prop where
  armed : s.now.stepArm = false
  mode : s.now.mode ≠ .handler
  range : (s.handlerRange (dieOf s.focus) (s.now.ctx.getD 0)).1 ≠ (s.handlerRange (dieOf s.focus) (s.now.ctx.getD 0)).2
  noHalt : x.code = 13 → (s.die (dieOf s.focus)).dbg.bken.toNat.testBit (s.now.ctx.getD 0) = false

theorem Enters.trapped_eq (h : Enters s x) :
    trapped s b x = ((W.of s).enterTrap s.focus x (s.also s.focus x.code) b false).commit s :=
  Machine.trapped_eq b x fun h13 _ => h.noHalt h13

theorem Enters.core_eq (h : Enters s x) :
    (trapped s b x).core s.focus = ((W.of s).enterTrap s.focus x (s.also s.focus x.code) b false).core s.focus := by
  rw [h.trapped_eq]
  rfl

theorem Enters.mem (h : Enters s x) : (trapped s b x).mem = s.mem := by
  obtain ⟨-, hout, hz⟩ := enterTrap_mem (w := W.of s) x (s.also s.focus x.code) b false h.armed h.mode h.range
  rw [h.trapped_eq]
  exact W.commit_mem_same _ _ hout hz

theorem Enters.state (h : Enters s x) : let k' := (trapped s b x).core s.focus
    k'.mode = .handler ∧ k'.pc = BitVec.ofNat 46 ((s.handlerRange (dieOf s.focus) (s.now.ctx.getD 0)).1 / 32) ∧
      k'.ctl.tcause = BitVec.ofNat 8 x.code ∧ k'.ctl.win = 32704 ∧ k'.seq.on = false := by
  have hs := enterTrap_state (w := W.of s) x (s.also s.focus x.code) b false h.armed h.mode h.range
  dsimp only
  rw [h.core_eq]
  exact hs

theorem Enters.kept (h : Enters s x) : let k' := (trapped s b x).core s.focus
    { k' with tier := [] }.Quiet ∧ k'.running = s.now.running ∧ k'.ctx = s.now.ctx ∧ k'.accw = s.now.accw := by
  have hk := enterTrap_kept (w := W.of s) x (s.also s.focus x.code) b false h.armed h.mode h.range
  dsimp only
  rw [h.core_eq]
  exact hk

theorem Enters.line_low (h : Enters s x) {i : Nat} (hi : i < 32704) :
    ((trapped s b x).core s.focus).line i = s.now.line i := by
  rw [h.core_eq]
  exact enterTrap_line_low (w := W.of s) x _ b false h.armed h.mode h.range hi

theorem Enters.present (h : Enters s x) {i : Nat} (hi : i < 64) :
    ((trapped s b x).core s.focus).present (32704 + i) = true := by
  rw [h.core_eq]
  exact enterTrap_present (w := W.of s) x _ b false h.armed h.mode h.range hi

/-- The header of the frame. -/
def trapHead (s : State) (b : BitVec 256) (x : Cause) : FrameHead :=
  (W.of s).entryHead s.focus x (s.also s.focus x.code) b false

theorem Enters.holds_quiet (h : Enters s x) (hq : s.now.Quiet) :
    HoldsFrame ((trapped s b x).core s.focus) (trapHead s b x) s.now [] := by
  rw [h.core_eq]
  exact holdsFrame_enterTrap (w := W.of s) h.armed h.mode h.range (Core.Quiet.entryFrame (w := W.of s) hq _ _ _ _)

theorem Enters.holds_dig (h : Enters s x) {it : Item} (hd : OneDig s.now it) :
    HoldsFrame ((trapped s b x).core s.focus) (trapHead s b x) s.now
      (replayEntries [it.replay (s.now.pipe.run + s.now.pipe.pre)] 0) := by
  rw [h.core_eq]
  exact holdsFrame_enterTrap (w := W.of s) h.armed h.mode h.range (OneDig.entryFrame (w := W.of s) hd _ _ _ _)

/-- The other causes that struck, in the frame. -/
theorem Enters.line_also (h : Enters s x) (hq : s.now.Quiet) {i : Nat} (hi : i < 16) :
    (((trapped s b x).core s.focus).line 32704).getLsbD (96 + i) =
      decide (i ∈ s.now.pipe.causes.map (·.code) ∨ i ∈ s.now.pipe.attr.map (·.2.code) ∨
        i = 11 ∧ x.code ≠ 11 ∧ s.preemptDue s.focus = true ∧ (s.saveSlot (dieOf s.focus) (s.now.ctx.getD 0)).isSome = true) := by
  rw [(h.holds_quiet b hq).head, FrameHead.line_also _ hi]
  exact testBit_also s s.focus x.code hi

/-- The first line of the frame where nothing is unfinished and no other cause struck. -/
theorem Enters.line_zero (h : Enters s x) (hq : s.now.Quiet) (hc : s.now.pipe.causes = []) (ha : s.now.pipe.attr = [])
    (hp : s.preemptDue s.focus = false) : ((trapped s b x).core s.focus).line 32704 =
      (0 : BitVec 256) ++ b ++ (0 : BitVec 128) ++ BitVec.ofNat 64 s.ts ++ x.i2 ++ x.i1 ++ x.i0 ++
        (0 : BitVec 37) ++ BitVec.ofBool s.now.notask ++ BitVec.ofBool (s.env s.focus).priv ++ (0 : BitVec 1) ++
        BitVec.ofNat 8 x.sub ++ (0 : BitVec 4) ++ BitVec.ofNat 4 x.slot ++ BitVec.ofNat 8 x.code ++
        BitVec.ofNat 64 s.now.pcAddr := by
  obtain ⟨n1, n2, n3⟩ := Core.Quiet.entryHead_counts (w := W.of s) hq x (s.also s.focus x.code) b false
  exact (h.holds_quiet b hq).head.trans
    ((FrameHead.line_plain (trapHead s b x) rfl rfl (also_eq_zero hc ha hp x.code) n1 n2 n3).trans rfl)

/-- The replay entry of the one digital operation that is unfinished, and its data lines. -/
theorem Enters.replay_dig (h : Enters s x) {it : Item} (hd : OneDig s.now it) (hlen : it.lines.length ≤ 7) :
    let line (i : Nat) : Line := ((trapped s b x).core s.focus).line (32704 + i)
    (line 0).extractLsb' 112 13 = BitVec.ofNat 5 it.lines.length ++ (1 : BitVec 8) ∧
      (line 22).extractLsb' 0 256 = it.b ++ it.a ++ (0 : BitVec 64) ++
        BitVec.ofNat 32 (it.due - (s.now.pipe.run + s.now.pipe.pre)) ++ BitVec.ofNat 3 it.lines.length ++ (0 : BitVec 9) ++ it.m ++
        BitVec.ofNat 12 it.id ++ (1 : BitVec 4) ∧
      ∀ i l, it.lines[i]? = some l → line (34 + i) = l := by
  obtain ⟨r1, r2, r3, r4, r5, r6, r7, r8⟩ := hd.replay
  obtain ⟨n1, n2⟩ := OneDig.entryHead_counts (w := W.of s) hd x (s.also s.focus x.code) b false
  have H := h.holds_dig b hd
  refine ⟨(congrArg (BitVec.extractLsb' 112 13) H.head).trans ?_, H.entry.trans ?_, fun i l hi => H.data ?_ ?_⟩
  · rw [FrameHead.line_counts, trapHead, n1, n2]
    rfl
  · rw [← r2, ← r3, ← r4, ← r6, ← r7, ← r8]
    exact Replay.entry_dig _ r1 r5
  · exact Nat.le_trans (Nat.le_of_eq (congrArg List.length r8)) (by omega)
  · exact (congrArg (·[i]?) r8).trans hi
end

/-! ### The double trap -/

/-- A trap in a handler, or without a usable handler range. -/
theorem trapped_double {s : State} (b : BitVec 256) (x : Cause) (ha : s.now.stepArm = false)
    (h : s.now.mode = .handler ∨ ((s.handlerRange (dieOf s.focus) (s.now.ctx.getD 0)).1 =
      (s.handlerRange (dieOf s.focus) (s.now.ctx.getD 0)).2 ∧ x.code ≠ 13)) :
    trapped s b x = ((W.of s).doubleTrap s.focus x.code).commit s := by
  have ht : trapped s b x = ((W.of s).enterTrap s.focus x (s.also s.focus x.code) b false).commit s := by
    refine trapped_eq b x fun h13 hnh => ?_
    rcases h with h | h
    · exact absurd h hnh
    · exact absurd h13 h.2
  rw [ht, enterTrap_double (w := W.of s) b x (s.also s.focus x.code) false ha (h.imp_right And.left)]

theorem trapped_double_effect {s : State} (b : BitVec 256) (x : Cause) (ha : s.now.stepArm = false)
    (h : s.now.mode = .handler ∨ ((s.handlerRange (dieOf s.focus) (s.now.ctx.getD 0)).1 =
      (s.handlerRange (dieOf s.focus) (s.now.ctx.getD 0)).2 ∧ x.code ≠ 13)) :
    let t := trapped s b x
    let blk := Tab.get 0 (t.die (dieOf s.focus)).cctl (s.now.ctx.getD 0)
    t.core s.focus = { s.now with mode := .stopped, ctl := { s.now.ctl with res := 0 } } ∧ t.mem = s.mem ∧
      t.pkg.notes = (s.focus, x.code) :: s.pkg.notes ∧ blk.extractLsb' 320 8 = BitVec.ofNat 8 x.code ∧
      blk.extractLsb' 328 7 = BitVec.ofNat 7 (onDie s.focus) ∧ blk.getLsbD 335 = true := by
  obtain ⟨hcore, hout, hz, hnotes⟩ := doubleTrap_effect (W.of s) s.focus x.code
  have hblk := doubleTrap_block (W.of s) s.focus x.code
  rw [W.of_core, W.of_die] at hblk
  dsimp only
  rw [trapped_double b x ha h, core_commit, die_commit, W.commit_pkg, hcore, hnotes, W.commit_mem_same _ _ hout hz, hblk]
  exact ⟨rfl, rfl, rfl, doubleTrap_fields _ _ _⟩

/-! ### A pending cause is taken (13 R293, R304) -/

/-- No read to wait for: the step goes on. -/
theorem reading_nil (w : W) (f : W → W) : w.reading [] f = f w := by
  have h : w.takeReads [] = w := by
    have hd : ∀ e : Nat × Die, (e.1, { e.2 with mc := { e.2.mc with turns := e.2.mc.turns.filter fun _ => true } }) = e := by
      intro e; simp
    simp only [W.takeReads, List.filter_nil, List.map_nil, List.nil_append, List.contains_nil, Bool.not_false]
    rw [List.map_congr_left fun e _ => hd e, List.map_id']
  simp [W.reading, State.admitted, h]

theorem drainAll_of_empty {w : W} {c : Nat} (h : (w.core c).cbuf = []) : w.drainAll c = w := by
  simp [W.drainAll, h]

/-- The core as the entry for the first pending cause finds it: the cause taken, a TIMEOUT that is due behind it. -/
def Core.causeTaken (k : Core) : Core := if k.timeoutDue then k.addAttr 10 k.timeout else k

theorem causeTaken_kept (k : Core) : k.causeTaken.stepArm = k.stepArm ∧ k.causeTaken.mode = k.mode ∧ k.causeTaken.ctx = k.ctx ∧
    k.causeTaken.cbuf = k.cbuf ∧ k.causeTaken.notask = k.notask ∧ (k.Quiet → k.causeTaken.Quiet) := by
  unfold Core.causeTaken
  split
  · exact ⟨rfl, rfl, rfl, rfl, rfl, id⟩
  · exact ⟨rfl, rfl, rfl, rfl, rfl, id⟩

theorem firstPending_kept {k k' : Core} {x : Cause} (h : k.firstPending = some (x, k')) : k'.stepArm = k.stepArm ∧ k'.mode = k.mode ∧
    k'.ctx = k.ctx ∧ k'.cbuf = k.cbuf ∧ k'.notask = k.notask ∧ (k.Quiet → k'.Quiet) := by
  unfold Core.firstPending at h
  split at h
  · cases h; exact ⟨rfl, rfl, rfl, rfl, rfl, id⟩
  · split at h
    · cases h
    · split at h
      · cases h; exact ⟨rfl, rfl, rfl, rfl, rfl, id⟩
      · cases h

theorem takePending_eq {w : W} {c : Nat} {x : Cause} {k : Core} (h : (w.core c).firstPending = some (x, k)) (hc : k.cbuf = []) :
    ∃ also img loop, w.takePending c = (w.modCore c fun _ => k.causeTaken).enterTrap c x also img loop := by
  have hb : ((w.modCore c fun _ => k.causeTaken).core c).cbuf = [] := by
    rw [W.core_modCore_same, (causeTaken_kept k).2.2.2.1, hc]
  unfold W.takePending
  rw [h]
  dsimp only
  exact ⟨_, _, _, by rw [show (if k.timeoutDue then k.addAttr 10 k.timeout else k) = k.causeTaken from rfl, drainAll_of_empty hb]⟩

/-- What shows that core `o` has entered its handler for cause `x`. -/
def Entered (s t : State) (o : Nat) (x : Cause) (pc : Nat) (notask : Bool) : Prop :=
  t.mem = s.mem ∧ (t.core o).mode = .handler ∧ (t.core o).pc = BitVec.ofNat 46 (pc / 32) ∧
    (t.core o).ctl.tcause = BitVec.ofNat 8 x.code ∧ ((t.core o).line 32704).extractLsb' 64 8 = BitVec.ofNat 8 x.code ∧
    ((t.core o).line 32704).getLsbD 90 = notask

theorem handlerRange_modCore (w : W) (c : Nat) (f : Core → Core) (d ctx : Nat) :
    (w.modCore c f).handlerRange d ctx = w.handlerRange d ctx := rfl

/-- A core with nothing unfinished takes its first pending cause. -/
theorem takePending_entered {s : State} {w : W} {o : Nat} {x : Cause} {k : Core} (hf : (w.core o).firstPending = some (x, k))
    (hq : (w.core o).Quiet) (hb : (w.core o).cbuf = []) (ha : (w.core o).stepArm = false) (hm : (w.core o).mode ≠ .handler)
    (hr : (w.handlerRange (dieOf o) ((w.core o).ctx.getD 0)).1 ≠ (w.handlerRange (dieOf o) ((w.core o).ctx.getD 0)).2)
    (ho : w.out = []) (hz : w.zeroed = []) : Entered s ((w.takePending o).commit s) o x
      (w.handlerRange (dieOf o) ((w.core o).ctx.getD 0)).1 (w.core o).notask := by
  obtain ⟨fa, fm, fx, fc, fn, fq⟩ := firstPending_kept hf
  obtain ⟨ta, tm, tx, tc, tn, tq⟩ := causeTaken_kept k
  obtain ⟨also, img, loop, ht⟩ := takePending_eq hf (fc.trans hb)
  rw [ht]
  generalize hw : (w.modCore o fun _ => k.causeTaken) = w1
  have hk : w1.core o = k.causeTaken := by rw [← hw, W.core_modCore_same]
  have hctx : (w1.core o).ctx = (w.core o).ctx := by rw [hk, tx, fx]
  have hh : ∀ d ctx, w1.handlerRange d ctx = w.handlerRange d ctx := fun d ctx => by rw [← hw, handlerRange_modCore]
  have ha1 : (w1.core o).stepArm = false := by rw [hk, ta, fa, ha]
  have hm1 : (w1.core o).mode ≠ .handler := by rw [hk, tm, fm]; exact hm
  have hr1 : (w1.handlerRange (dieOf o) ((w1.core o).ctx.getD 0)).1 ≠ (w1.handlerRange (dieOf o) ((w1.core o).ctx.getD 0)).2 := by
    rw [hctx, hh]; exact hr
  have hq1 : (w1.core o).Quiet := by rw [hk]; exact tq (fq hq)
  obtain ⟨-, hout, hzero⟩ := enterTrap_mem x also img loop ha1 hm1 hr1
  obtain ⟨h1, h2, h3, -, -⟩ := enterTrap_state x also img loop ha1 hm1 hr1
  have hl := enterTrap_line x also img loop ha1 hm1 hr1 (i := 0) (by decide)
  rw [hq1.entryFrame, frameLines_zero] at hl
  have hl' : ((w1.enterTrap o x also img loop).core o).line 32704 = (w1.entryHead o x also img loop).line := hl
  have hout1 : w1.out = [] := by rw [← hw]; exact ho
  have hzero1 : w1.zeroed = [] := by rw [← hw]; exact hz
  refine ⟨W.commit_mem_same _ _ (hout.trans hout1) (hzero.trans hzero1), h1, ?_, h3, ?_, ?_⟩
  · rw [← hh, ← hctx]; exact h2
  · exact (congrArg (BitVec.extractLsb' 64 8) hl').trans (FrameHead.line_code _)
  · refine (congrArg (BitVec.getLsbD · 90) hl').trans ((FrameHead.line_notask _).trans ?_)
    show (w1.core o).notask = _
    rw [hk, tn, fn]

/-- An idle core takes an attributed cause of its resident context. -/
theorem notaskEntry_eq {s : State} {o n : Nat} {x : Cause} {l : List (Nat × Cause)} (hm : (s.core o).mode = .idle)
    (hh : (s.core o).halted = false) (hx : (s.core o).ctx.isSome = true)
    (hb : s.barred (dieOf o) ((s.core o).ctx.getD 0) = false) (ha : (s.core o).pipe.attr = (n, x) :: l) :
    (W.of s).notaskEntry o = ((W.of s).modCore o fun k => { k with notask := true }).takePending o := by
  obtain ⟨ctx, hctx⟩ := Option.isSome_iff_exists.mp hx
  rw [hctx, Option.getD_some] at hb
  have hlay : s.layer o ctx = s.core o := if_pos hctx
  have hn : (W.of s).notaskCtx o = some ctx := by
    simp [State.notaskCtx, hctx, Option.filter, hlay, ha, hb]
  have hr : (W.of s).switchReads o ctx = [] := if_pos (Or.inl hctx)
  have hs : (W.of s).switchTo o ctx = W.of s := if_pos hctx
  unfold W.notaskEntry
  rw [if_neg (by simp [hm, hh]), hn]
  dsimp only
  rw [hr, reading_nil, hs]

theorem trapEntry_none {s : State} {o : Nat} (h : (s.core o).runs = false ∨
    ((s.core o).pipe.causes = [] ∧ (s.core o).pipe.attr = [])) : exec (.trapEntry o) s = .next s := by
  show go s (if (s.core o).runs then (W.of s).takePending o else W.of s) = .next s
  rcases h with h | ⟨hc, ha⟩
  · rw [h, if_neg Bool.false_ne_true]
    rfl
  · have hf : ((W.of s).core o).firstPending = none := by simp [Core.firstPending, hc, ha]
    have ht : (W.of s).takePending o = W.of s := by rw [W.takePending, hf]
    rw [ht, ite_self]
    rfl

/-- The entries of a core with nothing unfinished for a cause that is pending. -/
theorem pending_entered (s : State) (o : Nat) (x : Cause) (hq : (s.core o).Quiet) (hb : (s.core o).cbuf = [])
    (ha : (s.core o).stepArm = false)
    (hr : (s.handlerRange (dieOf o) ((s.core o).ctx.getD 0)).1 ≠ (s.handlerRange (dieOf o) ((s.core o).ctx.getD 0)).2) :
    let entered (i : Instr) (notask : Bool) : Prop :=
      ∃ t, exec i s = .next t ∧ Entered s t o x (s.handlerRange (dieOf o) ((s.core o).ctx.getD 0)).1 notask
    (∀ k, (s.core o).firstPending = some (x, k) → (s.core o).runs = true → (s.core o).mode ≠ .handler →
      (s.core o).notask = false → entered (.trapEntry o) false) ∧
    (∀ n l, (s.core o).mode = .idle → (s.core o).halted = false → (s.core o).ctx.isSome = true →
      s.barred (dieOf o) ((s.core o).ctx.getD 0) = false → (s.core o).pipe.causes = [] →
      (s.core o).pipe.attr = (n, x) :: l → entered (.notaskEntry o) true) := by
  refine ⟨fun k hf hrun hm hn => ?_, fun n l hm hh hx hbar hcs hat => ?_⟩
  · have he := takePending_entered (s := s) (w := W.of s) hf hq hb ha hm hr rfl rfl
    rw [W.of_core, hn] at he
    have hx : exec (.trapEntry o) s = .next (((W.of s).takePending o).commit s) := congrArg (go s) (if_pos hrun)
    exact ⟨_, hx, he⟩
  · have hk : ((W.of s).modCore o fun k => { k with notask := true }).core o = { s.core o with notask := true } :=
      W.core_modCore_same _ _ _
    have hf : (((W.of s).modCore o fun k => { k with notask := true }).core o).firstPending =
        some (x, { s.core o with notask := true, pipe := { (s.core o).pipe with attr := l } }) := by
      rw [hk, Core.firstPending, hcs]
      dsimp only
      rw [if_neg (by rw [hm]; decide), hat]
      rfl
    have he := takePending_entered (s := s) hf (by rw [hk]; exact hq) (by rw [hk]; exact hb) (by rw [hk]; exact ha)
      (by rw [hk, hm]; decide) (by rw [hk]; exact hr) rfl rfl
    rw [hk] at he
    exact ⟨_, congrArg (go s) (notaskEntry_eq hm hh hx hbar hat), he⟩

/-- Settles O51: trap entry saves what the frame's packing lemmas read back; a double trap, a halt and the entries for pending
causes are the other ways out. -/
theorem trapEntry : Obligations.TrapEntry := by
  intro s c d k ctx h
  refine ⟨fun e n hc => ?_, fun e hc => ?_, fun b x ha hm hr hbk => ?_, fun b x ha hcase => ?_,
    fun b ha hm hh hctx hc hx hbk => ?_, fun o x => ?_, fun o => trapEntry_none, fun o hm => ?_⟩
  · refine execControl_trap rfl hc ?_
    refine (checked_ok (decodeControl_trap e n) rfl).trans ?_
    have hw : word (bits (0#6 ++ n : BitVec 22) 0 16) = n.zeroExtend 64 := by
      rw [bits_eq_extract, extract_lo2 0#6 n]
      exact BitVec.eq_of_toNat_eq (by simp [word])
    simp only [ctlCtx_word, ctlOpd_controlWord, hw]
  · refine execControl_trap rfl hc ?_
    exact checked_ok (decodeControl_bkpt e) rfl
  · have E : Enters s x := ⟨ha, hm, hr, hbk⟩
    obtain ⟨h1, h2, h3, h4, h5⟩ := E.state b
    obtain ⟨g1, g2, g3, g4⟩ := E.kept b
    refine ⟨h1, h2, h3, h4, h5, g1, g2, g3, g4, E.mem b, fun i hi => E.line_low b hi, fun i hi => E.present b hi,
      fun hq => ?_, fun it hq hit hk _ hl _ hlen hdue _ => E.replay_dig b ⟨hq, hit, hk, hl, hdue⟩ hlen⟩
    have H := E.holds_quiet b hq
    exact ⟨fun i hi => E.line_also b hq hi, fun hcs hat hp => E.line_zero b hq hcs hat hp, fun i hi => H.sreg hi, H.ctl, H.port,
      H.result, H.wide, H.wideResult⟩
  · exact trapped_double_effect b x ha hcase
  · have H : HaltsHere s := ⟨ha, hm, hh, hc, hctx, hbk⟩
    refine ⟨?_, fun o ho hox => ?_, fun o hox => ?_, fun e he => H.stop b hx he⟩
    · rw [H.core_self, Core.haltedWith, if_neg (by simpa using hh)]
      simp only [← ha]
      rfl
    · by_cases hoc : o = c
      · rw [hoc, H.core_self]
        exact Core.haltedWith_halted k
      · rw [H.core_other b hoc, if_pos ⟨ho, hox⟩]
        exact Core.haltedWith_halted _
    · have hne : o ≠ c := by
        rintro rfl
        exact hox hctx
      rw [H.core_other b hne, if_neg fun h => hox h.2]
  · intro y r entered hq hb ha hr
    obtain ⟨ht, hn⟩ := pending_entered s o x hq hb ha hr
    refine ⟨fun l hrun hm hnt hcs => ?_, fun n l hrun hm hnt hcs hat => ?_, hn⟩
    · exact ht (y.modPipe fun p => { p with causes := l }) (by rw [Core.firstPending, hcs]) hrun (by rw [hm]; decide) hnt
    · refine ht (y.modPipe fun p => { p with attr := l }) ?_ hrun (by rw [hm]; decide) hnt
      rw [Core.firstPending, hcs]
      dsimp only
      rw [if_neg (by rw [hm]; decide), hat]
  · have hn : (W.of s).notaskEntry o = W.of s := if_pos (Or.inl hm)
    exact congrArg (go s) hn

end Sys2Proof.Machine
end
section
/-! The triggers of the memory tier: the commands that they leave (03 R83, R84, R88). -/

namespace Sys2Proof.Machine

/-! ### The five triggers -/

theorem isTrigger_pusht : IsTrigger 0x901 0x901 .pusht Slot.m trigStackOp := ⟨rfl, fun _ => rfl, fun _ _ => rfl, by decide⟩
theorem isTrigger_popt : IsTrigger 0x902 0x902 .popt Slot.m trigStackOp := ⟨rfl, fun _ => rfl, fun _ _ => rfl, by decide⟩
theorem isTrigger_lease : IsTrigger 0x903 0x903 .lease Slot.m trigLease := ⟨rfl, fun _ => rfl, fun _ _ => rfl, by decide⟩
theorem isTrigger_unlease : IsTrigger 0x904 0x904 .unlease Slot.m trigUnlease := ⟨rfl, fun _ => rfl, fun _ _ => rfl, by decide⟩
theorem isTrigger_lstatSlot : IsTrigger 0x905 0x905 (fun f => .lstatSlot ⟨f.g, f.s⟩) (fun _ => 0) trigLstat :=
  ⟨rfl, fun _ => rfl, fun _ _ => rfl, by decide⟩
theorem isTrigger_lstatStack : IsTrigger 0x905 0x905 (fun f => .lstatStack ⟨f.g, f.s⟩) (fun _ => 1) trigLstat :=
  ⟨rfl, fun _ => rfl, fun _ _ => rfl, by decide⟩
theorem isTrigger_lstatDeadline : IsTrigger 0x905 0x905 (fun f => .lstatDeadline ⟨f.g, f.s⟩) (fun _ => 2) trigLstat :=
  ⟨rfl, fun _ => rfl, fun _ _ => rfl, by decide⟩

theorem lineTrig_tier {id : Nat} (h : needsTier id = true) : lineTrig id = false := by
  simp only [needsTier, Bool.and_eq_true, decide_eq_true_eq] at h
  obtain ⟨hl, hu⟩ := h
  interval_cases id <;> rfl

/-- The tier block takes any modifier and needs the grant. -/
theorem allowed_tier {s : State} {id : Nat} (m : BitVec 4) (hid : needsTier id = true) (ht : (s.env s.focus).tier = true) :
    Allowed s id m := by
  simp only [needsTier, Bool.and_eq_true, decide_eq_true_eq] at hid
  obtain ⟨hl, hu⟩ := hid
  refine ⟨?_, fun h => ?_, fun _ => ht⟩
  · simp [ctlModifier, show id / 64 ≠ 0xc by omega]
  · interval_cases id <;> exact absurd h (by decide)

/-! ### A command that leaves its bundle -/

/-- The core with one tier command more: the item that waits for its status, the command, and the task's note of it. -/
def Core.withTierCmd (k : Core) (s : State) (id : Nat) (m : BitVec 4) (v : Line) : Core :=
  let o := s.now.regs.portW 0x900
  let k1 := k.withItem { trigItem s id m 24 o 0 [] with kind := .atr, await := .agent }
  { k1 with
    tier := k.tier ++ [{ seq := s.now.pipe.seq, op := id, o := o, t := scalarOf v, m := m, bpc := word s.now.pcAddr
                         stepped := s.now.stepArm }]
    running := k.running.map fun r => { r with cmds := r.cmds ++ [(s.focus, 8, s.now.pipe.seq)] } }

theorem portW_trigStart (s : State) (src : Src) (p : Nat) :
    ((trigStart s src).core s.focus).regs.portW p = s.now.regs.portW p := by
  rw [trigStart_core, Core.fired_regs]

theorem tierCmd_eq (s : State) {id : Nat} (m : BitVec 4) (v : Line) (src : Src) (h : needsTier id = true) :
    (trigCtx s id m v).tierCmd (trigStart s src) =
      .ok ((trigStart s src).modCore s.focus fun k => k.withTierCmd s id m v) := by
  simp only [TCtx.tierCmd, W.addItem, W.issued, trigCtx_c, trigCtx_id, trigCtx_m, trigCtx_seq, trigCtx_run, trigCtx_bpc,
    trigCtx_k, trigCtx_v s id m v (lineTrig_tier h), portW_trigStart, W.modCore_modCore]
  rfl

/-! ### What the triggers check -/

theorem find?_not_eq_none {p : Nat → Bool} {first len : Nat} (h : ∀ i, i < len → p (first + i) = true) :
    ((List.range len).map (first + ·)).find? (fun ln => !(p ln)) = none := by
  simpa using h

/-- PUSHT and POPT of VRF lines. -/
theorem trigStackOp_vrf {s : State} {id : Nat} {v : Line} {src : Src} (hid : needsTier id = true)
    (hpos : 1 ≤ (scalarOf v).toNat) (ho : bits (s.now.regs.portW 0x900) 15 33 = 0)
    (hl : bits (s.now.regs.portW 0x900) 0 15 + (scalarOf v).toNat ≤ 32768)
    (hok : ∀ i, i < (scalarOf v).toNat →
      s.allotted s.focus (s.env s.focus).ctx (bits (s.now.regs.portW 0x900) 0 15 + i) = true ∧
      s.lineRight s.focus s.focus (s.env s.focus).ctx (bits (s.now.regs.portW 0x900) 0 15 + i) .own = true) :
    trigStackOp (trigCtx s id 0 v) (trigStart s src) =
      .ok ((trigStart s src).modCore s.focus fun k => k.withTierCmd s id 0 v) := by
  have hlen : bits (scalarOf v) 0 25 = (scalarOf v).toNat := bits_low_eq (by omega)
  have hhi : bits (scalarOf v) 25 39 = 0 := bits_high_eq_zero (by omega)
  have h44 : bits (s.now.regs.portW 0x900) 44 4 = 0 := by
    simp only [bits, Nat.shiftRight_eq_div_pow] at ho ⊢; omega
  have h15 : bits (s.now.regs.portW 0x900) 15 29 = 0 := by
    simp only [bits, Nat.shiftRight_eq_div_pow] at ho ⊢; omega
  have hm : bits (0 : BitVec 4) 1 3 = 0 := by decide
  have hva : bitAt (0 : BitVec 4) 0 = false := by decide
  rw [← tierCmd_eq s 0 v src hid]
  simp only [trigStackOp, trigCtx_m, trigCtx_v s id 0 v (lineTrig_tier hid), trigCtx_c, portW_trigStart, trigCtx_pre, trigCtx_env,
    hm, hva, hlen, hhi, h44, h15]
  rw [if_neg (by omega), if_neg Bool.false_ne_true, if_neg (by omega),
    find?_not_eq_none (p := fun ln => s.allotted s.focus (s.env s.focus).ctx ln) fun i hi => (hok i hi).1]
  dsimp only
  rw [find?_not_eq_none (p := fun ln => s.lineRight s.focus s.focus (s.env s.focus).ctx ln .own) fun i hi => (hok i hi).2]

/-- PUSHT and POPT of a range of addresses. -/
theorem trigStackOp_va {s : State} {id : Nat} {v : Line} {src : Src} (hid : needsTier id = true)
    (hpos : 1 ≤ (scalarOf v).toNat) (ho : bits (s.now.regs.portW 0x900) 44 4 = 0) (hl : (scalarOf v).toNat ≤ 2 ^ 24) :
    trigStackOp (trigCtx s id 1 v) (trigStart s src) =
      .ok ((trigStart s src).modCore s.focus fun k => k.withTierCmd s id 1 v) := by
  have hlen : bits (scalarOf v) 0 25 = (scalarOf v).toNat := bits_low_eq (by omega)
  have hhi : bits (scalarOf v) 25 39 = 0 := bits_high_eq_zero (by omega)
  have hm : bits (1 : BitVec 4) 1 3 = 0 := by decide
  have hva : bitAt (1 : BitVec 4) 0 = true := by decide
  rw [← tierCmd_eq s 1 v src hid]
  simp only [trigStackOp, trigCtx_m, trigCtx_v s id 1 v (lineTrig_tier hid), trigCtx_c, portW_trigStart, hm, hva, hlen, hhi, ho]
  rw [if_neg (by omega), if_pos trivial, if_neg (by omega)]

theorem trigStackOp_zero {s : State} {id : Nat} {m : BitVec 4} {v : Line} {src : Src} (hid : needsTier id = true)
    (hv : scalarOf v = 0) : trigStackOp (trigCtx s id m v) (trigStart s src) = .trap (engineFault 1 id) := by
  have hlen : bits (scalarOf v) 0 25 = 0 := by rw [hv]; decide
  simp only [trigStackOp, trigCtx_v s id m v (lineTrig_tier hid), hlen]
  rw [if_pos (by simp)]
  rfl

theorem trigLstat_ok {s : State} {m : BitVec 4} {v : Line} {src : Src} (hm : m.toNat < 3) (hv : (scalarOf v).toNat < 16)
    (h1 : m = 1 → scalarOf v = 0) : trigLstat (trigCtx s 0x905 m v) (trigStart s src) =
      .ok ((trigStart s src).modCore s.focus fun k => k.withTierCmd s 0x905 m v) := by
  have hc : ¬ (3 ≤ m.toNat ∨ bits (scalarOf v) 4 60 ≠ 0 ∨ (m = 1 ∧ bits (scalarOf v) 0 4 ≠ 0)) := by
    rintro (h | h | ⟨h, h'⟩)
    · omega
    · exact h (bits_high_eq_zero hv)
    · rw [h1 h] at h'
      exact h' (by decide)
  rw [← tierCmd_eq s m v src (by decide)]
  simp only [trigLstat, trigCtx_m, trigCtx_v s 0x905 m v (lineTrig_tier (by decide))]
  rw [if_neg hc]

theorem namesSlot_trigStackOp : NamesSlot trigStackOp := by
  intro t w x h
  simp only [trigStackOp, TCtx.tierCmd] at h
  repeat' split at h
  all_goals cases h
  all_goals rfl

/-- The operands with which PUSHT and POPT are accepted (R84). -/
def StackOpOk (s : State) (f : Slot) (v : Line) : Prop :=
  let o := s.now.regs.portW 0x900
  let len := (scalarOf v).toNat
  1 ≤ len ∧
    (f.m = 0 ∧ bits o 15 33 = 0 ∧ bits o 0 15 + len ≤ 32768 ∧
        (∀ i, i < len → s.allotted s.focus (s.env s.focus).ctx (bits o 0 15 + i) = true ∧
          s.lineRight s.focus s.focus (s.env s.focus).ctx (bits o 0 15 + i) .own = true) ∨
      f.m = 1 ∧ bits o 44 4 = 0 ∧ len ≤ 2 ^ 24)

section
variable {id : Nat} {d : BitVec 12} {i : Slot → Instr}

theorem stackOp_triggers (h : IsTrigger id d i Slot.m trigStackOp) (hid : needsTier id = true) :
    TriggersIf id i (fun s f v => (s.env s.focus).tier = true ∧ StackOpOk s f v) fun s f v k => k.withTierCmd s id f.m v := by
  refine h.triggersIf (fun s f v hp => allowed_tier _ hid hp.1) fun s f src v hp => ?_
  obtain ⟨-, hpos, ⟨hm, ho, hl, hok⟩ | ⟨hm, ho, hl⟩⟩ := hp
  · rw [hm]
    exact trigStackOp_vrf hid hpos ho hl hok
  · rw [hm]
    exact trigStackOp_va hid hpos ho hl

theorem stackOp_traps (h : IsTrigger id d i Slot.m trigStackOp) (hid : needsTier id = true) :
    TrapsIf id i (fun s _ v => (s.env s.focus).tier = true ∧ scalarOf v = 0) fun _ _ _ => engineFault 1 id :=
  h.trapsIf (fun _ _ _ hp => allowed_tier _ hid hp.1) fun _ _ _ _ hp => trigStackOp_zero hid hp.2
end

theorem lease_triggers : TriggersIf 0x903 .lease
    (fun s f v => (s.env s.focus).tier = true ∧ f.m.toNat < 2 ∧ (s.now.regs.portW 0x900).toNat < 1024 ∧
      1 ≤ (scalarOf v).toNat ∧ (scalarOf v).toNat ≤ 1024) fun s f v k => k.withTierCmd s 0x903 f.m v := by
  refine isTrigger_lease.triggersIf (fun s f v hp => allowed_tier _ (by decide) hp.1) fun s f src v hp => ?_
  obtain ⟨-, hm, ho, h1, h2⟩ := hp
  have hb : bits f.m 1 3 = 0 := by
    rw [bits, Nat.shiftRight_eq_div_pow]; omega
  have hv : bits (scalarOf v) 0 11 = (scalarOf v).toNat := bits_low_eq (by omega)
  have hhi : bits (scalarOf v) 11 53 = 0 := bits_high_eq_zero (by omega)
  have ho' : bits (s.now.regs.portW 0x900) 10 54 = 0 := bits_high_eq_zero ho
  rw [← tierCmd_eq s f.m v src (by decide)]
  simp only [trigLease, trigCtx_m, trigCtx_v s 0x903 f.m v (lineTrig_tier (by decide)), trigCtx_c, portW_trigStart, hb, hv, hhi, ho']
  rw [if_neg (by omega)]

theorem unlease_triggers : TriggersIf 0x904 .unlease
    (fun s f v => (s.env s.focus).tier = true ∧ f.m = 0 ∧ (scalarOf v).toNat < 16) fun s f v k => k.withTierCmd s 0x904 f.m v := by
  refine isTrigger_unlease.triggersIf (fun s f v hp => allowed_tier _ (by decide) hp.1) fun s f src v hp => ?_
  obtain ⟨-, hm, hv⟩ := hp
  have hhi : bits (scalarOf v) 4 60 = 0 := bits_high_eq_zero hv
  rw [← tierCmd_eq s f.m v src (by decide)]
  simp only [trigUnlease, trigCtx_m, trigCtx_v s 0x904 f.m v (lineTrig_tier (by decide)), hhi]
  rw [if_neg (by simp [hm])]

/-- LSTAT in its three forms. -/
theorem lstat_triggers {i : Slot → Instr} {m : BitVec 4} (h : IsTrigger 0x905 0x905 i (fun _ => m) trigLstat)
    {P : Line → Prop} (hm : m.toNat < 3) (hP : ∀ v, P v → (scalarOf v).toNat < 16 ∧ (m = 1 → scalarOf v = 0)) :
    TriggersIf 0x905 i (fun s _ v => (s.env s.focus).tier = true ∧ P v) fun s _ v k => k.withTierCmd s 0x905 m v :=
  h.triggersIf (fun _ _ _ hp => allowed_tier _ (by decide) hp.1) fun _ _ _ v hp =>
    trigLstat_ok hm (hP v hp.2).1 (hP v hp.2).2

theorem pusht_traps_without_grant :
    TrapsIf 0x901 .pusht (fun s _ _ => (s.env s.focus).tier = false) fun _ _ _ => illegalPort 1 2 0x901 :=
  isTrigger_pusht.trapsIf_illegal namesSlot_trigStackOp fun _ _ _ hv hs hp =>
    moveIllegal_rights hv hs (by decide) (by simp [ctlModifier]) (.inr ⟨by decide, hp⟩)

theorem lstat_traps : TrapsIf 0x905 (fun f => .lstatSlot ⟨f.g, f.s⟩)
    (fun s _ v => (s.env s.focus).tier = true ∧ 16 ≤ (scalarOf v).toNat) fun _ _ _ => engineFault 1 0x905 := by
  refine isTrigger_lstatSlot.trapsIf (fun s f v hp => allowed_tier _ (by decide) hp.1) fun s f src v hp => ?_
  obtain ⟨-, h16⟩ := hp
  have hv := (scalarOf v).isLt
  have h60 : bits (scalarOf v) 4 60 ≠ 0 := by
    simp only [bits, Nat.shiftRight_eq_div_pow]
    omega
  simp only [trigLstat, trigCtx_m, trigCtx_v s 0x905 0 v (lineTrig_tier (by decide))]
  rw [if_pos (.inr (.inl h60))]
  rfl

end Sys2Proof.Machine
end
section
/-! The tensor stack of the memory tier: its entries, and how they take their lines (03 R84..R87; log 24). -/

namespace Sys2Proof.Machine

/-! ### Entries by key -/

section
variable (k : Stack) {x : Nat}

theorem Stack.entry_key {e : StackEntry} (h : k.entry x = some e) : e.key = x := by
  simpa using List.find?_some h

/-- What changing the entry `key` by `f` makes of an entry. -/
def entryUpdate (key : Nat) (f : StackEntry → StackEntry) (e : StackEntry) : StackEntry := if e.key = key then f e else e

theorem Stack.all_modEntry (key : Nat) (f : StackEntry → StackEntry) : (k.modEntry key f).all = k.all.map (entryUpdate key f) :=
  List.map_append.symm

theorem Stack.entry_modEntry (key : Nat) {f : StackEntry → StackEntry} (hf : ∀ e, (f e).key = e.key) :
    (k.modEntry key f).entry x = (k.entry x).map (entryUpdate key f) := by
  have hk : ∀ e, (entryUpdate key f e).key = e.key := by
    intro e
    unfold entryUpdate
    split
    · exact hf e
    · rfl
  rw [Stack.entry, Stack.all_modEntry, List.find?_map, Stack.entry]
  congr 2
  funext e
  simp [hk]

theorem Stack.entry_modEntry_same {e : StackEntry} {f : StackEntry → StackEntry} (hf : ∀ e, (f e).key = e.key)
    (h : k.entry x = some e) : (k.modEntry x f).entry x = some (f e) := by
  rw [k.entry_modEntry x hf, h, Option.map_some, entryUpdate, if_pos (k.entry_key h)]

theorem Stack.entry_modEntry_ne {key : Nat} {f : StackEntry → StackEntry} (hf : ∀ e, (f e).key = e.key) (h : x ≠ key) :
    (k.modEntry key f).entry x = k.entry x := by
  rw [k.entry_modEntry key hf]
  cases he : k.entry x with
  | none => rfl
  | some e => rw [Option.map_some, entryUpdate, if_neg (by rw [k.entry_key he]; exact h)]

/-- The entries of a stack do not depend on what else it holds. -/
theorem Stack.entry_congr {k k' : Stack} (he : k'.entries = k.entries) (hl : k'.leaving = k.leaving) : k'.entry x = k.entry x := by
  rw [Stack.entry, Stack.entry, Stack.all, Stack.all, he, hl]

theorem Stack.entry_dropEntry : (k.dropEntry x).entry x = none := by
  simp [Stack.entry, Stack.all, Stack.dropEntry, List.find?_eq_none]
end

/-! ### Places taken -/

section
variable (k : Stack) (size : Nat)

theorem Stack.place_cases (e : StackEntry) :
    k.place size e = k ∨ ∃ l, k.place size e = k.modEntry e.key fun x => { x with runs := l } := by
  unfold Stack.place
  split
  · exact .inr ⟨_, rfl⟩
  · exact .inl rfl

/-- Taking a place changes entries only. -/
theorem Stack.place_rest (e : StackEntry) : ∃ es ls, k.place size e = { k with entries := es, leaving := ls } := by
  rcases k.place_cases size e with h | ⟨l, h⟩
  · exact ⟨_, _, h⟩
  · exact ⟨_, _, h⟩

theorem Stack.entry_place_ne {e : StackEntry} {x : Nat} (h : x ≠ e.key) : (k.place size e).entry x = k.entry x := by
  rcases k.place_cases size e with h' | ⟨l, h'⟩
  · rw [h']
  · rw [h']
    exact k.entry_modEntry_ne (fun _ => rfl) h

theorem Stack.places_rest (l : List StackEntry) : ∀ k : Stack, ∃ es ls,
    l.foldl (fun k e => k.place size e) k = { k with entries := es, leaving := ls } := by
  induction l with
  | nil => exact fun k => ⟨_, _, rfl⟩
  | cons e l ih =>
    intro k
    obtain ⟨es, ls, h⟩ := k.place_rest size e
    obtain ⟨es', ls', h'⟩ := ih (k.place size e)
    exact ⟨es', ls', by rw [List.foldl_cons, h', h]⟩

theorem Stack.entry_places {x : Nat} (l : List StackEntry) (h : ∀ e ∈ l, x ≠ e.key) : ∀ k : Stack,
    (l.foldl (fun k e => k.place size e) k).entry x = k.entry x := by
  induction l with
  | nil => exact fun _ => rfl
  | cons e l ih =>
    intro k
    obtain ⟨he, hl⟩ := List.forall_mem_cons.mp h
    rw [List.foldl_cons, ih hl, k.entry_place_ne size he]

/-- The entries that wait for room, oldest first. -/
def Stack.waiting (k : Stack) : List StackEntry :=
  (k.all.filter fun e => e.resident && e.runs.isEmpty).foldl (fun (l : List StackEntry) e =>
    l.takeWhile (fun x => decide (x.key < e.key)) ++ e :: l.dropWhile fun x => decide (x.key < e.key)) []

theorem Stack.placeAll_eq : k.placeAll size = k.waiting.foldl (fun k e => k.place size e) k := rfl

theorem Stack.mem_waiting {e : StackEntry} (h : e ∈ k.waiting) : e ∈ k.all ∧ e.resident = true ∧ e.runs = [] := by
  have hins : ∀ (l acc : List StackEntry), e ∈ l.foldl (fun (l : List StackEntry) e =>
      l.takeWhile (fun x => decide (x.key < e.key)) ++ e :: l.dropWhile fun x => decide (x.key < e.key)) acc → e ∈ acc ∨ e ∈ l := by
    intro l
    induction l with
    | nil => exact fun _ h => .inl h
    | cons a l ih =>
      intro acc h
      rcases ih _ h with h | h
      · rcases List.mem_append.mp h with h | h
        · exact .inl ((List.takeWhile_sublist _).subset h)
        · rcases List.mem_cons.mp h with rfl | h
          · exact .inr (List.mem_cons_self ..)
          · exact .inl ((List.dropWhile_sublist _).subset h)
      · exact .inr (List.mem_cons_of_mem _ h)
  rcases hins _ _ h with h | h
  · cases h
  · simpa using h

theorem Stack.placeAll_rest : ∃ es ls, k.placeAll size = { k with entries := es, leaving := ls } := Stack.places_rest size _ k

/-- An entry that is spilled or has its place keeps as it is. -/
theorem Stack.entry_placeAll {x : Nat} (h : ∀ e ∈ k.all, e.key = x → e.resident = true → e.runs ≠ []) :
    (k.placeAll size).entry x = k.entry x := by
  refine Stack.entry_places size _ (fun e he hx => ?_) k
  obtain ⟨hm, hr, hn⟩ := k.mem_waiting he
  exact h e hm hx.symm hr hn

/-- A place taken makes or loses no key. -/
theorem Stack.entry_places_none {x : Nat} (l : List StackEntry) : ∀ k : Stack, k.entry x = none →
    (l.foldl (fun k e => k.place size e) k).entry x = none := by
  induction l with
  | nil => exact fun _ h => h
  | cons e l ih =>
    intro k h
    have hp : (k.place size e).entry x = none := by
      rcases k.place_cases size e with h' | ⟨l, h'⟩
      · rw [h', h]
      · rw [h']
        refine (k.entry_modEntry e.key ?_).trans (by rw [h, Option.map_none])
        exact fun _ => rfl
    exact ih _ hp
end

/-! ### A stack in the machine -/

section
variable {w : W} {d ctx : Nat}

@[simp] theorem stack_modStack (f : Stack → Stack) : (w.modStack d ctx f).stack d ctx = f (w.stack d ctx) := by
  simp [W.modStack, State.stack]

@[simp] theorem stack_modCore (c : Nat) (f : Core → Core) : (w.modCore c f).stack d ctx = w.stack d ctx := rfl

theorem stack_modDie {e : Nat} {f : Die → Die} (hf : ∀ x, (f x).tier = x.tier) : (w.modDie e f).stack d ctx = w.stack d ctx := by
  by_cases h : d = e
  · subst h
    simp [State.stack, hf]
  · simp [State.stack, W.die_modDie_ne _ _ h]

@[simp] theorem tierBlk_modStack (f : Stack → Stack) (e : Nat) : (w.modStack d ctx f).tierBlk e ctx = w.tierBlk e ctx := by
  by_cases h : e = d
  · subst h
    simp [W.modStack, State.tierBlk]
  · simp [W.modStack, State.tierBlk, W.die_modDie_ne _ _ h]

@[simp] theorem ssize_modStack (f : Stack → Stack) (e : Nat) : (w.modStack d ctx f).ssize e ctx = w.ssize e ctx := by
  simp [State.ssize]

theorem stack_settleStack : ∃ b, (w.settleStack d ctx).stack d ctx =
    { (w.stack d ctx).placeAll (w.ssize d ctx / 128) with spilling := b } := by
  unfold W.settleStack
  exact ⟨_, stack_modStack _⟩

end

end Sys2Proof.Machine
end
section
/-! A tier command accepted: its status and its work (03 R84, R88). -/

namespace Sys2Proof.Machine

/-! ### What accepting leaves of the issuing core -/

/-- What the engine's checks leave of core `c`: its registers, its unfinished operations, its commands. -/
structure TierKept (c : Nat) (w w' : W) : Prop where
  regs : (w'.core c).regs = (w.core c).regs
  items : (w'.core c).pipe.items = (w.core c).pipe.items
  tier : (w'.core c).tier = (w.core c).tier

theorem TierKept.refl {c : Nat} {w : W} : TierKept c w w := ⟨rfl, rfl, rfl⟩

theorem tierKept_of_core {c : Nat} {w w' : W} (h : w'.core c = w.core c) : TierKept c w w' := ⟨by rw [h], by rw [h], by rw [h]⟩

section
variable (w : W) (c seq : Nat) (wr : List (Nat × Line))

theorem core_answer : (w.answer c seq wr).core c =
    { (w.core c).modPipe (fun p => { p with items := p.items.map (Item.answered seq wr) }) with
      shadow := (w.core c).shadow.answered seq wr } := by
  simp only [W.answer, W.modBoard, W.core_modDie, W.core_modCore_same]

theorem stack_answer (d ctx : Nat) : (w.answer c seq wr).stack d ctx = w.stack d ctx := by
  unfold W.answer W.modBoard
  refine (stack_modDie ?_).trans rfl
  exact fun _ => rfl

theorem core_stepEvent (bpc kind cause agent ticket : Nat) : ∃ ev, (w.stepEvent c bpc kind cause agent ticket).core c =
    { w.core c with stepPend := ev } := ⟨_, W.core_modCore_same _ _ _⟩

/-- A command that is over leaves the core. -/
theorem core_tierOver (kind code : Nat) : ∃ ev, (w.tierOver c seq kind code).core c =
    { w.core c with tier := (w.core c).tier.filter fun x => decide (x.seq ≠ seq), stepPend := ev } := by
  unfold W.tierOver
  dsimp only
  rw [W.core_modCore_same]
  split
  · split
    · obtain ⟨ev, h⟩ := core_stepEvent w c ‹TierCmd›.bpc.toNat kind code 9 0
      exact ⟨ev, by rw [h]⟩
    · exact ⟨_, rfl⟩
  · exact ⟨_, rfl⟩

theorem tierOver_rest (kind code : Nat) : (w.tierOver c seq kind code).out = w.out ∧ (w.tierOver c seq kind code).zeroed = w.zeroed ∧
    ∀ d, (w.tierOver c seq kind code).die d = w.die d := by
  unfold W.tierOver
  dsimp only
  split
  · split
    · exact ⟨rfl, rfl, fun _ => rfl⟩
    · exact ⟨rfl, rfl, fun _ => rfl⟩
  · exact ⟨rfl, rfl, fun _ => rfl⟩

theorem stack_tierOver (kind code d ctx : Nat) : (w.tierOver c seq kind code).stack d ctx = w.stack d ctx := by
  rw [State.stack, (tierOver_rest w c seq kind code).2.2, State.stack]
end

/-! ### The status formed -/

section
variable {s : State} {c : Nat} {x : TierCmd}

/-- The working copy in which the command `x` has its status `n`, before it leaves the core. -/
def W.statusFormed (w : W) (c : Nat) (x : TierCmd) (n : Nat) : W :=
  (w.answer c x.seq [(0x900, lineOf (word n))]).modCore c fun k =>
    { k with tier := k.tier.map fun y => if y.seq = x.seq then { y with accepted := true } else y }

/-- The command that the engine accepts next, and may. -/
structure Accepts (s : State) (c : Nat) (x : TierCmd) : Prop where
  next : (s.core c).tier.find? (fun y => !y.accepted) = some x
  goes : (s.core c).chanHalt = false
  issued : (s.core c).pipe.pre = 0
  room : s.popWaits c x = false

theorem Accepts.tierAccept_eq (h : Accepts s c x) {n : Nat} {w : W} (hr : (W.of s).tierTake c x = (n, w)) :
    (W.of s).tierAccept c = if x.op ≤ 0x902 ∧ n = 0 then w.statusFormed c x n
      else (w.statusFormed c x n).tierOver c x.seq 1 0 := by
  have hx : ((W.of s).core c).tier.find? (fun y => !y.accepted) = some x := h.next
  have hn : ¬ (((W.of s).core c).chanHalt ∨ 0 < ((W.of s).core c).pipe.pre ∨ (W.of s).popWaits c x) := by
    have hp : (W.of s).popWaits c x = false := h.room
    rw [W.of_core, h.goes, h.issued, hp]
    simp
  unfold W.tierAccept
  dsimp only
  rw [hx]
  dsimp only
  rw [if_neg hn, hr]
  refine if_congr ?_ rfl rfl
  simp

theorem core_statusFormed (w : W) (n : Nat) : (w.statusFormed c x n).core c =
    { (w.core c).modPipe (fun p => { p with items := p.items.map (Item.answered x.seq [(0x900, lineOf (word n))]) }) with
      shadow := (w.core c).shadow.answered x.seq [(0x900, lineOf (word n))]
      tier := (w.core c).tier.map fun y => if y.seq = x.seq then { y with accepted := true } else y } := by
  rw [W.statusFormed, W.core_modCore_same, core_answer]
  rfl

/-- Only the command itself was marked: what else there is stays. -/
theorem filter_accepted (l : List TierCmd) (seq : Nat) :
    (l.map fun y => if y.seq = seq then { y with accepted := true } else y).filter (fun y => decide (y.seq ≠ seq)) =
      l.filter fun y => decide (y.seq ≠ seq) := by
  induction l with
  | nil => rfl
  | cons y l ih =>
    rw [List.map_cons]
    by_cases h : y.seq = seq
    · simpa [h] using ih
    · simpa [h] using ih

/-- What shows that the command `x` of core `c` got status `n`. -/
def GotStatus (s : State) (c : Nat) (x : TierCmd) (n : Nat) (more : State → Prop) : Prop :=
  ∃ t, exec (.tierAccept c) s = .next t ∧
    (t.mem = s.mem ∨ x.op = 0x902 ∧ x.m.getLsbD 0 = true) ∧ (t.core c).regs = (s.core c).regs ∧ more t ∧
    ∀ it ∈ (s.core c).pipe.items, it.seq = x.seq → it.await ≠ .ready →
      { it with
        await := .ready, wr := [(0x900, lineOf (word n))]
        kind := if 0x901 ≤ it.id ∧ it.id ≤ 0x905 then .res else it.kind } ∈ (t.core c).pipe.items

theorem statusFormed_rest (w : W) (n : Nat) : (w.statusFormed c x n).out = w.out ∧ (w.statusFormed c x n).zeroed = w.zeroed ∧
    ∀ d ctx, (w.statusFormed c x n).stack d ctx = w.stack d ctx := ⟨rfl, rfl, fun d ctx => stack_answer w c _ _ d ctx⟩

/-- The status of a command, from what the engine's checks answer. -/
theorem Accepts.gotStatus (h : Accepts s c x) {n : Nat} {w : W} (hr : (W.of s).tierTake c x = (n, w)) (hk : TierKept c (W.of s) w)
    (hm : w.out = [] ∧ w.zeroed = [] ∨ x.op = 0x902 ∧ x.m.getLsbD 0 = true) {more : State → Prop}
    (hmore : ∀ t : State, (∀ d ctx, t.stack d ctx = w.stack d ctx) → (t.core c).absent = (w.core c).absent →
      (¬ (x.op ≤ 0x902 ∧ n = 0) → (t.core c).tier = (s.core c).tier.filter fun y => decide (y.seq ≠ x.seq)) → more t) :
    GotStatus s c x n more := by
  obtain ⟨fo, fz, fs⟩ := statusFormed_rest (c := c) (x := x) w n
  obtain ⟨oo, oz, -⟩ := tierOver_rest (w.statusFormed c x n) c x.seq 1 0
  have os := stack_tierOver (w.statusFormed c x n) c x.seq 1 0
  obtain ⟨ev, hover⟩ := core_tierOver (w.statusFormed c x n) c x.seq 1 0
  have hf := core_statusFormed (c := c) (x := x) w n
  obtain ⟨w', hw', ho', hz', hs', hcore, hover'⟩ : ∃ w' : W, (W.of s).tierAccept c = w' ∧ w'.out = w.out ∧ w'.zeroed = w.zeroed ∧
      (∀ d ctx, w'.stack d ctx = w.stack d ctx) ∧
      ((w'.core c).regs = ((w.statusFormed c x n).core c).regs ∧ (w'.core c).absent = ((w.statusFormed c x n).core c).absent ∧
        (w'.core c).pipe = ((w.statusFormed c x n).core c).pipe) ∧
      (¬ (x.op ≤ 0x902 ∧ n = 0) →
        (w'.core c).tier = ((w.statusFormed c x n).core c).tier.filter fun y => decide (y.seq ≠ x.seq)) := by
    rw [h.tierAccept_eq hr]
    split
    · exact ⟨_, rfl, fo, fz, fs, ⟨rfl, rfl, rfl⟩, fun hn => absurd ‹_› hn⟩
    · exact ⟨_, rfl, oo.trans fo, oz.trans fz, fun d ctx => (os d ctx).trans (fs d ctx), by rw [hover]; exact ⟨rfl, rfl, rfl⟩,
        fun _ => by rw [hover]⟩
  obtain ⟨hregs, habs, hpipe⟩ := hcore
  refine ⟨w'.commit s, by rw [← hw']; rfl, ?_, ?_, hmore _ hs' ?_ fun hn => ?_, fun it hit hseq hawait => ?_⟩
  · exact hm.imp_left fun ⟨h1, h2⟩ => W.commit_mem_same _ _ (ho'.trans h1) (hz'.trans h2)
  · rw [core_commit, hregs, hf]
    exact hk.regs
  · rw [core_commit, habs, hf]
    rfl
  · rw [core_commit, hover' hn, hf]
    exact (filter_accepted _ _).trans (congrArg _ hk.tier)
  · rw [core_commit, hpipe, hf]
    refine List.mem_map.mpr ⟨it, by rw [hk.items]; exact hit, ?_⟩
    rw [Item.answered, if_pos ⟨hseq, hawait⟩]
end

/-! ### Pops: claims, and what becomes undefined -/

section
variable {c : Nat}

theorem core_claim (w : W) (ln : Nat) : ∃ cl, (w.claim c ln).core c =
    { w.core c with claims := cl, absent := Tab.put false (w.core c).absent ln true } := by
  unfold W.claim W.setAbsent
  rw [W.modCore_modCore, W.core_modCore_same]
  exact ⟨_, rfl⟩

theorem claims_kept (l : List Nat) : ∀ w : W, TierKept c w (l.foldl (fun w ln => w.claim c ln) w) ∧
    ((l.foldl (fun w ln => w.claim c ln) w).out = w.out ∧ (l.foldl (fun w ln => w.claim c ln) w).zeroed = w.zeroed) ∧
    ∀ d ctx, (l.foldl (fun w ln => w.claim c ln) w).stack d ctx = w.stack d ctx := by
  induction l with
  | nil => exact fun _ => ⟨.refl, ⟨rfl, rfl⟩, fun _ _ => rfl⟩
  | cons ln l ih =>
    intro w
    obtain ⟨cl, hc⟩ := core_claim (c := c) w ln
    obtain ⟨hk, hm, hs⟩ := ih (w.claim c ln)
    exact ⟨⟨hk.regs.trans (by rw [hc]), hk.items.trans (by rw [hc]), hk.tier.trans (by rw [hc])⟩, hm, hs⟩

/-- A claimed line is not present. -/
theorem claims_absent {ln : Nat} (l : List Nat) : ∀ w : W, (ln ∈ l ∨ (w.core c).present ln = false) →
    ((l.foldl (fun w ln => w.claim c ln) w).core c).present ln = false := by
  induction l with
  | nil =>
    rintro w (h | h)
    · cases h
    · exact h
  | cons a l ih =>
    intro w h
    obtain ⟨cl, hc⟩ := core_claim (c := c) w a
    refine ih _ ?_
    by_cases ha : ln = a
    · refine .inr ?_
      rw [hc, Core.present, ha, Tab.get_put_same]
      rfl
    · refine h.imp (fun h => (List.mem_cons.mp h).resolve_left ha) fun h => ?_
      rw [hc]
      exact (congrArg not (Tab.get_put_ne _ _ true ha)).trans h

/-- The cores and the stacks are the same. -/
def SameCores (w w' : W) : Prop := (∀ o, w'.core o = w.core o) ∧ ∀ d ctx, w'.stack d ctx = w.stack d ctx

theorem SameCores.refl {w : W} : SameCores w w := ⟨fun _ => rfl, fun _ _ => rfl⟩

theorem SameCores.trans {w w' w'' : W} (h : SameCores w w') (h' : SameCores w' w'') : SameCores w w'' :=
  ⟨fun o => (h'.1 o).trans (h.1 o), fun d ctx => (h'.2 d ctx).trans (h.2 d ctx)⟩

theorem sameCores_foldl {α : Type} {f : W → α → W} (h : ∀ w a, SameCores w (f w a)) (l : List α) : ∀ w, SameCores w (l.foldl f w) := by
  induction l with
  | nil => exact fun _ => .refl
  | cons a l ih => exact fun w => (h w a).trans (ih _)

theorem sameCores_modDie {w : W} {d : Nat} {f : Die → Die} (hf : ∀ x, (f x).tier = x.tier) : SameCores w (w.modDie d f) :=
  ⟨fun _ => rfl, fun _ _ => stack_modDie hf⟩

theorem sameCores_hbmWrite (w : W) (l : List (Nat × Byte)) : SameCores w (w.hbmWrite l) := by
  unfold W.hbmWrite
  dsimp only
  split
  · exact .refl
  · split
    · unfold W.setPoison
      exact sameCores_modDie fun _ => rfl
    · exact .refl

/-- What an accepted pop to addresses makes undefined is memory alone. -/
theorem sameCores_freeLines {d ctx : Nat} {j : TierJob} (hj : bitAt j.m 0 = true) (w : W) : SameCores w (w.freeLines d ctx j) := by
  unfold W.freeLines
  refine sameCores_foldl (fun w i => ?_) _ w
  dsimp only
  rw [if_pos hj]
  split
  · split
    · exact .refl
    · exact sameCores_hbmWrite _ _
  · exact .refl
end

/-! ### The commands -/

section
variable {s : State} {c : Nat} {x : TierCmd}

/-- The engine's stack of the issuing core's context. -/
def State.ownStack (s : State) (c : Nat) : Stack := s.stack (dieOf c) ((s.core c).ctx.getD 0)

/-- Nothing on the stack has changed and the command has left the core. -/
def SameStack (s : State) (c : Nat) (x : TierCmd) (t : State) : Prop :=
  t.stack (dieOf c) ((s.core c).ctx.getD 0) = s.ownStack c ∧
    (t.core c).tier = (s.core c).tier.filter fun y => decide (y.seq ≠ x.seq)

/-- A command that is over with its status, and has done nothing. -/
theorem Accepts.gotStatus_same (h : Accepts s c x) {n : Nat} (hr : (W.of s).tierTake c x = (n, W.of s))
    (hn : ¬ (x.op ≤ 0x902 ∧ n = 0)) : GotStatus s c x n (SameStack s c x) :=
  h.gotStatus hr .refl (.inl ⟨rfl, rfl⟩) fun _ hs _ ht => ⟨hs _ _, ht hn⟩

theorem tierTake_push (hop : x.op = 0x901) :
    (W.of s).tierTake c x = (W.of s).pushAccept c (dieOf c) ((s.core c).ctx.getD 0) x := by simp [W.tierTake, hop]
theorem tierTake_pop (hop : x.op = 0x902) :
    (W.of s).tierTake c x = (W.of s).popAccept c (dieOf c) ((s.core c).ctx.getD 0) x := by simp [W.tierTake, hop]
theorem tierTake_lease (hop : x.op = 0x903) :
    (W.of s).tierTake c x = (W.of s).leaseAccept (dieOf c) ((s.core c).ctx.getD 0) x := by simp [W.tierTake, hop]
theorem tierTake_unlease (hop : x.op = 0x904) :
    (W.of s).tierTake c x = (W.of s).unleaseAccept (dieOf c) ((s.core c).ctx.getD 0) x := by simp [W.tierTake, hop]
theorem tierTake_lstat (hop : x.op = 0x905) :
    (W.of s).tierTake c x = (s.lstat (dieOf c) ((s.core c).ctx.getD 0) x, W.of s) := by simp [W.tierTake, hop]

theorem Accepts.lstat (h : Accepts s c x) (hop : x.op = 0x905) :
    GotStatus s c x (s.lstat (dieOf c) ((s.core c).ctx.getD 0) x) (SameStack s c x) :=
  h.gotStatus_same (tierTake_lstat hop) (by omega)

/-! #### PUSHT -/

theorem Accepts.push_noSegment (h : Accepts s c x) (hop : x.op = 0x901)
    (hs : s.ssize (dieOf c) ((s.core c).ctx.getD 0) = 0) : GotStatus s c x 9 (SameStack s c x) :=
  h.gotStatus_same ((tierTake_push hop).trans (if_pos hs)) (by omega)

theorem Accepts.push_tooLong (h : Accepts s c x) (hop : x.op = 0x901)
    (hs : s.ssize (dieOf c) ((s.core c).ctx.getD 0) ≠ 0)
    (hl : s.ssize (dieOf c) ((s.core c).ctx.getD 0) < (bits x.t 0 25 + 1) * 128) : GotStatus s c x 2 (SameStack s c x) :=
  h.gotStatus_same ((tierTake_push hop).trans ((if_neg hs).trans (if_pos hl))) (by omega)

/-- A stack with a new entry on top and its push in progress. -/
def Stack.pushed (k : Stack) (c : Nat) (x : TierCmd) : Stack :=
  { k with
    entries := { key := k.nextKey, tag := BitVec.ofNat 16 (bits x.o 48 16), len := bits x.t 0 25 } :: k.entries
    jobs := k.jobs ++ [{ core := c, seq := x.seq, op := x.op, o := x.o, m := x.m, len := bits x.t 0 25, key := k.nextKey }]
    nextKey := k.nextKey + 1 }

theorem pushAccept_eq {d ctx : Nat} (hs : s.ssize d ctx ≠ 0)
    (hl : (s.stack d ctx).resident + (bits x.t 0 25 + 1) * 128 ≤ s.ssize d ctx) :
    (W.of s).pushAccept c d ctx x = (0, ((W.of s).modStack d ctx fun k => k.pushed c x).settleStack d ctx) := by
  have hz : (s.stack d ctx).resident + (bits x.t 0 25 + 1) * 128 - s.ssize d ctx = 0 := by omega
  have hf : spillFor (s.stack d ctx).movable ((s.stack d ctx).resident + (bits x.t 0 25 + 1) * 128 - s.ssize d ctx)
      (s.deepSize d ctx - (s.stack d ctx).spilled) = true := by rw [hz, spillFor]
  have h1 : ¬ (W.of s).ssize d ctx = 0 := hs
  have h2 : ¬ (W.of s).ssize d ctx < (bits x.t 0 25 + 1) * 128 := by
    have : (W.of s).ssize d ctx = s.ssize d ctx := rfl
    omega
  have h3 : ¬ (!(spillFor ((W.of s).stack d ctx).movable (((W.of s).stack d ctx).resident + (bits x.t 0 25 + 1) * 128 - (W.of s).ssize d ctx)
      ((W.of s).deepSize d ctx - ((W.of s).stack d ctx).spilled))) = true := by
    have : spillFor ((W.of s).stack d ctx).movable (((W.of s).stack d ctx).resident + (bits x.t 0 25 + 1) * 128 - (W.of s).ssize d ctx)
      ((W.of s).deepSize d ctx - ((W.of s).stack d ctx).spilled) = true := hf
    rw [this]
    decide
  exact (if_neg h1).trans ((if_neg h2).trans ((if_neg h3).trans rfl))

/-- The new entry takes its place at once when there is room. -/
theorem placeAll_pushed {k : Stack} {size : Nat} (hk : ∀ e ∈ k.all, e.key < k.nextKey ∧ (e.resident = true → e.runs ≠ []))
    {r : List (Nat × Nat)} (hr : k.room size (bits x.t 0 25 + 1) = some r) : ((k.pushed c x).placeAll size).entries =
      { key := k.nextKey, tag := BitVec.ofNat 16 (bits x.o 48 16), len := bits x.t 0 25, runs := r } :: k.entries := by
  have hall : (k.pushed c x).all =
      { key := k.nextKey, tag := BitVec.ofNat 16 (bits x.o 48 16), len := bits x.t 0 25 } :: k.all := rfl
  have hwait : (k.pushed c x).waiting = [{ key := k.nextKey, tag := BitVec.ofNat 16 (bits x.o 48 16), len := bits x.t 0 25 }] := by
    have hf : k.all.filter (fun e => e.resident && e.runs.isEmpty) = [] := by
      refine List.filter_eq_nil_iff.mpr fun e he => ?_
      have := (hk e he).2
      cases hres : e.resident
      · simp
      · simp [this hres]
    rw [Stack.waiting, hall, List.filter_cons, if_pos (by rfl), hf]
    rfl
  have hroom : (k.pushed c x).room size (bits x.t 0 25 + 1) = some r := by
    rw [← hr, Stack.room, Stack.room, hall]
    rfl
  have hold : ∀ e ∈ k.entries, entryUpdate k.nextKey (fun e => { e with runs := r }) e = e := fun e he => by
    have := (hk e (List.mem_append_left _ he)).1
    rw [entryUpdate, if_neg (by omega)]
  rw [Stack.placeAll_eq, hwait, List.foldl_cons, List.foldl_nil, Stack.place, hroom]
  show List.map (entryUpdate k.nextKey fun e => { e with runs := r }) (_ :: k.entries) = _
  rw [List.map_cons, List.map_congr_left hold, List.map_id', entryUpdate, if_pos rfl]

theorem Accepts.push_ok (h : Accepts s c x) (hop : x.op = 0x901) (hs : s.ssize (dieOf c) ((s.core c).ctx.getD 0) ≠ 0)
    (hl : (s.ownStack c).resident + (bits x.t 0 25 + 1) * 128 ≤ s.ssize (dieOf c) ((s.core c).ctx.getD 0)) :
    GotStatus s c x 0 fun t => let st := s.ownStack c
      let st' := t.stack (dieOf c) ((s.core c).ctx.getD 0)
      st'.nextKey = st.nextKey + 1 ∧
        st'.jobs = st.jobs ++ [{ core := c, seq := x.seq, op := 0x901, o := x.o, m := x.m, len := bits x.t 0 25, key := st.nextKey }] ∧
        ((∀ e ∈ st.all, e.key < st.nextKey ∧ (e.resident = true → e.runs ≠ [])) →
          ∀ r, st.room (s.ssize (dieOf c) ((s.core c).ctx.getD 0) / 128) (bits x.t 0 25 + 1) = some r → st'.entries =
            { key := st.nextKey, tag := x.o.extractLsb' 48 16, len := bits x.t 0 25, runs := r } :: st.entries) := by
  refine h.gotStatus ((tierTake_push hop).trans (pushAccept_eq hs hl)) (tierKept_of_core rfl) (.inl ⟨rfl, rfl⟩) fun t hst _ _ => ?_
  obtain ⟨b, hset⟩ := stack_settleStack (w := (W.of s).modStack (dieOf c) ((s.core c).ctx.getD 0) fun k => k.pushed c x)
    (d := dieOf c) (ctx := (s.core c).ctx.getD 0)
  rw [stack_modStack, ssize_modStack] at hset
  obtain ⟨es, ls, hrest⟩ := Stack.placeAll_rest (((W.of s).stack (dieOf c) ((s.core c).ctx.getD 0)).pushed c x)
    ((W.of s).ssize (dieOf c) ((s.core c).ctx.getD 0) / 128)
  have htag : BitVec.ofNat 16 (bits x.o 48 16) = x.o.extractLsb' 48 16 := by
    rw [bits_eq_extract, BitVec.ofNat_toNat, BitVec.setWidth_eq]
  dsimp only
  rw [hst, hset]
  refine ⟨by rw [hrest]; rfl, by rw [hrest, ← hop]; rfl, fun hk r hr => ?_⟩
  rw [← htag]
  exact placeAll_pushed (c := c) (x := x) hk hr

/-! #### POPT -/

/-- The top entry detached for a pop. -/
def Stack.popping (k : Stack) (c : Nat) (x : TierCmd) (e : StackEntry) (l : List StackEntry) : Stack :=
  { k with
    entries := l, leaving := { e with popped := some 0 } :: k.leaving
    jobs := k.jobs ++ [{ core := c, seq := x.seq, op := x.op, o := x.o, m := x.m, len := e.len, key := e.key }] }

section
variable {d ctx : Nat} {e : StackEntry} {l : List StackEntry}

theorem popAccept_empty (hs : s.ssize d ctx ≠ 0) (he : (s.stack d ctx).entries = []) :
    (W.of s).popAccept c d ctx x = (3, W.of s) := by
  have he' : ((W.of s).stack d ctx).entries = [] := he
  refine (if_neg hs).trans ?_
  rw [he']

theorem popAccept_cons (hs : s.ssize d ctx ≠ 0) (he : (s.stack d ctx).entries = e :: l) :
    (W.of s).popAccept c d ctx x =
      if e.tag.toNat ≠ bits x.o 48 16 then (4, W.of s)
      else if e.len ≠ bits x.t 0 25 then (5, W.of s)
      else
        let w := (W.of s).modStack d ctx fun k => k.popping c x e l
        (0, if bitAt x.m 0 then
            w.freeLines d ctx { core := c, seq := x.seq, op := x.op, o := x.o, m := x.m, len := e.len, key := e.key }
          else (popLines x).foldl (fun w ln => w.claim c ln) w) := by
  have he' : ((W.of s).stack d ctx).entries = e :: l := he
  refine (if_neg hs).trans ?_
  rw [he']
  rfl
end

theorem tag_eq_iff (t : BitVec 16) (o : Word) : t.toNat = bits o 48 16 ↔ t = o.extractLsb' 48 16 := by
  rw [bits_eq_extract, BitVec.toNat_inj]

theorem Accepts.pop_noEntry (h : Accepts s c x) (hop : x.op = 0x902) (hs : s.ssize (dieOf c) ((s.core c).ctx.getD 0) ≠ 0)
    (he : (s.ownStack c).entries = []) : GotStatus s c x 3 (SameStack s c x) :=
  h.gotStatus_same ((tierTake_pop hop).trans (popAccept_empty hs he)) (by omega)

section
variable {e : StackEntry} {l : List StackEntry}

theorem Accepts.pop_otherTag (h : Accepts s c x) (hop : x.op = 0x902) (hs : s.ssize (dieOf c) ((s.core c).ctx.getD 0) ≠ 0)
    (he : (s.ownStack c).entries = e :: l) (ht : e.tag ≠ x.o.extractLsb' 48 16) : GotStatus s c x 4 (SameStack s c x) := by
  refine h.gotStatus_same ((tierTake_pop hop).trans ((popAccept_cons hs he).trans (if_pos ?_))) (by omega)
  exact fun hx => ht ((tag_eq_iff _ _).mp hx)

theorem Accepts.pop_otherLength (h : Accepts s c x) (hop : x.op = 0x902) (hs : s.ssize (dieOf c) ((s.core c).ctx.getD 0) ≠ 0)
    (he : (s.ownStack c).entries = e :: l) (ht : e.tag = x.o.extractLsb' 48 16) (hl : e.len ≠ bits x.t 0 25) :
    GotStatus s c x 5 (SameStack s c x) := by
  refine h.gotStatus_same ((tierTake_pop hop).trans ((popAccept_cons hs he).trans ((if_neg ?_).trans (if_pos hl)))) (by omega)
  exact not_not_intro ((tag_eq_iff _ _).mpr ht)

theorem Accepts.pop_ok (h : Accepts s c x) (hop : x.op = 0x902) (hs : s.ssize (dieOf c) ((s.core c).ctx.getD 0) ≠ 0)
    (he : (s.ownStack c).entries = e :: l) (ht : e.tag = x.o.extractLsb' 48 16) (hl : e.len = bits x.t 0 25) :
    GotStatus s c x 0 fun t => let st' := t.stack (dieOf c) ((s.core c).ctx.getD 0)
      st'.entries = l ∧
        st'.jobs = (s.ownStack c).jobs ++
          [{ core := c, seq := x.seq, op := 0x902, o := x.o, m := x.m, len := bits x.t 0 25, key := e.key }] ∧
        (x.m.getLsbD 0 = false → ∀ i, i < bits x.t 0 25 → (t.core c).present (bits x.o 0 15 + i) = false) := by
  have hr := (tierTake_pop (s := s) (c := c) hop).trans ((popAccept_cons hs he).trans
    ((if_neg (not_not_intro ((tag_eq_iff _ _).mpr ht))).trans (if_neg (not_not_intro hl))))
  have hpop : ((W.of s).modStack (dieOf c) ((s.core c).ctx.getD 0) fun k => k.popping c x e l).stack (dieOf c) ((s.core c).ctx.getD 0) =
      (s.ownStack c).popping c x e l := stack_modStack _
  cases hm : bitAt x.m 0 with
  | true =>
    dsimp only at hr
    rw [if_pos hm] at hr
    obtain ⟨hc, hst⟩ := sameCores_freeLines (d := dieOf c) (ctx := (s.core c).ctx.getD 0)
      (j := { core := c, seq := x.seq, op := x.op, o := x.o, m := x.m, len := e.len, key := e.key }) hm
      ((W.of s).modStack (dieOf c) ((s.core c).ctx.getD 0) fun k => k.popping c x e l)
    refine h.gotStatus hr (tierKept_of_core ((hc c).trans rfl)) (.inr ⟨hop, hm⟩) fun t hs' _ _ => ?_
    dsimp only
    rw [hs', hst, hpop]
    refine ⟨rfl, by rw [← hop, ← hl]; rfl, fun h0 => ?_⟩
    exact absurd (hm.symm.trans h0) (by decide)
  | false =>
    dsimp only at hr
    rw [if_neg (by simp [hm])] at hr
    obtain ⟨hk, hmem, hst⟩ := claims_kept (c := c) (popLines x)
      ((W.of s).modStack (dieOf c) ((s.core c).ctx.getD 0) fun k => k.popping c x e l)
    refine h.gotStatus hr ⟨hk.regs, hk.items, hk.tier⟩ (.inl hmem) fun t hs' habs _ => ?_
    dsimp only
    rw [hs', hst, hpop]
    refine ⟨rfl, by rw [← hop, ← hl]; rfl, fun _ i hi => ?_⟩
    have hmemLine : bits x.o 0 15 + i ∈ popLines x := by
      rw [popLines, if_neg (by rw [hm]; decide)]
      exact List.mem_map.mpr ⟨i, List.mem_range.mpr hi, rfl⟩
    rw [Core.present, habs]
    exact claims_absent (popLines x) _ (.inl hmemLine)
end

/-! #### LEASE and UNLEASE -/

theorem lease_setLease (w : W) (d ctx i : Nat) (l : LeaseSlot) : ((w.setLease d ctx i l).stack d ctx).lease i = l := by
  rw [W.setLease, stack_modStack]
  exact Tab.get_put_same ({} : LeaseSlot) _ _ _

theorem find?_range_first {p : Nat → Bool} {n i : Nat} (hi : i < n) (hp : p i = true) (hj : ∀ j, j < i → p j = false) :
    (List.range n).find? p = some i := by
  rw [List.find?_range_eq_some]
  exact ⟨hp, List.mem_range.mpr hi, fun j hlt => by simp [hj j hlt]⟩

theorem Accepts.lease_full (h : Accepts s c x) (hop : x.op = 0x903)
    (hf : ∀ i, i < 16 → ((s.ownStack c).lease i).st ≠ 0) : GotStatus s c x 6 (SameStack s c x) := by
  have hn : (List.range 16).find? (fun i => decide ((((W.of s).stack (dieOf c) ((s.core c).ctx.getD 0)).lease i).st = 0)) = none := by
    refine List.find?_eq_none.mpr fun i hi => ?_
    exact fun h0 => hf i (List.mem_range.mp hi) (of_decide_eq_true h0)
  refine h.gotStatus_same ((tierTake_lease hop).trans ?_) (by omega)
  unfold W.leaseAccept
  dsimp only
  rw [hn]

section
variable {i : Nat}

/-- The lowest free lease slot. -/
structure LowestFree (k : Stack) (i : Nat) : Prop where
  lt : i < 16
  free : (k.lease i).st = 0
  lowest : ∀ j, j < i → (k.lease j).st ≠ 0

theorem LowestFree.leaseAccept_eq (hf : LowestFree (s.ownStack c) i) :
    (W.of s).leaseAccept (dieOf c) ((s.core c).ctx.getD 0) x =
      if bits x.o 0 10 = s.pkg.rank.toNat ∨ s.pkg.dsize.toNat ≤ bits x.o 0 10 ∨ s.pkg.linkUp = 0 then (8, W.of s)
      else (i * 256, ((W.of s).setLease (dieOf c) ((s.core c).ctx.getD 0) i
        { st := 1, lender := bits x.o 0 10, asked := bits x.t 0 11, part := bitAt x.m 0 }).leaseMsg ((s.core c).ctx.getD 0)
          (bits x.o 0 10) [0, dieOf c, i, bits x.t 0 11, b2n (bitAt x.m 0)]) := by
  have hn : (List.range 16).find? (fun i => decide ((((W.of s).stack (dieOf c) ((s.core c).ctx.getD 0)).lease i).st = 0)) = some i :=
    find?_range_first hf.lt (decide_eq_true hf.free) fun j hj => decide_eq_false (hf.lowest j hj)
  unfold W.leaseAccept
  dsimp only
  rw [hn]
  rfl

theorem Accepts.lease_badLender (h : Accepts s c x) (hop : x.op = 0x903) (hf : LowestFree (s.ownStack c) i)
    (hb : bits x.o 0 10 = s.pkg.rank.toNat) : GotStatus s c x 8 (SameStack s c x) :=
  h.gotStatus_same ((tierTake_lease hop).trans (hf.leaseAccept_eq.trans (if_pos (.inl hb)))) (by omega)

theorem Accepts.lease_ok (h : Accepts s c x) (hop : x.op = 0x903) (hf : LowestFree (s.ownStack c) i)
    (hb : bits x.o 0 10 ≠ s.pkg.rank.toNat) (hd : bits x.o 0 10 < s.pkg.dsize.toNat) (hl : s.pkg.linkUp ≠ 0) :
    GotStatus s c x (i * 256) fun t => (t.stack (dieOf c) ((s.core c).ctx.getD 0)).lease i =
      { st := 1, lender := bits x.o 0 10, asked := bits x.t 0 11, part := x.m.getLsbD 0 } := by
  have hn : ¬ (bits x.o 0 10 = s.pkg.rank.toNat ∨ s.pkg.dsize.toNat ≤ bits x.o 0 10 ∨ s.pkg.linkUp = 0) := by
    rintro (h | h | h)
    · exact hb h
    · omega
    · exact hl h
  refine h.gotStatus ((tierTake_lease hop).trans (hf.leaseAccept_eq.trans (if_neg hn))) (tierKept_of_core rfl) (.inl ⟨rfl, rfl⟩)
    fun t hs _ _ => ?_
  rw [hs]
  exact lease_setLease _ _ _ _ _
end

/-- What UNLEASE makes of its slot, by the slot's state. -/
theorem tierTake_unlease_cases (hop : x.op = 0x904) : let d := dieOf c
    let ctx := (s.core c).ctx.getD 0
    let i := bits x.t 0 4
    let l := (s.ownStack c).lease i
    let free := (W.of s).setLease d ctx i {}
    (l.st = 1 → (W.of s).tierTake c x = (0, free.modStack d ctx fun k => { k with stale := k.stale ++ [(i, l.lender)] })) ∧
      (l.st = 3 → (W.of s).tierTake c x = (0, free)) ∧ (l.st = 5 → (W.of s).tierTake c x = (0, free.leaseGone d ctx l)) ∧
      (l.st = 2 ∨ l.st = 4 → (W.of s).tierTake c x = (0, (W.of s).setLease d ctx i { l with st := 6 })) ∧
      (l.st = 0 ∨ l.st = 6 → (W.of s).tierTake c x = (7, W.of s)) := by
  dsimp only
  have hl : ((W.of s).stack (dieOf c) ((s.core c).ctx.getD 0)).lease (bits x.t 0 4) = (s.ownStack c).lease (bits x.t 0 4) := rfl
  rw [tierTake_unlease hop, W.unleaseAccept]
  rw [hl]
  refine ⟨fun h => ?_, fun h => ?_, fun h => ?_, ?_, ?_⟩
  · rw [h]; rfl
  · rw [h]; rfl
  · rw [h]; rfl
  · rintro (h | h) <;> (rw [h]; rfl)
  · rintro (h | h) <;> (rw [h]; rfl)

theorem Accepts.unlease_over (h : Accepts s c x) (hop : x.op = 0x904)
    (hst : let l := (s.ownStack c).lease (bits x.t 0 4)
      l.st = 1 ∨ l.st = 3 ∨ l.st = 5) :
    GotStatus s c x 0 fun t => (t.stack (dieOf c) ((s.core c).ctx.getD 0)).lease (bits x.t 0 4) = {} := by
  obtain ⟨h1, h3, h5, -, -⟩ := tierTake_unlease_cases (s := s) (c := c) hop
  rcases hst with hst | hst | hst
  · refine h.gotStatus (h1 hst) (tierKept_of_core rfl) (.inl ⟨rfl, rfl⟩) fun t hs _ _ => ?_
    rw [hs, stack_modStack]
    exact lease_setLease _ _ _ _ _
  · refine h.gotStatus (h3 hst) (tierKept_of_core rfl) (.inl ⟨rfl, rfl⟩) fun t hs _ _ => ?_
    rw [hs]
    exact lease_setLease _ _ _ _ _
  · refine h.gotStatus (h5 hst) (tierKept_of_core rfl) (.inl ⟨rfl, rfl⟩) fun t hs _ _ => ?_
    rw [hs, W.leaseGone, stack_modStack]
    exact lease_setLease _ _ _ _ _

theorem Accepts.unlease_active (h : Accepts s c x) (hop : x.op = 0x904)
    (hst : let l := (s.ownStack c).lease (bits x.t 0 4)
      l.st = 2 ∨ l.st = 4) :
    GotStatus s c x 0 fun t => (t.stack (dieOf c) ((s.core c).ctx.getD 0)).lease (bits x.t 0 4) =
      { (s.ownStack c).lease (bits x.t 0 4) with st := 6 } := by
  obtain ⟨-, -, -, h24, -⟩ := tierTake_unlease_cases (s := s) (c := c) hop
  refine h.gotStatus (h24 hst) (tierKept_of_core rfl) (.inl ⟨rfl, rfl⟩) fun t hs _ _ => ?_
  rw [hs]
  exact lease_setLease _ _ _ _ _

theorem Accepts.unlease_none (h : Accepts s c x) (hop : x.op = 0x904)
    (hst : let l := (s.ownStack c).lease (bits x.t 0 4)
      l.st = 0 ∨ l.st = 6) : GotStatus s c x 7 (SameStack s c x) := by
  obtain ⟨-, -, -, -, h06⟩ := tierTake_unlease_cases (s := s) (c := c) hop
  exact h.gotStatus_same (h06 hst) (by omega)

end

end Sys2Proof.Machine
end
section
/-! The lines of pushes and pops, and the spill engine's (03 R84..R86). -/

namespace Sys2Proof.Machine

theorem stack_commit (w : W) (s : State) (d ctx : Nat) : (w.commit s).stack d ctx = w.stack d ctx := rfl

/-! ### Requests to HBM -/

/-- Only requests, and what the checks of reads keep, differ. -/
structure RequestsOnly (w w' : W) : Prop where
  cores : w'.cores = w.cores
  out : w'.out = w.out
  zeroed : w'.zeroed = w.zeroed
  pkg : w'.pkg = w.pkg
  stack : ∀ d ctx, w'.stack d ctx = w.stack d ctx
  tierBlk : ∀ d ctx, w'.tierBlk d ctx = w.tierBlk d ctx

section
variable {w w' w'' : W}

theorem RequestsOnly.refl : RequestsOnly w w := ⟨rfl, rfl, rfl, rfl, fun _ _ => rfl, fun _ _ => rfl⟩

theorem RequestsOnly.trans (h : RequestsOnly w w') (h' : RequestsOnly w' w'') : RequestsOnly w w'' :=
  ⟨h'.cores.trans h.cores, h'.out.trans h.out, h'.zeroed.trans h.zeroed, h'.pkg.trans h.pkg,
    fun d ctx => (h'.stack d ctx).trans (h.stack d ctx), fun d ctx => (h'.tierBlk d ctx).trans (h.tierBlk d ctx)⟩

theorem RequestsOnly.core (h : RequestsOnly w w') (o : Nat) : w'.core o = w.core o := by rw [State.core, h.cores, State.core]

theorem RequestsOnly.stackLine (h : RequestsOnly w w') (d ctx : Nat) (e : StackEntry) (n : Nat) :
    w'.stackLine d ctx e n = w.stackLine d ctx e n := by
  simp only [State.stackLine, State.sbase, h.tierBlk]

theorem requestsOnly_modDie {e : Nat} {f : Die → Die} (ht : ∀ x, (f x).tier = x.tier) (hb : ∀ x, (f x).tierBlk = x.tierBlk) :
    RequestsOnly w (w.modDie e f) := by
  refine ⟨rfl, rfl, rfl, rfl, fun _ _ => stack_modDie ht, fun d ctx => ?_⟩
  by_cases h : d = e
  · subst h
    simp [State.tierBlk, hb]
  · simp [State.tierBlk, W.die_modDie_ne _ _ h]

theorem requestsOnly_hbmAsk (q : HbmReq) : RequestsOnly w (w.hbmAsk q) := by
  unfold W.hbmAsk
  exact requestsOnly_modDie (fun _ => rfl) fun _ => rfl

theorem requestsOnly_foldl {α : Type} {f : W → α → W} (h : ∀ w a, RequestsOnly w (f w a)) (l : List α) : ∀ w, RequestsOnly w (l.foldl f w) := by
  induction l with
  | nil => exact fun _ => .refl
  | cons a l ih => exact fun w => (h w a).trans (ih _)

theorem requestsOnly_hbmStore (port a : Nat) (l : List Byte) : RequestsOnly w (w.hbmStore port a l) := by
  unfold W.hbmStore
  exact requestsOnly_foldl (fun w b => requestsOnly_hbmAsk _) _ w

/-- The reads that a step uses are forgotten. -/
theorem die_takeReads (l : List AgentRead) (d : Nat) : (w.takeReads l).die d = { w.die d with mc := { (w.die d).mc with
    turns := (w.die d).mc.turns.filter fun t => !(l.contains (t.1, t.2.1)) } } :=
  Tab.get_map (fun x : Die => { x with mc := { x.mc with turns := x.mc.turns.filter fun t => !(l.contains (t.1, t.2.1)) } })
    rfl w.dies d

theorem requestsOnly_takeReads (l : List AgentRead) : RequestsOnly w (w.takeReads l) := by
  refine ⟨rfl, rfl, rfl, rfl, fun d ctx => ?_, fun d ctx => ?_⟩
  · rw [State.stack, die_takeReads, State.stack]
  · rw [State.tierBlk, die_takeReads, State.tierBlk]
end

/-- A request waits for its pseudo-channel. -/
def Waits (s : State) (q : HbmReq) : Prop :=
  q ∈ Tab.get [] (s.die (stackOf (128 * q.line))).mc.waiting (pcOf (128 * q.line))

theorem waits_hbmAsk (w : W) (q : HbmReq) : Waits (w.hbmAsk q).toState q := by
  unfold Waits W.hbmAsk
  dsimp only
  rw [W.die_modDie_same, Tab.get_put_same]
  exact List.mem_append_right _ (List.mem_singleton_self q)

theorem Waits.congr {s t : State} {q : HbmReq} (h : Waits s q) (hd : ∀ d, (t.die d).mc = (s.die d).mc) : Waits t q := by
  rw [Waits, hd]
  exact h

theorem mc_modStack (w : W) (d ctx : Nat) (f : Stack → Stack) (e : Nat) : ((w.modStack d ctx f).die e).mc = (w.die e).mc := by
  by_cases h : e = d
  · subst h
    simp [W.modStack]
  · simp [W.modStack, W.die_modDie_ne _ _ h]

theorem lineAddrs_line {a : Nat} (h : a % 128 = 0) : lineAddrs a 128 = [a / 128 * 128] := by
  simp [lineAddrs, h]

/-- The cells of a line's bytes from an address. -/
def lineCells (a : Nat) (l : Line) : List (Nat × Byte) := ((List.range 128).zip (lineToBytes l)).map fun e => (a + e.1, e.2)

theorem mem_lineCells (a : Nat) (l : Line) {i : Nat} (hi : i < 128) : (a + i, l.extractLsb' (8 * i) 8) ∈ lineCells a l := by
  refine List.mem_map.mpr ⟨(i, l.extractLsb' (8 * i) 8), ?_, rfl⟩
  refine List.mem_iff_getElem.mpr ⟨i, by simp [lineToBytes, hi], ?_⟩
  simp [lineToBytes]

/-- A line stored is one request. -/
theorem hbmStore_line (w : W) (port : Nat) {a : Nat} (h : a % 128 = 0) (l : Line) : w.hbmStore port a (lineToBytes l) =
    w.hbmAsk { src := port, line := a / 128, write := true, data := lineCells a l } := by
  have hlen : (lineToBytes l).length = 128 := by simp [lineToBytes]
  have hf : (lineCells a l).filter (fun e => decide (e.1 / 128 = a / 128)) = lineCells a l := by
    refine List.filter_eq_self.mpr fun e he => ?_
    obtain ⟨⟨i, b⟩, hm, rfl⟩ := List.mem_map.mp he
    have := List.mem_range.mp (List.of_mem_zip hm).1
    simp only [decide_eq_true_eq]
    omega
  unfold W.hbmStore
  dsimp only
  rw [hlen, lineAddrs_line h, List.foldl_cons, List.foldl_nil, Nat.mul_div_cancel _ (by decide)]
  exact congrArg (fun c => w.hbmAsk { src := port, line := a / 128, write := true, data := c }) hf

/-! ### The line of a push -/

section
variable {s : State} {d ctx n : Nat} {j : TierJob} {e : StackEntry}

/-- A push of VRF lines whose next line can go. -/
structure PushGoes (s : State) (d ctx n : Nat) (j : TierJob) (e : StackEntry) : Prop where
  job : (s.stack d ctx).jobs[n]? = some j
  runs : (s.core j.core).chanHalt = false
  op : j.op = 0x901
  vrf : j.m.getLsbD 0 = false
  present : (s.core j.core).present (bits j.o 0 15 + j.n) = true
  good : (s.core j.core).soft.contains (bits j.o 0 15 + j.n) = false
  entry : (s.stack d ctx).entry j.key = some e
  placed : e.runs ≠ []
  aligned : s.sbase d ctx % 128 = 0

theorem tierWalk_vrf {w : W} (h : bitAt j.m 0 = false) : w.tierWalk d ctx j = [] := by simp [W.tierWalk, h]
theorem tierSide_vrf {w : W} (h : bitAt j.m 0 = false) (wr : Bool) : w.tierSide d ctx j wr = none := by simp [W.tierSide, h]

/-- Before the first line of a push its header is stored. -/
def W.headerStored (w : W) (d ctx : Nat) (j : TierJob) (e : StackEntry) : W :=
  if j.n = 0 then w.freeLine.2.hbmStore (agentPort 0 d) (w.freeLine.2.stackLine d ctx e 0) (lineToBytes w.freeLine.1) else w

/-- The line stored, and the header before the first. -/
def W.pushStored (w : W) (d ctx : Nat) (j : TierJob) (e : StackEntry) (l : Line) : W :=
  (w.headerStored d ctx j e).hbmAsk
    { src := agentPort 0 d, line := w.stackAddr d ctx e j.n / 128, write := true, data := lineCells (w.stackAddr d ctx e j.n) l }

/-- The push is one line further. -/
def Stack.pushOn (k : Stack) (j : TierJob) : Stack :=
  (k.modEntry j.key fun e => { e with wrote := j.n + 1 }).modJob j fun x => { x with n := j.n + 1, crc := false }

theorem requestsOnly_headerStored (w : W) : RequestsOnly w (w.headerStored d ctx j e) := by
  unfold W.headerStored
  split
  · exact RequestsOnly.trans (w' := w.freeLine.2) ⟨rfl, rfl, rfl, rfl, fun _ _ => rfl, fun _ _ => rfl⟩ (requestsOnly_hbmStore _ _ _)
  · exact .refl

theorem requestsOnly_pushStored (w : W) (l : Line) : RequestsOnly w (w.pushStored d ctx j e l) :=
  (requestsOnly_headerStored w).trans (requestsOnly_hbmAsk _)

theorem PushGoes.addr_aligned (h : PushGoes s d ctx n j e) : s.stackAddr d ctx e j.n % 128 = 0 := by
  have := h.aligned
  show (s.sbase d ctx + 128 * _) % 128 = 0
  omega

theorem PushGoes.step_eq (h : PushGoes s d ctx n j e) :
    (W.of s).tierStep d ctx n 0x901 (fun w => w.pushData d ctx n none) =
      let w := ((W.of s).pushStored d ctx j e ((s.core j.core).line (bits j.o 0 15 + j.n))).modStack d ctx fun k => k.pushOn j
      if j.n + 1 = j.len then (w.modStack d ctx fun k => k.dropJob j).tierOver j.core j.seq 1 0 else w := by
  have hm : bitAt j.m 0 = false := h.vrf
  have hjob : ((W.of s).stack d ctx).jobs[n]? = some j := h.job
  have hent : ((W.of s).stack d ctx).entry j.key = some e := h.entry
  have hmay : (W.of s).tierMay d ctx j = true := by
    have hr : e.runs.isEmpty = false := by
      cases hx : e.runs with
      | nil => exact absurd hx h.placed
      | cons => rfl
    unfold W.tierMay
    dsimp only
    rw [hent, W.of_core, h.runs, if_pos h.op, h.present]
    simp [hr]
  have hlines : (W.of s).tierLines d ctx j = [] := by
    have hop : decide (j.op = 0x902) = false := by rw [h.op]; rfl
    unfold W.tierLines
    dsimp only
    rw [hop, tierSide_vrf hm]
    rfl
  have hadm : (W.of s).admitted ((W.of s).tierWalk d ctx j) = true := by rw [tierWalk_vrf hm]; rfl
  have hline : (W.of s).pushLine d ctx j = .ok ((s.core j.core).line (bits j.o 0 15 + j.n), W.of s) := by
    unfold W.pushLine
    rw [if_neg (by simp [hm])]
    dsimp only
    rw [W.of_core, h.present, h.good]
    rfl
  have hal : (W.of s).stackAddr d ctx e j.n % 128 = 0 := h.addr_aligned
  have hstep : (W.of s).tierStep d ctx n 0x901 (fun w => w.pushData d ctx n none) = (W.of s).pushData d ctx n none := by
    unfold W.tierStep
    rw [hjob]
    dsimp only
    rw [if_neg (by rw [hmay]; simp [h.op]), if_neg (by rw [hadm]; decide), hlines, reading_nil]
  rw [hstep]
  unfold W.pushData
  rw [hjob]
  dsimp only
  rw [if_neg (by rw [W.of_core, h.runs]; simp [h.op]), tierSide_vrf hm]
  have hchk : (W.of s).tierCheck d ctx none j none = (true, false, W.of s) := rfl
  rw [hchk]
  dsimp only
  rw [if_neg Bool.false_ne_true, if_neg (by decide), hline, hent]
  dsimp only
  have hst : ((W.of s).headerStored d ctx j e).stackAddr d ctx e j.n = (W.of s).stackAddr d ctx e j.n :=
    (requestsOnly_headerStored _).stackLine d ctx e (j.n + 1)
  refine Eq.trans (b :=
    let w := (((W.of s).headerStored d ctx j e).hbmStore (agentPort 0 d) (((W.of s).headerStored d ctx j e).stackAddr d ctx e j.n)
      (lineToBytes ((s.core j.core).line (bits j.o 0 15 + j.n)))).modStack d ctx fun k => k.pushOn j
    if decide (j.n + 1 = j.len) then (w.modStack d ctx fun k => k.dropJob j).tierOver j.core j.seq 1 0 else w) rfl ?_
  rw [hst, hbmStore_line _ _ hal]
  simp only [decide_eq_true_eq]
  rfl

/-- A request of the die's tier engine for line `q` waits. -/
def EngineWaits (t : State) (d q : Nat) (write : Bool) (p : HbmReq → Prop) : Prop :=
  ∃ r ∈ Tab.get [] (t.die (stackOf (128 * q))).mc.waiting (pcOf (128 * q)), r.src = agentPort 0 d ∧ r.line = q ∧ r.write = write ∧ p r

theorem Waits.engine {t : State} {d : Nat} {r : HbmReq} (h : Waits t r) {p : HbmReq → Prop} (hs : r.src = agentPort 0 d) (hp : p r) :
    EngineWaits t d r.line r.write p := ⟨r, h, hs, rfl, rfl, hp⟩

/-- The line that a push stores waits as a request. -/
theorem pushStored_waits {t : State}
    (hmc : ∀ o, (t.die o).mc = (((W.of s).pushStored d ctx j e ((s.core j.core).line (bits j.o 0 15 + j.n))).die o).mc) :
    EngineWaits t d (s.stackAddr d ctx e j.n / 128) true fun r => ∀ i, i < 128 →
      (s.stackAddr d ctx e j.n + i, ((s.core j.core).line (bits j.o 0 15 + j.n)).extractLsb' (8 * i) 8) ∈ r.data :=
  have hw := (waits_hbmAsk ((W.of s).headerStored d ctx j e)
    { src := agentPort 0 d, line := (W.of s).stackAddr d ctx e j.n / 128, write := true
      data := lineCells ((W.of s).stackAddr d ctx e j.n) ((s.core j.core).line (bits j.o 0 15 + j.n)) }).congr hmc
  hw.engine rfl fun _ hi => mem_lineCells _ _ hi

theorem PushGoes.entry_pushOn (h : PushGoes s d ctx n j e) :
    ((s.stack d ctx).pushOn j).entry j.key = some { e with wrote := j.n + 1 } :=
  (Stack.entry_congr rfl rfl).trans (Stack.entry_modEntry_same _ (fun _ => rfl) h.entry)

/-- TIER_PUSH_DATA of a line that is not the last. -/
theorem PushGoes.more (h : PushGoes s d ctx n j e) (hl : j.n + 1 ≠ j.len) :
    ∃ t, exec (.tierPushData d ctx { n := n }) s = .next t ∧ t.mem = s.mem ∧ t.cores = s.cores ∧
      (∀ o, (t.die o).mc = (((W.of s).pushStored d ctx j e ((s.core j.core).line (bits j.o 0 15 + j.n))).die o).mc) ∧
      t.stack d ctx = (s.stack d ctx).pushOn j := by
  have hr := requestsOnly_pushStored (d := d) (ctx := ctx) (j := j) (e := e) (W.of s) ((s.core j.core).line (bits j.o 0 15 + j.n))
  have hs := h.step_eq
  dsimp only at hs
  rw [if_neg hl] at hs
  refine ⟨_, congrArg (go s) hs, W.commit_mem_same _ _ hr.out hr.zeroed, hr.cores, fun o => ?_, ?_⟩
  · rw [die_commit, mc_modStack]
  · rw [stack_commit, stack_modStack, hr.stack]
    rfl

/-- TIER_PUSH_DATA of the last line. -/
theorem PushGoes.last (h : PushGoes s d ctx n j e) (hl : j.n + 1 = j.len) :
    ∃ t, exec (.tierPushData d ctx { n := n }) s = .next t ∧ t.mem = s.mem ∧
      (t.core j.core).tier = (s.core j.core).tier.filter (fun z => decide (z.seq ≠ j.seq)) ∧
      (∀ o, (t.die o).mc = (((W.of s).pushStored d ctx j e ((s.core j.core).line (bits j.o 0 15 + j.n))).die o).mc) ∧
      t.stack d ctx = ((s.stack d ctx).pushOn j).dropJob j := by
  have hr := requestsOnly_pushStored (d := d) (ctx := ctx) (j := j) (e := e) (W.of s) ((s.core j.core).line (bits j.o 0 15 + j.n))
  have hs := h.step_eq
  dsimp only at hs
  rw [if_pos hl] at hs
  generalize hw : (((W.of s).pushStored d ctx j e ((s.core j.core).line (bits j.o 0 15 + j.n))).modStack d ctx
    fun k => k.pushOn j).modStack d ctx (fun k => k.dropJob j) = w at hs
  have hout : w.out = [] := by rw [← hw]; exact hr.out
  have hzero : w.zeroed = [] := by rw [← hw]; exact hr.zeroed
  have hcore : w.core j.core = s.core j.core := by rw [← hw]; exact hr.core _
  have hst : w.stack d ctx = ((s.stack d ctx).pushOn j).dropJob j := by
    rw [← hw, stack_modStack, stack_modStack, hr.stack]
    rfl
  obtain ⟨oo, oz, od⟩ := tierOver_rest w j.core j.seq 1 0
  obtain ⟨ev, oc⟩ := core_tierOver w j.core j.seq 1 0
  refine ⟨_, congrArg (go s) hs, W.commit_mem_same _ _ (oo.trans hout) (oz.trans hzero), ?_, fun o => ?_, ?_⟩
  · rw [core_commit, oc, hcore]
  · rw [die_commit, od, ← hw, mc_modStack, mc_modStack]
  · rw [stack_commit, stack_tierOver, hst]

/-! ### The line of a pop -/

/-- A pop to VRF lines whose next line is there. -/
structure PopGoes (s : State) (d ctx n : Nat) (j : TierJob) (e : StackEntry) : Prop where
  job : (s.stack d ctx).jobs[n]? = some j
  runs : (s.core j.core).chanHalt = false
  op : j.op = 0x902
  vrf : j.m.getLsbD 0 = false
  ready : (s.stack d ctx).popReady j = some e

theorem popReady_entry {k : Stack} (h : k.popReady j = some e) : k.entry j.key = some e := (Option.filter_eq_some_iff.mp h).1

theorem PopGoes.step_eq (h : PopGoes s d ctx n j e) :
    (W.of s).tierStep d ctx n 0x902 (fun w => w.popData d ctx n none) =
      (W.of s).reading [(agentPort 0 d, s.stackAddr d ctx e j.n / 128)] fun w => w.popData d ctx n none := by
  have hm : bitAt j.m 0 = false := h.vrf
  have hjob : ((W.of s).stack d ctx).jobs[n]? = some j := h.job
  have hent : ((W.of s).stack d ctx).entry j.key = some e := popReady_entry h.ready
  have hmay : (W.of s).tierMay d ctx j = true := by
    have hr : ((W.of s).stack d ctx).popReady j = some e := h.ready
    unfold W.tierMay
    dsimp only
    rw [W.of_core, h.runs, if_neg (by simp [h.op]), hr]
    rfl
  have hlines : (W.of s).tierLines d ctx j = [(agentPort 0 d, s.stackAddr d ctx e j.n / 128)] := by
    unfold W.tierLines
    dsimp only
    rw [h.op, tierSide_vrf hm, hent]
    rfl
  have hadm : (W.of s).admitted ((W.of s).tierWalk d ctx j) = true := by rw [tierWalk_vrf hm]; rfl
  unfold W.tierStep
  rw [hjob]
  dsimp only
  rw [if_neg (by rw [hmay]; simp [h.op]), if_neg (by rw [hadm]; decide), hlines]

/-- A read of one line made. -/
theorem askReads_one (w : W) (port q : Nat) (ht : w.turn (port, q) = none) (ha : w.askedHbm port (128 * q) 128 = false) :
    w.askReads [(port, q)] = w.hbmAsk { src := port, line := q, write := false } := by
  unfold W.askReads
  rw [List.foldl_cons, List.foldl_nil, if_neg (by simp [ht, ha]), W.askHbm, lineAddrs_line (Nat.mul_mod_right 128 q), List.foldl_cons,
    List.foldl_nil, Nat.mul_div_cancel_left _ (by decide), Nat.mul_div_cancel _ (by decide)]

theorem reading_ask (w : W) (port q : Nat) (f : W → W) (ht : w.turn (port, q) = none) (ha : w.askedHbm port (128 * q) 128 = false) :
    w.reading [(port, q)] f = w.hbmAsk { src := port, line := q, write := false } := by
  unfold W.reading
  rw [if_neg (by simp [State.admitted, ht]), askReads_one w port q ht ha]

theorem reading_take (w : W) (r : AgentRead) (f : W → W) {b : Bool} (ht : w.turn r = some b) :
    w.reading [r] f = f (w.takeReads [r]) := by
  unfold W.reading
  rw [if_pos (by simp [State.admitted, ht])]

theorem ofBytes_eq (l : List Byte) : ofBytes 1024 l = BitVec.ofNat 1024 (packNat 8 l >>> 0) := by
  rw [Nat.shiftRight_zero]
  have h : leNat l = packNat 8 l := by
    induction l with
    | nil => rfl
    | cons x l ih => rw [leNat, ih]; rfl
  rw [ofBytes, h]

/-- The bytes of a line that is read. -/
theorem byte_of_readLine (w : W) (a : Nat) (ho : w.out = []) {i : Nat} (hi : i < 128) :
    (ofBytes 1024 (w.bytes a 128)).extractLsb' (8 * i) 8 = Mem.get w.mem (a + i) := by
  rw [ofBytes_eq, extract_packNat (w.bytes a 128) (i := i) (lo := 0) (by omega) (by omega) (by omega)]
  simp [W.bytes, W.byte, ho, hi]

/-- TIER_POP_DATA asks for its line. -/
theorem PopGoes.asks (h : PopGoes s d ctx n j e) (ht : s.turn (agentPort 0 d, s.stackAddr d ctx e j.n / 128) = none)
    (ha : s.askedHbm (agentPort 0 d) (128 * (s.stackAddr d ctx e j.n / 128)) 128 = false) :
    ∃ t, exec (.tierPopData d ctx { n := n }) s = .next t ∧ t.mem = s.mem ∧ t.cores = s.cores ∧
      t.stack d ctx = s.stack d ctx ∧ EngineWaits t d (s.stackAddr d ctx e j.n / 128) false fun _ => True := by
  have hs := h.step_eq.trans (reading_ask (W.of s) _ _ _ ht ha)
  have hr := requestsOnly_hbmAsk (w := W.of s) { src := agentPort 0 d, line := s.stackAddr d ctx e j.n / 128, write := false }
  refine ⟨_, congrArg (go s) hs, W.commit_mem_same _ _ hr.out hr.zeroed, hr.cores, hr.stack d ctx, ?_⟩
  exact ((waits_hbmAsk (W.of s) _).congr fun _ => rfl).engine rfl trivial

/-! #### The line arrives -/

theorem core_setPresent_wakes (w : W) (c ln : Nat) : ∃ l, (w.setPresent c ln).core c = ((w.core c).withPresent ln).wakeLine c ln l := by
  generalize hv : (((w.modCore c fun k => k.withPresent ln).core c).line ln) = v
  refine ⟨v, ?_⟩
  subst hv
  refine (Tab.get_map (fun k => Core.wakeLine k c ln _) (Core.wakeLine_of_items (k := Core.reset) rfl _ _ _) _ c).trans ?_
  exact congrArg (Core.wakeLine · _ _ _) (W.core_modCore_same w c _)

/-- A line that arrives at its claim. -/
theorem landed_core (w : W) (c ln : Nat) (l : Line) : let k' := ((w.setLine c ln l).unclaim c ln).core c
    k'.line ln = l ∧ (∀ i, i ≠ ln → k'.line i = (w.core c).line i) ∧ (Tab.get 0 (w.core c).claims ln ≤ 1 → k'.present ln = true) := by
  have hset : (w.setLine c ln l).core c = (w.core c).setLine ln l := W.core_modCore_same _ _ _
  have hcl : Tab.get 0 ((w.setLine c ln l).core c).claims ln = Tab.get 0 (w.core c).claims ln := by rw [hset]; rfl
  have hline : ∀ i, ((w.core c).setLine ln l).line i = if i = ln then l else (w.core c).line i := fun i => Tab.get_put _ _ _ _ _
  dsimp only
  unfold W.unclaim
  dsimp only
  rw [hcl]
  split
  · obtain ⟨v, hv⟩ := core_setPresent_wakes ((w.setLine c ln l).modCore c fun k =>
      { k with claims := Tab.put 0 k.claims ln (Tab.get 0 (w.core c).claims ln - 1) }) c ln
    rw [W.core_modCore_same, hset] at hv
    rw [hv]
    refine ⟨(hline ln).trans (if_pos rfl), fun i hi => (hline i).trans (if_neg hi), fun _ => ?_⟩
    exact congrArg not (Tab.get_put_same false _ ln false)
  · rw [W.core_modCore_same, hset]
    exact ⟨(hline ln).trans (if_pos rfl), fun i hi => (hline i).trans (if_neg hi), fun h => absurd h ‹_›⟩

theorem landed_rest (w : W) (c ln : Nat) (l : Line) : let w' := (w.setLine c ln l).unclaim c ln
    w'.out = w.out ∧ w'.zeroed = w.zeroed ∧ ∀ d, w'.die d = w.die d := by
  dsimp only
  unfold W.unclaim
  dsimp only
  split
  · exact ⟨rfl, rfl, fun _ => rfl⟩
  · exact ⟨rfl, rfl, fun _ => rfl⟩

/-- A line of a pop is over: what it leaves of the cores' lines, and the entry gone after the last. -/
theorem popNext_effect (w : W) (d ctx : Nat) (j : TierJob) : let w' := w.popNext d ctx j
    (w'.core j.core).vrf = (w.core j.core).vrf ∧ (w'.core j.core).absent = (w.core j.core).absent ∧ w'.out = w.out ∧
      w'.zeroed = w.zeroed ∧ (j.n + 1 = j.len → (w'.stack d ctx).entry j.key = none) := by
  dsimp only
  unfold W.popNext
  split
  · generalize hw : (w.modStack d ctx fun k => (k.dropJob j).dropEntry j.key).settleStack d ctx = w1
    obtain ⟨oo, oz, -⟩ := tierOver_rest w1 j.core j.seq 1 0
    obtain ⟨ev, oc⟩ := core_tierOver w1 j.core j.seq 1 0
    have hcore : w1.core j.core = w.core j.core := by rw [← hw]; rfl
    have hout : w1.out = w.out := by rw [← hw]; rfl
    have hzero : w1.zeroed = w.zeroed := by rw [← hw]; rfl
    refine ⟨by rw [oc, hcore], by rw [oc, hcore], oo.trans hout, oz.trans hzero, fun _ => ?_⟩
    obtain ⟨b, hst⟩ := stack_settleStack (w := w.modStack d ctx fun k => (k.dropJob j).dropEntry j.key) (d := d) (ctx := ctx)
    rw [stack_tierOver, ← hw, hst, stack_modStack]
    exact (Stack.entry_congr rfl rfl).trans (Stack.entry_places_none _ _ _ (Stack.entry_dropEntry _))
  · exact ⟨rfl, rfl, rfl, rfl, fun h => absurd h ‹_›⟩

theorem PopGoes.lands_eq (h : PopGoes s d ctx n j e) (ht : s.turn (agentPort 0 d, s.stackAddr d ctx e j.n / 128) = some true)
    (hp : s.poisoned (s.stackAddr d ctx e j.n) = false) :
    ∃ w, RequestsOnly (W.of s) w ∧ w.mem = s.mem ∧ (W.of s).tierStep d ctx n 0x902 (fun w => w.popData d ctx n none) =
      ((w.setLine j.core (bits j.o 0 15 + j.n) (ofBytes 1024 (w.bytes (s.stackAddr d ctx e j.n) 128))).unclaim j.core
        (bits j.o 0 15 + j.n)).popNext d ctx j := by
  have hr := requestsOnly_takeReads (w := W.of s) [(agentPort 0 d, s.stackAddr d ctx e j.n / 128)]
  have hbad : ((W.of s).takeReads [(agentPort 0 d, s.stackAddr d ctx e j.n / 128)]).bad = [] := by
    have ht' : (W.of s).turn (agentPort 0 d, s.stackAddr d ctx e j.n / 128) = some true := ht
    have hf : ((W.of s).turn (agentPort 0 d, s.stackAddr d ctx e j.n / 128) = some false) = False := by rw [ht']; simp
    simp only [W.takeReads, List.filter_cons, hf, decide_false, List.filter_nil]
    rfl
  have hpois : ((W.of s).takeReads [(agentPort 0 d, s.stackAddr d ctx e j.n / 128)]).poisoned (s.stackAddr d ctx e j.n) = false := by
    rw [State.poisoned, die_takeReads]
    exact hp
  have hmem : ((W.of s).takeReads [(agentPort 0 d, s.stackAddr d ctx e j.n / 128)]).mem = s.mem := rfl
  have hstep := h.step_eq.trans (reading_take (W.of s) _ (fun w => w.popData d ctx n none) ht)
  generalize (W.of s).takeReads [(agentPort 0 d, s.stackAddr d ctx e j.n / 128)] = w at hr hbad hpois hmem hstep
  refine ⟨w, hr, hmem, hstep.trans ?_⟩
  have hst : w.stack d ctx = s.stack d ctx := hr.stack d ctx
  have haddr : w.stackAddr d ctx e j.n = s.stackAddr d ctx e j.n := hr.stackLine d ctx e (j.n + 1)
  have hchk : w.tierCheck d ctx (some (s.stackAddr d ctx e j.n)) j none = (true, false, w) := by
    have hb : w.badLine (s.stackAddr d ctx e j.n) = false := by simp [W.badLine, hpois, hbad]
    unfold W.tierCheck
    dsimp only
    rw [if_neg (by simp [hb])]
    unfold W.readRecord
    dsimp only
    rw [if_neg (by simp [hpois])]
  have hput : ∀ l, w.popPut d ctx j l = .ok ((w.setLine j.core (bits j.o 0 15 + j.n) l).unclaim j.core (bits j.o 0 15 + j.n)) := by
    intro l
    unfold W.popPut
    exact if_neg (by rw [show bitAt j.m 0 = false from h.vrf]; decide)
  unfold W.popData
  dsimp only
  rw [hst, h.job]
  dsimp only
  rw [h.ready]
  dsimp only
  rw [if_neg (by rw [hr.core, W.of_core, h.runs]; simp [h.op]), haddr, hchk]
  dsimp only
  rw [if_neg Bool.false_ne_true, if_neg (by decide), hput]

/-- TIER_POP_DATA copies its line. -/
theorem PopGoes.lands (h : PopGoes s d ctx n j e) (ht : s.turn (agentPort 0 d, s.stackAddr d ctx e j.n / 128) = some true)
    (hp : s.poisoned (s.stackAddr d ctx e j.n) = false) :
    ∃ t, exec (.tierPopData d ctx { n := n }) s = .next t ∧ t.mem = s.mem ∧
      (∀ i, i < 128 → ((t.core j.core).line (bits j.o 0 15 + j.n)).extractLsb' (8 * i) 8 = s.hbm (s.stackAddr d ctx e j.n + i)) ∧
      (∀ i, i ≠ bits j.o 0 15 + j.n → (t.core j.core).line i = (s.core j.core).line i) ∧
      (Tab.get 0 (s.core j.core).claims (bits j.o 0 15 + j.n) ≤ 1 → (t.core j.core).present (bits j.o 0 15 + j.n) = true) ∧
      (j.n + 1 = j.len → (t.stack d ctx).entry j.key = none) := by
  obtain ⟨w, hr, hmem, heq⟩ := h.lands_eq ht hp
  have hbyte := fun i hi => byte_of_readLine w (s.stackAddr d ctx e j.n) hr.out (i := i) hi
  generalize ofBytes 1024 (w.bytes (s.stackAddr d ctx e j.n) 128) = l at heq hbyte
  obtain ⟨hline, hother, hpres⟩ := landed_core w j.core (bits j.o 0 15 + j.n) l
  obtain ⟨ho, hz, -⟩ := landed_rest w j.core (bits j.o 0 15 + j.n) l
  generalize (w.setLine j.core (bits j.o 0 15 + j.n) l).unclaim j.core (bits j.o 0 15 + j.n) = w1 at heq hline hother hpres ho hz
  obtain ⟨hvrf, habs, hout, hzero, hgone⟩ := popNext_effect w1 d ctx j
  have hlines : ∀ i, ((w1.popNext d ctx j).core j.core).line i = (w1.core j.core).line i := fun i => by rw [Core.line, hvrf, Core.line]
  have hcore : w.core j.core = s.core j.core := hr.core _
  refine ⟨_, congrArg (go s) heq, ?_, fun i hi => ?_, fun i hi => ?_, fun hc => ?_, fun hl => ?_⟩
  · exact W.commit_mem_same _ _ (hout.trans (ho.trans hr.out)) (hzero.trans (hz.trans hr.zeroed))
  · rw [core_commit, hlines, hline, hbyte i hi, hmem, State.hbm]
  · rw [core_commit, hlines, hother i hi, hcore]
  · rw [core_commit, Core.present, habs]
    exact hpres (by rw [hcore]; exact hc)
  · rw [stack_commit]
    exact hgone hl
end

end Sys2Proof.Machine
end
section
/-! The lines that the spill engine moves out and back (03 R86). -/

namespace Sys2Proof.Machine

section
variable {s : State} {d ctx n : Nat} {e : StackEntry}

/-- Above HIGH the oldest entry that can move begins to, where the deep tier has room. -/
theorem spill_starts {l : List StackEntry} (hmv : (s.stack d ctx).moving = none) (hm : (s.stack d ctx).movable = e :: l)
    (hh : s.highMark d ctx < (s.stack d ctx).resident) (hsz : e.size ≤ s.deepSize d ctx - (s.stack d ctx).spilled) :
    (W.of s).spillEntry d ctx =
      (W.of s).modStack d ctx fun k => { k with spilling := true, moving := some (e.key, 0, false) } := by
  have hst : (W.of s).stack d ctx = s.stack d ctx := rfl
  have hon : (W.of s).spillOn d ctx = true := by
    unfold W.spillOn
    dsimp only
    rw [hst, show (W.of s).highMark d ctx = s.highMark d ctx from rfl, decide_eq_true hh]
    rfl
  have hfit : decide (e.size ≤ (W.of s).deepSize d ctx - (s.stack d ctx).spilled) = true := decide_eq_true hsz
  unfold W.spillEntry
  dsimp only
  rw [hst, hmv]
  dsimp only
  rw [hm]
  dsimp only
  rw [hon, hfit]
  rfl

/-- A line of the entry that moves out stands in the deep tier. -/
def Stack.lineOut (k : Stack) (key n : Nat) (l : Line) (bad : Bool) : Stack :=
  { k with data := Tab.put 0 k.data (stackKey key n) l, poison := if bad then stackKey key n :: k.poison else k.poison
           moving := some (key, n + 1, false) }

/-- An entry is spilled. -/
def Stack.spilledOut (k : Stack) (key : Nat) : Stack :=
  { k.modEntry key fun e => { e with resident := false, runs := [] } with moving := none }

theorem Stack.entry_spilledOut {k : Stack} {key : Nat} (h : k.entry key = some e) (size : Nat) :
    ((k.spilledOut key).placeAll size).entry key = some { e with resident := false, runs := [] } := by
  have hent : (k.spilledOut key).entry key = some { e with resident := false, runs := [] } :=
    (Stack.entry_congr rfl rfl).trans (k.entry_modEntry_same (fun _ => rfl) h)
  refine (Stack.entry_placeAll _ size fun x hx hkey hres => ?_).trans hent
  have hall : (k.spilledOut key).all = k.all.map (entryUpdate key fun e => { e with resident := false, runs := [] }) :=
    k.all_modEntry key _
  rw [hall] at hx
  obtain ⟨y, -, rfl⟩ := List.mem_map.mp hx
  unfold entryUpdate at hkey hres
  split at hkey
  · rw [if_pos ‹_›] at hres
    exact absurd hres Bool.false_ne_true
  · exact absurd hkey ‹_›

theorem stack_settled (w : W) :
    ∃ size b, (w.settleStack d ctx).stack d ctx = { (w.stack d ctx).placeAll size with spilling := b } :=
  ⟨_, stack_settleStack⟩

/-- SPILL_ENTRY reads a line of the entry that moves out. -/
theorem spillLine_eq (hmv : (s.stack d ctx).moving = some (e.key, n, false)) (hent : (s.stack d ctx).entry e.key = some e)
    (ht : s.turn (agentPort 0 d, s.stackLine d ctx e n / 128) = some true) :
    ∃ w l b, RequestsOnly (W.of s) w ∧ w.mem = s.mem ∧
      (∀ i, i < 128 → BitVec.extractLsb' (8 * i) 8 l = s.hbm (s.stackLine d ctx e n + i)) ∧
      (W.of s).spillEntry d ctx =
        if n < e.len then w.modStack d ctx fun k => k.lineOut e.key n l b
        else ((w.modStack d ctx fun k => k.lineOut e.key n l b).modStack d ctx fun k => k.spilledOut e.key).settleStack d ctx := by
  have hr := requestsOnly_takeReads (w := W.of s) [(agentPort 0 d, s.stackLine d ctx e n / 128)]
  have hmem : ((W.of s).takeReads [(agentPort 0 d, s.stackLine d ctx e n / 128)]).mem = s.mem := rfl
  have hspill : (W.of s).spillEntry d ctx = (W.of s).spillLine d ctx e n := by
    unfold W.spillEntry
    dsimp only
    rw [show (W.of s).stack d ctx = s.stack d ctx from rfl, hmv]
    dsimp only
    rw [hent]
  unfold W.spillLine at hspill
  dsimp only at hspill
  rw [show (W.of s).stackLine d ctx e n = s.stackLine d ctx e n from rfl, reading_take (W.of s) _ _ ht] at hspill
  generalize (W.of s).takeReads [(agentPort 0 d, s.stackLine d ctx e n / 128)] = w at hr hmem hspill
  refine ⟨w, ofBytes 1024 (w.bytes (s.stackLine d ctx e n) 128), w.badLine (s.stackLine d ctx e n), hr, hmem, fun i hi => ?_, hspill⟩
  rw [byte_of_readLine w _ hr.out hi, hmem, State.hbm]

/-- A line taken by the spill engine: what it leaves. -/
theorem spill_takes (hmv : (s.stack d ctx).moving = some (e.key, n, false)) (hent : (s.stack d ctx).entry e.key = some e)
    (ht : s.turn (agentPort 0 d, s.stackLine d ctx e n / 128) = some true) :
    ∃ t, exec (.spillEntry d ctx) s = .next t ∧ t.mem = s.mem ∧ t.cores = s.cores ∧ t.pkg = s.pkg ∧
      (∀ i, i < 128 → (Tab.get 0 (t.stack d ctx).data (stackKey e.key n)).extractLsb' (8 * i) 8 = s.hbm (s.stackLine d ctx e n + i)) ∧
      (n < e.len → (t.stack d ctx).moving = some (e.key, n + 1, false) ∧ (t.stack d ctx).entries = (s.stack d ctx).entries) ∧
      (e.len ≤ n → (t.stack d ctx).moving = none ∧
        (t.stack d ctx).entry e.key = some { e with resident := false, runs := [] }) := by
  obtain ⟨w, l, b, hr, hmem, hbyte, heq⟩ := spillLine_eq hmv hent ht
  have hst : w.stack d ctx = s.stack d ctx := hr.stack d ctx
  have hout : ((s.stack d ctx).lineOut e.key n l b).entry e.key = some e := (Stack.entry_congr rfl rfl).trans hent
  have hdata : Tab.get 0 ((s.stack d ctx).lineOut e.key n l b).data (stackKey e.key n) = l := Tab.get_put_same _ _ _ _
  by_cases hn : n < e.len
  · rw [if_pos hn] at heq
    refine ⟨_, congrArg (go s) heq, W.commit_mem_same _ _ hr.out hr.zeroed, hr.cores, hr.pkg, ?_⟩
    rw [stack_commit, stack_modStack, hst, hdata]
    exact ⟨hbyte, fun _ => ⟨rfl, rfl⟩, fun h => absurd hn (Nat.not_lt.mpr h)⟩
  · rw [if_neg hn] at heq
    refine ⟨_, congrArg (go s) heq, W.commit_mem_same _ _ hr.out hr.zeroed, hr.cores, hr.pkg, ?_⟩
    obtain ⟨size, spilling, hset⟩ := stack_settled (d := d) (ctx := ctx)
      ((w.modStack d ctx fun k => k.lineOut e.key n l b).modStack d ctx fun k => k.spilledOut e.key)
    rw [stack_modStack, stack_modStack, hst] at hset
    rw [stack_commit, hset]
    obtain ⟨es, ls, hpl⟩ := (((s.stack d ctx).lineOut e.key n l b).spilledOut e.key).placeAll_rest size
    have hplaced := congrArg Stack.data hpl
    refine ⟨fun i hi => ?_, fun h => absurd h hn, fun _ => ⟨congrArg Stack.moving hpl, ?_⟩⟩
    · dsimp only at hplaced ⊢
      rw [hplaced, ← hbyte i hi]
      exact congrArg (BitVec.extractLsb' (8 * i) 8) hdata
    · exact (Stack.entry_congr rfl rfl).trans (Stack.entry_spilledOut hout size)

/-! ### An entry comes back -/

/-- The entry that a pop waits for has its lines and begins to come back. -/
theorem return_starts {r : List (Nat × Nat)} (hmv : (s.stack d ctx).moving = none) (hw : (s.stack d ctx).wanted = some e)
    (hfit : (s.stack d ctx).resident + e.size ≤ s.ssize d ctx)
    (hroom : (s.stack d ctx).room (s.ssize d ctx / 128) (e.len + 1) = some r) (hr : r ≠ []) :
    (W.of s).returnEntry d ctx [] = (W.of s).modStack d ctx fun _ =>
      { (s.stack d ctx).modEntry e.key fun e => { e with runs := r } with moving := some (e.key, 0, true) } := by
  have hst : (W.of s).stack d ctx = s.stack d ctx := rfl
  have hplace : (s.stack d ctx).place (s.ssize d ctx / 128) e = (s.stack d ctx).modEntry e.key fun e => { e with runs := r } := by
    rw [Stack.place, hroom]
  have hsome : ∃ x, (s.stack d ctx).entry e.key = some x := by
    refine Option.isSome_iff_exists.mp (List.find?_isSome.mpr ⟨e, ?_, decide_eq_true rfl⟩)
    exact List.mem_append_right _ (List.mem_of_find?_eq_some hw)
  obtain ⟨x, hx⟩ := hsome
  have hent := (s.stack d ctx).entry_modEntry_same (f := fun e => { e with runs := r }) (fun _ => rfl) hx
  have hruns : r.isEmpty = false := by
    cases r with
    | nil => exact absurd rfl hr
    | cons => rfl
  unfold W.returnEntry
  dsimp only
  rw [hst, hmv]
  dsimp only
  rw [hw]
  dsimp only
  rw [show (W.of s).ssize d ctx = s.ssize d ctx from rfl, hplace, hent, decide_eq_true hfit]
  simp [hruns]

/-- A line of an entry that comes back has been written. -/
def Stack.lineBack (k : Stack) (e : StackEntry) (n : Nat) : Stack :=
  let k := { k with data := Tab.erase k.data (stackKey e.key n), poison := k.poison.filter fun x => decide (x ≠ stackKey e.key n)
                    moving := some (e.key, n + 1, true) }
  if n < e.len then k else { k.modEntry e.key fun e => { e with resident := true } with moving := none }

/-- A line written by RETURN_ENTRY: what it leaves. -/
theorem return_writes (hmv : (s.stack d ctx).moving = some (e.key, n, true)) (hent : (s.stack d ctx).entry e.key = some e) :
    ∃ t, exec (.returnEntry d { ctx := ctx }) s = .next t ∧ t.mem = s.mem ∧ t.cores = s.cores ∧ t.pkg = s.pkg ∧
      (EngineWaits t d (s.stackLine d ctx e n / 128) true fun r => ∀ i, i < 128 → (s.stackLine d ctx e n + i,
        (Tab.get 0 (s.stack d ctx).data (stackKey e.key n)).extractLsb' (8 * i) 8) ∈ r.data) ∧
      (n < e.len → (t.stack d ctx).moving = some (e.key, n + 1, true)) ∧
      (e.len ≤ n → (t.stack d ctx).moving = none ∧ (t.stack d ctx).entry e.key = some { e with resident := true }) := by
  have hcells : ∀ l : Line, ((List.range 128).map (s.stackLine d ctx e n + ·)).zip (lineToBytes l) =
      lineCells (s.stackLine d ctx e n) l := fun l => by
    rw [lineCells, List.zip_map_left]
    rfl
  have heq : ∃ bad, (W.of s).returnEntry d ctx [] =
      ((W.of s).hbmAsk { src := agentPort 0 d, line := s.stackLine d ctx e n / 128, write := true, bad := bad
                         data := lineCells (s.stackLine d ctx e n) (Tab.get 0 (s.stack d ctx).data (stackKey e.key n)) }).modStack
        d ctx fun k => k.lineBack e n := by
    refine ⟨false || (s.stack d ctx).poison.contains (stackKey e.key n), ?_⟩
    unfold W.returnEntry
    dsimp only
    rw [show (W.of s).stack d ctx = s.stack d ctx from rfl, hmv]
    dsimp only
    rw [hent]
    dsimp only
    rw [← hcells]
    rfl
  obtain ⟨bad, heq⟩ := heq
  generalize hq : ({ src := agentPort 0 d, line := s.stackLine d ctx e n / 128, write := true, bad := bad
                     data := lineCells (s.stackLine d ctx e n) (Tab.get 0 (s.stack d ctx).data (stackKey e.key n)) } : HbmReq) = q at heq
  have hr := requestsOnly_hbmAsk (w := W.of s) q
  refine ⟨_, congrArg (go s) heq, W.commit_mem_same _ _ hr.out hr.zeroed, hr.cores, hr.pkg, ?_, ?_⟩
  · have hw := (waits_hbmAsk (W.of s) q).congr (t := (((W.of s).hbmAsk q).modStack d ctx fun k => k.lineBack e n).commit s)
      fun o => by rw [die_commit, mc_modStack]
    subst hq
    exact hw.engine rfl fun i hi => mem_lineCells _ _ hi
  · rw [stack_commit, stack_modStack, hr.stack, show (W.of s).stack d ctx = s.stack d ctx from rfl]
    unfold Stack.lineBack
    refine ⟨fun h => ?_, fun h => ?_⟩
    · rw [if_pos h]
    · rw [if_neg (Nat.not_lt.mpr h)]
      refine ⟨rfl, (Stack.entry_congr rfl rfl).trans (Stack.entry_modEntry_same _ ?_ hent)⟩
      exact fun _ => rfl
end

end Sys2Proof.Machine
end
section
/-! Tensor-stack and lease commands: triggers, acceptance, lines moved (03 R83..R88). -/

namespace Sys2Proof.Machine

section
variable {s : State} {c : Nat} {x : TierCmd}

/-- Only a pop waits for an entry. -/
theorem popWaits_of_op_ne (h : x.op ≠ 0x902) : s.popWaits c x = false := by simp [State.popWaits, h]

section
variable (hx : (s.core c).tier.find? (fun y => !y.accepted) = some x) (hh : (s.core c).chanHalt = false)
  (hp : (s.core c).pipe.pre = 0)
include hx hh hp

/-- A command that is no pop is accepted at once. -/
theorem accepts_of_op {op : Nat} (hop : x.op = op) (hne : op ≠ 0x902) : Accepts s c x :=
  ⟨hx, hh, hp, popWaits_of_op_ne (hop ▸ hne)⟩
end
end

section
variable {s t : State} {d ctx n : Nat} {j : TierJob} {e : StackEntry}

/-- The jobs of a stack whose push `j` is one line further. -/
theorem Stack.jobs_pushOn (k : Stack) (j : TierJob) : (k.pushOn j).jobs = k.jobs.map fun x =>
    if x.core = j.core ∧ x.seq = j.seq then { x with n := j.n + 1, crc := false } else x := rfl

/-- Requests by the line's address. -/
theorem EngineWaits.at_line {a : Nat} {write : Bool} {p : HbmReq → Prop} (h : EngineWaits t d (a / 128) write p) :
    ∃ r ∈ Tab.get [] (t.die (stackOf (a / 128 * 128))).mc.waiting (pcOf (a / 128 * 128)),
      r.src = agentPort 0 d ∧ r.line = a / 128 ∧ r.write = write ∧ p r := by
  rw [Nat.mul_comm (a / 128)]
  exact h

theorem EngineWaits.at_aligned {a : Nat} {write : Bool} {p : HbmReq → Prop} (h : EngineWaits t d (a / 128) write p) (ha : a % 128 = 0) :
    ∃ r ∈ Tab.get [] (t.die (stackOf a)).mc.waiting (pcOf a), r.src = agentPort 0 d ∧ r.line = a / 128 ∧ r.write = write ∧ p r := by
  have h' := h.at_line
  rw [Nat.div_mul_cancel (Nat.dvd_of_mod_eq_zero ha)] at h'
  exact h'

/-- TIER_PUSH_DATA writes a line of its entry. -/
theorem PushGoes.pushes (h : PushGoes s d ctx n j e) :
    ∃ t, exec (.tierPushData d ctx { n := n }) s = .next t ∧ t.mem = s.mem ∧
      (EngineWaits t d (s.stackAddr d ctx e j.n / 128) true fun r => ∀ i, i < 128 → (s.stackAddr d ctx e j.n + i,
        ((s.core j.core).line (bits j.o 0 15 + j.n)).extractLsb' (8 * i) 8) ∈ r.data) ∧
      (t.stack d ctx).entry j.key = some { e with wrote := j.n + 1 } ∧
      (j.n + 1 ≠ j.len → t.cores = s.cores ∧ (t.stack d ctx).jobs = (s.stack d ctx).jobs.map fun x =>
        if x.core = j.core ∧ x.seq = j.seq then { x with n := j.n + 1, crc := false } else x) ∧
      (j.n + 1 = j.len → (t.core j.core).tier = (s.core j.core).tier.filter fun z => decide (z.seq ≠ j.seq)) := by
  by_cases hl : j.n + 1 = j.len
  · obtain ⟨t, hex, hmem, htier, hmc, hst⟩ := h.last hl
    refine ⟨t, hex, hmem, pushStored_waits hmc, ?_, fun hne => absurd hl hne, fun _ => htier⟩
    rw [hst]
    exact (Stack.entry_congr rfl rfl).trans h.entry_pushOn
  · obtain ⟨t, hex, hmem, hcores, hmc, hst⟩ := h.more hl
    refine ⟨t, hex, hmem, pushStored_waits hmc, ?_, fun _ => ⟨hcores, ?_⟩, fun hlen => absurd hlen hl⟩
    · rw [hst]
      exact h.entry_pushOn
    · rw [hst, Stack.jobs_pushOn]
end

/-- Settles O44: the first half by the triggers of each command; then the engine's checks, and its lines. -/
theorem tierCommands : Obligations.TierCommands := by
  unfold Obligations.TierCommands
  refine ⟨⟨fun p hp => ?_, lease_triggers, unlease_triggers, lstat_triggers isTrigger_lstatSlot (by decide) fun v hv => ⟨hv, fun h => absurd h (by decide)⟩,
    lstat_triggers isTrigger_lstatDeadline (by decide) fun v hv => ⟨hv, fun h => absurd h (by decide)⟩,
    lstat_triggers isTrigger_lstatStack (by decide) fun v hv => ⟨by rw [hv]; decide, fun _ => hv⟩,
    pusht_traps_without_grant, lstat_traps⟩, ?_⟩
  · rcases List.mem_cons.mp hp with rfl | hp
    · exact ⟨stackOp_triggers isTrigger_pusht (by decide), stackOp_traps isTrigger_pusht (by decide)⟩
    · obtain rfl := List.mem_singleton.mp hp
      exact ⟨stackOp_triggers isTrigger_popt (by decide), stackOp_traps isTrigger_popt (by decide)⟩
  · intro s c k d ctx st
    refine ⟨fun x hx hh hp _ => ?_, fun n j hj hh => ?_, ⟨fun e l hmv hm hhi hsz => ?_, fun e n hmv hent ht _ => spill_takes hmv hent ht⟩,
      ⟨fun e r hmv hw hfit hroom hr => ?_, fun e n hmv hent => ?_⟩⟩
    · intro len need status same
      have hacc {op : Nat} (hop : x.op = op) (hne : op ≠ 0x902) : Accepts s c x := accepts_of_op hx hh hp hop hne
      refine ⟨fun hop => (hacc hop (by decide)).lstat hop, fun hop => (hacc hop (by decide)).push_noSegment hop,
        fun hop => (hacc hop (by decide)).push_tooLong hop, fun hop => (hacc hop (by decide)).push_ok hop, fun hop hpw hs => ?_,
        fun hop => ⟨(hacc hop (by decide)).lease_full hop, fun i hi h0 hlow => ?_⟩,
        fun hop => ⟨(hacc hop (by decide)).unlease_over hop, (hacc hop (by decide)).unlease_active hop,
          (hacc hop (by decide)).unlease_none hop⟩⟩
      · have hpop : Accepts s c x := ⟨hx, hh, hp, hpw⟩
        exact ⟨hpop.pop_noEntry hop hs, fun e l he => ⟨hpop.pop_otherTag hop hs he, hpop.pop_otherLength hop hs he, hpop.pop_ok hop hs he⟩⟩
      · exact ⟨(hacc hop (by decide)).lease_badLender hop ⟨hi, h0, hlow⟩, (hacc hop (by decide)).lease_ok hop ⟨hi, h0, hlow⟩⟩
    · intro y ln on req
      refine ⟨fun e hop hm hpres hsoft hent hruns hal => ?_, fun e hop hm hready => ⟨fun ht ha => ?_, fun ht hpo => ?_⟩⟩
      · have hgo : PushGoes s d ctx n j e := ⟨hj, hh, hop, hm, hpres, hsoft, hent, hruns, hal⟩
        obtain ⟨t, hex, hmem, hreq, hrest⟩ := hgo.pushes
        exact ⟨t, hex, hmem, hreq.at_aligned hgo.addr_aligned, hrest⟩
      · obtain ⟨t, hex, hmem, hcores, hst, hreq⟩ := (PopGoes.mk hj hh hop hm hready).asks ht ha
        refine ⟨t, hex, hmem, hcores, hst, EngineWaits.at_aligned ?_ (Nat.mul_mod_left _ _)⟩
        rw [Nat.mul_div_cancel _ (by decide)]
        exact hreq
      · exact (PopGoes.mk hj hh hop hm hready).lands ht hpo
    · refine ⟨_, congrArg (go s) (spill_starts hmv hm hhi hsz), rfl, rfl, rfl, ?_⟩
      beta_reduce
      rw [stack_commit, stack_modStack]
      rfl
    · refine ⟨_, congrArg (go s) (return_starts hmv hw hfit hroom hr), rfl, rfl, rfl, ?_⟩
      beta_reduce
      rw [stack_commit, stack_modStack]
      exact ⟨rfl, rfl, rfl⟩
    · intro a
      obtain ⟨t, hex, hmem, hcores, hpkg, hreq, hrest⟩ := return_writes hmv hent
      exact ⟨t, hex, hmem, hcores, hpkg, hreq.at_line, hrest⟩
end Sys2Proof.Machine
end

section
/-!
QNT, QSCALE and DQNT: the checks of the current legend, the item that each leaves, and its replay entry
(02 R66; 05 R121; 07 R177..R179; 13 R300; 19 R369).
-/

namespace Sys2Proof.Machine

/-! ### The three triggers -/

theorem isTrigger_qnt : IsTrigger 0x1de 0x1de .qnt Slot.m trigQnt := ⟨rfl, fun _ => rfl, fun _ _ => rfl, by decide⟩
theorem isTrigger_qscale : IsTrigger 0x1e0 0x1e0 .qscale Slot.m trigQnt := ⟨rfl, fun _ => rfl, fun _ _ => rfl, by decide⟩
theorem isTrigger_dqnt : IsTrigger 0x1df 0x1df .dqnt Slot.m trigDqnt := ⟨rfl, fun _ => rfl, fun _ _ => rfl, by decide⟩

/-- Outside the ctl and tier blocks a trigger takes every modifier and needs no right (01 R18, R34). -/
theorem allowed_outside {s : State} {id : Nat} {m : BitVec 4} (hc : id / 64 ≠ 0xc) (ht : needsTier id = false) : Allowed s id m := by
  refine ⟨by simp [ctlModifier, hc], fun hp => ?_, fun h => absurd (ht.symm.trans h) Bool.false_ne_true⟩
  simp only [needsPriv, Bool.or_eq_true, decide_eq_true_eq] at hp
  omega

/-- So does one of the vector or the function unit. -/
theorem allowed_line {s : State} {id : Nat} {m : BitVec 4} (h : lineTrig id = true) : Allowed s id m := by
  simp only [lineTrig, Bool.and_eq_true, decide_eq_true_eq] at h
  refine allowed_outside (by omega) ?_
  simp only [needsTier, Bool.and_eq_false_iff, decide_eq_false_iff_not]
  omega

/-- A trigger of the vector or the function unit takes the whole line. -/
theorem trigCtx_val {s : State} {id : Nat} {m : BitVec 4} {v : Line} (h : lineTrig id = true) : (trigCtx s id m v).val = v :=
  if_pos h

/-! ### The current legend (02 R66; 05 R121) -/

section
variable (s : State) (id : Nat) (m : BitVec 4) (v : Line)

@[simp] theorem trigCtx_legend : (trigCtx s id m v).legend = s.legend (dieOf s.focus) (bits s.now.ctl.fmt 0 12) := rfl
@[simp] theorem trigCtx_badLegend : (trigCtx s id m v).badLegend =
    if s.legendInRange (dieOf s.focus) (s.env s.focus).ctx (bits s.now.ctl.fmt 0 12) then none
    else some (bits s.now.ctl.fmt 0 12) := rfl
end

/-- A trigger that judges the current legend before all else: its id, then its record (log 34). -/
structure JudgesLegend (tf : TrigFn) : Prop where
  outside : ∀ {t : TCtx} {n : Nat} (w : W), t.badLegend = some n → tf t w = t.window n
  unusable : ∀ {t : TCtx} (w : W), t.badLegend = none → t.legend.usable = false → tf t w = t.engine

theorem judgesLegend_trigQnt : JudgesLegend trigQnt :=
  ⟨fun w h => by simp [trigQnt, h], fun w h hu => by simp [trigQnt, h, hu]⟩
theorem judgesLegend_trigDqnt : JudgesLegend trigDqnt :=
  ⟨fun w h => by simp [trigDqnt, h], fun w h hu => by simp [trigDqnt, h, hu]⟩

section
variable {id : Nat} {d : BitVec 12} {i : Slot → Instr} {tf : TrigFn}

/-- Its fault at a legend id that the context may not name. -/
theorem IsTrigger.trapsIf_outside (h : IsTrigger id d i Slot.m tf) (hl : lineTrig id = true) (hj : JudgesLegend tf) :
    TrapsIf id i
      (fun s _ _ => ¬ s.legendInRange (dieOf s.focus) (s.env s.focus).ctx (bits s.now.ctl.fmt 0 12) = true)
      (fun s _ _ => windowFault 1 (bits s.now.ctl.fmt 0 12) id) :=
  h.trapsIf (fun _ _ _ _ => allowed_line hl) fun _ _ _ _ hout => hj.outside _ (if_neg hout)

/-- Its fault at a legend that is not usable. -/
theorem IsTrigger.trapsIf_unusable (h : IsTrigger id d i Slot.m tf) (hl : lineTrig id = true) (hj : JudgesLegend tf) :
    TrapsIf id i
      (fun s _ _ => s.legendInRange (dieOf s.focus) (s.env s.focus).ctx (bits s.now.ctl.fmt 0 12) = true ∧
        (s.legend (dieOf s.focus) (bits s.now.ctl.fmt 0 12)).usable = false)
      (fun _ _ _ => engineFault 1 id) :=
  h.trapsIf (fun _ _ _ _ => allowed_line hl) fun _ _ _ _ ⟨hmine, hu⟩ => hj.unusable _ (if_pos hmine) hu
end

/-! ### The scale in a, and the code bytes that a modifier names (R177, R179) -/

theorem sbits_low_eq_toInt {n : Nat} (w : BitVec n) (len : Nat) : sbits w 0 len = (w.truncate len).toInt := by
  simp [sbits, bits, BitVec.toInt]

/-- The first of the code bytes that modifier `m` names, and their number. -/
def codeFirst (m : BitVec 4) : Nat := if m.getLsbD 0 then 32 * (m.toNat / 2 % 4) else if m.getLsbD 1 then 64 else 0
def codeCount (m : BitVec 4) : Nat := if m.getLsbD 0 then 32 else 64

theorem codeRange_eq (m : BitVec 4) : codeRange m = (codeFirst m, codeCount m) := by
  revert m
  decide

/-! ### Encoding (R177) -/

/-- The item of QNT or QSCALE under legend `l`, with scale `es`; `ins` are the inputs captured beside b and c. -/
def encodeItem (s : State) (id : Nat) (m : BitVec 4) (b : Line) (l : Legend) (es : Int × Bool) (ins : List Line) : Item :=
  let c := s.now.regs.port 0x1c1
  let enc := (numLanes (m.getLsbD 0) b).map fun x => l.encode x es.1
  let clamped := (enc.filter fun x => x.2).length
  { trigItem s id m 6 0 0
      [(0x1c0, packBytes ((List.range 128).map fun j =>
          if codeFirst m ≤ j ∧ j < codeFirst m + codeCount m then (enc.map (·.1)).getD (j - codeFirst m) 0 else lineByte c j)),
       (0x1c1, lineOf (word ((es.1 % 256).toNat + clamped * 256 + (if es.2 then 1 else 0) * 65536)))] with
    lines := ins ++ [b, c, legendLine l es.1], fx := .clamp (dieOf s.focus) l.svid clamped }

/-- The scale that QNT takes from the legend, and QSCALE from a. -/
def encodeScale (s : State) (id : Nat) (l : Legend) : Int × Bool :=
  if id = 0x1de then s.scaleOf (dieOf s.focus) l else (((s.now.regs.port 0x1c0).truncate 8).toInt, false)

/-- Under a usable legend whose survey is the task's own, QNT and QSCALE leave their item. -/
theorem trigQnt_ok {s : State} {id : Nat} {m : BitVec 4} {src : Src} {v : Line} (hid : lineTrig id = true)
    (hmine : s.legendInRange (dieOf s.focus) (s.env s.focus).ctx (bits s.now.ctl.fmt 0 12) = true)
    (hu : (s.legend (dieOf s.focus) (bits s.now.ctl.fmt 0 12)).usable = true)
    (hsv : (s.env s.focus).svOk (s.legend (dieOf s.focus) (bits s.now.ctl.fmt 0 12)).svid = true)
    {es : Int × Bool} (hes : encodeScale s id (s.legend (dieOf s.focus) (bits s.now.ctl.fmt 0 12)) = es)
    {ins : List Line} (hins : vecLines id (s.now.regs.port 0x1c0) v (s.now.regs.port 0x1c1) = ins ++ [v, s.now.regs.port 0x1c1]) :
    trigQnt (trigCtx s id m v) (trigStart s src) = .ok ((trigStart s src).modCore s.focus fun k =>
      k.withItem (encodeItem s id m v (s.legend (dieOf s.focus) (bits s.now.ctl.fmt 0 12)) es ins)) := by
  subst hes
  simp only [trigQnt, trigCtx_badLegend, hmine, if_true, trigCtx_legend, hu, Bool.not_true, Bool.false_eq_true, if_false,
    trigCtx_env, hsv, trigCtx_val hid, trigCtx_c, trigCtx_id, trigCtx_m, trigStart_core, Core.fired_regs, sbits_low_eq_toInt,
    codeRange_eq, hins, List.append_assoc, List.cons_append, List.nil_append]
  rfl

/-! ### Decoding (R179) -/

/-- Under a usable legend DQNT leaves the decoded lanes. -/
theorem trigDqnt_ok {s : State} {m : BitVec 4} {src : Src} {v : Line}
    (hmine : s.legendInRange (dieOf s.focus) (s.env s.focus).ctx (bits s.now.ctl.fmt 0 12) = true)
    (hu : (s.legend (dieOf s.focus) (bits s.now.ctl.fmt 0 12)).usable = true) :
    let l := s.legend (dieOf s.focus) (bits s.now.ctl.fmt 0 12)
    let es := ((s.now.regs.port 0x1c0).truncate 8).toInt
    trigDqnt (trigCtx s 0x1df m v) (trigStart s src) = .ok ((trigStart s src).modCore s.focus fun k =>
      k.withItem { trigItem s 0x1df m 6 0 0
          [(0x1c0, packNums (m.getLsbD 0)
            ((List.range (codeCount m)).map fun j => l.wide (lineByte v (codeFirst m + j)) es))] with
        lines := [s.now.regs.port 0x1c0, v, legendLine l es] }) := by
  have hid : lineTrig 0x1df = true := by decide
  simp only [trigDqnt, trigCtx_badLegend, hmine, if_true, trigCtx_legend, hu, Bool.not_true, Bool.false_eq_true, if_false,
    trigCtx_val hid, trigCtx_c, trigCtx_m, trigStart_core, Core.fired_regs, sbits_low_eq_toInt, codeRange_eq]
  rfl

/-! ### The replay entry (13 R298, R300; 19 R369) -/

/-- The first word of an entry: kind, id, modifier, first data line, number of data lines, REM. -/
theorem Replay.entry_word_zero (x : Replay) (data : Nat) : (x.entry data).extractLsb' 0 64 =
    BitVec.ofNat 64 (x.kind + x.id % 4096 * 2 ^ 4 + x.m.toNat * 2 ^ 16 + data % 32 * 2 ^ 24 + x.lines.length % 8 * 2 ^ 29 +
      x.rem % 2 ^ 32 * 2 ^ 32) := by
  have hsum (low el a b : Nat) : low + el * 2 ^ 64 + a * 2 ^ 128 + b * 2 ^ 192 =
      low + 2 ^ 64 * (el + a * 2 ^ 64 + b * 2 ^ 128) := by ring
  apply BitVec.eq_of_toNat_eq
  rw [Replay.entry, BitVec.extractLsb'_toNat, BitVec.toNat_ofNat, BitVec.toNat_ofNat, Nat.shiftRight_zero,
    Nat.mod_mod_of_dvd _ (pow_dvd_pow 2 (by decide)), hsum, Nat.add_mul_mod_self_left]

theorem Item.replay_dig {it : Item} (h : it.kind = .dig) (run : Nat) : it.replay run =
    { seq := it.seq, kind := 1, id := it.id, m := it.m, rem := Nat.max 1 (it.due - run), a := it.a, b := it.b
      lines := it.lines, behind := .item { it with due := it.due - run } } := by
  simp only [Item.replay, h]

/-- The entry of a QNT five run cycles before its end, two data lines before it (19 R369). -/
theorem Item.replay_qnt_word_zero {it : Item} {run : Nat} (hk : it.kind = .dig) (hid : it.id = 0x1de) (hm : it.m = 0)
    (hlen : it.lines.length = 3) (hdue : it.due = run + 5) :
    ((it.replay run).entry 2).extractLsb' 0 64 = 0x0000000562001DE1 := by
  have hrem : Nat.max 1 (it.due - run) = 5 := by rw [hdue, Nat.add_sub_cancel_left]; rfl
  simp only [Item.replay_dig hk, Replay.entry_word_zero, hid, hm, hlen, hrem]
  decide

/-- Settles O24: each trigger's answer under a usable legend, the two faults of all three, and the entry's first word. -/
theorem quantize : Obligations.Quantize := by
  refine ⟨?_, ?_, ?_, fun p hp => ?_, fun it run hk hi hm hlen hdue => ?_⟩
  · exact isTrigger_qnt.triggersIf (fun _ _ _ _ => allowed_line (by decide)) fun _ _ _ _ ⟨⟨hmine, hu⟩, hsv⟩ =>
      trigQnt_ok (by decide) hmine hu hsv rfl rfl
  · exact isTrigger_qscale.triggersIf (fun _ _ _ _ => allowed_line (by decide)) fun _ _ _ _ ⟨⟨hmine, hu⟩, hsv⟩ =>
      trigQnt_ok (by decide) hmine hu hsv rfl rfl
  · exact isTrigger_dqnt.triggersIf (fun _ _ _ _ => allowed_line (by decide)) fun _ _ _ _ ⟨hmine, hu⟩ =>
      trigDqnt_ok hmine hu
  · simp only [List.mem_cons, List.not_mem_nil, or_false] at hp
    obtain rfl | rfl | rfl := hp
    · exact ⟨isTrigger_qnt.trapsIf_outside (by decide) judgesLegend_trigQnt,
        isTrigger_qnt.trapsIf_unusable (by decide) judgesLegend_trigQnt⟩
    · exact ⟨isTrigger_qscale.trapsIf_outside (by decide) judgesLegend_trigQnt,
        isTrigger_qscale.trapsIf_unusable (by decide) judgesLegend_trigQnt⟩
    · exact ⟨isTrigger_dqnt.trapsIf_outside (by decide) judgesLegend_trigDqnt,
        isTrigger_dqnt.trapsIf_unusable (by decide) judgesLegend_trigDqnt⟩
  · exact Item.replay_qnt_word_zero hk hi hm hlen hdue

end Sys2Proof.Machine
end

section
/-!
The matrix unit: when a start begins at its bundle, what the trigger's reserved bits raise, and what one step adds to a word
of the understudy (02 R69; 08 R184..R190; 15 R337).
-/

namespace Sys2Proof.Machine

/-! ### The four triggers -/

theorem isTrigger_mma : IsTrigger 0x810 0x810 .mma Slot.m trigMma := ⟨rfl, fun _ => rfl, fun _ _ => rfl, by decide⟩
theorem isTrigger_mmaz : IsTrigger 0x811 0x811 .mmaz Slot.m trigMma := ⟨rfl, fun _ => rfl, fun _ _ => rfl, by decide⟩
theorem isTrigger_mmat : IsTrigger 0x812 0x812 .mmat Slot.m trigMma := ⟨rfl, fun _ => rfl, fun _ _ => rfl, by decide⟩
theorem isTrigger_mmatz : IsTrigger 0x813 0x813 .mmatz Slot.m trigMma := ⟨rfl, fun _ => rfl, fun _ _ => rfl, by decide⟩

/-- The four as one family. -/
theorem isTrigger_of_mem {p : Nat × (Slot → Instr)}
    (hp : p ∈ [(0x810, Instr.mma), (0x811, .mmaz), (0x812, .mmat), (0x813, .mmatz)]) :
    isMma p.1 = true ∧ ∃ d, IsTrigger p.1 d p.2 Slot.m trigMma := by
  simp only [List.mem_cons, List.not_mem_nil, or_false] at hp
  obtain rfl | rfl | rfl | rfl := hp
  · exact ⟨by decide, _, isTrigger_mma⟩
  · exact ⟨by decide, _, isTrigger_mmaz⟩
  · exact ⟨by decide, _, isTrigger_mmat⟩
  · exact ⟨by decide, _, isTrigger_mmatz⟩

theorem isMma_iff {id : Nat} : isMma id = true ↔ 0x810 ≤ id ∧ id ≤ 0x813 := by simp [isMma]

/-- A trigger of the matrix unit takes a word, every modifier, and needs no right. -/
theorem lineTrig_mma {id : Nat} (h : isMma id = true) : lineTrig id = false := by
  rw [isMma_iff] at h
  simp only [lineTrig, Bool.and_eq_false_iff, decide_eq_false_iff_not]
  omega

theorem allowed_mma {s : State} {id : Nat} {m : BitVec 4} (h : isMma id = true) : Allowed s id m := by
  rw [isMma_iff] at h
  refine allowed_outside (by omega) ?_
  simp only [needsTier, Bool.and_eq_false_iff, decide_eq_false_iff_not]
  omega

/-! ### The core on which a trigger acts -/

section
variable (k : Core) (src : Src)
theorem Core.took_acc : (k.took src).eng.acc = k.eng.acc := by cases src <;> rfl
theorem Core.took_res : (k.took src).ctl.res = k.ctl.res := by cases src <;> rfl
theorem Core.took_ats : (k.took src).ats = k.ats := by cases src <;> rfl
theorem Core.took_cbuf : (k.took src).cbuf = k.cbuf := by cases src <;> rfl
theorem Core.took_ctx : (k.took src).ctx = k.ctx := by cases src <;> rfl
@[simp] theorem Core.fired_acc : (k.fired src).eng.acc = k.eng.acc := k.took_acc src
@[simp] theorem Core.fired_ats : (k.fired src).ats = k.ats := k.took_ats src
@[simp] theorem Core.fired_cbuf : (k.fired src).cbuf = k.cbuf := k.took_cbuf src
@[simp] theorem Core.fired_ctx : (k.fired src).ctx = k.ctx := k.took_ctx src
@[simp] theorem Core.fired_res : (k.fired src).ctl.res = k.ctl.res := by
  simp [Core.fired, Core.nextBundle, Core.setPc, Core.took_res]
end

theorem mxPorts_fired (k : Core) (src : Src) : (k.fired src).mxPorts = k.mxPorts := by
  simp only [Core.mxPorts, Core.fired_regs]

theorem accMeets_fired (k : Core) (src : Src) (tile u n : Nat) : (k.fired src).accMeets tile u n = k.accMeets tile u n := by
  simp only [Core.accMeets, Core.fired_acc]

theorem ownOpen_trigStart (s : State) (src : Src) : (trigStart s src).ownOpen s.focus = s.ownOpen s.focus := by
  simp only [State.ownOpen, State.tasksOpen, trigStart_core, Core.fired_ats, Core.fired_cbuf, Core.fired_ctx]

theorem atSpan_trigStart (s : State) (src : Src) (a : AtOp) : (trigStart s src).atSpan a = s.atSpan a := rfl

/-! ### No earlier operation of the task on the tile (11 R260) -/

section
variable {s : State} {c x : Nat}

theorem ownTile_of_quiet (h : s.TileQuiet c x) (before : Nat) : s.ownTile c x before = false := by
  refine List.any_eq_false.mpr fun a ha => ?_
  have hov : overlap (s.atSpan a) (some (tileSpan c x)) = false := h a ha
  simp [hov]

/-- Nothing is performed before an access to a quiet tile. -/
theorem catchUp_of_quiet {w : W} (h : w.TileQuiet c x) (before : Nat) : w.catchUp c x before = w :=
  if_neg (Bool.eq_false_iff.mp (ownTile_of_quiet h before))

theorem tileQuiet_trigStart (h : s.TileQuiet s.focus x) (src : Src) : (trigStart s src).TileQuiet s.focus x := by
  intro a ha
  rw [ownOpen_trigStart] at ha
  rw [atSpan_trigStart]
  exact h a ha

theorem tileCore_of_quiet {t : TCtx} (h : t.pre.TileQuiet t.c x) : t.tileCore x = t.k := by
  rw [TCtx.tileCore, TCtx.caught, catchUp_of_quiet (w := W.of t.pre) h]
  rfl
end

/-! ### A start at its bundle (15 R337) -/

/-- A core that draws weight `x` out of its reservation. -/
def Core.drawing (k : Core) (x : Nat) : Core := k.modCtl fun r => { r with res := r.res - x }

/-- A start that the core's reservation covers. -/
theorem askStart_reserved {w : W} {c x : Nat} (eng : Nat) (h : x ≤ (w.core c).ctl.res) :
    w.askStart c eng x = some (w.modCore c fun k => k.drawing x) := if_pos h

theorem mxFaults_of_free {k : Core} (hmx : k.eng.mx = none) (hwait : k.eng.mxWait = none) (u : Nat) : k.mxFaults u = false := by
  simp [Core.mxFaults, occupied, hmx, hwait]

/-- A free unit and a reservation that covers the weight: the operation begins at its bundle. -/
theorem startMx_reserved {t : TCtx} {w : W} {o : EngineOp} {x : Nat} {begin_ : EngineOp → W → Res}
    (hmx : t.k.eng.mx = none) (hwait : t.k.eng.mxWait = none) (hu : o.u = t.run) (hres : x ≤ (w.core t.c).ctl.res) :
    startMx t w o x false begin_ = begin_ o (w.modCore t.c fun k => k.drawing x) := by
  have hfree : t.k.mxFaults o.u = false := mxFaults_of_free hmx hwait _
  simp only [startMx, hfree, Bool.false_eq_true, if_false, if_pos hu, askStart_reserved 0 hres]

/-! ### What a start asks of the state, and the operation that starts (08 R184..R190) -/

/-- The operation that the eight ports of the issuing core ask for. -/
def mmaAsked (s : State) (id : Nat) : EngineOp :=
  { id := id, ports := s.now.mxPorts, seq := 0, u := s.now.pipe.run, dc := 0, dt := 0 }

/-- The legends that it captures (R189). -/
def mmaLegends (s : State) (o : EngineOp) : List (BitVec 128) :=
  if o.nar then o.legIds.map fun i => s.legend (dieOf s.focus) i else []

/-- The operation as the trigger of bundle `s.now.pcAddr` makes it. -/
def mmaStarted (s : State) (id : Nat) : EngineOp :=
  let o := mmaAsked s id
  let n := 128 * o.steps + 16
  { o with
    seq := s.now.pipe.seq, dc := n, dt := n, due := some s.now.pipe.run, legs := mmaLegends s o
    bpc := word s.now.pcAddr, stepped := s.now.stepArm }

/-- Core `k` with the operation begun and its step 0 read. -/
def mmaBegun (s : State) (id : Nat) (k : Core) : Core :=
  (k.drawing ((s.die (dieOf s.focus)).wmx (clusterOf s.focus))).modEng fun e =>
    { e with mx := some (((mmaStarted s id).begin_ s.now).stepped' s.now) }

/-- Operation `o` may start at its bundle. -/
structure MmaMay (s : State) (o : EngineOp) : Prop where
  fields : o.mxFieldsOk s.focus = true
  legends : o.nar = true → ∀ i ∈ o.legIds, s.legendInRange (dieOf s.focus) (s.env s.focus).ctx i = true ∧
    Legend.usable (s.legend (dieOf s.focus) i) = true
  survey : ∀ n, o.noteSv = some n → (s.env s.focus).svOk n = true
  unit : s.now.eng.mx = none ∧ s.now.eng.mxWait = none
  tile : s.now.accMeets o.mxTile s.now.pipe.run (128 * o.steps + 16) = false
  allotted : o.badLine s s.focus (s.env s.focus).ctx = none
  lines : s.engineLines s.focus (o.stepLines 0) = none
  quiet : s.TileQuiet s.focus o.mxTile
  whole : o.softC s.now = none
  reserved : (s.die (dieOf s.focus)).wmx (clusterOf s.focus) ≤ s.now.ctl.res

section
variable {s : State} {o : EngineOp}

/-- Whether an operation may start depends on its trigger and its ports alone. -/
theorem MmaMay.congr {o' : EngineOp} (h : MmaMay s o) (hid : o'.id = o.id) (hports : o'.ports = o.ports) : MmaMay s o' := by
  cases o
  cases o'
  dsimp only at hid hports
  subst hid hports
  exact ⟨h.fields, h.legends, h.survey, h.unit, h.tile, h.allotted, h.lines, h.quiet, h.whole, h.reserved⟩

theorem MmaMay.legends_inRange (h : MmaMay s o) :
    ((if o.nar then o.legIds else []).find? fun i => !(s.legendInRange (dieOf s.focus) (s.env s.focus).ctx i)) = none := by
  split
  next hnar => simpa using fun i hi => (h.legends hnar i hi).1
  next => rfl

theorem MmaMay.legends_usable (h : MmaMay s o) : ((mmaLegends s o).any fun l => !(Legend.usable l)) = false := by
  rw [mmaLegends]
  split
  next hnar => simpa using fun i hi => (h.legends hnar i hi).2
  next => rfl

theorem MmaMay.survey_ok (h : MmaMay s o) : (o.noteSv.filter fun n => !((s.env s.focus).svOk n)) = none := by
  rw [Option.filter_eq_none_iff]
  intro n hn
  simp [h.survey n hn]

end

/-- The trigger of an operation that may start. -/
theorem trigMma_ok {s : State} {id : Nat} {src : Src} {v : Line} (hid : isMma id = true) (hv : scalarOf v = 0)
    (h : MmaMay s (mmaAsked s id)) :
    trigMma (trigCtx s id 0 v) (trigStart s src) = .ok ((trigStart s src).modCore s.focus (mmaBegun s id)) := by
  unfold trigMma
  extract_lets k o d legs n o'
  have hval : (trigCtx s id 0 v).v = 0 := (trigCtx_v _ _ _ _ (lineTrig_mma hid)).trans hv
  have hk : k = s.now.fired src := trigStart_core s src
  have hports : k.mxPorts = s.now.mxPorts := by rw [hk, mxPorts_fired]
  have hstarted : o' = mmaStarted s id := by
    simp only [o', legs, n, o, hports, hval]
    rfl
  have ho : MmaMay s o := h.congr rfl hports
  have ho' : MmaMay s o' := ho.congr rfl rfl
  have hacc : k.accMeets o'.mxTile o'.u n = false := by
    rw [hk, accMeets_fired]
    exact ho'.tile
  have hquiet : (trigStart s src).TileQuiet s.focus o'.mxTile := tileQuiet_trigStart ho'.quiet src
  have htile : (trigCtx s id 0 v).tileCore o'.mxTile = s.now := tileCore_of_quiet ho'.quiet
  have hres : ((trigStart s src).die d).wmx (clusterOf s.focus) ≤ ((trigStart s src).core s.focus).ctl.res := by
    rw [trigStart_core, Core.fired_res]
    exact h.reserved
  have hrange : ((if o.nar then o.legIds else []).find? fun i => !(s.legendInRange d (s.env s.focus).ctx i)) = none :=
    ho.legends_inRange
  have hlegs : (legs.any fun l => !(Legend.usable l)) = false := ho.legends_usable
  have hlines : s.engineLines s.focus ((o'.begin_ s.now).stepLines 0) = none := ho'.lines
  have hwhole : (o'.begin_ s.now).softC s.now = none := ho'.whole
  have hbegin : (o'.begin_ s.now).mxTile = o'.mxTile := rfl
  simp -zeta only [trigCtx_m, hval, ho.fields, trigCtx_c, trigCtx_pre, trigCtx_env, hrange, ho.survey_ok, hlegs, hacc,
    mxFaults_of_free (k := (trigCtx s id 0 v).k) h.unit.1 h.unit.2, ho'.allotted, catchUp_of_quiet hquiet, ne_eq, not_true_eq_false,
    Bool.not_true, Bool.or_self, Bool.false_eq_true, or_self, if_false]
  rw [startMx_reserved (t := trigCtx s id 0 v) h.unit.1 h.unit.2 rfl hres]
  simp only [htile, hlines, hbegin, hwhole, trigCtx_c, trigCtx_k, W.modCore_modCore]
  rw [hstarted]
  rfl

/-- A reserved bit of the trigger value or of M. -/
theorem trigMma_reserved {s : State} {id : Nat} {m : BitVec 4} {src : Src} {v : Line} (hid : isMma id = true)
    (h : scalarOf v ≠ 0 ∨ m ≠ 0) : trigMma (trigCtx s id m v) (trigStart s src) = .trap (engineFault 1 id) := by
  simp only [trigMma, trigCtx_m, trigCtx_v _ _ _ _ (lineTrig_mma hid)]
  rw [if_pos (h.elim (fun hv => .inr (.inl hv)) .inl)]
  rfl

/-- What one trigger of the matrix unit does: its start, and its fault. -/
theorem IsTrigger.mma {id : Nat} {d : BitVec 12} {i : Slot → Instr} {P : State → Slot → Line → Prop}
    (h : IsTrigger id d i Slot.m trigMma) (hid : isMma id = true)
    (hP : ∀ s f v, P s f v → f.m = 0 ∧ scalarOf v = 0 ∧ MmaMay s (mmaAsked s id)) :
    TriggersIf id i P (fun s _ _ k => mmaBegun s id k) ∧
      TrapsIf id i (fun _ f v => scalarOf v ≠ 0 ∨ f.m ≠ 0) (fun _ _ _ => engineFault 1 id) := by
  refine ⟨h.triggersIf (fun _ _ _ _ => allowed_mma hid) fun s f src v hp => ?_,
    h.trapsIf (fun _ _ _ _ => allowed_mma hid) fun s f src v hbad => trigMma_reserved hid hbad⟩
  obtain ⟨hm, hv, hmay⟩ := hP s f v hp
  rw [hm]
  exact trigMma_ok hid hv hmay

/-! ### Tables of words -/

section
variable {l : List Acc40} {k : Nat}

/-- Words listed from key `first` on leave the keys below it alone. -/
theorem get_wordsFrom_below : ∀ {first : Nat}, k < first →
    Tab.get 0 (((List.range' first l.length).zip l).filter fun e => decide (e.2 ≠ 0)) k = 0 := by
  induction l with
  | nil => exact fun _ => rfl
  | cons x l ih =>
    intro first h
    simp only [List.length_cons, List.range'_succ, List.zip_cons_cons, List.filter_cons]
    split
    · rw [Tab.get, if_neg (by omega), ih (by omega)]
    · exact ih (by omega)

theorem get_wordsFrom (first : Nat) :
    Tab.get 0 (((List.range' first l.length).zip l).filter fun e => decide (e.2 ≠ 0)) (first + k) = l.getD k 0 := by
  induction l generalizing first k with
  | nil => rfl
  | cons x l ih =>
    simp only [List.length_cons, List.range'_succ, List.zip_cons_cons, List.filter_cons]
    cases k with
    | zero =>
      split
      next => exact if_pos rfl
      next hx =>
        obtain rfl : x = 0 := by simpa using hx
        exact get_wordsFrom_below (Nat.lt_succ_self first)
    | succ k =>
      rw [show first + (k + 1) = first + 1 + k by omega, List.getD_cons_succ]
      split
      · rw [Tab.get, if_neg (by omega), ih]
      · exact ih _

/-- A table of words reads as the list that it was made of. -/
theorem get_tabOfWords : Tab.get 0 (tabOfWords l) k = l.getD k 0 := by
  have h := get_wordsFrom (l := l) (k := k) 0
  rwa [Nat.zero_add, ← List.range_eq_range'] at h

end

/-- Rows of one length, laid end to end. -/
theorem getD_flatten {α : Type} {n j : Nat} (d : α) (hj : j < n) {rows : List (List α)} (h : ∀ r ∈ rows, r.length = n) (i : Nat) :
    rows.flatten.getD (n * i + j) d = (rows.getD i []).getD j d := by
  induction rows generalizing i with
  | nil => rfl
  | cons r rows ih =>
    have hr : r.length = n := h r List.mem_cons_self
    rw [List.flatten_cons]
    cases i with
    | zero => rw [Nat.mul_zero, Nat.zero_add, List.getD_append _ _ _ _ (by omega), List.getD_cons_zero]
    | succ i =>
      rw [Nat.mul_succ, List.getD_append_right _ _ _ _ (by omega), List.getD_cons_succ, ← ih fun q hq => h q (List.mem_cons_of_mem _ hq)]
      congr 1
      omega

/-- An entry of a list numbered from 0. -/
theorem getD_map_zip_range {α β : Type} {l : List α} {n i : Nat} (hl : l.length = n) (hi : i < n) (f : Nat × α → β) (a : α) (b : β) :
    (((List.range n).zip l).map f).getD i b = f (i, l.getD i a) := by
  subst hl
  simp [List.getD_eq_getElem?_getD, hi]

/-! ### One step (02 R69; 08 R187) -/

section
variable (o : EngineOp) (k : Core)

/-- A step takes 64 rows of A and 64 columns of B. -/
theorem length_stepVals (x s : Nat) : (o.stepVals k x s).length = 64 := by
  simp only [EngineOp.stepVals, EngineOp.blocks]
  split <;> simp

/-- What step `s` leaves in the word of row `i` and column `j`. -/
theorem get_stepSums (s : Nat) {i j : Nat} (hi : i < 64) (hj : j < 64) :
    Tab.get 0 (o.stepSums k s) (64 * i + j) =
      matrixStep (((o.stepVals k 0 s).getD i []).zipWith FNum.mul ((o.stepVals k 1 s).getD j []))
        (Tab.get 0 o.sums (64 * i + j)) := by
  have ha := length_stepVals o k 0 s
  have hb := length_stepVals o k 1 s
  have hrows : ∀ r ∈ ((List.range 64).zip (o.stepVals k 0 s)).map (fun r => ((List.range 64).zip (o.stepVals k 1 s)).map fun q =>
      matrixStep ((r.2.zip q.2).map fun p => p.1.mul p.2) (Tab.get 0 o.sums (64 * r.1 + q.1))), r.length = 64 := by
    rintro _ hr
    obtain ⟨r, -, rfl⟩ := List.mem_map.mp hr
    simp [hb]
  rw [EngineOp.stepSums, get_tabOfWords, getD_flatten 0 hj hrows, getD_map_zip_range ha hi _ [],
    getD_map_zip_range hb hj _ [], List.zip_eq_zipWith, List.map_zipWith]

end

/-- Settles O33: each trigger's start and fault, and the word that a step leaves. -/
theorem matrixStarts : Obligations.MatrixStarts := by
  refine ⟨fun p hp => ?_, fun o k i j hi hj => ⟨get_stepSums o k o.step hi hj, rfl, rfl, rfl⟩⟩
  obtain ⟨hid, d, htrig⟩ := isTrigger_of_mem hp
  exact htrig.mma hid fun s f v ⟨hm, hv, hfields, hlegs, hsv, hmx, hwait, htile, hallot, hlines, hquiet, hwhole, hres⟩ =>
    ⟨hm, hv, hfields, hlegs, hsv, ⟨hmx, hwait⟩, htile, hallot, hlines, hquiet, hwhole, hres⟩

end Sys2Proof.Machine
end

section
/-!
Main memory keeps its canonical form (03 R71): every instruction but POWER_UP ends in a commit, which writes bytes one by one.
-/

namespace Sys2Proof.Machine

/-! ### Every instruction commits -/

/-- What a meaning answers: the commit of some working copy. -/
def Commits (s : State) (r : Host.Outcome State Fault Refusal) : Prop := ∃ w, r = go s w

variable {s t : State}

theorem Commits.go (w : W) : Commits s (go s w) := ⟨w, rfl⟩
theorem Commits.ite {p : Prop} [Decidable p] {a b : Host.Outcome State Fault Refusal} (ha : Commits s a) (hb : Commits s b) :
    Commits s (if p then a else b) := by
  split
  · exact ha
  · exact hb

theorem Commits.memWf {r : Host.Outcome State Fault Refusal} (hc : Commits s r) (h : MemWf s) (hr : r = .next t) : MemWf t := by
  obtain ⟨w, rfl⟩ := hc
  exact go_wf h hr

/-- Every instruction but POWER_UP commits a working copy. -/
theorem exec_commits (i : Instr) (hi : i ≠ .powerUp) (s : State) : Commits s (exec i s) := by
  cases i
  case powerUp => exact absurd rfl hi
  case loopx e => exact .ite ⟨_, rfl⟩ ⟨_, rfl⟩
  case slewStepBoundary d q => exact .ite ⟨_, rfl⟩ ⟨_, rfl⟩
  case bankIdlePrecharge d bk => exact .ite ⟨_, rfl⟩ ⟨_, rfl⟩
  case scrubRow d ev => exact .ite ⟨_, rfl⟩ (.ite ⟨_, rfl⟩ (.ite ⟨_, rfl⟩ ⟨_, rfl⟩))
  case surveyDeltaMerge d =>
    change Commits s (execSurveyDeltaMerge d s)
    unfold execSurveyDeltaMerge
    dsimp only
    split
    · exact ⟨_, rfl⟩
    · exact ⟨_, rfl⟩
  all_goals exact ⟨_, rfl⟩

/-- An instruction keeps main memory canonical: POWER_UP empties it, every other one commits. -/
theorem exec_memWf {i : Instr} (h : MemWf s) (e : exec i s = .next t) : MemWf t := by
  by_cases hi : i = .powerUp
  · subst hi
    cases e
    exact (by decide : Mem.wf State.reset.mem = true)
  · exact (exec_commits i hi s).memWf h e

/-! ### Every step that is laid out commits -/

/-- Nothing changed is a commit of nothing. -/
theorem Commits.next (s : State) : Commits s (.next s) := ⟨W.of s, rfl⟩

theorem hostStep_commits (s : State) : Commits s s.hostStep := by
  unfold State.hostStep
  refine .ite (exec_commits .imageVerifyDone nofun s) (.ite ⟨_, rfl⟩ ?_)
  split
  · exact .ite ⟨_, rfl⟩ (.next s)
  · split
    all_goals exact ⟨_, rfl⟩

theorem coreStep_commits (k : CoreStep) (c : Nat) (s : State) : Commits s (k.run c s) := by
  cases k
  case stepEvent =>
    simp only [CoreStep.run]
    split
    · exact ⟨_, rfl⟩
    · exact .next s
  all_goals exact ⟨_, rfl⟩

theorem dieStep_commits (k : DieStep) (d n : Nat) (s : State) : Commits s (k.run d n s) := by
  cases k
  case slewStep => exact exec_commits (.slewStepBoundary d n) nofun s
  case bankIdle => exact exec_commits (.bankIdlePrecharge d n) nofun s
  case scrub => exact exec_commits (.scrubRow d []) nofun s
  case deltaMerge => exact exec_commits (.surveyDeltaMerge d) nofun s
  all_goals exact ⟨_, rfl⟩

/-- A step that is laid out commits a working copy. -/
theorem due_commits (e : Due) (s : State) : Commits s (e.run s) := by
  cases e
  case core k c => exact coreStep_commits k c s
  case start c e => exact ⟨_, rfl⟩
  case stream drain c n => cases drain <;> exact ⟨_, rfl⟩
  case pair k c p => cases k <;> exact ⟨_, rfl⟩
  case chan k c ch => cases k <;> exact ⟨_, rfl⟩
  case atOp k c n => fin_cases k <;> exact ⟨_, rfl⟩
  case die k d n => exact dieStep_commits k d n s
  case ctx k d x n => cases k <;> exact ⟨_, rfl⟩
  case cluster d x b q => exact ⟨_, rfl⟩
  case notice x b gen trel => exact ⟨_, rfl⟩
  case host => exact hostStep_commits s

/-! ### The end of a clock cycle, and the step -/

theorem advance_mem (s : State) (c : Nat) : (s.advance c).mem = s.mem := by
  unfold State.advance
  split <;> rfl

/-- The end of a core's clock cycle commits what a follow-on did and moves the focus on. -/
theorem endCycle_memWf (pre : State) (c : Nat) (h : MemWf s) : MemWf (pre.endCycle s c) := by
  unfold MemWf State.endCycle
  rw [advance_mem]
  exact W.wf_commit _ s h

theorem cycle_memWf (h : MemWf s) (e : s.cycle = .next t) : MemWf t := by
  unfold State.cycle at e
  dsimp only at e
  split at e
  · split at e
    · cases e; exact endCycle_memWf _ _ (W.wf_commit _ _ h)
    · split at e
      · cases e
      · split at e
        · next hx => cases e; exact endCycle_memWf _ _ (exec_memWf h hx)
        · next hx => exact absurd e (hx t)
  · cases e; exact endCycle_memWf _ _ (W.wf_commit _ _ h)

theorem lay_mem (s : State) : s.lay.mem = s.mem := by
  unfold State.lay
  dsimp only
  split <;> split <;> rfl

/-- Settles O5: what comes from outside is an instruction, what is laid out commits, and the focused core's clock cycle is an
instruction and the commit that ends the cycle. -/
theorem stepKeepsMemoryCanonical : Obligations.StepKeepsMemoryCanonical := by
  intro s t h e
  unfold step State.stepOnce at e
  have hl : MemWf s.lay := by rw [MemWf, lay_mem]; exact h
  split at e
  · next i l _ =>
    have hs : MemWf { s with agenda := l } := h
    split at e
    · exact exec_memWf hs e
    · cases e; exact hs
  · generalize s.lay = u at e hl
    dsimp only at e
    split at e
    · next x l _ =>
      have hu : MemWf { u with todo := l } := hl
      exact (due_commits x _).memWf hu e
    · exact cycle_memWf hl e

end Sys2Proof.Machine
end

section
/-!
The state that reset leaves (14 R329; 15 R333; log 1).
-/

namespace Sys2Proof.Machine

@[simp] theorem core_reset (c : Nat) : State.reset.core c = Core.reset := rfl
@[simp] theorem die_reset (d : Nat) : State.reset.die d = Die.reset := rfl

/-- Settles O4: every core and die reads as after reset, and each field is what its reset value gives. -/
theorem resetState : Obligations.ResetState := by
  refine ⟨(by decide : Mem.wf State.reset.mem = true), rfl, rfl, rfl, rfl, rfl, fun c => ?_, fun d => ?_⟩
  · exact ⟨rfl, rfl, rfl, rfl, rfl, fun _ => rfl, fun _ => rfl⟩
  · refine ⟨rfl, rfl, rfl, rfl, rfl, ?_, fun ctx b => ?_⟩
    · exact (by decide +kernel : Die.reset.rampAt 0 15 = 1024)
    · exact (by decide +kernel : barLead barReset = 4000)

end Sys2Proof.Machine
end

section
/-!
Requests to main memory: they join the queues of their pseudo-channels and change nothing else (03 R72, R74).
-/

namespace Sys2Proof.Machine

/-! ### A die with other requests waiting -/

/-- Only the requests that wait for admission differ, and none has left. -/
structure WaitsOnly (w w' : W) : Prop where
  rest : w' = { w with dies := w'.dies }
  die : ∀ e, w'.die e = { w.die e with mc := { (w.die e).mc with waiting := (w'.die e).mc.waiting } }
  kept : ∀ q, Waits w.toState q → Waits w'.toState q

section
variable {w w' w'' : W}

theorem WaitsOnly.refl : WaitsOnly w w := ⟨rfl, fun _ => rfl, fun _ h => h⟩

theorem WaitsOnly.trans (h : WaitsOnly w w') (h' : WaitsOnly w' w'') : WaitsOnly w w'' := by
  refine ⟨?_, fun e => ?_, fun q hq => h'.kept q (h.kept q hq)⟩
  · conv_lhs => rw [h'.rest, h.rest]
  · conv_lhs => rw [h'.die, h.die]

theorem waitsOnly_foldl {α : Type} {f : W → α → W} (h : ∀ w a, WaitsOnly w (f w a)) (l : List α) :
    ∀ w, WaitsOnly w (l.foldl f w) := by
  induction l with
  | nil => exact fun _ => .refl
  | cons a l ih => exact fun w => (h w a).trans (ih _)

/-- What a fold over requests makes of one of them is there at the end. -/
theorem waits_foldl {α : Type} {f : W → α → W} (h : ∀ w a, WaitsOnly w (f w a)) {a : α} {q : HbmReq}
    (hq : ∀ w, Waits (f w a).toState q) (l : List α) (ha : a ∈ l) : ∀ w, Waits (l.foldl f w).toState q := by
  induction l with
  | nil => cases ha
  | cons b l ih =>
    intro w
    rcases List.mem_cons.mp ha with rfl | hl
    · exact (waitsOnly_foldl h l _).kept q (hq w)
    · exact ih hl _

theorem waitsOnly_hbmAsk (q : HbmReq) : WaitsOnly w (w.hbmAsk q) := by
  refine ⟨rfl, fun e => ?_, fun r hr => ?_⟩
  · by_cases h : e = stackOf (128 * q.line)
    · subst h; rw [W.hbmAsk, W.die_modDie_same]
    · rw [W.hbmAsk, W.die_modDie_ne _ _ h]
  · unfold Waits W.hbmAsk at *
    dsimp only
    by_cases h : stackOf (128 * r.line) = stackOf (128 * q.line)
    · rw [h] at hr ⊢
      rw [W.die_modDie_same]
      dsimp only
      rw [Tab.get_put]
      split
      · next hp => exact List.mem_append_left _ (hp ▸ hr)
      · exact hr
    · rw [W.die_modDie_ne _ _ h]
      exact hr

theorem waitsOnly_askHbm (port a n : Nat) : WaitsOnly w (w.askHbm port a n) := waitsOnly_foldl (fun _ _ => waitsOnly_hbmAsk _) _ w

theorem waitsOnly_hbmStore (port a : Nat) (l : List Byte) : WaitsOnly w (w.hbmStore port a l) :=
  waitsOnly_foldl (fun _ _ => waitsOnly_hbmAsk _) _ w

theorem waitsOnly_askReads (l : List AgentRead) : WaitsOnly w (w.askReads l) := by
  refine waitsOnly_foldl (fun w e => ?_) l w
  split
  · exact .refl
  · exact waitsOnly_askHbm _ _ _

/-! ### What such a change keeps -/

variable (h : WaitsOnly w w')
include h

theorem WaitsOnly.mem : w'.mem = w.mem := by rw [h.rest]
theorem WaitsOnly.cores : w'.cores = w.cores := by rw [h.rest]
theorem WaitsOnly.pkg : w'.pkg = w.pkg := by rw [h.rest]
theorem WaitsOnly.clk : w'.clk = w.clk := by rw [h.rest]
theorem WaitsOnly.ts : w'.ts = w.ts := by rw [h.rest]
theorem WaitsOnly.out : w'.out = w.out := by rw [h.rest]
theorem WaitsOnly.zeroed : w'.zeroed = w.zeroed := by rw [h.rest]
theorem WaitsOnly.core (c : Nat) : w'.core c = w.core c := by rw [State.core, h.cores, State.core]

theorem WaitsOnly.die_mc (e : Nat) : w'.die e = { w.die e with mc := (w'.die e).mc } := by rw [h.die]

theorem WaitsOnly.turn (e : AgentRead) : w'.turn e = w.turn e := by rw [State.turn, h.die, State.turn]
theorem WaitsOnly.poisoned (a : Nat) : w'.poisoned a = w.poisoned a := by rw [State.poisoned, h.die, State.poisoned]

end

/-! ### The requests that are there -/

/-- A request for the only line of a whole-line read. -/
theorem askHbm_line (w : W) (port q : Nat) : w.askHbm port (128 * q) 128 = w.hbmAsk { src := port, line := q, write := false } := by
  rw [W.askHbm, lineAddrs_line (Nat.mul_mod_right 128 q), List.foldl_cons, List.foldl_nil, Nat.mul_div_cancel_left _ (by decide),
    Nat.mul_div_cancel _ (by decide)]

/-- The first line of an aligned read is asked for. -/
theorem waits_askHbm {w : W} {port a n : Nat} (ha : a % 128 = 0) (hn : 0 < n) :
    Waits (w.askHbm port a n).toState { src := port, line := a / 128, write := false } := by
  refine waits_foldl (f := fun w b => w.hbmAsk { src := port, line := b / 128, write := false }) (a := a)
    (fun _ _ => waitsOnly_hbmAsk _) (fun w => waits_hbmAsk w _) _ ?_ w
  exact List.mem_map.mpr ⟨0, List.mem_range.mpr (by omega), by omega⟩

theorem askedHbm_line (s : State) (port q : Nat) : s.askedHbm port (128 * q) 128 = true ↔
    ∃ r, Waits s r ∧ r.src = port ∧ r.line = q := by
  rw [State.askedHbm, lineAddrs_line (Nat.mul_mod_right 128 q)]
  simp only [List.any_cons, List.any_nil, Bool.or_false, Nat.mul_div_cancel_left _ (show 0 < 128 by decide),
    Nat.mul_div_cancel _ (show 0 < 128 by decide), List.any_eq_true, Bool.and_eq_true, decide_eq_true_eq, Waits]
  refine exists_congr fun r => and_congr_left fun ⟨_, hl⟩ => ?_
  rw [hl, Nat.mul_comm]

theorem WaitsOnly.asked {w w' : W} (h : WaitsOnly w w') {port q : Nat} (ha : w.askedHbm port (128 * q) 128 = true) :
    w'.askedHbm port (128 * q) 128 = true := by
  obtain ⟨r, hr, hs⟩ := (askedHbm_line ..).mp ha
  exact (askedHbm_line ..).mpr ⟨r, h.kept r hr, hs⟩

/-- After a step has asked for its reads each is admitted or waits. -/
theorem askReads_asked (l : List AgentRead) {e : AgentRead} (he : e ∈ l) : ∀ w : W,
    ((w.askReads l).turn e).isSome = true ∨ (w.askReads l).askedHbm e.1 (128 * e.2) 128 = true := by
  induction l with
  | nil => cases he
  | cons x l ih =>
    intro w
    rcases List.mem_cons.mp he with rfl | hl
    · let v := if (w.turn e).isSome || w.askedHbm e.1 (128 * e.2) 128 then w else w.askHbm e.1 (128 * e.2) 128
      have hv : (v.turn e).isSome = true ∨ v.askedHbm e.1 (128 * e.2) 128 = true := by
        by_cases hc : ((w.turn e).isSome || w.askedHbm e.1 (128 * e.2) 128) = true
        · simpa only [v, if_pos hc, Bool.or_eq_true] using hc
        · simp only [v, if_neg hc]
          exact .inr ((askedHbm_line ..).mpr ⟨_, askHbm_line w _ _ ▸ waits_hbmAsk w _, rfl, rfl⟩)
      have hrest : WaitsOnly v (v.askReads l) := waitsOnly_askReads l
      exact hv.imp (fun ht => (congrArg Option.isSome (hrest.turn e)).trans ht) hrest.asked
    · exact ih hl _

end Sys2Proof.Machine
end

section
/-!
Main memory: the walk of a page table, banks, the scrubber and the error history (03 R73, R77..R79; 13 R311..R313).
-/

namespace Sys2Proof.Machine

/-! ### The walk (13 R311, R312) -/

/-- The table entry that a step reads at an address. -/
def W.entryAt (w : W) (a : Nat) : BitVec 64 := BitVec.ofNat 64 (w.hbmNat a 8)

/-- The address that an entry holds. -/
def entryNext (e : BitVec 64) : Nat := bits e 15 24 * 2 ^ 15

theorem bitAt_of_bits {e : BitVec 64} {n i : Nat} (h : bits e 0 2 = n) (hi : i < 2) : bitAt e i = n.testBit i := by
  have := testBit_bits e 0 2 i
  rw [h, Nat.zero_add, decide_eq_true hi, Bool.true_and] at this
  exact this.symm

section
variable {w : W} {va pos size t : Nat} {l : List (Nat × Nat)}

/-- An entry of the walk that can be read, of which no reserved bit is set. -/
structure FineEntry (w : W) (a : Nat) : Prop where
  inside : a < Config.hbmBytes
  good : w.badLine a = false
  reserved : leafReserved (w.entryAt a) = false

theorem walkFrom_invalid (ha : t + 8 * (va / 2 ^ pos % 4096) < Config.hbmBytes) (hb : w.badLine (t + 8 * (va / 2 ^ pos % 4096)) = false)
    (hv : bitAt (w.entryAt (t + 8 * (va / 2 ^ pos % 4096))) 0 = false) : walkFrom w va ((pos, size) :: l) t = .error (.page 0) := by
  rw [W.entryAt] at hv
  simp only [walkFrom, if_neg (Nat.not_le.mpr ha), hb, hv, Bool.false_eq_true, if_false, Bool.not_false, if_true]

theorem walkFrom_leaf (hf : FineEntry w (t + 8 * (va / 2 ^ pos % 4096)))
    (h2 : bits (w.entryAt (t + 8 * (va / 2 ^ pos % 4096))) 0 2 = 3) (h4 : bitAt (w.entryAt (t + 8 * (va / 2 ^ pos % 4096))) 4 = false)
    (hm : entryNext (w.entryAt (t + 8 * (va / 2 ^ pos % 4096))) % size = 0)
    (hp : entryNext (w.entryAt (t + 8 * (va / 2 ^ pos % 4096))) + va % size < Config.hbmBytes) :
    walkFrom w va ((pos, size) :: l) t =
      .ok { va := va / size * size, size := size, leaf := w.entryAt (t + 8 * (va / 2 ^ pos % 4096)) } := by
  obtain ⟨ha, hb, hr⟩ := hf
  have h0 : bitAt _ 0 = true := bitAt_of_bits h2 (by decide)
  have h1 : bitAt _ 1 = true := bitAt_of_bits h2 (by decide)
  have hp' := Nat.not_le.mpr hp
  rw [entryNext] at hm hp'
  rw [W.entryAt] at *
  simp [-Nat.reducePow, walkFrom, Nat.not_le.mpr ha, hb, h0, h1, h4, hr, hm, hp']

theorem walkFrom_next {x : Nat × Nat} (hf : FineEntry w (t + 8 * (va / 2 ^ pos % 4096)))
    (h2 : bits (w.entryAt (t + 8 * (va / 2 ^ pos % 4096))) 0 2 = 1)
    (h4 : bitAt (w.entryAt (t + 8 * (va / 2 ^ pos % 4096))) 4 = false) :
    walkFrom w va ((pos, size) :: x :: l) t = walkFrom w va (x :: l) (entryNext (w.entryAt (t + 8 * (va / 2 ^ pos % 4096)))) := by
  obtain ⟨ha, hb, hr⟩ := hf
  have h0 : bitAt _ 0 = true := bitAt_of_bits h2 (by decide)
  have h1 : bitAt _ 1 = false := bitAt_of_bits h2 (by decide)
  rw [entryNext]
  rw [W.entryAt] at *
  rw [walkFrom]
  simp [Nat.not_le.mpr ha, hb, h0, h1, h4, hr]

theorem walk_eq {root va : Nat} (hr : root ≠ 0) (hv : va < 2 ^ 51) :
    w.walk root va = walkFrom w va [(39, 2 ^ 39), (27, 2 ^ 27), (15, 2 ^ 15)] root := by
  have hva : ¬ ((va : Int) < 0 ∨ (2 : Int) ^ 51 ≤ va) := by omega
  rw [W.walk, if_neg hva, if_neg hr, Int.toNat_natCast]

end

theorem badLine_of (s : State) (a : Nat) : (W.of s).badLine a = s.poisoned a := Bool.or_false _

/-! ### The gazetteer (13 R313) -/

section
variable {s : State} {d ctx va : Nat}

theorem gazPage_none (h : ∀ e ∈ (s.die d).gaz, e.1 = ctx → e.2.covers va = false) : s.gazPage d ctx va = none := by
  rw [State.gazPage, Option.map_eq_none_iff, List.find?_eq_none]
  intro e he
  by_cases hc : e.1 = ctx <;> simp [hc]
  exact h e he hc

theorem gazPage_isSome (h : ∃ e ∈ (s.die d).gaz, e.1 = ctx ∧ e.2.covers va = true) : (s.gazPage d ctx va).isSome = true := by
  obtain ⟨e, he, hc, hv⟩ := h
  rw [State.gazPage, Option.isSome_map, List.find?_isSome]
  exact ⟨e, he, by simp [hc, hv]⟩

theorem go_of (s : State) : go s (W.of s) = .next s := rfl

theorem tableWalk_held (h : (s.gazPage d ctx va).isSome = true) : exec (.tableWalk d ctx va) s = .next s := by
  have hx : (W.of s).xlateReads d ctx va = [] := if_pos h
  change execTableWalk d ctx va s = _
  rw [execTableWalk, hx, reading_nil]
  exact (congrArg (go s) (if_pos h)).trans (go_of s)

/-- A walk that no kept page spares, until its reads are admitted and then. -/
theorem tableWalk_eq (h : s.gazPage d ctx va = none) (l : List AgentRead) (hl : l = (W.of s).walkReads d (s.ptroot d ctx) va) :
    exec (.tableWalk d ctx va) s = go s (if s.admitted l then
      match ((W.of s).takeReads l).walk (s.ptroot d ctx) va with
      | .ok p => ((W.of s).takeReads l).fillGaz d ctx p
      | .error _ => (W.of s).takeReads l
    else (W.of s).askReads l) := by
  have hx : (W.of s).xlateReads d ctx va = l := hl ▸ if_neg (by rw [show (W.of s).gazPage d ctx va = none from h]; decide)
  have hg : ((W.of s).takeReads l).gazPage d ctx va = none := by rw [State.gazPage, die_takeReads]; exact h
  have hroot : ((W.of s).takeReads l).ptroot d ctx = s.ptroot d ctx := by rw [State.ptroot, die_takeReads]; rfl
  change execTableWalk d ctx va s = _
  rw [execTableWalk, hx, W.reading]
  refine congrArg (go s) (congrArg (fun x => ite _ x _) ?_)
  rw [hg, hroot]
  rfl

end

/-! ### Banks, the error history's registers: one die's controller changes -/

/-- Instruction `e` changes the memory controller of die `d` to `m` and nothing else. -/
def ChangesMc (s : State) (d : Nat) (e : Instr) (m : MemCtl) : Prop :=
  ∃ t, exec e s = .next t ∧ OnlyDie s t d ∧ t.die d = { s.die d with mc := m }

theorem changesMc_modDie {s : State} {d : Nat} {e : Instr} {m : MemCtl} {f : Die → Die}
    (h : exec e s = go s ((W.of s).modDie d f)) (hf : f (s.die d) = { s.die d with mc := m }) : ChangesMc s d e m := by
  refine ⟨_, h, ⟨rfl, rfl, rfl, rfl, rfl, fun x hx => ?_⟩, ?_⟩
  · rw [die_commit, W.die_modDie_ne _ _ hx, W.of_die]
  · rw [die_commit, W.die_modDie_same, W.of_die, hf]

/-- A bank's idle time has passed and no queued request hits its row. -/
theorem bankIdlePrecharge_closes {s : State} {d bk r : Nat} (ho : Tab.get none (s.die d).mc.openRow bk = some r)
    (hu : Tab.get 0 (s.die d).mc.lastUse bk + (Tab.get 32 (s.die d).mc.idle bk).toNat ≤ 2 * s.ts)
    (hq : (s.die d).mc.queuedHit bk = false) :
    exec (.bankIdlePrecharge d bk) s = go s ((W.of s).closeBank d bk) := by
  change execBankIdlePrecharge d bk s = _
  rw [execBankIdlePrecharge]
  exact if_pos (by rw [ho, hq, decide_eq_true (show _ ≤ s.ctlCycle from hu)]; rfl)

/-! ### The scrubber (03 R77) -/

section
variable {s : State} {d : Nat}

theorem scrubRow_off (h : (s.die d).mc.scrub = false) (ev : List (Nat × Bool × BitVec 64)) : exec (.scrubRow d ev) s = .next s := by
  change execScrubRow d ev s = _
  rw [execScrubRow]
  exact (if_pos (by rw [h]; rfl)).trans (go_of s)

theorem scrubRow_ask (h : (s.die d).mc.scrub = true) (ha : (s.die d).mc.scrubAsked = false) (ev : List (Nat × Bool × BitVec 64)) :
    exec (.scrubRow d ev) s = go s ((W.of s).scrubAsk d) := by
  change execScrubRow d ev s = _
  rw [execScrubRow]
  exact (if_neg (by rw [h]; decide)).trans (if_pos (by rw [ha]; rfl))

theorem scrubRow_wait (h : (s.die d).mc.scrub = true) (ha : (s.die d).mc.scrubAsked = true)
    (hw : s.askedHbm (agentPort 1 d) (s.scrubBase d) 1024 = true) (ev : List (Nat × Bool × BitVec 64)) :
    exec (.scrubRow d ev) s = .next s := by
  change execScrubRow d ev s = _
  rw [execScrubRow]
  exact (if_neg (by rw [h]; decide)).trans ((if_neg (by rw [ha]; decide)).trans ((if_pos hw).trans (go_of s)))

/-- The lines of the row that were poisoned before and that the step does not name. -/
def State.scrubOld (s : State) (d : Nat) (ev : List (Nat × Bool × BitVec 64)) : List (Nat × Bool × BitVec 64) :=
  ((lineAddrs (s.scrubBase d) 1024).filter fun a => s.poisoned a && !(ev.any fun e => decide (e.1 / 128 = a / 128))).map
    fun a => (a, true, (Config.freeLine (s.free + a / 128 % 8)).truncate 64)

/-- The lines of the row in error: those that the step names and those. -/
def State.scrubFound (s : State) (d : Nat) (ev : List (Nat × Bool × BitVec 64)) : List (Nat × Bool × BitVec 64) :=
  (ev.filter fun e => decide (e.1 / 1024 = s.scrubBase d / 1024)) ++ s.scrubOld d ev

/-- The scrubber's position after the row. -/
def Die.scrubbed (row : Nat) (x : Die) : Die := { x with mc := { x.mc with scrubRow := (row + 1) % rowsOfStack, scrubAsked := false } }

theorem scrubRow_done (h : (s.die d).mc.scrub = true) (ha : (s.die d).mc.scrubAsked = true)
    (hw : s.askedHbm (agentPort 1 d) (s.scrubBase d) 1024 = false) (ev : List (Nat × Bool × BitVec 64)) :
    exec (.scrubRow d ev) s = go s (((s.scrubFound d ev).foldl (W.scrubLine · d ·)
      { W.of s with free := s.free + (if (s.scrubOld d ev).isEmpty then 0 else 8) }).modDie d (Die.scrubbed (s.die d).mc.scrubRow)) := by
  change execScrubRow d ev s = _
  rw [execScrubRow]
  exact (if_neg (by rw [h]; decide)).trans ((if_neg (by rw [ha]; decide)).trans (if_neg (by rw [hw]; decide)))

/-! #### Its requests -/

/-- The lines of a row lie in the die's own stack. -/
theorem stackOf_scrubBase (hd : d < 8) {i : Nat} (hi : i < 8) : stackOf ((s.scrubBase d / 128 + i) * 128) = d := by
  have hb : (s.die d).mc.scrubRow % 512 < 512 := Nat.mod_lt _ (by decide)
  unfold stackOf State.scrubBase rowAddr
  omega

theorem scrubBase_aligned : s.scrubBase d % 128 = 0 := by
  unfold State.scrubBase rowAddr
  omega

theorem lineAddrs_scrubBase : lineAddrs (s.scrubBase d) 1024 = (List.range 8).map fun i => (s.scrubBase d / 128 + i) * 128 := by
  rw [lineAddrs, scrubBase_aligned]

theorem die_hbmAsk_ne {w : W} {q : HbmReq} {e : Nat} (h : e ≠ stackOf (128 * q.line)) : (w.hbmAsk q).die e = w.die e :=
  W.die_modDie_ne _ _ h

theorem die_askHbm_ne {port a n e : Nat} (h : ∀ b ∈ lineAddrs a n, e ≠ stackOf b) : ∀ w : W, (w.askHbm port a n).die e = w.die e := by
  have hmul : ∀ b ∈ lineAddrs a n, 128 * (b / 128) = b := by
    intro b hb
    obtain ⟨i, -, rfl⟩ := List.mem_map.mp hb
    omega
  unfold W.askHbm
  generalize lineAddrs a n = l at h hmul
  induction l with
  | nil => exact fun _ => rfl
  | cons b l ih =>
    intro w
    refine (ih (fun x hx => h x (List.mem_cons_of_mem _ hx)) (fun x hx => hmul x (List.mem_cons_of_mem _ hx)) _).trans (die_hbmAsk_ne ?_)
    rw [hmul b (List.mem_cons_self ..)]
    exact h b (List.mem_cons_self ..)

/-- The scrubber's requests are made. -/
def Die.scrubAsking (ts : Nat) (x : Die) : Die :=
  { x with mc := { x.mc with
    scrubAsked := true, scrubDue := Nat.max x.mc.scrubDue (ts * rowsOfStack) + x.mc.period.toNat * 3600000000000 } }

theorem scrubAsk_eq (w : W) : w.scrubAsk d = (w.modDie d (Die.scrubAsking w.ts)).askHbm (agentPort 1 d) (w.scrubBase d) 1024 := rfl

theorem stackOf_scrubBase_zero (hd : d < 8) : stackOf (s.scrubBase d) = d := by
  have h0 := stackOf_scrubBase (s := s) hd (i := 0) (by decide)
  have ha := scrubBase_aligned (s := s) (d := d)
  rwa [show (s.scrubBase d / 128 + 0) * 128 = s.scrubBase d by omega] at h0

theorem scrub_asked (hd : d < 8) (w : W) : { src := agentPort 1 d, line := s.scrubBase d / 128, write := false } ∈
    Tab.get [] ((w.askHbm (agentPort 1 d) (s.scrubBase d) 1024).die d).mc.waiting (pcOf (s.scrubBase d)) := by
  have h : Waits (w.askHbm (agentPort 1 d) (s.scrubBase d) 1024).toState
      { src := agentPort 1 d, line := s.scrubBase d / 128, write := false } := waits_askHbm scrubBase_aligned (by decide)
  have hline : 128 * (s.scrubBase d / 128) = s.scrubBase d := Nat.mul_div_cancel' (Nat.dvd_of_mod_eq_zero scrubBase_aligned)
  rw [Waits] at h
  dsimp only at h
  rwa [hline, stackOf_scrubBase_zero hd] at h

theorem die_scrubAsk_ne (hd : d < 8) {e : Nat} (he : e ≠ d) (w : W) :
    (w.askHbm (agentPort 1 d) (s.scrubBase d) 1024).die e = w.die e := by
  refine die_askHbm_ne (fun b hb => ?_) w
  rw [lineAddrs_scrubBase] at hb
  obtain ⟨i, hi, rfl⟩ := List.mem_map.mp hb
  rwa [stackOf_scrubBase hd (List.mem_range.mp hi)]

/-- The scrubber has asked for its row: what holds of the working copy `w` that its requests leave. -/
theorem scrubAsk_effect {w : W} (hr : WaitsOnly ((W.of s).modDie d (Die.scrubAsking s.ts)) w) (hne : ∀ e, e ≠ d → w.die e = s.die e)
    {r : HbmReq} (hask : r ∈ Tab.get [] (w.die d).mc.waiting (pcOf (s.scrubBase d)))
    (hl : r.line = s.scrubBase d / 128) (hw : r.write = false) : ∃ t, go s w = .next t ∧ OnlyDie s t d ∧
    t.die d = { s.die d with mc := { (s.die d).mc with
      scrubAsked := true, waiting := (t.die d).mc.waiting
      scrubDue := Nat.max (s.die d).mc.scrubDue (s.ts * rowsOfStack) + (s.die d).mc.period.toNat * 3600000000000 } } ∧
    ∃ r ∈ Tab.get [] (t.die d).mc.waiting (pcOf (s.scrubBase d)), r.line = s.scrubBase d / 128 ∧ r.write = false := by
  have hdie := hr.die d
  rw [W.die_modDie_same] at hdie
  exact ⟨_, rfl, ⟨W.commit_mem_same _ _ hr.out hr.zeroed, hr.cores, hr.pkg, hr.clk, hr.ts, hne⟩, hdie, r, hask, hl, hw⟩

end

/-! ### The error history (03 R78, R79) -/

/-- The number that an error record of die `d` holds. -/
def W.recordNat (w : W) (kind src who pa syn : Nat) : Nat :=
  w.ts % 2 ^ 64 + pa % 2 ^ 39 * 2 ^ 64 + kind * 2 ^ 104 + src * 2 ^ 108 + who % 65536 * 2 ^ 112 + syn % 2 ^ 64 * 2 ^ 128

/-- The address of the next record of a controller's ring. -/
def MemCtl.ringAddr (m : MemCtl) : Nat := m.ehbase.toNat + 32 * m.ehhead.toNat

/-- A record counted: the head goes on, and a full ring has lost its oldest. -/
def Die.recorded (m : MemCtl) (x : Die) : Die :=
  let full := decide (m.ehcount.toNat ≤ m.ehfill)
  { x with mc := { x.mc with
    ehhead := if m.ehhead.toNat + 1 < m.ehcount.toNat then m.ehhead + 1 else 0
    ehfill := if full then m.ehfill else m.ehfill + 1, lost := if full then m.lost + 1 else m.lost } }

theorem errorRecord_eq (w : W) (d kind src who pa syn : Nat) : w.errorRecord d kind src who pa syn =
    (w.hbmStore (agentPort 2 d) (w.die d).mc.ringAddr (toBytes 32 (w.recordNat kind src who pa syn))).modDie d
      (Die.recorded (w.die d).mc) := rfl

/-- A register takes the field of the word written. -/
theorem ofNat_bits_eq_extract {n : Nat} (w : BitVec n) (lo len : Nat) : BitVec.ofNat len (bits w lo len) = w.extractLsb' lo len := by
  rw [bits_eq_extract, BitVec.ofNat_toNat, BitVec.setWidth_eq]

theorem write_ehbase (m : MemCtl) (v : Word) : m.write 0x408 v = { m with ehbase := v.extractLsb' 0 39, ehhead := 0, ehfill := 0 } := by
  rw [← ofNat_bits_eq_extract]; rfl

theorem write_ehcount {v : Word} (m : MemCtl) (h : bits v 0 20 ≠ 0) :
    m.write 0x410 v = { m with ehcount := v.extractLsb' 0 20, ehhead := 0, ehfill := 0 } := by
  rw [← ofNat_bits_eq_extract]
  exact if_neg h

theorem write_ehcount_zero {v : Word} (m : MemCtl) (h : bits v 0 20 = 0) : m.write 0x410 v = m := if_pos h

/-- Only dies differ, and no line that was poisoned is good. -/
structure KeepsPoison (w w' : W) : Prop where
  rest : w' = { w with dies := w'.dies, free := w'.free }
  poisoned : ∀ a, w.poisoned a = true → w'.poisoned a = true

section
variable {w w' w'' : W}

theorem KeepsPoison.trans (h : KeepsPoison w w') (h' : KeepsPoison w' w'') : KeepsPoison w w'' :=
  ⟨by conv_lhs => rw [h'.rest, h.rest], fun a ha => h'.poisoned a (h.poisoned a ha)⟩

theorem KeepsPoison.cores (h : KeepsPoison w w') : w'.cores = w.cores := by rw [h.rest]
theorem KeepsPoison.pkg (h : KeepsPoison w w') : w'.pkg = w.pkg := by rw [h.rest]

theorem keepsPoison_modDie {d : Nat} {f : Die → Die} (hf : ∀ x, (f x).mc.poison = x.mc.poison) : KeepsPoison w (w.modDie d f) := by
  refine ⟨rfl, fun a ha => ?_⟩
  unfold State.poisoned at *
  by_cases h : stackOf a = d
  · subst h; rw [W.die_modDie_same, hf]; exact ha
  · rw [W.die_modDie_ne _ _ h]; exact ha

theorem keepsPoison_errorRecord (d kind src who pa syn : Nat) : KeepsPoison w (w.errorRecord d kind src who pa syn) := by
  rw [errorRecord_eq]
  refine .trans ?_ (keepsPoison_modDie fun _ => rfl)
  have hr := waitsOnly_hbmStore (w := w) (agentPort 2 d) (w.die d).mc.ringAddr (toBytes 32 (w.recordNat kind src who pa syn))
  refine ⟨?_, fun a ha => (hr.poisoned a).trans ha⟩
  conv_lhs => rw [hr.rest]
  rw [show (w.hbmStore _ _ _).free = w.free by rw [hr.rest]]

theorem poisoned_setPoison (ln : Nat) : (w.setPoison ln true).poisoned (128 * ln) = true := by
  rw [State.poisoned, W.setPoison, W.die_modDie_same]
  simp

theorem keepsPoison_setPoison (ln : Nat) : KeepsPoison w (w.setPoison ln true) := by
  refine ⟨rfl, fun a ha => ?_⟩
  unfold State.poisoned W.setPoison at *
  by_cases h : stackOf a = stackOf (128 * ln)
  · rw [h] at ha ⊢
    rw [W.die_modDie_same]
    by_cases hl : a / 128 = ln <;> simp_all
  · rw [W.die_modDie_ne _ _ h]; exact ha

theorem keepsPoison_scrubLine (d : Nat) (e : Nat × Bool × BitVec 64) : KeepsPoison w (w.scrubLine d e) := by
  unfold W.scrubLine
  dsimp only
  split
  · exact (keepsPoison_errorRecord ..).trans (keepsPoison_setPoison _)
  · exact keepsPoison_errorRecord ..

theorem keepsPoison_scrubLines (d : Nat) (l : List (Nat × Bool × BitVec 64)) : ∀ w : W, KeepsPoison w (l.foldl (W.scrubLine · d ·) w) := by
  induction l with
  | nil => exact fun _ => ⟨rfl, fun _ h => h⟩
  | cons e l ih => exact fun w => (keepsPoison_scrubLine d e).trans (ih _)

/-- An uncorrectable line that the scrubber finds is poisoned. -/
theorem poisoned_scrubLine (d a : Nat) (syn : BitVec 64) : (w.scrubLine d (a, true, syn)).poisoned a = true := by
  have h := poisoned_setPoison (w := w.errorRecord d 3 0 0 (a / 128 * 128) syn.toNat) (a / 128 * 128 / 128)
  have hs : stackOf (128 * (a / 128)) = stackOf a := by unfold stackOf; omega
  simp only [Nat.mul_div_cancel _ (show 0 < 128 by decide), State.poisoned, hs, Nat.mul_div_cancel_left _ (show 0 < 128 by decide)] at h
  simpa only [W.scrubLine, if_true, State.poisoned, Nat.mul_div_cancel _ (show 0 < 128 by decide)] using h

/-- An uncorrectable line and others found in a row, of which the scrubber then takes the next. -/
theorem scrubLines_effect (d a row : Nat) (syn : BitVec 64) (l : List (Nat × Bool × BitVec 64)) :
    let w' := (((a, true, syn) :: l).foldl (W.scrubLine · d ·) w).modDie d (Die.scrubbed row)
    w'.cores = w.cores ∧ w'.pkg = w.pkg ∧ w'.poisoned a = true ∧ (w'.die d).mc.scrubRow = (row + 1) % rowsOfStack := by
  have hp := keepsPoison_scrubLines d l (w.scrubLine d (a, true, syn))
  have h1 := (keepsPoison_scrubLine d (a, true, syn)).trans hp
  dsimp only
  rw [List.foldl_cons]
  refine ⟨(W.modDie_cores ..).trans h1.cores, (W.modDie_pkg ..).trans h1.pkg, ?_, ?_⟩
  · exact (keepsPoison_modDie (f := Die.scrubbed row) fun _ => rfl).poisoned a (hp.poisoned a (poisoned_scrubLine d a syn))
  · rw [W.die_modDie_same]; rfl

/-- The same of a step from `s`, whatever free values it has drawn. -/
theorem scrubLines_next {s : State} {r : Host.Outcome State Fault Refusal} (d a row : Nat) (syn : BitVec 64)
    (l : List (Nat × Bool × BitVec 64)) (n : Nat)
    (h : r = go s ((((a, true, syn) :: l).foldl (W.scrubLine · d ·) { W.of s with free := n }).modDie d (Die.scrubbed row))) :
    ∃ t, r = .next t ∧ t.cores = s.cores ∧ t.pkg = s.pkg ∧ t.poisoned a = true ∧ (t.die d).mc.scrubRow = (row + 1) % rowsOfStack := by
  obtain ⟨hc, hk, hp, hr⟩ := scrubLines_effect (w := { W.of s with free := n }) d a row syn l
  refine ⟨_, h, ?_, ?_, ?_, ?_⟩
  · rw [W.commit_cores]; exact hc
  · rw [W.commit_pkg]; exact hk
  · rw [State.poisoned, die_commit]; exact hp
  · rw [die_commit]; exact hr

end

theorem scrubRow_uncorrectable {s : State} {d a : Nat} (syn : BitVec 64) (h : (s.die d).mc.scrub = true)
    (ha : (s.die d).mc.scrubAsked = true) (hw : s.askedHbm (agentPort 1 d) (s.scrubBase d) 1024 = false)
    (hrow : a / 1024 = s.scrubBase d / 1024) :
    ∃ t, exec (.scrubRow d [(a, true, syn)]) s = .next t ∧ t.cores = s.cores ∧ t.pkg = s.pkg ∧ t.poisoned a = true ∧
      (t.die d).mc.scrubRow = ((s.die d).mc.scrubRow + 1) % rowsOfStack := by
  have hl : s.scrubFound d [(a, true, syn)] = (a, true, syn) :: s.scrubOld d [(a, true, syn)] := by
    simp [State.scrubFound, hrow]
  have heq := scrubRow_done h ha hw [(a, true, syn)]
  rw [hl] at heq
  exact scrubLines_next d a _ syn _ _ heq

/-! ### A walk that no kept page spares -/

section
variable {s : State} {d ctx va : Nat} {l : List AgentRead}

/-- It asks for its reads. -/
theorem tableWalk_asks (h : s.gazPage d ctx va = none) (hl : l = (W.of s).walkReads d (s.ptroot d ctx) va) (ha : s.admitted l = false) :
    ∃ w, exec (.tableWalk d ctx va) s = go s w ∧ WaitsOnly (W.of s) w ∧
      ∀ e ∈ l, (w.turn e).isSome = true ∨ w.askedHbm e.1 (128 * e.2) 128 = true :=
  ⟨_, (tableWalk_eq h l hl).trans (congrArg (go s) (if_neg (by rw [ha]; decide))), waitsOnly_askReads l,
    fun _ he => askReads_asked l he (W.of s)⟩

/-- Its reads, which it has used, are forgotten; nothing else but die `d` differs. -/
def TurnsTaken (s t : State) (d : Nat) : Prop :=
  t.mem = s.mem ∧ t.cores = s.cores ∧ t.pkg = s.pkg ∧ t.clk = s.clk ∧ t.ts = s.ts ∧
    ∀ e, (t.die e).mc = { (s.die e).mc with turns := (t.die e).mc.turns } ∧ (e ≠ d → t.die e = { s.die e with mc := (t.die e).mc })

theorem tableWalk_fails {x : XErr} (h : s.gazPage d ctx va = none) (hl : l = (W.of s).walkReads d (s.ptroot d ctx) va)
    (ha : s.admitted l = true) (hw : ((W.of s).takeReads l).walk (s.ptroot d ctx) va = .error x) :
    ∃ t, exec (.tableWalk d ctx va) s = .next t ∧ TurnsTaken s t d ∧ t.die d = { s.die d with mc := (t.die d).mc } := by
  have heq := (tableWalk_eq h l hl).trans (congrArg (go s) (if_pos ha))
  rw [hw] at heq
  refine ⟨_, heq, ⟨rfl, rfl, rfl, rfl, rfl, fun e => ⟨?_, fun _ => ?_⟩⟩, ?_⟩
  all_goals rw [die_commit, die_takeReads, W.of_die]

/-- What the gazetteer's dies hold after it has taken a page. -/
theorem fillGaz_effect (w : W) (p : HeldPage) : (ctx, p) ∈ ((w.fillGaz d ctx p).die d).gaz ∧
    (w.fillGaz d ctx p).die d = { w.die d with gaz := ((w.fillGaz d ctx p).die d).gaz } ∧
    ∀ e, e ≠ d → (w.fillGaz d ctx p).die e = w.die e := by
  unfold W.fillGaz
  dsimp only
  rw [W.die_modDie_same]
  exact ⟨List.mem_append_right _ (List.mem_singleton_self _), rfl, fun e he => W.die_modDie_ne _ _ he⟩

theorem tableWalk_fills {p : HeldPage} (h : s.gazPage d ctx va = none) (hl : l = (W.of s).walkReads d (s.ptroot d ctx) va)
    (ha : s.admitted l = true) (hw : ((W.of s).takeReads l).walk (s.ptroot d ctx) va = .ok p) :
    ∃ t, exec (.tableWalk d ctx va) s = .next t ∧ TurnsTaken s t d ∧ (ctx, p) ∈ (t.die d).gaz ∧
      t.die d = { s.die d with gaz := (t.die d).gaz, mc := (t.die d).mc } := by
  have heq := (tableWalk_eq h l hl).trans (congrArg (go s) (if_pos ha))
  rw [hw] at heq
  obtain ⟨hp, hd, hne⟩ := fillGaz_effect (d := d) (ctx := ctx) ((W.of s).takeReads l) p
  refine ⟨_, heq, ⟨rfl, rfl, rfl, rfl, rfl, fun e => ?_⟩, hp, ?_⟩
  · by_cases he : e = d
    · subst he
      refine ⟨?_, fun h => absurd rfl h⟩
      rw [die_commit, hd, die_takeReads, W.of_die]
    · rw [die_commit, hne e he, die_takeReads, W.of_die]
      exact ⟨rfl, fun _ => rfl⟩
  · rw [die_commit, hd, die_takeReads, W.of_die]

end

/-- Settles O43: the walk level by level, the gazetteer's step by its reads, and each event of a controller by the one change that
it makes. -/
theorem mainMemory : Obligations.MainMemory := by
  intro s d
  refine ⟨fun root va hr hv => ⟨fun ha hp h0 => ?_, fun hf h2 h4 hm hlt => ?_, fun hf1 hf2 hf3 hb1 hb2 h41 h42 hb3 h43 hlt => ?_⟩,
    fun ctx va h => tableWalk_held (gazPage_isSome h), fun ctx va h => ?_, fun bk r ho hu hq => ?_, fun bk => ?_,
    fun hs ha hd ev => ?_, fun hs ha hw ev => scrubRow_wait hs ha hw ev, fun hs ha hw hp => ?_, fun hs ev => scrubRow_off hs ev,
    fun a syn hs ha hw hrow _ => scrubRow_uncorrectable syn hs ha hw hrow, fun v hv => ?_, fun v => ?_, fun v hv => ?_⟩
  · rw [walk_eq hr hv]
    exact walkFrom_invalid ha ((badLine_of ..).trans hp) h0
  · rw [walk_eq hr hv]
    obtain ⟨ha, hp, hres⟩ := hf
    exact walkFrom_leaf ⟨ha, (badLine_of ..).trans hp, hres⟩ h2 h4 hm hlt
  · rw [walk_eq hr hv]
    obtain ⟨ha1, hp1, hres1⟩ := hf1
    obtain ⟨ha2, hp2, hres2⟩ := hf2
    obtain ⟨ha3, hp3, hres3⟩ := hf3
    refine (walkFrom_next ⟨ha1, (badLine_of ..).trans hp1, hres1⟩ hb1 h41).trans ?_
    refine (walkFrom_next ⟨ha2, (badLine_of ..).trans hp2, hres2⟩ hb2 h42).trans ?_
    exact walkFrom_leaf ⟨ha3, (badLine_of ..).trans hp3, hres3⟩ hb3 h43 (Nat.mul_mod_left _ _) hlt
  · have hg := gazPage_none h
    refine ⟨fun ha => ?_, fun p ha hw => tableWalk_fills hg rfl ha hw, fun e ha hw => tableWalk_fails hg rfl ha hw⟩
    obtain ⟨w, heq, hw, he⟩ := tableWalk_asks hg rfl ha
    exact ⟨_, heq, ⟨W.commit_mem_same _ _ hw.out hw.zeroed, hw.cores, hw.pkg, hw.clk, hw.ts, fun e => congrArg Die.mc (hw.die e),
      fun e _ => hw.die_mc e⟩, hw.die_mc d, he⟩
  · exact changesMc_modDie (bankIdlePrecharge_closes ho hu hq) rfl
  · exact changesMc_modDie (f := fun x => { x with mc := { x.mc with openRow := Tab.put none x.mc.openRow bk none } }) rfl rfl
  · have heq := (scrubRow_ask hs ha ev).trans (congrArg (go s) (scrubAsk_eq (W.of s)))
    obtain ⟨t, ht, h⟩ := scrubAsk_effect (waitsOnly_askHbm (agentPort 1 d) (s.scrubBase d) 1024)
      (fun e he => (die_scrubAsk_ne hd he _).trans (W.die_modDie_ne _ _ he)) (scrub_asked hd _) rfl rfl
    exact ⟨t, heq.trans ht, h⟩
  · have hold : s.scrubOld d [] = [] := by
      rw [State.scrubOld, List.map_eq_nil_iff, List.filter_eq_nil_iff]
      intro a ha
      rw [hp a ha, Bool.false_and]
      decide
    have heq := scrubRow_done hs ha hw []
    rw [State.scrubFound, hold] at heq
    exact changesMc_modDie heq rfl
  · exact changesMc_modDie (f := fun x => { x with mc := x.mc.write 0x410 v }) rfl
      (congrArg (fun m => { s.die d with mc := m }) (write_ehcount _ hv))
  · exact changesMc_modDie (f := fun x => { x with mc := x.mc.write 0x408 v }) rfl
      (congrArg (fun m => { s.die d with mc := m }) (write_ehbase _ v))
  · exact changesMc_modDie (f := fun x => { x with mc := x.mc.write 0x410 v }) rfl
      (congrArg (fun m => { s.die d with mc := m }) (write_ehcount_zero _ hv))

end Sys2Proof.Machine
end

section
/-!
Survey updates and messages: what they leave of the machine (10 R234..R236; 14 R320).
-/

namespace Sys2Proof.Machine

/-! ### Only surveys and their deltas differ -/

/-- Only the surveys of dies, and the deltas on their way, differ. -/
structure SurveysOnly (w w' : W) : Prop where
  rest : w' = { w with dies := w'.dies }
  die : ∀ e, w'.die e = { w.die e with
    surveys := (w'.die e).surveys, deltas := (w'.die e).deltas, inDeltas := (w'.die e).inDeltas }

section
variable {w w' w'' : W}

theorem SurveysOnly.refl : SurveysOnly w w := ⟨rfl, fun _ => rfl⟩

theorem SurveysOnly.trans (h : SurveysOnly w w') (h' : SurveysOnly w' w'') : SurveysOnly w w'' := by
  refine ⟨?_, fun e => ?_⟩
  · conv_lhs => rw [h'.rest, h.rest]
  · conv_lhs => rw [h'.die, h.die]

theorem surveysOnly_modDie {d : Nat} {f : Die → Die}
    (hf : ∀ x, f x = { x with surveys := (f x).surveys, deltas := (f x).deltas, inDeltas := (f x).inDeltas }) :
    SurveysOnly w (w.modDie d f) := by
  refine ⟨rfl, fun e => ?_⟩
  by_cases h : e = d
  · subst h; rw [W.die_modDie_same]; exact hf _
  · rw [W.die_modDie_ne _ _ h]

theorem surveysOnly_foldl {α : Type} {f : W → α → W} (h : ∀ w a, SurveysOnly w (f w a)) (l : List α) :
    ∀ w, SurveysOnly w (l.foldl f w) := by
  induction l with
  | nil => exact fun _ => .refl
  | cons a l ih => exact fun w => (h w a).trans (ih _)

theorem surveysOnly_deliver (l : List Delta) : SurveysOnly w (w.deliver l) :=
  surveysOnly_foldl (fun _ _ => surveysOnly_modDie fun _ => rfl) l w

theorem surveysOnly_svUpdate (d n : Nat) (f : SvRec → SvRec) : SurveysOnly w (w.svUpdate d n f) := by
  unfold W.svUpdate
  dsimp only
  split
  · exact ((surveysOnly_modDie fun _ => rfl).trans (surveysOnly_deliver _)).trans (surveysOnly_modDie fun _ => rfl)
  · unfold W.setSurvey
    exact surveysOnly_modDie fun _ => rfl

theorem surveysOnly_mergeDelta (x : Delta) : SurveysOnly w (w.mergeDelta x) := surveysOnly_svUpdate _ _ _

theorem surveysOnly_flushDie (d : Nat) : SurveysOnly w (w.flushDie d) := by
  unfold W.flushDie
  refine .trans (.trans (surveysOnly_modDie fun _ => rfl) (surveysOnly_foldl (fun _ x => surveysOnly_mergeDelta x) _ _))
    (surveysOnly_foldl (fun w h => ?_) _ _)
  exact .trans (surveysOnly_modDie fun _ => rfl) (surveysOnly_foldl (fun _ x => surveysOnly_mergeDelta x) _ _)

variable (h : SurveysOnly w w')
include h

theorem SurveysOnly.mem : w'.mem = w.mem := by rw [h.rest]
theorem SurveysOnly.cores : w'.cores = w.cores := by rw [h.rest]
theorem SurveysOnly.pkg : w'.pkg = w.pkg := by rw [h.rest]
theorem SurveysOnly.count : w'.count = w.count := by rw [h.rest]
theorem SurveysOnly.out : w'.out = w.out := by rw [h.rest]
theorem SurveysOnly.zeroed : w'.zeroed = w.zeroed := by rw [h.rest]
theorem SurveysOnly.core (c : Nat) : w'.core c = w.core c := by rw [State.core, h.cores, State.core]
theorem SurveysOnly.stack (d ctx : Nat) : w'.stack d ctx = w.stack d ctx := by rw [State.stack, h.die, State.stack]

end

/-! ### Targets depend on the package alone -/

theorem target_congr {s t : State} (h : t.pkg = s.pkg) (ctx a n : Nat) : t.target ctx a n = s.target ctx a n := by
  have hc : t.coreEnabled = s.coreEnabled := by funext c; simp only [State.coreEnabled, State.clusterEnabled, h]
  simp only [State.target, State.atlasHere, State.apertureTarget, hc, h]

/-! ### An engine's at operation (11 R251; 14 R320) -/

/-- Nothing but cores, the package's messages and the surveys differs. -/
structure EngineSent (w w' : W) : Prop where
  mem : w'.mem = w.mem
  out : w'.out = w.out
  zeroed : w'.zeroed = w.zeroed
  stack : ∀ d ctx, w'.stack d ctx = w.stack d ctx

theorem engineAt_sent (w : W) (d ctx op : Nat) (v x : Word) (scope : Nat) : EngineSent w (w.engineAt d ctx op v x scope) := by
  have hf : SurveysOnly w (if 3 ≤ scope then w.flushDie d else w) := by
    split
    · exact surveysOnly_flushDie d
    · exact .refl
  unfold W.engineAt
  dsimp only
  generalize (if 3 ≤ scope then w.flushDie d else w) = w1 at hf
  have h1 : EngineSent w w1 := ⟨hf.mem, hf.out, hf.zeroed, hf.stack⟩
  have hfar : ∀ r b, EngineSent w (if (w1.remoteRefusal ctx b 5).isSome then w1
      else w1.send ctx r 1 [word op, word b, x, 0, word (scope + 8)] []) := by
    intro r b
    split
    · exact h1
    · exact ⟨h1.mem, h1.out, h1.zeroed, h1.stack⟩
  split
  · exact hfar _ _
  · split
    · exact hfar _ _
    · split
      · exact ⟨h1.mem, h1.out, h1.zeroed, h1.stack⟩
      · exact h1
    · exact h1

theorem ats_arriveAt (w : W) (o : Nat) (a : AtOp) :
    ((w.arriveAt o a).core o).ats = (w.core o).ats ++ [{ a with num := w.count }] := by
  show (Tab.get Core.reset (Tab.set _ _ _) o).ats = _
  rw [Tab.get_set_same]

/-- The operation waits at the word's home. -/
theorem engineAt_ats {w : W} {ctx b o off : Nat} {v : Word} (d op : Nat) (x : Word) (scope : Nat) (hv : v.getLsbD 58 = false)
    (ht : w.target ctx (bits v 0 48) 5 = some (.here b (.acc o off))) (ho : off % 5 = 0) :
    ((w.engineAt d ctx op v x scope).core o).ats = (w.core o).ats ++
      [{ seq := 0, op := op, addr := word b, x := x, m := 0, live := false, mute := true, ctx := ctx, src := ctx * 8 + d, num := w.count }] := by
  have hf : SurveysOnly w (if 3 ≤ scope then w.flushDie d else w) := by
    split
    · exact surveysOnly_flushDie d
    · exact .refl
  unfold W.engineAt
  dsimp only
  generalize (if 3 ≤ scope then w.flushDie d else w) = w1 at hf
  rw [if_neg (fun hx => absurd (hv.symm.trans hx.1) (by decide)), target_congr hf.pkg, ht]
  dsimp only
  rw [Loc.syncWord, if_pos ho]
  dsimp only
  rw [← hf.core o, ← hf.count]
  exact ats_arriveAt ..

end Sys2Proof.Machine
end

section
/-!
The life of a lease slot, at its borrower and at its lender (03 R88, R89).
-/

namespace Sys2Proof.Machine

/-! ### The borrower: what a step makes of a slot -/

/-- The step of `e` leaves memory and the other slots, makes `l'` of slot `i`, and adds 1 to LEVW where it is an event. -/
def SlotBecomes (s : State) (d ctx i : Nat) (e : Instr) (l' : LeaseSlot) (event : Bool) : Prop :=
  ∃ t, exec e s = .next t ∧ t.mem = s.mem ∧ (t.stack d ctx).lease i = l' ∧ (∀ j, j ≠ i → (t.stack d ctx).lease j = (s.stack d ctx).lease j) ∧
    (event = false → t.cores = s.cores) ∧
    (event = true → (s.levw d ctx).getLsbD 58 = false → ∀ b o off,
      s.target ctx (bits (s.levw d ctx) 0 48) 5 = some (.here b (.acc o off)) → off % 5 = 0 →
      (t.core o).ats = (s.core o).ats ++
        [{ seq := 0, op := 0x284, addr := word b, x := 1, m := 0, live := false, mute := true, ctx := ctx, src := ctx * 8 + d
           num := s.count }])

section
variable {s : State} {d ctx i : Nat} {e : Instr}

theorem lease_setLease_ne (w : W) {j : Nat} (l : LeaseSlot) (h : j ≠ i) :
    ((w.setLease d ctx i l).stack d ctx).lease j = (w.stack d ctx).lease j := by
  rw [W.setLease, stack_modStack]
  exact Tab.get_put_ne (d := ({} : LeaseSlot)) _ _ h

theorem leases_dropStale (w : W) (n : Nat) : ((w.dropStale d ctx i n).stack d ctx).leases = (w.stack d ctx).leases := by
  rw [W.dropStale, stack_modStack]

theorem leases_leaseGone (w : W) (l : LeaseSlot) : ((w.leaseGone d ctx l).stack d ctx).leases = (w.stack d ctx).leases := by
  rw [W.leaseGone, stack_modStack]

/-- A step that changes no core and writes nothing. -/
theorem SlotBecomes.quiet {w : W} {l' : LeaseSlot} (he : exec e s = go s w) (hout : w.out = []) (hz : w.zeroed = [])
    (hc : w.cores = s.cores) (hi : (w.stack d ctx).lease i = l')
    (hj : ∀ j, j ≠ i → (w.stack d ctx).lease j = (s.stack d ctx).lease j) : SlotBecomes s d ctx i e l' false :=
  ⟨_, he, W.commit_mem_same _ _ hout hz, hi, hj, fun _ => hc, nofun⟩

/-- A step that changes no slot and no core and writes nothing. -/
theorem SlotBecomes.same {w : W} (he : exec e s = go s w) (hout : w.out = []) (hz : w.zeroed = [])
    (hc : w.cores = s.cores) (hl : (w.stack d ctx).leases = (s.stack d ctx).leases) :
    SlotBecomes s d ctx i e ((s.stack d ctx).lease i) false :=
  .quiet he hout hz hc (congrArg (fun t => Tab.get ({} : LeaseSlot) t i) hl)
    fun j _ => congrArg (fun t => Tab.get ({} : LeaseSlot) t j) hl

/-- An entry into ACTIVE, REFUSED, NOTICE or REVOKED. -/
theorem SlotBecomes.event {l' : LeaseSlot} (he : exec e s = go s ((W.of s).leaseEvent d ctx i l')) : SlotBecomes s d ctx i e l' true := by
  have hs := engineAt_sent ((W.of s).setLease d ctx i l') d ctx 0x284 (s.levw d ctx) 1 6
  refine ⟨_, he, W.commit_mem_same _ _ hs.out hs.zeroed, ?_, fun j hj => ?_, nofun, fun _ hv b o off ht ho => ?_⟩
  · exact (congrArg (Stack.lease · i) (hs.stack d ctx)).trans (lease_setLease ..)
  · exact (congrArg (Stack.lease · j) (hs.stack d ctx)).trans (lease_setLease_ne (W.of s) l' hj)
  · exact engineAt_ats (w := (W.of s).setLease d ctx i l') d 0x284 1 6 hv ((target_congr rfl ..).trans ht) ho

end

/-! ### The borrower's steps -/

section
variable {s : State} {d ctx i : Nat}

theorem leaseGrant_enough (units base : Nat) (hf : (s.stack d ctx).isStale i ((s.stack d ctx).lease i).lender = false)
    (hst : ((s.stack d ctx).lease i).st = 1)
    (hu : ((s.stack d ctx).lease i).asked ≤ units ∨ (((s.stack d ctx).lease i).part = true ∧ 1 ≤ units)) :
    (W.of s).leaseGrant d ctx i ((s.stack d ctx).lease i).lender units base =
      (W.of s).leaseEvent d ctx i { (s.stack d ctx).lease i with st := 2, units := units, base := base } := by
  unfold W.leaseGrant
  exact (if_neg (by exact ne_true_of_eq_false hf)).trans ((if_neg (by simp [hst])).trans (if_pos hu))

theorem leaseGrant_few (units base : Nat) (hf : (s.stack d ctx).isStale i ((s.stack d ctx).lease i).lender = false)
    (hst : ((s.stack d ctx).lease i).st = 1)
    (hu : ¬ (((s.stack d ctx).lease i).asked ≤ units ∨ (((s.stack d ctx).lease i).part = true ∧ 1 ≤ units))) :
    (W.of s).leaseGrant d ctx i ((s.stack d ctx).lease i).lender units base =
      (W.of s).leaseEvent d ctx i { (s.stack d ctx).lease i with st := 3 } := by
  unfold W.leaseGrant
  exact (if_neg (by exact ne_true_of_eq_false hf)).trans ((if_neg (by simp [hst])).trans (if_neg hu))

/-- A grant that no PENDING slot waits for is returned. -/
theorem leaseGrant_unwanted (n units base : Nat)
    (h : ((s.stack d ctx).lease i).st ≠ 1 ∨ n ≠ ((s.stack d ctx).lease i).lender ∨ (s.stack d ctx).isStale i n = true) :
    SlotBecomes s d ctx i (.leaseGrant d ctx ⟨i, n⟩ units base) ((s.stack d ctx).lease i) false := by
  have he : exec (.leaseGrant d ctx ⟨i, n⟩ units base) s = go s ((W.of s).leaseGrant d ctx i n units base) := rfl
  unfold W.leaseGrant at he
  by_cases hst : (s.stack d ctx).isStale i n = true
  · rw [if_pos (by exact hst)] at he
    exact .same he rfl rfl rfl (leases_dropStale (W.of s) n)
  · rw [if_neg (by exact hst), if_pos (by
      obtain h | h | h := h
      · exact .inl h
      · exact .inr (Ne.symm h)
      · exact absurd h hst)] at he
    exact .same he rfl rfl rfl rfl

/-- A refusal that no PENDING slot waits for changes no slot. -/
theorem leaseRefuse_unwanted (n : Nat)
    (h : ((s.stack d ctx).lease i).st ≠ 1 ∨ n ≠ ((s.stack d ctx).lease i).lender ∨ (s.stack d ctx).isStale i n = true) :
    SlotBecomes s d ctx i (.leaseRefuse d ctx ⟨i, n⟩) ((s.stack d ctx).lease i) false := by
  have he : exec (.leaseRefuse d ctx ⟨i, n⟩) s = go s ((W.of s).leaseRefuse d ctx i n) := rfl
  unfold W.leaseRefuse at he
  by_cases hst : (s.stack d ctx).isStale i n = true
  · rw [if_pos (by exact hst)] at he
    exact .same he rfl rfl rfl (leases_dropStale (W.of s) n)
  · rw [if_neg (by exact hst), if_neg (by
      rintro ⟨h1, h2⟩
      obtain h | h | h := h
      · exact h h1
      · exact h h2.symm
      · exact hst h)] at he
    exact .same he rfl rfl rfl rfl

theorem leaseRefuse_fresh (hf : (s.stack d ctx).isStale i ((s.stack d ctx).lease i).lender = false)
    (hst : ((s.stack d ctx).lease i).st = 1) :
    (W.of s).leaseRefuse d ctx i ((s.stack d ctx).lease i).lender =
      (W.of s).leaseEvent d ctx i { (s.stack d ctx).lease i with st := 3 } := by
  unfold W.leaseRefuse
  exact (if_neg (by exact ne_true_of_eq_false hf)).trans (if_pos ⟨hst, rfl⟩)

/-- A released slot's range returns, or an access that the lender admitted is still open. -/
theorem leaseDrained_becomes (hst : ((s.stack d ctx).lease i).st = 6) :
    ∃ l', (l' = (s.stack d ctx).lease i ∨ l' = {}) ∧ SlotBecomes s d ctx i (.leaseDrained d ctx i) l' false := by
  have he : exec (.leaseDrained d ctx i) s = go s ((W.of s).leaseDrained d ctx i) := rfl
  unfold W.leaseDrained at he
  rw [if_neg (by exact not_not.mpr hst)] at he
  by_cases hb : bitAt (W.of s).freeWord.1 63 = true
  · rw [if_pos hb] at he
    exact ⟨_, .inl rfl, .same he rfl rfl rfl rfl⟩
  · rw [if_neg hb] at he
    let w1 := (W.of s).freeWord.2.setLease d ctx i {}
    have hg : ∀ j, ((w1.leaseGone d ctx ((s.stack d ctx).lease i)).stack d ctx).lease j = (w1.stack d ctx).lease j := fun j =>
      congrArg (fun t => Tab.get ({} : LeaseSlot) t j) (leases_leaseGone w1 _)
    exact ⟨{}, .inr rfl, .quiet he rfl rfl rfl ((hg i).trans (lease_setLease ..))
      fun j hj => (hg j).trans (lease_setLease_ne _ _ hj)⟩

end

/-! ### A range of HBM zeroed -/

theorem Mem.get_clear (m : List Host.Cell) (a n x : Nat) :
    Mem.get (Mem.clear m a n) x = if a ≤ x ∧ x < a + n then 0 else Mem.get m x := by
  unfold Mem.get Mem.clear
  induction m with
  | nil => exact (ite_self _).symm
  | cons e m ih =>
    by_cases he : a ≤ e.1 ∧ e.1 < a + n
    · rw [List.filter_cons_of_neg (by simp [he]), ih, Tab.get]
      by_cases hx : e.1 = x
      · subst hx; rw [if_pos he, if_pos he]
      · rw [if_neg hx]
    · rw [List.filter_cons_of_pos (by simp only [Bool.not_eq_true', Bool.and_eq_false_iff, decide_eq_false_iff_not]; omega), Tab.get, Tab.get]
      by_cases hx : e.1 = x
      · subst hx; rw [if_pos rfl, if_neg he, if_pos rfl]
      · rw [if_neg hx, if_neg hx, ih]

/-- A die after a range is zeroed: the lines that lie wholly in it are no longer poisoned (R77). -/
def Die.cleaned (x : Die) (a n : Nat) : Die :=
  { x with mc := { x.mc with
      poison := x.mc.poison.filter fun ln => !(decide (a ≤ 128 * ln) && decide (128 * ln + 128 ≤ a + n)) } }

theorem die_zeroHbm (w : W) (a n d : Nat) : (w.zeroHbm a n).die d = (w.die d).cleaned a n :=
  Tab.get_map (fun x => Die.cleaned x a n) rfl _ _

/-- The step from `s` to the working copy `w` zeroes `b .. b+n-1` units of HBM, and writes nothing else. -/
structure Zeroes (s : State) (w : W) (b n : Nat) : Prop where
  out : w.out = []
  zeroed : w.zeroed = [(b * 2 ^ 27, n * 2 ^ 27)]

theorem hbm_commit_zeroed {s : State} {w : W} {a n : Nat} (ho : w.out = []) (hz : w.zeroed = [(a, n)]) (x : Nat) :
    (w.commit s).hbm x = if a ≤ x ∧ x < a + n then 0 else s.hbm x := by
  rw [State.hbm, W.commit, ho, hz]
  exact Mem.get_clear ..

theorem Zeroes.inside {s : State} {w : W} {b n : Nat} (h : Zeroes s w b n) (x : Nat) (hx : b * 2 ^ 27 ≤ x)
    (hx' : x < (b + n) * 2 ^ 27) : (w.commit s).hbm x = 0 :=
  (hbm_commit_zeroed h.out h.zeroed x).trans (if_pos ⟨hx, by rwa [← Nat.add_mul]⟩)

theorem Zeroes.outside {s : State} {w : W} {b n : Nat} (h : Zeroes s w b n) (x : Nat)
    (hx : x < b * 2 ^ 27 ∨ (b + n) * 2 ^ 27 ≤ x) : (w.commit s).hbm x = s.hbm x :=
  (hbm_commit_zeroed h.out h.zeroed x).trans (if_neg (by rw [← Nat.add_mul]; omega))

/-! ### The lender -/

/-- No range's deadline has passed. -/
def State.NoDeadlinePassed (s : State) : Prop := ∀ e ∈ s.pkg.lent, ∀ u, e.2.2.2.2.2 = some u → s.ts < u

theorem reclaim_of_noDeadlinePassed {w : W} (h : w.NoDeadlinePassed) : w.reclaim = w := by
  have hf : (w.pkg.lent.filter fun e => e.2.2.2.2.2.any fun t => decide (t ≤ w.ts)) = [] := by
    refine List.filter_eq_nil_iff.mpr fun e he hany => ?_
    obtain ⟨u, hu, hle⟩ := (Option.any_eq_true ..).mp hany
    have hle := of_decide_eq_true hle
    exact absurd (h e he u hu) (by omega)
  rw [W.reclaim, hf, List.foldl_nil]

/-- A range lent: zeroed, taken from the pool and listed. -/
def W.lend (w : W) (rank ctx slot n b : Nat) : W :=
  (w.zeroHbm (b * 2 ^ 27) (n * 2 ^ 27)).modPkg fun p =>
    { p with pool := p.pool.filter fun x => !(decide (b ≤ x) && decide (x < b + n))
             lent := p.lent ++ [(rank, ctx, slot, b, n, none)] }

theorem lend_zeroes (s : State) (rank ctx slot n b : Nat) : Zeroes s ((W.of s).lend rank ctx slot n b) b n := ⟨rfl, rfl⟩

theorem cores_lend (w : W) (rank ctx slot n b : Nat) : (w.lend rank ctx slot n b).cores = w.cores := rfl

theorem die_lend (w : W) (rank ctx slot n b e : Nat) :
    (w.lend rank ctx slot n b).die e = (w.die e).cleaned (b * 2 ^ 27) (n * 2 ^ 27) :=
  die_zeroHbm w _ _ e

theorem pkg_lend (w : W) (rank ctx slot n b : Nat) : (w.lend rank ctx slot n b).pkg =
    { w.pkg with pool := w.pkg.pool.filter fun x => !(decide (b ≤ x) && decide (x < b + n))
                 lent := w.pkg.lent ++ [(rank, ctx, slot, b, n, none)] } := rfl

theorem die_leaseMsg (w : W) (ctx rank : Nat) (l : List Nat) (e : Nat) : (w.leaseMsg ctx rank l).die e = w.die e := rfl

/-- A lease message leaves all but the package's messages. -/
theorem Zeroes.leaseMsg {s : State} {w : W} {b n : Nat} (h : Zeroes s w b n) (ctx rank : Nat) (l : List Nat) :
    Zeroes s (w.leaseMsg ctx rank l) b n := ⟨h.out, h.zeroed⟩

theorem leaseRequest_lends {w : W} (h : w.NoDeadlinePassed) {n b : Nat} (rank ctx slot : Nat) (hn : 0 < n)
    (hb : poolRange w.pkg.pool n = some b) :
    w.leaseRequest rank ctx slot n false = (w.lend rank ctx slot n b).leaseMsg ctx rank [2, slot, n, b] := by
  unfold W.leaseRequest
  rw [reclaim_of_noDeadlinePassed h]
  dsimp only
  rw [if_neg Bool.false_ne_true, List.findSome?_cons, if_neg hn.ne', hb]
  rfl

theorem leaseRequest_refuses {w : W} (h : w.NoDeadlinePassed) {n : Nat} (rank ctx slot : Nat) (hb : poolRange w.pkg.pool n = none) :
    w.leaseRequest rank ctx slot n false = w.leaseMsg ctx rank [3, slot] := by
  unfold W.leaseRequest
  rw [reclaim_of_noDeadlinePassed h]
  dsimp only
  rw [if_neg Bool.false_ne_true, List.findSome?_cons, hb, Option.map_none, ite_self, List.findSome?_nil]

/-- An entry of the list of lent ranges with its deadline, where it is of the slot named. -/
def recalled (rank ctx slot u : Nat) (e : Nat × Nat × Nat × Nat × Nat × Option Nat) : Nat × Nat × Nat × Nat × Nat × Option Nat :=
  if decide (e.1 = rank) && decide (e.2.1 = ctx) && decide (e.2.2.1 = slot) then
    (e.1, e.2.1, e.2.2.1, e.2.2.2.1, e.2.2.2.2.1, some u) else e

theorem leaseRecall_lent {w : W} {rank ctx slot b n : Nat} (h : (rank, ctx, slot, b, n, none) ∈ w.pkg.lent) :
    w.leaseRecall rank ctx slot = (w.modPkg fun p =>
      { p with lent := p.lent.map (recalled rank ctx slot (w.ts + w.pkg.leaseN.toNat * 1000)) }).leaseMsg ctx rank
        [4, slot, w.pkg.leaseN.toNat] := by
  unfold W.leaseRecall
  exact if_pos (List.any_eq_true.mpr ⟨_, h, by simp⟩)

theorem takeBack_zeroes (s : State) (e : Nat × Nat × Nat × Nat × Nat × Option Nat) :
    Zeroes s ((W.of s).takeBack e) e.2.2.2.1 e.2.2.2.2.1 := ⟨rfl, rfl⟩

theorem cores_takeBack (w : W) (e : Nat × Nat × Nat × Nat × Nat × Option Nat) : (w.takeBack e).cores = w.cores := rfl

theorem pkg_takeBack (w : W) (e : Nat × Nat × Nat × Nat × Nat × Option Nat) : (w.takeBack e).pkg =
    { w.pkg with lent := w.pkg.lent.erase e
                 pool := w.pkg.pool ++ (List.range e.2.2.2.2.1).map (e.2.2.2.1 + ·) } := rfl

theorem lenderAct_back {w : W} {rank ctx slot b n : Nat} {o : Option Nat} (part : Bool) (h : w.pkg.lent = [(rank, ctx, slot, b, n, o)]) :
    w.lenderAct rank ctx slot .back part = w.takeBack (rank, ctx, slot, b, n, o) := by
  unfold W.lenderAct
  dsimp only
  rw [h, List.find?_cons_of_pos (by simp)]

/-! ### The statement -/

theorem leaseRequest_step_lends {s : State} (hdue : s.NoDeadlinePassed) {n b : Nat} (rank ctx slot : Nat) (hn : 0 < n)
    (hb : poolRange s.pkg.pool n = some b) : ∃ t, exec (.leaseRequestArrive rank ctx slot (.ask n) false) s = .next t ∧
      t.cores = s.cores ∧ (∀ e, t.die e = (s.die e).cleaned (b * 2 ^ 27) (n * 2 ^ 27)) ∧
      (∀ x, b * 2 ^ 27 ≤ x → x < (b + n) * 2 ^ 27 → t.hbm x = 0) ∧
      (∀ x, (x < b * 2 ^ 27 ∨ (b + n) * 2 ^ 27 ≤ x) → t.hbm x = s.hbm x) ∧
      t.pkg.pool = s.pkg.pool.filter (fun x => !(decide (b ≤ x) && decide (x < b + n))) ∧
      t.pkg.lent = s.pkg.lent ++ [(rank, ctx, slot, b, n, none)] := by
  have he := congrArg (go s) (leaseRequest_lends (w := W.of s) hdue rank ctx slot hn hb)
  have hz := (lend_zeroes s rank ctx slot n b).leaseMsg ctx rank [2, slot, n, b]
  have hp := pkg_lend (W.of s) rank ctx slot n b
  exact ⟨_, he, cores_lend (W.of s) rank ctx slot n b,
    fun e => (die_commit ..).trans ((die_leaseMsg ..).trans (die_lend (W.of s) ..)), hz.inside, hz.outside,
    congrArg Pkg.pool hp, congrArg Pkg.lent hp⟩

/-- Settles O45: the borrower's steps are entries of `SlotBecomes`, the lender's zero the range that they lend or take back. -/
theorem leases : Obligations.Leases := by
  unfold Obligations.Leases
  intro s d ctx i
  refine ⟨fun units base hf hst hu => SlotBecomes.event (congrArg (go s) (leaseGrant_enough units base hf hst hu)),
    fun units base hf hst hu => SlotBecomes.event (congrArg (go s) (leaseGrant_few units base hf hst hu)),
    fun n units base h => ⟨leaseGrant_unwanted n units base h, leaseRefuse_unwanted n h⟩,
    fun hf hst => SlotBecomes.event (congrArg (go s) (leaseRefuse_fresh hf hst)),
    fun n hst => SlotBecomes.event (congrArg (go s) (if_pos hst)),
    fun hst hd => SlotBecomes.event (congrArg (go s) (if_pos ⟨hst, hd⟩)),
    fun hst hd => (congrArg (go s) (if_neg fun h => absurd h.2 (Nat.not_le.mpr hd))).trans rfl,
    leaseDrained_becomes,
    fun hst => (congrArg (go s) (if_pos hst)).trans rfl, ?_, ?_, ?_, ?_⟩
  case refine_1 =>
    exact fun rank slot n b hdue hn hb _ => leaseRequest_step_lends hdue rank ctx slot hn hb
  case refine_2 =>
    intro rank slot n hdue hb
    exact ⟨_, congrArg (go s) (leaseRequest_refuses (w := W.of s) hdue rank ctx slot hb), rfl, rfl, rfl, rfl, rfl⟩
  case refine_3 =>
    intro rank slot b n part h
    refine ⟨_, congrArg (go s) (leaseRecall_lent (w := W.of s) h), rfl, rfl, rfl, rfl, ?_⟩
    exact List.mem_map.mpr ⟨_, h, by simp [recalled]⟩
  case refine_4 =>
    intro rank slot b n o part h _
    have hz := takeBack_zeroes s (rank, ctx, slot, b, n, o)
    have hp := pkg_takeBack (W.of s) (rank, ctx, slot, b, n, o)
    refine ⟨_, congrArg (go s) (lenderAct_back (w := W.of s) part h), cores_takeBack (W.of s) (rank, ctx, slot, b, n, o), ?_, congrArg Pkg.pool hp,
      hz.inside, hz.outside⟩
    exact (congrArg Pkg.lent hp).trans (by rw [W.of_pkg, h, List.erase_cons_head])

end Sys2Proof.Machine
end

section
/-!
Copies that stop (03 R81; 04 R104).
-/

namespace Sys2Proof.Machine

/-! ### A privileged copy into the error ring's base register (03 R79) -/

/-- The atlas address of EHBASE of die 0 (03 R79). -/
def ehbaseAtlas : Nat := 2 ^ 45 + 0x200408
/-- The template of the copy: one byte, from atlas address 0 to EHBASE. -/
def ringTpl : Tpl := BitVec.ofNat 3072 (ehbaseAtlas * 2 ^ 64 + 2 ^ 332 + 2 ^ 334)
/-- The copy with its element landed, source line 0 having been read again once. -/
def ringCopy : Copy :=
  { tpl := 0, img := ringTpl, soff := 0, doff := 0, checked := true, priv := true, reading := [{ dst := .here ehbaseAtlas }], crc := [0] }
/-- The window table entry that lets engines write the line of EHBASE. -/
def ringWindow : BitVec 128 := BitVec.ofNat 128 (2 ^ 45 + 0x200400 + 2 ^ 95 + 2 ^ 91 + 2 ^ 89)
/-- The state: core 0's channel 0 runs the copy. -/
def ringState : State :=
  { cores := [(0, ({} : Core).setChan 0 { st := 2, act := some ringCopy })]
    dies := [(0, { windows := [(0, ringWindow)] })] }

/-- The head of die 0's error ring after a step. -/
def headAfter (o : Host.Outcome State Fault Refusal) : Option Nat :=
  match o with
  | .next t => some (t.die 0).mc.ehhead.toNat
  | _ => none

/-- The second mismatch stops the copy, which leaves EHBASE undefined: the write of the free value returns the head to 0. -/
theorem headAfter_ringState : headAfter (exec (.landingCrcRetry 0 0 { n := 0, syn := 0 }) ringState) = some 0 := by
  decide +kernel

/-- Refutes O42: a second CRC mismatch need not move the head of the error ring on. A privileged copy whose destination is EHBASE
of the landing die stops, its destination becomes undefined (R104), and the write of EHBASE returns the head to 0 (R79). -/
theorem not_copyStops : ¬ Obligations.CopyStops := by
  unfold Obligations.CopyStops
  intro h
  obtain ⟨_, _, _, hcrc, _⟩ := h ringState 0 0 ringCopy (by decide) rfl rfl
  obtain ⟨_, hsecond⟩ := hcrc 0 { dst := .here ehbaseAtlas } 0 (by decide +kernel) rfl
  obtain ⟨t, ht, _, _, _, hhead, _⟩ := hsecond (by decide +kernel)
  have h0 : (t.die 0).mc.ehhead.toNat = 0 := Option.some.inj ((congrArg headAfter ht).symm.trans headAfter_ringState)
  have hd : ({ dst := .here ehbaseAtlas } : Elem).landDie 0 = 0 := by decide +kernel
  rw [hd] at hhead
  exact absurd (h0.symm.trans hhead) (by decide +kernel)

end Sys2Proof.Machine
end

section
/-!
The controller's admission of a request (03 R74, R78; 14 R327).
-/

namespace Sys2Proof.Machine

/-! ### A host read whose bytes lie in another line than the one it asks for -/

/-- The request: line 0, for the byte at 128. No host access makes it (14 R327); the statement ranges over every state. -/
def strayReq : HbmReq := { src := 0, line := 0, write := false, who := .host 128 1 }
/-- The state: the request waits alone, line 1 is poisoned. -/
def strayState : State := { dies := [(0, { mc := { waiting := [(0, [strayReq])], poison := [1] } })] }

/-- How many requests wait for pseudo-channel 0 of die 0 after a step. -/
def waitingAfter (o : Host.Outcome State Fault Refusal) : Option Nat :=
  match o with
  | .next t => some (Tab.get [] (t.die 0).mc.waiting 0).length
  | _ => none

/-- The poisoned line read is recorded in the error ring, at address 0 after reset: a new request of the same pseudo-channel. -/
theorem waitingAfter_strayState : waitingAfter (exec (.hbmAdmit 0 { n := 0 }) strayState) = some 1 := by
  decide +kernel

/-- Refutes O41: that nothing waits after the only waiting request, of a line that is not poisoned, is admitted fails where the
bytes asked for lie in another line, which is poisoned: the admission writes an error record, whose request waits in its turn. -/
theorem not_copyMoves : ¬ Obligations.CopyMoves := by
  unfold Obligations.CopyMoves
  intro h
  obtain ⟨_, _, hadmit, _⟩ := h strayState 0 0 (by decide) (by decide)
  obtain ⟨t, ht, _, hwait, _⟩ := hadmit 0 0 strayReq rfl (by decide)
  have h1 := (congrArg waitingAfter ht).symm.trans waitingAfter_strayState
  rw [waitingAfter, hwait (by decide +kernel)] at h1
  exact absurd h1 (by decide)

end Sys2Proof.Machine
end

section
/-!
Requests admitted by a controller: what is left of the machine, what reaches memory (03 R74, R75).
-/

namespace Sys2Proof.Machine

/-! ### Bytes written one after another -/

theorem Mem.get_writes_of_ne (l : List Host.Cell) {z : Nat} (h : ∀ e ∈ l, e.1 ≠ z) : ∀ m, Mem.get (Mem.writes m l) z = Mem.get m z := by
  induction l with
  | nil => exact fun _ => rfl
  | cons e l ih =>
    intro m
    have hz : ¬ (z = e.1 ∧ e.1 < Config.hbmBytes) := fun hx => h e List.mem_cons_self hx.1.symm
    exact (ih (fun x hx => h x (List.mem_cons_of_mem _ hx)) _).trans ((Mem.get_put ..).trans (if_neg hz))

theorem Mem.get_writes_of_mem (l : List Host.Cell) {z : Nat} {b : Byte} (hn : (l.map (·.1)).Nodup) (h : (z, b) ∈ l)
    (hz : z < Config.hbmBytes) : ∀ m, Mem.get (Mem.writes m l) z = b := by
  induction l with
  | nil => cases h
  | cons e l ih =>
    intro m
    obtain ⟨he, hl⟩ := List.nodup_cons.mp hn
    rcases List.mem_cons.mp h with rfl | h
    · refine (Mem.get_writes_of_ne l (fun x hx hxz => he ?_) _).trans ((Mem.get_put ..).trans (if_pos ⟨rfl, hz⟩))
      exact List.mem_map.mpr ⟨x, hx, hxz⟩
    · exact ih hl h _

/-! ### A write performed -/

/-- The bytes of `l` are written, and poison may be gone; nothing else differs. -/
structure WritesOnly (w w' : W) (l : List (Nat × Byte)) : Prop where
  rest : w' = { w with dies := w'.dies, out := w'.out }
  out : w'.out = l.reverse ++ w.out
  die : ∀ e, w'.die e = { w.die e with mc := { (w.die e).mc with poison := (w'.die e).mc.poison } }

section
variable {w w' : W} {l : List (Nat × Byte)}

theorem die_setPoison (w : W) (ln : Nat) (on : Bool) (e : Nat) : (w.setPoison ln on).die e =
    { w.die e with mc := { (w.die e).mc with poison := ((w.setPoison ln on).die e).mc.poison } } := by
  unfold W.setPoison
  by_cases h : e = stackOf (128 * ln)
  · rw [h, W.die_modDie_same]
  · rw [W.die_modDie_ne _ _ h]

theorem writesOnly_hbmWrite (w : W) (l : List (Nat × Byte)) : WritesOnly w (w.hbmWrite l) l := by
  unfold W.hbmWrite
  dsimp only
  split
  · exact ⟨rfl, rfl, fun _ => rfl⟩
  · split
    · exact ⟨rfl, rfl, fun e => die_setPoison ..⟩
    · exact ⟨rfl, rfl, fun _ => rfl⟩

theorem hbmPut_plain {q : HbmReq} (hw : q.whole = false) (hb : q.bad = false) : w.hbmPut q = w.hbmWrite q.data := by
  unfold W.hbmPut
  dsimp only
  rw [hw, hb, if_neg Bool.false_ne_true, if_neg Bool.false_ne_true]

variable (h : WritesOnly w w' l)
include h

theorem WritesOnly.cores : w'.cores = w.cores := by rw [h.rest]
theorem WritesOnly.pkg : w'.pkg = w.pkg := by rw [h.rest]
theorem WritesOnly.zeroed : w'.zeroed = w.zeroed := by rw [h.rest]
theorem WritesOnly.waiting (e : Nat) : (w'.die e).mc.waiting = (w.die e).mc.waiting := by rw [h.die]

theorem WritesOnly.commit_mem (s : State) (ho : w.out = []) (hz : w.zeroed = []) : (w'.commit s).mem = Mem.writes s.mem l := by
  rw [W.commit, h.zeroed, hz, h.out, ho, List.append_nil, List.reverse_reverse, List.foldr_nil]

end

/-! ### Bytes of an access that lie in a line -/

/-- The bytes `l` from `a` that lie in line `ln`, with their addresses. -/
def accessCells (a : Nat) (l : List Byte) (ln : Nat) : List (Nat × Byte) :=
  (((List.range l.length).zip l).map fun e => (a + e.1, e.2)).filter fun e => decide (e.1 / 128 = ln)

theorem mem_accessCells {a ln : Nat} {l : List Byte} {e : Nat × Byte} :
    e ∈ accessCells a l ln ↔ ∃ q, l[q]? = some e.2 ∧ a + q = e.1 ∧ e.1 / 128 = ln := by
  simp only [accessCells, List.mem_filter, List.mem_map, decide_eq_true_eq, Prod.exists]
  constructor
  · rintro ⟨⟨q, b, hz, rfl⟩, hl⟩
    obtain ⟨i, hi⟩ := List.mem_iff_getElem?.mp hz
    obtain ⟨hq, hb⟩ := List.getElem?_zip_eq_some.mp hi
    obtain ⟨_, rfl⟩ := List.getElem?_eq_some_iff.mp hq
    exact ⟨i, hb, by rw [List.getElem_range], hl⟩
  · rintro ⟨q, hq, ha, hl⟩
    refine ⟨⟨q, e.2, List.mem_iff_getElem?.mpr ⟨q, List.getElem?_zip_eq_some.mpr ⟨?_, hq⟩⟩, Prod.ext ha rfl⟩, hl⟩
    exact List.getElem?_range (List.getElem?_eq_some_iff.mp hq).1

theorem nodup_accessCells (a : Nat) (l : List Byte) (ln : Nat) : ((accessCells a l ln).map (·.1)).Nodup := by
  have hs : ((accessCells a l ln).map (·.1)).Sublist ((List.range l.length).map (a + ·)) := by
    have he : (((List.range l.length).zip l).map fun e => (a + e.1, e.2)).map (·.1) = (List.range l.length).map (a + ·) := by
      conv_rhs => rw [← List.map_fst_zip (l₁ := List.range l.length) (l₂ := l) (by rw [List.length_range]), List.map_map]
      exact List.map_map
    rw [← he]
    exact List.filter_sublist.map _
  exact hs.nodup (List.nodup_range.map fun _ _ h => Nat.add_left_cancel h)

/-- The bytes of an access in a line are written: each byte of it there, and nothing else. -/
theorem writes_accessCells (m : List Host.Cell) {a ln : Nat} {l : List Byte} (h : a + l.length ≤ Config.hbmBytes) :
    (∀ q b, l[q]? = some b → (a + q) / 128 = ln → Mem.get (Mem.writes m (accessCells a l ln)) (a + q) = b) ∧
      ∀ z, (z < a ∨ a + l.length ≤ z ∨ z / 128 ≠ ln) → Mem.get (Mem.writes m (accessCells a l ln)) z = Mem.get m z := by
  refine ⟨fun q b hq hl => ?_, fun z hz => ?_⟩
  · have hlt := (List.getElem?_eq_some_iff.mp hq).1
    exact Mem.get_writes_of_mem _ (nodup_accessCells a l ln) (mem_accessCells.mpr ⟨q, hq, rfl, hl⟩)
      (Nat.lt_of_lt_of_le (Nat.add_lt_add_left hlt a) h) m
  · refine Mem.get_writes_of_ne _ (fun e he hez => ?_) m
    obtain ⟨q, hq, ha, hl⟩ := mem_accessCells.mp he
    have hlt := (List.getElem?_eq_some_iff.mp hq).1
    subst hez
    omega

/-! ### A request alone at its pseudo-channel -/

/-- A die after request `q` has left those that wait for a pseudo-channel and joined its queue. -/
def Die.admitting (pc : Nat) (q : HbmReq) (ts : Nat) (x : Die) : Die :=
  { x with mc := { x.mc with
      waiting := Tab.put [] x.mc.waiting pc ((Tab.get [] x.mc.waiting pc).erase q)
      queues := Tab.put [] x.mc.queues pc (Tab.get [] x.mc.queues pc ++ [{ q with age := ts }])
      port := Tab.put 0 x.mc.port pc q.src } }

/-- What the admission of a request does, by who asks. -/
def W.performReq (w : W) (q : HbmReq) (ev : Option ReadEvent) : W :=
  match q.who with
  | .far x => w.fabricPart x q ev
  | .host a n => if q.write then w.hbmPut q else w.hostPart a n q ev
  | .agent =>
    if q.write then w.hbmPut q
    else if q.src < agentPort 0 0 then w.readLine q.src q.line ev
    else w.giveTurn q ev

theorem nextPort_singleton (last : Nat) (q : HbmReq) : nextPort last [q] = some q := by
  unfold nextPort
  by_cases h : last < q.src
  · rw [List.filter_cons_of_pos (by simpa using h)]; rfl
  · rw [List.filter_cons_of_neg (by simpa using h)]; rfl

theorem hbmAdmit_alone {w : W} {d pc : Nat} {q : HbmReq} (ev : Option ReadEvent) (hw : Tab.get [] (w.die d).mc.waiting pc = [q])
    (hq : (Tab.get [] (w.die d).mc.queues pc).length < 32) :
    w.hbmAdmit d pc ev = (w.modDie d (Die.admitting pc q w.ts)).performReq q ev := by
  unfold W.hbmAdmit
  dsimp only
  rw [hw, nextPort_singleton]
  dsimp only
  rw [if_neg (Nat.not_le.mpr hq)]
  simp only [W.modDie, Die.admitting, hw]
  rfl

/-- The working copy in which the only waiting request of a pseudo-channel has joined its queue. -/
structure Admitting (s : State) (d pc : Nat) (w : W) : Prop where
  rest : w = { W.of s with dies := w.dies }
  poisoned : ∀ a, w.poisoned a = s.poisoned a
  waiting : Tab.get [] (w.die d).mc.waiting pc = []

theorem admitting_modDie {s : State} {d pc : Nat} {q : HbmReq} (hw : Tab.get [] (s.die d).mc.waiting pc = [q]) :
    Admitting s d pc ((W.of s).modDie d (Die.admitting pc q s.ts)) := by
  refine ⟨rfl, fun a => ?_, ?_⟩
  · unfold State.poisoned
    by_cases h : stackOf a = d
    · rw [h, W.die_modDie_same]; rfl
    · rw [W.die_modDie_ne _ _ h]; rfl
  · rw [W.die_modDie_same]
    refine (Tab.get_put_same ..).trans ?_
    rw [show (W.of s).die d = s.die d from rfl, hw, List.erase_cons_head]

section
variable {s : State} {d pc : Nat} {w : W} (h : Admitting s d pc w)
include h

theorem Admitting.mem : w.mem = s.mem := by rw [h.rest]; rfl
theorem Admitting.cores : w.cores = s.cores := by rw [h.rest]; rfl
theorem Admitting.pkg : w.pkg = s.pkg := by rw [h.rest]; rfl
theorem Admitting.ts : w.ts = s.ts := by rw [h.rest]; rfl
theorem Admitting.out : w.out = [] := by rw [h.rest]; rfl
theorem Admitting.zeroed : w.zeroed = [] := by rw [h.rest]; rfl

end

/-- The admission of `r` alone leaves the cores and no waiting request, and gives a state with `post`. -/
def Admits (s : State) (r : HbmReq) (post : State → Prop) : Prop :=
  ∀ d pc, Tab.get [] (s.die d).mc.waiting pc = [r] → (Tab.get [] (s.die d).mc.queues pc).length < 32 →
    ∃ t, exec (.hbmAdmit d { n := pc, ev := none }) s = .next t ∧ t.cores = s.cores ∧ Tab.get [] (t.die d).mc.waiting pc = [] ∧ post t

/-- An admission that goes on to a working copy with the same cores and waiting requests. -/
theorem admits_of {s : State} {r : HbmReq} {post : State → Prop} (h : ∀ d pc w, Admitting s d pc w →
    ∃ w', w.performReq r none = w' ∧ w'.cores = w.cores ∧ (w'.die d).mc.waiting = (w.die d).mc.waiting ∧ post (w'.commit s)) :
    Admits s r post := by
  intro d pc hw hq
  have ha := admitting_modDie hw
  obtain ⟨w', hw', hc, hwait, hpost⟩ := h d pc _ ha
  refine ⟨w'.commit s, congrArg (go s) ((hbmAdmit_alone (w := W.of s) none hw hq).trans hw'), ?_, ?_, hpost⟩
  · rw [W.commit_cores, hc, ha.cores]
  · rw [die_commit, hwait, ha.waiting]

/-- Bytes in memory after a write of an access's bytes in a line. -/
def Stored (s : State) (a : Nat) (l : List Byte) (ln : Nat) (t : State) : Prop :=
  t.pkg = s.pkg ∧ (∀ q b, l[q]? = some b → (a + q) / 128 = ln → t.hbm (a + q) = b) ∧
    ∀ z, (z < a ∨ a + l.length ≤ z ∨ z / 128 ≠ ln) → t.hbm z = s.hbm z

/-- An admitted write of an access's bytes in a line stores them. -/
theorem admits_write {s : State} {r : HbmReq} {a ln : Nat} {l : List Byte} (hp : ∀ w : W, w.pkg = s.pkg → w.ts = s.ts →
      w.performReq r none = w.hbmPut r) (hd : r.data = accessCells a l ln)
    (hwhole : r.whole = false) (hbad : r.bad = false) (h : a + l.length ≤ Config.hbmBytes) : Admits s r (Stored s a l ln) := by
  refine admits_of fun d pc w hw => ⟨w.hbmWrite r.data, (hp w hw.pkg hw.ts).trans (hbmPut_plain hwhole hbad), ?_⟩
  have ho := writesOnly_hbmWrite w r.data
  have hm := ho.commit_mem s hw.out hw.zeroed
  obtain ⟨hin, hout⟩ := writes_accessCells s.mem (ln := ln) h
  rw [hd] at hm ho ⊢
  refine ⟨ho.cores, ho.waiting d, ho.pkg.trans hw.pkg, fun q b hq hl => ?_, fun z hz => ?_⟩
  · rw [State.hbm, hm]; exact hin q b hq hl
  · rw [State.hbm, hm]; exact hout z hz

/-! ### A read of a line that is correct -/

theorem readRecord_clean {w : W} {pa : Nat} (d src who : Nat) (h : w.poisoned pa = false) : w.readRecord d src who pa none = (true, w) := by
  unfold W.readRecord
  dsimp only
  rw [h, if_neg Bool.false_ne_true]

theorem bytes_of_out_nil {w : W} (h : w.out = []) (a n : Nat) : w.bytes a n = (List.range n).map fun i => Mem.get w.mem (a + i) := by
  unfold W.bytes W.byte
  rw [h]
  rfl

/-- An admission that changes the package registers alone. -/
theorem admits_pkg {s : State} {r : HbmReq} {p : Pkg} (h : ∀ d pc w, Admitting s d pc w → w.performReq r none = w.modPkg fun _ => p) :
    Admits s r fun t => t.mem = s.mem ∧ t.pkg = p :=
  admits_of fun d pc w hw => ⟨_, h d pc w hw, rfl, rfl, W.commit_mem_same _ _ hw.out hw.zeroed, rfl⟩

end Sys2Proof.Machine
end

section
/-!
The fabric: links, accesses of other packages, the host window (14 R317..R327; 03 R89).
-/

namespace Sys2Proof.Machine

/-! ### Links -/

/-- A step that changes the package registers alone. -/
theorem onlyPkg_modPkg (s : State) (f : Pkg → Pkg) : OnlyPkg s (((W.of s).modPkg f).commit s) := ⟨rfl, rfl, rfl, rfl, rfl⟩

theorem onlyPkg_step {s : State} {i : Instr} {f : Pkg → Pkg} (he : exec i s = go s ((W.of s).modPkg f)) :
    ∃ t, exec i s = .next t ∧ OnlyPkg s t ∧ t.pkg = f s.pkg := ⟨_, he, onlyPkg_modPkg s f, rfl⟩

/-- A step that leaves the package registers as they are. -/
theorem next_of_samePkg {s : State} {f : Pkg → Pkg} (h : f s.pkg = s.pkg) : go s ((W.of s).modPkg f) = .next s := by
  show Host.Outcome.next { s with pkg := f s.pkg } = _
  rw [h]

/-- A link register after link `n` has left it. -/
theorem getLsbD_link_down {k : Nat} (v : BitVec k) {n : Nat} (hn : n < k) (i : Nat) :
    (setBits v n 1 0).getLsbD i = (v.getLsbD i && decide (i ≠ n)) := by
  rw [getLsbD_setBits v 0 i (by omega)]
  by_cases h : i = n
  · rw [if_pos (by omega), Nat.zero_testBit, decide_eq_false (by simpa using h), Bool.and_false]
  · rw [if_neg (by omega), decide_eq_true h, Bool.and_true]

/-! ### Refusals and answers -/

/-- The package after an access is answered. -/
def Pkg.answering (p : Pkg) (x : FabricAccess) (kind v : Nat) (l : List Byte) : Pkg :=
  { p with outbox := p.outbox ++ [{ rank := x.rank, kind := kind, body := [x.dcid.zeroExtend 64, word x.agent, word v], bytes := l }] }

theorem fabricAnswer_eq (w : W) (x : FabricAccess) (kind v : Nat) (l : List Byte) :
    w.fabricAnswer x kind v l = w.modPkg fun p => p.answering x kind v l := rfl

/-- An access whose step is an answer changes the package registers alone. -/
theorem access_answered {s : State} {x : FabricAccess} {kind v : Nat} {l : List Byte}
    (h : (W.of s).fabricAccess x = (W.of s).fabricAnswer x kind v l) :
    ∃ t, exec (.fabricAccessArrive x) s = .next t ∧ OnlyPkg s t ∧ t.pkg = s.pkg.answering x kind v l :=
  onlyPkg_step (f := fun p => p.answering x kind v l) (congrArg (go s) h)

theorem fabricAccess_noDcid {w : W} {x : FabricAccess} (h : ∀ j, j < 64 → w.dcidValid x.wing j x.dcid.toNat = false) :
    w.fabricAccess x = w.fabricAnswer x 9 6 [] := by
  have hn : w.dcidCtx x.wing x.dcid.toNat = none :=
    List.find?_eq_none.mpr fun j hj => ne_true_of_eq_false (h j (List.mem_range.mp hj))
  unfold W.fabricAccess
  rw [hn]
  rfl

section
variable {w : W} {x : FabricAccess} {ctx : Nat}

theorem fabricAccess_hbm (h : w.dcidCtx x.wing x.dcid.toNat = some ctx) (hh : x.hbm = true) :
    w.fabricAccess x = w.fabricHbm x := by
  unfold W.fabricAccess
  rw [h]
  exact if_pos hh

theorem fabricAccess_atlas (h : w.dcidCtx x.wing x.dcid.toNat = some ctx) (hh : x.hbm = false) :
    w.fabricAccess x = w.fabricAtlas ctx x := by
  unfold W.fabricAccess
  rw [h]
  exact if_neg (ne_true_of_eq_false hh)

/-! ### Accesses to HBM: a request for each line -/

/-- The request for a line of an access. -/
def farReq (x : FabricAccess) (write : Bool) (l : List Byte) (b : Nat) : HbmReq :=
  { src := agentPort 3 (stackOf b), line := b / 128, write := write, who := .far x, data := accessCells x.addr l (b / 128) }

/-- The requests for the lines of an access are made. -/
def W.askLines (w : W) (x : FabricAccess) (n : Nat) (write : Bool) (l : List Byte) : W :=
  (lineAddrs x.addr n).foldl (fun w b => w.hbmAsk (farReq x write l b)) w

theorem fabricHbm_write {l : List Byte} (h : x.op = .write l) : w.fabricHbm x = w.askLines x l.length true l := by
  unfold W.fabricHbm
  rw [h]
  rfl

theorem fabricHbm_read {n : Nat} (h : x.op = .read n) : w.fabricHbm x = w.askLines x n false [] := by
  unfold W.fabricHbm
  rw [h]
  rfl

theorem fabricHbm_atomic {op : Nat} {p q : Word} (h : x.op = .atomic op p q) : w.fabricHbm x = w.fabricAnswer x 9 9 [] := by
  unfold W.fabricHbm
  rw [h]

theorem waitsOnly_askLines (n : Nat) (write : Bool) (l : List Byte) : WaitsOnly w (w.askLines x n write l) :=
  waitsOnly_foldl (fun _ _ => waitsOnly_hbmAsk _) _ w

theorem askLines_waits {n b : Nat} (write : Bool) (l : List Byte) (hb : b ∈ lineAddrs x.addr n) :
    farReq x write l b ∈ Tab.get [] ((w.askLines x n write l).die (stackOf b)).mc.waiting (pcOf b) := by
  have hw := waits_foldl (f := fun w b => w.hbmAsk (farReq x write l b)) (q := farReq x write l b)
    (fun _ _ => waitsOnly_hbmAsk _) (fun w => waits_hbmAsk w _) _ hb w
  obtain ⟨i, -, rfl⟩ := List.mem_map.mp hb
  have hl : 128 * ((x.addr / 128 + i) * 128 / 128) = (x.addr / 128 + i) * 128 := by omega
  unfold Waits at hw
  rw [farReq] at hw
  dsimp only at hw
  rwa [hl] at hw

end

/-- An access to HBM asks for its lines and changes nothing else. -/
theorem access_asks {s : State} {x : FabricAccess} {n : Nat} {write : Bool} {l : List Byte}
    (h : (W.of s).fabricAccess x = (W.of s).askLines x n write l) :
    ∃ t, exec (.fabricAccessArrive x) s = .next t ∧ t.mem = s.mem ∧ t.cores = s.cores ∧ t.pkg = s.pkg ∧
      (∀ e, t.die e = { s.die e with mc := { (s.die e).mc with waiting := (t.die e).mc.waiting } }) ∧
      ∀ b ∈ lineAddrs x.addr n, farReq x write l b ∈ Tab.get [] (t.die (stackOf b)).mc.waiting (pcOf b) := by
  have ho := waitsOnly_askLines (w := W.of s) (x := x) n write l
  exact ⟨_, congrArg (go s) h, W.commit_mem_same _ _ ho.out ho.zeroed, ho.cores, ho.pkg, ho.die, fun b hb => askLines_waits write l hb⟩

/-! ### Their admission -/

section
variable {s : State} {x : FabricAccess} {ln src : Nat}

theorem lentTo_congr {s t : State} (hp : t.pkg = s.pkg) (ht : t.ts = s.ts) (rank a n : Nat) : t.lentTo rank a n = s.lentTo rank a n := by
  rw [State.lentTo, State.lentTo, hp, ht]

theorem fabricPart_write {w : W} {q : HbmReq} {l : List Byte} (hx : x.op = .write l) (hq : q.write = true)
    (h : w.lentTo x.rank (lineCut x.addr l.length q.line).1 (lineCut x.addr l.length q.line).2 = true) :
    w.fabricPart x q none = w.hbmPut q := by
  unfold W.fabricPart
  dsimp only
  rw [hx]
  dsimp only
  rw [h, if_neg (by simp), if_pos hq]

theorem fabricPart_write_refused {w : W} {q : HbmReq} {l : List Byte} (hx : x.op = .write l)
    (h : w.lentTo x.rank (lineCut x.addr l.length q.line).1 (lineCut x.addr l.length q.line).2 = false) :
    w.fabricPart x q none = w.fabricAnswer x 9 7 [] := by
  unfold W.fabricPart
  dsimp only
  rw [hx]
  dsimp only
  rw [h, if_pos (show (!false) = true from rfl)]

theorem fabricPart_read_refused {w : W} {q : HbmReq} {n : Nat} (hx : x.op = .read n)
    (h : w.lentTo x.rank (lineCut x.addr n q.line).1 (lineCut x.addr n q.line).2 = false) :
    w.fabricPart x q none = w.fabricAnswer x 9 7 [] := by
  unfold W.fabricPart
  dsimp only
  rw [hx]
  dsimp only
  rw [h, if_pos (show (!false) = true from rfl)]

theorem fabricPart_read {w : W} {q : HbmReq} {n : Nat} (hx : x.op = .read n) (hq : q.write = false)
    (h : w.lentTo x.rank (lineCut x.addr n q.line).1 (lineCut x.addr n q.line).2 = true)
    (hp : w.poisoned (lineCut x.addr n q.line).1 = false) :
    w.fabricPart x q none = w.fabricAnswer x 8 ((lineCut x.addr n q.line).1 - x.addr)
      (w.bytes (lineCut x.addr n q.line).1 (lineCut x.addr n q.line).2) := by
  unfold W.fabricPart
  dsimp only
  rw [hx]
  dsimp only
  rw [h, if_neg (by simp), hq, if_neg Bool.false_ne_true, readRecord_clean _ _ _ hp]
  exact if_pos rfl

/-- A lent line's write lands. -/
theorem admits_far_write {l : List Byte} (hx : x.op = .write l) (h : x.addr + l.length ≤ Config.hbmBytes)
    (hl : s.lentTo x.rank (lineCut x.addr l.length ln).1 (lineCut x.addr l.length ln).2 = true) :
    Admits s { src := src, line := ln, write := true, who := .far x, data := accessCells x.addr l ln } (Stored s x.addr l ln) :=
  admits_write (fun _ hp ht => fabricPart_write hx rfl ((lentTo_congr hp ht ..).trans hl)) rfl rfl rfl h

/-- An answered admission changes the package registers alone. -/
theorem admits_answer {r : HbmReq} {kind v : Nat} {l : List Byte}
    (h : ∀ d pc w, Admitting s d pc w → w.performReq r none = w.fabricAnswer x kind v l) :
    Admits s r fun t => t.mem = s.mem ∧ t.pkg = s.pkg.answering x kind v l :=
  admits_pkg fun d pc w hw => (h d pc w hw).trans (by rw [fabricAnswer_eq, W.modPkg, W.modPkg, hw.pkg])

theorem admits_far_write_refused {l : List Byte} {cells : List (Nat × Byte)} (hx : x.op = .write l)
    (hl : s.lentTo x.rank (lineCut x.addr l.length ln).1 (lineCut x.addr l.length ln).2 = false) :
    Admits s { src := src, line := ln, write := true, who := .far x, data := cells }
      fun t => t.mem = s.mem ∧ t.pkg = s.pkg.answering x 9 7 [] :=
  admits_answer fun _ _ _ hw => fabricPart_write_refused hx ((lentTo_congr hw.pkg hw.ts ..).trans hl)

theorem admits_far_read_refused {n : Nat} (hx : x.op = .read n)
    (hl : s.lentTo x.rank (lineCut x.addr n ln).1 (lineCut x.addr n ln).2 = false) :
    Admits s { src := src, line := ln, write := false, who := .far x }
      fun t => t.mem = s.mem ∧ t.pkg = s.pkg.answering x 9 7 [] :=
  admits_answer fun _ _ _ hw => fabricPart_read_refused hx ((lentTo_congr hw.pkg hw.ts ..).trans hl)

/-- Bytes that an admitted read finds in memory. -/
theorem Admitting.bytes {d pc : Nat} {w : W} (h : Admitting s d pc w) (a n : Nat) :
    w.bytes a n = (List.range n).map fun i => s.hbm (a + i) := by
  rw [bytes_of_out_nil h.out, h.mem]
  rfl

/-- A lent line's bytes are sent back. -/
theorem admits_far_read {n : Nat} (hx : x.op = .read n)
    (hl : s.lentTo x.rank (lineCut x.addr n ln).1 (lineCut x.addr n ln).2 = true)
    (hp : s.poisoned (lineCut x.addr n ln).1 = false) :
    Admits s { src := src, line := ln, write := false, who := .far x }
      fun t => t.mem = s.mem ∧ t.pkg = s.pkg.answering x 8 ((lineCut x.addr n ln).1 - x.addr)
        ((List.range (lineCut x.addr n ln).2).map fun i => s.hbm ((lineCut x.addr n ln).1 + i)) :=
  admits_answer fun _ _ _ hw => (fabricPart_read hx rfl ((lentTo_congr hw.pkg hw.ts ..).trans hl) ((hw.poisoned _).trans hp)).trans
    (by rw [hw.bytes])

end

/-! ### Atomics on a sync word -/

section
variable {w : W} {x : FabricAccess} {ctx op o off : Nat} {p q : Word}

/-- The operation as it waits at its home. -/
def farAt (x : FabricAccess) (ctx op : Nat) (p q : Word) : AtOp :=
  { seq := 0, op := op, addr := word x.addr, x := p, y := q, m := 0, live := false, mute := true, ctx := ctx
    src := 8192 * (x.rank + 1) + x.agent }

theorem fabricAtlas_atomic (hx : x.op = .atomic op p q) (ha : w.atlasHere x.addr 1 = some (.acc o off)) (h1 : 0x282 ≤ op)
    (h2 : op ≤ 0x28b) (ho : off % 5 = 0) (ht : w.atTarget (dieOf o) ctx false (word x.addr) = .ok (.here x.addr (.acc o off))) :
    w.fabricAtlas ctx x = w.arriveAt o (farAt x ctx op p q) := by
  unfold W.fabricAtlas
  dsimp only
  rw [ha]
  dsimp only
  rw [hx]
  dsimp only [Loc.die]
  rw [ht, Loc.syncWord, if_pos ho]
  exact if_pos (by simp [h1, h2])

theorem fabricAtlas_atomic_window (hx : x.op = .atomic op p q) (ha : w.atlasHere x.addr 1 = some (.acc o off))
    (ht : w.atTarget (dieOf o) ctx false (word x.addr) = .error .window) :
    w.fabricAtlas ctx x = w.fabricAnswer x 9 6 [] := by
  unfold W.fabricAtlas
  dsimp only
  rw [ha]
  dsimp only
  rw [hx]
  dsimp only [Loc.die]
  rw [ht]
  rfl

end

/-- An operation that arrives changes its home alone, which holds it as the last. -/
theorem core_arriveAt (w : W) (o : Nat) (a : AtOp) :
    (w.arriveAt o a).core o = { w.core o with ats := (w.core o).ats ++ [{ a with num := w.count }] } :=
  W.core_modCore_same w o fun k => { k with ats := k.ats ++ [{ a with num := w.count }] }

theorem onlyCore_arriveAt (s : State) (o : Nat) (a : AtOp) : OnlyCore s (((W.of s).arriveAt o a).commit s) o :=
  ⟨rfl, rfl, rfl, rfl, rfl, fun _ he =>
    W.core_modCore_ne (W.of s) o (fun k => { k with ats := k.ats ++ [{ a with num := s.count }] }) he⟩

theorem access_arrives {s : State} {x : FabricAccess} {o : Nat} {a : AtOp} (h : (W.of s).fabricAccess x = (W.of s).arriveAt o a) :
    ∃ t, exec (.fabricAccessArrive x) s = .next t ∧ OnlyCore s t o ∧
      t.core o = { s.core o with ats := (s.core o).ats ++ [{ a with num := s.count }] } :=
  ⟨_, congrArg (go s) h, onlyCore_arriveAt s o a, (core_commit ..).trans (core_arriveAt (W.of s) o a)⟩

/-! ### The host window -/

/-- The package after a host access completes with `x`. -/
def Pkg.hostDone (p : Pkg) (x : Option (List Byte)) : Pkg := { p with host := { p.host with reads := x :: p.host.reads } }

/-- The request for a line of a host access. -/
def hostReq (a : Nat) (write : Bool) (l : List Byte) (ln : Nat) : HbmReq :=
  { src := agentPort 7 0, line := ln, write := write, who := .host a l.length, data := if write then accessCells a l ln else [] }

theorem hostPart_clean {w : W} {a n : Nat} {q : HbmReq} (h : w.poisoned (lineCut a n q.line).1 = false) :
    w.hostPart a n q none = w.modPkg fun p => p.hostDone (some (w.bytes (lineCut a n q.line).1 (lineCut a n q.line).2)) := by
  unfold W.hostPart
  dsimp only
  rw [readRecord_clean (w := (w.agentSrc 7).2) _ _ _ h]
  rfl

theorem admits_host_write (s : State) {a ln : Nat} {l : List Byte} (h : a + l.length ≤ Config.hbmBytes) :
    Admits s (hostReq a true l ln) (Stored s a l ln) :=
  admits_write (fun _ _ _ => rfl) rfl rfl rfl h

theorem admits_host_read {s : State} {a ln : Nat} {l : List Byte} (hp : s.poisoned (lineCut a l.length ln).1 = false) :
    Admits s (hostReq a false l ln) fun t => t.mem = s.mem ∧ t.pkg = s.pkg.hostDone
      (some ((List.range (lineCut a l.length ln).2).map fun i => s.hbm ((lineCut a l.length ln).1 + i))) :=
  admits_pkg fun _ _ w hw => (hostPart_clean (w := w) ((hw.poisoned _).trans hp)).trans (by
    rw [hw.bytes, W.modPkg, W.modPkg, hw.pkg]; rfl)

/-- A host access inside its window in READY asks for its lines. -/
theorem bar2_posts {s : State} {write : Bool} {off : Nat} {l : List Byte} (hp : s.pkg.host.phase = 4) (ho : off + l.length ≤ 2 ^ 36)
    (hb : s.pkg.host.wbase.toNat + off + l.length ≤ Config.hbmBytes) :
    (W.of s).bar2 write off l = (W.of s).modHost fun h => { h with
      posted := h.posted ++ (lineAddrs (s.pkg.host.wbase.toNat + off) l.length).map fun b =>
        hostReq (s.pkg.host.wbase.toNat + off) write l (b / 128) } := by
  unfold W.bar2
  dsimp only
  refine (if_neg ?_).trans rfl
  rintro (h | h | h)
  · exact h hp
  · exact absurd ho (Nat.not_le.mpr h)
  · exact absurd hb (Nat.not_le.mpr h)

theorem bar2_unsupported {s : State} {write : Bool} {off : Nat} {l : List Byte} (h : s.pkg.host.phase ≠ 4 ∨ 2 ^ 36 < off + l.length) :
    (W.of s).bar2 write off l = (W.of s).modHost fun h => { h with reads := none :: h.reads } := by
  unfold W.bar2
  exact if_pos (h.imp_right .inl)

/-- A step that changes the host block alone. -/
theorem onlyHost_step {s : State} {i : Instr} {f : HostBlk → HostBlk} (he : exec i s = go s ((W.of s).modHost f)) :
    ∃ t, exec i s = .next t ∧ OnlyPkg s t ∧ t.pkg = { s.pkg with host := f s.pkg.host } := ⟨_, he, onlyPkg_modPkg s _, rfl⟩

/-! ### The statement -/

/-- Settles O57: an admission is `Admits`, by the line's answer (`fabricPart`, `hostPart`) or by its write (`admits_write`). -/
theorem fabric : Obligations.Fabric := by
  unfold Obligations.Fabric
  intro s
  refine ⟨fun n good => ⟨_, rfl, onlyPkg_modPkg s _, rfl⟩, fun n hn hf => ?_, fun n hn hf => ?_, fun n hn => ?_, fun x => ⟨_, rfl, onlyPkg_modPkg s _, rfl⟩,
    fun x h => access_answered (fabricAccess_noDcid (w := W.of s) h), fun x ctx h hh => ⟨fun l hx => ?_, fun n hx => ?_, fun op p q hx => ?_⟩,
    fun x src ln => ⟨fun l hx hl => ⟨admits_far_write hx hl, admits_far_write_refused hx⟩,
      fun n hx => ⟨admits_far_read hx, admits_far_read_refused hx⟩⟩,
    fun x op p q ctx o off h hh hx ha => ⟨fun h1 h2 ho ht => ?_, fun ht => ?_⟩,
    fun write off l hp ho hb => onlyHost_step (i := .bar2Access write off l) (congrArg (go s) (bar2_posts hp ho hb)),
    fun a ln l h => ⟨admits_host_write s h, admits_host_read⟩,
    fun write off l h => onlyHost_step (i := .bar2Access write off l) (congrArg (go s) (bar2_unsupported h))⟩
  case refine_1 =>
    exact next_of_samePkg ((if_pos hn).trans (if_neg (Nat.not_le.mpr hf)))
  case refine_2 =>
    obtain ⟨t, ht, ho, hp⟩ := onlyPkg_step (s := s) (i := .linkDown n) rfl
    rw [if_pos hn, if_pos hf] at hp
    exact ⟨t, ht, ho, by rw [hp], fun i _ => by rw [hp]; exact getLsbD_link_down _ hn i⟩
  case refine_3 =>
    obtain ⟨t, ht, ho, hp⟩ := onlyPkg_step (s := s) (i := .linkDown (12 + n)) rfl
    rw [if_neg (by omega), Nat.add_sub_cancel_left] at hp
    exact ⟨t, ht, ho, by rw [hp], fun i _ => by rw [hp]; exact getLsbD_link_down _ hn i⟩
  case refine_4 => exact access_asks ((fabricAccess_hbm (w := W.of s) h hh).trans (fabricHbm_write hx))
  case refine_5 => exact access_asks ((fabricAccess_hbm (w := W.of s) h hh).trans (fabricHbm_read hx))
  case refine_6 => exact access_answered ((fabricAccess_hbm (w := W.of s) h hh).trans (fabricHbm_atomic hx))
  case refine_7 =>
    exact access_arrives ((fabricAccess_atlas (w := W.of s) h hh).trans (fabricAtlas_atomic hx ha h1 h2 ho ht))
  case refine_8 => exact access_answered ((fabricAccess_atlas (w := W.of s) h hh).trans (fabricAtlas_atomic_window hx ha ht))

end Sys2Proof.Machine
end

section
/-!
The cp unit: what its triggers answer, and the effects that they give to the commit buffer (04 R111..R114; 13 R303).
-/

namespace Sys2Proof.Machine

/-- The bits above an operand are zero just where it is below 2^n. -/
theorem bits_top_eq_zero_iff {w : Word} {n len : Nat} (h : n + len = 64) : bits w n len = 0 ↔ w.toNat < 2 ^ n := by
  refine ⟨fun h0 => ?_, bits_high_eq_zero⟩
  have hlt : w.toNat / 2 ^ n < 2 ^ len := Nat.div_lt_of_lt_mul (by rw [← Nat.pow_add, h]; exact w.isLt)
  rw [bits, Nat.shiftRight_eq_div_pow, Nat.mod_eq_of_lt hlt] at h0
  exact (Nat.div_eq_zero_iff_lt (Nat.two_pow_pos n)).mp h0

/-- A trigger that answers a hold and makes no slew request. -/
theorem IsTrigger.holdsIf {id n : Nat} {d : BitVec 12} {i : Slot → Instr} {M : Slot → BitVec 4} {tf : TrigFn}
    {P : State → Slot → Line → Prop} (h : IsTrigger id d i M tf) (ha : ∀ s f v, P s f v → Allowed s id (M f))
    (hk : ∀ s f src v, P s f v → tf (trigCtx s id (M f) v) (trigStart s src) = .hold n none) : HoldsIf id i P n := by
  obtain ⟨rfl, henc, hexec, hport⟩ := h
  intro s f src v hf hp hl
  obtain ⟨hm, hpriv, htier⟩ := ha s f v hp
  rw [hexec, execTrigger, henc, Option.getD_some, go, issueOne_trigger_hold hf hport hm hpriv htier hl (hk s f src v hp)]

/-! ### The seven triggers -/

theorem isTrigger_tplw : IsTrigger 0x8c1 0x8c1 .tplw Slot.m trigTplw := ⟨rfl, fun _ => rfl, fun _ _ => rfl, by decide⟩
theorem isTrigger_gqpush : IsTrigger 0x8c3 0x8c3 .gqpush Slot.m trigGqpush := ⟨rfl, fun _ => rfl, fun _ _ => rfl, by decide⟩
theorem isTrigger_cpwait : IsTrigger 0x8c4 0x8c4 .cpwait Slot.m trigCpwait := ⟨rfl, fun _ => rfl, fun _ _ => rfl, by decide⟩
theorem isTrigger_cpstat : IsTrigger 0x8c5 0x8c5 .cpstat Slot.m trigCpstat := ⟨rfl, fun _ => rfl, fun _ _ => rfl, by decide⟩
theorem isTrigger_cpabort : IsTrigger 0x8c6 0x8c6 .cpabort Slot.m trigCpabort := ⟨rfl, fun _ => rfl, fun _ _ => rfl, by decide⟩

theorem zeroExtend_channel (c : BitVec 3) : (0 : BitVec 1) ++ c = c.zeroExtend 4 := by revert c; decide
theorem zeroExtend_channel_resume (c : BitVec 3) : (1 : BitVec 1) ++ c = 8 + c.zeroExtend 4 := by revert c; decide

/-- CPGO's modifier names the channel, its bit 3 the resume (R112). -/
theorem isTrigger_cpgo (c : BitVec 3) :
    IsTrigger 0x8c2 0x8c2 (fun f => .cpgo ⟨f.g, f.s⟩ c) (fun _ => c.zeroExtend 4) trigCpgo :=
  ⟨rfl, fun _ => by rw [← zeroExtend_channel]; rfl, fun _ _ => rfl, by decide⟩
theorem isTrigger_cpgoResume (c : BitVec 3) :
    IsTrigger 0x8c2 0x8c2 (fun f => .cpgoResume ⟨f.g, f.s⟩ c) (fun _ => 8 + c.zeroExtend 4) trigCpgo :=
  ⟨rfl, fun _ => by rw [← zeroExtend_channel_resume]; rfl, fun _ _ => rfl, by decide⟩

/-! ### Results and effects -/

/-- The result that a cp operation leaves for its port. -/
def cpResult (s : State) (id : Nat) (m : BitVec 4) (lat n : Nat) : Item :=
  { trigItem s id m lat 0 0 [(0x8c0, lineOf (word n))] with kind := .res }

/-- The core with one effect more in its commit buffer. -/
def Core.emits (k : Core) (clk : Nat) (x : Out) : Core := { k with cbuf := k.cbuf ++ [(clk, x)] }

/-- The core with a start of channel `ch` more among its task's commands (12 R274 ENGINE). -/
def Core.notesStart (k : Core) (c ch n : Nat) : Core :=
  { k with running := k.running.map fun r => { r with cmds := r.cmds ++ [(c, ch, n)] } }

/-- The start or resume that CPGO gives to the commit buffer. -/
def cpStart (s : State) (x : Word) (res : Bool) : Start :=
  { v := x, offs := s.now.regs.portW 0x8c0, resume := res, priv := (s.env s.focus).priv
    svFirst := (s.env s.focus).svFirst, svCount := (s.env s.focus).svCount, bpc := word s.now.pcAddr
    seq := s.now.pipe.seq, stepped := s.now.stepArm, tid := s.now.tid }

/-- A resume or an abort of channel `ch` is on its way. -/
def Core.faultLeaving (k : Core) (ch : Nat) : Bool :=
  (k.chan ch).pend.any (·.resume) || k.cbuf.any fun e =>
    match e.2 with | .cpgo j y => decide (j = ch) && y.resume | .cpabort j => decide (j = ch) | _ => false

/-- The indices of channel `ch` that are in the commit buffer. -/
def Core.indicesComing (k : Core) (ch : Nat) : Nat :=
  (k.cbuf.filter fun e => match e.2 with | .gqpush j _ => decide (j = ch) | _ => false).length

section
variable {s : State} {id : Nat} {m : BitVec 4} {v : Line} {src : Src}

theorem cpItem_modCore (lat n : Nat) (f : Core → Core) :
    (trigCtx s id m v).cpItem ((trigStart s src).modCore s.focus f) lat n =
      .ok ((trigStart s src).modCore s.focus fun k => (f k).withItem (cpResult s id m lat n)) := by
  simp only [TCtx.cpItem, W.addItem, trigCtx_c, W.modCore_modCore]
  rfl

theorem buffer_trigStart (x : Out) :
    (trigStart s src).buffer s.focus x = (trigStart s src).modCore s.focus fun k => k.emits s.clk x := rfl

theorem maskOk_iff {n : Nat} (hn : n ≤ 64) (hid : lineTrig id = false) :
    (trigCtx s id m v).maskOk n = true ↔ m = 0 ∧ (scalarOf v).toNat < 2 ^ n := by
  rw [TCtx.maskOk, Bool.and_eq_true, decide_eq_true_iff, decide_eq_true_iff, trigCtx_v s id m v hid,
    bits_top_eq_zero_iff (by omega)]
  rfl

theorem engine_trigCtx : (trigCtx s id m v).engine = .trap (engineFault 1 id) := rfl

/-! ### TPLW (R111) -/

/-- The three lines that TPLW reads. -/
def tplLine (s : State) (i : Nat) : Nat := (s.now.regs.portW 0x8c0).toNat + i

/-- The template in those lines. -/
def tplImage (s : State) : BitVec 3072 :=
  s.now.line (tplLine s 2) ++ s.now.line (tplLine s 1) ++ s.now.line (tplLine s 0)

/-- The operands of TPLW are in range, and the core may read the lines. -/
def TplwFits (s : State) (m : BitVec 4) (v : Line) : Prop :=
  m = 0 ∧ (scalarOf v).toNat < 64 ∧ (s.now.regs.portW 0x8c0).toNat < 2 ^ 15 ∧
    ∀ i, i < 3 → readCheck s s.focus (s.env s.focus) false 1 0x8c1 (tplLine s i) = none

/-- The core with the three lines as template `n`. -/
def Core.takesTemplate (k : Core) (s : State) (n : Nat) : Core :=
  k.modCp fun e => { e with tpl := Tab.put 0 e.tpl n (tplImage s) }

theorem toNat_append_three {n : Nat} (a b c : BitVec n) :
    (c ++ b ++ a).toNat = a.toNat + b.toNat * 2 ^ n + c.toNat * 2 ^ (n + n) := by
  rw [BitVec.toNat_append, BitVec.toNat_append, ← Nat.shiftLeft_add_eq_or_of_lt a.isLt,
    ← Nat.shiftLeft_add_eq_or_of_lt b.isLt, Nat.shiftLeft_eq, Nat.shiftLeft_eq, Nat.pow_add]
  ring

theorem tplImage_eq : BitVec.ofNat 3072 ((s.now.line (tplLine s 0)).toNat + (s.now.line (tplLine s 1)).toNat * 2 ^ 1024 +
    (s.now.line (tplLine s 2)).toNat * 2 ^ 2048) = tplImage s := by
  apply BitVec.eq_of_toNat_eq
  rw [show 2048 = 1024 + 1024 from rfl, ← toNat_append_three, BitVec.toNat_ofNat]
  exact Nat.mod_eq_of_lt (tplImage s).isLt

theorem trigTplw_engine (h : m ≠ 0 ∨ 64 ≤ (scalarOf v).toNat ∨ 2 ^ 15 ≤ (s.now.regs.portW 0x8c0).toNat) :
    trigTplw (trigCtx s 0x8c1 m v) (trigStart s src) = .trap (engineFault 1 0x8c1) := by
  refine if_pos ?_
  simp only [trigCtx_m, trigCtx_v s 0x8c1 m v rfl, trigCtx_c, portW_trigStart, ne_eq, bits_top_eq_zero_iff (show 6 + 58 = 64 from rfl),
    bits_top_eq_zero_iff (show 15 + 49 = 64 from rfl), Nat.not_lt]
  exact h

/-- Lines that may be read: the template is taken whole where all are present, else the bundle is held. -/
theorem trigTplw_fits (h : TplwFits s m v) : trigTplw (trigCtx s 0x8c1 m v) (trigStart s src) =
    if (List.range 3).all (fun i => s.now.present (tplLine s i)) then
      .ok ((trigStart s src).modCore s.focus fun k =>
        (k.takesTemplate s (scalarOf v).toNat).withItem (cpResult s 0x8c1 m 8 (Tpl.verdict (tplImage s))))
    else .hold 3 none := by
  obtain ⟨rfl, hv, ho, hread⟩ := h
  have hok : ¬ ((0 : BitVec 4) ≠ 0 ∨ bits (scalarOf v) 6 58 ≠ 0 ∨ bits (s.now.regs.portW 0x8c0) 15 49 ≠ 0) := by
    rintro (h | h | h)
    · exact h rfl
    · exact h (bits_high_eq_zero hv)
    · exact h (bits_high_eq_zero ho)
  have hfind : [tplLine s 0, tplLine s 1, tplLine s 2].findSome?
      (fun ln => readCheck s s.focus (s.env s.focus) false 1 0x8c1 ln) = none := by
    simp [hread]
  simp only [tplLine, Nat.add_zero] at hfind
  simp only [trigTplw, trigCtx_m, trigCtx_v s 0x8c1 0 v rfl, trigCtx_c, portW_trigStart, trigCtx_pre, trigCtx_env,
    trigCtx_slot, trigCtx_id, trigCtx_k, bits_low_eq (n := 6) hv, bits_low_eq ho]
  have himg := tplImage_eq (s := s)
  simp only [tplLine, Nat.add_zero] at himg
  have hpres (f : Nat) : [f, f + 1, f + 2].all s.now.present = (List.range 3).all fun i => s.now.present (f + i) := rfl
  rw [if_neg hok, hfind, hpres, himg]
  dsimp only
  rw [cpItem_modCore]
  cases hall : (List.range 3).all fun i => s.now.present ((s.now.regs.portW 0x8c0).toNat + i) <;>
    simp only [tplLine, hall] <;> rfl

/-! ### CPGO (R112) -/

theorem channel_bits (c : BitVec 3) : bits (c.zeroExtend 4) 0 3 = c.toNat ∧ bitAt (c.zeroExtend 4) 3 = false ∧
    bits (8 + c.zeroExtend 4) 0 3 = c.toNat ∧ bitAt (8 + c.zeroExtend 4) 3 = true := by
  revert c; decide

/-- The ticket of the start that CPGO makes. -/
def Core.nextTicket (k : Core) (ch : Nat) : Nat := ((k.chan ch).ticket + k.startsComing ch + 1) % 65536

theorem trigCpgo_start (c : BitVec 3) : trigCpgo (trigCtx s 0x8c2 (c.zeroExtend 4) v) (trigStart s src) =
    if 64 ≤ (scalarOf v).toNat then .trap (engineFault 1 0x8c2)
    else if 4 ≤ s.now.startsUsed c.toNat then .hold 5 none
    else .ok ((trigStart s src).modCore s.focus fun k =>
      ((k.emits s.clk (.cpgo c.toNat (cpStart s (scalarOf v) false))).notesStart s.focus c.toNat (s.now.nextTicket c.toNat)).withItem
        (cpResult s 0x8c2 (c.zeroExtend 4) 4 (s.now.nextTicket c.toNat))) := by
  obtain ⟨hch, hres, -, -⟩ := channel_bits c
  simp only [trigCpgo, trigCtx_m, hch, hres, trigCtx_v s 0x8c2 _ v rfl, trigCtx_c, trigCtx_k, trigCtx_env, trigCtx_bpc, trigCtx_seq,
    portW_trigStart, Bool.false_eq_true, if_false, buffer_trigStart, W.issued, W.modCore_modCore, cpItem_modCore, ne_eq,
    bits_top_eq_zero_iff (show 6 + 58 = 64 from rfl), Nat.not_lt]
  rfl

theorem ite_and_not (p : Prop) [Decidable p] (b : Bool) (x y : Nat) :
    (if p ∧ (!b) = true then x else y) = if p ∧ b = false then x else y := by
  cases b <;> simp

theorem trigCpgo_resume (c : BitVec 3) : trigCpgo (trigCtx s 0x8c2 (8 + c.zeroExtend 4) v) (trigStart s src) =
    .ok ((trigStart s src).modCore s.focus fun k =>
      (k.emits s.clk (.cpgo c.toNat (cpStart s (scalarOf v) true))).withItem (cpResult s 0x8c2 (8 + c.zeroExtend 4) 4
        (((s.now.chan c.toNat).ticket + s.now.startsComing c.toNat) % 65536 +
          if (s.now.chan c.toNat).st = 4 ∧ s.now.faultLeaving c.toNat = false then 0 else 2 ^ 63))) := by
  obtain ⟨-, -, hch, hres⟩ := channel_bits c
  simp only [trigCpgo, trigCtx_m, hch, hres, trigCtx_v s 0x8c2 _ v rfl, trigCtx_c, trigCtx_k, trigCtx_env, trigCtx_bpc, trigCtx_seq,
    portW_trigStart, if_true, buffer_trigStart, cpItem_modCore]
  rw [← ite_and_not]
  rfl

/-! ### GQPUSH (R113) -/

theorem gqpush_reserved_iff : (bitAt m 3 = true ∨ bits (scalarOf v) 32 32 ≠ 0) ↔ (8 ≤ m.toNat ∨ 2 ^ 32 ≤ (scalarOf v).toNat) := by
  have hm : bitAt m 3 = true ↔ 8 ≤ m.toNat := by revert m; decide
  rw [hm, ne_eq, bits_top_eq_zero_iff (show 32 + 32 = 64 from rfl), Nat.not_lt]

theorem trigGqpush_eq : trigGqpush (trigCtx s 0x8c3 m v) (trigStart s src) =
    if 8 ≤ m.toNat ∨ 2 ^ 32 ≤ (scalarOf v).toNat then .trap (engineFault 1 0x8c3)
    else if 64 ≤ (s.now.chan m.toNat).indices.length + s.now.indicesComing m.toNat then .hold 5 none
    else .ok ((trigStart s src).modCore s.focus fun k => k.emits s.clk (.gqpush m.toNat (scalarOf v))) := by
  have hch (h : ¬ (8 ≤ m.toNat ∨ 2 ^ 32 ≤ (scalarOf v).toNat)) : bits m 0 3 = m.toNat := Nat.mod_eq_of_lt (by omega)
  simp only [trigGqpush, trigCtx_m, trigCtx_v s 0x8c3 _ v rfl, trigCtx_c, trigCtx_k, gqpush_reserved_iff, buffer_trigStart]
  refine ite_congr rfl (fun _ => engine_trigCtx) fun h => ?_
  simp only [hch h]
  rfl

/-! ### CPWAIT, CPSTAT and CPABORT (R114) -/

theorem trigCpwait_eq : trigCpwait (trigCtx s 0x8c4 m v) (trigStart s src) =
    if m = 0 ∧ (scalarOf v).toNat < 2 ^ 8 then
      if (List.range 8).any (fun i => (scalarOf v).getLsbD i && s.now.chanBusy i) then .hold 8 none
      else .ok ((trigStart s src).modCore s.focus fun k =>
        k.withItem (cpResult s 0x8c4 m 4 (chanMask fun i => decide ((s.now.chan i).st = 4))))
    else .trap (engineFault 1 0x8c4) := by
  simp only [← maskOk_iff (s := s) (id := 0x8c4) (show 8 ≤ 64 by decide) rfl, trigCpwait, trigCtx_v s 0x8c4 m v rfl]
  cases (trigCtx s 0x8c4 m v).maskOk 8 <;> rfl

theorem trigCpstat_eq : trigCpstat (trigCtx s 0x8c5 m v) (trigStart s src) =
    if m = 0 ∧ (scalarOf v).toNat < 2 ^ 3 then
      .ok ((trigStart s src).modCore s.focus fun k =>
        k.withItem (cpResult s 0x8c5 m 4 (s.now.chan (bits (scalarOf v) 0 3)).status.toNat))
    else .trap (engineFault 1 0x8c5) := by
  simp only [← maskOk_iff (s := s) (id := 0x8c5) (show 3 ≤ 64 by decide) rfl, trigCpstat, trigCtx_v s 0x8c5 m v rfl]
  cases (trigCtx s 0x8c5 m v).maskOk 3 <;> rfl

/-- A channel that is not IDLE, or to which a start is on its way. -/
def Core.chanUsed (k : Core) (i : Nat) : Bool := k.chanBusy i || decide ((k.chan i).st = 4)

/-- The core with an abort of each channel of a list in its commit buffer. -/
def Core.emitsAborts (k : Core) (clk : Nat) (l : List Nat) : Core := { k with cbuf := k.cbuf ++ l.map fun i => (clk, Out.cpabort i) }

theorem foldl_buffer_cpabort (w : W) (c : Nat) (l : List Nat) : ∀ f : Core → Core,
    l.foldl (fun w i => w.buffer c (.cpabort i)) (w.modCore c f) = w.modCore c fun k => (f k).emitsAborts w.clk l := by
  induction l with
  | nil => exact fun f => W.modCore_congr _ _ (by simp [Core.emitsAborts])
  | cons i l ih =>
    intro f
    rw [List.foldl_cons, W.buffer, W.modCore_modCore, ih]
    exact W.modCore_congr _ _ (by simp [Core.emitsAborts])

theorem trigCpabort_eq : trigCpabort (trigCtx s 0x8c6 m v) (trigStart s src) =
    if m = 0 ∧ (scalarOf v).toNat < 2 ^ 8 then
      .ok ((trigStart s src).modCore s.focus fun k =>
        (k.emitsAborts s.clk ((List.range 8).filter fun i => (scalarOf v).getLsbD i && s.now.chanUsed i)).withItem
          (cpResult s 0x8c6 m 4 (chanMask s.now.chanUsed)))
    else .trap (engineFault 1 0x8c6) := by
  have hfold (l : List Nat) : l.foldl (fun w i => w.buffer s.focus (.cpabort i)) (trigStart s src) =
      (trigStart s src).modCore s.focus fun k => k.emitsAborts s.clk l := by
    rw [trigStart, foldl_buffer_cpabort, W.modCore_modCore]
    rfl
  simp only [← maskOk_iff (s := s) (id := 0x8c6) (show 8 ≤ 64 by decide) rfl, trigCpabort, trigCtx_v s 0x8c6 m v rfl, trigCtx_c,
    hfold, cpItem_modCore]
  cases (trigCtx s 0x8c6 m v).maskOk 8 <;> rfl

end

/-! ### What each of them does (04 R111..R114; 13 R303) -/

theorem allowed_cp {s : State} {id : Nat} {m : BitVec 4} (h : id / 64 = 0x23) : Allowed s id m := by
  refine allowed_outside (by omega) ?_
  simp only [needsTier, Bool.and_eq_false_iff, decide_eq_false_iff_not]
  omega

theorem tplw_triggers : TriggersIf 0x8c1 .tplw
    (fun s f v => TplwFits s f.m v ∧ ∀ i, i < 3 → s.now.present (tplLine s i) = true)
    (fun s _ v k => (k.takesTemplate s (scalarOf v).toNat).withItem (cpResult s 0x8c1 0 8 (Tpl.verdict (tplImage s)))) := by
  refine isTrigger_tplw.triggersIf (fun _ _ _ _ => allowed_cp rfl) fun s f src v ⟨hfits, hpres⟩ => ?_
  rw [trigTplw_fits hfits, if_pos (by simpa using hpres), hfits.1]

theorem tplw_holds : HoldsIf 0x8c1 .tplw
    (fun s f v => TplwFits s f.m v ∧ ∃ i, i < 3 ∧ s.now.present (tplLine s i) = false) 3 := by
  refine isTrigger_tplw.holdsIf (fun _ _ _ _ => allowed_cp rfl) fun s f src v ⟨hfits, i, hi, habs⟩ => ?_
  rw [trigTplw_fits hfits, if_neg fun h => ?_]
  have := List.all_eq_true.mp h i (List.mem_range.mpr hi)
  exact Bool.false_ne_true (habs.symm.trans this)

theorem tplw_traps : TrapsIf 0x8c1 .tplw
    (fun s f v => f.m ≠ 0 ∨ 64 ≤ (scalarOf v).toNat ∨ 2 ^ 15 ≤ (s.now.regs.portW 0x8c0).toNat) (fun _ _ _ => engineFault 1 0x8c1) :=
  isTrigger_tplw.trapsIf (fun _ _ _ _ => allowed_cp rfl) fun _ _ _ _ h => trigTplw_engine h

section
variable (c : BitVec 3)

theorem cpgo_triggers : TriggersIf 0x8c2 (fun f => .cpgo ⟨f.g, f.s⟩ c)
    (fun s _ v => (scalarOf v).toNat < 64 ∧ s.now.startsUsed c.toNat < 4)
    (fun s _ v k => ((k.emits s.clk (.cpgo c.toNat (cpStart s (scalarOf v) false))).notesStart s.focus c.toNat
      (s.now.nextTicket c.toNat)).withItem (cpResult s 0x8c2 (c.zeroExtend 4) 4 (s.now.nextTicket c.toNat))) := by
  refine (isTrigger_cpgo c).triggersIf (fun _ _ _ _ => allowed_cp rfl) fun s f src v ⟨hv, hfree⟩ => ?_
  rw [trigCpgo_start, if_neg (Nat.not_le.mpr hv), if_neg (Nat.not_le.mpr hfree)]

theorem cpgo_holds : HoldsIf 0x8c2 (fun f => .cpgo ⟨f.g, f.s⟩ c)
    (fun s _ v => (scalarOf v).toNat < 64 ∧ 4 ≤ s.now.startsUsed c.toNat) 5 := by
  refine (isTrigger_cpgo c).holdsIf (fun _ _ _ _ => allowed_cp rfl) fun s f src v ⟨hv, hfull⟩ => ?_
  rw [trigCpgo_start, if_neg (Nat.not_le.mpr hv), if_pos hfull]

theorem cpgo_traps : TrapsIf 0x8c2 (fun f => .cpgo ⟨f.g, f.s⟩ c) (fun _ _ v => 64 ≤ (scalarOf v).toNat)
    (fun _ _ _ => engineFault 1 0x8c2) :=
  (isTrigger_cpgo c).trapsIf (fun _ _ _ _ => allowed_cp rfl) fun _ _ _ _ h => (trigCpgo_start c).trans (if_pos h)

theorem cpgoResume_triggers : TriggersIf 0x8c2 (fun f => .cpgoResume ⟨f.g, f.s⟩ c) (fun _ _ _ => True)
    (fun s _ v k => (k.emits s.clk (.cpgo c.toNat (cpStart s (scalarOf v) true))).withItem
      (cpResult s 0x8c2 (8 + c.zeroExtend 4) 4 (((s.now.chan c.toNat).ticket + s.now.startsComing c.toNat) % 65536 +
        if (s.now.chan c.toNat).st = 4 ∧ s.now.faultLeaving c.toNat = false then 0 else 2 ^ 63))) :=
  (isTrigger_cpgoResume c).triggersIf (fun _ _ _ _ => allowed_cp rfl) fun _ _ _ _ _ => trigCpgo_resume c
end

theorem gqpush_triggers : TriggersIf 0x8c3 .gqpush
    (fun s f v => f.m.toNat < 8 ∧ (scalarOf v).toNat < 2 ^ 32 ∧
      (s.now.chan f.m.toNat).indices.length + s.now.indicesComing f.m.toNat < 64)
    (fun s f v k => k.emits s.clk (.gqpush f.m.toNat (scalarOf v))) := by
  refine isTrigger_gqpush.triggersIf (fun _ _ _ _ => allowed_cp rfl) fun s f src v ⟨hm, hv, hfree⟩ => ?_
  rw [trigGqpush_eq, if_neg (by omega), if_neg (Nat.not_le.mpr hfree)]

theorem gqpush_holds : HoldsIf 0x8c3 .gqpush
    (fun s f v => f.m.toNat < 8 ∧ (scalarOf v).toNat < 2 ^ 32 ∧
      64 ≤ (s.now.chan f.m.toNat).indices.length + s.now.indicesComing f.m.toNat) 5 := by
  refine isTrigger_gqpush.holdsIf (fun _ _ _ _ => allowed_cp rfl) fun s f src v ⟨hm, hv, hfull⟩ => ?_
  rw [trigGqpush_eq, if_neg (by omega), if_pos hfull]

theorem gqpush_traps : TrapsIf 0x8c3 .gqpush (fun _ f v => 8 ≤ f.m.toNat ∨ 2 ^ 32 ≤ (scalarOf v).toNat)
    (fun _ _ _ => engineFault 1 0x8c3) :=
  isTrigger_gqpush.trapsIf (fun _ _ _ _ => allowed_cp rfl) fun _ _ _ _ h => trigGqpush_eq.trans (if_pos h)

theorem cpwait_triggers : TriggersIf 0x8c4 .cpwait
    (fun s f v => f.m = 0 ∧ (scalarOf v).toNat < 2 ^ 8 ∧
      ∀ i, i < 8 → (scalarOf v).getLsbD i = true → s.now.chanBusy i = false)
    (fun s _ _ k => k.withItem (cpResult s 0x8c4 0 4 (chanMask fun i => decide ((s.now.chan i).st = 4)))) := by
  refine isTrigger_cpwait.triggersIf (fun _ _ _ _ => allowed_cp rfl) fun s f src v ⟨hm, hv, hidle⟩ => ?_
  rw [trigCpwait_eq, if_pos ⟨hm, hv⟩, if_neg (by simpa using hidle), hm]

theorem cpwait_holds : HoldsIf 0x8c4 .cpwait
    (fun s f v => f.m = 0 ∧ (scalarOf v).toNat < 2 ^ 8 ∧
      ∃ i, i < 8 ∧ (scalarOf v).getLsbD i = true ∧ s.now.chanBusy i = true) 8 := by
  refine isTrigger_cpwait.holdsIf (fun _ _ _ _ => allowed_cp rfl) fun s f src v ⟨hm, hv, hbusy⟩ => ?_
  rw [trigCpwait_eq, if_pos ⟨hm, hv⟩, if_pos (by simpa using hbusy)]

theorem cpstat_triggers : TriggersIf 0x8c5 .cpstat (fun _ f v => f.m = 0 ∧ (scalarOf v).toNat < 8)
    (fun s _ v k => k.withItem (cpResult s 0x8c5 0 4 (s.now.chan (scalarOf v).toNat).status.toNat)) := by
  refine isTrigger_cpstat.triggersIf (fun _ _ _ _ => allowed_cp rfl) fun s f src v ⟨hm, hv⟩ => ?_
  rw [trigCpstat_eq, if_pos ⟨hm, hv⟩, bits_low_eq (n := 3) hv, hm]

theorem cpabort_triggers : TriggersIf 0x8c6 .cpabort (fun _ f v => f.m = 0 ∧ (scalarOf v).toNat < 2 ^ 8)
    (fun s _ v k => (k.emitsAborts s.clk ((List.range 8).filter fun i => (scalarOf v).getLsbD i && s.now.chanUsed i)).withItem
      (cpResult s 0x8c6 0 4 (chanMask s.now.chanUsed))) := by
  refine isTrigger_cpabort.triggersIf (fun _ _ _ _ => allowed_cp rfl) fun s f src v ⟨hm, hv⟩ => ?_
  rw [trigCpabort_eq, if_pos ⟨hm, hv⟩, hm]

/-- A mask, or a channel number, with reserved bits. -/
theorem not_mask {m : BitVec 4} {x : Word} {n : Nat} (h : m ≠ 0 ∨ 2 ^ n ≤ x.toNat) : ¬ (m = 0 ∧ x.toNat < 2 ^ n) :=
  fun ⟨hm, hx⟩ => h.elim (fun h => h hm) (Nat.not_le.mpr hx)

theorem cpwait_traps : TrapsIf 0x8c4 .cpwait (fun _ f v => f.m ≠ 0 ∨ 2 ^ 8 ≤ (scalarOf v).toNat) (fun _ _ _ => engineFault 1 0x8c4) :=
  isTrigger_cpwait.trapsIf (fun _ _ _ _ => allowed_cp rfl) fun _ _ _ _ h => trigCpwait_eq.trans (if_neg (not_mask h))

theorem cpstat_traps : TrapsIf 0x8c5 .cpstat (fun _ f v => f.m ≠ 0 ∨ 8 ≤ (scalarOf v).toNat) (fun _ _ _ => engineFault 1 0x8c5) :=
  isTrigger_cpstat.trapsIf (fun _ _ _ _ => allowed_cp rfl) fun _ _ _ _ h => trigCpstat_eq.trans (if_neg (not_mask (n := 3) h))

theorem cpabort_traps : TrapsIf 0x8c6 .cpabort (fun _ f v => f.m ≠ 0 ∨ 2 ^ 8 ≤ (scalarOf v).toNat)
    (fun _ _ _ => engineFault 1 0x8c6) :=
  isTrigger_cpabort.trapsIf (fun _ _ _ _ => allowed_cp rfl) fun _ _ _ _ h => trigCpabort_eq.trans (if_neg (not_mask h))

end Sys2Proof.Machine
end

section
/-!
How a copy starts: what reaches a channel, its acceptance, its activation and its admission (04 R91, R92, R99..R105; 05 R125;
08 R199).
-/

namespace Sys2Proof.Machine

/-! ### One channel changed -/

@[simp] theorem Core.chan_setChan (k : Core) (ch : Nat) (x : Channel) : (k.setChan ch x).chan ch = x := Tab.get_put_same ..

theorem core_modChan (w : W) (c ch : Nat) (f : Channel → Channel) :
    (w.modChan c ch f).core c = (w.core c).setChan ch (f ((w.core c).chan ch)) := W.core_modCore_same ..

theorem chan_modChan (w : W) (c ch : Nat) (f : Channel → Channel) :
    ((w.modChan c ch f).core c).chan ch = f ((w.core c).chan ch) := by
  rw [core_modChan, Core.chan_setChan]

theorem onlyCore_modCore (s : State) (c : Nat) (f : Core → Core) : OnlyCore s (((W.of s).modCore c f).commit s) c :=
  ⟨rfl, rfl, rfl, rfl, rfl, fun _ he => W.core_modCore_ne (W.of s) c f he⟩

/-- A step that changes a channel alone. -/
theorem channel_step {s : State} {i : Instr} {c ch : Nat} {f : Channel → Channel} {q : Channel}
    (h : exec i s = go s ((W.of s).modChan c ch f)) (hq : f ((s.core c).chan ch) = q) :
    ∃ t, exec i s = .next t ∧ OnlyCore s t c ∧ t.core c = (s.core c).setChan ch q :=
  ⟨_, h, onlyCore_modCore s c _, hq ▸ (core_commit ..).trans (core_modChan ..)⟩

/-! ### Changes of cores that leave their copies, lines and registers -/

/-- Cores differ, but not in their channels, lines and registers; nothing else differs. -/
structure KeepsCopies (w w' : W) : Prop where
  rest : w' = { w with cores := w'.cores }
  core : ∀ e, (w'.core e).vrf = (w.core e).vrf ∧ (w'.core e).regs = (w.core e).regs ∧ (w'.core e).cp = (w.core e).cp

section
variable {w w' w'' : W}

theorem KeepsCopies.refl : KeepsCopies w w := ⟨rfl, fun _ => ⟨rfl, rfl, rfl⟩⟩

theorem KeepsCopies.trans (h : KeepsCopies w w') (h' : KeepsCopies w' w'') : KeepsCopies w w'' := by
  refine ⟨?_, fun e => ?_⟩
  · conv_lhs => rw [h'.rest, h.rest]
  · obtain ⟨hv, hr, hc⟩ := h.core e
    obtain ⟨hv', hr', hc'⟩ := h'.core e
    exact ⟨hv'.trans hv, hr'.trans hr, hc'.trans hc⟩

theorem keepsCopies_modCore (o : Nat) {f : Core → Core} (hf : ∀ k, (f k).vrf = k.vrf ∧ (f k).regs = k.regs ∧ (f k).cp = k.cp) :
    KeepsCopies w (w.modCore o f) := by
  refine ⟨rfl, fun e => ?_⟩
  by_cases h : e = o
  · subst h; rw [W.core_modCore_same]; exact hf _
  · rw [W.core_modCore_ne _ _ _ h]; exact ⟨rfl, rfl, rfl⟩

theorem keepsCopies_foldl {α : Type} {f : W → α → W} (h : ∀ w a, KeepsCopies w (f w a)) (l : List α) :
    ∀ w, KeepsCopies w (l.foldl f w) := by
  induction l with
  | nil => exact fun _ => .refl
  | cons a l ih => exact fun w => (h w a).trans (ih _)

theorem KeepsCopies.chan (h : KeepsCopies w w') (c ch : Nat) : (w'.core c).chan ch = (w.core c).chan ch := by
  rw [Core.chan, (h.core c).2.2, Core.chan]

/-- Then a channel changes: memory, dies and package are as they were. -/
theorem KeepsCopies.commit_modChan {s : State} {c ch : Nat} {f : Channel → Channel} (h : KeepsCopies w w')
    (ho : w.out = []) (hz : w.zeroed = []) :
    ((w'.modChan c ch f).commit s).mem = s.mem ∧ ((w'.modChan c ch f).commit s).dies = w.dies ∧
      ((w'.modChan c ch f).commit s).pkg = w.pkg := by
  refine ⟨W.commit_mem_same _ s ?_ ?_, ?_, ?_⟩
  · exact (show w'.out = _ by rw [h.rest]).trans ho
  · exact (show w'.zeroed = _ by rw [h.rest]).trans hz
  · exact show w'.dies = _ by rw [h.rest]
  · exact show w'.pkg = _ by rw [h.rest]
end

/-- Updates of distinct keys, one after another: each key that is named reads as its own update leaves it. -/
theorem read_foldl_update {α κ β : Type} {read : W → κ → β} {step : W → α → W} {key : α → κ} {f : α → β → β}
    (hsame : ∀ w a, read (step w a) (key a) = f a (read w (key a))) (hne : ∀ w a q, q ≠ key a → read (step w a) q = read w q)
    (l : List α) : (∀ w q, q ∉ l.map key → read (l.foldl step w) q = read w q) ∧
      ((l.map key).Nodup → ∀ w, ∀ a ∈ l, read (l.foldl step w) (key a) = f a (read w (key a))) := by
  induction l with
  | nil => exact ⟨fun _ _ _ => rfl, fun _ _ _ h => absurd h List.not_mem_nil⟩
  | cons b l ih =>
    obtain ⟨hout, hin⟩ := ih
    refine ⟨fun w q hq => ?_, fun hn w a ha => ?_⟩
    · obtain ⟨hqb, hql⟩ := not_or.mp (mt List.mem_cons.mpr hq)
      exact (hout _ q hql).trans (hne w b q hqb)
    · obtain ⟨hb, hl⟩ := List.nodup_cons.mp hn
      obtain rfl | ha := List.mem_cons.mp ha
      · exact (hout _ _ hb).trans (hsame w a)
      · have hab : key a ≠ key b := fun h => hb (h ▸ List.mem_map_of_mem ha)
        exact (hin hl _ a ha).trans (congrArg (f a) (hne w b _ hab))

/-! ### Claims (04 R105; 05 R125) -/

/-- The count of claims of a line, as claims name it, and its presence bit. -/
def State.lineClaims (s : State) (q : Nat) : Nat × Bool :=
  (Tab.get 0 (s.core (q / 32768)).claims (q % 32768), (s.core (q / 32768)).present (q % 32768))

/-- The core with one claim more on a line. -/
def Core.claimed (k : Core) (ln : Nat) : Core :=
  { k with claims := Tab.put 0 k.claims ln (Tab.get 0 k.claims ln + 1), absent := Tab.put false k.absent ln true }

theorem claim_eq (w : W) (o ln : Nat) : w.claim o ln = w.modCore o fun k => k.claimed ln := by
  unfold W.claim W.setAbsent
  exact W.modCore_modCore ..

theorem keepsCopies_placeClaims (w : W) (t : Tab Nat) : KeepsCopies w (w.placeClaims t) :=
  keepsCopies_foldl (fun w _ => claim_eq w _ _ ▸ keepsCopies_modCore _ fun _ => ⟨rfl, rfl, rfl⟩) t w

theorem lineClaims_claim_same (w : W) (q : Nat) :
    (w.claim (q / 32768) (q % 32768)).lineClaims q = ((w.lineClaims q).1 + 1, false) := by
  rw [claim_eq, State.lineClaims, W.core_modCore_same]
  simp [Core.claimed, Core.present, State.lineClaims]

theorem lineClaims_claim_ne (w : W) {a q : Nat} (h : q ≠ a) :
    (w.claim (a / 32768) (a % 32768)).lineClaims q = w.lineClaims q := by
  rw [claim_eq, State.lineClaims, State.lineClaims]
  by_cases hc : q / 32768 = a / 32768
  · have hl : q % 32768 ≠ a % 32768 := by omega
    rw [hc, W.core_modCore_same]
    simp [Core.claimed, Core.present, Tab.get_put_ne _ _ _ hl]
  · rw [W.core_modCore_ne _ _ _ hc]

/-- Each line of a claim set has one claim more, and is absent. -/
theorem lineClaims_placeClaims (w : W) {t : Tab Nat} (hn : (t.map (·.1)).Nodup) {e : Nat × Nat} (he : e ∈ t) :
    (w.placeClaims t).lineClaims e.1 = ((w.lineClaims e.1).1 + 1, false) :=
  (read_foldl_update (read := fun w q => w.lineClaims q) (key := fun e : Nat × Nat => e.1)
    (step := fun w e => w.claim (e.1 / 32768) (e.1 % 32768)) (f := fun _ p => (p.1 + 1, false))
    (fun w e => lineClaims_claim_same w e.1) (fun w _ _ h => lineClaims_claim_ne w h) t).2 hn w e he

/-- The keys of a table in canonical form differ. -/
theorem Tab.nodup_keys {α : Type} [DecidableEq α] {d : α} : ∀ (t : Tab α) (lo : Nat), Tab.wfFrom d lo t = true →
    (t.map (·.1)).Nodup ∧ ∀ e ∈ t, lo ≤ e.1 := by
  intro t
  induction t with
  | nil => exact fun _ _ => ⟨List.nodup_nil, fun _ h => absurd h List.not_mem_nil⟩
  | cons e t ih =>
    intro lo h
    obtain ⟨⟨hlo, -⟩, hrest⟩ : (lo ≤ e.1 ∧ e.2 ≠ d) ∧ Tab.wfFrom d (e.1 + 1) t = true := by simpa [Tab.wfFrom] using h
    obtain ⟨hnd, hge⟩ := ih _ hrest
    refine ⟨List.nodup_cons.mpr ⟨fun hm => ?_, hnd⟩, fun x hx => ?_⟩
    · obtain ⟨x, hx, hxe⟩ := List.mem_map.mp hm
      exact absurd (hge x hx) (by rw [hxe]; exact Nat.not_succ_le_self _)
    · obtain rfl | hx := List.mem_cons.mp hx
      · exact hlo
      · exact Nat.le_of_succ_le (Nat.le_trans (Nat.succ_le_succ hlo) (hge x hx))

/-- A claim set names each line once: it is a table of elements below the copy's total. -/
theorem nodup_claimSet (s : State) (c : Nat) (x : Copy) : ((s.claimSet c x).map (·.1)).Nodup := by
  unfold State.claimSet
  split
  · exact List.nodup_nil
  · refine (Tab.nodup_keys (d := Tpl.total x.img) _ 0 ?_).1
    refine List.foldlRecOn _ _ (motive := fun t => Tab.wfFrom (Tpl.total x.img) 0 t = true) rfl fun t ht e he => ?_
    exact List.foldlRecOn _ _ (motive := fun t => Tab.wfFrom (Tpl.total x.img) 0 t = true) ht fun t ht q _ =>
      Tab.wfFrom_set _ (Nat.ne_of_lt (List.mem_range.mp he)) q t 0 (Nat.zero_le q) ht

/-! ### The aperture (R91) -/

/-- A word stored to the aperture of a core that is enabled reaches the channel with OFFS as it stands. -/
theorem apertureWord_enabled {w : W} {c ch : Nat} {v : Word} {res : Bool} (hch : ch < 8) (he : w.coreEnabled c = true)
    (hr : v.getLsbD 6 = res) : w.apertureWord c ch v res =
      w.modChan c ch fun x => { x with pend := x.pend ++ [{ v := v, offs := x.offs, ap := true, resume := res }] } := by
  have hr : bitAt v 6 = res := hr
  simp only [W.apertureWord, hr, he, and_self, if_true, Nat.mod_eq_of_lt hch, W.writeAperture, (by decide : (0 : Nat) ≠ 8), if_false]
  rfl

/-! ### Acceptance (R90, R92, R104, R105) -/

section
variable {s : State} {w : W} {c ch : Nat} {q : Channel} {x : Start} {l : List Start}

theorem copyAccept_eq (hq : (w.core c).chan ch = q) (h5 : q.st ≠ 5) (hn : q.nextStart = some (x, l)) : w.copyAccept c ch =
    if x.set then w.modChan c ch fun y => { y with offs := x.v, pend := l }
    else if x.resume then w.resumeStart c ch x l
    else w.acceptStart c ch x l := by
  unfold W.copyAccept
  simp only [hq, if_neg h5, hn]

/-- The claims that an accepted start places. -/
def State.newClaims (s : State) (c : Nat) (y : Copy) : Tab Nat := if s.cause1Ok y then s.claimSet c y else []

theorem nodup_newClaims (s : State) (c : Nat) (y : Copy) : ((s.newClaims c y).map (·.1)).Nodup := by
  unfold State.newClaims
  split
  · exact nodup_claimSet s c y
  · exact List.nodup_nil

/-- The channel with a copy accepted: active at once where the channel is free, else queued. -/
def Channel.accepted (q : Channel) (l : List Start) (y : Copy) : Channel :=
  let q := { q with ticket := (q.ticket + 1) % 65536, cause := 0, pend := l }
  match q.act with
  | none => { q with act := some y, st := y.first, rprog := 0 }
  | some _ => { q with queue := q.queue ++ [y] }

theorem Channel.accepted_free (q : Channel) (l : List Start) (y : Copy) (h : q.act = none) : q.accepted l y =
    { q with ticket := (q.ticket + 1) % 65536, cause := 0, pend := l, act := some y, st := y.first, rprog := 0 } := by
  simp only [Channel.accepted, h]

theorem Channel.accepted_busy (q : Channel) (l : List Start) (y : Copy) {a : Copy} (h : q.act = some a) : q.accepted l y =
    { q with ticket := (q.ticket + 1) % 65536, cause := 0, pend := l, queue := q.queue ++ [y] } := by
  simp only [Channel.accepted, h]

theorem Channel.accepted_fields (q : Channel) (l : List Start) (y : Copy) :
    (q.accepted l y).ticket = (q.ticket + 1) % 65536 ∧ (q.accepted l y).cause = 0 ∧ (q.accepted l y).pend = l := by
  cases h : q.act with
  | none => rw [q.accepted_free l y h]; exact ⟨rfl, rfl, rfl⟩
  | some a => rw [q.accepted_busy l y h]; exact ⟨rfl, rfl, rfl⟩

/-- An accepted start as a copy of its channel. -/
def State.acceptedCopy (s : State) (c ch : Nat) (x : Start) : Copy :=
  { s.snapshot c ch x with
    claims := s.newClaims c (s.snapshot c ch x), ticket := (((s.core c).chan ch).ticket + 1) % 65536, wake := s.clk + 16 }

theorem acceptStart_fits (hf : s.claimsFit (s.newClaims c (s.snapshot c ch x)) = true) : (W.of s).acceptStart c ch x l =
    ((W.of s).placeClaims (s.newClaims c (s.snapshot c ch x))).modChan c ch fun q => q.accepted l (s.acceptedCopy c ch x) := by
  unfold W.acceptStart
  exact if_neg (ne_true_of_eq_false (congrArg not hf))

/-- An accepted start: its claims are placed and its channel takes the copy; nothing else changes. -/
theorem copyAccept_start (hq : (s.core c).chan ch = q) (h5 : q.st ≠ 5) (hn : q.nextStart = some (x, l)) (hs : x.set = false)
    (hr : x.resume = false) (hf : s.claimsFit (s.newClaims c (s.snapshot c ch x)) = true) :
    ∃ t, exec (.copyAccept c ch) s = .next t ∧ t.mem = s.mem ∧ t.dies = s.dies ∧ t.pkg = s.pkg ∧
      (∀ e, (t.core e).vrf = (s.core e).vrf ∧ (t.core e).regs = (s.core e).regs ∧ (e ≠ c → (t.core e).cp = (s.core e).cp)) ∧
      (t.core c).chan ch = q.accepted l (s.acceptedCopy c ch x) ∧
      ∀ e ∈ s.newClaims c (s.snapshot c ch x), t.lineClaims e.1 = ((s.lineClaims e.1).1 + 1, false) := by
  have hgo : (W.of s).copyAccept c ch = _ := (copyAccept_eq (w := W.of s) hq h5 hn).trans
    ((if_neg (by simp [hs])).trans ((if_neg (by simp [hr])).trans (acceptStart_fits hf)))
  have hk := keepsCopies_placeClaims (W.of s) (s.newClaims c (s.snapshot c ch x))
  obtain ⟨hmem, hdies, hpkg⟩ := hk.commit_modChan (s := s) (c := c) (ch := ch)
    (f := fun q => q.accepted l (s.acceptedCopy c ch x)) rfl rfl
  refine ⟨_, congrArg (go s) hgo, hmem, hdies, hpkg, fun e => ?_, ?_, fun e he => ?_⟩
  · obtain ⟨hv, hregs, hcp⟩ := hk.core e
    rw [core_commit, W.modChan]
    by_cases hc : e = c
    · subst hc
      rw [W.core_modCore_same]
      exact ⟨hv, hregs, fun h => absurd rfl h⟩
    · rw [W.core_modCore_ne _ _ _ hc]
      exact ⟨hv, hregs, fun _ => hcp⟩
  · rw [core_commit, chan_modChan, hk.chan c ch, W.of_core, hq]
  · refine .trans ?_ (lineClaims_placeClaims (W.of s) (nodup_newClaims ..) he)
    unfold State.lineClaims
    rw [core_commit, W.modChan, W.core_modCore]
    split
    · next hc => rw [← hc]; rfl
    · rfl

/-! ### A resume (R91, R104) -/

/-- A word of a stopped reduce copy's sums is put back. -/
def W.restoreWord (w : W) (e : Nat × Nat × Acc40) : W := w.modCore e.1 fun k => k.setAcc (e.2.1 / 4096) (e.2.1 % 4096) e.2.2

/-- A word of an accumulator store, by core and number. -/
def State.accWord (s : State) (p : Nat × Nat) : Acc40 := (s.core p.1).acc (p.2 / 4096) (p.2 % 4096)

theorem keepsCopies_restoreWords (w : W) (l : List (Nat × Nat × Acc40)) : KeepsCopies w (l.foldl W.restoreWord w) :=
  keepsCopies_foldl (f := W.restoreWord) (fun _ _ => keepsCopies_modCore _ fun _ => ⟨rfl, rfl, rfl⟩) l w

theorem accWord_restoreWord_same (w : W) (e : Nat × Nat × Acc40) : (w.restoreWord e).accWord (e.1, e.2.1) = e.2.2 := by
  rw [W.restoreWord, State.accWord, W.core_modCore_same]
  exact Tab.get_put_same ..

theorem accWord_restoreWord_ne (w : W) (e : Nat × Nat × Acc40) {p : Nat × Nat} (h : p ≠ (e.1, e.2.1)) :
    (w.restoreWord e).accWord p = w.accWord p := by
  rw [W.restoreWord, State.accWord, State.accWord]
  by_cases hc : p.1 = e.1
  · have hi : p.2 ≠ e.2.1 := fun hi => h (Prod.ext hc hi)
    rw [hc, W.core_modCore_same]
    exact Tab.get_put_ne _ _ _ (by rw [Nat.div_add_mod', Nat.div_add_mod']; exact hi)
  · rw [W.core_modCore_ne _ _ _ hc]

/-- Words that differ are all put back. -/
theorem accWord_restoreWords (w : W) {l : List (Nat × Nat × Acc40)} (hn : (l.map fun e => (e.1, e.2.1)).Nodup)
    {e : Nat × Nat × Acc40} (he : e ∈ l) : (l.foldl W.restoreWord w).accWord (e.1, e.2.1) = e.2.2 :=
  (read_foldl_update (read := fun w p => w.accWord p) (key := fun e : Nat × Nat × Acc40 => (e.1, e.2.1)) (f := fun a _ => a.2.2)
    accWord_restoreWord_same (fun w e _ h => accWord_restoreWord_ne w e h) l).2 hn w e he

theorem accWord_commit (w : W) (s : State) (p : Nat × Nat) : (w.commit s).accWord p = w.accWord p := rfl

theorem accWord_modChan (w : W) (f : Channel → Channel) (p : Nat × Nat) : (w.modChan c ch f).accWord p = w.accWord p := by
  rw [State.accWord, State.accWord, W.modChan, W.core_modCore]
  split
  · next h => rw [h]; rfl
  · rfl

variable {a : Copy}

theorem resumeStart_eq (hq : (w.core c).chan ch = q) (ha : q.act = some a) (h4 : q.st = 4)
    (hx : x.ap = false ∨ bits x.v 7 57 = 0) : w.resumeStart c ch x l =
      (a.words.foldl W.restoreWord (w.modChan c ch fun y => { y with pend := l })).modChan c ch fun y =>
        { y with act := some (a.resumed y.rprog), st := a.first, cause := 0 } := by
  have hap : ¬ (x.ap = true ∧ bits x.v 7 57 ≠ 0) := by
    rintro ⟨h, h'⟩
    exact hx.elim (fun hf => Bool.false_ne_true (hf.symm.trans h)) h'
  unfold W.resumeStart
  simp only [chan_modChan, hq, ha, h4, ne_eq, not_true_eq_false, if_false]
  exact if_neg hap

/-- A resume of a stopped copy: its words hold its sums again, and it goes on. -/
theorem copyAccept_resume (hq : (s.core c).chan ch = q) (hn : q.nextStart = some (x, l)) (hs : x.set = false)
    (hr : x.resume = true) (ha : q.act = some a) (h4 : q.st = 4) (hx : x.ap = false ∨ bits x.v 7 57 = 0) :
    ∃ t, exec (.copyAccept c ch) s = .next t ∧ t.mem = s.mem ∧ t.dies = s.dies ∧ t.pkg = s.pkg ∧
      (t.core c).chan ch = { q with pend := l, act := some (a.resumed q.rprog), st := a.first, cause := 0 } ∧
      (a.words = [] → OnlyCore s t c) ∧
      ((a.words.map fun e => (e.1, e.2.1)).Nodup → ∀ e ∈ a.words, t.accWord (e.1, e.2.1) = e.2.2) := by
  have hgo : (W.of s).copyAccept c ch = _ := (copyAccept_eq (w := W.of s) hq (by omega) hn).trans
    ((if_neg (by simp [hs])).trans ((if_pos hr).trans (resumeStart_eq hq ha h4 hx)))
  have hk := keepsCopies_restoreWords ((W.of s).modChan c ch fun y => { y with pend := l }) a.words
  obtain ⟨hmem, hdies, hpkg⟩ := hk.commit_modChan (s := s) (c := c) (ch := ch)
    (f := fun y => { y with act := some (a.resumed y.rprog), st := a.first, cause := 0 }) rfl rfl
  refine ⟨_, congrArg (go s) hgo, hmem, hdies, hpkg, ?_, fun hw => ?_, fun hnd e he => ?_⟩
  · rw [core_commit, chan_modChan, hk.chan c ch, chan_modChan, W.of_core, hq]
  · rw [hw, List.foldl_nil, W.modChan, W.modChan, W.modCore_modCore]
    exact onlyCore_modCore s c _
  · rw [accWord_commit, accWord_modChan, accWord_restoreWords _ hnd he]
end

/-! ### Activation (R102) -/

theorem copyFar_congr {s t : State} (h : t.pkg = s.pkg) (x : Copy) : t.copyFar x = s.copyFar x := by
  simp only [State.copyFar, target_congr h]

/-- An invalid template fails the first check. -/
theorem activation_invalid (s : State) (c : Nat) {x : Copy} (h : Tpl.valid x.img = false) :
    s.activation c x = some (1, { code := 9, sub := 1, i0 := 0x8c2 }) := by
  have hne : (Tpl.faults x.img).isEmpty = false := by simp [Tpl.faults, h]
  have hc : s.cause1Ok x = false := by simp [State.cause1Ok, hne]
  exact if_pos (congrArg not hc)

theorem Core.mem_addAttr (k : Core) (ch : Nat) (y : Cause) : (ch, y) ∈ (k.addAttr ch y).pipe.attr := by simp [Core.addAttr]

section
variable {s : State} {w : W} {c ch : Nat} {q : Channel} {x : Copy}

/-- The copy of an unstepped bundle faults: its channel, and the cause at its core. -/
theorem chanFault_eq (n : Nat) (y : Cause) (hq : (w.core c).chan ch = q) (ha : q.act = some x) (hs : x.stepped = false) :
    w.chanFault c ch n y = w.modCore c fun k => (k.setChan ch { q with st := 4, cause := n, act := some x }).addAttr ch
      { y with i1 := ({ q with st := 4, cause := n, act := some x } : Channel).info ch, i2 := word x.tpl } := by
  unfold W.chanFault W.chanCause
  simp only [chan_modChan, hq, ha, hs, Bool.false_eq_true, if_false]
  rw [W.modChan, W.modCore_modCore]
  exact W.modCore_congr _ _ (by simp only [hq, ha])

theorem modAct_noClaims (hq : (w.core c).chan ch = q) (ha : q.act = some x) (hcl : x.claims = []) :
    w.modAct c ch (fun x => { x with claims := [] }) = w.modChan c ch fun _ => q := by
  have hx : ({ x with claims := [] } : Copy) = x := by rw [← hcl]
  unfold W.modAct W.modChan
  refine W.modCore_congr _ _ ?_
  simp only [hq, ha, Option.map_some, hx]
  rw [← ha]

section
variable (hq : (s.core c).chan ch = q) (ha : q.act = some x) (hc : x.checked = false) (h4 : q.st ≠ 4) (h5 : q.st ≠ 5)
include hq ha hc h4 h5

/-- The checks pass, and no claim is left to place: the copy goes on. -/
theorem copyActivate_passes (hact : s.activation c x = none) (hcl : x.claims ≠ [] ∨ s.claimSet c x = [])
    (hfar : s.copyFar x = none) :
    (W.of s).copyActivate c ch = (W.of s).modChan c ch fun _ => { q with act := some { x with checked := true } } := by
  have ht : (if x.claims.isEmpty then s.claimSet c x else []) = [] := by
    split
    · next he => exact hcl.resolve_left fun h => h (List.isEmpty_iff.mp he)
    · rfl
  have hkeep : (if x.claims.isEmpty then [] else x.claims) = x.claims := by
    split
    · next he => exact (List.isEmpty_iff.mp he).symm
    · rfl
  have hmod : (W.of s).modAct c ch (fun y => { y with checked := true, claims := if y.claims.isEmpty then [] else y.claims }) =
      (W.of s).modChan c ch fun _ => { q with act := some { x with checked := true } } := by
    unfold W.modAct W.modChan
    refine W.modCore_congr _ _ ?_
    simp only [W.of_core, hq, ha, Option.map_some, hkeep]
  have hfar' : ((W.of s).modChan c ch fun _ => { q with act := some { x with checked := true } }).copyFar x = none :=
    (copyFar_congr (s := s) rfl x).trans hfar
  unfold W.copyActivate
  simp only [hq, ha, hc, h4, h5, W.of_toState, hact, ht, Bool.false_eq_true, or_self, if_false, W.placeClaims, List.foldl_nil,
    State.claimsFit, List.all_nil, Bool.not_true, hmod, hfar']

theorem copyActivate_fails {n : Nat} {y : Cause} (hact : s.activation c x = some (n, y)) (hcl : x.claims = []) :
    (W.of s).copyActivate c ch = ((W.of s).modChan c ch fun _ => q).chanFault c ch n y := by
  unfold W.copyActivate
  simp only [hq, ha, hc, h4, h5, W.of_toState, hact, hcl, Bool.false_eq_true, or_self, if_false, W.dropClaims, List.map_nil,
    List.foldl_nil]
  rw [modAct_noClaims hq ha hcl]

/-- A check fails: the channel is in FAULT, and its trap is pending at the core. -/
theorem copyActivate_fault {n : Nat} {y : Cause} (hact : s.activation c x = some (n, y)) (hcl : x.claims = [])
    (hs : x.stepped = false) :
    let q' : Channel := { q with st := 4, cause := n, act := some x }
    ∃ t, exec (.copyActivate c ch) s = .next t ∧ OnlyCore s t c ∧ (t.core c).chan ch = q' ∧
      (ch, { y with i1 := q'.info ch, i2 := word x.tpl }) ∈ (t.core c).pipe.attr := by
  have hfail := copyActivate_fails hq ha hc h4 h5 hact hcl
  rw [chanFault_eq n y (chan_modChan ..) ha hs, W.modChan, W.modCore_modCore] at hfail
  refine ⟨_, congrArg (go s) hfail, onlyCore_modCore s c _, ?_, ?_⟩ <;> rw [core_commit, W.core_modCore_same]
  · exact Core.chan_setChan ..
  · exact Core.mem_addAttr ..
end

/-! ### The acquire (R99, R102) -/

theorem refreshMirrors_rest (w : W) (d : Nat) : w.refreshMirrors d = { w with dies := (w.refreshMirrors d).dies } := by
  unfold W.refreshMirrors
  refine List.foldlRecOn _ _ (motive := fun w' : W => w' = { w with dies := w'.dies }) rfl fun w' h e _ => ?_
  unfold W.refreshMirror
  dsimp only
  split
  · conv_lhs => rw [h]
    rfl
  · exact h

theorem acquired_rest (w : W) (c scope : Nat) : w.acquired c scope = { w with dies := (w.acquired c scope).dies } := by
  unfold W.acquired
  split
  · exact refreshMirrors_rest ..
  · rfl

/-- Performing an acquire leaves memory, package and cores. -/
theorem commit_acquired (w : W) (s : State) (c scope : Nat) : ((w.acquired c scope).commit s).mem = (w.commit s).mem ∧
    ((w.acquired c scope).commit s).pkg = w.pkg ∧ ∀ e, ((w.acquired c scope).commit s).core e = w.core e := by
  rw [acquired_rest]
  exact ⟨rfl, rfl, fun _ => rfl⟩

theorem sext_bits (t : Tpl) : sext 32 (bits t 256 32) = (t.extractLsb' 256 32).toInt := by
  have hb : bits t 256 32 = (t.extractLsb' 256 32).toNat := by simp [bits]
  rw [hb, sext, BitVec.toInt_eq_toNat_cond, Nat.mod_eq_of_lt (BitVec.isLt _)]
  rfl

section
variable {o i : Nat} (hq : (s.core c).chan ch = q) (ha : q.act = some x) (hc : x.checked = true) (h1 : q.st = 1)
    (hh : (s.core c).chanHalt = false) (hp : s.syncPlace x.ctx (Tpl.async x.img) = some (.inl (o, i)))
    (hw : s.accWaits o x.ctx (i / 4096) = false) (hf : s.frozen c (dieOf o) x.ctx = false)
include hq ha hc h1 hh hp hw hf

/-- The acquire of a copy whose word is this package's, and not held. -/
theorem copyAcquire_here :
    (W.of s).copyAcquire c ch =
      if (x.img.extractLsb' 256 32).sle ((s.accWord (o, i)).truncate 32) then
        ((W.of s).modChan c ch fun _ => { q with st := 2, act := some { x with acqDone := true } }).acquired c (Tpl.scope x.img)
      else W.of s := by
  unfold W.copyAcquire
  simp only [hq, ha, hc, h1, W.of_toState, hh, hp, hw, hf]
  refine (if_neg fun h => absurd h.2.1 (by decide)).trans ((if_neg (by decide)).trans ((if_neg (by decide)).trans ?_))
  refine ite_congr ?_ (fun _ => congrArg (·.acquired c (Tpl.scope x.img)) (W.modCore_congr _ _ ?_)) fun _ => rfl
  · rw [sext_bits, BitVec.sle_iff_toInt_le]
    rfl
  · simp only [W.of_core, hq, ha, hc, Option.map_some]

/-- The acquire is performed, or waits. -/
theorem copyAcquireDone_here :
    ((x.img.extractLsb' 256 32).sle ((s.accWord (o, i)).truncate 32) = true →
      ∃ t, exec (.copyAcquireDone c ch) s = .next t ∧ t.mem = s.mem ∧ t.pkg = s.pkg ∧ (∀ e, e ≠ c → t.core e = s.core e) ∧
        t.core c = (s.core c).setChan ch { q with st := 2, act := some { x with acqDone := true } }) ∧
    ((x.img.extractLsb' 256 32).sle ((s.accWord (o, i)).truncate 32) = false → exec (.copyAcquireDone c ch) s = .next s) := by
  have heq := copyAcquire_here hq ha hc h1 hh hp hw hf
  refine ⟨fun hle => ?_, fun hle => ?_⟩ <;> rw [hle] at heq
  · obtain ⟨hmem, hpkg, hcore⟩ := commit_acquired
      ((W.of s).modChan c ch fun _ => { q with st := 2, act := some { x with acqDone := true } }) s c (Tpl.scope x.img)
    exact ⟨_, congrArg (go s) heq, hmem, hpkg, fun e he => (hcore e).trans (W.core_modCore_ne _ _ _ he),
      (hcore c).trans (core_modChan ..)⟩
  · exact congrArg (go s) heq
end

/-! ### Admission at a reduce copy's home (R101; 08 R199) -/

/-- Of a list with one strictly earliest entry, that entry is found. -/
theorem foldl_earliest {α : Type} {b : Nat × α} (l : List (Nat × α)) : ∀ p, b ∈ p :: l → (∀ y ∈ p :: l, y ≠ b → b.1 < y.1) →
    l.foldl (fun a y => if y.1 < a.1 then y else a) p = b := by
  induction l with
  | nil => exact fun p hb _ => (List.mem_singleton.mp hb).symm
  | cons y l ih =>
    intro p hb hlt
    have hrest {x : Nat × α} (hx : x ∈ p :: l) : x ∈ p :: y :: l := by
      obtain rfl | hx := List.mem_cons.mp hx
      · exact List.mem_cons_self
      · exact List.mem_cons_of_mem _ (List.mem_cons_of_mem _ hx)
    rw [List.foldl_cons]
    split
    · next hyp =>
      have hpb : b ≠ p := by
        rintro rfl
        have := hlt y (by simp) fun h => Nat.lt_irrefl _ (h ▸ hyp)
        omega
      exact ih y ((List.mem_cons.mp hb).resolve_left hpb) fun x hx => hlt x (List.mem_cons_of_mem _ hx)
    · next hyp =>
      refine ih p ?_ fun x hx => hlt x (hrest hx)
      by_cases hpb : p = b
      · exact hpb ▸ List.mem_cons_self
      · have hyb : b ≠ y := fun h => hyp (h ▸ hlt p List.mem_cons_self hpb)
        exact List.mem_cons_of_mem _ ((List.mem_cons.mp ((List.mem_cons.mp hb).resolve_left (Ne.symm hpb))).resolve_left hyb)

/-- The home with the copy of channel `ch` of core `c` admitted. -/
def Core.withAdmitted (k : Core) (c ch : Nat) : Core := { k with slots := { k.slots with adm := some (c, ch) } }

theorem keepsCopies_withAdmitted (o : Nat) : KeepsCopies w (w.modCore o fun k => k.withAdmitted c ch) :=
  keepsCopies_modCore o fun _ => ⟨rfl, rfl, rfl⟩

section
variable {o n : Nat} (hadm : (s.core o).slots.adm = none) (hm : (n, c, ch) ∈ s.slotWaiters o)
    (hfirst : ∀ y ∈ s.slotWaiters o, y ≠ (n, c, ch) → n < y.1) (hq : (s.core c).chan ch = q) (ha : q.act = some x)
    (hask : ∀ a, s.slotAsk o = some a → x.since ≤ a.since)
include hadm hm hfirst hq ha hask

/-- The home's current entry names a waiting copy of this package before every other: that copy is admitted. -/
theorem reduceAdmit_here :
    (W.of s).reduceAdmit o = ((W.of s).modCore o fun k => k.withAdmitted c ch).modChan c ch
      fun q => { q with act := some { x with admitted := true }, st := ({ x with admitted := true } : Copy).first } := by
  have hno : ((s.slotAsk o).any fun a => decide (a.since < x.since)) = false := by
    cases h : s.slotAsk o with
    | none => rfl
    | some a => simpa using hask a h
  unfold W.reduceAdmit
  simp only [W.of_toState, hadm, Option.isSome_none, Bool.false_eq_true, if_false]
  cases hl : s.slotWaiters o with
  | nil => rw [hl] at hm; cases hm
  | cons p l =>
    rw [hl] at hm hfirst
    simp only [foldl_earliest l p hm hfirst, hq, ha, Option.map_some, Option.getD_some, hno, Bool.false_eq_true, if_false]
    have hch := ((keepsCopies_withAdmitted (w := W.of s) (c := c) (ch := ch) o).chan c ch).trans hq
    unfold Core.withAdmitted at hch ⊢
    exact W.modCore_congr _ _ (by simp only [hch, ha, Option.map_some])

theorem reduceAdmit_step :
    ∃ t, exec (.reduceAdmit o) s = .next t ∧ t.mem = s.mem ∧ t.dies = s.dies ∧ t.pkg = s.pkg ∧
      (t.core o).slots = { (s.core o).slots with adm := some (c, ch) } ∧
      (t.core c).chan ch = { q with act := some { x with admitted := true }, st := ({ x with admitted := true } : Copy).first } := by
  refine ⟨_, congrArg (go s) (reduceAdmit_here hadm hm hfirst hq ha hask), rfl, rfl, rfl, ?_, ?_⟩
  · rw [core_commit, W.modChan, W.core_modCore]
    split
    · next h => rw [← h]; exact congrArg Core.slots (W.core_modCore_same ..)
    · exact congrArg Core.slots (W.core_modCore_same ..)
  · rw [core_commit, chan_modChan, (keepsCopies_withAdmitted o).chan c ch, W.of_core, hq]
end

/-! ### An index for a gather row (R100) -/

theorem takeIndex_eq {i : Int} {l : List Int} (hq : (w.core c).chan ch = q) (ha : q.act = some x) (hi : q.indices = i :: l)
    (hc : x.checked = true) (h2 : q.st = 2) (hg : Tpl.gather x.img = true) (hl : x.front < Tpl.total x.img)
    (hn : x.indexed x.front = false) :
    w.takeIndex c ch = w.modChan c ch fun q => { q with act := some { x with idx := x.idx ++ [i] }, indices := l } := by
  unfold W.takeIndex
  simp only [hq, ha, hi]
  exact if_pos ⟨hc, h2, hg, hl, congrArg not hn⟩

end

/-! ### The statement -/

/-- Settles O40: each trigger of the cp unit by what it answers; then each step of a starting copy by the one change that it is. -/
theorem copyCommands : Obligations.CopyCommands := by
  refine ⟨⟨tplw_triggers, tplw_holds, fun c => ⟨cpgo_triggers c, cpgoResume_triggers c, cpgo_traps c, cpgo_holds c⟩, gqpush_triggers,
    gqpush_holds, cpwait_triggers, cpwait_holds, cpstat_triggers, cpabort_triggers, tplw_traps, gqpush_traps, cpwait_traps,
    cpstat_traps, cpabort_traps⟩, fun s c ch hch => ?_⟩
  refine ⟨fun v he hv => channel_step (congrArg (go s) (apertureWord_enabled hch he hv)) rfl,
    fun v he hv => channel_step (congrArg (go s) (apertureWord_enabled hch he hv)) rfl,
    fun x l h5 hn hs => channel_step (congrArg (go s) ((copyAccept_eq (w := W.of s) rfl h5 hn).trans (if_pos hs))) rfl,
    fun x l h5 hn hs hr hf => ?_,
    fun x l a hn hs hr ha h4 hx => copyAccept_resume rfl hn hs hr ha h4 hx,
    fun x ha hc h4 h5 hact hcl hfar => channel_step (congrArg (go s) (copyActivate_passes rfl ha hc h4 h5 hact hcl hfar)) rfl,
    fun x n y ha hc h4 h5 hact hcl hs => copyActivate_fault rfl ha hc h4 h5 hact hcl hs, fun x => activation_invalid s c,
    fun x o i ha hc h1 hh hp hw hf => copyAcquireDone_here rfl ha hc h1 hh hp hw hf,
    fun o n x hadm hm hfirst ha hask => reduceAdmit_step hadm hm hfirst rfl ha hask,
    fun x i l ha hi hc h2 hg hl hn => channel_step (congrArg (go s) (takeIndex_eq (w := W.of s) rfl ha hi hc h2 hg hl hn)) rfl⟩
  obtain ⟨t, ht, hmem, hdies, hpkg, hkept, hq, hcl⟩ := copyAccept_start rfl h5 hn hs hr hf
  obtain ⟨htick, hcause, hpend⟩ := Channel.accepted_fields ((s.core c).chan ch) l (s.acceptedCopy c ch x)
  rw [← hq] at htick hcause hpend
  refine ⟨t, ht, hmem, hdies, hpkg, hkept, htick, hcause, hpend, fun hfree => ?_, fun a hbusy => ?_, fun e he => ?_⟩
  · have hq' := hq.trans (Channel.accepted_free _ _ _ hfree)
    exact ⟨congrArg Channel.act hq', congrArg Channel.st hq', congrArg Channel.rprog hq', (congrArg Channel.queue hq' :)⟩
  · have hq' := hq.trans (Channel.accepted_busy _ _ _ hbusy)
    exact ⟨(congrArg Channel.act hq').trans hbusy, (congrArg Channel.st hq' :), (congrArg Channel.queue hq' :)⟩
  · obtain ⟨hcount, hpres⟩ := Prod.ext_iff.mp (hcl e he)
    exact ⟨hpres, hcount⟩

end Sys2Proof.Machine
end

section
/-!
The own-line loads and stores of the ls unit: their address, their checks, the landing that a load leaves and the line that a
store writes (05 R123, R126, R128, R130, R133, R138..R140).
-/

namespace Sys2Proof.Machine

/-! ### The triggers of the ls unit -/

/-- `i` is the load `id` of `n` bytes. -/
structure IsLoad (id n : Nat) (i : Slot → Instr) : Prop where
  trig : IsTrigger id (BitVec.ofNat 12 id) i Slot.m trigLoad
  size : (loadSize id).1 = n
  block : id / 64 = 6
  notSpecial : id ≠ 0x18c ∧ id ≠ 0x191

theorem isLoad_ldl : IsLoad 0x182 128 .ldl := ⟨⟨rfl, fun _ => rfl, fun _ _ => rfl, by decide⟩, rfl, rfl, by decide⟩
theorem isLoad_ldsB : IsLoad 0x183 1 .ldsB := ⟨⟨rfl, fun _ => rfl, fun _ _ => rfl, by decide⟩, rfl, rfl, by decide⟩
theorem isLoad_ldsH : IsLoad 0x184 2 .ldsH := ⟨⟨rfl, fun _ => rfl, fun _ _ => rfl, by decide⟩, rfl, rfl, by decide⟩
theorem isLoad_ldsW : IsLoad 0x185 4 .ldsW := ⟨⟨rfl, fun _ => rfl, fun _ _ => rfl, by decide⟩, rfl, rfl, by decide⟩
theorem isLoad_ldsD : IsLoad 0x186 8 .ldsD := ⟨⟨rfl, fun _ => rfl, fun _ _ => rfl, by decide⟩, rfl, rfl, by decide⟩
theorem isLoad_ldsxB : IsLoad 0x187 1 .ldsxB := ⟨⟨rfl, fun _ => rfl, fun _ _ => rfl, by decide⟩, rfl, rfl, by decide⟩
theorem isLoad_ldsxH : IsLoad 0x188 2 .ldsxH := ⟨⟨rfl, fun _ => rfl, fun _ _ => rfl, by decide⟩, rfl, rfl, by decide⟩
theorem isLoad_ldsxW : IsLoad 0x189 4 .ldsxW := ⟨⟨rfl, fun _ => rfl, fun _ _ => rfl, by decide⟩, rfl, rfl, by decide⟩

/-- The eight own-line loads with their sizes (R138). -/
def ownLoads : List (Nat × Nat × (Slot → Instr)) :=
  [(0x182, 128, .ldl), (0x183, 1, .ldsB), (0x184, 2, .ldsH), (0x185, 4, .ldsW), (0x186, 8, .ldsD), (0x187, 1, .ldsxB),
   (0x188, 2, .ldsxH), (0x189, 4, .ldsxW)]

theorem isLoad_of_mem {p : Nat × Nat × (Slot → Instr)} (h : p ∈ ownLoads) : IsLoad p.1 p.2.1 p.2.2 := by
  simp only [ownLoads, List.mem_cons, List.not_mem_nil, or_false] at h
  obtain rfl | rfl | rfl | rfl | rfl | rfl | rfl | rfl := h
  exacts [isLoad_ldl, isLoad_ldsB, isLoad_ldsH, isLoad_ldsW, isLoad_ldsD, isLoad_ldsxB, isLoad_ldsxH, isLoad_ldsxW]

/-- `i` is the store `id` of `n` bytes at address `ea`. -/
structure IsStore (id n : Nat) (i : Slot → Instr) (ea : State → Line → Nat) (tf : TrigFn) : Prop where
  trig : IsTrigger id (BitVec.ofNat 12 id) i Slot.m tf
  size : storeSize id = n
  block : id / 64 = 6
  addr : ea = if id = 0x18c then fun _ v => (scalarOf v).toNat else lsEa

theorem isStore_stl : IsStore 0x18a 128 .stl lsEa trigStore := ⟨⟨rfl, fun _ => rfl, fun _ _ => rfl, by decide⟩, rfl, rfl, rfl⟩
theorem isStore_stln : IsStore 0x18b 128 .stln lsEa trigStln := ⟨⟨rfl, fun _ => rfl, fun _ _ => rfl, by decide⟩, rfl, rfl, rfl⟩
theorem isStore_stlm : IsStore 0x18c 128 .stlm (fun _ v => (scalarOf v).toNat) trigStore :=
  ⟨⟨rfl, fun _ => rfl, fun _ _ => rfl, by decide⟩, rfl, rfl, rfl⟩
theorem isStore_stsB : IsStore 0x18d 1 .stsB lsEa trigStore := ⟨⟨rfl, fun _ => rfl, fun _ _ => rfl, by decide⟩, rfl, rfl, rfl⟩
theorem isStore_stsH : IsStore 0x18e 2 .stsH lsEa trigStore := ⟨⟨rfl, fun _ => rfl, fun _ _ => rfl, by decide⟩, rfl, rfl, rfl⟩
theorem isStore_stsW : IsStore 0x18f 4 .stsW lsEa trigStore := ⟨⟨rfl, fun _ => rfl, fun _ _ => rfl, by decide⟩, rfl, rfl, rfl⟩
theorem isStore_stsD : IsStore 0x190 8 .stsD lsEa trigStore := ⟨⟨rfl, fun _ => rfl, fun _ _ => rfl, by decide⟩, rfl, rfl, rfl⟩

/-! ### The rights and the address of an access -/

theorem allowed_ls {s : State} {id : Nat} {m : BitVec 4} (h : id / 64 = 6) : Allowed s id m := by
  refine allowed_outside (by omega) ?_
  simp only [needsTier, Bool.and_eq_false_iff, decide_eq_false_iff_not]
  omega

theorem lineTrig_ls {id : Nat} (h : id / 64 = 6) : lineTrig id = false := by
  simp only [lineTrig, Bool.and_eq_false_iff, decide_eq_false_iff_not]
  omega

section
variable {s : State} {id n ea : Nat} {m : BitVec 4} {v : Line} {src : Src} {x : Cause}

/-- Trigger value plus `ls.m`, and for STLM the trigger value alone (R138). -/
theorem lsAddr_eq (h : id / 64 = 6) : (trigCtx s id m v).lsAddr (trigStart s src) =
    if id = 0x18c then (scalarOf v).toNat else lsEa s v := by
  simp only [TCtx.lsAddr, trigCtx_id, trigCtx_v s id m v (lineTrig_ls h), trigCtx_c, portW_trigStart]
  rfl

/-! ### The checks of an access (R123, R133, R138) -/

theorem ownCheck_outside (h : 2 ^ 22 ≤ ea) : (trigCtx s id m v).ownCheck ea n = some (windowFault 1 (ea / 128) id) := if_pos h

theorem ownCheck_line (h : ea < 2 ^ 22) (hc : lineCheck s s.focus (s.env s.focus) true 1 id (ea / 128) = some x) :
    (trigCtx s id m v).ownCheck ea n = some x := by
  simp only [TCtx.ownCheck, if_neg (Nat.not_le.mpr h), trigCtx_pre, trigCtx_c, trigCtx_env, trigCtx_slot, trigCtx_id, hc]

theorem ownCheck_aligned (h : ea < 2 ^ 22) (hc : lineCheck s s.focus (s.env s.focus) true 1 id (ea / 128) = none) :
    (trigCtx s id m v).ownCheck ea n = if ea % n = 0 then none else some (engineFault 1 id) := by
  simp only [TCtx.ownCheck, if_neg (Nat.not_le.mpr h), trigCtx_pre, trigCtx_c, trigCtx_env, trigCtx_slot, trigCtx_id, hc]

theorem OwnAccess.ownCheck (h : OwnAccess s id n ea) : (trigCtx s id m v).ownCheck ea n = none := by
  obtain ⟨hlt, hc, ha⟩ := h
  rw [ownCheck_aligned hlt hc, if_pos ha]

/-- A line outside the frame is checked against the allotment and the buffer that covers it. -/
theorem lineCheck_eq {ln : Nat} (h : s.now.mode ≠ .handler ∨ isFrameLine ln = false) :
    lineCheck s s.focus (s.env s.focus) true 1 id ln =
      if s.allotted s.focus (s.env s.focus).ctx ln then
        if s.lineRight s.focus s.focus (s.env s.focus).ctx ln .own then none else some (handleFault 1 ln id)
      else some (windowFault 1 ln id) := by
  refine if_neg fun hf => ?_
  simp only [Bool.true_and, Bool.and_eq_true, decide_eq_true_eq] at hf
  obtain ⟨hmode, hframe⟩ := hf
  rcases h with h | h
  · exact h hmode
  · exact Bool.false_ne_true (h.symm.trans hframe)

end

/-- A trigger of the ls unit that makes the checks of an access of `n` own bytes at `ea` before all else. -/
structure ChecksOwn (id n : Nat) (i : Slot → Instr) (ea : State → Line → Nat) (tf : TrigFn) : Prop where
  trig : IsTrigger id (BitVec.ofNat 12 id) i Slot.m tf
  block : id / 64 = 6
  traps : ∀ {s : State} {m : BitVec 4} {v : Line} {src : Src} {x : Cause},
    (trigCtx s id m v).ownCheck (ea s v) n = some x → tf (trigCtx s id m v) (trigStart s src) = .trap x

section
variable {id n : Nat} {i : Slot → Instr} {ea : State → Line → Nat} {tf : TrigFn}

theorem ChecksOwn.trapsIf (h : ChecksOwn id n i ea tf) {P : State → Slot → Line → Prop} {x : State → Slot → Line → Cause}
    (hk : ∀ s f v, P s f v → (trigCtx s id f.m v).ownCheck (ea s v) n = some (x s f v)) : TrapsIf id i P x :=
  h.trig.trapsIf (fun _ _ _ _ => allowed_ls h.block) fun s f _ v hp => h.traps (hk s f v hp)

/-- Outside the VRF. -/
theorem ChecksOwn.outside (h : ChecksOwn id n i ea tf) :
    TrapsIf id i (fun s _ v => 2 ^ 22 ≤ ea s v) (fun s _ v => windowFault 1 (ea s v / 128) id) :=
  h.trapsIf fun _ _ _ => ownCheck_outside

/-- Outside the allotment. -/
theorem ChecksOwn.notAllotted (h : ChecksOwn id n i ea tf) :
    TrapsIf id i (fun s _ v => ea s v < 2 ^ 22 ∧ (s.now.mode ≠ .handler ∨ isFrameLine (ea s v / 128) = false) ∧
        s.allotted s.focus (s.env s.focus).ctx (ea s v / 128) = false)
      (fun s _ v => windowFault 1 (ea s v / 128) id) := by
  refine h.trapsIf fun s f v ⟨hlt, hframe, hall⟩ => ownCheck_line hlt ?_
  rw [lineCheck_eq hframe, hall, if_neg Bool.false_ne_true]

/-- A line of a buffer that the core does not hold. -/
theorem ChecksOwn.noRight (h : ChecksOwn id n i ea tf) :
    TrapsIf id i (fun s _ v => ea s v < 2 ^ 22 ∧ (s.now.mode ≠ .handler ∨ isFrameLine (ea s v / 128) = false) ∧
        s.allotted s.focus (s.env s.focus).ctx (ea s v / 128) = true ∧
        s.lineRight s.focus s.focus (s.env s.focus).ctx (ea s v / 128) .own = false)
      (fun s _ v => handleFault 1 (ea s v / 128) id) := by
  refine h.trapsIf fun s f v ⟨hlt, hframe, hall, hright⟩ => ownCheck_line hlt ?_
  rw [lineCheck_eq hframe, hall, if_pos rfl, hright, if_neg Bool.false_ne_true]

/-- An address that is no multiple of the size. -/
theorem ChecksOwn.misaligned (h : ChecksOwn id n i ea tf) :
    TrapsIf id i (fun s _ v => ea s v < 2 ^ 22 ∧
        lineCheck s s.focus (s.env s.focus) true 1 id (ea s v / 128) = none ∧ ea s v % n ≠ 0)
      (fun _ _ _ => engineFault 1 id) := by
  refine h.trapsIf fun s f v ⟨hlt, hc, ha⟩ => ?_
  rw [ownCheck_aligned hlt hc, if_neg ha]
end

/-! ### What a load answers (R126, R128, R130, R139) -/

section
variable {s : State} {id n ea : Nat} {i : Slot → Instr} {m : BitVec 4} {v l : Line} {src : Src} {x : Cause}

theorem landingClass_eq (m : BitVec 4) : landingClass m = [4, 6, 8, 12, 16, 24, 32, 64].getD (m.toNat % 8) 4 := by
  rw [landingClass, bits, Nat.shiftRight_zero]
  rfl

/-- The data of an own line is there after four clock cycles (R131; log 62). -/
theorem loadTime_own {c ctx a : Nat} (h : id ≠ 0x191) : s.loadTime c ctx id a = 4 := if_pos h

/-- The landing meets a pending one. -/
theorem land_clash {q : Nat} (pres : Bool) (aw : Await)
    (h : s.now.landingClash (loadPorts id m) (s.now.pipe.run + landingClass m) = some q) :
    (trigCtx s id m v).land (trigStart s src) ea l pres aw =
      .trap { code := 4, slot := 1, i0 := word q, i1 := word (landingClass m) } := by
  simp only [TCtx.land, trigCtx_k, trigCtx_id, trigCtx_m, trigCtx_run, trigCtx_slot, h]

/-- The landing of an own-line load meets none: it is pending, with its data or with what it waits for. -/
theorem land_own (pres : Bool) (aw : Await) (hid : id ≠ 0x191)
    (h : s.now.landingClash (loadPorts id m) (s.now.pipe.run + landingClass m) = none) :
    (trigCtx s id m v).land (trigStart s src) ea l pres aw = .ok ((trigStart s src).modCore s.focus fun k =>
      k.withItem { landing s id m ea 4 (if aw = .ready then loadWrites id m ea l pres else []) with
        kind := if aw = .ready then .res else .lreq, await := aw }) := by
  simp only [TCtx.land, trigCtx_k, trigCtx_id, trigCtx_m, trigCtx_run, h, W.addItem, trigCtx_c, loadTime_own hid,
    landing, ← landingClass_eq]
  rfl

theorem IsLoad.lsAddr (h : IsLoad id n i) : (trigCtx s id m v).lsAddr (trigStart s src) = lsEa s v := by
  rw [lsAddr_eq h.block, if_neg h.notSpecial.1]

theorem IsLoad.trap_of_check (h : IsLoad id n i)
    (hx : ((trigCtx s id m v).ownCheck (lsEa s v) n).or (softCheck s.now 1 id (lsEa s v / 128)) = some x) :
    trigLoad (trigCtx s id m v) (trigStart s src) = .trap x := by
  simp only [trigLoad, h.lsAddr, trigCtx_id, h.size, trigCtx_k, trigCtx_slot, hx]

/-- A load that passes its checks is accepted. -/
theorem IsLoad.accepted (h : IsLoad id n i) (ho : OwnAccess s id n (lsEa s v)) (hs : s.now.soft.contains (lsEa s v / 128) = false) :
    trigLoad (trigCtx s id m v) (trigStart s src) = (trigCtx s id m v).land (trigStart s src) (lsEa s v)
      (s.now.line (lsEa s v / 128)) (s.now.present (lsEa s v / 128))
      (if m.getLsbD 3 || s.now.present (lsEa s v / 128) then .ready else .line s.focus (lsEa s v / 128)) := by
  have hsoft : softCheck s.now 1 id (lsEa s v / 128) = none := by rw [softCheck, hs, if_neg Bool.false_ne_true]
  have hx : ((trigCtx s id m v).ownCheck (lsEa s v) n).or (softCheck s.now 1 id (lsEa s v / 128)) = none := by
    rw [ho.ownCheck, hsoft]; rfl
  simp only [trigLoad, h.lsAddr, trigCtx_id, h.size, trigCtx_k, trigCtx_slot, hx]
  rfl

theorem IsLoad.checksOwn (h : IsLoad id n i) : ChecksOwn id n i lsEa trigLoad :=
  ⟨h.trig, h.block, fun hx => h.trap_of_check (by rw [hx]; rfl)⟩

/-- A load of an absent line that does not probe waits for the line. -/
theorem IsLoad.waits (h : IsLoad id n i) : TriggersIf id i
    (fun s f v => OwnAccess s id n (lsEa s v) ∧ s.now.soft.contains (lsEa s v / 128) = false ∧
      s.now.present (lsEa s v / 128) = false ∧ f.m.getLsbD 3 = false ∧
      s.now.landingClash (loadPorts id f.m) (s.now.pipe.run + landingClass f.m) = none)
    (fun s f v k => k.withItem { landing s id f.m (lsEa s v) 4 [] with
      kind := .lreq, await := .line s.focus (lsEa s v / 128) }) := by
  refine h.trig.triggersIf (fun _ _ _ _ => allowed_ls h.block) fun s f src v ⟨ho, hs, hp, hm, hc⟩ => ?_
  rw [h.accepted ho hs, land_own _ _ h.notSpecial.2 hc, hp, hm]
  rfl

/-- A load of a present line, or one that probes, takes the line. -/
theorem IsLoad.takes {port : Nat} {val : Line → Nat → Line} (h : IsLoad id n i)
    (hw : ∀ m ea l pres, loadWrites id m ea l pres =
      (port, val l (ea % 128)) :: if m.getLsbD 3 then [(0x181, lineOf (if pres then 1 else 0))] else []) :
    LoadOp id n i port val := by
  refine h.trig.triggersIf (fun _ _ _ _ => allowed_ls h.block) fun s f src v ⟨ho, hs, hp, hc⟩ => ?_
  have hready : (f.m.getLsbD 3 || s.now.present (lsEa s v / 128)) = true := by
    rw [Bool.or_eq_true]; exact hp.symm
  rw [h.accepted ho hs, land_own _ _ h.notSpecial.2 hc, if_pos hready, hw]
  rfl

/-- An uncorrectable line. -/
theorem IsLoad.softTraps (h : IsLoad id n i) : TrapsIf id i
    (fun s _ v => OwnAccess s id n (lsEa s v) ∧ s.now.soft.contains (lsEa s v / 128) = true)
    (fun s _ v => softError 1 (lsEa s v / 128) id) := by
  refine h.trig.trapsIf (fun _ _ _ _ => allowed_ls h.block) fun s f src v ⟨ho, hs⟩ => h.trap_of_check ?_
  rw [ho.ownCheck, softCheck, if_pos hs]
  rfl

/-- A landing on a port and in a run cycle that another has. -/
theorem IsLoad.clashTraps (h : IsLoad id n i) (q : Nat) : TrapsIf id i
    (fun s f v => OwnAccess s id n (lsEa s v) ∧ s.now.soft.contains (lsEa s v / 128) = false ∧
      s.now.landingClash (loadPorts id f.m) (s.now.pipe.run + landingClass f.m) = some q)
    (fun _ f _ => { code := 4, slot := 1, i0 := word q, i1 := word (landingClass f.m) }) := by
  refine h.trig.trapsIf (fun _ _ _ _ => allowed_ls h.block) fun s f src v ⟨ho, hs, hq⟩ => ?_
  rw [h.accepted ho hs, land_clash _ _ hq]
end

/-! ### The value that a load takes (R139) -/

section
variable {id n : Nat} (m : BitVec 4) (ea : Nat) (l : Line) (pres : Bool)

theorem loadWrites_line (h : (loadSize id).1 = 128) : loadWrites id m ea l pres =
    (0x180, l) :: if m.getLsbD 3 then [(0x181, lineOf (if pres then 1 else 0))] else [] := by
  have hm : bitAt m 3 = m.getLsbD 3 := rfl
  simp only [loadWrites, h, if_true, hm]
  split <;> rfl

theorem loadWrites_zero (h : loadSize id = (n, false)) (hn : n ≠ 128) : loadWrites id m ea l pres =
    (0x181, lineOf ((l.extractLsb' (8 * (ea % 128)) (8 * n)).zeroExtend 64)) ::
      if m.getLsbD 3 then [(0x181, lineOf (if pres then 1 else 0))] else [] := by
  have hm : bitAt m 3 = m.getLsbD 3 := rfl
  have hx : word (lineBytes l (ea % 128) n) = (l.extractLsb' (8 * (ea % 128)) (8 * n)).zeroExtend 64 := by
    rw [lineBytes, bits_eq_extract, word_zeroExtend]
  simp only [loadWrites, h, if_neg hn, hm, hx, Bool.false_eq_true, if_false]
  split <;> rfl

theorem loadWrites_sign (h : loadSize id = (n, true)) (hn : n ≠ 128) : loadWrites id m ea l pres =
    (0x181, lineOf ((l.extractLsb' (8 * (ea % 128)) (8 * n)).signExtend 64)) ::
      if m.getLsbD 3 then [(0x181, lineOf (if pres then 1 else 0))] else [] := by
  have hm : bitAt m 3 = m.getLsbD 3 := rfl
  have hx : BitVec.ofInt 64 (sext (8 * n) (lineBytes l (ea % 128) n)) =
      (l.extractLsb' (8 * (ea % 128)) (8 * n)).signExtend 64 := by
    rw [lineBytes, bits_eq_extract, sext_toNat, BitVec.signExtend]
  simp only [loadWrites, h, if_neg hn, hm, hx, if_true]
  split <;> rfl
end

section
variable {id n : Nat} {i : Slot → Instr}

/-- LDS zero-extends its bytes. -/
theorem IsLoad.takes_zero (h : IsLoad id n i) (hs : loadSize id = (n, false)) (hn : n ≠ 128) :
    LoadOp id n i 0x181 fun l b => lineOf ((l.extractLsb' (8 * b) (8 * n)).zeroExtend 64) :=
  h.takes fun m ea l pres => loadWrites_zero m ea l pres hs hn

/-- LDSX sign-extends its bytes. -/
theorem IsLoad.takes_sign (h : IsLoad id n i) (hs : loadSize id = (n, true)) (hn : n ≠ 128) :
    LoadOp id n i 0x181 fun l b => lineOf ((l.extractLsb' (8 * b) (8 * n)).signExtend 64) :=
  h.takes fun m ea l pres => loadWrites_sign m ea l pres hs hn
end

/-- Settles O17: a load that passes its checks lands with the line's value, or waits for the line where it is absent. -/
theorem loads : Obligations.Loads := by
  refine ⟨fun p hp => (isLoad_of_mem hp).waits, ?_, ?_, ?_, ?_, ?_, ?_, ?_, ?_⟩
  · exact isLoad_ldl.takes fun m ea l pres => loadWrites_line m ea l pres rfl
  · exact isLoad_ldsB.takes_zero rfl (by decide)
  · exact isLoad_ldsH.takes_zero rfl (by decide)
  · exact isLoad_ldsW.takes_zero rfl (by decide)
  · simpa using isLoad_ldsD.takes_zero rfl (by decide)
  · exact isLoad_ldsxB.takes_sign rfl (by decide)
  · exact isLoad_ldsxH.takes_sign rfl (by decide)
  · exact isLoad_ldsxW.takes_sign rfl (by decide)

/-! ### What a store answers (R138, R140) -/

theorem Core.fired_line (k : Core) (src : Src) (ln : Nat) : (k.fired src).line ln = k.line ln := k.took_line src ln

section
variable {s : State} {id n : Nat} {i : Slot → Instr} {ea : State → Line → Nat} {tf : TrigFn} {m : BitVec 4} {v : Line}
  {src : Src} {x : Cause}

theorem IsStore.lsAddr (h : IsStore id n i ea tf) : (trigCtx s id m v).lsAddr (trigStart s src) = ea s v := by
  rw [lsAddr_eq h.block, h.addr]
  split <;> rfl

theorem IsStore.checksOwn (h : IsStore id n i ea trigStore) : ChecksOwn id n i ea trigStore :=
  ⟨h.trig, h.block, fun hx => by simp only [trigStore, h.lsAddr, trigCtx_id, h.size, hx]⟩

/-- A store that passes its checks writes the line. -/
theorem IsStore.stores {val : State → Line → Line → Nat → Line} (h : IsStore id n i ea trigStore)
    (hval : ∀ s a old o, storeLine id a (s.now.regs.portW 0x181) old o = val s old o (a % 128)) : StoreOp id n i ea val := by
  refine h.trig.triggersIf (fun _ _ _ _ => allowed_ls h.block) fun s f src v ho => ?_
  have hc : (trigCtx s id f.m v).ownCheck (ea s v) n = none := ho.ownCheck
  simp only [trigStore, h.lsAddr, trigCtx_id, trigCtx_c, h.size, hc, portW_trigStart, hval]
  refine congrArg Res.ok (W.modCore_congr _ _ ?_)
  simp only [trigStart_core, Core.fired_line, Core.fired_regs]
end

/-- Settles O18: each store's line is what `storeLine` gives of the old line and `ls.o`. -/
theorem stores : Obligations.Stores :=
  ⟨isStore_stl.stores fun _ _ _ _ => rfl, isStore_stlm.stores fun _ _ _ _ => rfl, isStore_stsB.stores fun _ _ _ _ => rfl,
    isStore_stsH.stores fun _ _ _ _ => rfl, isStore_stsW.stores fun _ _ _ _ => rfl, isStore_stsD.stores fun _ _ _ _ => rfl⟩

/-- STLN makes the same checks first. -/
theorem checksOwn_stln : ChecksOwn 0x18b 128 .stln lsEa trigStln :=
  ⟨isStore_stln.trig, isStore_stln.block, fun hx => by simp only [trigStln, isStore_stln.lsAddr, hx]⟩

/-- The seven own-line stores with their sizes and addresses (R138). -/
def ownStores : List (Nat × Nat × (Slot → Instr) × (State → Line → Nat)) :=
  [(0x18a, 128, .stl, lsEa), (0x18b, 128, .stln, lsEa), (0x18c, 128, .stlm, fun _ v => (scalarOf v).toNat),
   (0x18d, 1, .stsB, lsEa), (0x18e, 2, .stsH, lsEa), (0x18f, 4, .stsW, lsEa), (0x190, 8, .stsD, lsEa)]

theorem checksOwn_of_mem_stores {p : Nat × Nat × (Slot → Instr) × (State → Line → Nat)} (h : p ∈ ownStores) :
    ∃ tf, ChecksOwn p.1 p.2.1 p.2.2.1 p.2.2.2 tf := by
  simp only [ownStores, List.mem_cons, List.not_mem_nil, or_false] at h
  obtain rfl | rfl | rfl | rfl | rfl | rfl | rfl := h
  exacts [⟨_, isStore_stl.checksOwn⟩, ⟨_, checksOwn_stln⟩, ⟨_, isStore_stlm.checksOwn⟩, ⟨_, isStore_stsB.checksOwn⟩,
    ⟨_, isStore_stsH.checksOwn⟩, ⟨_, isStore_stsW.checksOwn⟩, ⟨_, isStore_stsD.checksOwn⟩]

/-- The loads with the address that they all form. -/
def ownLoadsAt : List (Nat × Nat × (Slot → Instr) × (State → Line → Nat)) := ownLoads.map fun p => (p.1, p.2.1, p.2.2, lsEa)

theorem isLoad_of_mem_at {p : Nat × Nat × (Slot → Instr) × (State → Line → Nat)} (h : p ∈ ownLoadsAt) :
    IsLoad p.1 p.2.1 p.2.2.1 ∧ p.2.2.2 = lsEa := by
  obtain ⟨q, hq, rfl⟩ := List.mem_map.mp h
  exact ⟨isLoad_of_mem hq, rfl⟩

/-- Settles O19: the checks that all accesses make first, and the two that loads make beside them. -/
theorem ownLineTraps : Obligations.OwnLineTraps := by
  refine ⟨fun p hp => ?_, fun p hp => ?_⟩
  · have hc : ∃ tf, ChecksOwn p.1 p.2.1 p.2.2.1 p.2.2.2 tf := by
      rcases List.mem_append.mp hp with hp | hp
      · obtain ⟨hl, hea⟩ := isLoad_of_mem_at hp
        exact ⟨_, hea ▸ hl.checksOwn⟩
      · exact checksOwn_of_mem_stores hp
    obtain ⟨tf, hc⟩ := hc
    exact ⟨hc.outside, hc.notAllotted, hc.noRight, hc.misaligned⟩
  · obtain ⟨hl, -⟩ := isLoad_of_mem_at hp
    exact ⟨hl.softTraps, fun q => hl.clashTraps q⟩

end Sys2Proof.Machine
end

section
/-!
STLN: its checks of the legend and the survey, the line that it stores and the note that it takes (05 R121, R140; 10 R232, R238).
-/

namespace Sys2Proof.Machine

/-! ### A survey update beside a change of a core -/

section
variable (w : W) (c : Nat) (g : Core → Core)

theorem deliver_modCore (l : List Delta) : ∀ w : W, (w.modCore c g).deliver l = (w.deliver l).modCore c g := by
  induction l with
  | nil => exact fun _ => rfl
  | cons x l ih => exact fun w => ih (w.modDie x.home fun h => { h with inDeltas := h.inDeltas ++ [x] })

/-- A survey update and a change of a core do not meet. -/
theorem svUpdate_modCore (d n : Nat) (f : SvRec → SvRec) :
    (w.modCore c g).svUpdate d n f = (w.svUpdate d n f).modCore c g := by
  have hs : (w.modCore c g).survey d n = w.survey d n := rfl
  simp only [W.svUpdate, hs]
  split
  · have hd := deliver_modCore c g (Delta.makeRoom (w.die d).deltas n).2
      (w.modDie d fun x => { x with deltas := (Delta.makeRoom (w.die d).deltas n).1 })
    exact congrArg (fun u : W => u.modDie d fun x =>
      { x with deltas :=
          if x.deltas.any fun y => decide (y.sv = n) then x.deltas.map fun x => if x.sv = n then { x with img := f x.img } else x
          else x.deltas ++ [{ sv := n, home := (w.survey d n).home, img := f (w.survey d n), age := u.clk }] }) hd
  · rfl
end

/-! ### The answer of STLN -/

section
variable {s : State} {m : BitVec 4} {v : Line} {src : Src}

/-- The current legend's id, its record, and the lanes of `ls.o` that STLN notes (R140). -/
def curLegId (s : State) : Nat := bits s.now.ctl.fmt 0 12
def curLegend (s : State) : Legend := s.legend (dieOf s.focus) (curLegId s)
def notedLanes (s : State) (m : BitVec 4) : List FNum := numLanes (bitAt m 0) (s.now.regs.port 0x180)

/-- The working copy after a STLN that raises nothing. -/
def stlnDone (s : State) (src : Src) (m : BitVec 4) (v : Line) : W :=
  ((trigStart s src).modCore s.focus fun k => k.setLine (lsEa s v / 128) (s.now.regs.port 0x180)).svUpdate (dieOf s.focus)
    (curLegend s).svid fun r => SvRec.notes r (curLegend s) (notedLanes s m)

/-- On a line that it may access: the legend first, then the survey's range, then RESCALE (log 34). -/
theorem trigStln_eq (h : OwnAccess s 0x18b 128 (lsEa s v)) : trigStln (trigCtx s 0x18b m v) (trigStart s src) =
    if s.legendInRange (dieOf s.focus) (s.env s.focus).ctx (curLegId s) = false then .trap (windowFault 1 (curLegId s) 0x18b)
    else if (curLegend s).usable = false then .trap (engineFault 1 0x18b)
    else if (s.env s.focus).svOk (curLegend s).svid = false then .trap (windowFault 1 (curLegend s).svid 0x18b)
    else if decide (0 < overCount (curLegend s) (notedLanes s m)) && s.svTrap (dieOf s.focus) (curLegend s).svid then
      .trap { code := 8, slot := 1, i0 := rescaleInfo (dieOf s.focus) (curLegend s).svid, i1 := word s.now.pcAddr }
    else .ok (stlnDone s src m v) := by
  have hleg : (trigCtx s 0x18b m v).legend = curLegend s := rfl
  have hbad : (trigCtx s 0x18b m v).badLegend =
      if s.legendInRange (dieOf s.focus) (s.env s.focus).ctx (curLegId s) then none else some (curLegId s) := rfl
  simp only [trigStln, isStore_stln.lsAddr, h.ownCheck, hleg, hbad, trigCtx_env, trigCtx_c, trigCtx_m, trigStart_core,
    Core.fired_regs]
  cases s.legendInRange (dieOf s.focus) (s.env s.focus).ctx (curLegId s) with
  | false => rfl
  | true =>
    cases (curLegend s).usable with
    | false => rfl
    | true =>
      cases (s.env s.focus).svOk (curLegend s).svid with
      | false => rfl
      | true => rfl

/-- Under a usable legend and a survey that are the task's own, RESCALE alone remains. -/
theorem trigStln_legal (h : OwnAccess s 0x18b 128 (lsEa s v))
    (hmine : s.legendInRange (dieOf s.focus) (s.env s.focus).ctx (curLegId s) = true) (hu : (curLegend s).usable = true)
    (hsv : (s.env s.focus).svOk (curLegend s).svid = true) : trigStln (trigCtx s 0x18b m v) (trigStart s src) =
      if decide (0 < overCount (curLegend s) (notedLanes s m)) && s.svTrap (dieOf s.focus) (curLegend s).svid then
        .trap { code := 8, slot := 1, i0 := rescaleInfo (dieOf s.focus) (curLegend s).svid, i1 := word s.now.pcAddr }
      else .ok (stlnDone s src m v) := by
  rw [trigStln_eq h, if_neg (Bool.not_eq_false _ ▸ hmine), if_neg (Bool.not_eq_false _ ▸ hu), if_neg (Bool.not_eq_false _ ▸ hsv)]

/-- The state after it: the line stored, and the note on the dies. -/
theorem stlnDone_issued : ((stlnDone s src m v).modCore s.focus fun k => k.cycled s.clk (s.now.weight 0)).commit s =
    { issued s 0 ((s.now.fired src).setLine (lsEa s v / 128) (s.now.regs.port 0x180)) with
      dies := ((W.of s).svUpdate (dieOf s.focus) (curLegend s).svid fun r =>
        SvRec.notes r (curLegend s) (notedLanes s m)).dies } := by
  have hs := surveysOnly_svUpdate (w := W.of s) (dieOf s.focus) (curLegend s).svid fun r =>
    SvRec.notes r (curLegend s) (notedLanes s m)
  rw [stlnDone, svUpdate_modCore, trigStart, svUpdate_modCore, W.modCore_modCore, W.modCore_modCore, W.commit_eq,
    hs.rest]
  · rfl
  · exact hs.out
  · exact hs.zeroed

theorem core_stlnDone : (stlnDone s src m v).core s.focus =
    (s.now.fired src).setLine (lsEa s v / 128) (s.now.regs.port 0x180) := by
  rw [stlnDone, (surveysOnly_svUpdate ..).core, W.core_modCore_same, trigStart_core]
end

/-- A trigger that takes effect, whatever it changes. -/
theorem exec_isTrigger {id : Nat} {d : BitVec 12} {i : Slot → Instr} {M : Slot → BitVec 4} {tf : TrigFn} {s : State} {f : Slot}
    {src : Src} {v : Line} {w : W} (h : IsTrigger id d i M tf) (hf : Fires s f.g f.s id src v) (ha : Allowed s id (M f))
    (hk : tf (trigCtx s id (M f) v) (trigStart s src) = .ok w) (hr : (w.core s.focus).Room) :
    exec (i f) s = .next ((w.modCore s.focus fun k => k.cycled s.clk (s.now.weight 0)).commit s) := by
  obtain ⟨rfl, henc, hexec, hport⟩ := h
  obtain ⟨hm, hpriv, htier⟩ := ha
  rw [hexec]
  exact execTrigger_ok (henc f) hf hport hm hpriv htier hk hr

/-- Settles O20: the four faults in the order of log 34, and the store with its note where none of them strikes. -/
theorem storeAndNote : Obligations.StoreAndNote := by
  have hall (s : State) (f : Slot) : Allowed s 0x18b f.m := allowed_ls isStore_stln.block
  refine ⟨⟨?_, ?_, ?_, ?_⟩, ?_⟩
  · refine isStore_stln.trig.trapsIf (fun s f _ _ => hall s f) fun s f src v ⟨ho, hmine, hu, hsv, hover, htrap⟩ => ?_
    exact (trigStln_legal ho hmine hu hsv).trans (if_pos (Bool.and_eq_true_iff.mpr ⟨decide_eq_true hover, htrap⟩))
  · refine isStore_stln.trig.trapsIf (fun s f _ _ => hall s f) fun s f src v ⟨ho, hout⟩ => ?_
    exact (trigStln_eq ho).trans (if_pos (Bool.eq_false_iff.mpr hout))
  · refine isStore_stln.trig.trapsIf (fun s f _ _ => hall s f) fun s f src v ⟨ho, hmine, hu⟩ => ?_
    refine (trigStln_eq ho).trans ?_
    rw [if_neg (Bool.not_eq_false _ ▸ hmine)]
    exact if_pos hu
  · refine isStore_stln.trig.trapsIf (fun s f _ _ => hall s f) fun s f src v ⟨ho, hmine, hu, hsv⟩ => ?_
    refine (trigStln_eq ho).trans ?_
    rw [if_neg (Bool.not_eq_false _ ▸ hmine), if_neg (Bool.not_eq_false _ ▸ hu)]
    exact if_pos hsv
  · intro s f src v l o k hf ho hmine hu hsv hquiet hroom
    have hno : ¬ (decide (0 < overCount (curLegend s) (notedLanes s f.m)) && s.svTrap (dieOf s.focus) (curLegend s).svid) = true := by
      rw [Bool.and_eq_true, decide_eq_true_iff]
      rintro ⟨hover, htrap⟩
      rcases hquiet with h0 | h0
      · exact Nat.lt_irrefl 0 (h0 ▸ hover)
      · exact Bool.false_ne_true (h0.symm.trans htrap)
    have hok := (trigStln_legal (m := f.m) (src := src) ho hmine hu hsv).trans (if_neg hno)
    exact (exec_isTrigger isStore_stln.trig hf (hall s f) hok (core_stlnDone ▸ hroom)).trans (congrArg _ stlnDone_issued)

end Sys2Proof.Machine
end

section
/-!
The streams: what the four stc triggers answer, and the two steps of a stream (01 R18; 05 R135..R137, R142; 15 R337).
-/

namespace Sys2Proof.Machine

/-! ### The four triggers -/

theorem isTrigger_stcfg : IsTrigger 0x341 0x341 .stcfg Slot.m trigStcfg := ⟨rfl, fun _ => rfl, fun _ _ => rfl, by decide⟩
theorem isTrigger_stgo : IsTrigger 0x342 0x342 .stgo Slot.m trigStgo := ⟨rfl, fun _ => rfl, fun _ _ => rfl, by decide⟩
theorem isTrigger_ststop : IsTrigger 0x343 0x343 .ststop Slot.m trigStstop := ⟨rfl, fun _ => rfl, fun _ _ => rfl, by decide⟩
theorem isTrigger_ststat : IsTrigger 0x344 0x344 .ststat Slot.m trigStstat := ⟨rfl, fun _ => rfl, fun _ _ => rfl, by decide⟩

theorem allowed_stc {s : State} {id : Nat} {m : BitVec 4} (h : id / 64 = 0xd) : Allowed s id m := by
  refine allowed_outside (by omega) ?_
  simp only [needsTier, Bool.and_eq_false_iff, decide_eq_false_iff_not]
  omega

theorem lineTrig_stc {id : Nat} (h : id / 64 = 0xd) : lineTrig id = false := by
  simp only [lineTrig, Bool.and_eq_false_iff, decide_eq_false_iff_not]
  omega

section
variable {id : Nat} {d : BitVec 12} {i : Slot → Instr} {M : Slot → BitVec 4} {tf : TrigFn}

/-- A trigger that fires and answers a change of the issuing core. -/
theorem exec_isTrigger_mod {s : State} {f : Slot} {src : Src} {v : Line} (h : IsTrigger id d i M tf) (g : Core → Core)
    (hf : Fires s f.g f.s id src v) (ha : Allowed s id (M f))
    (hk : tf (trigCtx s id (M f) v) (trigStart s src) = .ok ((trigStart s src).modCore s.focus g))
    (hr : (g (s.now.fired src)).Room) : exec (i f) s = .next (issued s 0 (g (s.now.fired src))) := by
  obtain ⟨rfl, henc, hexec, hport⟩ := h
  obtain ⟨hm, hpriv, htier⟩ := ha
  rw [hexec]
  exact execTrigger_mod g (henc f) hf hport hm hpriv htier hk hr

/-- A trigger whose answer rests on what its source was. -/
theorem IsTrigger.triggersIf_fires {P : State → Slot → Line → Prop} (h : IsTrigger id d i M tf)
    {eff : State → Slot → Line → Core → Core} (ha : ∀ s f v, P s f v → Allowed s id (M f))
    (hk : ∀ s f src v, Fires s f.g f.s id src v → P s f v →
      tf (trigCtx s id (M f) v) (trigStart s src) = .ok ((trigStart s src).modCore s.focus (eff s f v))) :
    TriggersIf id i P eff := fun s f src v hf hp hroom =>
  exec_isTrigger_mod h _ hf (ha s f v hp) (hk s f src v hf hp) hroom
end

/-! ### A stream that the same bundle reads (R136) -/

section
variable {s : State} {sid : BitVec 12} {src : Src} {v : Line}

/-- A stream that is read is in RUN. -/
theorem Reads.stream_runs {n : Nat} (h : Reads s sid (.stream n) v) : (s.now.stream n).st = 3 := by
  have hr := h.2
  simp only [readSrc] at hr
  split at hr
  · cases hr
  · rename_i hst
    split at hr
    · cases hr
    · rename_i h2
      by_contra h3
      exact hst (Or.inr ⟨h2, h3⟩)

/-- A stream is as before the bundle, or it was in RUN and has advanced. -/
theorem Reads.stream_fired (h : Reads s sid src v) (n : Nat) : (s.now.fired src).stream n = s.now.stream n ∨
    (s.now.stream n).st = 3 ∧ (s.now.fired src).stream n = (s.now.stream n).advance := by
  have hf : (s.now.fired src).stream n = (s.now.took src).stream n := rfl
  rw [hf]
  cases src with
  | stream j =>
    by_cases hj : n = j
    · subst hj
      exact .inr ⟨h.stream_runs, Tab.get_put_same ..⟩
    · exact .inl (Tab.get_put_ne _ _ _ hj)
  | _ => exact .inl rfl

theorem Reads.stream_fired_idle (h : Reads s sid src v) {n : Nat} (h3 : (s.now.stream n).st ≠ 3) :
    (s.now.fired src).stream n = s.now.stream n :=
  (h.stream_fired n).resolve_right fun hr => h3 hr.1

theorem Stream.advance_st (t : Stream) : t.advance.st = t.st ∨ t.advance.st = 4 := by
  unfold Stream.advance
  split
  · exact .inl rfl
  · split
    · exact .inl rfl
    · exact .inr rfl

theorem Reads.stream_fired_ne_idle (h : Reads s sid src v) {n : Nat} (h0 : (s.now.stream n).st ≠ 0) :
    ((s.now.fired src).stream n).st ≠ 0 := by
  rcases h.stream_fired n with he | ⟨h3, he⟩
  · rwa [he]
  · rw [he]
    rcases (s.now.stream n).advance_st with ha | ha <;> omega
end

/-! ### The answers (R142) -/

section
variable {s : State} {id n : Nat} {v : Line} {src : Src} {m : BitVec 4}

/-- The word that an stc operation leaves for its port. -/
def stcResult (s : State) (id x : Nat) : Item := { trigItem s id 0 2 0 0 [(0x340, lineOf (word x))] with kind := .res }

/-- The trigger value names stream `n`. -/
theorem stcChecked_names (g : TCtx → Nat → W → Res) (w : W) (hid : id / 64 = 0xd) (hn : n < 8) (hv : scalarOf v = word n) :
    stcChecked g (trigCtx s id 0 v) w = g (trigCtx s id 0 v) n w := by
  have hw : (word n).toNat = n := by rw [word, BitVec.toNat_ofNat]; omega
  have hhigh : bits (word n) 3 61 = 0 := bits_high_eq_zero (by omega)
  have hlow : bits (word n) 0 3 = n := (bits_low_eq (by omega)).trans hw
  rw [stcChecked, trigCtx_v s id 0 v (lineTrig_stc hid), hv, hhigh, hlow, if_neg]
  simp

/-- Reserved bits of the trigger value or of M (01 R18). -/
theorem stcChecked_reserved (g : TCtx → Nat → W → Res) (w : W) (hid : id / 64 = 0xd) (h : 8 ≤ (scalarOf v).toNat ∨ m ≠ 0) :
    stcChecked g (trigCtx s id m v) w = .trap (engineFault 1 id) := by
  have hbits : bits (scalarOf v) 3 61 = 0 ↔ (scalarOf v).toNat < 8 := bits_top_eq_zero_iff (n := 3) rfl
  rw [stcChecked, trigCtx_v s id m v (lineTrig_stc hid), if_pos]
  · rfl
  · rw [ne_eq, hbits, Nat.not_lt]
    exact h

theorem stcItem_modCore (x : Nat) (f : Core → Core) : (trigCtx s id 0 v).stcItem ((trigStart s src).modCore s.focus f) x =
    .ok ((trigStart s src).modCore s.focus fun k => (f k).withItem (stcResult s id x)) := by
  simp only [TCtx.stcItem, W.addItem, trigCtx_c, W.modCore_modCore]
  rfl

theorem stcItem_trigStart (x : Nat) : (trigCtx s id 0 v).stcItem (trigStart s src) x =
    .ok ((trigStart s src).modCore s.focus fun k => k.withItem (stcResult s id x)) := rfl

/-- A start that the core's reservation covers, whatever it draws already (15 R337). -/
theorem askStart_covered {w : W} {c x : Nat} (eng own : Nat) (h : x ≤ (w.core c).ctl.res) :
    w.askStart c eng x own = some (w.modCore c fun k => k.drawing x) := if_pos h
end

section
variable {n : Nat} (hn : n < 8)
include hn

theorem stcfg_triggers : TriggersIf 0x341 .stcfg
    (fun s f v => (scalarOf v = word n ∧ f.m = 0) ∧ (s.now.regs.portW 0x340).toNat < 2 ^ 15 ∧
      readCheck s s.focus (s.env s.focus) false 1 0x341 (s.now.regs.portW 0x340).toNat = none ∧
      s.now.present (s.now.regs.portW 0x340).toNat = true ∧
      descOk ((s.now.line (s.now.regs.portW 0x340).toNat).truncate 256) = true ∧
      (s.now.stream n).st ≠ 2 ∧ (s.now.stream n).st ≠ 3)
    (fun s _ _ k => (k.setStream n { k.stream n with
        desc := (s.now.line (s.now.regs.portW 0x340).toNat).truncate 256, st := 1, n := 0 }).withItem (stcResult s 0x341 0)) := by
  refine isTrigger_stcfg.triggersIf_fires (fun _ _ _ _ => allowed_stc rfl)
    fun s f src v hf ⟨⟨hv, hm⟩, hln, hcheck, hpres, hdesc, h2, h3⟩ => ?_
  have hidle : ((s.now.fired src).stream n).st ≠ 2 ∧ ((s.now.fired src).stream n).st ≠ 3 := by
    rw [hf.reads.stream_fired_idle h3]; exact ⟨h2, h3⟩
  have hlow : bits (s.now.regs.portW 0x340) 0 15 = (s.now.regs.portW 0x340).toNat := bits_low_eq hln
  have hhigh : bits (s.now.regs.portW 0x340) 15 49 = 0 := bits_high_eq_zero hln
  rw [hm, trigStcfg, stcChecked_names _ _ rfl hn hv]
  simp only [trigCtx_c, trigStart_core, Core.fired_regs, hlow, hhigh, trigCtx_pre, trigCtx_env, trigCtx_slot, trigCtx_id, hcheck, trigCtx_k, hpres,
    hidle.1, hidle.2, hdesc, ne_eq, not_true_eq_false, if_false, Bool.not_true, Bool.false_eq_true, or_self]
  rw [stcItem_modCore]
  exact congrArg Res.ok (W.modCore_congr _ _ (by rw [trigStart_core]))

theorem stgo_triggers : TriggersIf 0x342 .stgo
    (fun s f v => (scalarOf v = word n ∧ f.m = 0) ∧ (s.now.stream n).st ≠ 0 ∧
      (s.die (dieOf s.focus)).wst (clusterOf s.focus) ≤ s.now.ctl.res)
    (fun s _ _ k => ((k.modCtl fun r => { r with res := r.res - (s.die (dieOf s.focus)).wst (clusterOf s.focus) }).setStream n
      { k.stream n with st := 3, n := 0 }).withItem (stcResult s 0x342 0)) := by
  refine isTrigger_stgo.triggersIf_fires (fun _ _ _ _ => allowed_stc rfl) fun s f src v hf ⟨⟨hv, hm⟩, h0, hres⟩ => ?_
  have hst := hf.reads.stream_fired_ne_idle h0
  have hcov : (trigStart s src).wstOf s.focus ≤ ((trigStart s src).core s.focus).ctl.res := by
    rw [trigStart_core, Core.fired_res]; exact hres
  rw [hm, trigStgo, stcChecked_names _ _ rfl hn hv]
  simp only [trigCtx_c, trigStart_core, hst, if_false]
  rw [if_neg (show ¬ 0 < (trigCtx s 0x342 0 v).dst from Nat.lt_irrefl 0), askStart_covered _ _ hcov]
  simp only [W.modCore_modCore, stcItem_modCore]
  exact congrArg Res.ok (W.modCore_congr _ _ (by rw [trigStart_core]; rfl))

theorem ststop_triggers : TriggersIf 0x343 .ststop
    (fun s f v => (scalarOf v = word n ∧ f.m = 0) ∧ (s.now.stream n).st ≠ 0)
    (fun s _ _ k => (k.setStream n { k.stream n with st := 1, wbuf := [] }).withItem (stcResult s 0x343 (k.stream n).n)) := by
  refine isTrigger_ststop.triggersIf_fires (fun _ _ _ _ => allowed_stc rfl) fun s f src v hf ⟨⟨hv, hm⟩, h0⟩ => ?_
  have hst := hf.reads.stream_fired_ne_idle h0
  rw [hm, trigStstop, stcChecked_names _ _ rfl hn hv]
  simp only [trigCtx_c, trigStart_core, hst, if_false]
  rw [stcItem_modCore]
  exact congrArg Res.ok (W.modCore_congr _ _ (by rw [trigStart_core]))

theorem ststat_triggers : TriggersIf 0x344 .ststat (fun _ f v => scalarOf v = word n ∧ f.m = 0)
    (fun s _ _ k => k.withItem (stcResult s 0x344 ((k.stream n).st % 8 + (if (k.stream n).isWrite then 8 else 0) +
      (k.stream n).n % 2 ^ 33 * 256))) := by
  refine isTrigger_ststat.triggersIf (fun _ _ _ _ => allowed_stc rfl) fun s f src v ⟨hv, hm⟩ => ?_
  have hdir (t : Stream) : b2n t.isWrite * 8 = if t.isWrite then 8 else 0 := by cases t.isWrite <;> rfl
  rw [hm, trigStstat, stcChecked_names _ _ rfl hn hv]
  simp only [trigCtx_c, hdir]
  rw [stcItem_trigStart]
  exact congrArg Res.ok (W.modCore_congr _ _ (by rw [trigStart_core]))
end

/-- Reserved bits of the trigger value or of M. -/
theorem stc_traps {id : Nat} {d : BitVec 12} {i : Slot → Instr} {g : TCtx → Nat → W → Res}
    (h : IsTrigger id d i Slot.m (stcChecked g)) (hid : id / 64 = 0xd) :
    TrapsIf id i (fun _ f v => 8 ≤ (scalarOf v).toNat ∨ f.m ≠ 0) (fun _ _ _ => engineFault 1 id) :=
  h.trapsIf (fun _ _ _ _ => allowed_stc hid) fun _ _ _ _ hr => stcChecked_reserved _ _ hid hr

/-! ### The steps (R136, R137; 15 R337) -/

/-- A stream whose START has ended, within the core's reservation, enters RUN. -/
theorem streamRun_covered {s : State} {c n : Nat} (hst : ((s.core c).stream n).st = 2)
    (hrun : ((s.core c).stream n).runAt ≤ (s.core c).pipe.run) (hres : s.wstOf c ≤ (s.core c).ctl.res) :
    exec (.streamRun c n) s = go s ((W.of s).modCore c fun k =>
      (k.drawing (s.wstOf c)).setStream n { k.stream n with st := 3 }) := by
  have hdue : ((W.of s).core c).streamDue n = true := by
    simp only [W.of_core, Core.streamDue, hst, decide_true, Bool.true_and]
    exact decide_eq_true hrun
  have hask : (W.of s).askStart c (16 + n) ((W.of s).wstOf c) ((W.of s).wstOf c) =
      some ((W.of s).modCore c fun k => k.drawing (s.wstOf c)) := askStart_covered _ _ hres
  have hstep : (W.of s).streamRun c n = ((W.of s).modCore c fun k => k.drawing (s.wstOf c)).modCore c fun k =>
      k.setStream n { k.stream n with st := 3 } := by
    simp only [W.streamRun, hdue, if_true, hask]
  show go s ((W.of s).streamRun c n) = _
  rw [hstep, W.modCore_modCore]
  rfl

/-- Settles O32: the answers of the four triggers, their common fault, and the two steps. -/
theorem streams : Obligations.Streams := by
  refine ⟨fun n hn => ⟨stcfg_triggers hn, stgo_triggers hn, ststop_triggers hn, ststat_triggers hn, fun p hp => ?_⟩,
    fun s c n => ⟨fun hst hrun hres => ?_, ?_⟩⟩
  · simp only [List.mem_cons, List.not_mem_nil, or_false] at hp
    obtain rfl | rfl | rfl | rfl := hp
    exacts [stc_traps isTrigger_stcfg rfl, stc_traps isTrigger_stgo rfl, stc_traps isTrigger_ststop rfl,
      stc_traps isTrigger_ststat rfl]
  · obtain ⟨hmem, hdies, -, -, -, hother⟩ := onlyCore_modCore s c fun k =>
      (k.drawing (s.wstOf c)).setStream n { k.stream n with st := 3 }
    exact ⟨_, streamRun_covered hst hrun hres, hdies, hmem, hother, (core_commit ..).trans (W.core_modCore_same (W.of s) c _)⟩
  · obtain ⟨hmem, hdies, -, -, -, hother⟩ := onlyCore_modCore s c fun k =>
      k.setStream n { k.stream n with wbuf := (k.stream n).wbuf.drop 1 }
    exact ⟨_, rfl, hdies, hmem, hother, (core_commit ..).trans (W.core_modCore_same (W.of s) c _)⟩

end Sys2Proof.Machine
end

section
/-!
Buffers and handles: what HMAKE, HGIVE, HTAKE and HREL answer, and the slot of a buffer table that they change
(05 R132..R134, R141).
-/

namespace Sys2Proof.Machine

/-! ### The four triggers -/

theorem isTrigger_hmake : IsTrigger 0x193 0x193 .hmake Slot.m trigHmake := ⟨rfl, fun _ => rfl, fun _ _ => rfl, by decide⟩
theorem isTrigger_hgive : IsTrigger 0x194 0x194 .hgive Slot.m trigHgive := ⟨rfl, fun _ => rfl, fun _ _ => rfl, by decide⟩
theorem isTrigger_htake : IsTrigger 0x195 0x195 .htake Slot.m trigHtake := ⟨rfl, fun _ => rfl, fun _ _ => rfl, by decide⟩
theorem isTrigger_hrel : IsTrigger 0x196 0x196 .hrel Slot.m trigHrel := ⟨rfl, fun _ => rfl, fun _ _ => rfl, by decide⟩

/-! ### What the triggers see of buffers -/

section
variable (k : Core) (src : Src)
theorem Core.took_bufs : (k.took src).bufs = k.bufs := by cases src <;> rfl
@[simp] theorem Core.fired_bufs : (k.fired src).bufs = k.bufs := k.took_bufs src
theorem Core.took_cp : (k.took src).cp = k.cp := by cases src <;> rfl
@[simp] theorem Core.fired_cp : (k.fired src).cp = k.cp := k.took_cp src
end

/-- A core with one slot of its buffer table replaced. -/
def Core.withBuf (k : Core) (i : Nat) (b : Buf) : Core := { k with bufs := Tab.put {} k.bufs i b }

theorem Core.withBuf_fired (k : Core) (src : Src) (i : Nat) (b : Buf) :
    (k.fired src).withBuf i b = { k.fired src with bufs := Tab.put {} k.bufs i b } := by
  rw [Core.withBuf, Core.fired_bufs]

section
variable {s : State} {src : Src} {o ctx : Nat}

theorem core_trigStart_ne (h : o ≠ s.focus) : (trigStart s src).core o = s.core o := W.core_modCore_ne _ _ _ h

theorem ctx_trigStart : ((trigStart s src).core o).ctx = (s.core o).ctx := by
  by_cases h : o = s.focus
  · rw [h, trigStart_core, Core.fired_ctx]
  · rw [core_trigStart_ne h]

theorem bufs_trigStart : ((trigStart s src).core o).bufs = (s.core o).bufs := by
  by_cases h : o = s.focus
  · rw [h, trigStart_core, Core.fired_bufs]
  · rw [core_trigStart_ne h]

/-- The slot of a context that is resident. -/
theorem layer_buf_trigStart (h : (s.core o).ctx = some ctx) (i : Nat) :
    ((trigStart s src).layer o ctx).buf i = (s.core o).buf i := by
  rw [State.layer, if_pos (ctx_trigStart.trans h), Core.buf, bufs_trigStart, Core.buf]

theorem setBuf_trigStart (h : (s.core o).ctx = some ctx) (i : Nat) (b : Buf) :
    (trigStart s src).setBuf o ctx i b = (trigStart s src).modCore o fun k => k.withBuf i b :=
  if_pos (ctx_trigStart.trans h)

/-- Whether a copy touches a buffer does not rest on the bundle. -/
theorem touches_trigStart (c : Nat) (x : Copy) (b : Buf) : (trigStart s src).touches c x o b = s.touches c x o b := rfl

theorem bufBusy_trigStart (b : Buf) : (trigStart s src).bufBusy s.focus o b = s.bufBusy s.focus o b := by
  simp only [State.bufBusy, trigStart_core, Core.fired_cp, touches_trigStart]
end

/-- No earlier handle operation and no earlier STA of the task pends (R134). -/
def NoTransfers (s : State) : Prop := ∀ a ∈ s.ownOpen s.focus, a.handleOp = false ∧ a.op ≠ 0x192

theorem NoTransfers.earlier {s : State} (h : NoTransfers s) (id : Nat) (m : BitVec 4) (v : Line) (src : Src) (stores : Bool) :
    (trigCtx s id m v).earlier (trigStart s src) stores = false := by
  refine List.any_eq_false.mpr fun a ha => ?_
  rw [trigCtx_c, ownOpen_trigStart] at ha
  obtain ⟨hh, hop⟩ := h a ha
  simp [hh, hop]

/-! ### The item of a handle operation -/

/-- The item that a handle operation leaves: operand `a`, and the word `x` for `ls.h`. -/
def handleAnswer (s : State) (id : Nat) (m : BitVec 4) (lat : Nat) (a : Word) (x : Nat) (fx : Fx) : Item :=
  { trigItem s id m lat a 0 [(0x182, lineOf (word x))] with kind := .atr, fx := fx }

section
variable {s : State} {id lat h st : Nat} {m : BitVec 4} {v : Line} {src : Src} {fx : Fx}

theorem handleItem_eq (w : W) (hid : id / 64 = 6) : (trigCtx s id m v).handleItem w lat h st fx =
    .ok (w.modCore s.focus fun k => k.withItem
      (handleAnswer s id m lat (if id = 0x193 then scalarOf v else word h) (h % 65536 + st * 65536) fx)) := by
  simp only [TCtx.handleItem, W.addItem, trigCtx_c, trigCtx_id, trigCtx_v s id m v (lineTrig_ls hid)]
  rfl

theorem handleItem_transfer (w : W) (hid : id / 64 = 6) (hne : id ≠ 0x193) : (trigCtx s id m v).handleItem w lat h st fx =
    .ok (w.modCore s.focus fun k => k.withItem (handleAnswer s id m lat (word h) (h % 65536 + st * 65536) fx)) := by
  rw [handleItem_eq w hid, if_neg hne]
end

/-! ### HMAKE (R132, R141) -/

section
variable {s : State} {m : BitVec 4} {v : Line} {src : Src}

/-- The lines that HMAKE names. -/
def makeFirst (v : Line) : Nat := bits (scalarOf v) 0 15
def makeLast (v : Line) : Nat := bits (scalarOf v) 16 15
/-- A buffer that shares a line with them. -/
def makeMeets (v : Line) (b : Buf) : Bool :=
  decide (b.st ≠ 0) && decide (b.first ≤ makeFirst v + makeLast v) && decide (makeFirst v ≤ b.first + b.cntm1)
/-- The buffer that HMAKE makes of a slot with generation `gen`. -/
def madeBuf (s : State) (v : Line) (gen : Nat) : Buf :=
  { first := makeFirst v, cntm1 := makeLast v, holder := s.focus % 16, st := 1, gen := gen }

/-- The first line outside the allotment. -/
theorem trigHmake_outside {j : Nat} (hj : j ≤ makeLast v)
    (hout : s.allotted s.focus (s.env s.focus).ctx (makeFirst v + j) = false)
    (hin : ∀ i, i < j → s.allotted s.focus (s.env s.focus).ctx (makeFirst v + i) = true) :
    trigHmake (trigCtx s 0x193 m v) (trigStart s src) = .trap (windowFault 1 (makeFirst v + j) 0x193) := by
  have hfind : ((List.range (makeLast v + 1)).map (makeFirst v + ·)).find?
      (fun ln => !(s.allotted s.focus (s.env s.focus).ctx ln)) = some (makeFirst v + j) := by
    rw [List.find?_map]
    have hr : (List.range (makeLast v + 1)).find?
        ((fun ln => !(s.allotted s.focus (s.env s.focus).ctx ln)) ∘ (makeFirst v + ·)) = some j :=
      find?_range_first (by omega) (by simp [hout]) fun i hi => by simp [hin i hi]
    rw [hr]
    rfl
  simp only [trigHmake, trigCtx_v s 0x193 m v rfl, trigCtx_pre, trigCtx_c, trigCtx_env]
  simp only [makeFirst, makeLast] at hfind ⊢
  rw [hfind]
  rfl

/-- Lines of the allotment: a FREE slot is looked for. -/
theorem trigHmake_inside (hin : ∀ j, j ≤ makeLast v → s.allotted s.focus (s.env s.focus).ctx (makeFirst v + j) = true)
    {r : Option Nat} (hr : ((List.range 64).find? fun i => decide ((s.now.buf i).st = 0)) = r) :
    trigHmake (trigCtx s 0x193 m v) (trigStart s src) =
      r.elim ((trigCtx s 0x193 m v).handleItem (trigStart s src) 4 0 1 .none) fun i =>
        if s.now.bufs.any fun e => makeMeets v e.2 then (trigCtx s 0x193 m v).handleItem (trigStart s src) 4 0 2 .none
        else (trigCtx s 0x193 m v).handleItem
          ((trigStart s src).setBuf s.focus (s.env s.focus).ctx i (madeBuf s v (s.now.buf i).gen)) 4
          ((madeBuf s v (s.now.buf i).gen).handle s.focus i) 0 .none := by
  have hfind : ((List.range (makeLast v + 1)).map (makeFirst v + ·)).find?
      (fun ln => !(s.allotted s.focus (s.env s.focus).ctx ln)) = none :=
    find?_not_eq_none fun i hi => hin i (by omega)
  have hbuf (i : Nat) : ((trigStart s src).core s.focus).buf i = s.now.buf i := by
    rw [Core.buf, bufs_trigStart, Core.buf]
  subst hr
  simp only [trigHmake, trigCtx_v s 0x193 m v rfl, trigCtx_pre, trigCtx_c, trigCtx_env, hbuf, bufs_trigStart]
  simp only [makeFirst, makeLast] at hfind ⊢
  rw [hfind]
  cases (List.range 64).find? fun i => decide ((s.now.buf i).st = 0) <;> rfl
end

theorem hmake_makes {i : Nat} (hi : i < 64) : TriggersIf 0x193 .hmake
    (fun s _ v => s.now.ctx = some (s.env s.focus).ctx ∧
      (∀ j, j ≤ makeLast v → s.allotted s.focus (s.env s.focus).ctx (makeFirst v + j) = true) ∧ (s.now.buf i).st = 0 ∧
      (∀ j, j < i → (s.now.buf j).st ≠ 0) ∧
      ∀ e ∈ s.now.bufs, e.2.st ≠ 0 → makeFirst v + makeLast v < e.2.first ∨ e.2.first + e.2.cntm1 < makeFirst v)
    (fun s f v k => (k.withBuf i (madeBuf s v (s.now.buf i).gen)).withItem
      (handleAnswer s 0x193 f.m 4 (scalarOf v) ((madeBuf s v (s.now.buf i).gen).handle s.focus i % 65536) .none)) := by
  refine isTrigger_hmake.triggersIf (fun _ _ _ _ => allowed_ls rfl) fun s f src v ⟨hctx, hin, hfree, hlow, hapart⟩ => ?_
  have hfind : ((List.range 64).find? fun i => decide ((s.now.buf i).st = 0)) = some i :=
    find?_range_first hi (decide_eq_true hfree) fun j hj => decide_eq_false (hlow j hj)
  have hmeets : (s.now.bufs.any fun e => makeMeets v e.2) = false := by
    refine List.any_eq_false.mpr fun e he => ?_
    have := hapart e he
    simp only [makeMeets, Bool.and_eq_true, decide_eq_true_iff]
    omega
  refine (trigHmake_inside hin hfind).trans ?_
  rw [Option.elim_some, hmeets, if_neg Bool.false_ne_true, setBuf_trigStart hctx, handleItem_eq _ rfl, W.modCore_modCore]
  rfl

theorem hmake_noSlot : TriggersIf 0x193 .hmake
    (fun s _ v => (∀ j, j ≤ makeLast v → s.allotted s.focus (s.env s.focus).ctx (makeFirst v + j) = true) ∧
      ∀ j, j < 64 → (s.now.buf j).st ≠ 0)
    (fun s f v k => k.withItem (handleAnswer s 0x193 f.m 4 (scalarOf v) 65536 .none)) := by
  refine isTrigger_hmake.triggersIf (fun _ _ _ _ => allowed_ls rfl) fun s f src v ⟨hin, hfull⟩ => ?_
  have hfind : ((List.range 64).find? fun i => decide ((s.now.buf i).st = 0)) = none :=
    List.find?_eq_none.mpr fun j hj h0 => hfull j (List.mem_range.mp hj) (of_decide_eq_true h0)
  exact (trigHmake_inside hin hfind).trans (handleItem_eq _ rfl)

theorem hmake_overlaps {i : Nat} (hi : i < 64) (e : Nat × Buf) : TriggersIf 0x193 .hmake
    (fun s _ v => (∀ j, j ≤ makeLast v → s.allotted s.focus (s.env s.focus).ctx (makeFirst v + j) = true) ∧
      (s.now.buf i).st = 0 ∧ e ∈ s.now.bufs ∧ e.2.st ≠ 0 ∧ e.2.first ≤ makeFirst v + makeLast v ∧
      makeFirst v ≤ e.2.first + e.2.cntm1)
    (fun s f v k => k.withItem (handleAnswer s 0x193 f.m 4 (scalarOf v) (2 * 65536) .none)) := by
  refine isTrigger_hmake.triggersIf (fun _ _ _ _ => allowed_ls rfl) fun s f src v ⟨hin, hfree, he, hst, hlo, hhi⟩ => ?_
  obtain ⟨j, hfind⟩ : ∃ j, ((List.range 64).find? fun i => decide ((s.now.buf i).st = 0)) = some j :=
    Option.isSome_iff_exists.mp (List.find?_isSome.mpr ⟨i, List.mem_range.mpr hi, decide_eq_true hfree⟩)
  have hmeets : (s.now.bufs.any fun e => makeMeets v e.2) = true :=
    List.any_eq_true.mpr ⟨e, he, by simp [makeMeets, hst, hlo, hhi]⟩
  refine (trigHmake_inside hin hfind).trans ?_
  rw [Option.elim_some, if_pos hmeets, handleItem_eq _ rfl]
  rfl

theorem hmake_outside (j : Nat) : TrapsIf 0x193 .hmake
    (fun s _ v => j ≤ makeLast v ∧ s.allotted s.focus (s.env s.focus).ctx (makeFirst v + j) = false ∧
      ∀ i, i < j → s.allotted s.focus (s.env s.focus).ctx (makeFirst v + i) = true)
    (fun _ _ v => windowFault 1 (makeFirst v + j) 0x193) :=
  isTrigger_hmake.trapsIf (fun _ _ _ _ => allowed_ls rfl) fun _ _ _ _ ⟨hj, hout, hin⟩ => trigHmake_outside hj hout hin

/-! ### The answers of the buffer table (R134, R141) -/

section
variable {s : State} {src : Src} {h tg : Nat}

/-- The core whose table handle `h` of the issuer names, the slot there, and what the task's context finds in it. -/
abbrev ownerOf (s : State) (h : Nat) : Nat := handleOwner s.focus h
abbrev slotBuf (s : State) (h : Nat) : Buf := (s.core (ownerOf s h)).buf (handleSlot h)
variable (hctx : (s.core (ownerOf s h)).ctx = some (s.env s.focus).ctx)
include hctx

theorem giveBuf_trigStart : (trigStart s src).giveBuf s.focus (s.env s.focus).ctx h tg =
    if handleLive (slotBuf s h) h = false then (5, none)
    else if (slotBuf s h).st ≠ 1 ∨ (slotBuf s h).holder ≠ s.focus % 16 then (3, none)
    else if s.bufBusy s.focus (ownerOf s h) (slotBuf s h) then (6, none)
    else if tg = s.focus % 16 ∨ s.coreEnabled (s.focus / 16 * 16 + tg) = false then (7, none)
    else (0, some { slotBuf s h with st := 2, target := tg }) := by
  have hen (c : Nat) : (trigStart s src).coreEnabled c = s.coreEnabled c := rfl
  simp only [State.giveBuf, layer_buf_trigStart hctx, bufBusy_trigStart, hen, Bool.not_eq_true']

theorem takeBuf_trigStart : (trigStart s src).takeBuf s.focus (s.env s.focus).ctx h =
    if handleLive (slotBuf s h) h = false then (5, none)
    else if (slotBuf s h).st ≠ 2 ∨ ((slotBuf s h).target ≠ s.focus % 16 ∧ (slotBuf s h).holder ≠ s.focus % 16) then (4, none)
    else (0, some { slotBuf s h with st := 1, holder := s.focus % 16, target := 0 }) := by
  simp only [State.takeBuf, layer_buf_trigStart hctx, Bool.not_eq_true']

theorem relBuf_trigStart : (trigStart s src).relBuf s.focus (s.env s.focus).ctx h =
    if handleLive (slotBuf s h) h = false then (5, none)
    else if (slotBuf s h).st ≠ 1 ∨ (slotBuf s h).holder ≠ s.focus % 16 then (3, none)
    else if s.bufBusy s.focus (ownerOf s h) (slotBuf s h) then (6, none)
    else if s.focus = ownerOf s h then (0, some { gen := nextGen (slotBuf s h).gen })
    else (0, some { slotBuf s h with holder := ownerOf s h % 16, target := 0, gap := none }) := by
  simp only [State.relBuf, layer_buf_trigStart hctx, bufBusy_trigStart, Bool.not_eq_true']
end

/-! ### HGIVE, HTAKE and HREL -/

section
variable {s : State} {src : Src} {m : BitVec 4} {v : Line} {h n : Nat} {b : Buf}

theorem bits_handle (x : Word) : bits x 0 16 = x.toNat % 65536 := by
  rw [bits, Nat.shiftRight_zero]
  rfl

/-- The gap of the issuer's right until the result of this bundle's operation (R134). -/
def gapHere (s : State) : Option (Nat × Nat) := some (s.focus % 16, s.now.pipe.seq)

/-- What a handle operation with right to buffer slot `h` completes. -/
def rightTo (s : State) (h : Nat) : Fx := .right (ownerOf s h) (s.env s.focus).ctx (handleSlot h)

/-- The working copy with the slot of `h` replaced. -/
def putSlot (s : State) (src : Src) (h : Nat) (b : Buf) : W :=
  (trigStart s src).setBuf (ownerOf s h) (s.env s.focus).ctx (handleSlot h) b

section
variable (hq : NoTransfers s) (hh : h = (s.now.regs.portW 0x181).toNat % 65536)
include hq hh

theorem trigHgive_offers
    (hg : (trigStart s src).giveBuf s.focus (s.env s.focus).ctx h (bits (scalarOf v) 0 4) = (n, some b)) :
    trigHgive (trigCtx s 0x194 m v) (trigStart s src) = (trigCtx s 0x194 m v).handleItem
      (putSlot s src h { b with gap := gapHere s }) 12 h 0 (rightTo s h) := by
  simp only [trigHgive, trigCtx_c, portW_trigStart, bits_handle, ← hh, trigCtx_env, trigCtx_v s 0x194 m v rfl, hg, hq.earlier,
    Bool.false_eq_true, if_false]
  rfl

/-- A handle or a holder that is wrong leaves the table. -/
theorem trigHgive_refused (hn : n = 5 ∨ n = 3)
    (hg : (trigStart s src).giveBuf s.focus (s.env s.focus).ctx h (bits (scalarOf v) 0 4) = (n, none)) :
    trigHgive (trigCtx s 0x194 m v) (trigStart s src) = (trigCtx s 0x194 m v).handleItem (trigStart s src) 12 h n .none := by
  simp only [trigHgive, trigCtx_c, portW_trigStart, bits_handle, ← hh, trigCtx_env, trigCtx_v s 0x194 m v rfl, hg, hq.earlier,
    Bool.false_eq_true, if_false, if_pos hn]

/-- A copy or a destination that is wrong suspends the giver's right until the result. -/
theorem trigHgive_suspends (hctx : (s.core (ownerOf s h)).ctx = some (s.env s.focus).ctx) (hn : ¬ (n = 5 ∨ n = 3))
    (hg : (trigStart s src).giveBuf s.focus (s.env s.focus).ctx h (bits (scalarOf v) 0 4) = (n, none)) :
    trigHgive (trigCtx s 0x194 m v) (trigStart s src) = (trigCtx s 0x194 m v).handleItem
      (putSlot s src h { slotBuf s h with gap := gapHere s }) 12 h n (rightTo s h) := by
  simp only [trigHgive, trigCtx_c, portW_trigStart, bits_handle, ← hh, trigCtx_env, trigCtx_v s 0x194 m v rfl, hg, hq.earlier,
    Bool.false_eq_true, if_false, if_neg hn, layer_buf_trigStart hctx]
  rfl
end

section
variable (hq : NoTransfers s) (hh : h = (scalarOf v).toNat % 65536)
include hq hh

theorem trigHtake_takes (hg : (trigStart s src).takeBuf s.focus (s.env s.focus).ctx h = (n, some b)) :
    trigHtake (trigCtx s 0x195 m v) (trigStart s src) = (trigCtx s 0x195 m v).handleItem
      (putSlot s src h { b with gap := gapHere s }) 12 h 0 (rightTo s h) := by
  simp only [trigHtake, trigCtx_c, trigCtx_v s 0x195 m v rfl, bits_handle, ← hh, trigCtx_env, hg, hq.earlier,
    Bool.false_eq_true, if_false]
  rfl

theorem trigHtake_refused (hg : (trigStart s src).takeBuf s.focus (s.env s.focus).ctx h = (n, none)) :
    trigHtake (trigCtx s 0x195 m v) (trigStart s src) = (trigCtx s 0x195 m v).handleItem (trigStart s src) 12 h n .none := by
  simp only [trigHtake, trigCtx_c, trigCtx_v s 0x195 m v rfl, bits_handle, ← hh, trigCtx_env, hg, hq.earlier,
    Bool.false_eq_true, if_false]

theorem trigHrel_releases (hg : (trigStart s src).relBuf s.focus (s.env s.focus).ctx h = (n, some b)) :
    trigHrel (trigCtx s 0x196 m v) (trigStart s src) = (trigCtx s 0x196 m v).handleItem (putSlot s src h b) 12 h 0 .none := by
  simp only [trigHrel, trigCtx_c, trigCtx_v s 0x196 m v rfl, bits_handle, ← hh, trigCtx_env, hg, hq.earlier,
    Bool.false_eq_true, if_false]
  rfl

theorem trigHrel_refused (hg : (trigStart s src).relBuf s.focus (s.env s.focus).ctx h = (n, none)) :
    trigHrel (trigCtx s 0x196 m v) (trigStart s src) = (trigCtx s 0x196 m v).handleItem (trigStart s src) 12 h n .none := by
  simp only [trigHrel, trigCtx_c, trigCtx_v s 0x196 m v rfl, bits_handle, ← hh, trigCtx_env, hg, hq.earlier,
    Bool.false_eq_true, if_false]
end
end

/-! ### The statuses -/

/-- Handle `h` names a table of the task's context that is resident, and no earlier operation of the task keeps the table from
answering (R134). -/
structure HandleFor (s : State) (h : Nat) : Prop where
  resident : (s.core (ownerOf s h)).ctx = some (s.env s.focus).ctx
  quiet : NoTransfers s

section
variable {s : State} {src : Src} {m : BitVec 4} {v : Line} {h : Nat} (H : HandleFor s h)
include H

section
variable (hh : h = (s.now.regs.portW 0x181).toNat % 65536)
include hh

theorem HandleFor.give_offers (hlive : handleLive (slotBuf s h) h = true) (hst : (slotBuf s h).st = 1)
    (hhold : (slotBuf s h).holder = s.focus % 16) (hbusy : s.bufBusy s.focus (ownerOf s h) (slotBuf s h) = false)
    (htg : bits (scalarOf v) 0 4 ≠ s.focus % 16) (hen : s.coreEnabled (s.focus / 16 * 16 + bits (scalarOf v) 0 4) = true) :
    trigHgive (trigCtx s 0x194 m v) (trigStart s src) = (trigCtx s 0x194 m v).handleItem
      (putSlot s src h { slotBuf s h with st := 2, target := bits (scalarOf v) 0 4, gap := gapHere s }) 12 h 0 (rightTo s h) := by
  refine trigHgive_offers (n := 0) (b := { slotBuf s h with st := 2, target := bits (scalarOf v) 0 4 }) H.quiet hh ?_
  simp [giveBuf_trigStart H.resident, hlive, hst, hhold, hbusy, htg, hen]

theorem HandleFor.give_dead (hdead : handleLive (slotBuf s h) h = false) : trigHgive (trigCtx s 0x194 m v) (trigStart s src) =
    (trigCtx s 0x194 m v).handleItem (trigStart s src) 12 h 5 .none := by
  refine trigHgive_refused H.quiet hh (.inl rfl) ?_
  rw [giveBuf_trigStart H.resident, if_pos hdead]

theorem HandleFor.give_notHeld (hlive : handleLive (slotBuf s h) h = true)
    (hn : (slotBuf s h).st ≠ 1 ∨ (slotBuf s h).holder ≠ s.focus % 16) : trigHgive (trigCtx s 0x194 m v) (trigStart s src) =
      (trigCtx s 0x194 m v).handleItem (trigStart s src) 12 h 3 .none := by
  refine trigHgive_refused H.quiet hh (.inr rfl) ?_
  rw [giveBuf_trigStart H.resident, if_neg (by simp [hlive]), if_pos hn]

/-- A copy touches the buffer, or the destination is the giver or is disabled. -/
theorem HandleFor.give_suspends (hlive : handleLive (slotBuf s h) h = true) (hst : (slotBuf s h).st = 1)
    (hhold : (slotBuf s h).holder = s.focus % 16) {st : Nat}
    (hwhy : (st = 6 ∧ s.bufBusy s.focus (ownerOf s h) (slotBuf s h) = true) ∨
      (st = 7 ∧ s.bufBusy s.focus (ownerOf s h) (slotBuf s h) = false ∧ (bits (scalarOf v) 0 4 = s.focus % 16 ∨
        s.coreEnabled (s.focus / 16 * 16 + bits (scalarOf v) 0 4) = false))) :
    trigHgive (trigCtx s 0x194 m v) (trigStart s src) = (trigCtx s 0x194 m v).handleItem
      (putSlot s src h { slotBuf s h with gap := gapHere s }) 12 h st (rightTo s h) := by
  refine trigHgive_suspends H.quiet hh H.resident ?_ ?_
  · omega
  · rcases hwhy with ⟨rfl, hbusy⟩ | ⟨rfl, hbusy, htg⟩
    · simp [giveBuf_trigStart H.resident, hlive, hst, hhold, hbusy]
    · simp [giveBuf_trigStart H.resident, hlive, hst, hhold, hbusy, htg]
end

section
variable (hh : h = (scalarOf v).toNat % 65536)
include hh

theorem HandleFor.take_takes (hlive : handleLive (slotBuf s h) h = true) (hst : (slotBuf s h).st = 2)
    (hfor : (slotBuf s h).target = s.focus % 16 ∨ (slotBuf s h).holder = s.focus % 16) :
    trigHtake (trigCtx s 0x195 m v) (trigStart s src) = (trigCtx s 0x195 m v).handleItem
      (putSlot s src h { slotBuf s h with st := 1, holder := s.focus % 16, target := 0, gap := gapHere s }) 12 h 0 (rightTo s h) := by
  refine trigHtake_takes (n := 0) (b := { slotBuf s h with st := 1, holder := s.focus % 16, target := 0 }) H.quiet hh ?_
  rw [takeBuf_trigStart H.resident, if_neg (by simp [hlive]), if_neg (by omega)]

theorem HandleFor.take_dead (hdead : handleLive (slotBuf s h) h = false) : trigHtake (trigCtx s 0x195 m v) (trigStart s src) =
    (trigCtx s 0x195 m v).handleItem (trigStart s src) 12 h 5 .none := by
  refine trigHtake_refused H.quiet hh ?_
  rw [takeBuf_trigStart H.resident, if_pos hdead]

theorem HandleFor.take_notOffered (hlive : handleLive (slotBuf s h) h = true) (hn : (slotBuf s h).st ≠ 2 ∨
      ((slotBuf s h).target ≠ s.focus % 16 ∧ (slotBuf s h).holder ≠ s.focus % 16)) :
    trigHtake (trigCtx s 0x195 m v) (trigStart s src) = (trigCtx s 0x195 m v).handleItem (trigStart s src) 12 h 4 .none := by
  refine trigHtake_refused H.quiet hh ?_
  rw [takeBuf_trigStart H.resident, if_neg (by simp [hlive]), if_pos hn]

/-- HREL by the owner frees the slot. -/
theorem HandleFor.rel_frees (hown : ownerOf s h = s.focus) (hlive : handleLive (slotBuf s h) h = true)
    (hst : (slotBuf s h).st = 1) (hhold : (slotBuf s h).holder = s.focus % 16)
    (hbusy : s.bufBusy s.focus (ownerOf s h) (slotBuf s h) = false) : trigHrel (trigCtx s 0x196 m v) (trigStart s src) =
      (trigCtx s 0x196 m v).handleItem (putSlot s src h { gen := nextGen (slotBuf s h).gen }) 12 h 0 .none := by
  refine trigHrel_releases (n := 0) H.quiet hh ?_
  rw [relBuf_trigStart H.resident, if_neg (by simp [hlive]), if_neg (by simp [hst, hhold]), if_neg (by simp [hbusy]),
    if_pos hown.symm]

/-- HREL by another holder gives the buffer back to the owner. -/
theorem HandleFor.rel_returns (hown : ownerOf s h ≠ s.focus) (hlive : handleLive (slotBuf s h) h = true)
    (hst : (slotBuf s h).st = 1) (hhold : (slotBuf s h).holder = s.focus % 16)
    (hbusy : s.bufBusy s.focus (ownerOf s h) (slotBuf s h) = false) : trigHrel (trigCtx s 0x196 m v) (trigStart s src) =
      (trigCtx s 0x196 m v).handleItem
        (putSlot s src h { slotBuf s h with holder := ownerOf s h % 16, target := 0, gap := none }) 12 h 0 .none := by
  refine trigHrel_releases (n := 0) H.quiet hh ?_
  rw [relBuf_trigStart H.resident, if_neg (by simp [hlive]), if_neg (by simp [hst, hhold]), if_neg (by simp [hbusy]),
    if_neg hown.symm]

theorem HandleFor.rel_dead (hdead : handleLive (slotBuf s h) h = false) : trigHrel (trigCtx s 0x196 m v) (trigStart s src) =
    (trigCtx s 0x196 m v).handleItem (trigStart s src) 12 h 5 .none := by
  refine trigHrel_refused H.quiet hh ?_
  rw [relBuf_trigStart H.resident, if_pos hdead]

theorem HandleFor.rel_notHeld (hlive : handleLive (slotBuf s h) h = true)
    (hn : (slotBuf s h).st ≠ 1 ∨ (slotBuf s h).holder ≠ s.focus % 16) : trigHrel (trigCtx s 0x196 m v) (trigStart s src) =
      (trigCtx s 0x196 m v).handleItem (trigStart s src) 12 h 3 .none := by
  refine trigHrel_refused H.quiet hh ?_
  rw [relBuf_trigStart H.resident, if_neg (by simp [hlive]), if_pos hn]

theorem HandleFor.rel_busy (hlive : handleLive (slotBuf s h) h = true) (hst : (slotBuf s h).st = 1)
    (hhold : (slotBuf s h).holder = s.focus % 16) (hbusy : s.bufBusy s.focus (ownerOf s h) (slotBuf s h) = true) :
    trigHrel (trigCtx s 0x196 m v) (trigStart s src) = (trigCtx s 0x196 m v).handleItem (trigStart s src) 12 h 6 .none := by
  refine trigHrel_refused H.quiet hh ?_
  rw [relBuf_trigStart H.resident, if_neg (by simp [hlive]), if_neg (by simp [hst, hhold]), if_pos hbusy]
end
end

/-! ### The bundle of a handle operation -/

section
variable {id h st : Nat} {d : BitVec 12} {i : Slot → Instr} {tf : TrigFn} {s : State} {f : Slot} {src : Src} {v : Line} {fx : Fx}
  {b : Buf} (ht : IsTrigger id d i Slot.m tf) (hid : id / 64 = 6 ∧ id ≠ 0x193) (hf : Fires s f.g f.s id src v)
include ht hid hf

/-- The item of a transfer. -/
abbrev transferItem (s : State) (id : Nat) (m : BitVec 4) (h st : Nat) (fx : Fx) : Item :=
  handleAnswer s id m 12 (word h) (h % 65536 + st * 65536) fx

/-- The table stays. -/
theorem exec_answers
    (hk : tf (trigCtx s id f.m v) (trigStart s src) = (trigCtx s id f.m v).handleItem (trigStart s src) 12 h st fx)
    (hr : ((s.now.fired src).withItem (transferItem s id f.m h st fx)).Room) :
    exec (i f) s = .next (issued s 0 ((s.now.fired src).withItem (transferItem s id f.m h st fx))) :=
  exec_isTrigger_mod ht (fun k => k.withItem (transferItem s id f.m h st fx)) hf (allowed_ls hid.1)
    (hk.trans (handleItem_transfer _ hid.1 hid.2)) hr

/-- A slot of the issuer's own table changes. -/
theorem exec_putSlot_own (hown : ownerOf s h = s.focus) (hctx : s.now.ctx = some (s.env s.focus).ctx)
    (hk : tf (trigCtx s id f.m v) (trigStart s src) = (trigCtx s id f.m v).handleItem (putSlot s src h b) 12 h st fx)
    (hr : (((s.now.fired src).withBuf (handleSlot h) b).withItem (transferItem s id f.m h st fx)).Room) :
    exec (i f) s = .next (issued s 0 (((s.now.fired src).withBuf (handleSlot h) b).withItem (transferItem s id f.m h st fx))) := by
  refine exec_isTrigger_mod ht (fun k => (k.withBuf (handleSlot h) b).withItem (transferItem s id f.m h st fx)) hf
    (allowed_ls hid.1) (hk.trans ?_) hr
  rw [putSlot, hown, setBuf_trigStart hctx, handleItem_transfer _ hid.1 hid.2, W.modCore_modCore]

/-- A slot of another core's table changes. -/
theorem exec_putSlot_other {o : Nat} (hown : ownerOf s h = o) (hne : o ≠ s.focus)
    (hctx : (s.core o).ctx = some (s.env s.focus).ctx)
    (hk : tf (trigCtx s id f.m v) (trigStart s src) = (trigCtx s id f.m v).handleItem (putSlot s src h b) 12 h st fx)
    (hr : ((s.now.fired src).withItem (transferItem s id f.m h st fx)).Room) :
    ∃ t, exec (i f) s = .next t ∧ t.mem = s.mem ∧ t.dies = s.dies ∧ t.pkg = s.pkg ∧
      t.now = ((s.now.fired src).withItem (transferItem s id f.m h st fx)).cycled s.clk (s.now.weight 0) ∧
      t.core o = (s.core o).withBuf (handleSlot h) b ∧
      ∀ c, c ≠ o → c ≠ s.focus → t.core c = s.core c := by
  have hok := hk.trans (handleItem_transfer (putSlot s src h b) hid.1 hid.2)
  rw [putSlot, hown, setBuf_trigStart hctx] at hok
  have hnow : ((trigStart s src).modCore o fun k => k.withBuf (handleSlot h) b).core s.focus =
      s.now.fired src := (W.core_modCore_ne _ _ _ hne.symm).trans (trigStart_core s src)
  refine ⟨_, exec_isTrigger ht hf (allowed_ls hid.1) hok ?_, rfl, rfl, rfl, ?_, ?_, fun c hco hcf => ?_⟩
  · rw [W.core_modCore_same, hnow]; exact hr
  · rw [W.modCore_modCore]
    refine (core_commit ..).trans ((W.core_modCore_same ..).trans ?_)
    rw [hnow]
  · refine (core_commit ..).trans ((W.core_modCore_ne _ _ _ hne).trans ((W.core_modCore_ne _ _ _ hne).trans ?_))
    rw [W.core_modCore_same, core_trigStart_ne hne]
  · exact (core_commit ..).trans ((W.core_modCore_ne _ _ _ hcf).trans ((W.core_modCore_ne _ _ _ hcf).trans
      ((W.core_modCore_ne _ _ _ hco).trans (core_trigStart_ne hcf))))
end

/-- Settles O22: HMAKE's three answers and its fault; the other three on the issuer's own table, refused, and on another
core's table. -/
theorem buffers : Obligations.Buffers := by
  have give : 0x194 / 64 = 6 ∧ 0x194 ≠ 0x193 := by decide
  have take : 0x195 / 64 = 6 ∧ 0x195 ≠ 0x193 := by decide
  have rel : 0x196 / 64 = 6 ∧ 0x196 ≠ 0x193 := by decide
  refine ⟨⟨fun i hi => hmake_makes hi, hmake_noSlot, fun i hi e => hmake_overlaps hi e, hmake_outside⟩, ?_, ?_, ?_⟩
  · intro s f src v h i b out put _ hown hctx hlive hq
    have H : HandleFor s h := ⟨by rw [ownerOf, hown]; exact hctx, hq⟩
    have hb : b = slotBuf s h := by rw [slotBuf, ownerOf, hown]
    have hfx : rightTo s h = .right s.focus (s.env s.focus).ctx i := by rw [rightTo, ownerOf, hown]
    have hbusyOf (y : Buf) : s.bufBusy s.focus s.focus y = s.bufBusy s.focus (ownerOf s h) y := by rw [ownerOf, hown]
    clear_value b
    subst hb
    rw [hbusyOf, ← hfx]
    refine ⟨fun hh hf hst hhold hbusy htg hen hr => ?_, fun st hh hf hst hhold hwhy hr => ?_, fun hh hf hst hfor hr => ?_,
      fun hh hf hst hhold hbusy hr => ?_⟩
    · have he := exec_putSlot_own isTrigger_hgive give hf hown hctx (H.give_offers hh hlive hst hhold hbusy htg hen)
      rw [Core.withBuf_fired] at he
      exact he hr
    · have he := exec_putSlot_own isTrigger_hgive give hf hown hctx (H.give_suspends hh hlive hst hhold hwhy)
      rw [Core.withBuf_fired] at he
      exact he hr
    · have he := exec_putSlot_own isTrigger_htake take hf hown hctx (H.take_takes hh hlive hst hfor)
      rw [Core.withBuf_fired] at he
      exact he hr
    · have he := exec_putSlot_own isTrigger_hrel rel hf hown hctx (H.rel_frees hh hown hlive hst hhold hbusy)
      rw [Core.withBuf_fired] at he
      exact he hr
  · intro s f src v h b answers _ hown hctx hq
    have H : HandleFor s h := ⟨by rw [ownerOf, hown]; exact hctx, hq⟩
    have hb : b = slotBuf s h := by rw [slotBuf, ownerOf, hown]
    have hbusyOf (y : Buf) : s.bufBusy s.focus s.focus y = s.bufBusy s.focus (ownerOf s h) y := by rw [ownerOf, hown]
    clear_value b
    subst hb
    rw [hbusyOf]
    refine ⟨fun hh hf => ⟨fun hdead => ?_, fun hlive hn => ?_⟩, fun hh hf => ⟨fun hdead => ?_, fun hlive hn => ?_⟩,
      fun hh hf => ⟨fun hdead => ?_, fun hlive hn => ?_, fun hlive hst hhold hbusy => ?_⟩⟩
    · exact exec_answers isTrigger_hgive give hf (H.give_dead hh hdead)
    · exact exec_answers isTrigger_hgive give hf (H.give_notHeld hh hlive hn)
    · exact exec_answers isTrigger_htake take hf (H.take_dead hh hdead)
    · exact exec_answers isTrigger_htake take hf (H.take_notOffered hh hlive hn)
    · exact exec_answers isTrigger_hrel rel hf (H.rel_dead hh hdead)
    · exact exec_answers isTrigger_hrel rel hf (H.rel_notHeld hh hlive hn)
    · exact exec_answers isTrigger_hrel rel hf (H.rel_busy hh hlive hst hhold hbusy)
  · intro s f src v h ctx o i b gap gives hlt hne hctx hlive hq
    have H : HandleFor s h := ⟨hctx, hq⟩
    have hword : h % 65536 + 0 * 65536 = h := by omega
    refine ⟨fun hh hf hst hhold hbusy htg hen => ?_, fun hh hf hst hfor => ?_, fun hh hf hst hhold hbusy => ?_⟩
    · have he := exec_putSlot_other isTrigger_hgive give hf rfl hne hctx (H.give_offers hh hlive hst hhold hbusy htg hen)
      rw [transferItem, hword] at he
      exact he
    · have he := exec_putSlot_other isTrigger_htake take hf rfl hne hctx (H.take_takes hh hlive hst hfor)
      rw [transferItem, hword] at he
      exact he
    · have he := exec_putSlot_other isTrigger_hrel rel hf rfl hne hctx (H.rel_returns hh hne hlive hst hhold hbusy)
      rw [transferItem, hword] at he
      exact he

end Sys2Proof.Machine
end

section
/-!
Held bundles, results and landings, and the commit buffer (05 R126..R131; 06 R145, R147, R163; 13 R303, R305).
-/

namespace Sys2Proof.Machine

/-! ### A held bundle is tried again (05 R129; 06 R163) -/

section
variable {s : State} {b : BitVec 256} (hruns : s.now.runs = true) (hseq : s.now.seq.on = false)
  (hfetch : s.fetchAt s.focus = some b)

include hruns hseq hfetch in
/-- What is due on a core without a loop is the bundle at its program counter. -/
theorem reissue_fetched : (W.of s).reissue s.focus = issueOne b trigOf ctlSlot s := by
  simp only [W.reissue, W.of_toState, hseq, hfetch, issueOne, hruns, Bool.false_eq_true, if_false, if_true]
  rfl

include hruns hseq hfetch in
theorem exec_holdRelease_held (hheld : 0 < s.now.pipe.held) :
    exec (.holdRelease s.focus) s = go s (issueOne b trigOf ctlSlot s) := by
  change execHoldRelease s.focus s = _
  rw [execHoldRelease, hruns, decide_eq_true hheld, Bool.and_self, if_pos rfl, reissue_fetched hruns hseq hfetch]

include hruns hseq hfetch in
theorem exec_watchdogTimeout_late (hlate : bits s.now.ctl.wdg 0 32 ≤ s.now.pipe.held) :
    exec (.watchdogTimeout s.focus) s = go s (issueOne b trigOf ctlSlot s) := by
  change execWatchdogTimeout s.focus s = _
  rw [execWatchdogTimeout, hruns, decide_eq_true hlate, Bool.and_self, if_pos rfl, reissue_fetched hruns hseq hfetch]

include hruns in
/-- A core that the gate holds tries nothing. -/
theorem issueOne_gated {r : Nat} {tbl : Nat → TrigFn} {cf : CtlFn} (hbkpt : s.now.bkpt = false)
    (hgate : s.now.gate s.clk = some r) :
    issueOne b tbl cf s = (W.of s).holdOr s.focus (Bundle.ofBits s.now.pcAddr b) r := by
  have hclk : (W.of s).clk = s.clk := rfl
  simp only [issueOne, W.of_core, hruns, if_true, issue, Bundle.passed, hbkpt, hclk, hgate, Bool.false_eq_true, if_false]

/-- Below the watchdog's limit a held cycle passes. -/
theorem holdOr_early {bd : Bundle} {r : Nat} (hearly : s.now.pipe.held < bits s.now.ctl.wdg 0 32) :
    ((W.of s).holdOr s.focus bd r).commit s = heldFor s r := by
  simp only [W.holdOr, W.of_core, Nat.not_le.mpr hearly, if_false, W.slewLeft_nil, W.heldCycle, W.commit_modCore, heldFor,
    Core.heldFor]

/-- At the limit the bundle traps. -/
theorem holdOr_late {r : Nat} (hlate : bits s.now.ctl.wdg 0 32 ≤ s.now.pipe.held) :
    ((W.of s).holdOr s.focus (Bundle.ofBits s.now.pcAddr b) r).commit s =
      trapped s b { code := 12, i0 := word r, i1 := word s.now.pipe.held } := by
  simp only [W.holdOr, W.of_core, hlate, if_true, trapped]

/-- A CNOP as a whole bundle goes on to the next bundle. -/
theorem issueOne_cnop {e : BitVec 4} {tbl : Nat → TrigFn} (h : CanIssue s e.toNat) (hin : InRange s) :
    go s (issueOne ((encode (.cnop e)).getD 0) tbl ctlSlot s) = .next (issued s e.toNat s.now.nextBundle) := by
  have hcls : (ctlE (controlWord e 0 0)).toNat = e.toNat := by simp
  have hslot : ctlSlot (ctlCtx s (controlWord e 0 0)) (ctlStart s (controlWord e 0 0)) = .ok (ctlStart s (controlWord e 0 0)) := by
    have hop : ctlOf (controlWord e 0 0) = ctlNop := by simp [ctlOf]
    rw [ctlSlot, ctlCtx_word, hop]
    exact (checked_ok (decodeControl_cnop e) rfl).trans (fall_ok hin)
  change go s (issueOne (Encoded.control (controlWord e 0 0)).bundle tbl ctlSlot s) = _
  rw [issueOne_control (hcls.symm ▸ h) hslot, hcls, go, ctlStart, W.modCore_modCore, W.commit_modCore,
    Core.nextAfter_other (by simp)]
  rfl
end

section
variable {s : State} {c : Nat}

theorem exec_holdRelease_idle (h : (s.core c).runs = false ∨ (s.core c).pipe.held = 0) : exec (.holdRelease c) s = .next s := by
  change go s (if _ then _ else _) = _
  have hoff : ((s.core c).runs && decide (0 < (s.core c).pipe.held)) = false := by
    obtain h | h := h <;> simp [h]
  rw [hoff, if_neg Bool.false_ne_true, go_of]

theorem exec_watchdogTimeout_idle (h : (s.core c).runs = false ∨ (s.core c).pipe.held < bits (s.core c).ctl.wdg 0 32) :
    exec (.watchdogTimeout c) s = .next s := by
  change go s (if _ then _ else _) = _
  have hoff : ((s.core c).runs && decide (bits (s.core c).ctl.wdg 0 32 ≤ (s.core c).pipe.held)) = false := by
    obtain h | h := h
    · rw [h, Bool.false_and]
    · rw [decide_eq_false (Nat.not_le.mpr h), Bool.and_false]
  rw [hoff, if_neg Bool.false_ne_true, go_of]
end

/-! ### Steps that change one core -/

/-- A step that changes one core. -/
theorem next_modCore {s : State} {c : Nat} {i : Instr} {f : Core → Core} {k : Core} (h : exec i s = go s ((W.of s).modCore c f))
    (hk : f (s.core c) = k) : ∃ t, exec i s = .next t ∧ OnlyCore s t c ∧ t.core c = k :=
  ⟨_, h, onlyCore_modCore s c f, by rw [core_commit, W.core_modCore_same, W.of_core, hk]⟩

/-! ### Results and landings (05 R126..R131) -/

/-- Completed items write the registers, those that were outdone excepted. -/
def Regs.landed (r : Regs) (l : List Item) : Regs := l.foldl (fun r it => if it.lost then r else r.place it.wr) r

/-- A core on which the items `sel` that are due have completed. -/
def Core.landed (k : Core) (clk : Nat) (sel : Item → Bool) : Core :=
  let l := (k.dueItems clk).filter sel
  { k with regs := k.regs.landed l
           pipe := { k.pipe with items := (k.pipe.items.filter fun it => !(l.contains it)).map fun it =>
             if !it.lost && l.any it.outdone then { it with lost := true } else it } }

section
variable {c : Nat} {f : Core → Core}

/-- Items without an effect beside their ports complete on one core. -/
theorem foldl_completeItem : ∀ (l : List Item) (w : W), (∀ it ∈ l, it.fx = .none) →
    (l.foldl (fun w it => w.completeItem c it) w).modCore c f = w.modCore c fun k => f { k with regs := k.regs.landed l }
  | [], _, _ => rfl
  | it :: l, w, hfx => by
    have hl : ∀ x ∈ l, x.fx = .none := fun x hx => hfx x (List.mem_cons_of_mem _ hx)
    have hit : it.fx = .none := hfx it List.mem_cons_self
    have hone : w.completeItem c it = if it.lost then w else w.modCore c fun k => k.modRegs fun r => r.place it.wr := by
      simp only [W.completeItem, W.itemFx, hit]
    rw [List.foldl_cons, foldl_completeItem l _ hl, hone]
    cases hlost : it.lost
    · rw [if_neg Bool.false_ne_true, W.modCore_modCore]
      simp only [Regs.landed, List.foldl_cons, hlost, Bool.false_eq_true, if_false, Core.modRegs]
    · rw [if_pos rfl]
      simp only [Regs.landed, List.foldl_cons, hlost, if_true]

theorem completeItems_landed {w : W} {sel : Item → Bool} (hfx : ∀ it ∈ (w.core c).pipe.items, it.fx = .none) :
    w.completeItems c sel = w.modCore c fun k => k.landed w.clk sel := by
  have hl : ∀ it ∈ ((w.core c).dueItems w.clk).filter sel, it.fx = .none := fun it hit =>
    hfx it (List.mem_of_mem_filter (List.mem_of_mem_filter hit))
  rw [W.completeItems, foldl_completeItem _ _ hl]
  exact W.modCore_congr _ _ rfl

/-- Loads that wait for nothing stay as they are. -/
theorem pollLoads_ready {w : W} (h : ∀ it ∈ (w.core c).pipe.items, it.await = .ready) : w.pollLoads c = w := by
  rw [W.pollLoads]
  generalize (w.core c).pipe.items = l at h
  induction l with
  | nil => rfl
  | cons it l ih =>
    rw [List.foldl_cons, h it List.mem_cons_self]
    exact ih fun x hx => h x (List.mem_cons_of_mem _ hx)

/-- The one load that waits for a line takes it once it is present. -/
theorem pollLoads_present {w : W} {it : Item} {o ln : Nat} (hi : (w.core c).pipe.items = [it]) (ha : it.await = .line o ln)
    (hp : (w.core o).present ln = true) :
    w.pollLoads c = w.modCore c fun k => k.wakeLine o ln ((w.core o).line ln) := by
  simp only [W.pollLoads, hi, List.foldl_cons, List.foldl_nil, ha, hp, if_true]
end

/-- One load that is due and lands leaves nothing unfinished. -/
theorem Core.landed_one {k : Core} {it : Item} {clk : Nat} (hi : k.pipe.items = [it]) (ha : it.await = .ready)
    (hlost : it.lost = false) (hload : isLoad it.id = true) (hdue : it.due ≤ k.pipe.run) (hrdy : it.rdy ≤ clk) :
    k.landed clk (fun it => isLoad it.id) = { k with regs := k.regs.place it.wr, pipe := { k.pipe with items := [] } } := by
  have hd : (k.dueItems clk).filter (fun it => isLoad it.id) = [it] := by
    simp [Core.dueItems, hi, ha, hdue, hrdy, hload]
  simp [Core.landed, hd, hi, Regs.landed, hlost]

section
variable {s : State} {c : Nat}

theorem exec_resultCompletion (hfx : ∀ it ∈ (s.core c).pipe.items, it.fx = .none) :
    ∃ t, exec (.resultCompletion c) s = .next t ∧ OnlyCore s t c ∧
      t.core c = (s.core c).landed s.clk fun it => !(isLoad it.id) :=
  next_modCore (congrArg (go s) (completeItems_landed hfx)) rfl

theorem exec_loadLanding (hfx : ∀ it ∈ (s.core c).pipe.items, it.fx = .none)
    (hready : ∀ it ∈ (s.core c).pipe.items, it.await = .ready) :
    ∃ t, exec (.loadLanding c) s = .next t ∧ OnlyCore s t c ∧ t.core c = (s.core c).landed s.clk fun it => isLoad it.id := by
  refine next_modCore (f := fun k => k.landed s.clk fun it => isLoad it.id) ?_ rfl
  change go s (((W.of s).pollLoads c).completeItems c _) = _
  rw [pollLoads_ready hready, completeItems_landed hfx]
  rfl

/-- A load whose line has become present lands. -/
theorem exec_loadLanding_line {it : Item} {o ln : Nat} (hi : (s.core c).pipe.items = [it]) (hfx : it.fx = .none)
    (hlost : it.lost = false) (hload : isLoad it.id = true) (ha : it.await = .line o ln) (hp : (s.core o).present ln = true)
    (hdue : it.due ≤ (s.core c).pipe.run) (hrdy : it.rdy ≤ s.clk) :
    ∃ t, exec (.loadLanding c) s = .next t ∧ OnlyCore s t c ∧
      t.core c = { s.core c with regs := (s.core c).regs.place (loadWrites it.id it.m it.a.toNat ((s.core o).line ln) true)
                                 pipe := { (s.core c).pipe with items := [] } } := by
  have hwake : ((s.core c).wakeLine o ln ((s.core o).line ln)).pipe.items =
      [{ it with await := .ready, kind := .res, wr := loadWrites it.id it.m it.a.toNat ((s.core o).line ln) true }] := by
    simp [Core.wakeLine, Core.modPipe, hi, ha]
  refine next_modCore
    (f := fun k => (k.wakeLine o ln ((s.core o).line ln)).landed s.clk fun it => isLoad it.id) ?_ ?_
  · change go s (((W.of s).pollLoads c).completeItems c _) = _
    rw [pollLoads_present hi ha hp, completeItems_landed, W.modCore_modCore]
    · rfl
    · rw [W.core_modCore_same, W.of_core, W.of_core, hwake]
      simpa using hfx
  · rw [Core.landed_one hwake rfl hlost hload hdue hrdy]
    rfl
end

/-! ### The commit buffer (13 R303) -/

section
variable {w : W} {s : State} {c n : Nat} {x : Out} {l : List (Nat × Out)}

/-- With no TLBINV that waits none is answered. -/
theorem tlbDone_nil (h : (w.core c).tlbWaits = []) : w.tlbDone c = w := by
  simp only [W.tlbDone, h, List.filter_nil, List.isEmpty_nil, if_true]

/-- Nothing is due, and nothing is answered. -/
theorem exec_drain_idle (hdue : s.drainDue c = false) (hw : (s.core c).tlbWaits = []) :
    exec (.commitBufferDrain c) s = .next s := by
  change execCommitBufferDrain c s = _
  rw [execCommitBufferDrain, hdue, if_neg Bool.false_ne_true, tlbDone_nil hw, go_of]

/-- The working copy without the oldest effect of the buffer. -/
def drained (s : State) (c : Nat) (l : List (Nat × Out)) : W := (W.of s).modCore c fun k => { k with cbuf := l }

theorem core_drained : (drained s c l).core c = { s.core c with cbuf := l } := W.core_modCore_same ..
theorem core_drained_ne {o : Nat} (h : o ≠ c) : (drained s c l).core o = s.core o := W.core_modCore_ne (W.of s) c _ h

/-- The oldest effect leaves, no boundary going before it. -/
theorem drainOne_emit (hc : (s.core c).cbuf = (n, x) :: l) (hx : ∀ q i, x ≠ .bound q i) :
    (W.of s).drainOne c = (drained s c l).emit c (b2n (decide (n = 0) && decide ((s.core c).mode = .handler))) x := by
  rw [W.drainOne, W.of_core, hc]
  cases x with
  | bound q i => exact absurd rfl (hx q i)
  | _ => rfl

/-- An effect that changes one die's call board. -/
theorem exec_drain_board {f : Board → Board} {d : Nat} (hc : (s.core c).cbuf = (n, x) :: l) (hw : (s.core c).tlbWaits = [])
    (hdue : n + 2 ≤ s.clk) (hx : ∀ q i, x ≠ .bound q i)
    (he : ∀ lvl, (drained s c l).emit c lvl x = (drained s c l).modBoard d f) :
    ∃ t, exec (.commitBufferDrain c) s = .next t ∧ t.mem = s.mem ∧ (∀ o, o ≠ c → t.core o = s.core o) ∧
      t.core c = { s.core c with cbuf := l } ∧ (t.die d).board = f (s.die d).board := by
  have hd : s.drainDue c = true := by simp only [State.drainDue, hc, decide_eq_true hdue]
  have hone : (W.of s).drainOne c = (drained s c l).modBoard d f := (drainOne_emit hc hx).trans (he _)
  have hcore : ((drained s c l).modBoard d f).core c = { s.core c with cbuf := l } := core_drained
  have hgo : exec (.commitBufferDrain c) s = go s ((drained s c l).modBoard d f) := by
    change execCommitBufferDrain c s = _
    rw [execCommitBufferDrain, hd, if_pos rfl, hone, tlbDone_nil]
    rw [hcore]; exact hw
  refine ⟨_, hgo, rfl, fun o ho => core_drained_ne ho, hcore, ?_⟩
  rw [die_commit, W.modBoard, W.die_modDie_same]
  rfl

/-- A board with launch `i` changed. -/
def Board.onLaunch (b : Board) (i : Nat) (f : Launch → Launch) : Board :=
  { b with launches := b.launches.map fun e => if e.1 = i then (e.1, f e.2) else e }

/-- A launch with `u` more units of group `g` done. -/
def Launch.report (y : Launch) (g u : Nat) : Launch := { y with done := Tab.put 0 y.done g (Tab.get 0 y.done g + u) }

theorem emit_unit {lvl i g u : Nat} :
    w.emit c lvl (.unit i g u) = w.modBoard (dieOf c) fun b => b.onLaunch i fun y => y.report g u := rfl

theorem launch_onLaunch {b : Board} {i : Nat} {f : Launch → Launch} (h : i ∈ b.launches.map (·.1)) :
    (b.onLaunch i f).launch i = f (b.launch i) := by
  rw [Board.launch, Board.launch, Board.onLaunch]
  generalize b.launches = t at h
  induction t with
  | nil => exact absurd h List.not_mem_nil
  | cons e t ih =>
    obtain ⟨j, y⟩ := e
    by_cases hj : j = i
    · simp [Tab.get, hj]
    · have ht : i ∈ t.map (·.1) := by simpa [Ne.symm hj] using h
      simpa [Tab.get, hj] using ih ht

/-- What a release covers does not rest on the commit buffer. -/
theorem openBefore_drained (q : Nat) : (drained s c l).openBefore c q = s.openBefore c q := by
  simp only [State.openBefore, State.openOps, State.engineWrites, core_drained]
  rfl

/-- A token for a die of this package waits at that die. -/
theorem sendToken_near {q tok scope : Nat} {dest : Word} (hnear : dest.getLsbD 13 = false) :
    w.sendToken c q dest tok scope = w.modBoard (bits dest 0 3) fun b => { b with intok := b.intok ++
      [{ die := bits dest 0 3, ctx := (w.core c).ctx.getD 0, tok := tok, src := some c, after := w.openBefore c q
         scope := scope, tid := (w.core c).tid }] } := by
  have hbit : bitAt dest 13 = false := hnear
  simp only [W.sendToken, hbit, Bool.false_and, Bool.not_false, Bool.false_eq_true, if_false, if_true]
end

/-- Settles O54: the bundle that is held is tried again as if it were due; what completes and what leaves the buffer are changes
of the core and of a die's call board. -/
theorem holdsAndResults : Obligations.HoldsAndResults := by
  refine ⟨?_, fun s c => ⟨exec_holdRelease_idle, exec_watchdogTimeout_idle,
    fun hfx => ⟨exec_resultCompletion hfx, exec_loadLanding hfx⟩,
    fun it o ln hi hfx hlost hload ha hp hdue hrdy => exec_loadLanding_line hi hfx hlost hload ha hp hdue hrdy,
    fun n => next_modCore rfl rfl, fun n x l hc hw => ⟨fun hearly => ?_, fun i g u hdue hx hi => ?_,
    fun q dest tok sc hdue hx hnear => ?_⟩, fun hc hw => ?_⟩⟩
  · intro s b c k hruns hseq hfetch
    refine ⟨fun hheld => ?_, fun e hheld hcan hin hb => ?_, fun r hheld hbkpt hgate hearly => ?_, fun r hbkpt hgate hlate => ?_⟩
    · exact (exec_holdRelease_held hruns hseq hfetch hheld).trans (exec_bundleIssue b s).symm
    · rw [exec_holdRelease_held hruns hseq hfetch hheld, hb, issueOne_cnop hcan hin]
    · rw [exec_holdRelease_held hruns hseq hfetch hheld, issueOne_gated hruns hbkpt hgate, go, holdOr_early hearly]
    · rw [exec_watchdogTimeout_late hruns hseq hfetch hlate, issueOne_gated hruns hbkpt hgate, go, holdOr_late hlate]
  · refine exec_drain_idle ?_ hw
    simp only [State.drainDue, hc]
    exact decide_eq_false (by omega)
  · subst hx
    obtain ⟨t, hexec, hmem, hcores, hcore, hboard⟩ := exec_drain_board hc hw hdue (fun _ _ => nofun) fun _ => emit_unit
    exact ⟨t, hexec, hmem, hcores, hcore, by rw [hboard, launch_onLaunch hi]; rfl⟩
  · subst hx
    obtain ⟨t, hexec, hmem, hcores, hcore, hboard⟩ :=
      exec_drain_board hc hw hdue (fun _ _ => nofun) fun _ => sendToken_near hnear
    refine ⟨t, hexec, hmem, hcores, hcore, ?_⟩
    rw [hboard, openBefore_drained, core_drained]
    rfl
  · exact exec_drain_idle (by simp only [State.drainDue, hc]) hw

end Sys2Proof.Machine
end

section
/-!
Bad targets: where a branch or the fall-through leaves the code range, or meets no bundle (06 R149; 13 R305).
-/

namespace Sys2Proof.Machine

/-- A target is named by its low 64 bits. -/
theorem word_target64 (x : Int) : word (target64 x) = BitVec.ofInt 64 x := by
  apply BitVec.eq_of_toNat_eq
  have hlt : x % 2 ^ 64 < 2 ^ 64 := Int.emod_lt_of_pos x (by decide)
  simp only [word, target64, BitVec.toNat_ofNat, BitVec.toNat_ofInt]
  omega

theorem word_natCast (n : Nat) : word n = BitVec.ofInt 64 n := (BitVec.ofInt_natCast 64 n).symm

/-! ### What each control operation answers, whatever it acts on -/

section
variable (s : State) (e : BitVec 4) (v : W)

theorem ctlBr_eq (d : BitVec 22) : ctlBr (ctlCtx s (controlWord e 1 d)) v =
    (ctlCtx s (controlWord e 1 d)).jump (s.now.pcAddr + 32 * d.toInt) v := by
  refine (checked_ok (decodeControl_br e d) rfl).trans ?_
  simp only [CCtx.rel, ctlCtx_word, ctlOpd_controlWord, sext_toNat, ctlCtx_bpc]
  rfl

theorem ctlCall_eq (d : BitVec 22) : ctlCall (ctlCtx s (controlWord e 3 d)) v =
    (ctlCtx s (controlWord e 3 d)).jump (s.now.pcAddr + 32 * d.toInt)
      (v.modCore s.focus fun k => k.modRegs fun r => r.setS 63 (word (s.now.pcAddr + 32))) := by
  refine (checked_ok (decodeControl_call e d) rfl).trans ?_
  simp only [CCtx.rel, ctlCtx_word, ctlOpd_controlWord, sext_toNat, ctlCtx_bpc, ctlCtx_c]
  rfl

theorem ctlJr_eq (n : BitVec 6) : ctlJr (ctlCtx s (controlWord e 5 (0#16 ++ n))) v =
    (ctlCtx s (controlWord e 5 (0#16 ++ n))).jump (s.now.regs.sreg n.toNat).toNat v := by
  have hn : bits (0#16 ++ n : BitVec 22) 0 6 = n.toNat := by
    rw [bits_eq_extract]; exact congrArg BitVec.toNat (extract_lo2 0#16 n)
  refine (checked_ok (decodeControl_jr e n) rfl).trans ?_
  simp only [ctlCtx_word, ctlOpd_controlWord, ctlCtx_k, hn]
  rfl

theorem ctlSetwin_eq (r : BitVec 7) (b : BitVec 15) : ∃ x, ctlSetwin (ctlCtx s (controlWord e 11 (r ++ b))) v =
    (ctlCtx s (controlWord e 11 (r ++ b))).fall x :=
  ⟨_, (checked_ok (decodeControl_setwin e r b) rfl).trans (if_neg nofun)⟩

/-- SETFMT of a legend in the context's range falls through. -/
theorem ctlSetfmt_eq {f : BitVec 12} (hf : s.legendInRange (dieOf s.focus) (s.env s.focus).ctx f.toNat = true) :
    ctlSetfmt (ctlCtx s (controlWord e 10 (0#10 ++ f))) v = (ctlCtx s (controlWord e 10 (0#10 ++ f))).fall
      (v.modCore s.focus fun k => k.modCtl fun r => { r with fmt := setBits (setBits r.fmt 40 12 f.toNat) 14 1 1 }) := by
  have hid : bits (0#10 ++ f : BitVec 22) 0 12 = f.toNat := by
    rw [bits_eq_extract]; exact congrArg BitVec.toNat (extract_lo2 0#10 f)
  refine (checked_ok (decodeControl_setfmt e f) rfl).trans ?_
  simp only [ctlCtx_word, ctlOpd_controlWord, ctlCtx_ctlw, ctlCtx_pre, ctlCtx_c, ctlCtx_env, hid, hf, Bool.not_true,
    Bool.false_eq_true, reduceCtorEq, if_false]
  rfl

end

/-! ### The trap -/

/-- ILLEGAL_CONTROL of SUB 2 for the control slot of the bundle of `i` and target `x`. -/
def badTarget (i : Instr) (x : Int) : Cause :=
  { code := 2, slot := 0, sub := 2, i0 := word (bundleSlot ((encode i).getD 0) 0).toNat, i1 := BitVec.ofInt 64 x }

theorem illegalControl_badTarget {i : Instr} {w : BitVec 32} {n : Nat} {x : Int} (hi : encode i = some (Encoded.control w).bundle)
    (hn : word n = BitVec.ofInt 64 x) : illegalControl w 2 n = badTarget i x := by
  rw [badTarget, hi, Option.getD_some, bundleSlot_control, if_pos rfl, ← hn]
  rfl

section
variable {s : State} {i : Instr} {e : BitVec 4} {o : BitVec 6} {x : BitVec 22} {cf : CtlFn} {v : W}

/-- A control operation that jumps where no branch may go. -/
theorem execControl_jump_bad {a : Int} (h : CanIssue s e.toNat) (ha : ¬ Reachable s a)
    (hi : encode i = some (Encoded.control (controlWord e o x)).bundle)
    (hk : cf (ctlCtx s (controlWord e o x)) (ctlStart s (controlWord e o x)) = (ctlCtx s (controlWord e o x)).jump a v) :
    execControl i cf s = .next (trapped s ((encode i).getD 0) (badTarget i a)) := by
  rw [jump_trap ha, illegalControl_badTarget hi (word_target64 a)] at hk
  exact execControl_trap hi h hk

/-- A control operation that falls through past the code range. -/
theorem execControl_fall_bad (h : CanIssue s e.toNat) (hr : ¬ InRange s)
    (hi : encode i = some (Encoded.control (controlWord e o x)).bundle)
    (hk : cf (ctlCtx s (controlWord e o x)) (ctlStart s (controlWord e o x)) = (ctlCtx s (controlWord e o x)).fall v) :
    execControl i cf s = .next (trapped s ((encode i).getD 0) (badTarget i (s.now.pcAddr + 32))) := by
  rw [fall_trap hr, illegalControl_badTarget hi (x := s.now.pcAddr + 32) (by rw [word_natCast]; rfl)] at hk
  exact execControl_trap hi h hk

end

/-- A slot whose destination is a hint, past the end of the code range: the empty control slot finds the successor bad. -/
theorem tried_hint_bad {s : State} {w : BitVec 32} (hr : ¬ InRange s) (hw : w ≠ 0)
    (hd : destOf (s.env s.focus).ver (slotD w).toNat = some .hint) : tried s (Encoded.moveSlot w).bundle noTrig ctlNop =
      { w := (W.of s).modCore s.focus (Core.succeed (oneMove s.now.pcAddr w))
        causes := [illegalControl 0#32 2 (s.now.pcAddr + 32)] } := by
  have hst : Work.start s.focus (oneMove s.now.pcAddr w) (W.of s) = { w := W.of s } := by
    have hacq : acqTouches (s.env s.focus) s.now.regs [moveSlot1 w] = false := by simp [acqTouches, hd]
    have hill : moveIllegal (s.env s.focus) (moveSlot1 w) = none := by simp [moveIllegal, hd]
    simp only [Work.start, Bundle.acqHeld, oneMove, W.of_toState, decodeCauses_one, hill, hacq, Bool.and_false]
    rfl
  have hrun (a : Work) : runMoves s.focus s (s.env s.focus) (oneMove s.now.pcAddr w) [moveSlot1 w] a = (a, []) := by
    simp only [runMoves, hd]
    split <;> rfl
  have hnop (q : Nat) (y : W) : ctlNop (ctlBase s.focus (oneMove s.now.pcAddr w) s q) y =
      .trap (illegalControl 0#32 2 (s.now.pcAddr + 32)) :=
    (checked_ok (s := s) (decodeControl_cnop 0) rfl).trans (fall_trap hr)
  rw [tried, Bundle.ofBits_moveSlot _ hw]
  simp only [tryBundle, runBundle, W.of_toState, hst, Option.isSome_none, Bool.or_false, Bool.false_eq_true, if_false,
    show (oneMove s.now.pcAddr w).moves = [moveSlot1 w] from rfl, hrun, runTrigs, hnop, Work.join, Work.fault, Work.room,
    List.isEmpty_nil, Bool.not_true, Bool.and_false, Bool.false_and, List.nil_append]

/-- A hint alone past the end of the code range. -/
theorem execHint_bad {s : State} (h : CanIssue s 0) (hr : ¬ InRange s) (g : BitVec 4) (x : BitVec 8) (sr : BitVec 12)
    (m : BitVec 4) : execHint g x sr m s =
      .next (trapped s ((encode (.hint g x sr m)).getD 0) (badTarget (.hint g x sr m) (s.now.pcAddr + 32))) := by
  have henc : encode (.hint g x sr m) = some (Encoded.moveSlot (moveWord g ((0xF : BitVec 4) ++ x) sr m)).bundle := rfl
  have hc : illegalControl 0#32 2 (s.now.pcAddr + 32) = badTarget (.hint g x sr m) (s.now.pcAddr + 32) := by
    rw [badTarget, henc, Option.getD_some, bundleSlot_moveSlot, if_neg (by decide), illegalControl, word_natCast]
    rfl
  have ht := tried_hint_bad hr (encodeSlot_ne_zero (i := .hint g x sr m) rfl rfl)
    (by rw [slotD_moveWord]; exact destOf_hint (hintDest_le x))
  rw [execHint, henc, Option.getD_some, go, ← hc]
  exact congrArg Host.Outcome.next
    (issueOne_of_cause (canIssue_slot h) (congrArg Work.causes ht) (congrArg Work.hold ht) (congrArg Work.wait ht))

/-- Settles O8: what each operation answers is a jump or the fall-through, and both trap where they may not go. -/
theorem badTargets : Obligations.BadTargets := by
  intro s e h
  refine ⟨fun d hd => ⟨?_, ?_⟩, fun v p d hp hd => ?_, fun hd => ?_, fun n hd => ?_, fun hr => ⟨?_, fun x y z hz => ?_,
    fun n v => ?_, fun v => ⟨?_, ?_⟩, fun r b => ?_, fun f hf => ?_, fun v p d hp => ?_, fun he g x sr m => ?_⟩⟩
  · exact execControl_jump_bad h hd rfl (ctlBr_eq s e _ d)
  · exact execControl_jump_bad h hd rfl (ctlCall_eq s e _ d)
  · exact execControl_jump_bad h hd rfl ((ctlBrp_eq s e v p d _).trans (if_pos hp))
  · exact execControl_jump_bad h hd rfl ((checked_ok (decodeControl_ret e) rfl).trans rfl)
  · exact execControl_jump_bad h hd rfl (ctlJr_eq s e _ n)
  · exact execControl_fall_bad h hr rfl (checked_ok (decodeControl_cnop e) rfl)
  · exact execControl_fall_bad h hr rfl (checked_ok (decodeControl_start e x y z) (if_neg fun hv => hv.2 (hz hv.1)))
  · exact execControl_fall_bad h hr rfl (checked_ok (decodeControl_chint e n v) rfl)
  · exact execControl_fall_bad h hr rfl (checked_ok (decodeControl_lit e v) rfl)
  · exact execControl_fall_bad h hr rfl (checked_ok (decodeControl_lith e v) rfl)
  · obtain ⟨y, hy⟩ := ctlSetwin_eq s e (ctlStart s (controlWord e 11 (r ++ b))) r b
    exact execControl_fall_bad h hr rfl hy
  · exact execControl_fall_bad h hr rfl (ctlSetfmt_eq s e _ hf)
  · exact execControl_fall_bad h hr rfl ((ctlBrp_eq s e v p d _).trans (if_neg (not_not.mpr hp)))
  · subst he
    exact execHint_bad h hr g x sr m

end Sys2Proof.Machine
end

section
/-!
Registers, predicates, views, and the conversions between scalars and lines (01 R15..R17; 06 R148).
-/

namespace Sys2Proof.Machine

/-! ### Scalar registers and predicates -/

theorem Regs.setS_pos {n : Nat} (r : Regs) (v : Word) (h : 0 < n) : r.setS n v = { r with s := Tab.put 0 r.s n v } :=
  if_neg (Nat.ne_of_gt h)
theorem Regs.setP_pos {n : Nat} (r : Regs) (q : Bool) (h : 0 < n) :
    r.setP n q = { r with p := setBits r.p n 1 (if q then 1 else 0) } := if_neg (Nat.ne_of_gt h)
theorem Regs.sreg_pos {n : Nat} (r : Regs) (h : 0 < n) : r.sreg n = Tab.get 0 r.s n := if_neg (Nat.ne_of_gt h)
theorem Regs.pred_pos {n : Nat} (r : Regs) (h : 0 < n) : r.pred n = r.p.getLsbD n := if_neg (Nat.ne_of_gt h)

theorem Regs.sreg_setS_same {n : Nat} (r : Regs) (v : Word) (h : 0 < n) : (r.setS n v).sreg n = v := by
  rw [r.setS_pos v h, Regs.sreg_pos _ h, Tab.get_put_same]

theorem Regs.sreg_setS_ne {m n : Nat} (r : Regs) (v : Word) (h : m ≠ n) : (r.setS n v).sreg m = r.sreg m := by
  rcases Nat.eq_zero_or_pos n with rfl | hn
  · rfl
  · rcases Nat.eq_zero_or_pos m with rfl | hm
    · rfl
    · rw [r.setS_pos v hn, Regs.sreg_pos _ hm, Regs.sreg_pos _ hm, Tab.get_put_ne _ _ _ h]

theorem Regs.pred_setP_same {n : Nat} (r : Regs) (q : Bool) (h : 0 < n) (h8 : n < 8) : (r.setP n q).pred n = q := by
  rw [r.setP_pos q h, Regs.pred_pos _ h, getLsbD_setBits _ _ _ (by omega)]
  cases q <;> simp

theorem Regs.pred_setP_ne {m n : Nat} (r : Regs) (q : Bool) (h : m ≠ n) (hn8 : n < 8) : (r.setP n q).pred m = r.pred m := by
  rcases Nat.eq_zero_or_pos n with rfl | hn
  · rfl
  · rcases Nat.eq_zero_or_pos m with rfl | hm
    · rfl
    · rw [r.setP_pos q hn, Regs.pred_pos _ hm, Regs.pred_pos _ hm, getLsbD_setBits _ _ _ (by omega), if_neg (by omega)]

/-- A write to a scalar register changes the scalar registers alone. -/
theorem Regs.setS_frame (r : Regs) (n : Nat) (v : Word) :
    (r.setS n v).p = r.p ∧ (r.setS n v).lit = r.lit ∧ (r.setS n v).op = r.op ∧ (r.setS n v).res = r.res := by
  rcases Nat.eq_zero_or_pos n with rfl | hn
  · exact ⟨rfl, rfl, rfl, rfl⟩
  · rw [r.setS_pos v hn]; exact ⟨rfl, rfl, rfl, rfl⟩

/-- A write to a predicate changes the predicates alone. -/
theorem Regs.setP_frame (r : Regs) (n : Nat) (q : Bool) :
    (r.setP n q).s = r.s ∧ (r.setP n q).lit = r.lit ∧ (r.setP n q).op = r.op ∧ (r.setP n q).res = r.res := by
  rcases Nat.eq_zero_or_pos n with rfl | hn
  · exact ⟨rfl, rfl, rfl, rfl⟩
  · rw [r.setP_pos q hn]; exact ⟨rfl, rfl, rfl, rfl⟩

/-! ### Views -/

/-- The modifier's two lower bits choose the view. -/
theorem bits_view (m : BitVec 4) : bits m 0 2 = m.toNat % 4 := rfl

/-- A lane of two half lines. -/
theorem lane_halves (hi lo : BitVec 512) {q : Nat} :
    lane (hi ++ lo) q = if q < 32 then lo.extractLsb' (16 * q) 16 else hi.extractLsb' (16 * (q - 32)) 16 := by
  split
  · exact BitVec.extractLsb'_append_eq_of_add_le (by omega)
  · exact (BitVec.extractLsb'_append_eq_of_le (by omega)).trans (by rw [show 16 * q - 512 = 16 * (q - 32) by omega])

theorem lane_replicate (x : Lane) {q : Nat} (hq : q < 64) : lane (BitVec.replicate 64 x) q = x := by
  refine BitVec.eq_of_getLsbD_eq fun i hi => ?_
  rw [lane, BitVec.getLsbD_extractLsb', BitVec.getLsbD_replicate, show (16 * q + i) % 16 = i by omega]
  simp [hi, show 16 * q + i < 16 * 64 by omega]

/-- A lane of a line under each of the four views. -/
theorem lane_viewLine (m : BitVec 4) (old v : Line) {q : Nat} (hq : q < 64) : lane (viewLine m old v) q =
    match m.toNat % 4 with
    | 0 => lane v q
    | 1 => if q < 32 then lane v q else lane old q
    | 2 => if q < 32 then lane old q else lane v q
    | _ => lane v 0 := by
  rw [viewLine, bits_view]
  have hlow (x : Line) (h : q < 32) : (x.extractLsb' 0 512).extractLsb' (16 * q) 16 = lane x q := by
    rw [BitVec.extractLsb'_extractLsb'_of_le (by omega), lane]
  have hhigh (x : Line) (h : ¬ q < 32) : (x.extractLsb' 512 512).extractLsb' (16 * (q - 32)) 16 = lane x q := by
    refine BitVec.eq_of_getLsbD_eq fun i hi => ?_
    simp [lane, hi, show 16 * (q - 32) + i < 512 by omega, show 512 + (16 * (q - 32) + i) = 16 * q + i by omega]
  match m.toNat % 4 with
  | 0 => rfl
  | 1 =>
    refine (lane_halves (old.extractLsb' 512 512) (v.extractLsb' 0 512)).trans ?_
    split <;> rename_i h
    · exact hlow v h
    · exact hhigh old h
  | 2 =>
    refine (lane_halves (v.extractLsb' 512 512) (old.extractLsb' 0 512)).trans ?_
    split <;> rename_i h
    · exact hlow old h
    · exact hhigh v h
  | _ + 3 => exact lane_replicate _ hq

theorem replicate_four (x : Lane) : BitVec.replicate 4 x = x ++ x ++ x ++ x := by
  refine BitVec.eq_of_getLsbD_eq fun i hi => ?_
  have hx : (x ++ x ++ x ++ x).getLsbD i = if i < 16 then x.getLsbD i else if i < 32 then x.getLsbD (i - 16)
      else if i < 48 then x.getLsbD (i - 32) else x.getLsbD (i - 48) := by
    refine (BitVec.getLsbD_append (x := x ++ x ++ x) (y := x)).trans ?_
    rw [BitVec.getLsbD_append, BitVec.getLsbD_append, show i - 16 - 16 = i - 32 by omega, show i - 32 - 16 = i - 48 by omega]
    simp only [show (i - 16 < 16) = (i < 32) by simp; omega, show (i - 32 < 16) = (i < 48) by simp; omega]
  have hmod : i % 16 = if i < 16 then i else if i < 32 then i - 16 else if i < 48 then i - 32 else i - 48 := by
    split_ifs <;> omega
  rw [BitVec.getLsbD_replicate, hx, hmod]
  simp only [hi, decide_true, Bool.true_and]
  split_ifs <;> rfl

/-- A scalar under each of the four views. -/
theorem viewWord_eq (m : BitVec 4) (a b : Word) : viewWord m a b =
    match m.toNat % 4 with
    | 0 => b
    | 1 => a.extractLsb' 32 32 ++ b.extractLsb' 0 32
    | 2 => b.extractLsb' 32 32 ++ a.extractLsb' 0 32
    | _ => b.extractLsb' 0 16 ++ b.extractLsb' 0 16 ++ b.extractLsb' 0 16 ++ b.extractLsb' 0 16 := by
  rw [viewWord, bits_view]
  match m.toNat % 4 with
  | 0 => rfl
  | 1 => rfl
  | 2 => rfl
  | _ + 3 => exact replicate_four _

/-! ### Conversions -/

/-- A scalar as a line lies in the first four lanes. -/
theorem lane_lineOf (a : Word) (q : Nat) : lane (lineOf a) q = if q < 4 then a.extractLsb' (16 * q) 16 else 0 := by
  refine BitVec.eq_of_getLsbD_eq fun i hi => ?_
  rw [lane, BitVec.getLsbD_extractLsb', lineOf]
  split <;> rename_i h
  · simp [hi, show 16 * q + i < 1024 by omega]
  · simp [BitVec.getLsbD_of_ge a (16 * q + i) (by omega)]

/-- Settles O9: a register by whether it is the one written, a line by its lanes under each view. -/
theorem registerFile : Obligations.RegisterFile := by
  refine ⟨fun r m n v q => ?_, fun m old v a b q hq => ?_⟩
  · obtain ⟨hp, hlit, hop, hres⟩ := r.setS_frame n v
    obtain ⟨hs, hlit', hop', hres'⟩ := r.setP_frame n q
    exact ⟨rfl, rfl, rfl, rfl, fun h _ => r.sreg_setS_same v h, r.sreg_setS_ne v, r.pred_setP_same q,
      fun h _ h8 => r.pred_setP_ne q h h8, hp, hlit, hop, hres, hs, hlit', hop', hres'⟩
  · exact ⟨lane_viewLine m old v hq, viewWord_eq m a b, lane_lineOf a q, BitVec.setWidth_eq_extractLsb' (by decide)⟩

end Sys2Proof.Machine
end

section
/-!
The integer units: each operation's result as the model computes it, in the operations of bit vectors (06 R159, R160).
-/

namespace Sys2Proof.Machine

section
variable (a b : Word)

/-! ### Products and quotients -/

theorem mulh_eq : BitVec.ofInt 64 (a.toInt * b.toInt / 2 ^ 64) =
    (a.signExtend 128 * b.signExtend 128).extractLsb' 64 64 := by
  have hprod : a.signExtend 128 * b.signExtend 128 = BitVec.ofInt 128 (a.toInt * b.toInt) :=
    (BitVec.ofInt_mul ..).symm
  apply BitVec.eq_of_toNat_eq
  rw [hprod, BitVec.extractLsb'_toNat, BitVec.toNat_ofInt, BitVec.toNat_ofInt, Nat.shiftRight_eq_div_pow]
  generalize a.toInt * b.toInt = p
  push_cast
  omega

theorem mulhu_eq : word (a.toNat * b.toNat / 2 ^ 64) = (a.zeroExtend 128 * b.zeroExtend 128).extractLsb' 64 64 := by
  have hlt : a.toNat * b.toNat < 2 ^ 128 := by
    calc a.toNat * b.toNat < 2 ^ 64 * 2 ^ 64 := Nat.mul_lt_mul'' a.isLt b.isLt
      _ = 2 ^ 128 := by norm_num
  have hx (x : Word) : (x.zeroExtend 128).toNat = x.toNat := BitVec.toNat_setWidth_of_le (by decide)
  apply BitVec.eq_of_toNat_eq
  rw [BitVec.extractLsb'_toNat, BitVec.toNat_mul, hx, hx, Nat.mod_eq_of_lt hlt, Nat.shiftRight_eq_div_pow, word,
    BitVec.toNat_ofNat]

theorem divTrunc_eq_sdiv : divTrunc a b = a.sdiv b := by
  apply BitVec.eq_of_toInt_eq
  rw [divTrunc, BitVec.toInt_ofInt, BitVec.toInt_sdiv]

theorem word_div_eq_udiv : word (a.toNat / b.toNat) = a.udiv b := by
  apply BitVec.eq_of_toNat_eq
  have hlt : a.toNat / b.toNat < 2 ^ 64 := Nat.lt_of_le_of_lt (Nat.div_le_self _ _) a.isLt
  rw [word, BitVec.toNat_ofNat, Nat.mod_eq_of_lt hlt]
  exact BitVec.toNat_udiv.symm

theorem rem_eq_srem : BitVec.ofInt 64 (a.toInt - b.toInt * a.toInt.tdiv b.toInt) = a.srem b := by
  rw [← Int.tmod_def, ← BitVec.toInt_srem, BitVec.ofInt_toInt]

theorem word_mod_eq_umod : word (a.toNat % b.toNat) = a.umod b := by
  apply BitVec.eq_of_toNat_eq
  have hlt : a.toNat % b.toNat < 2 ^ 64 := Nat.lt_of_le_of_lt (Nat.mod_le _ _) a.isLt
  rw [word, BitVec.toNat_ofNat, Nat.mod_eq_of_lt hlt]
  exact BitVec.toNat_umod.symm

/-- A shift by the low two modifier bits scales by 1, 2, 4 or 8. -/
theorem shiftLeft_scale (m : BitVec 4) : b <<< bits m 0 2 = b * 2 ^ (m.toNat % 4) := by
  apply BitVec.eq_of_toNat_eq
  rw [BitVec.toNat_shiftLeft, BitVec.toNat_mul, BitVec.toNat_pow, Nat.shiftLeft_eq, Nat.mul_mod_mod]
  rfl

/-! ### Order -/

theorem word_b2n (p : Prop) [Decidable p] : word (b2n (decide p)) = if p then 1 else 0 := by
  by_cases h : p <;> simp [h, b2n, word]

/-- Of two words that an injective value orders, which of two equal ones is taken does not matter. -/
theorem ite_le_eq_ite_lt {β : Type} [LinearOrder β] {f : Word → β} (hf : Function.Injective f) :
    (if f a ≤ f b then a else b) = (if f a < f b then a else b) ∧
      (if f a ≤ f b then b else a) = if f a < f b then b else a := by
  rcases lt_trichotomy (f a) (f b) with h | h | h
  · simp [h, h.le]
  · obtain rfl := hf h
    simp
  · simp [not_le.mpr h, h.not_gt]

theorem min_signed : (if a.toInt ≤ b.toInt then a else b) = if a.slt b then a else b := by
  rw [(ite_le_eq_ite_lt a b fun _ _ => BitVec.eq_of_toInt_eq).1]
  simp only [BitVec.slt_iff_toInt_lt]
theorem max_signed : (if a.toInt ≤ b.toInt then b else a) = if a.slt b then b else a := by
  rw [(ite_le_eq_ite_lt a b fun _ _ => BitVec.eq_of_toInt_eq).2]
  simp only [BitVec.slt_iff_toInt_lt]
theorem min_unsigned : (if a.toNat ≤ b.toNat then a else b) = if a.ult b then a else b := by
  rw [(ite_le_eq_ite_lt a b fun _ _ => BitVec.eq_of_toNat_eq).1]
  simp only [BitVec.ult_iff_toNat_lt]
theorem max_unsigned : (if a.toNat ≤ b.toNat then b else a) = if a.ult b then b else a := by
  rw [(ite_le_eq_ite_lt a b fun _ _ => BitVec.eq_of_toNat_eq).2]
  simp only [BitVec.ult_iff_toNat_lt]

theorem lt_signed : word (b2n (decide (a.toInt < b.toInt))) = if a.slt b then 1 else 0 := by
  simp only [word_b2n, BitVec.slt_iff_toInt_lt]
theorem lt_unsigned : word (b2n (decide (a.toNat < b.toNat))) = if a.ult b then 1 else 0 := by
  simp only [word_b2n, BitVec.ult_iff_toNat_lt]
theorem le_signed : word (b2n (decide (a.toInt ≤ b.toInt))) = if b.slt a then 0 else 1 := by
  simp only [word_b2n, BitVec.slt_iff_toInt_lt, ← Int.not_lt, ite_not]
theorem le_unsigned : word (b2n (decide (a.toNat ≤ b.toNat))) = if b.ult a then 0 else 1 := by
  simp only [word_b2n, BitVec.ult_iff_toNat_lt, ← Nat.not_lt, ite_not]

end

theorem bitAt_eq_getLsbD {n : Nat} (w : BitVec n) (i : Nat) : bitAt w i = w.getLsbD i := rfl

/-! ### Counting -/

/-- A word that is not zero lies between two powers of two that its leading zeros give. -/
theorem clz64_bounds {b : Word} (hb : b ≠ 0) :
    b.toNat < 2 ^ (64 - clz64 b) ∧ 2 ^ (63 - clz64 b) ≤ b.toNat ∧ clz64 b < 64 := by
  have h0 : b.toNat ≠ 0 := fun h => hb (BitVec.eq_of_toNat_eq h)
  have hlog : b.toNat.log2 < 64 := (Nat.log2_lt h0).mpr b.isLt
  have hclz : clz64 b = 63 - b.toNat.log2 := if_neg hb
  rw [hclz, show 64 - (63 - b.toNat.log2) = b.toNat.log2 + 1 by omega, show 63 - (63 - b.toNat.log2) = b.toNat.log2 by omega]
  exact ⟨Nat.lt_log2_self, Nat.log2_self_le h0, by omega⟩

/-- The trailing zeros are the place of the lowest 1 bit. -/
theorem ctz64_eq {b : Word} {i : Nat} (hi : i < 64) (h1 : b.getLsbD i = true) (h0 : ∀ j, j < i → b.getLsbD j = false) :
    ctz64 b = i := by
  have hfind : ((List.range 64).find? fun k => bitAt b k) = some i :=
    List.find?_range_eq_some.mpr ⟨h1, List.mem_range.mpr hi, fun j hj => by simp [bitAt_eq_getLsbD, h0 j hj]⟩
  rw [ctz64, hfind, Option.getD_some]

theorem foldl_b2n {α : Type} (p : α → Bool) (l : List α) :
    ∀ n, l.foldl (fun n k => n + b2n (p k)) n = n + (l.filter p).length := by
  induction l with
  | nil => intro n; rfl
  | cons k l ih =>
    intro n
    rw [List.foldl_cons, ih, List.filter_cons]
    cases p k
    · simp [b2n]
    · simp [b2n]; omega

theorem popc64_eq (b : Word) : popc64 b = ((List.range 64).filter fun k => b.getLsbD k).length :=
  (foldl_b2n _ _ 0).trans (Nat.zero_add _)

/-! ### Bytes -/

/-- Byte `i` of a list of bytes, least significant first. -/
theorem leNat_byte (i : Nat) : ∀ l : List Byte, leNat l / 256 ^ i % 256 = (l.getD i 0).toNat := by
  induction i with
  | zero =>
    rintro (_ | ⟨x, l⟩)
    · rfl
    · have hx := x.isLt
      simp only [leNat, Nat.pow_zero, Nat.div_one, List.getD_cons_zero]
      omega
  | succ i ih =>
    rintro (_ | ⟨x, l⟩)
    · simp [leNat]
    · have hx := x.isLt
      rw [leNat, Nat.pow_succ', ← Nat.div_div_eq_div_mul, show (x.toNat + 256 * leNat l) / 256 = leNat l by omega, ih,
        List.getD_cons_succ]

/-- Byte `i` of the bytes in reverse order is byte 7 − i. -/
theorem bswap64_byte (b : Word) {i : Nat} (hi : i < 8) :
    (bswap64 b).extractLsb' (8 * i) 8 = b.extractLsb' (8 * (7 - i)) 8 := by
  have hget : (toBytes 8 b.toNat).reverse.getD i 0 = b.extractLsb' (8 * (7 - i)) 8 := by
    rw [toBytes, List.getD_eq_getElem?_getD, List.getElem?_reverse (by simpa using hi)]
    simp [BitVec.extractLsb', show 7 - i < 8 by omega]
  have hbyte := leNat_byte i (toBytes 8 b.toNat).reverse
  rw [hget] at hbyte
  apply BitVec.eq_of_toNat_eq
  rw [← hbyte, bswap64, word, BitVec.extractLsb'_toNat, BitVec.toNat_ofNat, Nat.shiftRight_eq_div_pow]
  interval_cases i <;> omega

/-! ### Fields -/

/-- The top bit of `w` bits says whether they reach half their range. -/
theorem testBit_top {w : Nat} (hw : 0 < w) (x : Nat) : x.testBit (w - 1) = decide (2 ^ (w - 1) ≤ x % 2 ^ w) := by
  have h := BitVec.msb_eq_decide (BitVec.ofNat w x)
  rw [BitVec.msb_eq_getLsbD_last, BitVec.getLsbD_ofNat, BitVec.toNat_ofNat] at h
  simpa [hw] using h

/-- Two's complement of `w` bits in a word: bits above them repeat the top one. -/
theorem getLsbD_ofInt_sext {w i : Nat} (x : Nat) (hw : 0 < w) (hi : i < 64) :
    (BitVec.ofInt 64 (sext w x)).getLsbD i = x.testBit (if i < w then i else w - 1) := by
  have hs : sext w x = (BitVec.ofNat w x).toInt := by
    rw [← sext_toNat, BitVec.toNat_ofNat, sext, sext, Nat.mod_mod]
  rw [hs]
  refine (BitVec.getLsbD_signExtend (x := BitVec.ofNat w x) (v := 64) (i := i)).trans ?_
  rw [BitVec.msb_eq_getLsbD_last, BitVec.getLsbD_ofNat, BitVec.getLsbD_ofNat]
  split <;> simp [*]

theorem getLsbD_word (x i : Nat) : (word x).getLsbD i = (decide (i < 64) && x.testBit i) := BitVec.getLsbD_ofNat ..

theorem extend_full {a : Word} {w : Nat} (h : w = 0 ∨ 64 ≤ w) : sextFrom a w = a ∧ zextFrom a w = a :=
  ⟨if_pos h, if_pos h⟩

theorem getLsbD_sextFrom (a : Word) {w i : Nat} (hw : 0 < w) (h64 : w < 64) (hi : i < 64) :
    (sextFrom a w).getLsbD i = a.getLsbD (if i < w then i else w - 1) := by
  rw [sextFrom, if_neg (by omega)]
  exact getLsbD_ofInt_sext a.toNat hw hi

theorem getLsbD_zextFrom (a : Word) {w i : Nat} (hw : 0 < w) (h64 : w < 64) (hi : i < 64) :
    (zextFrom a w).getLsbD i = (decide (i < w) && a.getLsbD i) := by
  rw [zextFrom, if_neg (by omega), getLsbD_word, Nat.testBit_mod_two_pow]
  simp [hi, BitVec.getLsbD]

/-- The field's bits, and above them its top bit where the modifier asks for it. -/
theorem getLsbD_bitField (a b : Word) (m : BitVec 4) {i : Nat} (hi : i < 64) :
    let pos := b.toNat % 64
    let len := Nat.min ((b >>> 8).toNat % 128) 64
    (bitField a b m).getLsbD i =
      if i < len then a.getLsbD (pos + i) else m.getLsbD 0 && decide (1 ≤ len) && a.getLsbD (pos + len - 1) := by
  intro pos len
  have hx (j : Nat) : (a.toNat >>> pos).testBit j = a.getLsbD (pos + j) := Nat.testBit_shiftRight ..
  show (if bitAt m 0 ∧ 1 ≤ len ∧ 2 ^ (len - 1) ≤ a.toNat >>> pos % 2 ^ len then
    BitVec.ofInt 64 ((a.toNat >>> pos % 2 ^ len : Nat) - 2 ^ len) else word (a.toNat >>> pos % 2 ^ len)).getLsbD i = _
  have hm : bitAt m 0 = m.getLsbD 0 := rfl
  split
  case isTrue h =>
    obtain ⟨hm1, hlen, htop⟩ := h
    have hs : ((a.toNat >>> pos % 2 ^ len : Nat) : Int) - 2 ^ len = sext len (a.toNat >>> pos) := by
      have : 2 ^ len = 2 * 2 ^ (len - 1) := by rw [← Nat.pow_succ', Nat.succ_eq_add_one, Nat.sub_add_cancel hlen]
      rw [sext, if_neg (by omega)]
    rw [hs, getLsbD_ofInt_sext _ hlen hi, hx, ← hm, hm1, decide_eq_true hlen, Nat.add_sub_assoc hlen]
    split <;> rfl
  case isFalse h =>
    rw [getLsbD_word, Nat.testBit_mod_two_pow, hx, decide_eq_true hi, Bool.true_and]
    by_cases hlt : i < len
    · simp [hlt]
    · have htop : ¬ (m.getLsbD 0 = true ∧ 1 ≤ len ∧ a.getLsbD (pos + len - 1) = true) := by
        rintro ⟨hm1, hlen, ha⟩
        rw [Nat.add_sub_assoc hlen, ← hx, testBit_top hlen] at ha
        exact h ⟨hm1, hlen, of_decide_eq_true ha⟩
      rw [if_neg hlt, decide_eq_false hlt, Bool.false_and]
      simpa [and_assoc] using htop

/-! ### The carry-less product -/

/-- A sum without carries: a bit of it is the parity of the terms' bits. -/
theorem testBit_foldl_xor (a b : Word) (i : Nat) (l : List Nat) : ∀ p,
    (l.foldl (fun p k => if bitAt b k then p ^^^ (a.toNat <<< k) else p) p).testBit i =
      (p.testBit i ^^ decide ((l.filter fun k => decide (k ≤ i) && a.getLsbD (i - k) && b.getLsbD k).length % 2 = 1)) := by
  induction l with
  | nil => intro p; simp
  | cons k l ih =>
    intro p
    have hk : bitAt b k = b.getLsbD k := rfl
    rw [List.foldl_cons, ih, List.filter_cons, hk]
    cases hb : b.getLsbD k
    · simp
    · have ha : (a.toNat <<< k).testBit i = (decide (k ≤ i) && a.getLsbD (i - k)) := Nat.testBit_shiftLeft ..
      simp only [if_true, Nat.testBit_xor, ha, Bool.and_true]
      cases decide (k ≤ i) && a.getLsbD (i - k)
      · simp
      · rw [Bool.xor_assoc, if_pos rfl, List.length_cons, Bool.true_xor, ← decide_not]
        congr 1
        rw [decide_eq_decide]
        omega

theorem testBit_clmul (a b : Word) (i : Nat) : (clmul a b).testBit i =
    decide (((List.range 64).filter fun k => decide (k ≤ i) && a.getLsbD (i - k) && b.getLsbD k).length % 2 = 1) := by
  rw [clmul, testBit_foldl_xor, Nat.zero_testBit, Bool.false_xor]

/-! ### The operations -/

/-- The integer units' triggers are the ids 0x01 to 0x27 of their blocks. -/
theorem trigPort_int (u : BitVec 1) {op : Nat} (h1 : 1 ≤ op) (h2 : op ≤ 0x27) : trigPort (intPort u + op) = true := by
  have hu : intPort u = 0x100 ∨ intPort u = 0x140 := by revert u; decide
  simp only [trigPort, trigRanges, List.any_cons, Bool.or_eq_true, Bool.and_eq_true, decide_eq_true_eq]
  omega

/-- An operation of the integer block is what its number means; how it is encoded and run is read off its constructor. -/
theorem integerOp {u : BitVec 1} {i : BitVec 1 → Slot → Instr} {lat : Nat} {r : Word → Word → BitVec 4 → Word} (k : BitVec 6)
    (hr : ∀ a b m, intResult k.toNat a b m = r a b m)
    (hk : 1 ≤ k.toNat ∧ k.toNat ≤ 0x27 := by decide)
    (he : ∀ f, encode (i u f) = some (Encoded.moveSlot (moveWord f.g ((2 : BitVec 5) ++ u ++ k) f.s f.m)).bundle := by
      exact fun _ => rfl)
    (hx : ∀ f s, exec (i u f) s = execTrigger (i u f) trigInt s := by exact fun _ _ => rfl)
    (hl : intLatency k.toNat = lat := by rfl) : IntegerOp u i k.toNat lat r :=
  IntegerOp.of he hx rfl hl hr (trigPort_int u hk.1 hk.2)

/-- Settles O16: each operation by its result; the counting, field and carry-less functions bit by bit. -/
theorem integerUnit : Obligations.IntegerUnit := by
  refine ⟨fun u => ?_, fun u => ?_, fun a b m w i => ?_⟩
  · refine ⟨integerOp 0x01 fun _ _ _ => rfl, integerOp 0x02 fun _ _ _ => rfl, integerOp 0x03 fun _ _ _ => rfl,
      integerOp 0x04 fun a b _ => mulh_eq a b, integerOp 0x05 fun a b _ => mulhu_eq a b, ?_, ?_, ?_, ?_,
      integerOp 0x0a fun _ _ _ => rfl, integerOp 0x0b fun _ _ _ => rfl, integerOp 0x0c fun _ _ _ => rfl,
      integerOp 0x0d fun _ _ _ => rfl, integerOp 0x0e fun _ _ _ => rfl, integerOp 0x0f fun _ _ _ => rfl,
      integerOp 0x10 fun _ _ _ => rfl, integerOp 0x11 fun _ _ _ => rfl, integerOp 0x12 fun _ _ _ => rfl,
      integerOp 0x26 fun _ _ _ => rfl, integerOp 0x27 fun a b m => congrArg (a + ·) (shiftLeft_scale b m),
      ?_, ?_, ?_, ?_, ?_, ?_, ?_, ?_, ?_, ?_⟩
    · exact integerOp 0x06 fun a b _ => congrArg (ite (b = 0) _) (divTrunc_eq_sdiv a b)
    · exact integerOp 0x07 fun a b _ => congrArg (ite (b = 0) _) (word_div_eq_udiv a b)
    · exact integerOp 0x08 fun a b _ => congrArg (ite (b = 0) a) (rem_eq_srem a b)
    · exact integerOp 0x09 fun a b _ => congrArg (ite (b = 0) a) (word_mod_eq_umod a b)
    · exact integerOp 0x13 fun a b _ => (min_signed a b)
    · exact integerOp 0x14 fun a b _ => (max_signed a b)
    · exact integerOp 0x15 fun a b _ => (min_unsigned a b)
    · exact integerOp 0x16 fun a b _ => (max_unsigned a b)
    · exact integerOp 0x1e fun a b _ => word_b2n (a = b)
    · exact integerOp 0x1f fun a b _ => (word_b2n (a ≠ b)).trans (ite_not ..)
    · exact integerOp 0x20 fun a b _ => lt_signed a b
    · exact integerOp 0x21 fun a b _ => lt_unsigned a b
    · exact integerOp 0x22 fun a b _ => le_signed a b
    · exact integerOp 0x23 fun a b _ => le_unsigned a b
  · exact ⟨integerOp 0x17 fun _ _ _ => rfl, integerOp 0x18 fun _ _ _ => rfl, integerOp 0x19 fun _ _ _ => rfl,
      integerOp 0x1a fun _ _ _ => rfl, integerOp 0x1b fun _ _ _ => rfl, integerOp 0x1c fun _ _ _ => rfl,
      integerOp 0x1d fun _ _ _ => rfl, integerOp 0x24 fun _ _ _ => rfl, integerOp 0x25 fun _ _ _ => rfl⟩
  · exact ⟨clz64_bounds, rfl, ctz64_eq, rfl, popc64_eq b, bswap64_byte b, extend_full, getLsbD_sextFrom a, getLsbD_zextFrom a,
      getLsbD_bitField a b m, testBit_clmul a b i⟩

end Sys2Proof.Machine
end

section
/-!
SLEWREQ and FILLER (06 R164; 15 R338..R340).
-/

namespace Sys2Proof.Machine

theorem isTrigger_slewreq : IsTrigger 0x304 0x304 .slewreq Slot.m trigSlewreq :=
  ⟨rfl, fun _ => rfl, fun _ _ => rfl, by decide⟩
theorem isTrigger_filler : IsTrigger 0x305 0x305 .filler Slot.m trigFiller := ⟨rfl, fun _ => rfl, fun _ _ => rfl, by decide⟩

/-- A reservation that does not rise is taken at once, without the limiter. -/
theorem trigSlewreq_lower {s : State} {src : Src} {v : Line} (hlt : (scalarOf v).toNat < 2 ^ 16)
    (hle : (scalarOf v).toNat ≤ s.now.ctl.res) :
    trigSlewreq (trigCtx s 0x304 0 v) (trigStart s src) = .ok ((trigStart s src).modCore s.focus fun k =>
      (k.modCtl fun r => { r with res := (scalarOf v).toNat }).withItem
        { trigItem s 0x304 0 2 0 0 [(0x300, lineOf (scalarOf v))] with kind := .res }) := by
  have hres : ((trigStart s src).core s.focus).ctl.res = s.now.ctl.res := by rw [trigStart_core, Core.fired_res]
  simp only [trigSlewreq, trigCtx_m, trigCtx_v _ _ _ _ (show lineTrig 0x304 = false from rfl), bits_high_eq_zero (n := 16) hlt,
    bits_low_eq hlt, trigCtx_c, hres, word_toNat]
  rw [if_neg (by simp), if_neg (by simp), if_pos hle, W.addItem, W.modCore_modCore]
  rfl

/-- A FILLER that its reservation covers begins on a free unit. -/
theorem trigFiller_reserved {s : State} {src : Src} {v : Line} (hlt : (scalarOf v).toNat < 2 ^ 4)
    (hmx : s.now.eng.mx = none) (hwait : s.now.eng.mxWait = none) (hend : s.now.eng.mxEnd.1 ≠ s.clk)
    (hres : (s.die (dieOf s.focus)).fw (clusterOf s.focus) (scalarOf v).toNat ≤ s.now.ctl.res) :
    trigFiller (trigCtx s 0x305 0 v) (trigStart s src) = .ok ((trigStart s src).modCore s.focus fun k =>
      (k.drawing ((s.die (dieOf s.focus)).fw (clusterOf s.focus) (scalarOf v).toNat)).modEng fun e =>
        { e with mx := some { id := 0x305, trig := scalarOf v, seq := s.now.pipe.seq, u := s.now.pipe.run
                              dc := 4 * ((scalarOf v).toNat + 1), dt := 4 * ((scalarOf v).toNat + 1), started := true
                              bpc := word s.now.pcAddr, stepped := s.now.stepArm } }) := by
  have hdraw : (s.die (dieOf s.focus)).fw (clusterOf s.focus) (scalarOf v).toNat ≤ ((trigStart s src).core s.focus).ctl.res := by
    rwa [trigStart_core, Core.fired_res]
  simp only [trigFiller, trigCtx_m, trigCtx_v _ _ _ _ (show lineTrig 0x305 = false from rfl), bits_high_eq_zero (n := 4) hlt,
    bits_low_eq hlt, trigCtx_k]
  rw [if_neg (by simp), if_neg (by simp)]
  -- no operation has ended in this clock cycle whose draw the FILLER could take over
  refine (congrArg (startMx _ _ _ _ · _) ?_).trans ((startMx_reserved (t := trigCtx s 0x305 0 v) hmx hwait rfl hdraw).trans ?_)
  · exact Bool.and_eq_false_iff.mpr (.inl (Bool.and_eq_false_iff.mpr (.inr (decide_eq_false hend))))
  rw [trigCtx_c, W.modCore_modCore]
  rfl

/-- The end of a FILLER's block that no step reports: the next block, or the unit free. -/
theorem fillerBlock_eq {w : W} {c : Nat} {o : EngineOp} (hmx : (w.core c).eng.mx = some o) (hid : o.id = 0x305)
    (hstart : o.started = true) (hdue : o.u + 4 * (o.step + 1) ≤ (w.core c).pipe.run) (hstep : o.stepped = false) :
    ∃ e : Nat × Nat → Nat × Nat, w.fillerBlock c = w.modCore c fun k => k.modEng fun x =>
      { x with mx := if o.step < bits o.trig 0 4 then some { o with step := o.step + 1 } else none, mxEnd := e x.mxEnd } := by
  by_cases hlast : o.step < bits o.trig 0 4
  · refine ⟨id, ?_⟩
    simp only [W.fillerBlock, hmx, hid, hstart, hdue, and_self, if_true, hlast, id]
  · refine ⟨fun _ => (w.clk, (w.die (dieOf c)).fw (clusterOf c) o.fillerStep), ?_⟩
    simp only [W.fillerBlock, hmx, hid, hstart, hdue, and_self, if_true, hlast, if_false, W.stepDone, hstep, Bool.false_eq_true]

/-- Settles O31: what each trigger answers, and the change of the engines at a block's end. -/
theorem slewAndFiller : Obligations.SlewAndFiller := by
  refine ⟨?_, ?_, fun s c o hmx hid hstart hdue hstep => ?_⟩
  · refine isTrigger_slewreq.triggersIf (fun s f v h => allowed_ctl h.1 fun h => absurd h (by decide)) fun s f src v h => ?_
    obtain ⟨hm, hlt, hle⟩ := h
    rw [hm]
    exact trigSlewreq_lower hlt hle
  · refine isTrigger_filler.triggersIf (fun s f v h => allowed_ctl h.1 fun h => absurd h (by decide)) fun s f src v h => ?_
    obtain ⟨hm, hlt, hmx, hwait, hend, hres⟩ := h
    rw [hm]
    exact trigFiller_reserved hlt hmx hwait hend hres
  · obtain ⟨e, hblock⟩ := fillerBlock_eq (w := W.of s) hmx hid hstart hdue hstep
    refine ⟨_, congrArg (fun w => Host.Outcome.next (W.commit w s)) hblock, ?_⟩
    rw [W.commit_modCore]
    refine ⟨rfl, rfl, fun x hx => State.core_set_ne s _ hx, ?_, ?_⟩
    · rw [State.core_set_same]
      rfl
    · rw [State.core_set_same]
      rfl

end Sys2Proof.Machine
end

section
/-!
The start cycle of the matrix unit is also that of an operation that RTRAP has put back on the accumulator engine (13 R300).
-/

namespace Sys2Proof.Machine

/-- An MMA of K = 32 on tile 1 that waits for its start cycle, run cycle 0. -/
def waitingMma : EngineOp :=
  { id := 0x810, ports := [0, 64, 0, 64, 32, 1, 0, 0], seq := 1, u := 0, dc := 144, dt := 144, due := some 0 }

/-- An ACCZ of tile 0 that RTRAP has put back, with the same start cycle. -/
def returnedAccz : EngineOp := { id := 0x844, seq := 0, u := 0, dc := 16, dt := 16, due := some 0, again := true }

/-- Core 0 with both of them, and a reservation that covers the matrix unit's weight; a wait cycle of the resume remains. -/
def bothWait : State :=
  { State.reset with cores := [(0, { Core.reset with
      ctl := { res := 65536 }, pipe := { pre := 1 }, eng := { mxWait := some waitingMma, acc := some returnedAccz } })] }

/-- The start cycle starts the ACCZ, too. -/
theorem engineStart_bothWait :
    ((((W.of bothWait).engineStart 0 0).commit bothWait).core 0).eng.acc = some { returnedAccz with started := true, again := false, due := none } := by
  decide +kernel

/-- Refutes O34: the first clause says that the start of the waiting matrix operation leaves the accumulator engine as it was,
and asks nothing of that engine; an ACCZ put back by RTRAP whose start cycle it is starts with it. -/
theorem not_matrixSteps : ¬ Obligations.MatrixSteps := by
  intro h
  obtain ⟨hstart, -⟩ := h bothWait 0 waitingMma rfl
  obtain ⟨t, hexec, -, hcore⟩ := hstart rfl rfl rfl (by decide +kernel)
  have ht : ((W.of bothWait).engineStart 0 0).commit bothWait = t := Host.Outcome.next.inj hexec
  have hacc : some { returnedAccz with started := true, again := false, due := none } = some returnedAccz := by
    rw [← engineStart_bothWait, ht, hcore]
    rfl
  exact absurd hacc (by decide)

end Sys2Proof.Machine
end

section
/-!
The end of a task's run takes back the prompt of every record for which its core was prompted (12 R280).
-/

namespace Sys2Proof.Machine

/-- The record of the task on core 0, board entry 0. -/
def runningRec : Record := { ctx := 0, img := 0, run := true }
/-- Entry 1: a ready record for which core 0 has been prompted. -/
def promptingRec : Record := { ctx := 0, img := 0, ready := true, prompting := some 0 }

/-- The state: core 0 runs the task of entry 0 and is prompted to leave it for the record of entry 1. -/
def promptedState : State :=
  { State.reset with
    cores := [(0, { Core.reset with mode := .task, running := some { img := 0, e := 0, since := 0 }, ctx := some 0 })]
    dies := [(0, { State.reset.die 0 with board := { recs := [(0, runningRec), (1, promptingRec)] } })] }

/-- The core for which entry 1 waits after a step. -/
def promptingAfter (o : Host.Outcome State Fault Refusal) : Option (Option Nat) :=
  match o with
  | .next t => ((t.die 0).board.entry 1).map (·.prompting)
  | _ => none

/-- The YIELD takes the prompt back. -/
theorem promptingAfter_yield : promptingAfter (exec (.yield 0) promptedState) = some none := by
  decide +kernel

/-- Nothing keeps core 0 from issuing a bundle of class 0. -/
theorem canIssue_promptedState : CanIssue promptedState 0 := by
  unfold CanIssue
  decide +kernel

/-- Refutes O48: a YIELD need not leave the other board entries as they were. The task that its core was prompted to leave has left
with it, and the record that waits for the core may prompt again: its mark of the prompt is cleared (12 R280). -/
theorem not_suspends : ¬ Obligations.Suspends := by
  intro h
  obtain ⟨hends, -⟩ := h promptedState 0 { img := 0, e := 0, since := 0 } runningRec canIssue_promptedState rfl rfl rfl rfl
    (by decide) rfl rfl (by decide +kernel)
  obtain ⟨⟨t, hexec, -, -, -, hothers⟩, -⟩ := hends rfl (by decide +kernel)
  have hentry : (t.die 0).board.entry 1 = some promptingRec := hothers 1 (by decide)
  have hprompt : promptingAfter (.next t) = some none := (congrArg promptingAfter hexec).symm.trans promptingAfter_yield
  rw [promptingAfter, hentry] at hprompt
  exact absurd hprompt (by decide)

end Sys2Proof.Machine
end

section
/-!
The modulo sequencer: LOOPM, merged issues and LOOPX (06 R154..R158).
-/

namespace Sys2Proof.Machine

/-! ### LOOPM (06 R154, R155) -/

section
variable {e : BitVec 4} {o : BitVec 6} (l t n : BitVec 6)

theorem bits_loopm_lb : bits (l ++ t ++ n ++ 0#4 : BitVec 22) 16 6 = l.toNat := by
  rw [bits_eq_extract]; exact congrArg BitVec.toNat (extract_one4 l t n 0#4)
theorem bits_loopm_ii : bits (l ++ t ++ n ++ 0#4 : BitVec 22) 10 6 = t.toNat := by
  rw [bits_eq_extract]; exact congrArg BitVec.toNat (extract_two4 l t n 0#4)
theorem bits_loopm_count : bits (l ++ t ++ n ++ 0#4 : BitVec 22) 4 6 = n.toNat := by
  rw [bits_eq_extract]; exact congrArg BitVec.toNat (extract_three4 l t n 0#4)
end

/-- The control word of LOOPM. -/
def loopmWord (e : BitVec 4) (l t n : BitVec 6) : BitVec 32 := controlWord e 6 (l ++ t ++ n ++ (0 : BitVec 4))

/-- The body that a LOOPM of length field `l` fetches: the bundles behind it (06 R154). -/
def loopmBody (s : State) (l : BitVec 6) : List (Option (BitVec 256)) :=
  (List.range (l.toNat + 1)).map fun i => (W.of s).fetch (s.env s.focus).pages (s.now.pcAddr + 32 * (i + 1))

/-- The core that LOOPM leaves of `k`, the body and the repeat count given (06 R154). -/
def Core.loopStarted (body : List (Option (BitVec 256))) (l t n : BitVec 6) (pc count : Nat) (k : Core) : Core :=
  ({ k with seq := if 0 < count then { on := true, body := body.map fun (b : Option (BitVec 256)) => b.getD 0 } else {} }.setPc
    (pc + 32 * (l.toNat + 1 + 1))).modCtl fun r =>
      { r with lpc := word pc
               lsq := word ((if 0 < count then 1 else 0) + l.toNat * 2 + t.toNat * 2 ^ 7 + n.toNat * 2 ^ 13)
               ltc := word (count + count * 2 ^ 32), lix := 0 }

section
variable {s : State} {e : BitVec 4} {l t n : BitVec 6}

theorem decodeControl_loopmWord : decodeControl (loopmWord e l t n) = .ok (.loopm e l t n) := decodeControl_loopm e l t n
theorem ctlOpd_loopmWord : ctlOpd (loopmWord e l t n) = l ++ t ++ n ++ 0#4 := ctlOpd_controlWord _ _ _

/-- The body that the control slot fetches is that of the state before the bundle. -/
theorem fetch_ctlStart (w : BitVec 32) : ((List.range (l.toNat + 1)).map fun i =>
    (ctlStart s w).fetch (s.env s.focus).pages (s.now.pcAddr + 32 * (i + 1))) = loopmBody s l := rfl

/-- A body that is refused traps (06 R155). -/
theorem ctlLoopm_refused {x : Cause} (ht : t ≠ 0)
    (hbody : bodyCause (loopmWord e l t n) (s.env s.focus) s.now.pcAddr (l.toNat + 1) t.toNat (loopmBody s l) = some x) :
    ctlLoopm (ctlCtx s (loopmWord e l t n)) (ctlStart s (loopmWord e l t n)) = .trap x := by
  refine (checked_ok decodeControl_loopmWord (if_neg ht)).trans ?_
  simp only [ctlCtx_word, ctlCtx_env, ctlCtx_bpc, ctlOpd_loopmWord, bits_loopm_lb, bits_loopm_ii, fetch_ctlStart, hbody]

/-- After the checks of the body, the repeat count decides (06 R154). -/
theorem ctlLoopm_accepted (ht : t ≠ 0)
    (hbody : bodyCause (loopmWord e l t n) (s.env s.focus) s.now.pcAddr (l.toNat + 1) t.toNat (loopmBody s l) = none) :
    ctlLoopm (ctlCtx s (loopmWord e l t n)) (ctlStart s (loopmWord e l t n)) =
      if 2 ^ 32 ≤ (s.now.regs.sreg n.toNat).toNat then .trap (illegalControl (loopmWord e l t n) 1 0)
      else .ok ((ctlStart s (loopmWord e l t n)).modCore s.focus
        (Core.loopStarted (loopmBody s l) l t n s.now.pcAddr (s.now.regs.sreg n.toNat).toNat)) := by
  refine (checked_ok decodeControl_loopmWord (if_neg ht)).trans ?_
  simp only [ctlCtx_word, ctlCtx_k, ctlCtx_c, ctlCtx_env, ctlCtx_bpc, ctlCtx_ctlw, ctlOpd_loopmWord, bits_loopm_lb,
    bits_loopm_ii, bits_loopm_count, fetch_ctlStart, hbody, b2n, decide_eq_true_eq, reduceCtorEq, if_false,
    Nat.add_sub_cancel]
  rfl

theorem exec_loopm_starts (h : CanIssue s e.toNat) (ht : t ≠ 0)
    (hbody : bodyCause (loopmWord e l t n) (s.env s.focus) s.now.pcAddr (l.toNat + 1) t.toNat (loopmBody s l) = none)
    (hcount : (s.now.regs.sreg n.toNat).toNat < 2 ^ 32) :
    exec (.loopm e l t n) s = .next (issued s e.toNat
      (Core.loopStarted (loopmBody s l) l t n s.now.pcAddr (s.now.regs.sreg n.toNat).toNat s.now.nextBundle)) := by
  have hk := (ctlLoopm_accepted ht hbody).trans (if_neg (Nat.not_le.mpr hcount))
  refine (execControl_mod _ rfl h hk).trans ?_
  rw [Core.nextAfter_other (by simp)]

theorem exec_loopm_traps {x : Cause} (h : CanIssue s e.toNat)
    (hk : ctlLoopm (ctlCtx s (loopmWord e l t n)) (ctlStart s (loopmWord e l t n)) = .trap x) :
    exec (.loopm e l t n) s = .next (trapped s ((encode (.loopm e l t n)).getD 0) x) :=
  execControl_trap rfl h hk
end

/-! ### The index goes on (06 R154) -/

/-- The core after a merged issue: the index rises, and past the last one the core goes on behind the body. -/
def Core.loopAdvanced (k : Core) : Core :=
  let n := bits k.ctl.lix 0 40 + 1
  let ii := bits k.ctl.lsq 7 6
  let lb := bits k.ctl.lsq 1 6 + 1
  let teff := bits k.ctl.ltc 32 32
  let k1 := k.modCtl fun r => { r with lix := word n }
  if n + ii < teff * ii + lb ∧ 0 < teff then k1
  else ({ k1 with seq := {} }.setPc (bits k.ctl.lpc 0 51 + 32 * (lb + 1))).modCtl fun r => { r with lsq := setBits r.lsq 0 1 0 }

theorem loopGoesOn_iff (ctl : CtlRegs) (n : Nat) : loopGoesOn ctl n = true ↔
    n + bits ctl.lsq 7 6 < bits ctl.ltc 32 32 * bits ctl.lsq 7 6 + (bits ctl.lsq 1 6 + 1) ∧ 0 < bits ctl.ltc 32 32 := by
  simp only [loopGoesOn, Bool.and_eq_true, decide_eq_true_eq]

theorem advanceLoop_eq (w : W) (c : Nat) : w.advanceLoop c = w.modCore c Core.loopAdvanced :=
  W.modCore_congr _ _ (if_congr (loopGoesOn_iff _ _) rfl rfl)

/-! ### The issue of any bundle -/

/-- A bundle that changes the issuing core by `f` and meets nothing else issues (01 R19). -/
theorem issue_of_ok {s : State} {b : Bundle} {tbl : Nat → TrigFn} {cf : CtlFn} {f : Core → Core} (h : CanIssue s b.cls)
    (ht : tryBundle s.focus b tbl cf (W.of s) = { w := (W.of s).modCore s.focus f }) :
    (issue s.focus b tbl cf (W.of s)).commit s = issued s b.cls (f s.now) := by
  obtain ⟨-, hgate, hpre, hbkpt, hadmits⟩ := h
  have hclk : (W.of s).clk = s.clk := rfl
  simp only [issue, W.of_core, Bundle.passed, hbkpt, hclk, hgate, hpre, hadmits, Bool.false_eq_true, if_false, Nat.lt_irrefl, ht,
    Bundle.decodeFirst_nil, firstCause, List.filter_nil, Bool.not_true, W.modCore_modCore, W.commit_modCore]
  rfl

/-- A merged issue that meets nothing issues: its moves lead to `w`, with its control slot the issuing core has
changed by `f`, and the index rises (06 R154, R156). -/
theorem issue_merged {s : State} {b : Bundle} {tbl : Nat → TrigFn} {cf : CtlFn} {w : W} {f : Core → Core} (h : CanIssue s b.cls)
    (hcauses : decodeCauses (s.env s.focus) b.moves = []) (hacq : b.acqHeld (s.env s.focus) s.now = false)
    (hmoves : runMoves s.focus s (s.env s.focus) b b.moves { w := W.of s } = ({ w := w }, []))
    (hctl : ∀ q, cf (ctlBase s.focus b s q) (w.modCore s.focus (Core.succeed b)) = .ok ((W.of s).modCore s.focus f)) :
    (issue s.focus b tbl (inLoop s.focus cf) (W.of s)).commit s = issued s b.cls (f s.now).loopAdvanced := by
  have hst : Work.start s.focus b (W.of s) = { w := W.of s } := by
    simp only [Work.start, W.of_toState, hcauses, hacq, Bool.false_eq_true, if_false]
  refine issue_of_ok (f := fun k => (f k).loopAdvanced) h ?_
  simp only [tryBundle, runBundle, W.of_toState, hst, hmoves, runTrigs, inLoop, hctl, advanceLoop_eq, Work.join, Work.room,
    W.modCore_modCore, Option.isSome_none, Bool.or_false, Bool.false_eq_true, if_false, List.isEmpty_nil, Bool.not_true,
    Bool.and_false, Bool.false_and]

/-! ### Merged issues (06 R156) -/

section
variable {s : State} (hruns : s.now.runs = true) (hseq : s.now.seq.on = true)

include hruns hseq in
/-- The sequencer of a core that runs makes its merged issue. -/
theorem exec_mergedIssue : exec (.mergedIssue s.focus) s = go s (mergedIssue s.focus trigOf ctlOf (W.of s)) := by
  change go s (if _ then _ else _) = _
  rw [hruns, hseq, Bool.and_self, if_pos rfl, W.issueMerged]

include hruns hseq in
/-- Contributing bundles issue as one. -/
theorem exec_mergedIssue_some {b : Bundle} (hb : mergedBundle s.now = some b) :
    exec (.mergedIssue s.focus) s = go s (issue s.focus b trigOf (inLoop s.focus ctlSlot) (W.of s)) := by
  rw [exec_mergedIssue hruns hseq, mergedIssue, W.of_core]
  simp only [hb]

include hseq in
/-- Without contributors a wait cycle passes, and the index rises. -/
theorem exec_mergedIssue_none {n : Nat} (h : CanIssue s n) (hnone : contributors s.now = []) :
    exec (.mergedIssue s.focus) s = .next { s with cores := Tab.set s.cores s.focus (s.now.waited s.clk).loopAdvanced } := by
  obtain ⟨hruns, hgate, hpre, -, -⟩ := h
  have hb : mergedBundle s.now = none := by rw [mergedBundle, hnone]
  have hclk : (W.of s).clk = s.clk := rfl
  rw [exec_mergedIssue hruns hseq, mergedIssue, W.of_core]
  simp only [hb, hclk, hgate, hpre, Nat.lt_irrefl, if_false, go, advanceLoop_eq, W.waitCycle, W.modCore_modCore, W.commit_modCore]
  rfl
end

/-- The merged bundle of moves `l` without a control operation. -/
def mergedMoves (k : Core) (l : List SlotWork) (cls : Nat) (img : BitVec 256) : Bundle :=
  { bpc := bits k.ctl.lpc 0 51, moves := l, ctl := 0, ctlIt := 0, ctlPc := bits k.ctl.lpc 0 51, cls := cls, inBody := true
    img := img }

/-- A move slot of body bundle `j` in iteration `it`. -/
def SlotWork.inIteration (k : Core) (j it : Nat) (x : SlotWork) : SlotWork :=
  { x with it := it, pc := some (bits k.ctl.lpc 0 51 + 32 * (j + 1)) }

/-- One bundle without a control operation contributes: its moves, each in its iteration. -/
theorem mergedBundle_one {k : Core} {j it : Nat} {b : BitVec 256} (h : contributors k = [(j, it, b)])
    (hctl : ctlOpc (bundleSlot b 0) = 0) : ∃ img, mergedBundle k = some (mergedMoves k
      ((List.range 8).map fun i => ((bodyMoves b).map (SlotWork.inIteration k j it)).filter fun x => decide (x.slot = i)).flatten
      (ctlE (bundleSlot b 0)).toNat img) := by
  have hfind : ([(j, it, b)].find? fun x => decide (ctlOpc (bundleSlot x.2.2 0) ≠ 0)) = none := by simp [hctl]
  simp only [mergedBundle, h, hfind, List.foldl_cons, List.foldl_nil, Nat.max_def, Nat.zero_le, if_true]
  exact ⟨_, by simp only [List.map_cons, List.map_nil, List.flatten_cons, List.flatten_nil, List.append_nil]; rfl⟩

theorem bodyMoves_control (w : BitVec 32) : bodyMoves (Encoded.control w).bundle = [] := by
  rw [bodyMoves, Bundle.ofBits_control]

theorem bodyMoves_moveSlot {w : BitVec 32} (h : w ≠ 0) : bodyMoves (Encoded.moveSlot w).bundle = [moveSlot1 w] := by
  rw [bodyMoves, Bundle.ofBits_moveSlot _ h]; rfl

/-- A CNOP alone contributes: nothing but its energy class. -/
theorem mergedBundle_cnop {k : Core} {j it : Nat} {e : BitVec 4} (h : contributors k = [(j, it, (encode (.cnop e)).getD 0)]) :
    ∃ img, mergedBundle k = some (mergedMoves k [] e.toNat img) := by
  have hslot : bundleSlot (Encoded.control (controlWord e 0 0)).bundle 0 = controlWord e 0 0 := bundleSlot_control _ _
  obtain ⟨img, hb⟩ := mergedBundle_one (b := (Encoded.control (controlWord e 0 0)).bundle) h (by simp)
  exact ⟨img, by simpa [bodyMoves_control] using hb⟩

/-- A move alone contributes: it, in its own iteration. -/
theorem mergedBundle_move {k : Core} {j it : Nat} {g m : BitVec 4} {d sid : BitVec 12} (h0 : moveWord g d sid m ≠ 0)
    (h : contributors k = [(j, it, (encode (.move g d sid m)).getD 0)]) :
    ∃ img, mergedBundle k =
      some (mergedMoves k [(moveSlot1 (moveWord g d sid m)).inIteration k j it] 0 img) := by
  have hslot : bundleSlot (Encoded.moveSlot (moveWord g d sid m)).bundle 0 = 0 := bundleSlot_moveSlot _ _
  obtain ⟨img, hb⟩ := mergedBundle_one (b := (Encoded.moveSlot (moveWord g d sid m)).bundle) h (by rw [hslot]; rfl)
  rw [hslot, bodyMoves_moveSlot h0] at hb
  exact ⟨img, hb⟩

/-- CNOP in a loop body does nothing. -/
theorem ctlSlot_zero_merged {t : CCtx} {w : W} (hw : t.word = 0#32) (hb : t.inBody = true) : ctlSlot t w = .ok w := by
  have hop : ctlOf 0#32 = ctlNop := by simp [ctlOf, ctlOpc]
  have hcause : ctlCause t.env.ver t.handler true 0#32 = none := by
    simp [ctlCause, decodeControl, ctlOpc, ctlOpd, ctlE, fieldCause]
  simp only [ctlSlot, hw, hop, ctlNop, checked, hb, hcause, CCtx.fall, true_or, if_true]

/-- The core of a merged issue whose control operation is no FENCE: the format pipeline advances, the program counter stays. -/
def Core.mergedOn (k : Core) : Core := k.modCtl fun r => { r with fmt := fmtShift r.fmt }

theorem Core.modCtl_modRegs (k : Core) (f : Regs → Regs) (g : CtlRegs → CtlRegs) : (k.modRegs f).modCtl g = (k.modCtl g).modRegs f :=
  rfl
theorem Core.mergedOn_modRegs (k : Core) (f : Regs → Regs) : (k.modRegs f).mergedOn = k.mergedOn.modRegs f :=
  k.modCtl_modRegs f _

theorem Core.succeed_merged {b : Bundle} (hbody : b.inBody = true) (hctl : ctlOpc b.ctl ≠ 0x0e) (k : Core) :
    Core.succeed b k = k.mergedOn := by
  simp [Core.succeed, Core.mergedOn, hbody, fenceAfter_other hctl, Core.modCtl]

section
variable {k₀ : Core} {l : List SlotWork} {n : Nat} {img : BitVec 256}

theorem Core.succeed_mergedMoves (k : Core) : Core.succeed (mergedMoves k₀ l n img) k = k.mergedOn :=
  Core.succeed_merged (b := mergedMoves k₀ l n img) rfl (show ctlOpc 0#32 ≠ 0x0e by decide) k

theorem ctlSlot_mergedMoves {s : State} {c q : Nat} (w : W) : ctlSlot (ctlBase c (mergedMoves k₀ l n img) s q) w = .ok w :=
  ctlSlot_zero_merged (t := ctlBase c (mergedMoves k₀ l n img) s q) rfl rfl

/-- A merged issue without a control operation whose moves change the issuing core by `f`. -/
theorem issue_mergedMoves {s : State} {tbl : Nat → TrigFn} {w : W} {f : Core → Core} (h : CanIssue s n)
    (hcauses : decodeCauses (s.env s.focus) l = []) (hacq : (mergedMoves k₀ l n img).acqHeld (s.env s.focus) s.now = false)
    (hmoves : runMoves s.focus s (s.env s.focus) (mergedMoves k₀ l n img) l { w := W.of s } = ({ w := w }, []))
    (hw : w.modCore s.focus Core.mergedOn = (W.of s).modCore s.focus f) :
    (issue s.focus (mergedMoves k₀ l n img) tbl (inLoop s.focus ctlSlot) (W.of s)).commit s = issued s n (f s.now).loopAdvanced := by
  refine issue_merged (b := mergedMoves k₀ l n img) h hcauses hacq hmoves fun q => ?_
  rw [ctlSlot_mergedMoves, ← hw]
  exact congrArg Res.ok (W.modCore_congr _ _ (Core.succeed_mergedMoves _))
end

/-- A merged issue of no moves and a CNOP. -/
theorem exec_mergedIssue_cnop {s : State} {e : BitVec 4} {j it : Nat} (h : CanIssue s e.toNat) (hseq : s.now.seq.on = true)
    (hone : contributors s.now = [(j, it, (encode (.cnop e)).getD 0)]) :
    exec (.mergedIssue s.focus) s = .next (issued s e.toNat s.now.mergedOn.loopAdvanced) := by
  obtain ⟨img, hb⟩ := mergedBundle_cnop hone
  rw [exec_mergedIssue_some h.runs hseq hb]
  exact congrArg Host.Outcome.next (issue_mergedMoves (f := Core.mergedOn) h rfl (Bool.and_false _) rfl rfl)

/-- A merged issue of one move of the iteration to a scalar register. -/
theorem exec_mergedIssue_move {s : State} {g m : BitVec 4} {d sid : BitVec 12} {j it n : Nat} (h : CanIssue s 0)
    (hseq : s.now.seq.on = true) (hone : contributors s.now = [(j, it, (encode (.move g d sid m)).getD 0)])
    (hg : guardOn s.now.regs g = true) (hd : destOf (s.env s.focus).ver d.toNat = some (.sreg n))
    (hs : srcOf (s.env s.focus).ver sid.toNat = some .seqi) :
    exec (.mergedIssue s.focus) s = .next (issued s 0
      (s.now.mergedOn.modRegs fun r => r.setS n (viewWord m (r.sreg n) (word it))).loopAdvanced) := by
  have h0 : moveWord g d sid m ≠ 0 := by
    intro h0
    rw [(moveWord_eq_zero h0).2.2.1] at hs
    simp [srcOf] at hs
  obtain ⟨img, hb⟩ := mergedBundle_move h0 hone
  rw [exec_mergedIssue_some h.runs hseq hb]
  refine congrArg Host.Outcome.next (issue_mergedMoves
    (w := (W.of s).modCore s.focus fun k => k.modRegs fun r => r.setS n (viewWord m (r.sreg n) (word it)))
    (f := fun k => k.mergedOn.modRegs fun r => r.setS n (viewWord m (r.sreg n) (word it))) h ?_ ?_ ?_ ?_)
  · simp [decodeCauses, slotConflict_one, moveIllegal, SlotWork.inIteration, hd, hs]
  · simp [mergedMoves, Bundle.acqHeld, acqTouches, SlotWork.inIteration, hd, hs]
  · simp [mergedMoves, SlotWork.inIteration, runMoves, hg, hd, hs, readSrc, advanceSrc, writeDest, State.now]
  · simp only [W.modCore_modCore, Core.mergedOn_modRegs]

/-! ### LOOPX (06 R157) -/

/-- LOOPX with p7 lets the loop end with iteration `it`. -/
def Core.loopLeft (k : Core) (it : Nat) (p7 : Bool) : Core := k.modCtl fun r =>
  if p7 then { r with ltc := setBits r.ltc 32 32 (Nat.min (bits r.ltc 32 32) (it + 1)) } else r

theorem Core.loopLeft_false (k : Core) (it : Nat) : k.loopLeft it false = k := rfl

theorem decodeControl_loopxWord (e : BitVec 4) : decodeControl (controlWord e 7 0) = .ok (.loopx e) := decodeControl_loopx e

/-- In a loop body LOOPX passes the checks of its word. -/
theorem ctlLoopx_merged {t : CCtx} {w : W} {e : BitVec 4} (hword : t.word = controlWord e 7 0) (hbody : t.inBody = true) :
    ctlLoopx t w = .ok (if t.k.regs.pred 7 then w.modCore t.c fun k => k.loopLeft t.it true else w) := by
  have hcause : ctlCause t.env.ver t.handler t.inBody t.word = none := by
    rw [hword, hbody, ctlCause, decodeControl_loopxWord]
    rfl
  have hfall (w : W) : t.fall w = .ok w := if_pos (.inl hbody)
  rw [ctlLoopx, checked, hcause]
  simp only [hfall]
  split <;> rfl

/-- LOOPX in a merged issue. -/
theorem exec_loopx_on {s : State} {e : BitVec 4} (h : CanIssue s e.toNat) (hseq : s.now.seq.on = true) :
    exec (.loopx e) s = .next (issued s e.toNat (s.now.mergedOn.loopLeft
      (loopxBundle s.now ((encode (.loopx e)).getD 0)).ctlIt (s.now.regs.pred 7)).loopAdvanced) := by
  have hslot : bundleSlot ((encode (.loopx e)).getD 0) 0 = controlWord e 7 0 := bundleSlot_control (controlWord e 7 0) 0
  have hexec : exec (.loopx e) s = go s (issue s.focus (loopxBundle s.now ((encode (.loopx e)).getD 0)) noTrig
      (inLoop s.focus ctlLoopx) (W.of s)) := if_pos ⟨h.runs, hseq⟩
  obtain ⟨b, hb⟩ : ∃ b, loopxBundle s.now ((encode (.loopx e)).getD 0) = b := ⟨_, rfl⟩
  have hword : b.ctl = controlWord e 7 0 := by rw [← hb]; exact hslot
  have hcls : b.cls = e.toNat := by
    rw [← hb]
    exact (congrArg (fun w => (ctlE w).toNat) hslot).trans (by simp)
  have hbody : b.inBody = true := by rw [← hb]; rfl
  have hmoves : b.moves = [] := by rw [← hb]; rfl
  have hfree : b.acqHeld (s.env s.focus) s.now = false := by simp [Bundle.acqHeld, hmoves, acqTouches]
  have hsucc (k : Core) : Core.succeed b k = k.mergedOn := Core.succeed_merged hbody (by simp [hword]) k
  have hctl (q : Nat) : ctlLoopx (ctlBase s.focus b s q) ((W.of s).modCore s.focus (Core.succeed b)) =
      .ok ((W.of s).modCore s.focus fun k => k.mergedOn.loopLeft b.ctlIt (s.now.regs.pred 7)) := by
    have hk : (ctlBase s.focus b s q).k = s.now := rfl
    have hit : (ctlBase s.focus b s q).it = b.ctlIt := rfl
    have hc : (ctlBase s.focus b s q).c = s.focus := rfl
    rw [ctlLoopx_merged hword hbody, hk, hit, hc]
    cases s.now.regs.pred 7
    · exact congrArg Res.ok (W.modCore_congr _ _ ((hsucc _).trans (Core.loopLeft_false _ _).symm))
    · rw [if_pos rfl, W.modCore_modCore]
      exact congrArg Res.ok (W.modCore_congr _ _ (congrArg (fun k => k.loopLeft b.ctlIt true) (hsucc _)))
  rw [hexec, hb, go]
  refine congrArg Host.Outcome.next ?_
  rw [issue_merged (hcls ▸ h) (by rw [hmoves]; rfl) hfree (by rw [hmoves]; rfl) hctl, hcls]

/-- LOOPX outside a loop is illegal. -/
theorem exec_loopx_off {s : State} {e : BitVec 4} (h : CanIssue s e.toNat) (hseq : s.now.seq.on = false) :
    exec (.loopx e) s = .next (trapped s ((encode (.loopx e)).getD 0)
      { code := 2, slot := 0, sub := 0, i0 := word (controlWord e 7 0).toNat }) := by
  have hexec : exec (.loopx e) s = execControl (.loopx e) ctlLoopx s := if_neg fun hon => by simp [hseq] at hon
  have hcause (ver : Nat) (handler : Bool) : ctlCause ver handler false (controlWord e 7 0) =
      some (illegalControl (controlWord e 7 0) 0 0) := by
    rw [ctlCause, decodeControl_loopxWord]
    rfl
  rw [hexec]
  refine execControl_trap rfl h ?_
  rw [ctlLoopx, checked, ctlCtx_word, ctlCtx_inBody, hcause]
  rfl

/-- Settles O55: LOOPM by the checks of its body, a merged issue by what contributes, LOOPX as the control slot of a merged
issue; the index then goes on. -/
theorem loops : Obligations.Loops := by
  intro s e h
  refine ⟨fun l t n ht => ⟨fun hbody hcount => exec_loopm_starts h ht hbody hcount, fun hbody hcount => ?_, fun x hbody => ?_⟩,
    fun hseq hnone => exec_mergedIssue_none hseq h hnone, fun j it hseq hone => exec_mergedIssue_cnop h hseq hone,
    fun j it n g d sid m he hseq hone hg hd hs => ?_, fun hseq => exec_loopx_on h hseq, fun hseq => exec_loopx_off h hseq⟩
  · exact exec_loopm_traps h ((ctlLoopm_accepted ht hbody).trans (if_pos hcount))
  · exact exec_loopm_traps h (ctlLoopm_refused ht hbody)
  · subst he
    exact exec_mergedIssue_move h hseq hone hg hd hs

end Sys2Proof.Machine
end

section
/-!
The vector unit without a legend: each operation leaves what its number gives (07 R166..R176).
-/

namespace Sys2Proof.Machine

/-! ### What a trigger of the unit leaves -/

/-- A vector trigger captures its inputs and leaves the result of its number (R166, R167). -/
theorem trigVec_eq {s : State} {id : Nat} {m : BitVec 4} {src : Src} {v : Line} (hid : lineTrig id = true) :
    trigVec (trigCtx s id m v) (trigStart s src) = .ok ((trigStart s src).modCore s.focus fun k =>
      k.withItem { trigItem s id m (vecLatency id) 0 0
          (vecResult id m (s.now.regs.port 0x1c0) v (s.now.regs.port 0x1c1)) with
        lines := vecLines id (s.now.regs.port 0x1c0) v (s.now.regs.port 0x1c1) }) := by
  simp only [trigVec, trigCtx_val hid, trigCtx_c, trigStart_core, Core.fired_regs]
  rfl

/-- An operation of the vector block is what its number means; how it is encoded and run is read off its constructor. -/
theorem vectorOp {i : Slot → Instr} {lat : Nat} {useA useC : Bool}
    {wr : Bool → BitVec 4 → Line → Line → Line → List (Nat × Line)} (d : BitVec 12)
    (hr : ∀ m a b c, vecResult d.toNat m a b c = wr (m.getLsbD 0) m a b c)
    (he : ∀ f, encode (i f) = some (Encoded.moveSlot (moveWord f.g d f.s f.m)).bundle := by exact fun _ => rfl)
    (hx : ∀ f s, exec (i f) s = execTrigger (i f) trigVec s := by exact fun _ _ => rfl)
    (hd : trigPort d.toNat = true ∧ lineTrig d.toNat = true := by decide)
    (hl : vecLatency d.toNat = lat := by rfl)
    (hu : vecUsesA d.toNat = useA ∧ vecUsesC d.toNat = useC := by exact ⟨rfl, rfl⟩) :
    VectorOp d.toNat i lat useA useC wr := by
  obtain ⟨hport, hline⟩ := hd
  obtain ⟨rfl, rfl⟩ := hu
  subst hl
  have h : IsTrigger d.toNat d i Slot.m trigVec := ⟨rfl, he, hx, hport⟩
  unfold VectorOp Triggers
  refine h.triggersIf (fun _ _ _ _ => allowed_line hline) fun s f src v _ => ?_
  rw [trigVec_eq hline, hr, vecLines]

/-! ### Operands in the low bits of a (R166, R169, R173) -/

theorem sbits_word_eq_scalarOf (a : Line) : sbits a 0 64 = (scalarOf a).toInt := sbits_low_eq_toInt a 64

/-- The lane that VBCAST takes. -/
theorem bits_lane_eq_mod (fp : Bool) (a : Line) : (if fp then bits a 0 5 else bits a 0 6) = a.toNat % lanesOf fp := by
  cases fp <;> rfl

/-- The pool lane that an index byte of VSHUF names. -/
theorem shuffleIndex_eq_mod {fp : Bool} {i : Nat} (h : i < 128) : (if fp then i % 64 else i) = i % (2 * lanesOf fp) := by
  cases fp
  · exact (Nat.mod_eq_of_lt h).symm
  · rfl

/-! ### Masks (R170) -/

/-- Bit `q` of a mask is the relation of the lanes `q`. -/
theorem testBit_laneMask (f : FNum → FNum → Bool) :
    ∀ (a b : List FNum) (q : Nat), q < a.length → a.length = b.length →
      (laneMask f a b).testBit q = f (a.getD q .nan) (b.getD q .nan)
  | x :: a, y :: b, q, hq, hlen => by
    have hcons : laneMask f (x :: a) (y :: b) = Nat.bit (f x y) (laneMask f a b) := by
      rw [Nat.bit_val, Nat.add_comm]
      cases hxy : f x y <;> simp [laneMask, b2n, hxy]
    rw [hcons]
    cases q with
    | zero => exact Nat.testBit_bit_zero ..
    | succ q =>
      rw [Nat.testBit_bit_succ]
      exact testBit_laneMask f a b q (Nat.lt_of_succ_lt_succ hq) (Nat.succ.inj hlen)

/-- Settles O23: each operation by the result of its number; a mask lane by lane. -/
theorem vectorUnit : Obligations.VectorUnit := by
  refine ⟨?_, ?_, ?_⟩
  · exact ⟨vectorOp 0x1c2 fun _ _ _ _ => rfl, vectorOp 0x1c3 fun _ _ _ _ => rfl, vectorOp 0x1c4 fun _ _ _ _ => rfl,
      vectorOp 0x1c5 fun _ _ _ _ => rfl, vectorOp 0x1c6 fun _ _ _ _ => rfl, vectorOp 0x1c7 fun _ _ _ _ => rfl,
      vectorOp 0x1c8 fun _ _ _ _ => rfl, vectorOp 0x1c9 fun _ _ _ _ => rfl, vectorOp 0x1ca fun _ _ _ _ => rfl,
      vectorOp 0x1cb fun _ _ _ _ => rfl, vectorOp 0x1cc fun _ _ _ _ => rfl,
      vectorOp 0x1cd fun m a b c => by rw [← sbits_word_eq_scalarOf]; rfl⟩
  · exact ⟨vectorOp 0x1ce fun _ _ _ _ => rfl, vectorOp 0x1cf fun _ _ _ _ => rfl, vectorOp 0x1d0 fun _ _ _ _ => rfl,
      vectorOp 0x1d1 fun _ _ _ _ => rfl, vectorOp 0x1d2 fun _ _ _ _ => rfl, vectorOp 0x1d3 fun _ _ _ _ => rfl,
      vectorOp 0x1d4 fun _ _ _ _ => rfl, vectorOp 0x1d5 fun _ _ _ _ => rfl, testBit_laneMask⟩
  · refine ⟨vectorOp 0x1d6 fun m a b c => ?_, vectorOp 0x1d7 fun m a b c => ?_, vectorOp 0x1d8 fun _ _ _ _ => rfl,
      vectorOp 0x1d9 fun _ _ _ _ => rfl, vectorOp 0x1da fun _ _ _ _ => rfl, vectorOp 0x1db fun _ _ _ _ => rfl,
      vectorOp 0x1dc fun _ _ _ _ => rfl, vectorOp 0x1dd fun _ _ _ _ => rfl⟩
    · rw [← bits_lane_eq_mod]
      rfl
    · refine congrArg (fun l => [(0x1c0, packRaw (m.getLsbD 0) l)]) (List.map_congr_left fun q _ => ?_)
      refine ite_congr rfl (fun _ => rfl) fun hlt => ?_
      exact congrArg (fun j => List.getD _ j 0) (shuffleIndex_eq_mod (Nat.lt_of_not_le hlt))

end Sys2Proof.Machine
end

section
/-!
The function unit: each operation leaves `fnLane` of its lanes, and what that is at R183's special inputs (07 R182, R183).
-/

namespace Sys2Proof.Machine

/-! ### What a trigger of the unit leaves (R182) -/

theorem trigSfn_eq {s : State} {n : Nat} {m : BitVec 4} {src : Src} {v : Line} (hid : lineTrig (0x200 + n) = true) :
    trigSfn (trigCtx s (0x200 + n) m v) (trigStart s src) = .ok ((trigStart s src).modCore s.focus fun k =>
      k.withItem { trigItem s (0x200 + n) m 12 0 0
          [(0x200, packRaw (m.getLsbD 0) ((rawLanes (m.getLsbD 0) v).map fun x =>
            fnLane (if m.getLsbD 0 then 23 else 7) n x))] with
        lines := [v] }) := by
  simp only [trigSfn, trigCtx_val hid, trigCtx_id, Nat.add_sub_cancel_left]
  rfl

/-- An operation of the function block is the function of its number. -/
theorem functionOp {i : Slot → Instr} (n : Nat)
    (he : ∀ f, encode (i f) = some (Encoded.moveSlot (moveWord f.g (BitVec.ofNat 12 (0x200 + n)) f.s f.m)).bundle := by
      exact fun _ => rfl)
    (hx : ∀ f s, exec (i f) s = execTrigger (i f) trigSfn s := by exact fun _ _ => rfl)
    (hn : n < 0x40 := by decide) (hport : trigPort (0x200 + n) = true := by decide) : FunctionOp n i := by
  have hid : lineTrig (0x200 + n) = true := by simp [lineTrig]; omega
  have h : IsTrigger (0x200 + n) (BitVec.ofNat 12 (0x200 + n)) i Slot.m trigSfn :=
    ⟨Nat.mod_eq_of_lt (by omega), he, hx, hport⟩
  unfold FunctionOp Triggers
  exact h.triggersIf (fun _ _ _ _ => allowed_line hid) fun _ _ _ _ _ => trigSfn_eq hid

/-! ### Bit patterns (02 R49, R50) -/

section
variable {f x : Nat}

/-- The sign of a pattern is what lies above its exponent. -/
theorem div_sign_eq_b2n (h : x < 2 ^ (f + 9)) : x / 2 ^ (f + 8) = b2n (x.testBit (f + 8)) := by
  have hlt : x / 2 ^ (f + 8) < 2 := Nat.div_lt_of_lt_mul (by rwa [← pow_succ])
  rw [Nat.testBit_eq_decide_div_mod_eq, b2n]
  obtain hs | hs := Nat.le_one_iff_eq_zero_or_eq_one.mp (Nat.lt_succ_iff.mp hlt)
  · simp [hs]
  · simp [hs]

theorem FNum.decode_of_nan (he : x / 2 ^ f % 256 = 255) (hr : x % 2 ^ f ≠ 0) : FNum.decode f x = .nan := by
  simp [FNum.decode, he, hr]

/-- Exponent 0 reads as a zero of its sign: subnormals are flushed. -/
theorem FNum.decode_of_zero (he : x / 2 ^ f % 256 = 0) : FNum.decode f x = .fin (x.testBit (f + 8)) 0 0 := by
  simp [FNum.decode, he]

theorem FNum.decode_of_normal (h0 : 0 < x / 2 ^ f % 256) (h1 : x / 2 ^ f % 256 < 255) :
    FNum.decode f x = .fin (x.testBit (f + 8)) (2 ^ f + x % 2 ^ f) (((x / 2 ^ f % 256 : Nat) : Int) - 127 - f) := by
  simp only [FNum.decode, if_neg (Nat.ne_of_lt h1), if_neg (Nat.ne_of_gt h0)]

theorem FNum.decode_inf (f : Nat) (neg : Bool) : FNum.decode f (b2n neg * 2 ^ (f + 8) + 255 * 2 ^ f) = .inf neg := by
  have hx : b2n neg * 2 ^ (f + 8) + 255 * 2 ^ f = (b2n neg * 256 + 255) * 2 ^ f := by ring
  have hs : ((b2n neg * 256 + 255) * 2 ^ f).testBit (f + 8) = neg := by
    rw [Nat.testBit_mul_two_pow]
    cases neg <;> simp [b2n] <;> decide
  have he : (b2n neg * 256 + 255) * 2 ^ f / 2 ^ f % 256 = 255 := by
    rw [Nat.mul_div_cancel _ (Nat.two_pow_pos f), Nat.mul_add_mod_self_right]
  rw [hx, FNum.decode, he, hs, Nat.mul_mod_left]
  rfl

/-- A power of two in range is a pattern with fraction 0. -/
theorem FNum.round_two_pow (f : Nat) (neg : Bool) {e : Int} (h0 : -126 ≤ e) (h1 : e < 128) :
    (FNum.fin neg 1 e).round f = b2n neg * 2 ^ (f + 8) + (e + 127).toNat * 2 ^ f := by
  have hlog : Nat.log2 1 + 1 = 1 := by decide
  have hcarry : 2 ^ f ≠ 2 ^ (f + 1) := (Nat.pow_lt_pow_succ Nat.one_lt_two).ne
  have htop : e + ((1 : Nat) : Int) - (f + 1) + f = e := by push_cast; ring
  simp only [FNum.round, Nat.one_ne_zero, if_false, hlog, Nat.le_add_left, if_true, Nat.one_mul, Nat.add_sub_cancel, hcarry,
    htop, not_le.mpr h1, not_lt.mpr h0, Nat.sub_self, Nat.add_zero]

theorem FNum.round_one (f : Nat) (neg : Bool) : (FNum.fin neg 1 0).round f = b2n neg * 2 ^ (f + 8) + 127 * 2 ^ f :=
  FNum.round_two_pow f neg (by decide) (by decide)
theorem FNum.round_half (f : Nat) (neg : Bool) : (FNum.fin neg 1 (-1)).round f = b2n neg * 2 ^ (f + 8) + 126 * 2 ^ f :=
  FNum.round_two_pow f neg (by decide) (by decide)
theorem FNum.round_inf (f : Nat) (neg : Bool) : (FNum.inf neg).round f = b2n neg * 2 ^ (f + 8) + 255 * 2 ^ f := rfl

theorem FNum.round_nan (h : 7 ≤ f) : FNum.nan.round f = 0x7FC0 * 2 ^ (f - 7) := by
  obtain ⟨k, rfl⟩ := Nat.exists_eq_add_of_le h
  rw [FNum.round, Nat.add_sub_cancel_left, show 7 + k - 1 = k + 6 by omega]
  ring
end

/-! ### The special inputs (R183) -/

section
variable {f n x : Nat}

theorem fnLane_of_nan (h : FNum.decode f x = .nan) (hf : 7 ≤ f) : fnLane f n x = 0x7FC0 * 2 ^ (f - 7) := by
  simp only [fnLane, h, FNum.round_nan hf]

/-- The column +∞. -/
theorem fnLane_of_posInf (h : FNum.decode f x = .inf false) :
    1 ≤ n → n ≤ 12 → fnLane f n x = match n with | 5 | 6 => 0 | 8 | 9 | 12 => 127 * 2 ^ f | _ => 255 * 2 ^ f := by
  intro h1 hn
  simp only [fnLane, h]
  interval_cases n <;> simp [FNum.round_inf, FNum.round_one, b2n]

/-- The column −∞. -/
theorem fnLane_of_negInf (h : FNum.decode f x = .inf true) (hf : 7 ≤ f) :
    1 ≤ n → n ≤ 12 → fnLane f n x =
      match n with
      | 1 | 2 | 9 => 0
      | 3 | 4 | 6 | 7 => 0x7FC0 * 2 ^ (f - 7)
      | 8 | 12 => 2 ^ (f + 8) + 127 * 2 ^ f
      | _ => 2 ^ (f + 8) := by
  intro h1 hn
  simp only [fnLane, h, FNum.round_nan hf]
  interval_cases n <;> simp [FNum.round_one, b2n]

/-- The columns −0 and +0. -/
theorem fnLane_of_zero {neg : Bool} (h : FNum.decode f x = .fin neg 0 0) :
    1 ≤ n → n ≤ 12 → fnLane f n x =
      match n with
      | 1 | 2 => 127 * 2 ^ f
      | 3 | 4 => 2 ^ (f + 8) + 255 * 2 ^ f
      | 5 | 6 => b2n neg * 2 ^ (f + 8) + 255 * 2 ^ f
      | 9 => 126 * 2 ^ f
      | _ => b2n neg * 2 ^ (f + 8) := by
  intro h1 hn
  simp only [fnLane, h]
  interval_cases n <;> simp [FNum.round_inf, FNum.round_one, FNum.round_half, b2n]

/-- Negative finite values where the function has none. -/
theorem fnLane_of_neg {m : Nat} {e : Int} (h : FNum.decode f x = .fin true m e) (hm : m ≠ 0) (hf : 7 ≤ f)
    (hn : n = 3 ∨ n = 4 ∨ n = 6 ∨ n = 7) : fnLane f n x = 0x7FC0 * 2 ^ (f - 7) := by
  simp only [fnLane, h, FNum.round_nan hf, if_neg hm]
  obtain rfl | rfl | rfl | rfl := hn <;> rfl
end

/-- Settles O25: each operation by the function of its number; the special inputs by how their pattern is decoded; the
example lanes by evaluation. -/
theorem functions : Obligations.Functions := by
  refine ⟨functionOp 1, functionOp 2, functionOp 3, functionOp 4, functionOp 5, functionOp 6, functionOp 7, functionOp 8,
    functionOp 9, functionOp 10, functionOp 11, functionOp 12, fun f n x hf h1 hn hx => ?_, by decide +kernel⟩
  have hf7 : 7 ≤ f := by omega
  refine ⟨fun he hr => fnLane_of_nan (FNum.decode_of_nan he hr) hf7, fun h => ?_, fun h => ?_, fun he => ?_,
    fun hs h0 h255 hdom => ?_⟩
  · refine fnLane_of_posInf ?_ h1 hn
    rw [h, ← FNum.decode_inf f false, b2n]
    simp
  · refine fnLane_of_negInf ?_ hf7 h1 hn
    rw [h, ← FNum.decode_inf f true, b2n]
    simp
  · have hz := fnLane_of_zero (FNum.decode_of_zero he) h1 hn
    rw [← div_sign_eq_b2n hx] at hz
    exact hz
  · have hneg : x.testBit (f + 8) = true := Nat.testBit_of_two_pow_le_and_two_pow_add_one_gt hs hx
    have hd := FNum.decode_of_normal h0 h255
    rw [hneg] at hd
    exact fnLane_of_neg hd (by positivity) hf7 hdom

end Sys2Proof.Machine
end

section
/-!
The image of a tile: bit `n` of it is bit `n % 40` of word `n / 40`, line by line and back (08 R196, R197).
-/

namespace Sys2Proof.Machine

/-! ### Tables cut by their keys -/

section
variable {α : Type} {d : α}

/-- A table cut to some keys reads at those as it did. -/
theorem Tab.get_filter_keys {p : Nat → Bool} {k : Nat} (h : p k = true) (t : Tab α) :
    Tab.get d (t.filter fun e => p e.1) k = Tab.get d t k := by
  induction t with
  | nil => rfl
  | cons e t ih =>
    obtain ⟨j, x⟩ := e
    by_cases hj : j = k
    · simp [Tab.get, hj, h]
    · simp only [List.filter_cons, Tab.get, if_neg hj, ← ih]
      split
      · exact if_neg hj
      · rfl

/-- A table of the values of `f` at the keys `l`. -/
theorem Tab.get_map_keys {f : Nat → α} {k : Nat} {l : List Nat} (h : k ∈ l) : Tab.get d (l.map fun q => (q, f q)) k = f k := by
  induction l with
  | nil => exact absurd h List.not_mem_nil
  | cons q l ih =>
    by_cases hq : q = k
    · simp [Tab.get, hq]
    · simp [Tab.get, hq, ih ((List.mem_cons.mp h).resolve_left (Ne.symm hq))]
end

/-! ### The number that a table of words makes (R196) -/

theorem tileImage_cons (k : Nat) (v : Acc40) (t : Tab Acc40) :
    tileImage ((k, v) :: t) = tileImage t + v.toNat * 2 ^ (40 * k) := rfl

/-- Words from key `lo` on leave the bits below it zero. -/
theorem dvd_tileImage {lo : Nat} {t : Tab Acc40} (h : ∀ e ∈ t, lo ≤ e.1) : 2 ^ (40 * lo) ∣ tileImage t := by
  induction t with
  | nil => exact dvd_zero _
  | cons e t ih =>
    exact Nat.dvd_add (ih fun x hx => h x (List.mem_cons_of_mem _ hx))
      (Dvd.dvd.mul_left (pow_dvd_pow 2 (Nat.mul_le_mul_left _ (h e List.mem_cons_self))) _)

/-- Keys counted from `first` on: the number without its low words. -/
theorem tileImage_shifted {first : Nat} {t : Tab Acc40} (h : ∀ e ∈ t, first ≤ e.1) :
    2 ^ (40 * first) * tileImage (t.map fun e => (e.1 - first, e.2)) = tileImage t := by
  induction t with
  | nil => rfl
  | cons e t ih =>
    have hk : 40 * first + 40 * (e.1 - first) = 40 * e.1 := by
      have := h e List.mem_cons_self
      omega
    rw [List.map_cons, tileImage_cons, Nat.mul_add, ih fun x hx => h x (List.mem_cons_of_mem _ hx), tileImage_cons,
      Nat.mul_left_comm, ← Nat.pow_add, hk]

/-- Bit `n` of the number is bit `n % 40` of word `n / 40`. -/
theorem testBit_tileImage {t : Tab Acc40} (n : Nat) :
    ∀ {lo : Nat}, Tab.wfFrom 0 lo t = true → (tileImage t).testBit n = (Tab.get 0 t (n / 40)).getLsbD (n % 40) := by
  induction t with
  | nil => exact fun _ => by simp [tileImage]
  | cons e t ih =>
    obtain ⟨k, v⟩ := e
    intro lo h
    have ht : Tab.wfFrom 0 (k + 1) t = true := (Bool.and_eq_true_iff.mp h).2
    obtain ⟨r, hr⟩ := dvd_tileImage (Tab.nodup_keys t _ ht).2
    have htail := ih ht
    have hv : v.toNat * 2 ^ (40 * k) < 2 ^ (40 * (k + 1)) := by
      rw [Nat.mul_succ, Nat.pow_add, Nat.mul_comm]
      exact Nat.mul_lt_mul_of_pos_left v.isLt (Nat.two_pow_pos _)
    rw [tileImage_cons, hr, Nat.testBit_two_pow_mul_add _ hv]
    rw [hr, Nat.testBit_two_pow_mul] at htail
    split
    next hn =>
      have hz : (Tab.get 0 t (n / 40)).getLsbD (n % 40) = false := by
        rw [← htail, decide_eq_false (Nat.not_le.mpr hn), Bool.false_and]
      rw [Nat.mul_comm, Nat.testBit_two_pow_mul, BitVec.testBit_toNat, Tab.get]
      split
      next hk =>
        have hm : n - 40 * k = n % 40 := by omega
        rw [decide_eq_true (by omega), Bool.true_and, hm]
      next hk => rw [hz, decide_eq_false (by omega), Bool.false_and]
    next hn => rw [Tab.get, if_neg (by omega), ← htail, decide_eq_true (Nat.not_lt.mp hn), Bool.true_and]

/-! ### A line of the image, and the tile of 160 lines (R196, R197) -/

/-- The words from which line `q` is cut. -/
def nearLine (q i : Nat) : Bool := decide (128 * q / 5 ≤ i) && decide (i < 128 * q / 5 + 27)

theorem imageLine_eq (l : Tab Acc40) (q : Nat) : imageLine l q = BitVec.ofNat 1024
    (tileImage ((l.filter fun e => nearLine q e.1).map fun e => (e.1 - 128 * q / 5, e.2)) >>>
      (8 * (128 * q - 5 * (128 * q / 5)))) := rfl

/-- Bit `j` of line `q`. -/
theorem getLsbD_imageLine {l : Tab Acc40} (h : Tab.wf 0 l = true) (q : Nat) {j : Nat} (hj : j < 1024) :
    (imageLine l q).getLsbD j = (Tab.get 0 l ((1024 * q + j) / 40)).getLsbD ((1024 * q + j) % 40) := by
  have hfirst : ∀ e ∈ l.filter (fun e => nearLine q e.1), 128 * q / 5 ≤ e.1 := fun e he =>
    of_decide_eq_true (Bool.and_eq_true_iff.mp (List.mem_filter.mp he).2).1
  have hplace : 8 * (128 * q - 5 * (128 * q / 5)) + j + 40 * (128 * q / 5) = 1024 * q + j := by omega
  have hnear : nearLine q ((1024 * q + j) / 40) = true := by
    simp only [nearLine, Bool.and_eq_true, decide_eq_true_eq]
    omega
  have hbit (x n : Nat) : x.testBit n = (2 ^ (40 * (128 * q / 5)) * x).testBit (n + 40 * (128 * q / 5)) := by
    rw [Nat.testBit_two_pow_mul, decide_eq_true (Nat.le_add_left _ _), Bool.true_and, Nat.add_sub_cancel]
  rw [imageLine_eq, BitVec.getLsbD_ofNat, decide_eq_true hj, Bool.true_and, Nat.testBit_shiftRight, hbit,
    tileImage_shifted hfirst, hplace, testBit_tileImage _ (Tab.wf_filter 0 _ l h), Tab.get_filter_keys hnear]

/-- Bit `b` of word `i` of a tile lies in line `(40 i + b) / 1024`. -/
theorem getLsbD_imageTile (lines : Tab Line) {i b : Nat} (hi : i < 4096) (hb : b < 40) :
    (Tab.get 0 (imageTile lines) i).getLsbD b =
      (Tab.get 0 lines ((40 * i + b) / 1024)).getLsbD ((40 * i + b) % 1024) := by
  have hx : (List.range 160).foldr (fun q a => (Tab.get 0 lines q).toNat + 2 ^ 1024 * a) 0 =
      packNat 1024 ((List.range 160).map (Tab.get 0 lines)) := by
    rw [packNat, List.foldr_map]
  have hq : (40 * i + b) / 1024 < 160 := by omega
  have hword (x : Nat) : ((List.range 4096).map fun i => BitVec.ofNat 40 (x >>> (40 * i))).getD i 0 =
      BitVec.ofNat 40 (x >>> (40 * i)) := by
    simp [hi]
  rw [imageTile, hx, get_tabOfWords, hword, BitVec.getLsbD_ofNat, decide_eq_true hb, Bool.true_and, Nat.testBit_shiftRight,
    testBit_packNat (by decide)]
  simp [hq]

/-- Settles O37: bit by bit, through the number that the image is. -/
theorem spillFillRestores : Obligations.SpillFillRestores := by
  intro l hwf _ i hi
  refine BitVec.eq_of_getLsbD_eq fun b hb => ?_
  have hq : (40 * i + b) / 1024 ∈ List.range 160 := List.mem_range.mpr (by omega)
  rw [getLsbD_imageTile _ hi hb, Tab.get_map_keys hq, getLsbD_imageLine hwf _ (Nat.mod_lt _ (by decide)), Nat.div_add_mod]
  congr 2 <;> omega

end Sys2Proof.Machine
end

section
/-!
The steps of the whole-tile operations: a tile written whole, and a write that no AWAITGE waits for (08 R196; 11 R254).
-/

namespace Sys2Proof.Machine

/-! ### A tile written whole (R196) -/

section
variable {α : Type} {d : α} {k : Nat}

theorem Tab.get_append_left {a b : Tab α} (h : ∀ e ∈ b, e.1 ≠ k) : Tab.get d (a ++ b) k = Tab.get d a k := by
  induction a with
  | nil =>
    induction b with
    | nil => rfl
    | cons e b ih =>
      exact (if_neg (h e List.mem_cons_self)).trans (ih fun x hx => h x (List.mem_cons_of_mem _ hx))
  | cons e a ih => simp only [List.cons_append, Tab.get, ih]

theorem Tab.get_append_right {a b : Tab α} (h : ∀ e ∈ a, e.1 ≠ k) : Tab.get d (a ++ b) k = Tab.get d b k := by
  induction a with
  | nil => rfl
  | cons e a ih =>
    exact (if_neg (h e List.mem_cons_self)).trans (ih fun x hx => h x (List.mem_cons_of_mem _ hx))

theorem Tab.get_shift (n : Nat) (t : Tab α) : Tab.get d (t.map fun e => (n + e.1, e.2)) (n + k) = Tab.get d t k := by
  induction t with
  | nil => rfl
  | cons e t ih => simp only [List.map_cons, Tab.get, Nat.add_left_cancel_iff, ih]
end

section
variable (k : Core) {x i : Nat} {l : Tab Acc40}

/-- The tile written reads as the words given. -/
theorem Core.acc_setTile_same (hi : i < 4096) : (k.setTile x l).acc x i = Tab.get 0 l i := by
  have hlow : ∀ e ∈ k.accw.filter (fun e => decide (e.1 < x * 4096)), e.1 ≠ x * 4096 + i := fun e he => by
    have := of_decide_eq_true (List.mem_filter.mp he).2
    omega
  have hhigh : ∀ e ∈ k.accw.filter (fun e => decide (x * 4096 + 4096 ≤ e.1)), e.1 ≠ x * 4096 + i := fun e he => by
    have := of_decide_eq_true (List.mem_filter.mp he).2
    omega
  rw [Core.acc, Core.setTile, Tab.get_append_left hhigh, Tab.get_append_right hlow, Tab.get_shift]

/-- Every other tile reads as before. -/
theorem Core.acc_setTile_ne {y : Nat} (hl : ∀ e ∈ l, e.1 < 4096) (hy : y ≠ x) (hi : i < 4096) :
    (k.setTile x l).acc y i = k.acc y i := by
  have hmid : ∀ e ∈ l.map (fun e => (x * 4096 + e.1, e.2)), e.1 ≠ y * 4096 + i := fun e he => by
    obtain ⟨e, hm, rfl⟩ := List.mem_map.mp he
    have := hl e hm
    dsimp only
    omega
  rw [Core.acc, Core.setTile, Core.acc]
  dsimp only
  rcases Nat.lt_or_gt_of_ne hy with hlt | hgt
  · have hhigh : ∀ e ∈ k.accw.filter (fun e => decide (x * 4096 + 4096 ≤ e.1)), e.1 ≠ y * 4096 + i := fun e he => by
      have := of_decide_eq_true (List.mem_filter.mp he).2
      omega
    rw [Tab.get_append_left hhigh, Tab.get_append_left hmid,
      Tab.get_filter_keys (p := fun n => decide (n < x * 4096)) (decide_eq_true (by omega))]
  · have hlow : ∀ e ∈ k.accw.filter (fun e => decide (e.1 < x * 4096)), e.1 ≠ y * 4096 + i := fun e he => by
      have := of_decide_eq_true (List.mem_filter.mp he).2
      omega
    rw [List.append_assoc, Tab.get_append_right hlow, Tab.get_append_right hmid,
      Tab.get_filter_keys (p := fun n => decide (x * 4096 + 4096 ≤ n)) (decide_eq_true (by omega))]
end

/-- An image gives words of its tile alone. -/
theorem imageTile_keys_lt (lines : Tab Line) : ∀ e ∈ imageTile lines, e.1 < 4096 := by
  intro e he
  have hmem := List.mem_range.mp (List.of_mem_zip (List.mem_filter.mp he).1).1
  rwa [List.length_map, List.length_range] at hmem

/-! ### A write that no AWAITGE waits for (11 R254) -/

section
variable {w : W}

theorem wakeFrom_of_noAwait (h : w.NoAwait) (c fuel : Nat) : ∀ n, W.wakeFrom c fuel n w = w := by
  induction fuel with
  | zero => exact fun _ => rfl
  | succ fuel ih =>
    intro n
    rw [W.wakeFrom]
    split
    next => rfl
    next a ha =>
      have hop : a.op ≠ 0x28b := h c a (List.mem_of_getElem? ha)
      simp only [hop, decide_false, Bool.false_and, Bool.false_eq_true, if_false]
      exact ih _

/-- Where no AWAITGE is registered, nothing is performed. -/
theorem wake_of_noAwait (h : w.NoAwait) : w.wake = w := by
  rw [W.wake]
  generalize w.cores.filter _ = l
  induction l with
  | nil => rfl
  | cons e l ih => rw [List.foldl_cons, wakeFrom_of_noAwait h, ih]

theorem noAwait_modCore {c : Nat} {f : Core → Core} (h : w.NoAwait) (hf : (f (w.core c)).ats = (w.core c).ats) :
    (w.modCore c f).NoAwait := by
  intro e a ha
  rw [W.core_modCore] at ha
  split at ha
  next he => exact h c a (hf ▸ ha)
  next he => exact h e a ha

/-- A write of the core's own that leaves its pending operations as they were. -/
theorem wake_modCore {c : Nat} {f : Core → Core} (h : w.NoAwait) (hf : (f (w.core c)).ats = (w.core c).ats) :
    (w.modCore c f).wake = w.modCore c f := wake_of_noAwait (noAwait_modCore h hf)
end

/-- The end of an operation that no stepped bundle has triggered is no event. -/
theorem stepDone_unstepped {w : W} {c : Nat} {o : EngineOp} (h : o.stepped = false) : w.stepDone c o = w :=
  if_neg (h ▸ Bool.false_ne_true)

/-! ### The four steps (R196) -/

/-- Core `k` whose accumulator engine holds `o`. -/
def Core.withAcc (k : Core) (o : Option EngineOp) : Core := k.modEng fun e => { e with acc := o }

theorem accIs_of {k : Core} {o : EngineOp} {id : Nat} (h : k.eng.acc = some o) (hid : o.id = id) : k.accIs id = some o := by
  rw [Core.accIs, h]
  exact if_pos (decide_eq_true hid)

section
variable {s : State} {c : Nat} {o : EngineOp} (hacc : (s.core c).eng.acc = some o) (hstep : o.stepped = false)
include hacc

section
include hstep
theorem acczDone_eq (hn : s.NoAwait) (hid : o.id = 0x844) (hdue : o.u + o.dc ≤ (s.core c).pipe.run) :
    (W.of s).acczDone c = (W.of s).modCore c fun k => (k.setTile (bits o.trig 0 4) []).withAcc none := by
  have hacc := accIs_of hacc hid
  simp only [W.acczDone, W.of_core, hacc, hdue, if_true]
  rw [wake_modCore hn rfl, stepDone_unstepped hstep]
  rfl

theorem accfillDone_eq (hn : s.NoAwait) (hid : o.id = 0x846) (h160 : o.step = 160) (hdue : o.u + o.dc ≤ (s.core c).pipe.run) :
    (W.of s).accfillDone c = (W.of s).modCore c fun k => (k.setTile (bits o.trig 0 4) (imageTile o.buf)).withAcc none := by
  have hacc := accIs_of hacc hid
  simp only [W.accfillDone, W.of_core, hacc, h160, hdue, and_self, if_true]
  rw [wake_modCore hn rfl, stepDone_unstepped hstep]
  rfl

theorem accspillLine_eq (hid : o.id = 0x845) (hdue : o.u + o.step + 1 ≤ (s.core c).pipe.run) (hlt : o.step < 160)
    (hown : s.lineRight c c ((s.core c).ctx.getD 0) (o.firstLine + o.step) .own = true) :
    (W.of s).accspillLine c = (W.of s).modCore c fun k =>
      (k.setLine (o.firstLine + o.step) (imageLine o.sums o.step)).withAcc
        (if o.step = 159 then none else some { o with step := o.step + 1 }) := by
  have hacc := accIs_of hacc hid
  simp only [W.accspillLine, hacc, hdue, hlt, and_self, if_true, W.of_toState, hown, Bool.not_true,
    Bool.false_eq_true, if_false, stepDone_unstepped hstep, ite_self, decide_eq_true_eq]
  rfl
end

theorem accfillRead_eq (hid : o.id = 0x846) (hdue : o.behind (s.core c).pipe.run = true)
    (hlines : s.engineLines c [o.firstLine + o.step] = none) :
    (W.of s).accfillRead c = (W.of s).modCore c fun k => k.withAcc (some (o.fillRead k)) := by
  have hacc := accIs_of hacc hid
  simp only [W.accfillRead, hacc, hdue, if_true, W.of_toState, hlines]
  rfl
end

/-- A step that changes core `c` alone by `f`, which keeps the registers and every tile but `x`. -/
theorem tile_step {s : State} {c x : Nat} {f : Core → Core} {i : Instr} {w : W} (hi : exec i s = go s w)
    (hw : w = (W.of s).modCore c f) (hregs : (f (s.core c)).regs = (s.core c).regs)
    (htiles : ∀ y i, y ≠ x → i < 4096 → (f (s.core c)).acc y i = (s.core c).acc y i) :
    ∃ t, exec i s = .next t ∧
      (t.dies = s.dies ∧ t.mem = s.mem ∧ t.pkg = s.pkg ∧ (∀ e, e ≠ c → t.core e = s.core e) ∧
        (t.core c).regs = (s.core c).regs ∧ ∀ y i, y ≠ x → i < 4096 → (t.core c).acc y i = (s.core c).acc y i) ∧
      t.core c = f (s.core c) := by
  subst hw
  obtain ⟨hmem, hdies, hpkg, -, -, hother⟩ := onlyCore_modCore s c f
  have hc : (((W.of s).modCore c f).commit s).core c = f (s.core c) := W.core_modCore_same ..
  exact ⟨_, hi, ⟨hdies, hmem, hpkg, hother, by rw [hc, hregs], fun y i hy hlt => by rw [hc, htiles y i hy hlt]⟩, hc⟩

/-- Settles O36: each step by the one change of the core that it is. -/
theorem tileSteps : Obligations.TileSteps := by
  intro s c o k alone hacc hstep hn
  refine ⟨fun hid hdue => ?_, fun hid hdue hlt hown => ?_, fun hid hdue hlines => ?_, fun hid h160 hdue => ?_⟩
  · obtain ⟨t, hexec, ha, hc⟩ := tile_step (i := .acczDone c) rfl (acczDone_eq hacc hstep hn hid hdue) rfl
      fun y i hy hi => k.acc_setTile_ne (l := []) (by simp) hy hi
    exact ⟨t, hexec, ha, hc ▸ rfl, hc ▸ rfl, fun i hi => hc ▸ k.acc_setTile_same (l := []) hi⟩
  · obtain ⟨t, hexec, ha, hc⟩ := tile_step (x := bits o.trig 0 4) (i := .accspillLine c) rfl
      (accspillLine_eq hacc hstep hid hdue hlt hown) rfl fun y i hy hi => rfl
    exact ⟨t, hexec, ha, hc ▸ rfl, hc ▸ Tab.get_put_same .., fun ln hln => hc ▸ Tab.get_put_ne _ _ _ hln, hc ▸ rfl⟩
  · obtain ⟨t, hexec, ha, hc⟩ := tile_step (x := bits o.trig 0 4) (i := .accfillLineRead c) rfl
      (accfillRead_eq hacc hid hdue hlines) rfl fun y i hy hi => rfl
    exact ⟨t, hexec, ha, hc ▸ rfl, hc ▸ rfl, hc ▸ rfl⟩
  · obtain ⟨t, hexec, ha, hc⟩ := tile_step (i := .accfillDone c) rfl (accfillDone_eq hacc hstep hn hid h160 hdue) rfl
      fun y i hy hi => k.acc_setTile_ne (imageTile_keys_lt o.buf) hy hi
    exact ⟨t, hexec, ha, hc ▸ rfl, hc ▸ rfl, fun i hi => hc ▸ k.acc_setTile_same hi⟩

end Sys2Proof.Machine
end

section
/-!
The accumulator store: what each of its triggers answers on a free engine and a quiet tile (08 R194..R200).
-/

namespace Sys2Proof.Machine

/-! ### The seven triggers -/

theorem isTrigger_accrd : IsTrigger 0x841 0x841 .accrd Slot.m trigAccrd := ⟨rfl, fun _ => rfl, fun _ _ => rfl, by decide⟩
theorem isTrigger_accwr : IsTrigger 0x842 0x842 .accwr Slot.m trigAccwr := ⟨rfl, fun _ => rfl, fun _ _ => rfl, by decide⟩
theorem isTrigger_accadd : IsTrigger 0x843 0x843 .accadd Slot.m trigAccwr := ⟨rfl, fun _ => rfl, fun _ _ => rfl, by decide⟩
theorem isTrigger_accz : IsTrigger 0x844 0x844 .accz Slot.m trigAccz := ⟨rfl, fun _ => rfl, fun _ _ => rfl, by decide⟩
theorem isTrigger_accspill : IsTrigger 0x845 0x845 .accspill Slot.m trigAccspill :=
  ⟨rfl, fun _ => rfl, fun _ _ => rfl, by decide⟩
theorem isTrigger_accfill : IsTrigger 0x846 0x846 .accfill Slot.m trigAccfill :=
  ⟨rfl, fun _ => rfl, fun _ _ => rfl, by decide⟩
theorem isTrigger_acctsStatus : IsTrigger 0x847 0x847 (fun f => .acctsStatus ⟨f.g, f.s⟩) (fun _ => 0) trigAccts :=
  ⟨rfl, fun _ => rfl, fun _ _ => rfl, by decide⟩
theorem isTrigger_acctsLoad : IsTrigger 0x847 0x847 (fun f => .acctsLoad ⟨f.g, f.s⟩) (fun _ => 1) trigAccts :=
  ⟨rfl, fun _ => rfl, fun _ _ => rfl, by decide⟩
theorem isTrigger_acctsRewind : IsTrigger 0x847 0x847 (fun f => .acctsRewind ⟨f.g, f.s⟩) (fun _ => 2) trigAccts :=
  ⟨rfl, fun _ => rfl, fun _ _ => rfl, by decide⟩

/-- A trigger of the accumulator store takes a word, every modifier, and needs no right. -/
theorem lineTrig_acc {id : Nat} (h : id / 64 = 0x21) : lineTrig id = false := by
  simp only [lineTrig, Bool.and_eq_false_iff, decide_eq_false_iff_not]
  omega

theorem allowed_acc {s : State} {id : Nat} {m : BitVec 4} (h : id / 64 = 0x21) : Allowed s id m := by
  refine allowed_outside (by omega) ?_
  simp only [needsTier, Bool.and_eq_false_iff, decide_eq_false_iff_not]
  omega

/-! ### The core on which a trigger acts -/

section
variable (k : Core) (src : Src)
theorem Core.took_mx : (k.took src).eng.mx = k.eng.mx := by cases src <;> rfl
theorem Core.took_mxWait : (k.took src).eng.mxWait = k.eng.mxWait := by cases src <;> rfl
theorem Core.took_relFence : (k.took src).relFence = k.relFence := by cases src <;> rfl
theorem Core.took_slots : (k.took src).slots = k.slots := by cases src <;> rfl
theorem Core.took_accw : (k.took src).accw = k.accw := by cases src <;> rfl
theorem Core.fired_mx : (k.fired src).eng.mx = k.eng.mx := k.took_mx src
theorem Core.fired_mxWait : (k.fired src).eng.mxWait = k.eng.mxWait := k.took_mxWait src
theorem Core.fired_relFence : (k.fired src).relFence = k.relFence := k.took_relFence src
theorem Core.fired_slots : (k.fired src).slots = k.slots := k.took_slots src
theorem Core.fired_accw : (k.fired src).accw = k.accw := k.took_accw src

theorem mxMeets_fired (tile u n : Nat) : (k.fired src).mxMeets tile u n = k.mxMeets tile u n := by
  simp only [Core.mxMeets, Core.fired_mx, Core.fired_mxWait]
end

theorem noAwait_trigStart {s : State} (h : s.NoAwait) (src : Src) : (trigStart s src).NoAwait :=
  noAwait_modCore (w := W.of s) h (Core.fired_ats ..)

/-! ### The fence that a write releases (11 R262) -/

/-- A core whose pending release fence has taken effect. -/
def Core.unfenced (k : Core) : Core := { k with relFence := none }

theorem Core.unfenced_of_none {k : Core} (h : k.relFence = none) : k.unfenced = k := by
  rw [Core.unfenced, ← h]

/-- A write after a fence narrower than a die takes it back. -/
theorem fenced_modCore {w : W} {c : Nat} {f : Core → Core} (h : ∀ sc, (f (w.core c)).relFence = some sc → sc < 3) :
    (w.modCore c f).fenced c = w.modCore c fun k => (f k).unfenced := by
  rw [W.fenced]
  simp only [W.core_modCore_same]
  split
  next hr => exact W.modCore_congr _ _ (Core.unfenced_of_none hr).symm
  next sc hr =>
    rw [if_neg (Nat.not_le.mpr (h sc hr)), W.modCore_modCore]
    rfl

/-! ### The engine takes an operation (R194) -/

/-- The operation `id` of bundle `s.now.pcAddr`, which occupies the engine for `n` run cycles. -/
def accAsked (s : State) (id : Nat) (m : BitVec 4) (v : Line) (n : Nat) : EngineOp :=
  { id := id, m := m, trig := scalarOf v, seq := s.now.pipe.seq, u := s.now.pipe.run, dc := n, dt := n, started := true
    bpc := word s.now.pcAddr, stepped := s.now.stepArm }

/-- The item of an operation whose result is `l`. -/
def accItem (s : State) (id : Nat) (m : BitVec 4) (l : Line) : Item :=
  { trigItem s id m 4 0 0 [(0x840, l)] with kind := .res }

/-- The tile that the trigger value names. -/
def accTileOf (v : Line) : Nat := bits (scalarOf v) 0 4

/-- The `n` words of the tile from word `first` on are whole (13 R292). -/
def AccWhole (s : State) (v : Line) (first n : Nat) : Prop :=
  ∀ q, q < n → s.now.softAcc.contains (accTileOf v * 4096 + first + q) = false

/-- The engine is free, mx does not hold the tile in `n` run cycles, and nothing of the task on the tile pends. -/
structure AccMay (s : State) (v : Line) (n : Nat) : Prop where
  engine : s.now.accNow = none
  tile : s.now.mxMeets (accTileOf v) s.now.pipe.run n = false
  quiet : s.TileQuiet s.focus (accTileOf v)

section
variable {s : State} {id n : Nat} {m : BitVec 4} {v : Line} {src : Src} {f : EngineOp → W → Res} {w : W}

theorem accOp_trigCtx (hid : id / 64 = 0x21) : (trigCtx s id m v).accOp n = accAsked s id m v n := by
  rw [TCtx.accOp, trigCtx_v _ _ _ _ (lineTrig_acc hid)]
  rfl

theorem accStart_tile (hid : id / 64 = 0x21) (h847 : id ≠ 0x847) (h : AccMay s v n) (hstep : n = 1 → s.now.stepArm = false)
    (hf : f (accAsked s id m v n) ((trigStart s src).modCore s.focus fun k => k.withAcc (some (accAsked s id m v n))) = .ok w) :
    (trigCtx s id m v).accStart (trigStart s src) n f = .ok w := by
  have htile : (accAsked s id m v n).accTile = some (accTileOf v) := if_neg h847
  have hmeets : ((trigStart s src).core s.focus).mxMeets (accTileOf v) s.now.pipe.run n = false := by
    rw [trigStart_core, mxMeets_fired, h.tile]
  have hquiet : (W.of s).TileQuiet s.focus (accTileOf v) := h.quiet
  have hown : ((trigCtx s id m v).caught (accTileOf v)).ownTile s.focus (accTileOf v) s.now.pipe.seq = false := by
    rw [TCtx.caught, trigCtx_pre, trigCtx_c, catchUp_of_quiet hquiet]
    exact ownTile_of_quiet h.quiet _
  have hcatch := catchUp_of_quiet (w := trigStart s src) (tileQuiet_trigStart h.quiet src) s.now.pipe.seq
  have hdone : (if n = 1 then w.stepDone s.focus (accAsked s id m v n) else w) = w := by
    split
    next h1 => exact stepDone_unstepped (hstep h1)
    next => rfl
  simp only [TCtx.accStart, accOp_trigCtx hid, htile, trigCtx_k, trigCtx_c, trigCtx_run, trigCtx_pre, h.engine, hmeets, hown,
    hcatch, Option.isSome_none, Bool.or_self, Bool.false_eq_true, if_false]
  simp only [Core.withAcc] at hf
  simp only [hf, hdone]

theorem accStart_table (hv : s.now.accNow = none) (hstep : s.now.stepArm = false)
    (hf : f (accAsked s 0x847 m v 1)
      ((trigStart s src).modCore s.focus fun k => k.withAcc (some (accAsked s 0x847 m v 1))) = .ok w) :
    (trigCtx s 0x847 m v).accStart (trigStart s src) 1 f = .ok w := by
  have htile : (accAsked s 0x847 m v 1).accTile = none := rfl
  have hdone : w.stepDone s.focus (accAsked s 0x847 m v 1) = w := stepDone_unstepped hstep
  simp only [TCtx.accStart, accOp_trigCtx (id := 0x847) rfl, htile, trigCtx_k, trigCtx_c, hv, Option.isSome_none,
    Bool.false_eq_true, if_false]
  simp only [Core.withAcc] at hf
  simp only [hf, hdone, if_true]

/-- Words that are whole raise nothing. -/
theorem softWords_whole {first : Nat} (hid : id / 64 = 0x21) (r : Res)
    (h : AccWhole s v first n) :
    (trigCtx s id m v).softWords first n r = r := by
  have hnone : ((List.range n).map fun q => bits (scalarOf v) 0 4 * 4096 + first + q).find? s.now.softAcc.contains = none := by
    rw [List.find?_eq_none]
    intro i hi
    obtain ⟨q, hq, rfl⟩ := List.mem_map.mp hi
    exact Bool.eq_false_iff.mp (h q (List.mem_range.mp hq))
  simp only [TCtx.softWords, trigCtx_v _ _ _ _ (lineTrig_acc hid), trigCtx_k, hnone]

theorem tileCore_trigCtx (h : AccMay s v n) : (trigCtx s id m v).tileCore (accTileOf v) = s.now := tileCore_of_quiet h.quiet
end

/-- A pending release fence is narrower than a die. -/
def FenceNarrow (s : State) : Prop := ∀ sc, s.now.relFence = some sc → sc < 3

/-- The core on which a write begins: the fence has taken effect. -/
theorem fenced_begun {s : State} {src : Src} {o : EngineOp} (h : FenceNarrow s) :
    ((trigStart s src).modCore s.focus fun k => k.withAcc (some o)).fenced s.focus =
      (trigStart s src).modCore s.focus fun k => k.unfenced.withAcc (some o) :=
  fenced_modCore fun sc hsc => by
    rw [trigStart_core] at hsc
    exact h sc ((Core.fired_relFence ..).symm.trans hsc)

/-! ### Rows (R195) -/

section
variable {m : BitVec 4} {v : Word}

theorem eq_zero_or_one (h : m.toNat < 2) : m = 0 ∨ m = 1 := by
  revert m
  decide

theorem b2n_bitAt_zero (h : m.toNat < 2) : b2n (bitAt m 0) = m.toNat := by
  obtain rfl | rfl := eq_zero_or_one h <;> rfl

theorem accRow_eq (h : m.toNat < 2) (v : Word) : accRow m v =
    (64 * bits v 4 6 + (if m = 0 then 0 else 32 * bits v 10 1), if m = 0 then 64 else 32) := by
  obtain rfl | rfl := eq_zero_or_one h <;> rfl

theorem accLane_eq (h : m.toNat < 2) (l : Line) (q : Nat) :
    accLane m l q = if m = 0 then bf16 (lane l q) else fp32 (lane32 l q) := by
  obtain rfl | rfl := eq_zero_or_one h <;> rfl

/-- A row operation without reserved bits; a row of 64 words takes no half. -/
theorem accRowOk_of {rd : Bool} (hm : m.toNat < 2) (hv : v.toNat < 2 ^ 24) (hrd : rd = false → v.toNat < 2 ^ 11)
    (h10 : m = 0 → v.getLsbD 10 = false) : accRowOk rd m v = true := by
  have hm0 : bits m 1 3 = 0 := by obtain rfl | rfl := eq_zero_or_one hm <;> rfl
  have hv0 : bits v 24 40 = 0 := bits_high_eq_zero hv
  have hrd0 : (rd || decide (bits v 11 13 = 0)) = true := by
    cases rd with
    | true => rfl
    | false => exact decide_eq_true (bits_high_eq_zero (hrd rfl))
  have hhalf : (bitAt m 0 || !(bitAt v 10)) = true := by
    obtain rfl | rfl := eq_zero_or_one hm
    · rw [bitAt_eq_getLsbD v, h10 rfl]
      rfl
    · rfl
  simp [accRowOk, hm0, hv0, hrd0, hhalf]
end

/-! ### ACCRD (R195) -/

/-- The item of ACCRD: the row, with the note that bit 23 asks for. -/
def accrdItem (s : State) (m : BitVec 4) (v : Line) : Item :=
  { accItem s 0x841 m (accLine s.now m (scalarOf v)) with
    fx := if (scalarOf v).getLsbD 23 then .note (dieOf s.focus) (bits (scalarOf v) 11 12) m.toNat (if m = 0 then 64 else 32)
      else .none }

theorem trigAccrd_ok {s : State} {m : BitVec 4} {v : Line} {src : Src} (hm : m.toNat < 2) (h : AccMay s v 1)
    (hstep : s.now.stepArm = false)
    (hwhole : AccWhole s v (accRow m (scalarOf v)).1 (accRow m (scalarOf v)).2)
    (hv : (scalarOf v).toNat < 2 ^ 24) (h10 : m = 0 → (scalarOf v).getLsbD 10 = false)
    (hsv : (scalarOf v).getLsbD 23 = true → (s.env s.focus).svOk (bits (scalarOf v) 11 12) = true) :
    trigAccrd (trigCtx s 0x841 m v) (trigStart s src) = .ok ((trigStart s src).modCore s.focus fun k =>
      (k.withAcc (some (accAsked s 0x841 m v 1))).withItem (accrdItem s m v)) := by
  have hval : (trigCtx s 0x841 m v).v = scalarOf v := trigCtx_v _ _ _ _ (lineTrig_acc rfl)
  have hok : accRowOk true m (scalarOf v) = true := accRowOk_of hm hv (fun h => Bool.noConfusion h) h10
  have htile : (trigCtx s 0x841 m v).tileCore (bits (scalarOf v) 0 4) = s.now := tileCore_trigCtx h
  have hmine : ¬ ((scalarOf v).getLsbD 23 = true ∧ (!(s.env s.focus).svOk (bits (scalarOf v) 11 12)) = true) :=
    fun ⟨h23, hno⟩ => by simp [hsv h23] at hno
  rw [accRow_eq hm] at hwhole
  rw [trigAccrd]
  simp only [trigCtx_m, hval, hok, Bool.not_true, Bool.false_eq_true, if_false]
  refine accStart_tile rfl (by decide) h (fun _ => hstep) ?_
  simp only [bitAt_eq_getLsbD _ 23, trigCtx_env, if_neg hmine, accRow_eq hm,
    softWords_whole (id := 0x841) rfl _ hwhole, htile, b2n_bitAt_zero hm, W.addItem, trigCtx_c, W.modCore_modCore]
  rfl

/-! ### ACCWR and ACCADD (R195) -/

/-- The trigger that writes a row, or adds to it. -/
def accWriteId (add : Bool) : Nat := if add then 0x843 else 0x842

theorem accWriteId_block (add : Bool) : accWriteId add / 64 = 0x21 := by cases add <;> rfl

/-- The words that the operand line gives a row of the tile. -/
def accWords (s : State) (add : Bool) (m : BitVec 4) (v : Line) : List (Nat × Acc40) :=
  let x := bits (scalarOf v) 0 4
  let first := 64 * bits (scalarOf v) 4 6 + (if m = 0 then 0 else 32 * bits (scalarOf v) 10 1)
  (List.range (if m = 0 then 64 else 32)).map fun q =>
    let y := if m = 0 then bf16 (lane (s.now.regs.port 0x840) q) else fp32 (lane32 (s.now.regs.port 0x840) q)
    (first + q, if add then ((a40 (s.now.acc x (first + q))).add y).toA40 else y.toA40)

/-- Core `k` with the row written. -/
def accWritten (s : State) (add : Bool) (m : BitVec 4) (v : Line) (k : Core) : Core :=
  (k.unfenced.withAcc (some (accAsked s (accWriteId add) m v 1))).setAccs (bits (scalarOf v) 0 4) (accWords s add m v)

theorem trigAccwr_ok {s : State} {add : Bool} {m : BitVec 4} {v : Line} {src : Src} (hm : m.toNat < 2) (h : AccMay s v 1)
    (hstep : s.now.stepArm = false) (hnarrow : FenceNarrow s) (hawait : s.NoAwait)
    (hv : (scalarOf v).toNat < 2 ^ 11) (h10 : m = 0 → (scalarOf v).getLsbD 10 = false)
    (hwhole : add = true → AccWhole s v (accRow m (scalarOf v)).1 (accRow m (scalarOf v)).2) :
    trigAccwr (trigCtx s (accWriteId add) m v) (trigStart s src) =
      .ok ((trigStart s src).modCore s.focus (accWritten s add m v)) := by
  have hid := accWriteId_block add
  have hval : (trigCtx s (accWriteId add) m v).v = scalarOf v := trigCtx_v _ _ _ _ (lineTrig_acc hid)
  have hok : accRowOk false m (scalarOf v) = true := accRowOk_of hm (Nat.lt_trans hv (by decide)) (fun _ => hv) h10
  have hread : AccWhole s v (accRow m (scalarOf v)).1 (if accWriteId add = 0x843 then (accRow m (scalarOf v)).2 else 0) := by
    cases add with
    | true => exact hwhole rfl
    | false => exact fun q hq => absurd hq (Nat.not_lt_zero q)
  have hadd (a b : Acc40) : (if (trigCtx s (accWriteId add) m v).id = 0x842 then a else b) = if add then b else a := by
    cases add <;> rfl
  rw [trigAccwr]
  simp only [trigCtx_m, hval, hok, Bool.not_true, Bool.false_eq_true, if_false]
  refine accStart_tile hid (by cases add <;> decide) h (fun _ => hstep) ?_
  refine (softWords_whole hid _ hread).trans ?_
  simp only [trigCtx_c, fenced_begun hnarrow, W.modCore_modCore]
  rw [wake_modCore (noAwait_trigStart hawait src) rfl]
  refine congrArg Res.ok (W.modCore_congr _ _ ?_)
  have hacc (i j : Nat) : ((s.now.fired src).unfenced.withAcc (some (accAsked s (accWriteId add) m v 1))).acc i j = s.now.acc i j :=
    congrArg (Tab.get 0 · (i * 4096 + j)) (Core.fired_accw ..)
  have hport : (((trigStart s src).modCore s.focus fun k =>
      k.withAcc (some (accAsked s (accWriteId add) m v 1))).core s.focus).regs.port 0x840 = s.now.regs.port 0x840 := by
    rw [W.core_modCore_same, trigStart_core]
    exact congrArg (Regs.port · 0x840) (Core.fired_regs ..)
  simp only [trigStart_core, hport, hacc, hadd, accRow_eq hm, accLane_eq hm]
  rfl

/-! ### Whole tiles (R196) -/

section
variable {s : State} {v : Line} {src : Src} {id n : Nat}

theorem trigAccz_ok (h : AccMay s v 16) (hnarrow : FenceNarrow s) (hv : (scalarOf v).toNat < 16) :
    trigAccz (trigCtx s 0x844 0 v) (trigStart s src) = .ok ((trigStart s src).modCore s.focus fun k =>
      k.unfenced.withAcc (some (accAsked s 0x844 0 v 16))) := by
  have hval : (trigCtx s 0x844 0 v).v = scalarOf v := trigCtx_v _ _ _ _ (lineTrig_acc rfl)
  have hhigh : bits (scalarOf v) 4 60 = 0 := bits_high_eq_zero hv
  rw [trigAccz, hval, hhigh, if_neg (by simp)]
  exact accStart_tile rfl (by decide) h (fun h => absurd h (by decide)) (congrArg Res.ok (fenced_begun hnarrow))

/-- The 160 lines of a tile's image from the line that the value names: no bit is set above it, and each is allotted. -/
structure AccLines (s : State) (v : Line) : Prop where
  lt : (scalarOf v).toNat < 2 ^ 19
  allotted : ∀ j, j < 160 → s.allotted s.focus (s.env s.focus).ctx (bits (scalarOf v) 4 15 + j) = true

theorem imageCheck_lines (hid : id / 64 = 0x21) (h : AccLines s v) (r : Res) : (trigCtx s id 0 v).imageCheck r = r := by
  have hval : (trigCtx s id 0 v).v = scalarOf v := trigCtx_v _ _ _ _ (lineTrig_acc hid)
  have hhigh : bits (scalarOf v) 19 45 = 0 := bits_high_eq_zero h.lt
  have hnone : ((List.range 160).map (bits (scalarOf v) 4 15 + ·)).find?
      (fun ln => !(s.allotted s.focus (s.env s.focus).ctx ln)) = none := by
    rw [List.find?_eq_none]
    intro ln hln
    obtain ⟨j, hj, rfl⟩ := List.mem_map.mp hln
    simp [h.allotted j (List.mem_range.mp hj)]
  simp only [TCtx.imageCheck, trigCtx_m, hval, hhigh, trigCtx_pre, trigCtx_c, trigCtx_env, hnone, ne_eq, not_true_eq_false,
    or_self, if_false]

theorem trigAccspill_ok (h : AccMay s v 160)
    (hwhole : AccWhole s v 0 4096) (hl : AccLines s v) :
    trigAccspill (trigCtx s 0x845 0 v) (trigStart s src) = .ok ((trigStart s src).modCore s.focus fun k =>
      k.withAcc (some { accAsked s 0x845 0 v 160 with sums := s.now.tile (bits (scalarOf v) 0 4) })) := by
  have hval : (trigCtx s 0x845 0 v).v = scalarOf v := trigCtx_v _ _ _ _ (lineTrig_acc rfl)
  have htile : (trigCtx s 0x845 0 v).tileCore (bits (scalarOf v) 0 4) = s.now := tileCore_trigCtx h
  rw [trigAccspill, imageCheck_lines rfl hl]
  refine accStart_tile rfl (by decide) h (fun h => absurd h (by decide)) ?_
  simp only [softWords_whole (id := 0x845) rfl _ hwhole, hval, htile, trigCtx_c, W.modCore_modCore]
  rfl

theorem trigAccfill_ok (h : AccMay s v 160) (hnarrow : FenceNarrow s) (hl : AccLines s v)
    (hread : s.engineLines s.focus [bits (scalarOf v) 4 15] = none) :
    trigAccfill (trigCtx s 0x846 0 v) (trigStart s src) = .ok ((trigStart s src).modCore s.focus fun k =>
      k.unfenced.withAcc (some ((accAsked s 0x846 0 v 160).fillRead s.now))) := by
  have hfirst : (accAsked s 0x846 0 v 160).firstLine = bits (scalarOf v) 4 15 := rfl
  rw [trigAccfill, imageCheck_lines rfl hl]
  refine accStart_tile rfl (by decide) h (fun h => absurd h (by decide)) ?_
  simp only [trigCtx_pre, trigCtx_c, hfirst, hread, fenced_begun hnarrow, trigCtx_k, W.modCore_modCore]
  rfl
end

/-! ### The time-slot table (R198, R200) -/

section
variable {s : State} {v : Line} {src : Src} {m : BitVec 4}

/-- ACCTS answers with the table as it leaves it. -/
theorem acctsItem_modCore (f : Core → Core) : (trigCtx s 0x847 m v).acctsItem ((trigStart s src).modCore s.focus f) =
    .ok ((trigStart s src).modCore s.focus fun k =>
      (f k).withItem (accItem s 0x847 m (lineOf (word (f (s.now.fired src)).slots.word)))) := by
  simp only [TCtx.acctsItem, W.addItem, trigCtx_c, W.core_modCore_same, trigStart_core, W.modCore_modCore]
  rfl

theorem trigAccts_status (hv : scalarOf v = 0) (hfree : s.now.accNow = none) (hstep : s.now.stepArm = false) :
    trigAccts (trigCtx s 0x847 0 v) (trigStart s src) = .ok ((trigStart s src).modCore s.focus fun k =>
      (k.withAcc (some (accAsked s 0x847 0 v 1))).withItem (accItem s 0x847 0 (lineOf (word s.now.slots.word)))) := by
  have hval : (trigCtx s 0x847 0 v).v = 0 := (trigCtx_v _ _ _ _ (lineTrig_acc rfl)).trans hv
  have hslots (o : Option EngineOp) : ((s.now.fired src).withAcc o).slots = s.now.slots := Core.fired_slots ..
  show acctsStatus _ _ = _
  rw [acctsStatus, if_neg (not_not_intro hval)]
  refine accStart_table hfree hstep ((acctsItem_modCore _).trans ?_)
  rw [hslots]

/-- A core with time-slot table `x`. -/
def Core.withSlots (k : Core) (x : SlotTab) : Core := { k with slots := x }

theorem trigAccts_rewind (hv : scalarOf v = 0) (hfree : s.now.accNow = none) (hstep : s.now.stepArm = false)
    (hadm : s.now.slots.adm = none) :
    trigAccts (trigCtx s 0x847 2 v) (trigStart s src) = .ok ((trigStart s src).modCore s.focus fun k =>
      ((k.withSlots s.now.slots.rewind).withAcc (some (accAsked s 0x847 2 v 1))).withItem
        (accItem s 0x847 2 (lineOf (word s.now.slots.rewind.word)))) := by
  have hval : (trigCtx s 0x847 2 v).v = 0 := (trigCtx_v _ _ _ _ (lineTrig_acc rfl)).trans hv
  have hslots (o : Option EngineOp) : ((s.now.fired src).withAcc o).slots = s.now.slots := Core.fired_slots ..
  show acctsRewind _ _ = _
  rw [acctsRewind, if_neg (not_not_intro hval)]
  refine accStart_table hfree hstep ?_
  simp only [trigCtx_c, W.core_modCore_same, trigStart_core, hslots, hadm, Option.isSome_none, Bool.false_eq_true, if_false,
    W.modCore_modCore, acctsItem_modCore]
  refine congrArg Res.ok (W.modCore_congr _ _ ?_)
  simp only [trigStart_core, hslots]
  rfl

/-- The lines of the table at line `f`: its header, then 32 entries a line. -/
def tableLines (s : State) (f : Nat) : List Nat := (List.range ((bits (s.now.line f) 0 9 + 31) / 32 + 1)).map (f + ·)

theorem tableLines_eq (s : State) (f : Nat) :
    tableLines s f = f :: (List.range ((bits (s.now.line f) 0 9 + 31) / 32)).map (f + 1 + ·) := by
  rw [tableLines, List.range_succ_eq_map, List.map_cons, List.map_map]
  exact congrArg _ (List.map_congr_left fun i _ => by simp only [Function.comp_apply]; omega)

theorem trigAccts_load {x : SlotTab} (hv : (scalarOf v).toNat < 2 ^ 15) (hfree : s.now.accNow = none)
    (hstep : s.now.stepArm = false) (hadm : s.now.slots.adm = none)
    (h1 : 1 ≤ bits (s.now.line (scalarOf v).toNat) 0 9) (h256 : bits (s.now.line (scalarOf v).toNat) 0 9 ≤ 256)
    (hread : ∀ ln ∈ tableLines s (scalarOf v).toNat,
      readCheck s s.focus (s.env s.focus) false 1 0x847 ln = none ∧ s.now.present ln = true)
    (himage : slotImage ((tableLines s (scalarOf v).toNat).map s.now.line) = some x) :
    trigAccts (trigCtx s 0x847 1 v) (trigStart s src) = .ok ((trigStart s src).modCore s.focus fun k =>
      ((k.withSlots x).withAcc (some (accAsked s 0x847 1 v 1))).withItem (accItem s 0x847 1 (lineOf (word x.word)))) := by
  have hval : (trigCtx s 0x847 1 v).v = scalarOf v := trigCtx_v _ _ _ _ (lineTrig_acc rfl)
  have hslots (o : Option EngineOp) : ((s.now.fired src).withAcc o).slots = s.now.slots := Core.fired_slots ..
  have hhigh : bits (scalarOf v) 15 49 = 0 := bits_high_eq_zero hv
  have hlow : bits (scalarOf v) 0 15 = (scalarOf v).toNat := bits_low_eq hv
  rw [tableLines_eq] at hread himage
  generalize hrest : (List.range ((bits (s.now.line (scalarOf v).toNat) 0 9 + 31) / 32)).map ((scalarOf v).toNat + 1 + ·) =
    rest at hread himage
  obtain ⟨⟨hhead, hpres⟩, htail⟩ := List.forall_mem_cons.mp hread
  have hchecks : rest.findSome? (trigCtx s 0x847 1 v).tableLine = none :=
    List.findSome?_eq_none_iff.mpr fun ln hln => (htail ln hln).1
  have hpresent : rest.all s.now.present = true := List.all_eq_true.mpr fun ln hln => (htail ln hln).2
  have hcount : ¬ (bits (s.now.line (scalarOf v).toNat) 0 9 = 0 ∨ 256 < bits (s.now.line (scalarOf v).toNat) 0 9) := by omega
  have hline : (trigCtx s 0x847 1 v).tableLine (scalarOf v).toNat = none := hhead
  show acctsLoad _ _ = _
  rw [acctsLoad, hval, if_neg (not_not_intro hhigh)]
  refine accStart_table hfree hstep ?_
  simp only [hlow, hline, trigCtx_c, trigCtx_k, W.core_modCore_same, trigStart_core, hslots, hadm, Option.isSome_none, hpres,
    Bool.false_eq_true, Bool.not_true, or_self, if_false, hcount, hrest, hchecks, hpresent, himage, W.modCore_modCore,
    acctsItem_modCore]
  rfl
end

/-- Settles O35: each trigger by what it answers once its engine has taken the operation. -/
theorem accumulatorOperations : Obligations.AccumulatorOperations := by
  unfold Obligations.AccumulatorOperations
  intro op free whole narrow released free1 idle lines item
  have may {s : State} {v : Line} {n : Nat} : free s v n → AccMay s v n := fun ⟨he, ht, hq⟩ => ⟨he, ht, hq⟩
  have image {s : State} {v : Line} : lines s v → AccLines s v := fun ⟨hlt, hall⟩ => ⟨hlt, hall⟩
  refine ⟨?_, fun add => ?_, ?_, ?_, ?_, ?_, ?_, fun x => ?_⟩
  · exact isTrigger_accrd.triggersIf (fun _ _ _ _ => allowed_acc rfl)
      fun s f src v ⟨hm, ⟨hfree, hstep⟩, hwhole, hv, h10, hsv⟩ => trigAccrd_ok hm (may hfree) hstep hwhole hv h10 hsv
  · have htrig : ∃ d, IsTrigger (accWriteId add) d (if add then .accadd else .accwr) Slot.m trigAccwr := by
      cases add with
      | true => exact ⟨_, isTrigger_accadd⟩
      | false => exact ⟨_, isTrigger_accwr⟩
    obtain ⟨d, htrig⟩ := htrig
    exact htrig.triggersIf (fun _ _ _ _ => allowed_acc (accWriteId_block add))
      fun s f src v ⟨hm, ⟨hfree, hstep⟩, hnarrow, hawait, hv, h10, hwhole⟩ =>
        trigAccwr_ok hm (may hfree) hstep hnarrow hawait hv h10 hwhole
  · refine isTrigger_accz.triggersIf (fun _ _ _ _ => allowed_acc rfl) fun s f src v ⟨hm, hfree, hnarrow, hv⟩ => ?_
    rw [hm]
    exact trigAccz_ok (may hfree) hnarrow hv
  · refine isTrigger_accspill.triggersIf (fun _ _ _ _ => allowed_acc rfl) fun s f src v ⟨hm, hfree, hwhole, hlines⟩ => ?_
    rw [hm]
    exact trigAccspill_ok (may hfree) hwhole (image hlines)
  · refine isTrigger_accfill.triggersIf (fun _ _ _ _ => allowed_acc rfl)
      fun s f src v ⟨hm, hfree, hnarrow, hlines, hread⟩ => ?_
    rw [hm]
    exact trigAccfill_ok (may hfree) hnarrow (image hlines) hread
  · exact isTrigger_acctsStatus.triggersIf (fun _ _ _ _ => allowed_acc rfl)
      fun s f src v ⟨hv, hfree, hstep⟩ => trigAccts_status hv hfree hstep
  · exact isTrigger_acctsRewind.triggersIf (fun _ _ _ _ => allowed_acc rfl)
      fun s f src v ⟨hv, ⟨hfree, hstep⟩, hadm⟩ => trigAccts_rewind hv hfree hstep hadm
  · exact isTrigger_acctsLoad.triggersIf (fun _ _ _ _ => allowed_acc rfl)
      fun s f src v ⟨hv, ⟨hfree, hstep⟩, hadm, h1, h256, hread, himage⟩ =>
        trigAccts_load hv hfree hstep hadm h1 h256 hread himage

end Sys2Proof.Machine
end
